-- ==== Sys2Proof/Word.lean ====
section
/-! DEFINITION. Word.lean: the word types of the K9 (spec/00_scope.md R1, spec/01_device.md R14). -/

namespace Sys2Proof

/-- A byte of memory (R1). -/
abbrev Byte := BitVec 8
/-- A 32-bit scalar word, register or register element (R1, R14). -/
abbrev Word := BitVec 32
/-- A 64-bit value: a register pair or an address (R51). -/
abbrev DWord := BitVec 64
/-- A vector register: 32 lanes of 32 bits, lane `l` at bits [32l+31 : 32l] (R14: 128 bytes). -/
abbrev VReg := BitVec 1024
/-- A 128-byte line (R13), byte `i` at bits [8i+7 : 8i] (R1). -/
abbrev LineData := BitVec 1024

end Sys2Proof
end

