-- ==== Sys2Proof/Syntax.lean ====
section
/-! DEFINITION. Syntax.lean: the steps of the K9, one constructor of `Instr` per row of spec/opcode_table.json:
scalar words (R24 to R31), lane words (R32 to R39) and device events (spec/95_what_each_step_holds.md). -/

namespace Sys2Proof

/-- A field naming a scalar register (R25). -/
abbrev SReg := BitVec 8
/-- A field naming a mask, bits [3:0] of its field (R25). -/
abbrev MReg := BitVec 4

/-- Type of a scalar ALU word (R27). -/
inductive SType where
  | i32 | n32 | i64 | n64
  deriving DecidableEq, Repr

/-- Condition of `SSEL` (R26, major 0x1F). -/
inductive SelCond where
  | eq | ne | lt | ltu
  deriving DecidableEq, Repr

/-- Condition of `BC` (R28); code 15 is reserved. -/
inductive Cond where
  | al | eq | ne | lt | ge | ltu | geu | gt | le | gtu | leu | mi | pl | vs | vc
  deriving DecidableEq, Repr

/-- Form of `SLI` (R26, major 0x3E). -/
inductive SliForm where
  | w32 | i64 | n64
  deriving DecidableEq, Repr

/-- Scope codes (R6, R29). -/
inductive Scope where
  | wave | group | clus | dev | fab | sys
  deriving DecidableEq, Repr

/-- Order codes of a scalar word (R29). -/
inductive Order where
  | rlx | acq | rel | ar
  deriving DecidableEq, Repr

/-- Order codes of a lane word (R36). -/
inductive LOrder where
  | rlx | acq | rel | ar | comm
  deriving DecidableEq, Repr

/-- Type codes of a lane word (R34). -/
inductive LType where
  | i8 | i16 | i32 | i64 | n8 | n16 | n32 | n64 | f64 | f32 | f16 | bf16 | f8e4 | f8e5 | dx8 | e8
  deriving DecidableEq, Repr

/-- Operand select codes (R33). -/
inductive Sel where
  | reg | scalar | feed | imm
  deriving DecidableEq, Repr

/-- Select of vb in a half of a pair (R37). -/
inductive PSel where
  | reg | scalar | imm
  deriving DecidableEq, Repr

/-- The pairable operations (R37). -/
inductive POp where
  | vadd | vsub | vmul | vand | vor | vxor | vandn | vshl | vshr | vsar | vmin | vmax | vmov
  | fadd | fsub | fmul | ffma | fmin | fmax
  deriving DecidableEq, Repr

/-- The fields of an L-format word other than its opcode (R32, R33, R35). -/
structure LWord where
  guard : BitVec 4
  stop : Bool
  vd : BitVec 8
  va : BitVec 8
  vb : BitVec 8
  vc : BitVec 8
  ty : LType
  selA : Sel
  selB : Sel
  selC : Sel
  mods : BitVec 2
  imm : BitVec 32
  deriving DecidableEq, Repr

/-- The fields of an LX-format word other than its opcode (R32, R36). -/
structure LXWord where
  guard : BitVec 4
  stop : Bool
  vd : BitVec 8
  va : BitVec 8
  vb : BitVec 8
  sbase : BitVec 8
  ty : LType
  scope : Scope
  order : LOrder
  scale : BitVec 2
  claim : Bool
  nov : Bool
  aux : BitVec 6
  imm24 : BitVec 24
  deriving DecidableEq, Repr

/-- A half of a P-format word (R37); `flags` are bits [5:4], `flags` bit 0 negating va. -/
structure PHalf where
  op : POp
  guard : BitVec 3
  stop : Bool
  vd : BitVec 8
  va : BitVec 8
  vb : BitVec 8
  ty : LType
  sel : PSel
  flags : BitVec 2
  deriving DecidableEq, Repr

/-- Form of `LYCFG` (R402). -/
inductive LyForm where
  | init | grow | query
  deriving DecidableEq, Repr

/-- Form of `CSHEET` (R308, R315). -/
inductive SheetForm where
  | snapshot | decl | drop
  deriving DecidableEq, Repr

/-- A register field that a host writes with no row of its own (R117, R419); `pf`: the write comes through the
physical function. -/
inductive RegField where
  | qbase (q : Nat) | qclass (q : Nat) | qadmin (q : Nat) (pf : Bool) | qctx (q : Nat) | qsize (q : Nat)
  | qsaveOff (q : Nat) | qsaveLen (q : Nat)
  | mailboxReq | mailboxGo
  | readOnly
  deriving DecidableEq, Repr

/-- Where an uncorrectable soft error strikes (R255 rank 12, R281, R339). -/
inductive ErrSite where
  | l1Tags (core : Nat)
  | l1Line (core line : Nat)
  | scratch (gid off : Nat)
  | latent (line : Nat)
  deriving DecidableEq, Repr

/-- A request of an external agent to the home slice of a line it may reach (R104, R407). -/
inductive ExtReq where
  | read (pa : Nat)
  | getM (pa : Nat)
  | write (pa : Nat) (bytes : List Byte)
  | evict (pa : Nat)
  deriving DecidableEq, Repr

/-- A Glinor flit (R408), its CRC or GCM check's outcome given (R409, R426). -/
structure Flit where
  ty : BitVec 8
  cls : BitVec 3
  seq : BitVec 12
  ack : BitVec 12
  nak : Bool
  credits : BitVec 12
  agent : BitVec 12
  good : Bool
  deriving DecidableEq, Repr

/-- Kinds of external agent (R268). -/
inductive AgentKind where
  | host | pool | peer
  deriving DecidableEq, Repr

/-- Why an agent is declared lost or dead (R415, R421 AGENT_DEAD). -/
inductive LossCause where
  | softError | unansweredForward | notice | allFenced | timeout
  deriving DecidableEq, Repr

/-- A firmware image in flash as the boot ROM judges it (R422). -/
structure FwImage where
  ecdsaOk : Bool
  lmsOk : Bool
  secVersion : Nat
  deriving DecidableEq, Repr

/-- A management request (R417): its path (0 SMBus, 1 PCIe VDM, 2 mailbox), tag and argument words. -/
structure MgmtReq where
  path : Nat
  tag : BitVec 8
  arg0 : Word
  arg1 : Word
  arg2 : Word
  deriving DecidableEq, Repr

/-- An IDE_KM message for a CXL port's link stream (R426). -/
inductive IdeKm where
  | keyProg | keySetGo | keySetStop
  deriving DecidableEq, Repr

/-- The steps of the K9, one constructor per row of spec/opcode_table.json. -/
inductive Instr where
  /-- `SADD` (R181): Scalar add of two registers modulo the width. -/
  | sadd (t : SType) (d a b : SReg)
  /-- `SSUB` (R181): Scalar subtract of two registers. -/
  | ssub (t : SType) (d a b : SReg)
  /-- `SMUL` (R181): Scalar multiply, low half of the product. -/
  | smul (t : SType) (d a b : SReg)
  /-- `SMULH` (R181): Scalar multiply, high half of the product. -/
  | smulh (t : SType) (d a b : SReg)
  /-- `SDIV` (R181): Scalar divide truncated toward zero, with defined results for zero and overflow. -/
  | sdiv (t : SType) (d a b : SReg)
  /-- `SREM` (R181): Scalar remainder matching SDIV. -/
  | srem (t : SType) (d a b : SReg)
  /-- `SAND` (R181): Scalar bitwise AND. -/
  | sand (t : SType) (d a b : SReg)
  /-- `SOR` (R181): Scalar bitwise OR. -/
  | sor (t : SType) (d a b : SReg)
  /-- `SXOR` (R181): Scalar bitwise exclusive OR. -/
  | sxor (t : SType) (d a b : SReg)
  /-- `SANDN` (R181): Scalar AND with the complement of the second operand. -/
  | sandn (t : SType) (d a b : SReg)
  /-- `SSHL` (R181): Scalar shift left by a register count. -/
  | sshl (t : SType) (d a b : SReg)
  /-- `SSHR` (R181): Scalar logical shift right by a register count (N type codes). -/
  | sshr (wide : Bool) (d a b : SReg)
  /-- `SSAR` (R181): Scalar arithmetic shift right by a register count (I type codes). -/
  | ssar (wide : Bool) (d a b : SReg)
  /-- `SMIN` (R181): Scalar minimum, signed or unsigned by type. -/
  | smin (t : SType) (d a b : SReg)
  /-- `SMAX` (R181): Scalar maximum, signed or unsigned by type. -/
  | smax (t : SType) (d a b : SReg)
  /-- `SCMP` (R182): Scalar compare of two registers writing the fragment's flags. -/
  | scmp (t : SType) (a b : SReg)
  /-- `SADDC` (R182): Scalar add with carry writing the flags. -/
  | saddc (t : SType) (d a b : SReg)
  /-- `SADD_IMM` (R181): Scalar add of a sign-extended 10-bit immediate (also SMOV). -/
  | saddImm (d a : SReg) (i : BitVec 10)
  /-- `SMUL_IMM` (R181): Scalar multiply by an immediate. -/
  | smulImm (d a : SReg) (i : BitVec 10)
  /-- `SAND_IMM` (R181): Scalar AND with an immediate. -/
  | sandImm (d a : SReg) (i : BitVec 10)
  /-- `SOR_IMM` (R181): Scalar OR with an immediate. -/
  | sorImm (d a : SReg) (i : BitVec 10)
  /-- `SXOR_IMM` (R181): Scalar exclusive OR with an immediate. -/
  | sxorImm (d a : SReg) (i : BitVec 10)
  /-- `SSHL_IMM` (R181): Scalar shift left by an immediate count. -/
  | sshlImm (d a : SReg) (i : BitVec 5)
  /-- `SSHR_IMM` (R181): Scalar logical shift right by an immediate count. -/
  | sshrImm (d a : SReg) (i : BitVec 5)
  /-- `SSAR_IMM` (R181): Scalar arithmetic shift right by an immediate count. -/
  | ssarImm (d a : SReg) (i : BitVec 5)
  /-- `SMIN_IMM` (R181): Signed scalar minimum with an immediate. -/
  | sminImm (d a : SReg) (i : BitVec 10)
  /-- `SMAX_IMM` (R181): Signed scalar maximum with an immediate. -/
  | smaxImm (d a : SReg) (i : BitVec 10)
  /-- `SCMP_IMM` (R182): Scalar compare with an immediate writing the flags. -/
  | scmpImm (a : SReg) (i : BitVec 10)
  /-- `STST_IMM` (R182): Scalar bit test against an immediate writing the flags. -/
  | ststImm (a : SReg) (i : BitVec 10)
  /-- `SBFX` (R183): Scalar bit-field extract by immediate width and offset. -/
  | sbfx (d a : SReg) (w o : BitVec 5)
  /-- `SEXT` (R183): Scalar sign extension from an immediate bit index. -/
  | sext (d a : SReg) (b : BitVec 5)
  /-- `SCLZ` (R183): Count leading zeros of a register or pair. -/
  | sclz (d a : SReg) (wide : Bool)
  /-- `SPOPC` (R183): Population count of a register or pair. -/
  | spopc (d a : SReg) (wide : Bool)
  /-- `STST` (R182): Scalar bit test of two registers writing the flags. -/
  | stst (a b : SReg)
  /-- `SSEL` (R183): Select one of two registers by a flag condition. -/
  | ssel (d a b : SReg) (c : SelCond)
  /-- `SLI` (R183): Load a 32-bit immediate from a second word into a register or pair. -/
  | sli (f : SliForm) (d : SReg) (imm : Word)
  /-- `BC` (R184): Conditional branch on the fragment's flags; cond 0 is B. -/
  | bc (c : Cond) (o : BitVec 22)
  /-- `BMZ` (R184): Branch when a mask is zero. -/
  | bmz (m : MReg) (o : BitVec 22)
  /-- `BMNZ` (R184): Branch when a mask is nonzero. -/
  | bmnz (m : MReg) (o : BitVec 22)
  /-- `CALL` (R184): Branch and write the return address to s190, s191. -/
  | call (o : BitVec 22)
  /-- `SPLIT` (R171): Divide the issuing fragment by a mask into two fragments. -/
  | split (m : MReg) (o : BitVec 22)
  /-- `JOIN` (R173): Wait at a token for reconvergence of fragments of the greatest depth. -/
  | join (t : BitVec 10)
  /-- `EXIT` (R174): End the issuing fragment and, with the last, the wave. -/
  | exit
  /-- `YIELD` (R186): Restart the wave's issue age. -/
  | yield
  /-- `NOP` (R186): Do nothing. -/
  | nop
  /-- `RET` (R184): Branch to the address held in a register pair. -/
  | ret (a : SReg)
  /-- `LDRAIN` (R89): Wait until earlier strips retire and their writes perform at device scope. -/
  | ldrain
  /-- `REGROUP` (R178): Fuse two sparse waves of one group and partition into the lower one. -/
  | regroup (d a : SReg)
  /-- `HINT` (R186): A hint on which the device does not act. -/
  | hint (n : BitVec 8)
  /-- `LRUN` (R185): Enqueue a strip of lane words by index and count. -/
  | lrun (l : BitVec 18) (n : BitVec 8)
  /-- `LRUNX` (R185): Enqueue a strip whose index and length come from registers. -/
  | lrunx (a b : SReg)
  /-- `FEEDSET` (R177): Configure a feed with base, stride, count and element size. -/
  | feedset (f : BitVec 2) (a b : SReg) (z : BitVec 2)
  /-- `FEEDSTOP` (R177): Stop a feed and discard its buffered vectors. -/
  | feedstop (f : BitVec 2)
  /-- `MAND` (R187): AND of two masks. -/
  | mand (d a b : MReg)
  /-- `MOR` (R187): OR of two masks. -/
  | mor (d a b : MReg)
  /-- `MXOR` (R187): Exclusive OR of two masks. -/
  | mxor (d a b : MReg)
  /-- `MANDN` (R187): AND of a mask with the complement of another. -/
  | mandn (d a b : MReg)
  /-- `MNOT` (R187): Complement a mask. -/
  | mnot (d a : MReg)
  /-- `MSET` (R187): Write a mask from a scalar register. -/
  | mset (d : MReg) (a : SReg)
  /-- `MGET` (R187): Read a mask into a scalar register. -/
  | mget (d : SReg) (a : MReg)
  /-- `MPOP` (R187): Population count of a mask into a scalar register. -/
  | mpop (d : SReg) (a : MReg)
  /-- `MFIRST` (R187): Index of the lowest set bit of a mask, or 32. -/
  | mfirst (d : SReg) (a : MReg)
  /-- `SLD` (R189): Relaxed device-scope scalar load with an immediate displacement. -/
  | sld (d a : SReg) (i : BitVec 10)
  /-- `SST` (R189): Relaxed device-scope scalar store with an immediate displacement. -/
  | sst (d a : SReg) (i : BitVec 10)
  /-- `SLDK` (R189): Scalar load through the constant cache. -/
  | sldk (d a : SReg) (i : BitVec 10)
  /-- `SLD_ORDERED` (R189): Scalar load with an explicit order, scope and width. -/
  | sldOrdered (d a : SReg) (s : Scope) (o : Order) (wide : Bool)
  /-- `SST_ORDERED` (R189): Scalar store with an explicit order, scope and width. -/
  | sstOrdered (d a : SReg) (s : Scope) (o : Order) (wide : Bool)
  /-- `BINIT` (R244): Set or free a named barrier's expected count. -/
  | binit (d a : SReg) (n : BitVec 4)
  /-- `BARR` (R244): Arrive at a named barrier without waiting. -/
  | barr (d : SReg) (n : BitVec 4)
  /-- `BWAIT` (R244): Sleep until a barrier's phase differs from a token. -/
  | bwait (d a : SReg) (n : BitVec 4)
  /-- `BSYNC` (R244): Arrive at a barrier and sleep until its phase completes. -/
  | bsync (d : SReg) (n : BitVec 4)
  /-- `BARRX` (R244): Send one arrival to a barrier of another group in the cluster. -/
  | barrx (d a : SReg) (n : BitVec 4)
  /-- `WAITA` (R247): Sleep until a watched word differs from a value or a WAKE arrives. -/
  | waita (d a : SReg) (s : Scope)
  /-- `WAKE` (R247): Release and rouse WAITA watchers of a line. -/
  | wake (a : SReg) (s : Scope)
  /-- `FENCE` (R264): Order accesses of both streams at an order and scope. -/
  | fence (s : Scope) (o : Order)
  /-- `BACKOFF` (R249): Detach and delay lanes of a mask by a random interval. -/
  | backoff (m : MReg)
  /-- `KLAUNCH` (R143): Launch a task record at once, placing it on its queue's ready list. -/
  | klaunch (d a : SReg)
  /-- `TSPAWN` (R143): Open a task record, or place it when its count is zero. -/
  | tspawn (d a : SReg)
  /-- `TDEC` (R144): Decrement a task's dependence counter, placing it at zero. -/
  | tdec (d a : SReg)
  /-- `TADD` (R144): Add to an open task's dependence counter. -/
  | tadd (d a : SReg) (n : BitVec 6)
  /-- `VGIVE` (R150): Release the top vector registers of a wave to its partition pool. -/
  | vgive (d : SReg) (n : BitVec 6)
  /-- `VCLAIM` (R150): Claim vector registers from the partition pool, parking in order. -/
  | vclaim (d : SReg) (n : BitVec 6)
  /-- `CARVE` (R153): Set core SRAM bank modes and hold bits explicitly. -/
  | carve (d a : SReg) (hold : Bool)
  /-- `MQSEND` (R156): Send a 128-byte scratch message to a cluster message queue. -/
  | mqsend (d a : SReg)
  /-- `MQRECV` (R156): Receive the head message of the group's queue into scratch. -/
  | mqrecv (d a : SReg) (tryIt : Bool)
  /-- `MQCOUNT` (R156): Read the group's queue entry count or its handle. -/
  | mqcount (d : SReg) (id : Bool)
  /-- `QPOST` (R130): Post a fault record to the context's fault queue. -/
  | qpost (d a : SReg)
  /-- `TKILL` (R365): Kill the issuing group or its whole grid from a handler. -/
  | tkill (grid : Bool)
  /-- `XCOPY` (R318): Issue a strided copy on the transfer engine. -/
  | xcopy (d a : SReg) (q : BitVec 2)
  /-- `XGATHER` (R318): Issue an indexed gather on the transfer engine. -/
  | xgather (d a : SReg) (q : BitVec 2)
  /-- `XSCATTER` (R318): Issue an indexed scatter on the transfer engine. -/
  | xscatter (d a : SReg) (q : BitVec 2)
  /-- `XFILL` (R318): Issue a pattern fill on the transfer engine. -/
  | xfill (d a : SReg) (q : BitVec 2)
  /-- `XCANCEL` (R327): Cancel an engine operation of the group by handle. -/
  | xcancel (d a : SReg)
  /-- `EVPOP` (R328): Take the head completion record of an event queue if any. -/
  | evpop (d : SReg) (q : BitVec 2)
  /-- `EVWAIT` (R328): Sleep until an event queue holds a record, then take it. -/
  | evwait (d : SReg) (q : BitVec 2)
  /-- `EVCFG` (R329): Set the depths of the wave's four event queues. -/
  | evcfg (d a : SReg)
  /-- `TRAYFLUSH` (R237): Trigger the grid's filling trays of one or all configurations on the core. -/
  | trayflush (d a : SReg) (all : Bool)
  /-- `TRAYCFG` (R238): Set the age limit of a tray configuration for the grid. -/
  | traycfg (d a : SReg)
  /-- `LYCFG` (R402): Initialize, grow or query a layered target's node pool. -/
  | lycfg (d a : SReg) (f : LyForm)
  /-- `MLOOP` (R351): Run a team matrix loop from scratch operands as one engine operation. -/
  | mloop (d a : SReg) (q : BitVec 2)
  /-- `ACCOPEN` (R344): Open an accumulator, recalling its lines into state A. -/
  | accopen (d a : SReg)
  /-- `ACCDRAIN` (R345): Seal an open accumulator and start its drain into the target tensor. -/
  | accdrain (d a : SReg) (q : BitVec 2)
  /-- `ACCABORT` (R346): Abort an accumulator and cancel any drain. -/
  | accabort (d a : SReg)
  /-- `ACCWAIT` (R347): Sleep while an accumulator drains, then return its state. -/
  | accwait (d a : SReg)
  /-- `PGMAP` (R309): Install a taken frame as the leaf of a reserved-range page. -/
  | pgmap (d a : SReg) (w x : Bool)
  /-- `PGTAKE` (R309): Take a pooled frame, or return a taken one with .put. -/
  | pgtake (d : SReg) (put : Bool)
  /-- `PGUNMAP` (R310): Remove a reserved-range leaf, optionally freeing its frame. -/
  | pgunmap (d a : SReg) (free : Bool)
  /-- `PGINV` (R311): Invalidate translations of a range of pages. -/
  | pginv (d a : SReg)
  /-- `PGHARVEST` (R312): Turn page write-grant bits into leaf dirty bits. -/
  | pgharvest (d a : SReg)
  /-- `PGMIGRATE` (R313): Move pages' homes between pool and local under a descriptor. -/
  | pgmigrate (d a : SReg)
  /-- `PGQUERY` (R314): Return a snapshot of a page's mapping and frame state. -/
  | pgquery (d a : SReg)
  /-- `CSHEET` (R315): Declare, drop or snapshot a contact-sheet range. -/
  | csheet (d a : SReg) (f : SheetForm)
  /-- `HALODECL` (R288): Declare a halo region and set its lines to state H. -/
  | halodecl (d a : SReg)
  /-- `HALOPUSH` (R288): Push the core's dirty lines of a halo region. -/
  | halopush (d a : SReg)
  /-- `HALOEND` (R288): End a halo region, pulling owners' dirty lines and freeing its number. -/
  | haloend (d a : SReg)
  /-- `LCLAIM` (R284): Reclaim a fogged line as zeros. -/
  | lclaim (d a : SReg)
  /-- `CWB` (R265): Write back dirty lines of an address range. -/
  | cwb (d a : SReg)
  /-- `CINV` (R265): Write back and invalidate lines of an address range. -/
  | cinv (d a : SReg)
  /-- `SGET` (R188): Read a control register into a scalar register or pair. -/
  | sget (d : SReg) (r : BitVec 8)
  /-- `SSET` (R188): Write a writable control register at privilege S. -/
  | sset (a : SReg) (r : BitVec 8)
  /-- `SVC` (R362): Enter the supervisor handler on request with a service code. -/
  | svc (n : BitVec 8)
  /-- `TRAP` (R362): Enter the handler with the TRAP cause and a code. -/
  | trap (n : BitVec 8)
  /-- `ERET` (R363): End a trap and resume at TRAPPC. -/
  | eret
  /-- `ERET_RETRY` (R363): End a trap and retry the pending work. -/
  | eretRetry
  /-- `ERET_SKIP` (R363): End a trap and skip the pending work. -/
  | eretSkip
  /-- `LANE_PAIR` (R37): Issue a P-format word carrying two pairable lane operations. -/
  | lanePair (x y : PHalf)
  /-- `VADD` (R195): Lane integer add. -/
  | vadd (w : LWord)
  /-- `VSUB` (R195): Lane integer subtract. -/
  | vsub (w : LWord)
  /-- `VMUL` (R195): Lane integer multiply, low half. -/
  | vmul (w : LWord)
  /-- `VMULH` (R195): Lane integer multiply, high half. -/
  | vmulh (w : LWord)
  /-- `VMAD` (R195): Lane integer multiply-add. -/
  | vmad (w : LWord)
  /-- `VAND` (R195): Lane bitwise AND. -/
  | vand (w : LWord)
  /-- `VOR` (R195): Lane bitwise OR. -/
  | vor (w : LWord)
  /-- `VXOR` (R195): Lane bitwise exclusive OR. -/
  | vxor (w : LWord)
  /-- `VANDN` (R195): Lane AND with complement. -/
  | vandn (w : LWord)
  /-- `VNOT` (R195): Lane bitwise complement. -/
  | vnot (w : LWord)
  /-- `VSHL` (R195): Lane shift left. -/
  | vshl (w : LWord)
  /-- `VSHR` (R195): Lane logical shift right. -/
  | vshr (w : LWord)
  /-- `VSAR` (R195): Lane arithmetic shift right. -/
  | vsar (w : LWord)
  /-- `VROL` (R195): Lane rotate left. -/
  | vrol (w : LWord)
  /-- `VMIN` (R195): Lane integer minimum. -/
  | vmin (w : LWord)
  /-- `VMAX` (R195): Lane integer maximum. -/
  | vmax (w : LWord)
  /-- `VABS` (R195): Lane absolute value. -/
  | vabs (w : LWord)
  /-- `VNEG` (R195): Lane negation. -/
  | vneg (w : LWord)
  /-- `VCLZ` (R195): Lane count of leading zeros. -/
  | vclz (w : LWord)
  /-- `VPOPC` (R195): Lane population count. -/
  | vpopc (w : LWord)
  /-- `VBREV` (R195): Lane bit reversal. -/
  | vbrev (w : LWord)
  /-- `VBFX` (R197): Lane bit-field extract. -/
  | vbfx (w : LWord)
  /-- `VBFI` (R197): Lane bit-field insert into the old destination. -/
  | vbfi (w : LWord)
  /-- `VSEL` (R199): Lane select by mask bit. -/
  | vsel (w : LWord)
  /-- `VMOV` (R195): Lane move from any operand select. -/
  | vmov (w : LWord)
  /-- `VLI` (R195): Lane load of the word's immediate. -/
  | vli (w : LWord)
  /-- `VCMP` (R198): Lane integer compare writing a mask bit. -/
  | vcmp (w : LWord)
  /-- `VADDC` (R199): Lane 32-bit add with carry through a mask. -/
  | vaddc (w : LWord)
  /-- `VIDX` (R195): Lane add of the lane number. -/
  | vidx (w : LWord)
  /-- `VSAD` (R199): Lane sum of absolute byte differences. -/
  | vsad (w : LWord)
  /-- `FADD` (R216): Lane floating-point add. -/
  | fadd (w : LWord)
  /-- `FSUB` (R216): Lane floating-point subtract. -/
  | fsub (w : LWord)
  /-- `FMUL` (R216): Lane floating-point multiply. -/
  | fmul (w : LWord)
  /-- `FFMA` (R216): Lane fused multiply-add, rounded once. -/
  | ffma (w : LWord)
  /-- `FMIN` (R217): Lane floating-point minimum. -/
  | fmin (w : LWord)
  /-- `FMAX` (R217): Lane floating-point maximum. -/
  | fmax (w : LWord)
  /-- `FCMP` (R218): Lane floating-point compare writing a mask bit. -/
  | fcmp (w : LWord)
  /-- `FCLASS` (R219): Lane classification test writing a mask bit. -/
  | fclass (w : LWord)
  /-- `FRND` (R220): Lane round to integral value. -/
  | frnd (w : LWord)
  /-- `FLDEXP` (R220): Lane multiply by a power of two. -/
  | fldexp (w : LWord)
  /-- `FFREXP` (R220): Lane split into fraction or exponent. -/
  | ffrexp (w : LWord)
  /-- `FDOT2` (R221): Lane two-element dot product with an F32 accumulator. -/
  | fdot2 (w : LWord)
  /-- `FDOT4` (R221): Lane four-element 8-bit dot product with an F32 accumulator. -/
  | fdot4 (w : LWord)
  /-- `FSCALE` (R220): Lane multiply by an E8 scale. -/
  | fscale (w : LWord)
  /-- `FRCP` (R222): Lane reciprocal, correctly rounded. -/
  | frcp (w : LWord)
  /-- `FRSQ` (R222): Lane reciprocal square root. -/
  | frsq (w : LWord)
  /-- `FSQRT` (R222): Lane square root. -/
  | fsqrt (w : LWord)
  /-- `FDIV` (R223): Lane correctly rounded division. -/
  | fdiv (w : LWord)
  /-- `FEXP2` (R222): Lane base-2 exponential. -/
  | fexp2 (w : LWord)
  /-- `FLOG2` (R222): Lane base-2 logarithm. -/
  | flog2 (w : LWord)
  /-- `FSIN` (R222): Lane sine in radians. -/
  | fsin (w : LWord)
  /-- `FCOS` (R222): Lane cosine in radians. -/
  | fcos (w : LWord)
  /-- `FTANH` (R222): Lane hyperbolic tangent. -/
  | ftanh (w : LWord)
  /-- `CVT` (R224): Lane conversion between number formats. -/
  | cvt (w : LWord)
  /-- `CVTEF` (R227): Lane error-feedback narrowing writing value and residual. -/
  | cvtef (w : LWord)
  /-- `PACK` (R228): Lane packing of narrow values into a 32-bit element. -/
  | pack (w : LWord)
  /-- `UNPACK` (R228): Lane extraction of a narrow value from a 32-bit element. -/
  | unpack (w : LWord)
  /-- `SHFL` (R203): Cross-lane read from an indexed lane. -/
  | shfl (w : LWord)
  /-- `SHFLX` (R203): Cross-lane read by XOR pattern. -/
  | shflx (w : LWord)
  /-- `SHFLUP` (R203): Cross-lane read from a lower lane. -/
  | shflup (w : LWord)
  /-- `SHFLDN` (R203): Cross-lane read from a higher lane. -/
  | shfldn (w : LWord)
  /-- `BCAST` (R203): Broadcast one lane's value. -/
  | bcast (w : LWord)
  /-- `BALLOT` (R204): Write each lane's predicate into a mask. -/
  | ballot (w : LWord)
  /-- `VOTE` (R204): Write an any, all or equal vote into a mask. -/
  | vote (w : LWord)
  /-- `SCAN` (R205): Ordered prefix combination across active lanes. -/
  | scan (w : LWord)
  /-- `LRED` (R205): Ordered reduction across active lanes. -/
  | lred (w : LWord)
  /-- `COMPACT` (R206): Pack selected lanes' values into the lowest active lanes. -/
  | compact (w : LWord)
  /-- `VREADL` (R207): Read one lane's value into a scalar register. -/
  | vreadl (w : LWord)
  /-- `VWRITEL` (R207): Write a uniform value into one lane. -/
  | vwritel (w : LWord)
  /-- `LD` (R258): Lane load from virtual memory. -/
  | ld (w : LXWord)
  /-- `ST` (R258): Lane store to virtual memory, optionally a full-line claim. -/
  | st (w : LXWord)
  /-- `LDS` (R260): Lane load from scratch. -/
  | lds (w : LXWord)
  /-- `STS` (R260): Lane store to scratch. -/
  | sts (w : LXWord)
  /-- `ATOM` (R261): Lane atomic read-modify-write returning the old value. -/
  | atom (w : LXWord)
  /-- `ATOMS` (R261): Lane atomic read-modify-write on scratch. -/
  | atoms (w : LXWord)
  /-- `RED` (R261): Lane atomic update without return, or commutative update. -/
  | red (w : LXWord)
  /-- `PREF` (R263): Lane prefetch of lines or pages. -/
  | pref (w : LXWord)
  /-- `TRACE` (R375): Trace each lane's ray through a hierarchy and write the best hit. -/
  | trace (w : LXWord)
  /-- `TRACEQ` (R375): Trace rays until any candidate, writing a mask bit. -/
  | traceq (w : LXWord)
  /-- `HITGET` (R376): Interpolate attributes of hit triangles. -/
  | hitget (w : LXWord)
  /-- `PRIMEMIT` (R379): Emit one triangle per lane into the draw's segment. -/
  | primemit (w : LXWord)
  /-- `SAMPLE` (R389): Filtered texture sample with implicit level of detail. -/
  | sample (w : LXWord)
  /-- `SAMPLEL` (R389): Texture sample with explicit level of detail. -/
  | samplel (w : LXWord)
  /-- `SAMPLEG` (R389): Texture sample with explicit gradients. -/
  | sampleg (w : LXWord)
  /-- `TEXLD` (R390): Load one unfiltered texel. -/
  | texld (w : LXWord)
  /-- `TEXST` (R390): Store one texel into a writable texture. -/
  | texst (w : LXWord)
  /-- `LYINS` (R395): Insert a node into a pixel's layered list, merging on overflow. -/
  | lyins (w : LXWord)
  /-- `LYREAD` (R400): Read a node or the count of a pixel's list. -/
  | lyread (w : LXWord)
  /-- `LYRESOLVE` (R401): Composite a pixel's list into a texel, optionally clearing it. -/
  | lyresolve (w : LXWord)
  /-- `LYCLEAR` (R400): Free a pixel's list block and clear its header. -/
  | lyclear (w : LXWord)
  /-- `MMA` (R336): Join one team matrix operation stepping the staging buffer. -/
  | mma (w : LXWord)
  /-- `VMM` (R352): Multiply each lane's activation vector by a weight matrix. -/
  | vmm (w : LXWord)
  /-- `ACCRED` (R348): Add one partial per lane to latent accumulator lines. -/
  | accred (w : LXWord)
  /-- `ACCPEEK` (R349): Read one accumulator element per lane. -/
  | accpeek (w : LXWord)
  /-- `TRAYPUT` (R235): Deposit one keyed record per lane into trays. -/
  | trayput (w : LXWord)
  /-- `TRAYGET` (R236): Read the tray wave's records into lanes. -/
  | trayget (w : LXWord)
  /-- `LANE_OP_SETTLE` (R164): A variable-latency lane operation reaches its completion point or records its fault. -/
  | laneOpSettle (core slot k : Nat)
  /-- `TRAP_ENTRY` (R358): Once earlier strips retire the wave enters its handler at S with shadow registers exchanged. -/
  | trapEntry (core slot : Nat)
  /-- `FEED_VECTOR_ARRIVE` (R175): A feed's read-ahead vector arrives and is buffered. -/
  | feedVectorArrive (core slot f : Nat)
  /-- `FRAGMENT_RETURN` (R172): A spilled runnable fragment returns to a freed slot. -/
  | fragmentReturn (core slot : Nat)
  /-- `BACKOFF_EXPIRY` (R249): A back-off interval ends and the sleeping lanes continue. -/
  | backoffExpiry (core slot : Nat) (b : Bool)
  /-- `SPIN_DEMOTION` (R169): A wave's spin count reaches 64 and the wave is demoted. -/
  | spinDemotion (core slot : Nat)
  /-- `ISSUE_AGE_PROMOTION` (R168): A wave unissued for 1,008 cycles ranks first for issue. -/
  | issueAgePromotion (core slot : Nat)
  /-- `BARRIER_REMOTE_ARRIVAL` (R244): A BARRX arrival reaches the target group's barrier or its saved file. -/
  | barrierRemoteArrival (k : Nat)
  /-- `WAITA_REREAD` (R248): A write performing at the watched line's home makes a sleeping WAITA reread. -/
  | waitaReread (core slot : Nat) (b : Bool)
  /-- `WAITA_PERIODIC_REREAD` (R248): A sleeping WAITA on a line homed elsewhere or in a pool page rereads on its periodic timer. -/
  | waitaPeriodicReread (core slot : Nat) (b : Bool)
  /-- `WAITA_FAB_TIMEOUT` (R129): A fabric- or system-scope WAITA reaches fab_timeout and traps or returns with C set. -/
  | waitaFabTimeout (core slot : Nat) (b : Bool)
  /-- `SAFELIGHT_EXPIRY` (R128): The watchdog counter reaches its threshold and every wave of the context takes WATCHDOG. -/
  | safelightExpiry (ctx : Nat)
  /-- `FAULT_QUEUE_POST_RESUME` (R114): A parked fault-queue post proceeds once head advances. -/
  | faultQueuePostResume (core slot : Nat) (b : Bool)
  /-- `QUEUE_ENABLE_SET` (R118): Writing enable = 1 moves a disabled queue to IDLE or ERROR. -/
  | queueEnableSet (q : Nat)
  /-- `QUEUE_ENABLE_CLEAR` (R118): Writing enable = 0 kills the queue's groups and disables it. -/
  | queueEnableClear (q : Nat)
  /-- `QUEUE_DOORBELL` (R117): A write of tail rings the doorbell and may make the queue READY. -/
  | queueDoorbell (q : Nat) (tail : Word)
  /-- `REGISTER_WRITE` (R117): A write to a register field that has no row of its own. -/
  | registerWrite (r : RegField) (v : BitVec 128)
  /-- `MAILBOX_DONE_CLEAR` (R419): Writing 1 to the mailbox done bit clears it. -/
  | mailboxDoneClear
  /-- `QUEUE_ACTIVATE` (R122): The Rinkan core activates a READY or PREEMPTED queue, binding and restoring as needed. -/
  | queueActivate (q : Nat)
  /-- `QUEUE_PREEMPT` (R126): A queue is pre-empted and its groups saved into its darkslide. -/
  | queuePreempt (q : Nat)
  /-- `SLICE_EXPIRY` (R123): A queue's class slice elapses while another of its class waits. -/
  | sliceExpiry (q : Nat)
  /-- `READY_AGE_PROMOTION` (R122): A queue READY for 2^28 cycles is treated one class higher. -/
  | readyAgePromotion (q : Nat)
  /-- `LAUNCH` (R121): A LAUNCH packet starts a grid from a kernel image. -/
  | launch (q : Nat)
  /-- `DRAW` (R121): A DRAW packet starts a cluster-shading grid with its pipeline state. -/
  | draw (q : Nat)
  /-- `SIGNAL` (R121): A SIGNAL packet writes or adds a value as a release. -/
  | signalPkt (q : Nat)
  /-- `WAIT` (R121): A WAIT packet holds its queue until a read meets its comparison. -/
  | waitPkt (q : Nat)
  /-- `BARRIER` (R121): A BARRIER packet starts once every earlier packet completes. -/
  | barrierPkt (q : Nat)
  /-- `CTXOP_CREATE` (R111): Create a context from a descriptor and draw its keys. -/
  | ctxopCreate (q : Nat)
  /-- `CTXOP_BIND` (R111): Bind a context to a resident slot and load its keys. -/
  | ctxopBind (q : Nat)
  /-- `CTXOP_UNBIND` (R111): Pre-empt a context's queues and write back its lines. -/
  | ctxopUnbind (q : Nat)
  /-- `CTXOP_UPDATE` (R111): Replace a context's descriptor copy. -/
  | ctxopUpdate (q : Nat)
  /-- `CTXOP_QUARANTINE` (R111): Quarantine a context, killing its groups and ending its queues. -/
  | ctxopQuarantine (q : Nat)
  /-- `CTXOP_DESTROY` (R111): Destroy a context, discarding its lines and keys. -/
  | ctxopDestroy (q : Nat)
  /-- `PACKET_DEFERRED_START` (R119): A fenced, SIGNAL or BARRIER packet starts once earlier packets complete. -/
  | packetDeferredStart (q : Nat)
  /-- `WAIT_REREAD` (R121): A write to a WAIT packet's watched line makes the packet processor reread it. -/
  | waitReread (q : Nat)
  /-- `WAIT_PERIODIC_POLL` (R121): The packet processor rereads an externally homed WAIT address every 65,536 cycles. -/
  | waitPeriodicPoll (q : Nat)
  /-- `WAIT_TIMEOUT` (R118): A fabric- or system-scope WAIT lasting fab_timeout ends the queue with err 3. -/
  | waitTimeout (q : Nat)
  /-- `BIND_RETRY` (R111): A BIND waiting at the queue head proceeds when a resident slot frees. -/
  | bindRetry (q : Nat)
  /-- `UNBIND_COMPLETE` (R111): An UNBIND completes when the last line is written back. -/
  | unbindComplete (ctx : Nat)
  /-- `GRID_COMPLETE` (R121): A packet grid completes and done_val is written as a release. -/
  | gridComplete (g : Nat)
  /-- `TASK_DISPATCH` (R139): The dispatcher takes a queued task, reads its descriptor and places its groups or fails it. -/
  | taskDispatch (q : Nat)
  /-- `GROUP_PLACE` (R146): The dispatcher places a pending group and reserves its resources. -/
  | groupPlace (g : Nat)
  /-- `BANK_CONVERSION_DONE` (R152): A core SRAM bank finishes changing mode. -/
  | bankConversionDone (core bank : Nat)
  /-- `GROUP_SETTLED` (R146): A draining group's stores perform and it retires, releasing its resources. -/
  | groupSettled (gid : Nat)
  /-- `GROUP_RESTORE` (R146): A swapped group is restored when its core has room. -/
  | groupRestore (gid : Nat)
  /-- `TRAY_DEADLINE` (R231): A filling tray reaches its deadline and triggers. -/
  | trayDeadline (core k : Nat)
  /-- `TRAY_WAVE_START` (R233): A triggered tray's records start a tray wave when room exists. -/
  | trayWaveStart (core : Nat)
  /-- `FINDER_SEGMENT_START` (R378): A Finder begins rasterizing a draw segment and deposits quads into pixel trays. -/
  | finderSegmentStart (core g : Nat)
  /-- `TEAM_OP_START` (R331): The matrix engine starts a team operation once every member has issued. -/
  | teamOpStart (core gid team : Nat)
  /-- `PARTIAL_ARRIVE` (R338): A partial arrives at its home slice and is applied or refused. -/
  | partialArrive (k : Nat)
  /-- `MLOOP_COMPLETE` (R351): A matrix loop finishes and posts its records. -/
  | mloopComplete (core op : Nat)
  /-- `DRAIN_COMPLETE` (R345): A drain writes its last element and histogram and marks the accumulator DRAINED. -/
  | drainComplete (core op : Nat)
  /-- `TRANSFER_TRANSLATION_END` (R321): An engine operation finishes translating and pinning its pages. -/
  | transferTranslationEnd (core op : Nat)
  /-- `TRANSFER_LOCKS_CLEAR` (R321): Conflicting locks release and the operation starts running. -/
  | transferLocksClear (core op : Nat)
  /-- `TRANSFER_COMPLETE` (R321): An operation's last write performs and its record is posted. -/
  | transferComplete (core op : Nat)
  /-- `EVENT_RECORD_POST_RESUME` (R324): A finished operation waiting for an event-queue place posts its record. -/
  | eventRecordPostResume (core op : Nat)
  /-- `ENGINE_FAULT_TAKEN` (R322): An operation reaching its failing page parks and traps its issuing fragment. -/
  | engineFaultTaken (core op : Nat)
  /-- `LOUPE_BATCH_CLOSE` (R299): A fault batch closes after 256 cycles and its fills are started. -/
  | loupeBatchClose
  /-- `FRAME_FILL_COMPLETE` (R295): The last line of a filling frame lands and waiting units are woken. -/
  | frameFillComplete (f : Nat)
  /-- `FILL_POOL_UNREACHABLE` (R295): A fill fails for an unreachable pool and waiters receive poison. -/
  | fillPoolUnreachable (f : Nat)
  /-- `UNIT_REPLAY` (R296): Units parked on a page replay 40 cycles after it lands. -/
  | unitReplay (core slot : Nat)
  /-- `ENLARGER_EVICT` (R297): With fewer than 64 free frames the clock chooses and starts evicting a victim. -/
  | enlargerEvict
  /-- `EVICTION_COMPLETE` (R298): The last line of an evicted frame is released and the frame is free. -/
  | evictionComplete (f : Nat)
  /-- `POOL_FRAME_MOVE` (R295): A free frame moves to the device-local pool and starts zeroing. -/
  | poolFrameMove (f : Nat)
  /-- `ZEROING_DONE` (R295): A zeroing frame is fully zeroed and becomes POOLED. -/
  | zeroingDone (f : Nat)
  /-- `HOME_GETS` (R273): The home slice takes a GetS request. -/
  | homeGets (k : Nat)
  /-- `HOME_GETM` (R273): The home slice takes a GetM request. -/
  | homeGetm (k : Nat)
  /-- `HOME_UPG` (R273): The home slice takes an Upg request. -/
  | homeUpg (k : Nat)
  /-- `HOME_PUTS` (R273): The home slice takes a PutS notice. -/
  | homePuts (k : Nat)
  /-- `HOME_PUTE` (R273): The home slice takes a PutE notice. -/
  | homePute (k : Nat)
  /-- `HOME_PUTM` (R273): The home slice takes a PutM notice. -/
  | homePutm (k : Nat)
  /-- `HOME_PUTO` (R273): The home slice takes a PutO notice. -/
  | homePuto (k : Nat)
  /-- `HOME_UNBLOCK` (R273): The home takes Unblock, settles the line and takes the next waiting request. -/
  | homeUnblock (k : Nat)
  /-- `HOME_OWNACK` (R273): The home takes an owner's OwnAck for a forwarded read. -/
  | homeOwnack (k : Nat)
  /-- `HOME_CLEANACK` (R273): The home takes a CleanAck for a forwarded read. -/
  | homeCleanack (k : Nat)
  /-- `HOME_WBDATA` (R273): The home takes write-back data and acknowledges it. -/
  | homeWbdata (k : Nat)
  /-- `HOME_HACK` (R287): The home takes a neighbour's HAck and commits the push when all have arrived. -/
  | homeHack (k : Nat)
  /-- `L1_DATA` (R274): An L1 receives Data and enters S. -/
  | l1Data (k : Nat)
  /-- `L1_DATAE` (R274): An L1 receives DataE and enters E. -/
  | l1Datae (k : Nat)
  /-- `L1_DATAM` (R274): An L1 receives DataM and enters M once acks are collected. -/
  | l1Datam (k : Nat)
  /-- `L1_GRANT` (R274): An L1 receives a grant without data for its upgrade. -/
  | l1Grant (k : Nat)
  /-- `L1_INVACK` (R274): A requesting L1 collects an InvAck. -/
  | l1Invack (k : Nat)
  /-- `L1_INV` (R274): An L1 receives Inv and drops its copy. -/
  | l1Inv (k : Nat)
  /-- `L1_FWDGETS` (R274): An owner L1 answers a forwarded GetS. -/
  | l1Fwdgets (k : Nat)
  /-- `L1_FWDGETM` (R274): An owner L1 answers a forwarded GetM and gives up the line. -/
  | l1Fwdgetm (k : Nat)
  /-- `L1_PULLWB` (R274): An evicting L1 sends its buffered data on PullWB. -/
  | l1Pullwb (k : Nat)
  /-- `L1_NOTICEACK` (R274): An L1 receives NoticeAck, holding it if stale. -/
  | l1Noticeack (k : Nat)
  /-- `L1_WBACK` (R276): An L1 receives WBAck and frees its write-back buffer. -/
  | l1Wback (k : Nat)
  /-- `L1_HPUSH` (R287): A neighbour L1 holds pushed halo data pending and answers HAck. -/
  | l1Hpush (k : Nat)
  /-- `L1_HCOMMIT` (R287): A neighbour L1 makes pending halo data current. -/
  | l1Hcommit (k : Nat)
  /-- `L1_RETRY` (R272): An L1 receives Retry for a full wait buffer. -/
  | l1Retry (k : Nat)
  /-- `REQUEST_RESEND` (R272): A retried request is sent again 64 cycles later. -/
  | requestResend (k : Nat)
  /-- `FORWARD_TIMEOUT` (R281): A core leaves a forward unanswered for 2^20 cycles and is declared dead. -/
  | forwardTimeout (core : Nat)
  /-- `UNCORRECTABLE_SOFT_ERROR` (R281): An uncorrectable soft error is detected in SRAM or latent lines. -/
  | uncorrectableSoftError (site : ErrSite)
  /-- `MODE_CHANGE` (R276): The Rinkan core switches write-back-and-answer mode. -/
  | modeChange (on : Bool)
  /-- `MEMORY_LINE_RETURN` (R110): A line returns from a GDDR-7 frame or the pool and is decrypted and checked. -/
  | memoryLineReturn (line : Nat)
  /-- `BISNP_RECEIVE` (R406): A back-invalidate snoop from a pool device reaches the home slice. -/
  | bisnpReceive (line : Nat) (inv : Bool)
  /-- `EXTERNAL_REQUEST` (R407): A host or peer request reaches the home slice of a local line. -/
  | externalRequest (agent : Nat) (req : ExtReq)
  /-- `GLINOR_FLIT_RECEIVE` (R409): A Glinor port receives a flit and accepts or naks it. -/
  | glinorFlitReceive (port : Nat) (f : Flit)
  /-- `PORT_ENABLE` (R410): The Rinkan core enables a port and training starts. -/
  | portEnable (p : Nat)
  /-- `PORT_TRAINING_END` (R410): Training ends and the port goes UP, DEGRADED or FENCED. -/
  | portTrainingEnd (p lanes : Nat)
  /-- `PORT_TRAINING_TIMEOUT` (R410): Training lasts 1 ms and the port is fenced. -/
  | portTrainingTimeout (p : Nat)
  /-- `PORT_RESEND_LIMIT` (R410): The eighth resend of one flit sends the port into training. -/
  | portResendLimit (p : Nat)
  /-- `PORT_LANE_LOST` (R410): A lane of a running port is lost and the port retrains. -/
  | portLaneLost (p : Nat)
  /-- `PORT_FENCE` (R410): The Rinkan core fences a port and drops its retry buffer. -/
  | portFence (p : Nat)
  /-- `PORT_RESET` (R410): The Rinkan core resets a fenced port to DOWN. -/
  | portReset (p : Nat)
  /-- `CXL_PORT_DOWN` (R405): A CXL port goes down and pool traffic moves to the next port up. -/
  | cxlPortDown (p : Nat)
  /-- `POOL_DECODER_WRITE` (R405): The Rinkan core writes a pool decoder, refusing overlaps. -/
  | poolDecoderWrite (k : Nat) (enable : Bool) (base : BitVec 23) (size : BitVec 23)
  /-- `AGENT_JOIN` (R411): An external agent joins and receives a fresh agent ID. -/
  | agentJoin (kind : AgentKind) (route : Nat)
  /-- `PEER_LOST` (R415): A peer or host is declared lost and its traffic is poisoned or dropped. -/
  | peerLost (id : Nat) (cause : LossCause)
  /-- `COMPLETION_TIMEOUT` (R415): A request to an agent stays unanswered for the completion timeout. -/
  | completionTimeout (id : Nat)
  /-- `LINK_KEY_CHANGE` (R426): A Glinor link key change takes effect at an announced flit boundary. -/
  | linkKeyChange (port : Nat)
  /-- `GET_INFO` (R418): Management command returning firmware, boot, pool and context information. -/
  | getInfo (r : MgmtReq)
  /-- `SET_POOL_TARGET` (R418): Management command setting the device-local pool's target size. -/
  | setPoolTarget (r : MgmtReq)
  /-- `GET_LOG_STATE` (R418): Management command returning the event log's tail, head and lost. -/
  | getLogState (r : MgmtReq)
  /-- `READ_LOG` (R418): Management command returning up to four event-log records. -/
  | readLog (r : MgmtReq)
  /-- `SET_LOG_HEAD` (R418): Management command advancing the event log's head. -/
  | setLogHead (r : MgmtReq)
  /-- `GET_SENSORS` (R418): Management command returning power, temperatures and clock. -/
  | getSensors (r : MgmtReq)
  /-- `SET_POWER_LIMIT` (R418): Management command setting the board power limit. -/
  | setPowerLimit (r : MgmtReq)
  /-- `GET_PORTS` (R418): Management command returning every port's state. -/
  | getPorts (r : MgmtReq)
  /-- `FREQUENCY_CHANGE` (R19): The Rinkan core lowers or raises the core clock under a power or thermal limit. -/
  | frequencyChange (mhz : Nat)
  /-- `DEVICE_RESET` (R422): Reset runs the boot ROM, which checks the firmware slots. -/
  | deviceReset
  /-- `START_UP_COMPLETE` (R422): Firmware start-up completes and the device becomes OPERATIONAL. -/
  | startUpComplete
  /-- `FLASH_IMAGE_WRITE` (R422): A new firmware image is written into flash for the next reset. -/
  | flashImageWrite (slot : Nat) (img : FwImage)
  /-- `SPDM_GET_VERSION` (R424): SPDM request for supported versions. -/
  | spdmGetVersion (path : Nat)
  /-- `SPDM_GET_CAPABILITIES` (R424): SPDM request for capabilities. -/
  | spdmGetCapabilities (path : Nat)
  /-- `SPDM_NEGOTIATE_ALGORITHMS` (R424): SPDM request to negotiate algorithms. -/
  | spdmNegotiateAlgorithms (path : Nat)
  /-- `SPDM_GET_DIGESTS` (R424): SPDM request for certificate digests. -/
  | spdmGetDigests (path : Nat)
  /-- `SPDM_GET_CERTIFICATE` (R424): SPDM request for a certificate chain. -/
  | spdmGetCertificate (path : Nat)
  /-- `SPDM_CHALLENGE` (R424): SPDM challenge signed with the identity key. -/
  | spdmChallenge (path : Nat)
  /-- `SPDM_GET_MEASUREMENTS` (R424): SPDM request for signed measurements. -/
  | spdmGetMeasurements (path : Nat)
  /-- `SPDM_KEY_EXCHANGE` (R424): SPDM key exchange opening a secure session. -/
  | spdmKeyExchange (path : Nat)
  /-- `SPDM_FINISH` (R424): SPDM finish of a key exchange. -/
  | spdmFinish (path : Nat)
  /-- `SPDM_END_SESSION` (R424): SPDM end of a secure session. -/
  | spdmEndSession (path : Nat)
  /-- `SCALAR_ACCESS_ANSWERED` (R190): The answer to an outstanding scalar SLD or SST returns, writing the destination or raising a late precise fault that discards later words. -/
  | scalarAccessAnswered (core slot : Nat) (b : Bool)
  /-- `BIRSP_RECEIVE` (R407): A BIRsp from a host in a line's external set reaches the home slice, and the pending write grant proceeds once every BIRsp is in. -/
  | birspReceive (line agent : Nat)
  /-- `BICONFLICT_RECEIVE` (R406): A BIConflict or BIConflictAck for a line with a crossing back-invalidate and request reaches the home slice and resolves the conflict. -/
  | biconflictReceive (line : Nat) (ack : Bool)
  /-- `CORRECTABLE_SOFT_ERROR` (R116): A correctable soft error is detected in a unit's SRAM, corrected, and logged as SOFT_CORRECTED. -/
  | correctableSoftError (ctx core unit bank : Nat)
  /-- `IDE_KM_REQUEST` (R426): An IDE_KM message in an SPDM secure session programs or activates a CXL port's IDE link stream key. -/
  | ideKmRequest (port : Nat) (m : IdeKm)
  deriving DecidableEq, Repr

end Sys2Proof
end

