-- ==== Sys2Proof/Machine/Codes.lean ====
section
/-! DEFINITION. Machine/Codes.lean: the codes of the encoded fields (R26 to R37), each with its reading. -/

namespace Sys2Proof.Machine

/-- Type code of R34. -/
def ltypeCode : LType → BitVec 7
  | .i8 => 0x01 | .i16 => 0x02 | .i32 => 0x03 | .i64 => 0x04
  | .n8 => 0x05 | .n16 => 0x06 | .n32 => 0x07 | .n64 => 0x08
  | .f64 => 0x09 | .f32 => 0x0A | .f16 => 0x0B | .bf16 => 0x0C
  | .f8e4 => 0x0D | .f8e5 => 0x0E | .dx8 => 0x0F | .e8 => 0x10

/-- The type a code names (R34); the others are reserved. -/
def ltypeOf (c : Nat) : Option LType :=
  match c with
  | 0x01 => some .i8 | 0x02 => some .i16 | 0x03 => some .i32 | 0x04 => some .i64
  | 0x05 => some .n8 | 0x06 => some .n16 | 0x07 => some .n32 | 0x08 => some .n64
  | 0x09 => some .f64 | 0x0A => some .f32 | 0x0B => some .f16 | 0x0C => some .bf16
  | 0x0D => some .f8e4 | 0x0E => some .f8e5 | 0x0F => some .dx8 | 0x10 => some .e8
  | _ => none

/-- Bits of a type (R51, R52). -/
def ltypeBits : LType → Nat
  | .i8 | .n8 | .f8e4 | .f8e5 | .dx8 | .e8 => 8
  | .i16 | .n16 | .f16 | .bf16 => 16
  | .i32 | .n32 | .f32 => 32
  | .i64 | .n64 | .f64 => 64

/-- A 64-bit type occupies an even-odd pair (R51). -/
def is64 (t : LType) : Bool := ltypeBits t == 64

/-- Registers an operand of a type occupies (R51). -/
def regsOf (t : LType) : Nat := if is64 t then 2 else 1

/-- Signed integer types. -/
def isSigned : LType → Bool
  | .i8 | .i16 | .i32 | .i64 => true
  | _ => false

/-- Integer types. -/
def isInt : LType → Bool
  | .i8 | .i16 | .i32 | .i64 | .n8 | .n16 | .n32 | .n64 => true
  | _ => false

/-- Scope codes (R29). -/
def scopeCode : Scope → BitVec 3
  | .wave => 0 | .group => 1 | .clus => 2 | .dev => 3 | .fab => 4 | .sys => 5

/-- The scope a code names; 6 and 7 are reserved (R29). -/
def scopeOf (c : Nat) : Option Scope :=
  match c with
  | 0 => some .wave | 1 => some .group | 2 => some .clus | 3 => some .dev | 4 => some .fab | 5 => some .sys
  | _ => none

/-- Order codes of a scalar word (R29). -/
def orderCode : Order → BitVec 2
  | .rlx => 0 | .acq => 1 | .rel => 2 | .ar => 3

/-- The order a scalar code names (R29). -/
def orderOf (c : Nat) : Order :=
  match c with
  | 0 => .rlx | 1 => .acq | 2 => .rel | _ => .ar

/-- Order codes of a lane word (R36). -/
def lorderCode : LOrder → BitVec 3
  | .rlx => 0 | .acq => 1 | .rel => 2 | .ar => 3 | .comm => 4

/-- The order a lane code names; 5 to 7 are reserved (R36). -/
def lorderOf (c : Nat) : Option LOrder :=
  match c with
  | 0 => some .rlx | 1 => some .acq | 2 => some .rel | 3 => some .ar | 4 => some .comm
  | _ => none

/-- Operand select codes (R33). -/
def selCode : Sel → BitVec 2
  | .reg => 0 | .scalar => 1 | .feed => 2 | .imm => 3

/-- The select a code names (R33). -/
def selOf (c : Nat) : Sel :=
  match c with
  | 0 => .reg | 1 => .scalar | 2 => .feed | _ => .imm

/-- Select codes of a half of a pair (R37). -/
def pselCode : PSel → BitVec 2
  | .reg => 0 | .scalar => 1 | .imm => 2

/-- The select a half's code names; 3 is reserved (R37). -/
def pselOf (c : Nat) : Option PSel :=
  match c with
  | 0 => some .reg | 1 => some .scalar | 2 => some .imm | _ => none

/-- The hop of a pairable operation: its class bit and the low six bits of its L opcode (R37, R39). -/
def popCode : POp → BitVec 7
  | .vadd => 0x00 | .vsub => 0x01 | .vmul => 0x02 | .vand => 0x05 | .vor => 0x06 | .vxor => 0x07 | .vandn => 0x08
  | .vshl => 0x0A | .vshr => 0x0B | .vsar => 0x0C | .vmin => 0x0E | .vmax => 0x0F | .vmov => 0x18
  | .fadd => 0x40 | .fsub => 0x41 | .fmul => 0x42 | .ffma => 0x43 | .fmin => 0x44 | .fmax => 0x45

/-- The pairable operation a hop names (R37). -/
def popOf (c : Nat) : Option POp :=
  match c with
  | 0x00 => some .vadd | 0x01 => some .vsub | 0x02 => some .vmul | 0x05 => some .vand | 0x06 => some .vor
  | 0x07 => some .vxor | 0x08 => some .vandn | 0x0A => some .vshl | 0x0B => some .vshr | 0x0C => some .vsar
  | 0x0E => some .vmin | 0x0F => some .vmax | 0x18 => some .vmov
  | 0x40 => some .fadd | 0x41 => some .fsub | 0x42 => some .fmul | 0x43 => some .ffma | 0x44 => some .fmin
  | 0x45 => some .fmax
  | _ => none

/-- Scalar type codes (R27). -/
def stypeCode : SType → BitVec 2
  | .i32 => 0 | .n32 => 1 | .i64 => 2 | .n64 => 3

/-- The scalar type a code names (R27). -/
def stypeOf (c : Nat) : SType :=
  match c with
  | 0 => .i32 | 1 => .n32 | 2 => .i64 | _ => .n64

/-- A 64-bit scalar type (R27). -/
def stypeWide : SType → Bool
  | .i64 | .n64 => true
  | _ => false

/-- Conditions of `SSEL` (R26). -/
def selCondCode : SelCond → BitVec 2
  | .eq => 0 | .ne => 1 | .lt => 2 | .ltu => 3

/-- The `SSEL` condition a code names (R26). -/
def selCondOf (c : Nat) : SelCond :=
  match c with
  | 0 => .eq | 1 => .ne | 2 => .lt | _ => .ltu

/-- Condition codes of `BC` (R28). -/
def condCode : Cond → BitVec 4
  | .al => 0 | .eq => 1 | .ne => 2 | .lt => 3 | .ge => 4 | .ltu => 5 | .geu => 6 | .gt => 7
  | .le => 8 | .gtu => 9 | .leu => 10 | .mi => 11 | .pl => 12 | .vs => 13 | .vc => 14

/-- The condition a code names; 15 is reserved (R28). -/
def condOf (c : Nat) : Option Cond :=
  match c with
  | 0 => some .al | 1 => some .eq | 2 => some .ne | 3 => some .lt | 4 => some .ge | 5 => some .ltu | 6 => some .geu
  | 7 => some .gt | 8 => some .le | 9 => some .gtu | 10 => some .leu | 11 => some .mi | 12 => some .pl
  | 13 => some .vs | 14 => some .vc
  | _ => none

/-- Function codes of `SLI` (R26). -/
def sliCode : SliForm → BitVec 10
  | .w32 => 0 | .i64 => 1 | .n64 => 2

/-- Form codes of `LYCFG` (R402). -/
def lyCode : LyForm → BitVec 2
  | .init => 0 | .grow => 1 | .query => 2

/-- Form codes of `CSHEET` (R308). -/
def sheetCode : SheetForm → BitVec 2
  | .snapshot => 0 | .decl => 1 | .drop => 2

/-- The bit of a Bool. -/
def b1 (b : Bool) : BitVec 1 := if b then 1 else 0

/-- The opcode and fields of an L-format word (R39, classes 0 to 3). -/
def lView : Instr → Option (BitVec 10 × LWord)
  | .vadd w => some (0x000, w) | .vsub w => some (0x001, w) | .vmul w => some (0x002, w) | .vmulh w => some (0x003, w)
  | .vmad w => some (0x004, w) | .vand w => some (0x005, w) | .vor w => some (0x006, w) | .vxor w => some (0x007, w)
  | .vandn w => some (0x008, w) | .vnot w => some (0x009, w) | .vshl w => some (0x00A, w) | .vshr w => some (0x00B, w)
  | .vsar w => some (0x00C, w) | .vrol w => some (0x00D, w) | .vmin w => some (0x00E, w) | .vmax w => some (0x00F, w)
  | .vabs w => some (0x010, w) | .vneg w => some (0x011, w) | .vclz w => some (0x012, w) | .vpopc w => some (0x013, w)
  | .vbrev w => some (0x014, w) | .vbfx w => some (0x015, w) | .vbfi w => some (0x016, w) | .vsel w => some (0x017, w)
  | .vmov w => some (0x018, w) | .vli w => some (0x019, w) | .vcmp w => some (0x01A, w) | .vaddc w => some (0x01B, w)
  | .vidx w => some (0x01C, w) | .vsad w => some (0x01D, w)
  | .fadd w => some (0x080, w) | .fsub w => some (0x081, w) | .fmul w => some (0x082, w) | .ffma w => some (0x083, w)
  | .fmin w => some (0x084, w) | .fmax w => some (0x085, w) | .fcmp w => some (0x086, w) | .fclass w => some (0x087, w)
  | .frnd w => some (0x088, w) | .fldexp w => some (0x089, w) | .ffrexp w => some (0x08A, w)
  | .fdot2 w => some (0x08B, w) | .fdot4 w => some (0x08C, w) | .fscale w => some (0x08D, w)
  | .frcp w => some (0x100, w) | .frsq w => some (0x101, w) | .fsqrt w => some (0x102, w) | .fdiv w => some (0x103, w)
  | .fexp2 w => some (0x104, w) | .flog2 w => some (0x105, w) | .fsin w => some (0x106, w) | .fcos w => some (0x107, w)
  | .ftanh w => some (0x108, w) | .cvt w => some (0x109, w) | .cvtef w => some (0x10A, w) | .pack w => some (0x10B, w)
  | .unpack w => some (0x10C, w)
  | .shfl w => some (0x180, w) | .shflx w => some (0x181, w) | .shflup w => some (0x182, w)
  | .shfldn w => some (0x183, w) | .bcast w => some (0x184, w) | .ballot w => some (0x185, w) | .vote w => some (0x186, w)
  | .scan w => some (0x187, w) | .lred w => some (0x188, w) | .compact w => some (0x189, w)
  | .vreadl w => some (0x18A, w) | .vwritel w => some (0x18B, w)
  | _ => none

/-- The L-format word of an opcode (R39). -/
def lOf (op : Nat) (w : LWord) : Option Instr :=
  match op with
  | 0x000 => some (.vadd w) | 0x001 => some (.vsub w) | 0x002 => some (.vmul w) | 0x003 => some (.vmulh w)
  | 0x004 => some (.vmad w) | 0x005 => some (.vand w) | 0x006 => some (.vor w) | 0x007 => some (.vxor w)
  | 0x008 => some (.vandn w) | 0x009 => some (.vnot w) | 0x00A => some (.vshl w) | 0x00B => some (.vshr w)
  | 0x00C => some (.vsar w) | 0x00D => some (.vrol w) | 0x00E => some (.vmin w) | 0x00F => some (.vmax w)
  | 0x010 => some (.vabs w) | 0x011 => some (.vneg w) | 0x012 => some (.vclz w) | 0x013 => some (.vpopc w)
  | 0x014 => some (.vbrev w) | 0x015 => some (.vbfx w) | 0x016 => some (.vbfi w) | 0x017 => some (.vsel w)
  | 0x018 => some (.vmov w) | 0x019 => some (.vli w) | 0x01A => some (.vcmp w) | 0x01B => some (.vaddc w)
  | 0x01C => some (.vidx w) | 0x01D => some (.vsad w)
  | 0x080 => some (.fadd w) | 0x081 => some (.fsub w) | 0x082 => some (.fmul w) | 0x083 => some (.ffma w)
  | 0x084 => some (.fmin w) | 0x085 => some (.fmax w) | 0x086 => some (.fcmp w) | 0x087 => some (.fclass w)
  | 0x088 => some (.frnd w) | 0x089 => some (.fldexp w) | 0x08A => some (.ffrexp w)
  | 0x08B => some (.fdot2 w) | 0x08C => some (.fdot4 w) | 0x08D => some (.fscale w)
  | 0x100 => some (.frcp w) | 0x101 => some (.frsq w) | 0x102 => some (.fsqrt w) | 0x103 => some (.fdiv w)
  | 0x104 => some (.fexp2 w) | 0x105 => some (.flog2 w) | 0x106 => some (.fsin w) | 0x107 => some (.fcos w)
  | 0x108 => some (.ftanh w) | 0x109 => some (.cvt w) | 0x10A => some (.cvtef w) | 0x10B => some (.pack w)
  | 0x10C => some (.unpack w)
  | 0x180 => some (.shfl w) | 0x181 => some (.shflx w) | 0x182 => some (.shflup w)
  | 0x183 => some (.shfldn w) | 0x184 => some (.bcast w) | 0x185 => some (.ballot w) | 0x186 => some (.vote w)
  | 0x187 => some (.scan w) | 0x188 => some (.lred w) | 0x189 => some (.compact w)
  | 0x18A => some (.vreadl w) | 0x18B => some (.vwritel w)
  | _ => none

/-- The opcode and fields of an LX-format word (R39, classes 4 to 6). -/
def lxView : Instr → Option (BitVec 10 × LXWord)
  | .ld w => some (0x200, w) | .st w => some (0x201, w) | .lds w => some (0x202, w) | .sts w => some (0x203, w)
  | .atom w => some (0x204, w) | .atoms w => some (0x205, w) | .red w => some (0x206, w) | .pref w => some (0x207, w)
  | .trace w => some (0x280, w) | .traceq w => some (0x281, w) | .hitget w => some (0x282, w)
  | .primemit w => some (0x283, w) | .sample w => some (0x284, w) | .samplel w => some (0x285, w)
  | .sampleg w => some (0x286, w) | .texld w => some (0x287, w) | .texst w => some (0x288, w)
  | .lyins w => some (0x290, w) | .lyread w => some (0x291, w) | .lyresolve w => some (0x292, w)
  | .lyclear w => some (0x293, w)
  | .mma w => some (0x300, w) | .vmm w => some (0x301, w) | .accred w => some (0x302, w) | .accpeek w => some (0x303, w)
  | .trayput w => some (0x308, w) | .trayget w => some (0x309, w)
  | _ => none

/-- The LX-format word of an opcode (R39). -/
def lxOf (op : Nat) (w : LXWord) : Option Instr :=
  match op with
  | 0x200 => some (.ld w) | 0x201 => some (.st w) | 0x202 => some (.lds w) | 0x203 => some (.sts w)
  | 0x204 => some (.atom w) | 0x205 => some (.atoms w) | 0x206 => some (.red w) | 0x207 => some (.pref w)
  | 0x280 => some (.trace w) | 0x281 => some (.traceq w) | 0x282 => some (.hitget w)
  | 0x283 => some (.primemit w) | 0x284 => some (.sample w) | 0x285 => some (.samplel w)
  | 0x286 => some (.sampleg w) | 0x287 => some (.texld w) | 0x288 => some (.texst w)
  | 0x290 => some (.lyins w) | 0x291 => some (.lyread w) | 0x292 => some (.lyresolve w)
  | 0x293 => some (.lyclear w)
  | 0x300 => some (.mma w) | 0x301 => some (.vmm w) | 0x302 => some (.accred w) | 0x303 => some (.accpeek w)
  | 0x308 => some (.trayput w) | 0x309 => some (.trayget w)
  | _ => none

end Sys2Proof.Machine
end

