-- ==== Sys2Proof/Machine/Legal.lean ====
section
/-! DEFINITION. Machine/Legal.lean: what each word names (registers, masks, feeds) and the part of R40's legality that
the word's bits alone decide; the bounds of R41 are compared against `Use` when the word issues. -/

namespace Sys2Proof.Machine

/-- What a word names. Registers come as (first, count). -/
structure Use where
  vr : List (Nat × Nat)
  vw : List (Nat × Nat)
  sr : List (Nat × Nat)
  sw : List (Nat × Nat)
  mr : List Nat
  mw : List Nat
  feeds : List Nat
  deriving DecidableEq, Repr

/-- Nothing named. -/
def Use.none : Use := { vr := [], vw := [], sr := [], sw := [], mr := [], mw := [], feeds := [] }

/-- Both named. -/
def Use.join (a b : Use) : Use :=
  { vr := a.vr ++ b.vr, vw := a.vw ++ b.vw, sr := a.sr ++ b.sr, sw := a.sw ++ b.sw, mr := a.mr ++ b.mr,
    mw := a.mw ++ b.mw, feeds := a.feeds ++ b.feeds }

/-- Every scalar register named lies below `sb` and every vector register below `va` (R40, R41). -/
def Use.within (u : Use) (sb va : Nat) : Bool :=
  (u.sr ++ u.sw).all (fun p => decide (p.1 + p.2 ≤ sb)) && (u.vr ++ u.vw).all (fun p => decide (p.1 + p.2 ≤ va))

/-- A list of registers, one entry each. -/
def spread (l : List (Nat × Nat)) : List Nat := l.flatMap (fun p => (List.range p.2).map (p.1 + ·))

/-! ## L-format words (R33, R192, R195, R202, R209 to R228) -/

/-- How an entry uses a source field: `ty` a source of the word's type, `ty2` of its second type, `w32` a 32-bit
source, `uty` one of the word's type but uniform (scalar or immediate), `mask` a mask number, `code n` a code below `n`,
`dst32` a second 32-bit destination (R227). -/
inductive Opd where
  | none | ty | ty2 | w32 | uty | mask | code (n : Nat) | dst32
  deriving DecidableEq, Repr

/-- The destination of an L-format word: a register of the word's type, a single register, a mask, a scalar. -/
inductive Dst where
  | ty | w32 | mask | scalar
  deriving DecidableEq, Repr

/-- What an L-format entry accepts. `ok` carries the entry's further conditions, `dstRead` that vd is also a source. -/
structure LSpec where
  types : List LType
  dst : Dst
  a : Opd
  b : Opd
  c : Opd
  mods : List Nat
  rnd : Bool
  sat : Bool
  ty2 : Bool
  dstRead : Bool
  ok : Bool
  deriving DecidableEq, Repr

/-- All integer types (R195). -/
def tyAll : List LType := [.i8, .i16, .i32, .i64, .n8, .n16, .n32, .n64]
/-- `Int32/64` (R195). -/
def tyInt : List LType := [.i32, .n32, .i64, .n64]
/-- `Bits32/64` (R195). -/
def tyBits : List LType := [.i32, .n32, .i64, .n64, .f32, .f64]
/-- The signed integer types (R195). -/
def tySigned : List LType := [.i8, .i16, .i32, .i64]
/-- `Float` (R215). -/
def tyFloat : List LType := [.f64, .f32, .f16, .bf16]
/-- Float types of `CVT` (R224). -/
def tyCvtF : List LType := [.f64, .f32, .f16, .bf16, .f8e4, .f8e5, .dx8]

/-- An entry with one, two or three sources of its type and no modifiers. -/
def LSpec.plain (types : List LType) (n : Nat) : LSpec :=
  { types := types, dst := .ty, a := .ty, b := if n ≥ 2 then .ty else .none, c := if n ≥ 3 then .ty else .none,
    mods := [0], rnd := false, sat := false, ty2 := false, dstRead := false, ok := true }

/-- Second type of an L word: bits [8:4] of imm32 (R35). -/
def ty2Of (w : LWord) : Option LType := ltypeOf (w.imm.extractLsb' 4 5).toNat

/-- The pairs `CVT` accepts (R224), destination first. -/
def cvtPair (d s : LType) : Bool :=
  (tyCvtF.contains s || isInt s) && (tyCvtF.contains d || isInt d)
    || (s == .f32 && d == .e8) || (s == .e8 && (d == .f32 || d == .e8))

/-- The pairs `CVTEF` accepts (R227), destination first. -/
def cvtefPair (d s : LType) : Bool :=
  (s == .f32 || s == .f64) && ([LType.f16, .bf16, .f8e4, .f8e5, .dx8].contains d || (d == .f32 && s == .f64))

/-- Some operand selects the immediate (R33). -/
def hasImm (w : LWord) : Bool := w.selA == .imm || w.selB == .imm || w.selC == .imm

/-- rnd of an L word (R35). -/
def rndOf (w : LWord) : Nat := if hasImm w then 0 else (w.imm.extractLsb' 0 3).toNat
/-- sat of an L word (R35). -/
def satOf (w : LWord) : Bool := if hasImm w then false else w.imm.getLsbD 3

/-- The entry of an L opcode. -/
def lSpec (op : Nat) (w : LWord) : Option LSpec :=
  let p := LSpec.plain
  let flt2 := { p tyFloat 2 with mods := [0, 1, 2, 3], rnd := true, sat := true }
  let spec := { p [.f32, .f16, .bf16] 1 with rnd := true, sat := true }
  let shf := { p tyBits 2 with mods := [0, 1] }
  match op with
  | 0x000 | 0x001 => some { p tyAll 2 with sat := true }
  | 0x002 | 0x003 => some (p tyAll 2)
  | 0x004 => some (p tyInt 3)
  | 0x005 | 0x006 | 0x007 | 0x008 => some (p tyInt 2)
  | 0x009 => some (p tyInt 1)
  | 0x00A | 0x00B | 0x00C | 0x00D | 0x00E | 0x00F => some (p tyAll 2)
  | 0x010 | 0x011 => some { p tySigned 1 with sat := true }
  | 0x012 | 0x013 | 0x014 => some (p tyAll 1)
  | 0x015 => some (p tyInt 3)
  | 0x016 => some { p tyInt 3 with dstRead := true }
  | 0x017 => some { p tyBits 2 with c := .mask }
  | 0x018 => some (p tyBits 1)
  | 0x019 => some { p tyBits 1 with ok := w.selA == .imm }
  | 0x01A => some { p tyAll 2 with dst := .mask, c := .code 6 }
  | 0x01B => some { p [.i32, .n32] 2 with c := .mask, ok := w.vc != 0 }
  | 0x01C => some (p [.i32, .n32] 1)
  | 0x01D => some (p [.i8, .n8] 3)
  | 0x080 | 0x081 | 0x082 => some flt2
  | 0x083 => some { flt2 with c := .ty }
  | 0x084 | 0x085 => some { flt2 with rnd := false, sat := false }
  | 0x086 => some { p tyFloat 2 with dst := .mask, c := .code 8 }
  | 0x087 => some { p tyFloat 2 with dst := .mask, b := .w32 }
  | 0x088 => some { p tyFloat 1 with rnd := true, sat := true }
  | 0x089 | 0x08D => some { p tyFloat 2 with b := .w32, rnd := true, sat := true }
  | 0x08A => some { p tyFloat 1 with mods := [0, 1], dst := if w.mods.getLsbD 0 then .w32 else .ty }
  | 0x08B => some { p [.f32] 3 with rnd := true, sat := true, ty2 := true,
                                     ok := ty2Of w == some .f16 || ty2Of w == some .bf16 }
  | 0x08C => some { p [.f32] 3 with rnd := true, sat := true, ty2 := true,
                                     ok := ty2Of w == some .f8e4 || ty2Of w == some .f8e5 }
  | 0x100 | 0x101 | 0x104 | 0x105 | 0x106 | 0x107 | 0x108 => some spec
  | 0x102 => some { spec with types := tyFloat }
  | 0x103 => some { p tyFloat 2 with rnd := true, sat := true }
  | 0x109 =>
    match ty2Of w with
    | none => none
    | some s => some { p (.e8 :: tyCvtF ++ tyAll) 1 with
        a := .ty2, rnd := true, sat := true, ty2 := true,
        ok := cvtPair w.ty s && (w.ty != .e8 || w.imm.extractLsb' 0 4 == 0) }
  | 0x10A =>
    match ty2Of w with
    | none => none
    | some s => some { p [.f32, .f16, .bf16, .f8e4, .f8e5, .dx8] 1 with
        a := .ty2, c := .dst32, rnd := true, sat := true, ty2 := true,
        ok := cvtefPair w.ty s && w.vc != w.vd }
  | 0x10B => some { p [.f16, .bf16, .i16, .n16, .f8e4, .f8e5, .dx8, .i8, .n8] 2 with
        mods := if ltypeBits w.ty == 8 then [0, 1] else [0], dstRead := ltypeBits w.ty == 8 }
  | 0x10C => some { p [.f16, .bf16, .i16, .n16, .f8e4, .f8e5, .dx8, .i8, .n8] 1 with
        mods := if ltypeBits w.ty == 8 then [0, 1, 2, 3] else [0, 1] }
  | 0x180 | 0x181 | 0x182 | 0x183 => some shf
  | 0x184 => some { shf with b := .uty }
  | 0x185 => some { p [.i32, .i64] 1 with dst := .mask }
  | 0x186 => some { p [.i32, .i64] 1 with dst := .mask, mods := [0, 1, 2] }
  | 0x187 | 0x188 => some { p (tyInt ++ [.f32]) 1 with
        c := .code 6, mods := if op == 0x187 then [0, 1] else [0], sat := w.vc == 0 && isInt w.ty,
        ok := w.ty != .f32 || decide (w.vc.toNat < 3) }
  | 0x189 => some { p tyBits 1 with c := .mask }
  | 0x18A => some { p tyBits 2 with dst := .scalar, b := .uty }
  | 0x18B => some { p tyBits 2 with a := .uty, b := .uty }
  | _ => none

/-- Registers an operand occupies. -/
def opdRegs (o : Opd) (w : LWord) : Nat :=
  match o with
  | .ty | .uty => regsOf w.ty
  | .ty2 => match ty2Of w with | some t => regsOf t | none => 1
  | _ => 1

/-- A source field is one R33 and R192 allow. -/
def opdOk (o : Opd) (w : LWord) (s : Sel) (f : BitVec 8) : Bool :=
  let n := opdRegs o w
  let src (uniform : Bool) : Bool :=
    match s with
    | .reg => !uniform && decide (f.toNat % n = 0)
    | .scalar => decide (f.toNat < 192) && decide (f.toNat % n = 0)
    | .feed => !uniform && decide (f.toNat < 4)
    | .imm => f == 0
  match o with
  | .none => s == .reg && f == 0
  | .mask => s == .reg && decide (f.toNat < 16)
  | .code k => s == .reg && decide (f.toNat < k)
  | .dst32 => s == .reg
  | .uty => src true
  | _ => src false

/-- What a source field names. -/
def opdUse (o : Opd) (w : LWord) (s : Sel) (f : BitVec 8) : Use :=
  let n := opdRegs o w
  match o with
  | .none | .code _ => Use.none
  | .mask => { Use.none with mr := [f.toNat] }
  | .dst32 => { Use.none with vw := [(f.toNat, 1)] }
  | _ =>
    match s with
    | .reg => { Use.none with vr := [(f.toNat, n)] }
    | .scalar => { Use.none with sr := [(f.toNat, n)] }
    | .feed => { Use.none with feeds := [f.toNat] }
    | .imm => Use.none

/-- The L-format word is legal by its bits (R40). -/
def lOk (op : Nat) (w : LWord) : Bool :=
  match lSpec op w with
  | none => false
  | some e =>
    e.types.contains w.ty && e.ok && e.mods.contains w.mods.toNat
      && opdOk e.a w w.selA w.va && opdOk e.b w w.selB w.vb && opdOk e.c w w.selC w.vc
      && (match e.dst with
          | .ty => decide (w.vd.toNat % regsOf w.ty = 0)
          | .w32 => true
          | .mask => decide (0 < w.vd.toNat) && decide (w.vd.toNat < 16)
          | .scalar => decide (w.vd.toNat % regsOf w.ty = 0) && decide (w.vd.toNat < 192))
      && (if hasImm w then !e.ty2
          else
            w.imm.extractLsb' 9 23 == 0
              && (if e.rnd then decide ((w.imm.extractLsb' 0 3).toNat ≤ 4) else w.imm.extractLsb' 0 3 == 0)
              && (e.sat || !w.imm.getLsbD 3)
              && (e.ty2 || w.imm.extractLsb' 4 5 == 0))

/-- What an L-format word names. -/
def lUse (op : Nat) (w : LWord) : Use :=
  match lSpec op w with
  | none => Use.none
  | some e =>
    let n := regsOf w.ty
    let d := w.vd.toNat
    let dst : Use :=
      match e.dst with
      | .ty => { Use.none with vw := [(d, n)], vr := if e.dstRead then [(d, n)] else [] }
      | .w32 => { Use.none with vw := [(d, 1)] }
      | .mask => { Use.none with mw := [d] }
      | .scalar => { Use.none with sw := [(d, n)] }
    let carry : Use := if op == 0x01B then { Use.none with mw := [w.vc.toNat] } else Use.none
    Use.join { Use.none with mr := [w.guard.toNat] }
      (Use.join (opdUse e.a w w.selA w.va) (Use.join (opdUse e.b w w.selB w.vb)
        (Use.join (opdUse e.c w w.selC w.vc) (Use.join dst carry))))

/-! ## Pairs (R37) -/

/-- The operation is of class 1. -/
def popFloat : POp → Bool
  | .fadd | .fsub | .fmul | .ffma | .fmin | .fmax => true
  | _ => false

/-- A half of a pair is legal by its bits (R37, R40). -/
def halfOk (h : PHalf) : Bool :=
  (if popFloat h.op then [LType.f32, .f16, .bf16].contains h.ty
   else [LType.i32, .n32].contains h.ty && h.flags == 0)
    && (h.op != .vmov || (h.vb == 0 && h.sel == .reg))
    && (h.sel != .scalar || decide (h.vb.toNat < 192))

/-- What a half of a pair names. -/
def halfUse (h : PHalf) : Use :=
  { vr := (h.va.toNat, 1) ::
      ((if h.op != .vmov && h.sel == .reg then [(h.vb.toNat, 1)] else [])
        ++ (if h.op == .ffma then [(h.vd.toNat, 1)] else [])),
    vw := [(h.vd.toNat, 1)],
    sr := if h.sel == .scalar then [(h.vb.toNat, 1)] else [],
    sw := [], mr := [h.guard.toNat], mw := [], feeds := [] }

/-! ## LX-format words (R36, R250 to R263, R367 to R400, R235, R236, R336, R348, R349, R352) -/

/-- Registers of each of A and B that a pair of element types needs (R332). -/
def mmaRegs (ta tb : LType) : Option Nat :=
  match ta, tb with
  | .f8e4, .f8e4 | .f8e4, .f8e5 | .f8e5, .f8e4 | .f8e5, .f8e5 => some 24
  | .f8e4, .dx8 | .f8e5, .dx8 => some 48
  | .f16, .f16 | .bf16, .bf16 => some 24
  | .f32, .f32 => some 12
  | .f64, .f64 => some 6
  | _, _ => none

/-- Types an atomic operation accepts (R261). -/
def atomTypes (aux : Nat) : List LType :=
  match aux with
  | 0 | 6 => [.i32, .n32, .i64, .n64, .f32, .f64]
  | 1 | 2 => [.i32, .n32, .i64, .n64, .f32]
  | 3 | 4 | 5 | 7 => [.i32, .n32, .i64, .n64]
  | _ => []

/-- The vector offset fields agree with nov (R250). -/
def novOk (w : LXWord) : Bool := !w.nov || (w.va == 0 && w.scale == 0)

/-- scope, order, scale, claim and nov are 0 (R367, R399, R235, R336). -/
def plainX (w : LXWord) : Bool :=
  w.scope == .wave && w.order == .rlx && w.scale == 0 && !w.claim && !w.nov

/-- sbase names an even pair below `s192 - n + 2` (R25, R36). -/
def pairBase (w : LXWord) (n : Nat) : Bool := decide (w.sbase.toNat % 2 = 0) && decide (w.sbase.toNat + n ≤ 192)

/-- A field names a register of the word's type (R33). -/
def evenFor (w : LXWord) (f : BitVec 8) : Bool := decide (f.toNat % regsOf w.ty = 0)

/-- Registers of `VMM`'s activation vector: K elements packed as R332 (R352). -/
def vmmRegs (w : LXWord) : Nat :=
  let k := (w.imm24.extractLsb' 0 7).toNat
  (k * (ltypeBits w.ty / 8) + 3) / 4

/-- The LX-format word is legal by its bits (R40). -/
def lxOk (op : Nat) (w : LXWord) : Bool :=
  let mem := w.ty != .e8 && novOk w && w.aux == 0
  let loadOrd := w.order == .rlx || w.order == .acq
  let storeOrd := w.order == .rlx || w.order == .rel
  let rmwOrd := loadOrd || storeOrd || w.order == .ar
  let scr := w.scope == .wave || w.scope == .group
  let f32 := w.ty == .f32 && plainX w
  let sbS := decide (w.sbase.toNat < 192)
  match op with
  | 0x200 => mem && pairBase w 2 && loadOrd && evenFor w w.vd && w.vb == 0 && !w.claim
  | 0x201 => mem && pairBase w 2 && storeOrd && evenFor w w.vb && w.vd == 0
      && (!w.claim || ((w.ty == .i32 || w.ty == .n32 || w.ty == .f32) && !w.nov))
  | 0x202 => mem && sbS && loadOrd && scr && evenFor w w.vd && w.vb == 0 && !w.claim
  | 0x203 => mem && sbS && storeOrd && scr && evenFor w w.vb && w.vd == 0 && !w.claim
  | 0x204 => novOk w && pairBase w 2 && rmwOrd && !w.claim && (atomTypes w.aux.toNat).contains w.ty
      && evenFor w w.vd && evenFor w w.vb && decide (w.vb.toNat + regsOf w.ty * (if w.aux == 7 then 2 else 1) ≤ 256)
  | 0x205 => novOk w && sbS && rmwOrd && scr && !w.claim && (atomTypes w.aux.toNat).contains w.ty
      && evenFor w w.vd && evenFor w w.vb && decide (w.vb.toNat + regsOf w.ty * (if w.aux == 7 then 2 else 1) ≤ 256)
  | 0x206 => novOk w && pairBase w 2 && !w.claim && decide (w.aux.toNat < 6)
      && (atomTypes w.aux.toNat).contains w.ty && evenFor w w.vb && w.vd == 0
      && (storeOrd || (w.order == .comm && w.aux == 0))
  | 0x207 => novOk w && pairBase w 2 && !w.claim && w.vd == 0 && w.vb == 0 && w.ty == .n32 && w.order == .rlx
      && w.scope == .dev && decide (w.aux.toNat ≤ 2)
  | 0x280 => f32 && pairBase w 2 && w.vb == 0 && decide (w.aux.toNat ≤ 3) && decide (w.imm24.toNat < 256)
  | 0x281 => f32 && pairBase w 2 && w.vb == 0 && decide (w.aux.toNat ≤ 3) && decide (w.imm24.toNat < 256)
      && decide (0 < w.vd.toNat) && decide (w.vd.toNat < 16)
  | 0x282 => f32 && w.sbase == 0 && w.vb == 0 && w.aux == 0 && decide (w.imm24.toNat ≤ 3)
  | 0x283 => f32 && w.sbase == 0 && w.vd == 0 && w.aux == 0 && w.imm24 == 0 && decide (w.vb.toNat % 2 = 0)
  | 0x284 => f32 && pairBase w 2 && w.vb == 0 && w.aux == 0 && decide (w.imm24.toNat < 65536)
  | 0x285 => f32 && pairBase w 2 && w.vb == 0 && w.aux == 0 && w.imm24 == 0
  | 0x286 => f32 && pairBase w 2 && w.aux == 0 && decide (w.imm24.toNat < 65536)
  | 0x287 => f32 && pairBase w 2 && w.vb == 0 && w.aux == 0 && decide (w.imm24.toNat < 16)
  | 0x288 => f32 && pairBase w 2 && w.vd == 0 && w.aux == 0 && decide (w.imm24.toNat < 16)
  | 0x290 => f32 && pairBase w 2 && w.vd == 0 && w.aux == 0 && w.imm24 == 0
  | 0x291 => f32 && pairBase w 2 && w.vb == 0 && decide (w.aux.toNat ≤ 1) && decide (w.imm24.toNat < 8)
  | 0x292 => f32 && pairBase w 4 && w.vd == 0 && decide (w.aux.toNat ≤ 1) && w.imm24 == 0
  | 0x293 => f32 && pairBase w 2 && w.vd == 0 && w.vb == 0 && w.aux == 0 && w.imm24 == 0
  | 0x300 => plainX w && pairBase w 4 && w.vd == 0 && decide (w.imm24.toNat ≤ 1)
      && (match ltypeOf w.aux.toNat with
          | some tb => (mmaRegs w.ty tb).isSome
          | none => false)
      && evenFor w w.va && evenFor w w.vb
  | 0x301 => w.scope == .wave && w.order == .rlx && w.scale == 0 && !w.claim
      && (if w.nov then pairBase w 4 && w.vb == 0 else pairBase w 2 && decide (w.vb.toNat % 2 = 0))
      && [LType.f16, .f8e4, .f8e5].contains w.ty
      && (match ltypeOf w.aux.toNat with
          | some tb => [LType.f16, .f8e4, .f8e5, .dx8].contains tb
          | none => false)
      && decide (1 ≤ (w.imm24.extractLsb' 0 7).toNat) && decide ((w.imm24.extractLsb' 0 7).toNat ≤ 64)
      && decide (w.imm24.toNat < 4096)
  | 0x302 => novOk w && pairBase w 2 && w.vd == 0 && w.order == .comm && w.scope == .dev && w.aux == 0 && !w.claim
      && [LType.f32, .f64, .i64].contains w.ty && evenFor w w.vb
  | 0x303 => novOk w && pairBase w 2 && w.vb == 0 && w.order == .rlx && w.scope == .dev && w.aux == 0 && !w.claim
      && [LType.f32, .f64, .i64].contains w.ty && evenFor w w.vd
  | 0x308 => w.ty == .n32 && plainX w && w.vd == 0 && w.sbase == 0 && decide (w.imm24.toNat ≤ 3)
  | 0x309 => w.ty == .n32 && plainX w && w.va == 0 && w.vb == 0 && w.sbase == 0 && w.aux == 0 && w.imm24 == 0
  | _ => false

/-- What an LX-format word names. A `TRAYPUT` of a record of 0 words counts as naming the one register vb, of any number (DESIGN CHOICE, log
16: R40 and R233 say neither that vb is 0 there nor that it need not lie in the allocation). -/
def lxUse (op : Nat) (w : LXWord) : Use :=
  let r := regsOf w.ty
  let vd := w.vd.toNat
  let va := w.va.toNat
  let vb := w.vb.toNat
  let g : Use := { Use.none with mr := [w.guard.toNat] }
  let base (n : Nat) : Use := { g with sr := [(w.sbase.toNat, n)] }
  let off := if w.nov then [] else [(va, 1)]
  match op with
  | 0x200 => { base 2 with vr := off, vw := [(vd, r)] }
  | 0x201 => { base 2 with vr := (vb, r) :: off }
  | 0x202 => { base 1 with vr := off, vw := [(vd, r)] }
  | 0x203 => { base 1 with vr := (vb, r) :: off }
  | 0x204 => { base 2 with vr := (vb, if w.aux == 7 then 2 * r else r) :: off, vw := [(vd, r)] }
  | 0x205 => { base 1 with vr := (vb, if w.aux == 7 then 2 * r else r) :: off, vw := [(vd, r)] }
  | 0x206 => { base 2 with vr := (vb, r) :: off }
  | 0x207 => { base 2 with vr := off }
  | 0x280 => { base 2 with vr := [(va, 8)], vw := [(vd, 8)] }
  | 0x281 => { base 2 with vr := [(va, 8)], mw := [vd] }
  | 0x282 => { g with vr := [(va, 8)], vw := [(vd, w.imm24.toNat + 1)] }
  | 0x283 => { g with vr := [(va, 9), (vb, 6)] }
  | 0x284 => { base 2 with vr := [(va, 3)], vw := [(vd, 4)] }
  | 0x285 => { base 2 with vr := [(va, 4)], vw := [(vd, 4)] }
  | 0x286 => { base 2 with vr := [(va, 3), (vb, 4)], vw := [(vd, 4)] }
  | 0x287 => { base 2 with vr := [(va, 3)], vw := [(vd, 4)] }
  | 0x288 => { base 2 with vr := [(va, 3), (vb, 4)] }
  | 0x290 => { base 2 with vr := [(va, 2), (vb, 4)] }
  | 0x291 => { base 2 with vr := [(va, 2)], vw := [(vd, if w.aux == 1 then 1 else 4)] }
  | 0x292 => { base 4 with vr := [(va, 2), (vb, 4)] }
  | 0x293 => { base 2 with vr := [(va, 2)] }
  | 0x300 =>
    let n := match ltypeOf w.aux.toNat with
      | some tb => (mmaRegs w.ty tb).getD 0
      | none => 0
    { base 4 with vr := [(va, n), (vb, n)] }
  | 0x301 =>
    { base (if w.nov then 4 else 2) with
      vr := (va, vmmRegs w) :: (if w.nov then [] else [(vb, 2)]),
      vw := [(vd, (w.imm24.extractLsb' 7 5).toNat + 1)] }
  | 0x302 => { base 2 with vr := (vb, r) :: off }
  | 0x303 => { base 2 with vr := off, vw := [(vd, r)] }
  | 0x308 => { g with vr := [(va, 1), (vb, max 1 w.imm24.toNat)] }
  | 0x309 => { g with vw := [(vd, 4)] }
  | _ => Use.none

/-! ## Scalar words (R24 to R31) -/

/-- Scalar registers of a type (R27). -/
def sregsOf (t : SType) : Nat := if stypeWide t then 2 else 1

/-- The control register is 64 bits wide (R31). -/
def ctlWide (r : BitVec 8) : Bool := r == 0x0E || r == 0x10 || r == 0x12 || r == 0x16 || r == 0x18

/-- Scalar registers read and written. -/
def sUse (rd wr : List (SReg × Nat)) : Use :=
  { Use.none with sr := rd.map (fun p => (p.1.toNat, p.2)), sw := wr.map (fun p => (p.1.toNat, p.2)) }

/-- What a word names. -/
def useOf (i : Instr) : Use :=
  match i with
  | .sadd t d a b | .ssub t d a b | .smul t d a b | .smulh t d a b | .sdiv t d a b | .srem t d a b
  | .sand t d a b | .sor t d a b | .sxor t d a b | .sandn t d a b | .sshl t d a b | .smin t d a b | .smax t d a b
  | .saddc t d a b => sUse [(a, sregsOf t), (b, sregsOf t)] [(d, sregsOf t)]
  | .sshr w d a b | .ssar w d a b =>
    sUse [(a, if w then 2 else 1), (b, if w then 2 else 1)] [(d, if w then 2 else 1)]
  | .scmp t a b => sUse [(a, sregsOf t), (b, sregsOf t)] []
  | .saddImm d a _ | .smulImm d a _ | .sandImm d a _ | .sorImm d a _ | .sxorImm d a _ | .sminImm d a _
  | .smaxImm d a _ => sUse [(a, 1)] [(d, 1)]
  | .sshlImm d a _ | .sshrImm d a _ | .ssarImm d a _ => sUse [(a, 1)] [(d, 1)]
  | .scmpImm a _ | .ststImm a _ => sUse [(a, 1)] []
  | .sbfx d a _ _ => sUse [(a, 1)] [(d, 1)]
  | .sext d a _ => sUse [(a, 1)] [(d, 1)]
  | .sclz d a w | .spopc d a w => sUse [(a, if w then 2 else 1)] [(d, 1)]
  | .stst a b => sUse [(a, 1), (b, 1)] []
  | .ssel d a b _ => sUse [(a, 1), (b, 1)] [(d, 1)]
  | .sli f d _ => sUse [] [(d, if f == .w32 then 1 else 2)]
  | .bmz m _ | .bmnz m _ | .split m _ => { Use.none with mr := [m.toNat] }
  | .call _ => { Use.none with sw := [(190, 2)] }
  | .ret a => sUse [(a, 2)] []
  | .regroup d a => sUse [(a, 1)] [(d, 1)]
  | .lrunx a b => sUse [(a, 1), (b, 1)] []
  | .feedset _ a b _ => sUse [(a, 2), (b, 2)] []
  | .mand d a b | .mor d a b | .mxor d a b | .mandn d a b =>
    { Use.none with mr := [a.toNat, b.toNat], mw := [d.toNat] }
  | .mnot d a => { Use.none with mr := [a.toNat], mw := [d.toNat] }
  | .mset d a => { sUse [(a, 1)] [] with mw := [d.toNat] }
  | .mget d a | .mpop d a | .mfirst d a => { sUse [] [(d, 1)] with mr := [a.toNat] }
  | .sld d a _ | .sldk d a _ => sUse [(a, 2)] [(d, 1)]
  | .sst d a _ => sUse [(a, 2), (d, 1)] []
  | .sldOrdered d a _ _ w => sUse [(a, 2)] [(d, if w then 2 else 1)]
  | .sstOrdered d a _ _ w => sUse [(a, 2), (d, if w then 2 else 1)] []
  | .binit d a _ | .bwait d a _ | .barrx d a _ => sUse [(a, 1)] [(d, 1)]
  | .barr d _ | .bsync d _ => sUse [] [(d, 1)]
  | .waita d a _ => sUse [(a, 2), (d, 1)] []
  | .wake a _ => sUse [(a, 2)] []
  | .backoff m => { Use.none with mr := [m.toNat] }
  | .klaunch d a | .tspawn d a | .tdec d a | .tadd d a _ => sUse [(a, 2)] [(d, 1)]
  | .vgive d _ | .vclaim d _ => sUse [] [(d, 1)]
  | .carve d a _ => sUse [(a, 1)] [(d, 1)]
  | .mqsend d a => sUse [(a, 2)] [(d, 1)]
  | .mqrecv d a _ => sUse [(a, 1)] [(d, 1)]
  | .mqcount d _ => sUse [] [(d, 1)]
  | .qpost d a => sUse [(a, 2)] [(d, 1)]
  | .xcopy d a _ | .xgather d a _ | .xscatter d a _ | .xfill d a _ | .mloop d a _ | .accdrain d a _ =>
    sUse [(a, 2)] [(d, 1)]
  | .xcancel d a | .evcfg d a | .traycfg d a => sUse [(a, 1)] [(d, 1)]
  | .evpop d _ | .evwait d _ => sUse [] [(d, 8)]
  | .trayflush d a all => sUse (if all then [] else [(a, 1)]) [(d, 1)]
  | .lycfg d a _ => sUse [(a, 2)] [(d, 1)]
  | .accopen d a | .accabort d a | .accwait d a => sUse [(a, 2)] [(d, 1)]
  | .pgmap d a _ _ => sUse [(a, 2), (d, 1)] [(d, 1)]
  | .pgtake d put => sUse (if put then [(d, 1)] else []) [(d, 1)]
  | .pgunmap d a _ => sUse [(a, 2)] [(d, 1)]
  | .pginv d a => sUse [(a, 2), (d, 1)] []
  | .pgharvest d a => sUse [(a, 2), (d, 1)] [(d, 1)]
  | .pgmigrate d a | .pgquery d a => sUse [(a, 2)] [(d, 1)]
  | .csheet d a _ => sUse [(a, 2)] [(d, 1)]
  | .halodecl d a => sUse [(a, 2)] [(d, 1)]
  | .halopush d a | .haloend d a => sUse [(a, 1)] [(d, 1)]
  | .lclaim d a => sUse [(a, 2)] [(d, 1)]
  | .cwb d a | .cinv d a => sUse [(a, 2), (d, 1)] []
  | .sget d r => sUse [] [(d, if ctlWide r then 2 else 1)]
  | .sset a r => sUse [(a, if ctlWide r then 2 else 1)] []
  | .lanePair x y => Use.join (halfUse x) (halfUse y)
  | i =>
    match lView i with
    | some (op, w) => lUse op.toNat w
    | none =>
      match lxView i with
      | some (op, w) => lxUse op.toNat w
      | none => Use.none

/-- What a word's register fields name: `CALL` writes its pair without a field, so no bound of R40 meets it. -/
def namedUse (i : Instr) : Use :=
  match i with
  | .call _ => Use.none
  | _ => useOf i

/-- Scope codes `WAITA` and `WAKE` accept (R247). -/
def waitScope : Scope → Bool
  | .wave | .clus => false
  | _ => true

/-- Conditions of a scalar word's entry beyond its registers (R25 to R30). -/
def scalarOk (i : Instr) : Bool :=
  match i with
  | .mand d _ _ | .mor d _ _ | .mxor d _ _ | .mandn d _ _ | .mnot d _ | .mset d _ => d != 0
  | .sldOrdered _ _ _ o _ => o == .rlx || o == .acq
  | .sstOrdered _ _ _ o _ => o == .rlx || o == .rel
  | .waita _ _ s | .wake _ s => waitScope s
  | .tadd _ _ n => n != 0
  | .vgive _ n | .vclaim _ n => n != 0 && decide (n.toNat < 32)
  | .evpop d _ | .evwait d _ => decide (d.toNat % 8 = 0) && decide (8 ≤ d.toNat) && decide (d.toNat ≤ 184)
  | .trayflush _ a all => !all || a == 0
  | .lanePair x y => halfOk x && halfOk y
  | _ => true

/-- Every scalar register is below `s192`, every scalar pair even, and every vector register below 256 (R25, R40). -/
def regsOk (u : Use) : Bool :=
  u.within 192 256 && (u.sr ++ u.sw).all (fun p => p.2 == 1 || p.1 % 2 == 0)

/-- The word is legal by its bits alone (R40). Device events are no words and carry no reserved field. -/
def legal (i : Instr) : Bool :=
  regsOk (useOf i) &&
    match lView i with
    | some (op, w) => lOk op.toNat w
    | none =>
      match lxView i with
      | some (op, w) => lxOk op.toNat w
      | none => scalarOk i

end Sys2Proof.Machine
end

