-- ==== Sys2Proof/WellFormed.lean ====
section
/-! DEFINITION. WellFormed.lean: which instructions some word encodes (R40). The conditions are in Machine/Legal.lean;
a device event is no word and is well formed for every argument. -/

namespace Sys2Proof

/-- The instruction breaks no rule of R40 that its bits alone decide. -/
def wellFormed (i : Instr) : Bool := Machine.legal i

end Sys2Proof
end

