-- ==== Sys2Proof/Decode.lean ====
section
/-! DEFINITION. Decode.lean: the words of R24 to R40 as instructions and back. A word is read field by field into a
candidate; it is accepted when the candidate is legal and every field its form does not use is 0 (R40), that is when the
candidate's encoding is the word. -/

namespace Sys2Proof

open Sys2Proof.Machine

/-- The word or words of an instruction: a scalar word, an `SLI` with its second word (R25), a lane word (R32). -/
inductive Code where
  | word (w : BitVec 32)
  | long (w imm : BitVec 32)
  | lane (w : BitVec 96)
  deriving DecidableEq, Repr

/-- Why a word is no instruction (R40); each raises `ILLEGAL`. -/
inductive Reject where
  /-- Too few bytes for the word. -/
  | truncated
  /-- A reserved major, format, class, opcode, hop, function, command, condition, scope, order, select or type code. -/
  | reservedCode
  /-- A nonzero field that is reserved or that the form does not use. -/
  | reservedField
  /-- A register, mask or operand its entry does not accept. -/
  | badOperand
  deriving DecidableEq, Repr

/-! ## Formats -/

/-- A scalar word from its four fields: major, sd, sa and the low ten bits (R24). -/
def packS (maj : BitVec 6) (d a : BitVec 8) (f : BitVec 10) : BitVec 32 := maj ++ d ++ a ++ f

/-- Major of a scalar word. -/
def sMaj (w : BitVec 32) : BitVec 6 := w.extractLsb' 26 6
/-- sd. -/
def sD (w : BitVec 32) : BitVec 8 := w.extractLsb' 18 8
/-- sa. -/
def sA (w : BitVec 32) : BitVec 8 := w.extractLsb' 10 8
/-- The low ten bits. -/
def sF (w : BitVec 32) : BitVec 10 := w.extractLsb' 0 10

/-- SR format: sb and minor (R24). -/
def packSR (maj : BitVec 6) (d a b : BitVec 8) (m : BitVec 2) : BitVec 32 := packS maj d a (b ++ m)

/-- SB format: cond and offset (R24). -/
def packSB (maj : BitVec 6) (c : BitVec 4) (o : BitVec 22) : BitVec 32 := maj ++ c ++ o

/-- A command word of majors 0x38 to 0x3B: command in function[9:6], modifiers in function[5:0] (R30). -/
def packCmd (maj : BitVec 6) (d a : BitVec 8) (cmd : BitVec 4) (m : BitVec 6) : BitVec 32 := packS maj d a (cmd ++ m)

/-- A mask number in an eight-bit field (R25). -/
def m8 (m : BitVec 4) : BitVec 8 := (0 : BitVec 4) ++ m

/-- An L-format word (R32). -/
def packL (op : BitVec 10) (w : LWord) : BitVec 96 :=
  (0 : BitVec 2) ++ op ++ w.guard ++ b1 w.stop ++ w.vd ++ w.va ++ w.vb ++ w.vc ++ ltypeCode w.ty ++ w.mods
    ++ selCode w.selC ++ selCode w.selB ++ selCode w.selA ++ w.imm

/-- An LX-format word (R32, R36). -/
def packLX (op : BitVec 10) (w : LXWord) : BitVec 96 :=
  (2 : BitVec 2) ++ op ++ w.guard ++ b1 w.stop ++ w.vd ++ w.va ++ w.vb ++ w.sbase ++ ltypeCode w.ty
    ++ scopeCode w.scope ++ lorderCode w.order ++ w.scale ++ b1 w.claim ++ b1 w.nov ++ w.aux ++ w.imm24

/-- A half of a pair (R37). -/
def packHalf (h : PHalf) : BitVec 47 :=
  popCode h.op ++ h.guard ++ b1 h.stop ++ h.vd ++ h.va ++ h.vb ++ (ltypeCode h.ty).extractLsb' 0 4 ++ pselCode h.sel
    ++ h.flags ++ (0 : BitVec 4)

/-- A P-format word (R37). -/
def packP (x y : PHalf) : BitVec 96 := (1 : BitVec 2) ++ packHalf x ++ packHalf y

/-! ## The encoder -/

/-- The words of an instruction (R26 to R39); a device event has none. -/
def encode (i : Instr) : Option Code :=
  let w (x : BitVec 32) : Option Code := some (.word x)
  let sr (maj : BitVec 6) (t : SType) (d a b : SReg) := w (packSR maj d a b (stypeCode t))
  match i with
  | .sadd t d a b => sr 0x00 t d a b
  | .ssub t d a b => sr 0x01 t d a b
  | .smul t d a b => sr 0x02 t d a b
  | .smulh t d a b => sr 0x03 t d a b
  | .sdiv t d a b => sr 0x04 t d a b
  | .srem t d a b => sr 0x05 t d a b
  | .sand t d a b => sr 0x06 t d a b
  | .sor t d a b => sr 0x07 t d a b
  | .sxor t d a b => sr 0x08 t d a b
  | .sandn t d a b => sr 0x09 t d a b
  | .sshl t d a b => sr 0x0A t d a b
  | .sshr wd d a b => sr 0x0B (if wd then .n64 else .n32) d a b
  | .ssar wd d a b => sr 0x0B (if wd then .i64 else .i32) d a b
  | .smin t d a b => sr 0x0C t d a b
  | .smax t d a b => sr 0x0D t d a b
  | .scmp t a b => sr 0x0E t 0 a b
  | .saddc t d a b => sr 0x0F t d a b
  | .saddImm d a n => w (packS 0x10 d a n)
  | .smulImm d a n => w (packS 0x11 d a n)
  | .sandImm d a n => w (packS 0x12 d a n)
  | .sorImm d a n => w (packS 0x13 d a n)
  | .sxorImm d a n => w (packS 0x14 d a n)
  | .sshlImm d a n => w (packS 0x15 d a ((0 : BitVec 5) ++ n))
  | .sshrImm d a n => w (packS 0x16 d a ((0 : BitVec 5) ++ n))
  | .ssarImm d a n => w (packS 0x17 d a ((0 : BitVec 5) ++ n))
  | .sminImm d a n => w (packS 0x18 d a n)
  | .smaxImm d a n => w (packS 0x19 d a n)
  | .scmpImm a n => w (packS 0x1A 0 a n)
  | .ststImm a n => w (packS 0x1B 0 a n)
  | .sbfx d a wi o => w (packS 0x1C d a (wi ++ o))
  | .sext d a b => w (packS 0x1D d a ((0 : BitVec 5) ++ b))
  | .sclz d a wd => w (packS 0x1E d a ((0 : BitVec 2) ++ (0 : BitVec 7) ++ b1 wd))
  | .spopc d a wd => w (packS 0x1E d a ((1 : BitVec 2) ++ (0 : BitVec 7) ++ b1 wd))
  | .stst a b => w (packS 0x1E 0 a ((2 : BitVec 2) ++ b))
  | .ssel d a b c => w (packSR 0x1F d a b (selCondCode c))
  | .sli f d n => some (.long (packS 0x3E d 0 (sliCode f)) n)
  | .bc c o => w (packSB 0x20 (condCode c) o)
  | .bmz m o => w (packSB 0x21 m o)
  | .bmnz m o => w (packSB 0x22 m o)
  | .call o => w (packSB 0x23 0 o)
  | .split m o => w (packSB 0x24 m o)
  | .join t => w (packS 0x25 0 0 t)
  | .exit => w (packS 0x26 0 0 0x000)
  | .yield => w (packS 0x26 0 0 0x001)
  | .nop => w (packS 0x26 0 0 0x002)
  | .ret a => w (packS 0x26 0 a 0x003)
  | .ldrain => w (packS 0x26 0 0 0x004)
  | .regroup d a => w (packS 0x26 d a 0x005)
  | .hint n => w (packS 0x26 0 0 ((1 : BitVec 2) ++ n))
  | .lrun l n => w ((0x28 : BitVec 6) ++ l ++ n)
  | .lrunx a b => w (packSR 0x29 0 a b 0)
  | .feedset f a b z => w (packSR 0x2A ((0 : BitVec 6) ++ f) a b z)
  | .feedstop f => w (packS 0x2B 0 0 ((0 : BitVec 8) ++ f))
  | .mand d a b => w (packSR 0x2C (m8 d) (m8 a) (m8 b) 0)
  | .mor d a b => w (packSR 0x2C (m8 d) (m8 a) (m8 b) 1)
  | .mxor d a b => w (packSR 0x2C (m8 d) (m8 a) (m8 b) 2)
  | .mandn d a b => w (packSR 0x2C (m8 d) (m8 a) (m8 b) 3)
  | .mnot d a => w (packS 0x2D (m8 d) (m8 a) 0x000)
  | .mset d a => w (packS 0x2D (m8 d) a 0x001)
  | .mget d a => w (packS 0x2D d (m8 a) 0x002)
  | .mpop d a => w (packS 0x2D d (m8 a) 0x003)
  | .mfirst d a => w (packS 0x2D d (m8 a) 0x004)
  | .sld d a n => w (packS 0x30 d a n)
  | .sst d a n => w (packS 0x31 d a n)
  | .sldk d a n => w (packS 0x32 d a n)
  | .sldOrdered d a s o wd =>
    w (packS 0x33 d a ((0 : BitVec 1) ++ scopeCode s ++ orderCode o ++ b1 wd ++ (0 : BitVec 3)))
  | .sstOrdered d a s o wd =>
    w (packS 0x33 d a ((1 : BitVec 1) ++ scopeCode s ++ orderCode o ++ b1 wd ++ (0 : BitVec 3)))
  | .binit d a n => w (packS 0x34 d a ((0 : BitVec 3) ++ n ++ (0 : BitVec 3)))
  | .barr d n => w (packS 0x34 d 0 ((1 : BitVec 3) ++ n ++ (0 : BitVec 3)))
  | .bwait d a n => w (packS 0x34 d a ((2 : BitVec 3) ++ n ++ (0 : BitVec 3)))
  | .bsync d n => w (packS 0x34 d 0 ((3 : BitVec 3) ++ n ++ (0 : BitVec 3)))
  | .barrx d a n => w (packS 0x34 d a ((4 : BitVec 3) ++ n ++ (0 : BitVec 3)))
  | .waita d a s => w (packS 0x35 d a (scopeCode s ++ (0 : BitVec 7)))
  | .wake a s => w (packS 0x36 0 a (scopeCode s ++ (0 : BitVec 7)))
  | .fence s o => w (packS 0x37 0 0 ((0 : BitVec 2) ++ scopeCode s ++ orderCode o ++ (0 : BitVec 3)))
  | .backoff m => w (packS 0x37 0 (m8 m) 0x100)
  | .klaunch d a => w (packCmd 0x38 d a 0 0)
  | .tspawn d a => w (packCmd 0x38 d a 1 0)
  | .tdec d a => w (packCmd 0x38 d a 2 0)
  | .tadd d a n => w (packCmd 0x38 d a 3 n)
  | .vgive d n => w (packCmd 0x38 d 0 4 n)
  | .vclaim d n => w (packCmd 0x38 d 0 5 n)
  | .carve d a h => w (packCmd 0x38 d a 6 ((0 : BitVec 5) ++ b1 h))
  | .mqsend d a => w (packCmd 0x38 d a 7 0)
  | .mqrecv d a t => w (packCmd 0x38 d a 8 ((0 : BitVec 5) ++ b1 t))
  | .mqcount d t => w (packCmd 0x38 d 0 9 ((0 : BitVec 5) ++ b1 t))
  | .qpost d a => w (packCmd 0x38 d a 10 0)
  | .tkill g => w (packCmd 0x38 0 0 11 ((0 : BitVec 5) ++ b1 g))
  | .xcopy d a q => w (packCmd 0x39 d a 0 ((0 : BitVec 4) ++ q))
  | .xgather d a q => w (packCmd 0x39 d a 1 ((0 : BitVec 4) ++ q))
  | .xscatter d a q => w (packCmd 0x39 d a 2 ((0 : BitVec 4) ++ q))
  | .xfill d a q => w (packCmd 0x39 d a 3 ((0 : BitVec 4) ++ q))
  | .xcancel d a => w (packCmd 0x39 d a 4 0)
  | .evpop d q => w (packCmd 0x39 d 0 5 ((0 : BitVec 4) ++ q))
  | .evwait d q => w (packCmd 0x39 d 0 6 ((0 : BitVec 4) ++ q))
  | .evcfg d a => w (packCmd 0x39 d a 7 0)
  | .trayflush d a all => w (packCmd 0x39 d a 8 ((0 : BitVec 5) ++ b1 all))
  | .traycfg d a => w (packCmd 0x39 d a 9 0)
  | .lycfg d a f => w (packCmd 0x39 d a 10 ((0 : BitVec 4) ++ lyCode f))
  | .mloop d a q => w (packCmd 0x3A d a 0 ((0 : BitVec 4) ++ q))
  | .accopen d a => w (packCmd 0x3A d a 1 0)
  | .accdrain d a q => w (packCmd 0x3A d a 2 ((0 : BitVec 4) ++ q))
  | .accabort d a => w (packCmd 0x3A d a 3 0)
  | .accwait d a => w (packCmd 0x3A d a 4 0)
  | .pgmap d a wr x => w (packCmd 0x3B d a 0 ((0 : BitVec 4) ++ b1 x ++ b1 wr))
  | .pgtake d put => w (packCmd 0x3B d 0 1 ((0 : BitVec 5) ++ b1 put))
  | .pgunmap d a f => w (packCmd 0x3B d a 2 ((0 : BitVec 5) ++ b1 f))
  | .pginv d a => w (packCmd 0x3B d a 3 0)
  | .pgharvest d a => w (packCmd 0x3B d a 4 0)
  | .pgmigrate d a => w (packCmd 0x3B d a 5 0)
  | .pgquery d a => w (packCmd 0x3B d a 6 0)
  | .csheet d a f => w (packCmd 0x3B d a 7 ((0 : BitVec 4) ++ sheetCode f))
  | .halodecl d a => w (packCmd 0x3B d a 8 0)
  | .halopush d a => w (packCmd 0x3B d a 9 0)
  | .haloend d a => w (packCmd 0x3B d a 10 0)
  | .lclaim d a => w (packCmd 0x3B d a 11 0)
  | .cwb d a => w (packCmd 0x3B d a 12 0)
  | .cinv d a => w (packCmd 0x3B d a 13 0)
  | .sget d r => w (packS 0x3C d 0 ((0 : BitVec 2) ++ r))
  | .sset a r => w (packS 0x3C 0 a ((1 : BitVec 2) ++ r))
  | .svc n => w (packS 0x3D 0 0 ((0 : BitVec 2) ++ n))
  | .trap n => w (packS 0x3D 0 0 ((1 : BitVec 2) ++ n))
  | .eret => w (packS 0x3D 0 0 0x200)
  | .eretRetry => w (packS 0x3D 0 0 0x201)
  | .eretSkip => w (packS 0x3D 0 0 0x202)
  | .lanePair x y => some (.lane (packP x y))
  | i =>
    match lView i with
    | some (op, x) => some (.lane (packL op x))
    | none =>
      match lxView i with
      | some (op, x) => some (.lane (packLX op x))
      | none => none

/-! ## The decoder -/

/-- The command of a major 0x38 word (R30). -/
def cmd38 (c : Nat) (d a : SReg) (m : BitVec 6) : Option Instr :=
  match c with
  | 0 => some (.klaunch d a) | 1 => some (.tspawn d a) | 2 => some (.tdec d a) | 3 => some (.tadd d a m)
  | 4 => some (.vgive d m) | 5 => some (.vclaim d m) | 6 => some (.carve d a (m.getLsbD 0))
  | 7 => some (.mqsend d a) | 8 => some (.mqrecv d a (m.getLsbD 0)) | 9 => some (.mqcount d (m.getLsbD 0))
  | 10 => some (.qpost d a) | 11 => some (.tkill (m.getLsbD 0))
  | _ => none

/-- The command of a major 0x39 word (R30). -/
def cmd39 (c : Nat) (d a : SReg) (m : BitVec 6) : Option Instr :=
  let q := m.extractLsb' 0 2
  match c with
  | 0 => some (.xcopy d a q) | 1 => some (.xgather d a q) | 2 => some (.xscatter d a q) | 3 => some (.xfill d a q)
  | 4 => some (.xcancel d a) | 5 => some (.evpop d q) | 6 => some (.evwait d q) | 7 => some (.evcfg d a)
  | 8 => some (.trayflush d a (m.getLsbD 0)) | 9 => some (.traycfg d a)
  | 10 =>
    match q.toNat with
    | 0 => some (.lycfg d a .init) | 1 => some (.lycfg d a .grow) | 2 => some (.lycfg d a .query) | _ => none
  | _ => none

/-- The command of a major 0x3A word (R30). -/
def cmd3A (c : Nat) (d a : SReg) (m : BitVec 6) : Option Instr :=
  let q := m.extractLsb' 0 2
  match c with
  | 0 => some (.mloop d a q) | 1 => some (.accopen d a) | 2 => some (.accdrain d a q) | 3 => some (.accabort d a)
  | 4 => some (.accwait d a)
  | _ => none

/-- The command of a major 0x3B word (R30). -/
def cmd3B (c : Nat) (d a : SReg) (m : BitVec 6) : Option Instr :=
  match c with
  | 0 => some (.pgmap d a (m.getLsbD 0) (m.getLsbD 1)) | 1 => some (.pgtake d (m.getLsbD 0))
  | 2 => some (.pgunmap d a (m.getLsbD 0)) | 3 => some (.pginv d a) | 4 => some (.pgharvest d a)
  | 5 => some (.pgmigrate d a) | 6 => some (.pgquery d a)
  | 7 =>
    match (m.extractLsb' 0 2).toNat with
    | 0 => some (.csheet d a .snapshot) | 1 => some (.csheet d a .decl) | 2 => some (.csheet d a .drop) | _ => none
  | 8 => some (.halodecl d a) | 9 => some (.halopush d a) | 10 => some (.haloend d a) | 11 => some (.lclaim d a)
  | 12 => some (.cwb d a) | 13 => some (.cinv d a)
  | _ => none

/-- The control word of a function of major 0x26 (R29). -/
def ctl26 (d a : SReg) (f : BitVec 10) : Option Instr :=
  if f.extractLsb' 8 2 = 1 then some (.hint (f.extractLsb' 0 8)) else
  match f.toNat with
  | 0 => some .exit | 1 => some .yield | 2 => some .nop | 3 => some (.ret a) | 4 => some .ldrain
  | 5 => some (.regroup d a)
  | _ => none

/-- The system word of a function of major 0x3D (R29). -/
def ctl3D (f : BitVec 10) : Option Instr :=
  match (f.extractLsb' 8 2).toNat with
  | 0 => some (.svc (f.extractLsb' 0 8))
  | 1 => some (.trap (f.extractLsb' 0 8))
  | 2 =>
    match (f.extractLsb' 0 8).toNat with
    | 0 => some .eret | 1 => some .eretRetry | 2 => some .eretSkip | _ => none
  | _ => none

/-- The instruction a scalar word's fields name, before R40's checks; `imm` is the word after it (R26). A word of major 0x33 with the order
`.rlx` and the scope `.dev` is accepted and executed (DESIGN CHOICE, log 16: R26's row says 'other than relaxed and device', and no rule
says that such a word is `ILLEGAL`). -/
def parseS (w imm : BitVec 32) : Option Instr :=
  let d := sD w
  let a := sA w
  let f := sF w
  let b : SReg := f.extractLsb' 2 8
  let minor := (f.extractLsb' 0 2).toNat
  let t := stypeOf minor
  let n5 : BitVec 5 := f.extractLsb' 0 5
  let md : MReg := d.extractLsb' 0 4
  let ma : MReg := a.extractLsb' 0 4
  let mb : MReg := b.extractLsb' 0 4
  let cond : BitVec 4 := w.extractLsb' 22 4
  let off : BitVec 22 := w.extractLsb' 0 22
  let bar : BitVec 4 := f.extractLsb' 3 4
  let cmd := (f.extractLsb' 6 4).toNat
  let m : BitVec 6 := f.extractLsb' 0 6
  match (sMaj w).toNat with
  | 0x00 => some (.sadd t d a b)
  | 0x01 => some (.ssub t d a b)
  | 0x02 => some (.smul t d a b)
  | 0x03 => some (.smulh t d a b)
  | 0x04 => some (.sdiv t d a b)
  | 0x05 => some (.srem t d a b)
  | 0x06 => some (.sand t d a b)
  | 0x07 => some (.sor t d a b)
  | 0x08 => some (.sxor t d a b)
  | 0x09 => some (.sandn t d a b)
  | 0x0A => some (.sshl t d a b)
  | 0x0B =>
    match minor with
    | 0 => some (.ssar false d a b) | 1 => some (.sshr false d a b) | 2 => some (.ssar true d a b)
    | _ => some (.sshr true d a b)
  | 0x0C => some (.smin t d a b)
  | 0x0D => some (.smax t d a b)
  | 0x0E => some (.scmp t a b)
  | 0x0F => some (.saddc t d a b)
  | 0x10 => some (.saddImm d a f)
  | 0x11 => some (.smulImm d a f)
  | 0x12 => some (.sandImm d a f)
  | 0x13 => some (.sorImm d a f)
  | 0x14 => some (.sxorImm d a f)
  | 0x15 => some (.sshlImm d a n5)
  | 0x16 => some (.sshrImm d a n5)
  | 0x17 => some (.ssarImm d a n5)
  | 0x18 => some (.sminImm d a f)
  | 0x19 => some (.smaxImm d a f)
  | 0x1A => some (.scmpImm a f)
  | 0x1B => some (.ststImm a f)
  | 0x1C => some (.sbfx d a (f.extractLsb' 5 5) n5)
  | 0x1D => some (.sext d a n5)
  | 0x1E =>
    match (f.extractLsb' 8 2).toNat with
    | 0 => some (.sclz d a (f.getLsbD 0)) | 1 => some (.spopc d a (f.getLsbD 0))
    | 2 => some (.stst a (f.extractLsb' 0 8)) | _ => none
  | 0x1F => some (.ssel d a b (selCondOf minor))
  | 0x20 => (condOf cond.toNat).map (fun c => .bc c off)
  | 0x21 => some (.bmz cond off)
  | 0x22 => some (.bmnz cond off)
  | 0x23 => some (.call off)
  | 0x24 => some (.split cond off)
  | 0x25 => some (.join f)
  | 0x26 => ctl26 d a f
  | 0x28 => some (.lrun (w.extractLsb' 8 18) (w.extractLsb' 0 8))
  | 0x29 => some (.lrunx a b)
  | 0x2A => some (.feedset (d.extractLsb' 0 2) a b (f.extractLsb' 0 2))
  | 0x2B => some (.feedstop (f.extractLsb' 0 2))
  | 0x2C =>
    match minor with
    | 0 => some (.mand md ma mb) | 1 => some (.mor md ma mb) | 2 => some (.mxor md ma mb) | _ => some (.mandn md ma mb)
  | 0x2D =>
    match f.toNat with
    | 0 => some (.mnot md ma) | 1 => some (.mset md a) | 2 => some (.mget d ma) | 3 => some (.mpop d ma)
    | 4 => some (.mfirst d ma) | _ => none
  | 0x30 => some (.sld d a f)
  | 0x31 => some (.sst d a f)
  | 0x32 => some (.sldk d a f)
  | 0x33 =>
    (scopeOf (f.extractLsb' 6 3).toNat).map (fun s =>
      if f.getLsbD 9 then .sstOrdered d a s (orderOf (f.extractLsb' 4 2).toNat) (f.getLsbD 3)
      else .sldOrdered d a s (orderOf (f.extractLsb' 4 2).toNat) (f.getLsbD 3))
  | 0x34 =>
    match (f.extractLsb' 7 3).toNat with
    | 0 => some (.binit d a bar) | 1 => some (.barr d bar) | 2 => some (.bwait d a bar) | 3 => some (.bsync d bar)
    | 4 => some (.barrx d a bar) | _ => none
  | 0x35 => (scopeOf (f.extractLsb' 7 3).toNat).map (fun s => .waita d a s)
  | 0x36 => (scopeOf (f.extractLsb' 7 3).toNat).map (fun s => .wake a s)
  | 0x37 =>
    match (f.extractLsb' 8 2).toNat with
    | 0 => (scopeOf (f.extractLsb' 5 3).toNat).map (fun s => .fence s (orderOf (f.extractLsb' 3 2).toNat))
    | 1 => some (.backoff ma)
    | _ => none
  | 0x38 => cmd38 cmd d a m
  | 0x39 => cmd39 cmd d a m
  | 0x3A => cmd3A cmd d a m
  | 0x3B => cmd3B cmd d a m
  | 0x3C =>
    match (f.extractLsb' 8 2).toNat with
    | 0 => some (.sget d (f.extractLsb' 0 8)) | 1 => some (.sset a (f.extractLsb' 0 8)) | _ => none
  | 0x3D => ctl3D f
  | 0x3E =>
    match f.toNat with
    | 0 => some (.sli .w32 d imm) | 1 => some (.sli .i64 d imm) | 2 => some (.sli .n64 d imm) | _ => none
  | _ => none

/-- The fields of an L-format word (R32). -/
def fieldsL (w : BitVec 96) (ty : LType) : LWord :=
  { guard := w.extractLsb' 80 4, stop := w.getLsbD 79, vd := w.extractLsb' 71 8, va := w.extractLsb' 63 8,
    vb := w.extractLsb' 55 8, vc := w.extractLsb' 47 8, ty := ty, mods := w.extractLsb' 38 2,
    selC := selOf (w.extractLsb' 36 2).toNat, selB := selOf (w.extractLsb' 34 2).toNat,
    selA := selOf (w.extractLsb' 32 2).toNat, imm := w.extractLsb' 0 32 }

/-- The fields of an LX-format word (R36). -/
def fieldsLX (w : BitVec 96) (ty : LType) (s : Scope) (o : LOrder) : LXWord :=
  { guard := w.extractLsb' 80 4, stop := w.getLsbD 79, vd := w.extractLsb' 71 8, va := w.extractLsb' 63 8,
    vb := w.extractLsb' 55 8, sbase := w.extractLsb' 47 8, ty := ty, scope := s, order := o,
    scale := w.extractLsb' 32 2, claim := w.getLsbD 31, nov := w.getLsbD 30, aux := w.extractLsb' 24 6,
    imm24 := w.extractLsb' 0 24 }

/-- The fields of a half of a pair (R37). -/
def fieldsHalf (h : BitVec 47) : Option PHalf :=
  match popOf (h.extractLsb' 40 7).toNat, ltypeOf (h.extractLsb' 8 4).toNat, pselOf (h.extractLsb' 6 2).toNat with
  | some op, some ty, some sel =>
    some { op := op, guard := h.extractLsb' 37 3, stop := h.getLsbD 36, vd := h.extractLsb' 28 8,
           va := h.extractLsb' 20 8, vb := h.extractLsb' 12 8, ty := ty, sel := sel, flags := h.extractLsb' 4 2 }
  | _, _, _ => none

/-- The instruction a lane word's fields name, before R40's checks (R32, R37, R39). -/
def parseL (w : BitVec 96) : Option Instr :=
  let op := (w.extractLsb' 84 10).toNat
  match (w.extractLsb' 94 2).toNat with
  | 0 => (ltypeOf (w.extractLsb' 40 7).toNat).bind (fun ty => lOf op (fieldsL w ty))
  | 1 =>
    match fieldsHalf (w.extractLsb' 47 47), fieldsHalf (w.extractLsb' 0 47) with
    | some x, some y => some (.lanePair x y)
    | _, _ => none
  | 2 =>
    match ltypeOf (w.extractLsb' 40 7).toNat, scopeOf (w.extractLsb' 37 3).toNat, lorderOf (w.extractLsb' 34 3).toNat with
    | some ty, some s, some o => lxOf op (fieldsLX w ty s o)
    | _, _, _ => none
  | _ => none

/-- R40 applied to a candidate: its own words are the words read, and it is legal. -/
def accept (c : Option Instr) (same : Option Code → Bool) : Except Reject Instr :=
  match c with
  | none => .error .reservedCode
  | some i =>
    if same (encode i) then (if wellFormed i then .ok i else .error .badOperand)
    else .error .reservedField

/-- The scalar instruction at a word and the word after it (R24, R25). -/
def decodeScalar (w imm : BitVec 32) : Except Reject Instr :=
  accept (parseS w imm) (fun c =>
    match c with
    | some (.word x) => x == w
    | some (.long x y) => x == w && y == imm
    | _ => false)

/-- The lane instruction of a word (R32). -/
def decodeLane (w : BitVec 96) : Except Reject Instr :=
  accept (parseL w) (fun c =>
    match c with
    | some (.lane x) => x == w
    | _ => false)

/-! ## Words as bytes: little-endian (R1) -/

/-- `n` bytes of a number, lowest first. -/
def bytesOf (n : Nat) (w : Nat) : List Byte :=
  match n with
  | 0 => []
  | k + 1 => BitVec.ofNat 8 w :: bytesOf k (w / 256)

/-- The number of some bytes, lowest first. -/
def numOf : List Byte → Nat
  | [] => 0
  | b :: rest => b.toNat + 256 * numOf rest

/-- The scalar instruction at the head of some bytes; a second word that is missing reads 0. -/
def decodeScalarBytes (l : List Byte) : Except Reject Instr :=
  if l.length < 4 then .error .truncated
  else decodeScalar (BitVec.ofNat 32 (numOf (l.take 4))) (BitVec.ofNat 32 (numOf ((l.drop 4).take 4)))

/-- The lane instruction at the head of some bytes. -/
def decodeLaneBytes (l : List Byte) : Except Reject Instr :=
  if l.length < 12 then .error .truncated else decodeLane (BitVec.ofNat 96 (numOf (l.take 12)))

/-- The instruction the decoder reads from an instruction whose bits are `w`: a row of 96 bits is a lane word, any other
a scalar word with the word after it. -/
def decodeTableWord (nbits w : Nat) : Option Instr :=
  let r := if nbits = 96 then decodeLaneBytes (bytesOf 12 w) else decodeScalarBytes (bytesOf 8 w)
  match r with
  | .ok i => some i
  | .error _ => none

end Sys2Proof
end

