-- ==== Sys2Proof/Machine/Bits.lean ====
section
/-! DEFINITION. Machine/Bits.lean: bit helpers the meanings share, over numbers and bit vectors. -/

namespace Sys2Proof.Machine

/-- Bits [hi:lo] of a number. -/
def bits (x hi lo : Nat) : Nat := x / 2 ^ lo % 2 ^ (hi + 1 - lo)

/-- Bit `i` of a number. -/
def bit (x i : Nat) : Bool := x / 2 ^ i % 2 == 1

/-- Two's complement reading of the low `w` bits of a number. -/
def sgn (w x : Nat) : Int :=
  let y := x % 2 ^ w
  if w = 0 then 0 else if y < 2 ^ (w - 1) then (y : Int) else (y : Int) - (2 ^ w : Nat)

/-- The low `w` bits of an integer, as a number. -/
def low (w : Nat) (x : Int) : Nat := (x % ((2 ^ w : Nat) : Int)).toNat

/-- Clamp an integer. -/
def clampI (lo hi x : Int) : Int := if x < lo then lo else if hi < x then hi else x

/-- Number of bits of a number: one past the index of its highest set bit (0 for 0). -/
def bitLen (x : Nat) : Nat := if x = 0 then 0 else Nat.log2 x + 1

/-- Set bits among the low `n`. -/
def popcount : Nat → Nat → Nat
  | 0, _ => 0
  | n + 1, x => x % 2 + popcount n (x / 2)

/-- Set bits of a mask. -/
def popc (m : Word) : Nat := popcount 32 m.toNat

/-- Index of the lowest set bit of a mask, or 32 (R187). -/
def firstSet (m : Word) : Nat := ((List.range 32).find? (fun i => m.getLsbD i)).getD 32

/-- Leading zeros of the low `w` bits. -/
def clz (w x : Nat) : Nat := w - bitLen (x % 2 ^ w)

/-- The low `w` bits in reverse order. -/
def bitrev : Nat → Nat → Nat
  | 0, _ => 0
  | w + 1, x => x % 2 * 2 ^ w + bitrev w (x / 2)

/-- The lanes of a mask, ascending. -/
def lanesOf (m : Word) : List Nat := (List.range 32).filter (fun l => m.getLsbD l)

/-- The mask of some lanes. -/
def maskOf (l : List Nat) : Word := l.foldl (fun m i => m ||| (1 : Word) <<< i) 0

/-- Set one bit of a mask. -/
def setBit (m : Word) (i : Nat) (x : Bool) : Word :=
  if x then m ||| (1 : Word) <<< i else m &&& ~~~((1 : Word) <<< i)

/-- `n` bytes of a number as a list, lowest first (R1). -/
def toBytes (n x : Nat) : List Byte :=
  match n with
  | 0 => []
  | k + 1 => BitVec.ofNat 8 x :: toBytes k (x / 256)

/-- The number of some bytes, lowest first (R1). -/
def ofBytes : List Byte → Nat
  | [] => 0
  | b :: rest => b.toNat + 256 * ofBytes rest

/-- Lane `l`'s element of a vector register. -/
def laneGet (v : VReg) (l : Nat) : Word := (v >>> (32 * l)).setWidth 32

/-- A vector register with lane `l`'s element replaced. -/
def laneSet (v : VReg) (l : Nat) (x : Word) : VReg :=
  (v &&& ~~~((0xFFFFFFFF : VReg) <<< (32 * l))) ||| ((x.setWidth 1024 : VReg) <<< (32 * l))

/-- Ceiling of a quotient. -/
def ceilDiv (a b : Nat) : Nat := (a + b - 1) / b

/-- Round a number up to a multiple of `n`. -/
def alignUp (a n : Nat) : Nat := ceilDiv a n * n

end Sys2Proof.Machine
end

