-- ==== Sys2Proof/Machine/Num.lean ====
section
/-! DEFINITION. Machine/Num.lean: the number formats of R51 to R62 and their exact arithmetic. A float is read as an exact
dyadic value; every operation is exact and rounds once at the end (R56, R57, R216). -/

namespace Sys2Proof.Machine

/-- A float as a value (R55 reads every NaN alike): (-1)^neg * m * 2^e when finite. -/
inductive FVal where
  | nan
  | inf (neg : Bool)
  | fin (neg : Bool) (m : Nat) (e : Int)
  deriving DecidableEq, Repr

/-- A value to be rounded: (-1)^neg * (m + s) * 2^e, where 0 < s < 1 when `sticky`, else s = 0. -/
structure Exact where
  neg : Bool
  m : Nat
  e : Int
  sticky : Bool
  deriving DecidableEq, Repr

/-- Fraction bits of a binary format (R52). -/
def fracBits : LType → Nat
  | .f64 => 52 | .f32 => 23 | .f16 => 10 | .bf16 => 7 | .f8e4 => 3 | .f8e5 => 2 | _ => 0

/-- Exponent bits of a binary format (R52). -/
def expBits : LType → Nat
  | .f64 => 11 | .f32 => 8 | .f16 => 5 | .bf16 => 8 | .f8e4 => 4 | .f8e5 => 5 | _ => 0

/-- Exponent bias of a binary format (R52). -/
def expBias : LType → Nat
  | .f64 => 1023 | .f32 => 127 | .f16 => 15 | .bf16 => 127 | .f8e4 => 7 | .f8e5 => 15 | _ => 0

/-- Exponent of a format's least unit. -/
def qMin (t : LType) : Int := 1 - (expBias t : Int) - (fracBits t : Int)

/-- The canonical NaN of a format (R55). -/
def nanBits : LType → Nat
  | .f64 => 0x7FF8000000000000 | .f32 => 0x7FC00000 | .f16 => 0x7E00 | .bf16 => 0x7FC0 | .f8e4 => 0x7F
  | .f8e5 => 0x7E | .dx8 => 0x77 | .e8 => 0xFF | _ => 0

/-- The largest finite magnitude of a binary format, as bits (R52). -/
def maxBits : LType → Nat
  | .f64 => 0x7FEFFFFFFFFFFFFF | .f32 => 0x7F7FFFFF | .f16 => 0x7BFF | .bf16 => 0x7F7F | .f8e4 => 0x7E
  | .f8e5 => 0x7B | _ => 0

/-- Positive infinity of a binary format that has one (R52). -/
def infBits : LType → Nat
  | .f64 => 0x7FF0000000000000 | .f32 => 0x7F800000 | .f16 => 0x7C00 | .bf16 => 0x7F80 | .f8e5 => 0x7C | _ => 0

/-- The sign bit of a binary format. -/
def signBit (t : LType) : Nat := 2 ^ (ltypeBits t - 1)

/-! ## DX8 (R59 to R61) -/

/-- A DX8 term in units of 2^-6 (R59). -/
def dxTerm (s : Bool) (e : Nat) : Int := if e = 7 then 0 else if s then -((2 ^ (6 - e) : Nat) : Int) else ((2 ^ (6 - e) : Nat) : Int)

/-- A DX8 code's value in units of 2^-6 (R59). -/
def dxVal (c : Nat) : Int := dxTerm (bit c 7) (bits c 6 4) + dxTerm (bit c 3) (bits c 2 0)

/-- A DX8 code is canonical (R60). -/
def dxCanon (c : Nat) : Bool :=
  let s1 := bit c 7
  let e1 := bits c 6 4
  let s2 := bit c 3
  let e2 := bits c 2 0
  c == 0x77 || (decide (e1 ≤ 6) && e2 == 7 && !s2) || (decide (e1 < e2) && decide (e2 ≤ 6) && s1 == s2)
    || (e1 == 0 && e2 == 0 && s1 == s2) || (s1 != s2 && decide (e1 + 3 ≤ e2) && decide (e2 ≤ 6))

/-- The canonical codes. -/
def dxCodes : List Nat := (List.range 256).filter dxCanon

/-- Of two canonical codes and their distances from the value, the one R61 chooses: the nearer, then the even code,
then the smaller magnitude. -/
def dxBetter (a b : Nat × Nat) : Nat × Nat :=
  if a.2 < b.2 then a else if b.2 < a.2 then b
  else if a.1 % 2 != b.1 % 2 then (if a.1 % 2 = 0 then a else b)
  else if (dxVal a.1).natAbs ≤ (dxVal b.1).natAbs then a else b

/-- Conversion of a value to DX8 (R61). -/
def dxRound (v : FVal) : Nat :=
  match v with
  | .nan => 0x77
  | .inf neg => if neg then 0x88 else 0x00
  | .fin neg m e =>
    let k := (-(e + 6)).toNat
    let x : Int := (m : Int) * ((2 ^ (e + 6).toNat : Nat) : Int) * (if neg then -1 else 1)
    let one : Int := ((2 ^ k : Nat) : Int)
    if 128 * one < x then 0x00
    else if x < -128 * one then 0x88
    else (dxCodes.foldl (fun best c => dxBetter best (c, (x - dxVal c * one).natAbs)) (0x77, x.natAbs)).1

/-! ## Reading a format -/

/-- The value of a type's bits (R51, R52, R59, R62). -/
def readF (t : LType) (b : Nat) : FVal :=
  match t with
  | .dx8 => let v := dxVal (b % 256); .fin (decide (v < 0)) v.natAbs (-6)
  | .e8 => if b % 256 = 255 then .nan else .fin false 1 ((b % 256 : Nat) - 127)
  | .i8 | .i16 | .i32 | .i64 => let v := sgn (ltypeBits t) b; .fin (decide (v < 0)) v.natAbs 0
  | .n8 | .n16 | .n32 | .n64 => .fin false (b % 2 ^ ltypeBits t) 0
  | _ =>
    let fb := fracBits t
    let neg := bit b (ltypeBits t - 1)
    let ex := bits b (fb + expBits t - 1) fb
    let fr := b % 2 ^ fb
    let top := 2 ^ expBits t - 1
    if t = .f8e4 then
      if ex = top ∧ fr = 7 then .nan
      else if ex = 0 then .fin neg fr (qMin t) else .fin neg (2 ^ fb + fr) (qMin t + (ex - 1 : Nat))
    else if ex = top then (if fr = 0 then .inf neg else .nan)
    else if ex = 0 then .fin neg fr (qMin t)
    else .fin neg (2 ^ fb + fr) (qMin t + (ex - 1 : Nat))

/-! ## Rounding (R56, R57) -/

/-- Whether a rounding mode moves up in magnitude: `odd` the kept unit's parity, `half` how the discarded part
compares with half a unit (0 none, 1 below, 2 equal, 3 above). -/
def roundsUp (rnd : Nat) (neg odd : Bool) (half : Nat) : Bool :=
  match rnd with
  | 1 => false
  | 2 => !neg && half != 0
  | 3 => neg && half != 0
  | 4 => decide (2 ≤ half)
  | _ => half == 3 || (half == 2 && odd)

/-- How the part of `m` below `2^d`, with a sticky fraction under it, compares with half of `2^d`. -/
def halfOf (m d : Nat) (sticky : Bool) : Nat :=
  let r := 2 * (m % 2 ^ d)
  if r = 0 then (if sticky then 1 else 0)
  else if r < 2 ^ d then 1
  else if r = 2 ^ d then (if sticky then 3 else 2)
  else 3

/-- A nonnegative magnitude as units of `2^q`, rounded. -/
def toUnits (x : Exact) (q : Int) (rnd : Nat) : Nat :=
  let k := (x.e - q).toNat
  let d := (q - x.e).toNat
  let m := x.m * 2 ^ k
  let n := m / 2 ^ d
  if roundsUp rnd x.neg (n % 2 == 1) (halfOf m d x.sticky) then n + 1 else n

/-- The result of an overflow (R56, R57). -/
def overflowBits (t : LType) (rnd : Nat) (sat neg : Bool) : Nat :=
  let toMax := sat || t == .f8e4 || rnd == 1 || (rnd == 2 && neg) || (rnd == 3 && !neg)
  (if toMax then maxBits t else infBits t) + (if neg then signBit t else 0)

/-- Round an exact value to a binary format (R56, R57); a sticky value carries two bits more than the format. -/
def roundExact (t : LType) (rnd : Nat) (sat : Bool) (x : Exact) : Nat :=
  let fb : Int := fracBits t
  let q := if x.m = 0 then qMin t else max ((bitLen x.m : Int) + x.e - 1 - fb) (qMin t)
  let n := toUnits x q rnd
  let b := (q - qMin t).toNat * 2 ^ fracBits t + n
  if maxBits t < b then overflowBits t rnd sat x.neg
  else b + (if x.neg then signBit t else 0)

/-- Round a value to a float format: binary formats by R56, R57 and R211, `DX8` by R61. -/
def roundF (t : LType) (rnd : Nat) (sat : Bool) (v : FVal) : Nat :=
  if t = .dx8 then dxRound v else
  match v with
  | .nan => nanBits t
  | .inf neg =>
    (if sat || t == .f8e4 then maxBits t else infBits t) + (if neg then signBit t else 0)
  | .fin neg m e => roundExact t rnd sat { neg := neg, m := m, e := e, sticky := false }

/-- Round an exact value to an integer. -/
def roundInt (rnd : Nat) (x : Exact) : Int :=
  let n := toUnits x 0 rnd
  if x.neg then -(n : Int) else n

/-- Least and greatest value of an integer type. -/
def intRange (t : LType) : Int × Int :=
  let w := ltypeBits t
  if isSigned t then (-((2 ^ (w - 1) : Nat) : Int), ((2 ^ (w - 1) : Nat) : Int) - 1) else (0, ((2 ^ w : Nat) : Int) - 1)

/-- Conversion of a float value to an integer type: its low bits (R225). -/
def toIntType (t : LType) (rnd : Nat) (sat : Bool) (v : FVal) : Nat :=
  let r := intRange t
  match v with
  | .nan => 0
  | .inf neg => if sat then low (ltypeBits t) (if neg then r.1 else r.2) else 0
  | .fin neg m e =>
    let q := roundInt rnd { neg := neg, m := m, e := e, sticky := false }
    low (ltypeBits t) (if sat then clampI r.1 r.2 q else q)

/-! ## Exact arithmetic -/

/-- The sign of a value other than NaN. -/
def fNeg : FVal → Bool
  | .nan => false
  | .inf n => n
  | .fin n _ _ => n

/-- The value with its sign flipped. -/
def fFlip : FVal → FVal
  | .nan => .nan
  | .inf n => .inf (!n)
  | .fin n m e => .fin (!n) m e

/-- A product (R216: infinity times zero is NaN). -/
def fMul (a b : FVal) : FVal :=
  match a, b with
  | .nan, _ => .nan
  | _, .nan => .nan
  | .inf n, .inf k => .inf (n != k)
  | .inf n, .fin k m _ => if m = 0 then .nan else .inf (n != k)
  | .fin n m _, .inf k => if m = 0 then .nan else .inf (n != k)
  | .fin n m e, .fin k m' e' => .fin (n != k) (m * m') (e + e')

/-- A finite value as a signed count of units of `2^e0`, for `e0` at or below its exponent. -/
def unitsOf (e0 : Int) (n : Bool) (m : Nat) (e : Int) : Int :=
  let x : Int := (m * 2 ^ (e - e0).toNat : Nat)
  if n then -x else x

/-- An exact sum of terms (R68, R432): NaN for a NaN or infinities of both signs; a zero sum is -0 when every term is
-0, +0 when every term is +0, else -0 under RD alone. -/
def fSum (rnd : Nat) (l : List FVal) : FVal :=
  if l.any (fun v => v == .nan) then .nan
  else
    let pinf := l.any (fun v => v == .inf false)
    let ninf := l.any (fun v => v == .inf true)
    if pinf && ninf then .nan
    else if pinf then .inf false
    else if ninf then .inf true
    else
      let e0 := l.foldl (fun e v => match v with | .fin _ m x => if m = 0 then e else min e x | _ => e) 0
      let s : Int := l.foldl (fun a v => match v with | .fin n m x => if m = 0 then a else a + unitsOf e0 n m x | _ => a) 0
      if s = 0 then
        if l.all (fun v => match v with | .fin n m _ => m == 0 && n | _ => false) then .fin true 0 0
        else if l.all (fun v => match v with | .fin n m _ => m == 0 && !n | _ => false) then .fin false 0 0
        else .fin (rnd == 3) 0 0
      else .fin (decide (s < 0)) s.natAbs e0

/-- A sum of two values. -/
def fAdd (rnd : Nat) (a b : FVal) : FVal := fSum rnd [a, b]

/-- Three-way comparison of two values other than NaN: -1, 0, 1; -0 equals +0. -/
def fCmp (a b : FVal) : Int :=
  match a, b with
  | .inf n, .inf k => if n = k then 0 else if n then -1 else 1
  | .inf n, _ => if n then -1 else 1
  | _, .inf k => if k then 1 else -1
  | .fin n m e, .fin k m' e' =>
    let e0 := min e e'
    let x := unitsOf e0 n m e
    let y := unitsOf e0 k m' e'
    if x < y then -1 else if x = y then 0 else 1
  | _, _ => 0

/-- The value is zero. -/
def fZero : FVal → Bool
  | .fin _ m _ => m == 0
  | _ => false

/-- The value is finite. -/
def fFinite : FVal → Bool
  | .fin _ _ _ => true
  | _ => false

/-- A quotient of two magnitudes `m * 2^e` with 70 bits and a sticky bit. -/
def divExact (neg : Bool) (m : Nat) (e : Int) (m' : Nat) (e' : Int) : Exact :=
  let k := 70 + bitLen m'
  let n := m * 2 ^ k
  { neg := neg, m := n / m', e := e - e' - k, sticky := n % m' != 0 }

/-- A division under IEEE 754-2019 (R223), rounded. -/
def fDiv (t : LType) (rnd : Nat) (sat : Bool) (a b : FVal) : Nat :=
  match a, b with
  | .nan, _ => nanBits t
  | _, .nan => nanBits t
  | .inf _, .inf _ => nanBits t
  | .inf n, .fin k _ _ => roundF t rnd sat (.inf (n != k))
  | .fin n _ _, .inf k => roundF t rnd sat (.fin (n != k) 0 0)
  | .fin n m e, .fin k m' e' =>
    if m' = 0 then (if m = 0 then nanBits t else roundF t rnd sat (.inf (n != k)))
    else if m = 0 then roundF t rnd sat (.fin (n != k) 0 0)
    else roundExact t rnd sat (divExact (n != k) m e m' e')

/-- The integer square root, by binary digits from `2^k` down. -/
def isqrtAux : Nat → Nat → Nat → Nat
  | 0, n, r => if (r + 1) * (r + 1) ≤ n then r + 1 else r
  | k + 1, n, r =>
    let c := r + 2 ^ (k + 1)
    isqrtAux k n (if c * c ≤ n then c else r)

/-- The integer square root. -/
def isqrt (n : Nat) : Nat := isqrtAux (bitLen n / 2 + 1) n 0

/-- The square root of `m * 2^e` with at least 70 bits and a sticky bit. -/
def sqrtExact (m : Nat) (e : Int) : Exact :=
  let odd := e % 2 != 0
  let m1 := if odd then 2 * m else m
  let e1 := if odd then e - 1 else e
  let n := m1 * 2 ^ 160
  let r := isqrt n
  { neg := false, m := r, e := e1 / 2 - 80, sticky := r * r != n }

/-- The reciprocal square root of `m * 2^e` with a sticky bit. -/
def rsqrtExact (m : Nat) (e : Int) : Exact :=
  let odd := e % 2 != 0
  let m1 := if odd then 2 * m else m
  let e1 := if odd then e - 1 else e
  let k := 160 + 2 * bitLen m1
  let n := 2 ^ k / m1
  let r := isqrt n
  { neg := false, m := r, e := -(e1 / 2) - (k / 2 : Nat), sticky := r * r * m1 != 2 ^ k }

/-- Floor of log2 of a positive magnitude `m * 2^e`. -/
def floorLog2 (m : Nat) (e : Int) : Int := (bitLen m : Int) - 1 + e

/-- The lesser of two floats by R217, as bits of `t`: -0 below +0, a lone NaN gives the other operand. -/
def fMinBits (t : LType) (greater : Bool) (x y : Nat) : Nat :=
  let a := readF t x
  let b := readF t y
  if a = .nan then (if b = .nan then nanBits t else y)
  else if b = .nan then x
  else
    let c := fCmp a b
    let aLess := c < 0 || (c == 0 && fNeg a && !fNeg b)
    if aLess != greater then x else y

end Sys2Proof.Machine
end

