-- ==== Sys2Proof/Config.lean ====
section
/-! DEFINITION. Config.lean: the free values of the model. Each is an opaque constant, applied to the
counter `State.free`, so that nothing can be proved about the value drawn (notes/assumptions/7.md). -/

namespace Sys2Proof

/-- Cycles that a step takes beyond the first; timing is left out (R7, R8; log 3). -/
opaque Config.freeCycles : Nat → Nat
/-- A choice the spec leaves open between two outcomes: an unsettled element read old or new (R166), a stale
translation or the new one (R293). -/
opaque Config.freeBool : Nat → Bool
/-- A 64-bit value the spec leaves open (a random draw of R249; log 7). -/
opaque Config.freeWord : Nat → BitVec 64
/-- The digest the boot measurements hold (R423); log 9. -/
opaque Config.digest : Nat → BitVec 384
/-- A sensor reading (R418 GET_SENSORS). -/
opaque Config.sensor : Nat → BitVec 16

end Sys2Proof
end

