-- ==== Sys2Proof/Machine/Tab.lean ====
section
/-! DEFINITION. Machine/Tab.lean: sparse tables as sorted association lists in one canonical form: keys strictly
rising, so that equal tables are equal data. `Tab` reads a missing key as a default and lists no default. -/

namespace Sys2Proof.Machine

/-- A partial map from numbers: keys strictly rising. -/
abbrev Map (α : Type) := List (Nat × α)

/-- The value at a key, if any. -/
def Map.find {α : Type} : Map α → Nat → Option α
  | [], _ => none
  | (k, v) :: rest, x => if k = x then some v else Map.find rest x

/-- Put a value at a key, keeping the keys rising. -/
def Map.insert {α : Type} : Map α → Nat → α → Map α
  | [], x, a => [(x, a)]
  | (k, v) :: rest, x, a =>
    if x < k then (x, a) :: (k, v) :: rest
    else if k = x then (x, a) :: rest
    else (k, v) :: Map.insert rest x a

/-- Remove a key. -/
def Map.erase {α : Type} : Map α → Nat → Map α
  | [], _ => []
  | (k, v) :: rest, x => if k = x then Map.erase rest x else (k, v) :: Map.erase rest x

/-- Keys strictly rising. -/
def Map.sorted {α : Type} : Map α → Bool
  | [] => true
  | [_] => true
  | (k, _) :: (k', v') :: rest => decide (k < k') && Map.sorted ((k', v') :: rest)

/-- The value at a key, the default where none is listed. -/
def Tab.get {α : Type} (d : α) (m : Map α) (k : Nat) : α := (Map.find m k).getD d

/-- Write a value at a key; writing the default removes the entry. -/
def Tab.set {α : Type} [DecidableEq α] (d : α) (m : Map α) (k : Nat) (v : α) : Map α :=
  if v = d then Map.erase m k else Map.insert m k v

/-- Canonical form: keys strictly rising and no listed default. -/
def Tab.wf {α : Type} [DecidableEq α] (d : α) (m : Map α) : Bool :=
  Map.sorted m && m.all (fun e => decide (e.2 ≠ d))

/-- Change the value at a key, if one is listed. -/
def Map.modify {α : Type} (m : Map α) (k : Nat) (f : α → α) : Map α :=
  match Map.find m k with
  | some v => Map.insert m k (f v)
  | none => m

/-- Every value, keys kept. -/
def Map.mapVals {α : Type} (m : Map α) (f : Nat → α → α) : Map α := m.map (fun e => (e.1, f e.1 e.2))

/-- The values, in key order. -/
def Map.vals {α : Type} (m : Map α) : List α := m.map (·.2)

/-- The lowest number at or above `n` whose entry is missing or satisfies `p`, looking no further than `lim`. -/
def Map.lowestFree {α : Type} (p : α → Bool) (lim : Nat) : Map α → Nat → Option Nat
  | [], n => if n < lim then some n else none
  | (k, v) :: rest, n =>
    if k < n then Map.lowestFree p lim rest n
    else if n < k then (if n < lim then some n else none)
    else if p v then (if n < lim then some n else none)
    else Map.lowestFree p lim rest (n + 1)

end Sys2Proof.Machine
end

