-- ==== Sys2Proof/Machine/State.lean ====
section
/-! DEFINITION. Machine/State.lean: every piece of state the spec gives the K9, as plain data, with the reasons a step
can stop and the state after reset. INVENTORY.md lists each field with its rule and its reset value. -/

namespace Sys2Proof.Machine

/-! ## Why a step can stop -/

/-- Reasons for a stop. -/
inductive Fault where
  /-- A leaf with home 0 names a physical address outside the local range 0 to 256 GiB - 1 (R294), where no memory
  exists. Raised by every virtual access (`Ops.translate`). Safe: the model stops. -/
  | physicalHole
  deriving DecidableEq, Repr

/-- Reasons for a refusal. -/
inductive Refusal where
  /-- The instruction has no meaning in the model. Raised by an arm of `exec` alone. Safe. -/
  | notModelled (mnemonic : String)
  deriving DecidableEq, Repr

/-! ## Small enumerations -/

/-- Trap causes, in the order of their codes 1 to 19 (R354). -/
inductive Cause where
  | illegal | misalign | unmapped | protect | reservedTouch | execDenied | rangeLocked | haloWrite
  | accBusy | accSpillFull | peerGone | fogged | linkDown | softError | layerPool | barrierMisuse
  | watchdog | svc | trap
  deriving DecidableEq, Repr

/-- Privilege of a wave (R106, R107). -/
inductive Priv where
  | u | s
  deriving DecidableEq, Repr

/-- The fragment's flags (R159). -/
structure Flags where
  z : Bool
  n : Bool
  c : Bool
  v : Bool
  deriving DecidableEq, Repr

/-- Who issues the word being executed: a wave slot of a core, and fragment slot B when `b` (R159). -/
structure Issuer where
  core : Nat
  slot : Nat
  b : Bool
  deriving DecidableEq, Repr

/-- Which agent moves next: a fragment's S-stream, a wave's L-stream, or a device event (log 4). -/
inductive Turn where
  | s (core slot : Nat) (b : Bool)
  | l (core slot : Nat)
  | ev (i : Instr)
  deriving DecidableEq, Repr

/-! ## The wave (spec/09_wave.md, spec/19_trap.md) -/

/-- Why a fragment does not issue (R128, R167). -/
inductive Wait where
  | none
  /-- A hold-back of R161 or R162. -/
  | interlock
  /-- Earlier strips have not retired (R163, R89). -/
  | strips
  /-- The strip queue is full (R160). -/
  | queueFull
  | join
  | bwait (n : Nat) (tok : BitVec 16)
  /-- Asleep at a barrier for the phase `p`, with its destination (R244). -/
  | bsync (n : Nat) (p : BitVec 16) (sd : Nat)
  /-- The phase completed while the fragment was in a trap handler: the word completes at the return. -/
  | bsyncDone (p : BitVec 16) (sd : Nat)
  | waita (line : Nat) (scope : Scope)
  /-- A `WAKE` has come while the fragment was in a trap handler (R247). -/
  | waitaDone
  /-- The timeout of R129 has come while the fragment lay on the stack: it traps in its next slot. -/
  | waitaOut
  /-- The watchdog has fired while the fragment lay on the stack (R128). -/
  | dogOut
  | backoff (l : Word)
  /-- Parked words that another word completes, by the number of their entry. -/
  | mqsend (id : Nat)
  | mqrecv (id : Nat)
  | evwait (q : Nat)
  | accwait
  | vclaim (id : Nat)
  /-- The fault queue is full: the record as read waits for a place (R130). -/
  | fqpost (rec : BitVec 512)
  /-- A `CARVE` that issued at a stamp waits for earlier ones, or for the banks it changes (R153). -/
  | carve (since : Nat) (banks : List Nat)
  | regroup (partner k sd : Nat)
  /-- A page-cache miss on the pool page (R190, R296). -/
  | pageMiss (page : Nat)
  /-- The home has not answered (R190, R272, R280). -/
  | access
  /-- A transfer slot or page-lock entry is wanted (R320). -/
  | engineSlot
  /-- Pins of a page range are held (R304). -/
  | pins
  /-- A `HALOPUSH` of some lines waits for their replicas (R287). -/
  | haloPush (lines : Nat)
  deriving DecidableEq, Repr

/-- A fragment (R159, R170, R179): in a slot, or on the stack. -/
structure Frag where
  m0 : Word
  pc : DWord
  flags : Flags
  depth : Nat
  token : BitVec 10
  wait : Wait
  /-- A fragment of the trap handler (R357). -/
  handler : Bool
  deriving DecidableEq, Repr

/-- A feed vector read ahead: 32 elements of 64 bits, or its fault (R175). -/
structure FeedVec where
  data : BitVec 2048
  fault : Option (Cause × DWord)
  deriving DecidableEq, Repr

/-- A feed (R175, R176, R179). -/
structure Feed where
  nextAddr : DWord
  size : BitVec 2
  stride : Word
  remaining : Word
  run : Bool
  underflow : Bool
  buf : List FeedVec
  deriving DecidableEq, Repr

/-- A queued strip (R160, R179). -/
structure Strip where
  lcidx : BitVec 18
  len : Nat
  b : Bool
  deriving DecidableEq, Repr

/-- An event queue (R324): depth and records, head first. -/
structure EvQ where
  depth : Nat
  recs : List (BitVec 256)
  deriving DecidableEq, Repr

/-- A pending register write of a lane operation: a register element, a mask bit or a scalar register. -/
inductive RegWrite where
  | v (r l : Nat) (x : Word)
  | m (n l : Nat) (x : Bool)
  | s (r : Nat) (x : Word)
  deriving DecidableEq, Repr

/-- A lane operation that has issued and not been released: its replay record (R164, R255, R359, R360). -/
structure LaneOp where
  id : Nat
  /-- When it issued: the order of the words of a core (R214, R233). -/
  stamp : Nat
  word : Instr
  lcidx : BitVec 18
  off : Nat
  b : Bool
  /-- Lanes active at issue, lanes performed, lanes faulted with their cause and address. -/
  active : Word
  done : Word
  faults : List (Nat × Cause × DWord)
  /-- Addresses or offsets of the lanes at issue (R360 kind 0), and the descriptor address of kinds 1, 2 and 6. -/
  addrs : Map DWord
  /-- Operand words of the lanes at issue: key 64 * register + lane (R360). -/
  data : Map Word
  /-- Pool pages whose frames the undone lanes await (R257). -/
  misses : List Nat
  /-- Partials still in flight (R348), or the team operation not yet settled (R333). -/
  pendingAnswers : Nat
  /-- Results not yet written (R166). -/
  res : List RegWrite
  settled : Bool
  deriving DecidableEq, Repr

/-- What a trap interrupted (R355, R364). -/
inductive TrapKind where
  | scalar
  | lane (id : Nat)
  | laneFetch
  | feedPop
  | engine (core op : Nat)
  | watchdog
  | service
  deriving DecidableEq, Repr

/-- A trap on its way to the handler, or the one being handled (R355, R356). -/
structure TrapReq where
  kind : TrapKind
  cause : Cause
  unit : Nat
  mask : Word
  addr : DWord
  info : Word
  pc : DWord
  b : Bool
  deriving DecidableEq, Repr

/-- State of a wave's trap (R356). -/
inductive TrapSt where
  | none
  | pending
  | entering (r : TrapReq)
  | handling (r : TrapReq)
  deriving DecidableEq, Repr

/-- What trap entry sets aside (R358, R360 kind 9). -/
structure Shadow where
  /-- A `BSYNC` or `WAITA` of the trapped fragment that sleeps on through the trap (R322; log 16). -/
  wait : Wait
  regs : Map Word
  flags : Flags
  pcEntry : DWord
  strips : List Strip
  headOff : Nat
  lstop : Bool
  fenceR : Nat
  fenceW : Nat
  late : List RegWrite
  /-- Operations whose faulted lanes await the return (R255, R256). -/
  ops : List LaneOp
  deriving DecidableEq, Repr

/-- A tray record (R230, R240). -/
structure TrayRec where
  key : Word
  p0 : Word
  p1 : Word
  p2 : Word
  deriving DecidableEq, Repr

/-- What a tray wave carries (R233, R239). -/
structure TrayInfo where
  config : Nat
  recs : List TrayRec
  /-- Tile ticket of a pixel tray (R384). -/
  ticket : Option (Nat × Nat)
  deriving DecidableEq, Repr

/-- The trap registers (R355). -/
structure TrapRegs where
  cause : Word
  pc : DWord
  addr : DWord
  mask : Word
  info : Word
  deriving DecidableEq, Repr

/-- The read-only identity registers of a wave (R31, R133). -/
structure WaveId where
  waveid : Word
  groupx : Word
  groupy : Word
  groupz : Word
  gridx : Word
  gridy : Word
  gridz : Word
  groupwaves : Word
  role : Word
  team : Word
  karg : DWord
  deriving DecidableEq, Repr

/-- A wave (R159, R179). -/
structure Wave where
  core : Nat
  slot : Nat
  gid : Nat
  ident : WaveId
  lcbase : DWord
  priv : Priv
  sregs : Map Word
  vregs : Map VReg
  masks : Map Word
  valloc : Nat
  sbound : Nat
  fragA : Option Frag
  fragB : Option Frag
  /-- True when slot B's fragment has held its slot longer (R172). -/
  bOlder : Bool
  stack : List Frag
  feeds : Map Feed
  evqs : Map EvQ
  strips : List Strip
  headOff : Nat
  /-- The L-stream is parked at a stop mark or strip end (R165). -/
  lstop : Bool
  /-- Strips at the head of the queue that a `FENCE` stands behind: later S-stream reads, and writes, wait for them
  (R88, R264). -/
  fenceR : Nat
  fenceW : Nat
  ops : List LaneOp
  /-- Scalar registers that settled `VREADL` words of the head strip write when it retires (R208). -/
  late : List RegWrite
  nextOp : Nat
  trap : TrapSt
  held : List TrapReq
  treg : TrapRegs
  shadow : Shadow
  /-- Pool pages the wave has yielded for (R167, R296). -/
  yieldOn : List Nat
  /-- Pages of the reserved range claimed by another wave, for which it has yielded (R301). -/
  yieldClaim : List Nat
  /-- Pool pages whose fill failed while the wave waited for them (R295). -/
  poison : List Nat
  age : Nat
  starved : Bool
  spin : Nat
  demoted : Bool
  backoffCount : Nat
  tray : Option TrayInfo
  deriving DecidableEq, Repr

/-! ## The group, the grid and the kernel (spec/07_kernel.md, spec/08_group.md, spec/13_barrier.md) -/

/-- Group states (R146). -/
inductive GroupSt where
  | pending | placing | resident | draining | swapped | retired | killed
  deriving DecidableEq, Repr

/-- A named barrier (R241, R246). -/
structure Barrier where
  inUse : Bool
  expected : Nat
  arrived : Nat
  phase : BitVec 16
  waiters : BitVec 128
  /-- Arrivals that reached the saved group (R246). -/
  remote : Nat
  deriving DecidableEq, Repr

/-- A sender parked on a full message queue (R156). -/
structure ParkedSend where
  core : Nat
  slot : Nat
  /-- The number that the parked fragment holds too. -/
  id : Nat
  sd : Nat
  handle : Word
  msg : LineData
  deriving DecidableEq, Repr

/-- A receiver parked on an empty message queue (R156). -/
structure ParkedRecv where
  core : Nat
  slot : Nat
  /-- The number that the parked fragment holds too. -/
  id : Nat
  sd : Nat
  off : Nat
  deriving DecidableEq, Repr

/-- A claim waiting for the register pool (R150). -/
structure ParkedClaim where
  core : Nat
  slot : Nat
  /-- The number that the parked fragment holds too. -/
  id : Nat
  sd : Nat
  n : Nat
  deriving DecidableEq, Repr

/-- A group (R146, R154, R158). -/
structure Group where
  grid : Nat
  index : Nat
  gx : Nat
  gy : Nat
  gz : Nat
  waves : Nat
  core : Nat
  gslot : Nat
  tag : BitVec 12
  st : GroupSt
  scratchBytes : Nat
  fifoBytes : Nat
  scratch : List Host.Cell
  /-- Scratch bytes that met an uncorrectable soft error (R255 rank 12). -/
  bad : List Nat
  /-- Granules held: (bank, granule) in the order taken, scratch then FIFO (R151). -/
  scratchGran : List (Nat × Nat)
  fifoGran : List (Nat × Nat)
  /-- Wave slots held until the group is retired or killed, by wave: 64 * core + slot (R132, R147). -/
  slots : List Nat
  /-- Banks whose conversion the placement waits for (R151). -/
  wantBanks : List Nat
  msgs : List (Word × LineData)
  sendQ : List ParkedSend
  recvQ : List ParkedRecv
  /-- Register pools of the partitions of the lower core, and of the upper core at 4 to 7 (R149). -/
  pools : Map Nat
  claimQ : List ParkedClaim
  barriers : Map Barrier
  barrierCount : Nat
  trayCount : Nat
  isTray : Bool
  live : Nat
  exited : List Nat
  deriving DecidableEq, Repr

/-- The kernel descriptor (R49). -/
structure KDesc where
  graphics : Bool
  coresident : Bool
  scodeOffset : Nat
  scodeSize : Nat
  lcodeOffset : Nat
  lcodeSize : Nat
  constOffset : Nat
  constSize : Nat
  dataOffset : Nat
  dataSize : Nat
  entryOffset : Nat
  vregBlocks : Nat
  sregCount : Nat
  groupWaves : Nat
  teamSize : Nat
  barrierCount : Nat
  scratchBytes : Nat
  fifoBytes : Nat
  trayCount : Nat
  roles : List (Nat × Nat)
  /-- Tray configuration records: entry offset and age limit as written (R229). -/
  trays : List (Nat × Nat)
  deriving DecidableEq, Repr

/-- The pipeline state and progress of a DRAW grid (R377, R378). -/
structure Draw where
  primBuf : Nat
  segSize : Nat
  ringOrder : Nat
  width : Nat
  height : Nat
  cull : Nat
  merge : Bool
  pixelTray : Nat
  cosMin : Word
  depthBound : Word
  /-- Records written in each group's segment (R379). -/
  emitted : Map Nat
  /-- Next segment of each core's Finder (R378), and the quads of it already deposited. -/
  next : Map Nat
  pos : Map Nat
  /-- The last primitive that each core's Finder has read, still to be deposited: its record, its order, and the quads of it that the one before
  has taken (R382). -/
  carry : Map (Nat × Nat × List (Nat × Nat))
  deriving DecidableEq, Repr

/-- What started a grid (R137). -/
inductive GridSrc where
  | packet (q idx : Nat)
  | task (q : Nat) (rec : Nat)
  deriving DecidableEq, Repr

/-- A grid (R134, R137). -/
structure Grid where
  src : GridSrc
  ctx : Nat
  queue : Nat
  image : Nat
  karg : DWord
  nx : Nat
  ny : Nat
  nz : Nat
  desc : KDesc
  prio : Nat
  ready : Nat
  /-- Index of the next group to place (R134). -/
  next : Nat
  /-- Groups not yet retired or killed. -/
  live : Nat
  killed : Bool
  /-- A group or tray wave of it was killed (R139, R140). -/
  anyKilled : Bool
  /-- Its end has come, early for a task whose record's live said so (R140). -/
  ended : Bool
  doneAddr : Nat
  doneVal : DWord
  irq : Bool
  /-- Age limits set by TRAYCFG (R238), by configuration. -/
  ages : Map Nat
  draw : Option Draw
  deriving DecidableEq, Repr

/-! ## The queue and the context (spec/05_context.md, spec/06_queue.md) -/

/-- Queue states, in the order of their codes (R118). -/
inductive QueueSt where
  | disabled | idle | ready | active | waiting | preempted | error
  deriving DecidableEq, Repr

/-- A packet that has started and not completed (R119, R121). -/
structure Pkt where
  idx : Word
  grid : Option Nat
  /-- The context that its UNBIND is writing back (R111). -/
  unbind : Option Nat
  irq : Bool
  deriving DecidableEq, Repr

/-- Tray states (R231); a FREE entry is not listed. -/
inductive TraySt where
  | filling | triggered
  deriving DecidableEq, Repr

/-- A tray in use (R230, R231, R383). -/
structure Tray where
  st : TraySt
  grid : Nat
  config : Nat
  key : Word
  recs : List TrayRec
  deadline : Nat
  stamp : Nat
  /-- Group indices of the group that deposited the first record (R233). -/
  gx : Nat
  gy : Nat
  gz : Nat
  ticket : Option (Nat × Nat)
  deriving DecidableEq, Repr

/-- A saved group with its waves and trays (R127). -/
structure Saved where
  gid : Nat
  group : Group
  waves : List Wave
  /-- Trays saved with the group, by their entry (R240). -/
  trays : List (Nat × Tray)
  /-- Where its record lies in the darkslide, the record's bytes, and its replay records: kind, wave, length (R127, R361). -/
  off : Nat
  bytes : Nat
  recs : List (Nat × Nat × Nat)
  deriving DecidableEq, Repr

/-- A darkslide (R127): valid, next_packet, the groups saved (log 11). -/
structure Darkslide where
  valid : Bool
  nextPacket : Word
  bytes : Nat
  groups : List Saved
  deriving DecidableEq, Repr

/-- The register block of a queue and what the packet processor holds of it (R117, R118). -/
structure Queue where
  /-- The CXL.io function that owns it: 0 the physical one, 1 to 16 the virtual ones (R117, R404). -/
  fn : Nat
  qbase : Nat
  enable : Bool
  cls : Nat
  admin : Bool
  ctxId : Nat
  sizeOrder : Nat
  head : Word
  tail : Word
  saveOff : Word
  saveLen : Word
  st : QueueSt
  err : Nat
  errIdx : Word
  started : List Pkt
  slides : Darkslide
  /-- Ready lists of the four priorities: head and tail record (R139). -/
  readyHead : Map Nat
  readyTail : Map Nat
  /-- When it became READY (R122), and whether it counts one class higher. -/
  stamp : Nat
  promoted : Bool
  /-- The clock at which its class slice began: when it last became `ACTIVE` (R123). -/
  since : DWord
  /-- The clock at which it became `READY` (R122, R123). -/
  readyAt : DWord
  /-- When a group of it was last placed: its turn within its class (R122). -/
  turn : Nat
  /-- Packet-grid slots in use (R137). -/
  gridSlots : Nat
  deriving DecidableEq, Repr

/-- Context states (R111). An ID that is not listed is free. -/
inductive CtxSt where
  | created | bound | running | switched | quarantined
  deriving DecidableEq, Repr

/-- The device's copy of a context descriptor (R109). -/
structure CtxDesc where
  ctxId : Nat
  accWays : Nat
  plainOk : Bool
  wdShift : Nat
  fabTimeout : Nat
  fqOrder : Nat
  elOrder : Nat
  fqMsix : Nat
  ptRoot : Nat
  trapVector : Nat
  supData : Nat
  fqBase : Nat
  elBase : Nat
  saveBase : Nat
  saveBlocks : Nat
  resvBase : Nat
  resvLimit : Nat
  deriving DecidableEq, Repr

/-- A slot of the contact sheet (R307): base, pages, and by page the touch bit and miss counter. -/
structure Sheet where
  base : Nat
  pages : Nat
  marks : Map (BitVec 16)
  deriving DecidableEq, Repr

/-- A declared halo region (R285, R286); a neighbour's replica is an L1 line of its core. -/
structure Halo where
  base : Nat
  pitch : Nat
  tw : Nat
  th : Nat
  tilesX : Nat
  tilesY : Nat
  hx : Nat
  hy : Nat
  owners : List Nat
  /-- Pages of the region: virtual page, physical page. -/
  map : List (Nat × Nat)
  deriving DecidableEq, Repr

/-- A context (R105, R111). -/
structure Ctx where
  st : CtxSt
  desc : CtxDesc
  slot : Option Nat
  key : Nat
  sheets : Map Sheet
  halos : Map Halo
  /-- An UNBIND is writing back (R111). -/
  unbinding : Bool
  /-- The Safelight's counter (R128). -/
  dog : Nat
  deriving DecidableEq, Repr

/-! ## The core (spec/12_tray.md, spec/17_transfer.md, spec/18_accumulator.md) -/

/-- Bank modes (R151). -/
inductive BankMode where
  | cache | scratch | fifo
  deriving DecidableEq, Repr

/-- A bank of core SRAM (R151, R152). -/
structure Bank where
  mode : BankMode
  hold : Bool
  change : Option BankMode
  deriving DecidableEq, Repr

/-- Engine operations (R318, R345, R351). -/
inductive EngKind where
  | copy | gather | scatter | fill | mloop | drain
  deriving DecidableEq, Repr

/-- States of an engine operation that holds a slot (R321, R431); `waitPlace`: finished, its record without a place. -/
inductive EngSt where
  | issued | translated | running | parked | waitPlace
  deriving DecidableEq, Repr

/-- A locked span (R102, R319): virtual of a context, or scratch of a group; `rw`: locked against reads too. -/
structure Lock where
  op : Nat
  ctx : Nat
  scr : Option Nat
  lo : Nat
  hi : Nat
  rw : Bool
  deriving DecidableEq, Repr

/-- An engine operation (R317 to R324). -/
structure EngOp where
  serial : BitVec 22
  kind : EngKind
  st : EngSt
  ctx : Nat
  gid : Nat
  wave : Nat
  core : Nat
  slot : Nat
  b : Bool
  q : Nat
  priv : Priv
  desc : BitVec 512
  descAddr : Nat
  fmt : BitVec 256
  idxs : List Nat
  elem : Nat
  byte : Nat
  written : Nat
  /-- Pages pinned: virtual page, physical page (R303). -/
  pinned : List (Nat × Nat)
  failPage : Option Nat
  failCause : Option Cause
  missPage : Option Nat
  /-- When it parked: faults are taken in this order (R322). -/
  parkedAt : Nat
  /-- The issuing wave has exited (R321). -/
  orphan : Bool
  /-- The record to post (status 0, 1 or 2), when finished. -/
  final : Option (BitVec 256)
  team : Nat
  acc : Nat
  hist : Map Nat
  deriving DecidableEq, Repr

/-- One member's matrix word waiting for its team (R331); a loop is named by its handle. -/
inductive TeamWord where
  | mma (opId : Nat) (ta tb : LType) (tile fmtAddr : DWord) (fmt : BitVec 256) (flush : Bool) (active : Word)
      (va vb : Nat)
  | mloop (handle : Nat)
  deriving DecidableEq, Repr

/-- A member of a team: its wave and its words not yet run (R331). -/
structure Member where
  wave : Nat
  core : Nat
  slot : Nat
  words : List TeamWord
  deriving DecidableEq, Repr

/-- A team operation between its start and its end: which flush or scale fault stopped it (R336, R351). -/
inductive TeamStop where
  | none
  | flush (cause : Cause)
  | scale (cause : Cause) (addr : DWord)
  deriving DecidableEq, Repr

/-- A team and its staging state (R331, R334, R335). -/
structure Team where
  gid : Nat
  team : Nat
  size : Nat
  members : List Member
  dissolved : Bool
  /-- The staging state: tile, format block address, steps, values by 32T*m + n. -/
  tile : DWord
  fmtAddr : DWord
  fmt : BitVec 256
  steps : Nat
  is64 : Bool
  vals : Map DWord
  /-- After a refused flush: the elements whose partials were refused (R336). -/
  unsent : List Nat
  parked : Bool
  stamp : Nat
  stop : TeamStop
  /-- Members that have not yet returned from a stopped operation, and whether one skipped (R336). -/
  waiting : List Nat
  skipped : Bool
  deriving DecidableEq, Repr

/-- A core (R14). -/
structure Core where
  banks : Map Bank
  tagCtr : BitVec 12
  trays : Map Tray
  trayTickets : Map Nat
  /-- The `TRAYPUT` lane waiting for an entry that has triggered a tray: its word's stamp and the lane (R230). -/
  trayWait : Option (Nat × Nat)
  ops : Map EngOp
  serial : BitVec 22
  locks : List Lock
  overflow : List Lock
  teams : List Team
  konst : List (Nat × Nat × Word)
  dead : Bool
  deriving DecidableEq, Repr

/-! ## Coherence (spec/15_coherence.md, spec/22_link.md) -/

/-- L1 line states (R270, R274); a line that is not listed is in I. `omA`: an owner among sharers whose `Upg` is out (log 16). -/
inductive L1St where
  | s | e | o | m | isD | imD | smA | omA | eiN | miN | iiN
  deriving DecidableEq, Repr

/-- An L1 line (R270, R274, R287, R429). -/
structure L1Line where
  st : L1St
  acksNeed : Option Nat
  acksGot : Nat
  heldAck : Bool
  /-- Pushed halo data is held pending (R287). -/
  pend : Bool
  /-- Its eviction sent the data at once, in write-back-and-answer mode (R276). -/
  wbSent : Bool
  /-- The copy, which is clean, has met an uncorrectable soft error (R255 rank 12). -/
  bad : Bool
  deriving DecidableEq, Repr

/-- Directory states (R271); a line with no entry is in I. -/
inductive DirSt where
  | i | s | e | m | o | sD | mA | wD | a | h | migr | fog
  deriving DecidableEq, Repr

/-- Coherence messages (R269). -/
inductive MsgK where
  | getS | getM | upg
  | fwdGetS | fwdGetM | inv | pullWB | hPush | hCommit
  | invAck | ownAck | cleanAck | unblock | noticeAck | wbAck | hAck | retry
  | data | dataE | dataM | grant | wbData
  | putS | putE | putM | putO
  deriving DecidableEq, Repr

/-- A directory entry; `home`: the home copy is present and current (R270, R271, R407). The value of a line is that of
memory: caches hold no other (R82, log 5). -/
structure Dir where
  st : DirSt
  owner : Nat
  sharers : BitVec 96
  ext : List Nat
  /-- The owner's pending notice (R273). -/
  notice : Option MsgK
  /-- The fog marker (R271, R281, R282). -/
  fog : Bool
  home : Bool
  /-- The grant in progress is DataE (R273). -/
  grantE : Bool
  /-- Write-back data has come while the line was busy (R276). -/
  wb : Bool
  gotUnblock : Bool
  gotOwn : Bool
  gotClean : Bool
  reqr : Nat
  /-- BIRsps a pending write grant waits for, and that grant: requester, whether it carries data, acks (R407). -/
  biWait : List Nat
  biGrant : Option (Nat × Bool × Nat)
  deriving DecidableEq, Repr

/-- A message in flight (R268, R269). -/
structure Msg where
  k : MsgK
  line : Nat
  src : Nat
  dst : Nat
  reqr : Nat
  acks : Nat
  stale : Bool
  notice : Bool
  /-- The clock when it was sent. -/
  sent : DWord
  deriving DecidableEq, Repr

/-- The coherence machinery. -/
structure Coh where
  l1 : Map L1Line
  dir : Map Dir
  msgs : List Msg
  waitBuf : List Msg
  retries : List Msg
  snoops : List (Nat × Bool)
  wbMode : Bool
  /-- Halo pushes: line, core, HAcks still to come (R287). -/
  pushes : List (Nat × Nat × Nat × LineData)
  /-- Bytes of H lines that their owners have written and not pushed (R286). -/
  haloDirty : List Host.Cell
  /-- By retired ID: messages dropped since its last record in the event log, and the clock of that record plus 1
  (R283, R421). -/
  dropped : Map (Nat × Nat)
  /-- Fetches whose line fails its integrity check: context, line, address (R110, R425). -/
  failing : List (Nat × Nat × Nat)
  deriving DecidableEq, Repr

/-! ## Pages (spec/16_page.md) -/

/-- Frame states (R295); a frame that is not listed is FREE. -/
inductive FrameSt where
  | filling | clean | dirty | evicting | zeroing | pooled | taken | loc
  deriving DecidableEq, Repr

/-- A frame-map entry (R295). -/
structure Frame where
  st : FrameSt
  page : Nat
  ctx : Nat
  clock : Bool
  dirty : BitVec 512
  /-- While `EVICTING`: lines below this one are released, and this one is in MIGR (R298). -/
  released : Nat
  deriving DecidableEq, Repr

/-- A TLB entry (R293): of a core's L1 TLB, or of a plate's L2 TLB; `vpn` counts 64 KiB pages. -/
structure TlbEnt where
  /-- The core, or the plate. -/
  core : Nat
  ctx : Nat
  vpn : Nat
  leaf : DWord
  /-- The leaf is a level-1 entry (512 MiB). -/
  large : Bool
  deriving DecidableEq, Repr

/-- A table entry that a plate's walk cache holds (R293): the level it points to, the index bits of the walk down to it. -/
structure WalkEnt where
  plate : Nat
  ctx : Nat
  level : Nat
  idx : Nat
  entry : DWord
  deriving DecidableEq, Repr

/-- A line of a non-coherent page in the L2, with the bytes that the K9 has written (R265, R290). -/
structure HostLine where
  data : LineData
  dirty : BitVec 128
  deriving DecidableEq, Repr

/-- A claim of a first-touch page (R301). -/
structure Claim where
  ctx : Nat
  vpn : Nat
  core : Nat
  slot : Nat
  deriving DecidableEq, Repr

/-- The page machinery of the easel. -/
structure Vm where
  frames : Map Frame
  hand : Nat
  poolTarget : Nat
  reserved : Nat
  pins : Map Nat
  claims : List Claim
  batch : Option (List (Nat × Nat))
  /-- First-touch faults gathered into the open batch: context, page (R299). -/
  touches : List (Nat × Nat)
  /-- Fills that found no `FREE` frame, in order: page, context (R297). -/
  starved : List (Nat × Nat)
  /-- Pages that a prediction has added to the open batch: its source (2 the Finder, 3 strides), page and context (R299, R300). -/
  foreseen : List (Nat × Nat × Nat)
  /-- By unit, its last misses, the latest first (R300). -/
  strides : Map (List Nat)
  wgrant : Map Bool
  /-- The L1 TLBs, the L2 TLBs and the walk caches, the latest first (R293). -/
  tlb : List TlbEnt
  tlb2 : List TlbEnt
  walks : List WalkEnt
  deriving DecidableEq, Repr

/-! ## Accumulators (spec/18_accumulator.md) -/

/-- An element of an open accumulator (R70, R72): the 80-bit sum, or the float bits in `acc`. -/
structure AccElem where
  acc : BitVec 80
  nan : Bool
  pinf : Bool
  ninf : Bool
  satmark : Bool
  deriving DecidableEq, Repr

/-- Accumulator states, in the order of their codes (R337). -/
inductive AccSt where
  | closed | opened | draining | drained | aborted | faulted
  deriving DecidableEq, Repr

/-- An entry of the open-accumulator table (R337, R339). -/
structure Acc where
  ctx : Nat
  descAddr : Nat
  descPa : Nat
  base : Nat
  rows : Nat
  cols : Nat
  form : Nat
  anchor : Int
  histBase : Int
  drainType : LType
  drainRnd : Nat
  drainSat : Bool
  ownerGid : Option Nat
  hist : Nat
  dst : Nat
  dstPitch : Nat
  spill : Nat
  spillBlocks : Nat
  st : AccSt
  elems : Map AccElem
  /-- Lines holding a place in their slice, each with the stamp of its last update, and lines spilled (R340). -/
  placed : List (Nat × Nat)
  spilled : List Nat
  /-- Spill slots that parked staging lines hold (R335, R340). -/
  parkedLines : Nat
  /-- Pages of the region: virtual page, physical page. -/
  map : List (Nat × Nat)
  deriving DecidableEq, Repr

/-- A partial on its way to its home slice (R338). -/
structure Partial where
  ctx : Nat
  va : Nat
  ty : LType
  bits : DWord
  gid : Nat
  core : Nat
  slot : Nat
  opId : Nat
  lane : Nat
  deriving DecidableEq, Repr

/-! ## Links, management, boot (spec/22_link.md, spec/23_trust.md) -/

/-- Port states, in the order of their codes (R410). -/
inductive PortSt where
  | down | training | up | degraded | fenced
  deriving DecidableEq, Repr

/-- A port: 0 to 3 CXL, 4 to 11 Glinor (R408 to R410, R421). -/
structure Port where
  st : PortSt
  rxNext : BitVec 12
  txSeq : BitVec 12
  retry : List Flit
  resends : Nat
  credits : Map Nat
  sendNak : Bool
  keyPhase : Nat
  nextKey : Option Nat
  ide : Nat
  deriving DecidableEq, Repr

/-- An external agent (R268, R411); `route`: its port, plus 16 times its domain device number for a peer. -/
structure Agent where
  kind : AgentKind
  route : Nat
  live : Bool
  deriving DecidableEq, Repr

/-- A pool decoder (R405). -/
structure Decoder where
  enable : Bool
  base : BitVec 23
  size : BitVec 23
  deriving DecidableEq, Repr

/-- A reduction window (R413). -/
structure Window where
  enable : Bool
  base : Nat
  pages : Nat
  home : Nat
  ty : LType
  deriving DecidableEq, Repr

/-- A fabric reduction on its way: the element's key, its type and value, and the waves that issued what it merges, as 64 times the core plus the slot (R100, R414). -/
structure FabRed where
  key : Nat
  ty : LType
  val : Nat
  waves : List Nat
  deriving DecidableEq, Repr

/-- Links and external agents. -/
structure Link where
  ports : Map Port
  decoders : Map Decoder
  windows : Map Window
  agents : Map Agent
  nextAgent : Nat
  /-- Lines of peers whose request has left in the step that this counter names (R84, R408). -/
  sent : Nat × List (Nat × Nat)
  /-- Stores that have left for a peer: agent, port, sequence number and context, while their flit is not acknowledged (R116, R409). -/
  stores : List (Nat × Nat × BitVec 12 × Nat)
  /-- Fabric reductions in the switches, not yet performed at their home (R100, R414). -/
  merging : List FabRed
  deriving DecidableEq, Repr

/-- A record of the device event log (R420). -/
structure EvRec where
  code : Nat
  agent : Nat
  time : DWord
  a : Word
  b : Word
  deriving DecidableEq, Repr

/-- Management: the mailbox (R419), the event log (R420), the power state (R19, R418). -/
structure Mgmt where
  go : Bool
  done : Bool
  req : BitVec 128
  resp : BitVec 2080
  lastResp : BitVec 2080
  logTail : Word
  logHead : Word
  logLost : Word
  log : Map EvRec
  freqMHz : Nat
  powerLimit : Nat
  deriving DecidableEq, Repr

/-- The Rinkan core, an RV32IMC core with 256 KiB of tightly coupled memory (R11). What its firmware does shows in the device
events; the spec gives no rule that reads or writes this state itself. -/
structure Rinkan where
  pc : Word
  regs : Map Word
  tcm : List Host.Cell
  deriving DecidableEq, Repr

/-- Boot states (R422). -/
inductive BootSt where
  | rom | firmware | operational | recovery
  deriving DecidableEq, Repr

/-- SPDM session state (R424). -/
inductive SpdmSt where
  | start | versioned | capable | negotiated | exchanged | session
  deriving DecidableEq, Repr

/-- Boot, measurements and sessions (R422 to R426). -/
structure Boot where
  st : BootSt
  flash : Map FwImage
  fuseVersion : Nat
  running : Nat
  measure : Map (BitVec 384)
  spdm : Map SpdmSt
  lastSpdm : Option (Nat × Nat)
  deriving DecidableEq, Repr

/-! ## The machine -/

/-- The K9. -/
structure State where
  turns : List Turn
  cur : Issuer
  free : Nat
  clock : DWord
  mem : List Host.Cell
  /-- Clear bytes that an external agent's writes replaced in memory, for lines that no page of theirs has yet been
  used to read (R425). -/
  extBytes : List Host.Cell
  /-- Encrypted lines whose memory an external agent has changed and whose clear copies the K9 still holds (R425). -/
  tamper : List Nat
  /-- The key under which a written line is encrypted: the number of a context's key plus 1, or 0 for a line in clear (R110). -/
  sealed : Map Nat
  /-- Lines of non-coherent pages that the L2 holds (R290). -/
  hostLines : Map HostLine
  waves : Map Wave
  groups : Map Group
  grids : Map Grid
  queues : Map Queue
  ctxs : Map Ctx
  cores : Map Core
  coh : Coh
  vm : Vm
  accs : Map Acc
  partials : List Partial
  /-- BARRX arrivals in flight: target handle and barrier (R244). -/
  arrivals : List (Word × Nat)
  link : Link
  mgmt : Mgmt
  rinkan : Rinkan
  boot : Boot
  /-- MSI-X vectors raised: context and vector, latest first (R114, R119). -/
  msix : List (Nat × Nat)
  /-- The placement pointer P (R135). -/
  placeP : Nat
  nextGid : Nat
  nextGrid : Nat
  nextKey : Nat
  stamp : Nat
  deriving DecidableEq, Repr

/-! ## Values at start and at reset -/

/-- All flags 0 (R133, R358). -/
def Flags.zero : Flags := { z := false, n := false, c := false, v := false }

/-- A stopped feed (R133, R176). -/
def Feed.init : Feed :=
  { nextAddr := 0, size := 0, stride := 0, remaining := 0, run := false, underflow := false, buf := [] }

/-- An event queue at start: depth 16, empty (R324). -/
def EvQ.init : EvQ := { depth := 16, recs := [] }

/-- The trap registers at start: all 0 (R133, R355). -/
def TrapRegs.zero : TrapRegs := { cause := 0, pc := 0, addr := 0, mask := 0, info := 0 }

/-- Nothing set aside. -/
def Shadow.zero : Shadow :=
  { wait := .none, regs := [], flags := Flags.zero, pcEntry := 0, strips := [], headOff := 0, lstop := false, fenceR := 0, fenceW := 0,
    late := [], ops := [] }

/-- An unused barrier (R241). -/
def Barrier.init : Barrier :=
  { inUse := false, expected := 0, arrived := 0, phase := 0, waiters := 0, remote := 0 }

/-- A bank at reset: CACHE and unheld (R151). -/
def Bank.init : Bank := { mode := .cache, hold := false, change := none }

/-- No darkslide saved (R127). -/
def Darkslide.none : Darkslide := { valid := false, nextPacket := 0, bytes := 0, groups := [] }

/-- A queue register block at reset (R117). -/
def Queue.init : Queue :=
  { fn := 0, qbase := 0, enable := false, cls := 0, admin := false, ctxId := 0, sizeOrder := 0, head := 0, tail := 0,
    saveOff := 0, saveLen := 0, st := .disabled, err := 0, errIdx := 0, started := [], slides := Darkslide.none,
    readyHead := [], readyTail := [], stamp := 0, promoted := false, since := 0, readyAt := 0, turn := 0, gridSlots := 0 }

/-- A core at reset. -/
def Core.init : Core :=
  { banks := [], tagCtr := 0, trays := [], trayTickets := [], trayWait := none, ops := [], serial := 0, locks := [], overflow := [],
    teams := [], konst := [], dead := false }

/-- A directory entry in I with no home copy (R271). -/
def Dir.init : Dir :=
  { st := .i, owner := 0, sharers := 0, ext := [], notice := none, fog := false, home := false, grantE := false, wb := false, gotUnblock := false,
    gotOwn := false, gotClean := false, reqr := 0, biWait := [], biGrant := none }

/-- A port at reset: DOWN (log 12). -/
def Port.init : Port :=
  { st := .down, rxNext := 0, txSeq := 0, retry := [], resends := 0, credits := [], sendNak := false, keyPhase := 0,
    nextKey := none, ide := 0 }

/-- An accumulator element at open: zero (R339). -/
def AccElem.zero : AccElem := { acc := 0, nan := false, pinf := false, ninf := false, satmark := false }

/-- Frames the Rinkan core reserves at the top of GDDR-7 at reset (R294; log 12). -/
def reservedFrames : Nat := 1024

/-- The machine right after reset. Memory lists nothing; no context, queue, wave or agent exists; the boot ROM is
about to run (R422); write-back-and-answer mode is on (R276). -/
def State.reset : State :=
  { turns := [], cur := { core := 0, slot := 0, b := false }, free := 0, clock := 0, mem := [], extBytes := [], tamper := [], sealed := [], hostLines := [],
    waves := [], groups := [], grids := [], queues := [], ctxs := [], cores := [],
    coh := { l1 := [], dir := [], msgs := [], waitBuf := [], retries := [], snoops := [], wbMode := true,
             pushes := [], haloDirty := [], dropped := [], failing := [] },
    vm := { frames := [], hand := 0, poolTarget := 0, reserved := reservedFrames, pins := [], claims := [],
            batch := none, touches := [], starved := [], foreseen := [], strides := [], wgrant := [], tlb := [], tlb2 := [], walks := [] },
    accs := [], partials := [], arrivals := [],
    link := { ports := [], decoders := [], windows := [], agents := [], nextAgent := 128, sent := (0, []), stores := [], merging := [] },
    mgmt := { go := false, done := false, req := 0, resp := 0, lastResp := 0, logTail := 0, logHead := 0, logLost := 0,
              log := [], freqMHz := 3300, powerLimit := 2400 },
    rinkan := { pc := 0, regs := [], tcm := [] },
    boot := { st := .rom, flash := [], fuseVersion := 0, running := 0, measure := [], spdm := [], lastSpdm := none },
    msix := [], placeP := 0, nextGid := 0, nextGrid := 0, nextKey := 0, stamp := 0 }

end Sys2Proof.Machine
end

