-- ==== Sys2Proof/Machine/Mem.lean ====
section
/-! DEFINITION. Machine/Mem.lean: bytes of memory, page walks and held translations (R289 to R293), and the state of a line at
its home (R271, R279 to R287). -/

namespace Sys2Proof.Machine

/-! ## Bytes -/

/-- `n` bytes from address `a`; an unlisted byte reads 0 (log 1). -/
def readMem (m : List Host.Cell) (a : Nat) : Nat → List Byte
  | 0 => []
  | n + 1 => Tab.get 0 m a :: readMem m (a + 1) n

/-- Bytes stored from address `a` on, keeping the canonical form. -/
def writeMem (m : List Host.Cell) (a : Nat) : List Byte → List Host.Cell
  | [] => m
  | b :: rest => writeMem (Tab.set 0 m a b) (a + 1) rest

/-- The number `n` bytes hold (R1). -/
def readNum (m : List Host.Cell) (a n : Nat) : Nat := ofBytes (readMem m a n)

/-- Store a number in `n` bytes (R1). -/
def writeNum (m : List Host.Cell) (a n x : Nat) : List Host.Cell := writeMem m a (toBytes n x)

/-- The memory is in canonical form: addresses rising, no listed zero. -/
def Memory.wf (m : List Host.Cell) : Bool := Tab.wf 0 m

/-- A fresh index for a free value (log 7): the counter of the state and a place within the step. -/
def freeIdx (s : State) (k : Nat) : Nat := s.free * 2 ^ 80 + k

/-- The key of a physical byte: its address here, the agent's space of a peer, the host's space (R78, R290). -/
def memKey (home agent pa : Nat) : Nat :=
  if home = 2 then agent * 2 ^ 52 + pa else if home = 3 then 2 ^ 64 + pa else pa

/-! ## Page-table entries (R290) -/

/-- A leaf in use: its word and whether it maps 512 MiB. -/
structure Leaf where
  word : Nat
  large : Bool
  deriving DecidableEq, Repr

/-- home of an entry. -/
def pteHome (e : Nat) : Nat := bits e 3 2
/-- pa of an entry, as an address. -/
def ptePa (e : Nat) : Nat := bits e 51 16 * 65536
/-- peer of an entry. -/
def ptePeer (e : Nat) : Nat := bits e 63 52

/-- The entry is a valid table entry: every field but pa is 0. -/
def pteTable (e : Nat) : Bool := bit e 0 && !bit e 1 && bits e 15 2 == 0 && bits e 63 52 == 0

/-- The entry is a valid leaf of its level (R289, R290). -/
def pteLeaf (large : Bool) (e : Nat) : Bool :=
  bit e 0 && bit e 1 && (!bit e 5 || bit e 4) && bits e 15 11 == 0 && (pteHome e == 2 || ptePeer e == 0)
    && (!large || (bits e 28 16 == 0 && !bit e 9))

/-- Address of the level-2 entry of a virtual address, or the level-1 leaf; none when the walk ends invalid. -/
def walkTo (m : List Host.Cell) (root va : Nat) : Option (Nat × Bool) :=
  if 2 ^ 57 ≤ va then none else
  let e0 := readNum m (root + 8 * bits va 56 43) 8
  if pteTable e0 then
    let a1 := ptePa e0 + 8 * bits va 42 29
    let e1 := readNum m a1 8
    if pteLeaf true e1 then some (a1, true)
    else if pteTable e1 then some (ptePa e1 + 8 * bits va 28 16, false)
    else none
  else none

/-- The leaf of a virtual address (R289). -/
def walk (m : List Host.Cell) (root va : Nat) : Option Leaf :=
  match walkTo m root va with
  | none => none
  | some (a, large) =>
    let e := readNum m a 8
    if pteLeaf large e then some { word := e, large := large } else none

/-- Leaf words of the aligned 2 MiB group of a level-2 entry at `a`, by place (R292). -/
def contigGroup (m : List Host.Cell) (a : Nat) : List Nat :=
  (List.range 32).map (fun j => readNum m (a / 256 * 256 + 8 * j) 8)

/-- The leaves of a group agree (R292). -/
def contigAgree (l : List Nat) : Bool :=
  let e := l.headD 0
  (l.zip (List.range 32)).all (fun p =>
    pteLeaf false p.1 && bit p.1 9 && bits p.1 15 0 == bits e 15 0 && bits p.1 63 52 == bits e 63 52
      && ptePa p.1 == ptePa e + 65536 * p.2)

/-- Extensions of the valid contig leaves of a group that does not agree, to the page at place `i` (R292). -/
def contigExt (m : List Host.Cell) (a i : Nat) : List Leaf :=
  let l := contigGroup m a
  if contigAgree l then [] else
  (l.zip (List.range 32)).filterMap (fun p =>
    if pteLeaf false p.1 && bit p.1 9 && p.2 != i && decide (65536 * p.2 ≤ ptePa p.1 + 65536 * i) then
      some { word := p.1 - ptePa p.1 + (ptePa p.1 + 65536 * i - 65536 * p.2) % 2 ^ 52, large := false }
    else none)

/-- The physical address a leaf gives a virtual address. -/
def leafPa (l : Leaf) (va : Nat) : Nat := ptePa l.word + (if l.large then va % 2 ^ 29 else va % 65536)

/-- The memory key a leaf gives a virtual address. -/
def leafKey (l : Leaf) (va : Nat) : Nat := memKey (pteHome l.word) (ptePeer l.word) (leafPa l va)

/-! ## Contexts and translation -/

/-- How an access is checked and takes part in coherence (R82, R83, R291): `read` and `write` go through the L1; `fetch`, and
`look` (the constant cache, texture and Finder reads), read outside coherence; `pull` and `update` read and write at the
home, as engines and the words that act at the home do. -/
inductive AccKind where
  | read | write | fetch | look | pull | update
  deriving DecidableEq, Repr

/-- The access writes. -/
def AccKind.writes : AccKind → Bool
  | .write => true | .update => true | _ => false

/-- The access reads data, and needs read permission alone. -/
def AccKind.reads : AccKind → Bool
  | .read => true | .look => true | .pull => true | _ => false

/-- The context, if it exists. -/
def ctxOf (s : State) (ctx : Nat) : Option Ctx := Map.find s.ctxs ctx

/-- The address lies in the context's reserved range (R109, R291). -/
def inResv (c : Ctx) (va : Nat) : Bool := decide (c.desc.resvBase ≤ va) && decide (va < c.desc.resvLimit)

/-- The peer of a leaf is lost (R291 row 8, R415). -/
def peerLostAgent (s : State) (id : Nat) : Bool :=
  match Map.find s.link.agents id with
  | some a => !a.live
  | none => true

/-- Keep the first `n` elements that satisfy `p`, and every other one. -/
def keepFirst {α : Type} (p : α → Bool) : Nat → List α → List α
  | _, [] => []
  | n, x :: rest =>
    if p x then
      match n with
      | 0 => keepFirst p 0 rest
      | k + 1 => x :: keepFirst p k rest
    else x :: keepFirst p n rest

/-- The plate of a core (R12). -/
def plateOf (core : Nat) : Nat := core / 24

/-- Put a translation at the head of its TLB of `n` entries; which entry goes when it is full is the oldest used (log 14). -/
def tlbKeep (e : TlbEnt) (n : Nat) (l : List TlbEnt) : List TlbEnt :=
  keepFirst (fun x => x.core == e.core) n (e :: l.filter (· != e))

/-- The table entries that a walk to an address passes (R289). -/
def walkEnts (m : List Host.Cell) (root plate ctx va : Nat) : List WalkEnt :=
  let e0 := readNum m (root + 8 * bits va 56 43) 8
  if pteTable e0 then
    let e1 := readNum m (ptePa e0 + 8 * bits va 42 29) 8
    { plate := plate, ctx := ctx, level := 1, idx := bits va 56 43, entry := BitVec.ofNat 64 e0 } ::
      (if pteTable e1 then [{ plate := plate, ctx := ctx, level := 2, idx := bits va 56 29, entry := BitVec.ofNat 64 e1 }] else [])
  else []

/-- A core uses a translation: its L1 TLB, its plate's L2 TLB and its plate's walk cache hold it (R293). -/
def tlbPut (s : State) (core ctx va : Nat) (l : Leaf) : State :=
  let e : TlbEnt := { core := core, ctx := ctx, vpn := va / 65536, leaf := BitVec.ofNat 64 l.word, large := l.large }
  let root := ((ctxOf s ctx).map (·.desc.ptRoot)).getD 0
  let ws := walkEnts s.mem root (plateOf core) ctx va
  { s with vm := { s.vm with tlb := tlbKeep e 512 s.vm.tlb, tlb2 := tlbKeep { e with core := plateOf core } 16384 s.vm.tlb2
                             walks := ws ++ s.vm.walks.filter (fun x => !ws.contains x) } }

/-- The leaf that a held table entry leads to (R293). -/
def walkFrom (m : List Host.Cell) (x : WalkEnt) (va : Nat) : Option Leaf :=
  let low (e1 : Nat) : Option Leaf :=
    let e := readNum m (ptePa e1 + 8 * bits va 28 16) 8
    if pteLeaf false e then some { word := e, large := false } else none
  if x.level = 1 then
    if x.idx ≠ bits va 56 43 then none
    else
      let e1 := readNum m (ptePa x.entry.toNat + 8 * bits va 42 29) 8
      if pteLeaf true e1 then some { word := e1, large := true } else if pteTable e1 then low e1 else none
  else if x.idx = bits va 56 29 then low x.entry.toNat
  else none

/-- The translations of a page that the L1 TLB of a core, and the L2 TLB and walk cache of its plate, give (R293). -/
def heldLeaves (s : State) (core ctx va : Nat) : List Leaf :=
  let hit (unit : Nat) (e : TlbEnt) : Bool := e.core == unit && e.ctx == ctx && e.vpn == va / 65536
  (s.vm.tlb.filter (hit core) ++ s.vm.tlb2.filter (hit (plateOf core))).map (fun e => { word := e.leaf.toNat, large := e.large })
    ++ (s.vm.walks.filter (fun x => x.plate == plateOf core && x.ctx == ctx)).filterMap (fun x => walkFrom s.mem x va)

/-- Two leaves that differ at most in d, which is never cached (R293). -/
def sameLeaf (a b : Leaf) : Bool := a.large == b.large && a.word / 2048 == b.word / 2048 && a.word % 1024 == b.word % 1024

/-- The leaf an access translates by: the walk's; one held from before a store to the entry, which any access may use until the
translation is invalidated (R293); or an extension of a contiguity hint whose group does not agree (R292). The choice is
free. -/
def pickLeaf (s : State) (core ctx va : Nat) (c : Ctx) : Option Leaf :=
  let now := walk s.mem c.desc.ptRoot va
  let ext : List Leaf :=
    match walkTo s.mem c.desc.ptRoot va with
    | some (a, false) => contigExt s.mem a (bits va 20 16)
    | _ => []
  let held := (heldLeaves s core ctx va).filter (fun l => !(now.map (sameLeaf l)).getD false)
  match ext ++ held with
  | [] => now
  | l :: rest =>
    if Config.freeBool (freeIdx s va) then now
    else (l :: rest)[(Config.freeWord (freeIdx s va)).toNat % (rest.length + 1)]?

/-- The cause of a translation that fails (R291 rows 1 to 7), or its leaf. -/
def translate (s : State) (core ctx : Nat) (priv : Priv) (va : Nat) (k : AccKind) : Except Cause Leaf :=
  if 2 ^ 57 ≤ va then .error .unmapped
  else
    match ctxOf s ctx with
    | none => .error .unmapped
    | some c =>
      match pickLeaf s core ctx va c with
      | none => if inResv c va then .error .reservedTouch else .error .unmapped
      | some l =>
        if bit l.word 7 && priv == .u then .error .protect
        else if k == .fetch && !bit l.word 6 then .error .execDenied
        else if (k.reads && !bit l.word 4) || (k.writes && !bit l.word 5) then .error .protect
        else if bit l.word 8 && !c.desc.plainOk then .error .protect
        else .ok l

/-! ## Marks an access leaves -/

/-- The frame a pool page is filled into or cached in (R295). -/
def frameOfPage (s : State) (page : Nat) : Option (Nat × Frame) :=
  s.vm.frames.find? (fun e => e.2.page == page && (e.2.st == .filling || e.2.st == .clean || e.2.st == .dirty))

/-- The frame that a pool page is being evicted from (R298). -/
def evictingFrame (s : State) (page : Nat) : Option (Nat × Frame) :=
  s.vm.frames.find? (fun e => e.2.page == page && e.2.st == .evicting)

/-- The line of a key. -/
def lineOf (key : Nat) : Nat := key / 128 * 128

/-- The directory entry of a line (R271). -/
def dirOf (s : State) (line : Nat) : Dir := (Map.find s.coh.dir line).getD Dir.init

/-- Put a directory entry; one equal to a line never used is not listed. -/
def setDir (s : State) (line : Nat) (d : Dir) : State :=
  { s with coh := { s.coh with dir := Tab.set Dir.init s.coh.dir line d } }

/-- Touch a page of the contact sheet; `miss` also counts (R307). -/
def sheetNote (s : State) (ctx va : Nat) (touch miss : Bool) : State :=
  { s with ctxs := Map.modify s.ctxs ctx (fun c =>
      { c with sheets := Map.mapVals c.sheets (fun _ sh =>
          if sh.base ≤ va ∧ va < sh.base + 65536 * sh.pages then
            let p := (va - sh.base) / 65536
            let old := Tab.get 0 sh.marks p
            let cnt := old.toNat % 32768
            let cnt' := if miss then min 32767 (cnt + 1) else cnt
            { sh with marks := Tab.set 0 sh.marks p (BitVec.ofNat 16 ((if touch || bit old.toNat 15 then 32768 else 0) + cnt')) }
          else sh) }) }

/-- Set the clock bit of the frame that serves a pool page (R297). -/
def clockNote (s : State) (page : Nat) : State :=
  match frameOfPage s page with
  | some (f, fr) => { s with vm := { s.vm with frames := Map.insert s.vm.frames f { fr with clock := true } } }
  | none => s

/-- Set the write-grant bit of the page of a line homed here (R305). -/
def grantNote (s : State) (key : Nat) : State :=
  if 2 ^ 52 ≤ key then s else { s with vm := { s.vm with wgrant := Tab.set false s.vm.wgrant (key / 65536) true } }

/-- Put a frame's entry. -/
def setFrame (s : State) (f : Nat) (fr : Frame) : State := { s with vm := { s.vm with frames := Map.insert s.vm.frames f fr } }

/-- The frame goes to FREE. -/
def dropFrame (s : State) (f : Nat) : State := { s with vm := { s.vm with frames := Map.erase s.vm.frames f } }

/-- A core (R14). -/
def coreOf (s : State) (core : Nat) : Core := Tab.get Core.init s.cores core

/-- Put a core. -/
def putCore (s : State) (core : Nat) (c : Core) : State := { s with cores := Tab.set Core.init s.cores core c }

/-! ## Lines in A and H -/

/-- The virtual address of a physical byte, by a region's pages. -/
def vaOfKey (map : List (Nat × Nat)) (key : Nat) : Option Nat :=
  (map.find? (fun e => e.2 == key / 65536)).map (fun e => e.1 * 65536 + key % 65536)

/-- Element bytes of an accumulator's form (R338). -/
def accElemBytes (form : Nat) : Nat := if form = 1 then 4 else 8

/-- The accumulator is in `OPEN`, `DRAINING` or `FAULTED` (R339). -/
def accLive (a : Acc) : Bool := a.st == .opened || a.st == .draining || a.st == .faulted

/-- The physical byte lies in the accumulator's region (R338). -/
def accHas (a : Acc) (key : Nat) : Bool :=
  match vaOfKey a.map key with
  | none => false
  | some va => decide (a.base ≤ va) && decide (va < a.base + a.rows * a.cols * accElemBytes a.form)

/-- The byte's line is in state A (R98, R279, R339). -/
def inA (s : State) (key : Nat) : Bool := s.accs.any (fun e => accLive e.2 && accHas e.2 key)

/-- The tile of a halo region that holds a virtual address, row-major (R285). -/
def haloTile (h : Halo) (va : Nat) : Option Nat :=
  if va < h.base ∨ h.pitch = 0 then none
  else
    let row := (va - h.base) / h.pitch
    let col := (va - h.base) % h.pitch / 128
    if row < h.th * h.tilesY ∧ col < h.tw * h.tilesX then some (row / h.th * h.tilesX + col / h.tw) else none

/-- The line lies in a halo strip of its tile (R285). -/
def haloStrip (h : Halo) (va : Nat) : Bool :=
  let row := (va - h.base) / h.pitch % h.th
  let col := (va - h.base) % h.pitch / 128 % h.tw
  decide (col < h.hx) || decide (h.tw ≤ col + h.hx) || decide (row < h.hy) || decide (h.th ≤ row + h.hy)

/-- Owners of the tiles adjacent to a tile, without its own owner (R285). -/
def haloNeighbours (h : Halo) (t : Nat) : List Nat :=
  let i := t % h.tilesX
  let j := t / h.tilesX
  let own := h.owners.getD t 0
  let near := (List.range (h.tilesX * h.tilesY)).filter (fun u =>
    u != t && decide (u % h.tilesX ≤ i + 1) && decide (i ≤ u % h.tilesX + 1) && decide (u / h.tilesX ≤ j + 1)
      && decide (j ≤ u / h.tilesX + 1))
  (near.map (fun u => h.owners.getD u 0)).filter (· != own)

/-- What a core is to a halo line that holds a physical byte: it may hold a replica (R286). -/
def haloReader (s : State) (core key : Nat) : Bool :=
  s.ctxs.any (fun c => c.2.halos.any (fun h =>
    match vaOfKey h.2.map key with
    | none => false
    | some va => match haloTile h.2 va with
      | some t => haloStrip h.2 va && (haloNeighbours h.2 t).contains core
      | none => false))

/-- The owner core of the halo line that holds a physical byte, if it is in a declared region (R286). -/
def haloOwner (s : State) (key : Nat) : Option Nat :=
  s.ctxs.findSome? (fun c => c.2.halos.findSome? (fun h =>
    match vaOfKey h.2.map key with
    | none => none
    | some va => (haloTile h.2 va).map (fun t => h.2.owners.getD t 0)))

/-- The directory state of a byte's line (R271): A and H lines by what put them there (R279, R286), else the entry's, with a
line that the fog marker alone sets apart in FOG. -/
def lineSt (s : State) (key : Nat) : DirSt :=
  let d := dirOf s (lineOf key)
  if inA s key then .a
  else if (haloOwner s key).isSome then .h
  else if d.fog then .fog
  else d.st

/-! ## Places in the slices (R13, R340) -/

/-- The home slice of a physical address (R13). -/
def homeSlice (pa : Nat) : Nat :=
  bits pa 13 7 ^^^ bits pa 20 14 ^^^ bits pa 27 21 ^^^ bits pa 34 28 ^^^ bits pa 41 35 ^^^ bits pa 48 42 ^^^ bits pa 51 49

/-- Physical key of a virtual byte of an accumulator's region. -/
def accKeyOf (a : Acc) (va : Nat) : Nat :=
  match a.map.find? (fun e => e.1 == va / 65536) with
  | some e => e.2 * 65536 + va % 65536
  | none => va

/-- Lines that hold a place in a slice: table key, line, stamp, context. -/
def slicePlaces (s : State) (slice : Nat) : List (Nat × Nat × Nat × Nat) :=
  s.accs.flatMap (fun e => (e.2.placed.filter (fun p => homeSlice (accKeyOf e.2 (128 * p.1)) == slice)).map
    (fun p => (e.1, p.1, p.2, e.2.ctx)))

/-! ## The device event log (R420, R421) -/

/-- Write a record to the device event log. -/
def evLog (s : State) (code agent a b : Nat) : State :=
  let m := s.mgmt
  let r : EvRec :=
    { code := code, agent := agent, time := s.clock, a := BitVec.ofNat 32 a, b := BitVec.ofNat 32 b }
  let full := decide (4096 ≤ (m.logTail - m.logHead).toNat)
  { s with mgmt := { m with
      log := Map.insert m.log (m.logTail.toNat % 4096) r
      logTail := m.logTail + 1
      logHead := if full then m.logHead + 1 else m.logHead
      logLost := if full && m.logLost != 0xFFFFFFFF then m.logLost + 1 else m.logLost } }

end Sys2Proof.Machine
end

