-- ==== Sys2Proof/Machine/Proto.lean ====
section
/-! DEFINITION. Machine/Proto.lean: the coherence protocol of one line: what its home slice and the L1s do with each message
(R268 to R283, R287, R429), and what a recall leaves (R279, R280, R286). -/

namespace Sys2Proof.Machine

/-! ## Messages (R268, R269) -/

/-- What stands for the home slices as the sender of a message: no 12-bit agent ID. -/
def homeId : Nat := 4096

/-- A message as it leaves now. -/
def Msg.at_ (clock : DWord) (m : Msg) : Msg := { m with sent := clock }

/-- Send a message. -/
def sendMsg (s : State) (m : Msg) : State := { s with coh := { s.coh with msgs := s.coh.msgs ++ [m.at_ s.clock] } }

/-- A message from the home of a line to an agent. -/
def fromHome (k : MsgK) (line dst reqr acks : Nat) : Msg :=
  { k := k, line := line, src := homeId, dst := dst, reqr := reqr, acks := acks, stale := false, notice := false, sent := 0 }

/-- A message from a core to the home. -/
def toHome (k : MsgK) (line core : Nat) : Msg :=
  { k := k, line := line, src := core, dst := homeId, reqr := core, acks := 0, stale := false, notice := false, sent := 0 }

/-- An agent ID is retired (R268, R281, R283). -/
def retiredId (s : State) (id : Nat) : Bool := if id < 128 then id < 96 && (coreOf s id).dead else peerLostAgent s id

/-- A message of a retired ID is dropped and counted (R283); its record comes at most once in 2^20 cycles (R421). -/
def dropMsg (s : State) (id : Nat) : State :=
  let old := (Map.find s.coh.dropped id).getD (0, 0)
  let n := old.1 + 1
  let now := s.clock.toNat
  if old.2 = 0 ∨ old.2 + 2 ^ 20 ≤ now + 1 then
    evLog { s with coh := { s.coh with dropped := Map.insert s.coh.dropped id (0, now + 1) } } 2 id n 0
  else { s with coh := { s.coh with dropped := Map.insert s.coh.dropped id (n, old.2) } }

/-! ## Directory entries (R271) -/

/-- Bit of a core in a sharer vector. -/
def sharerBit (core : Nat) : BitVec 96 := (1 : BitVec 96) <<< core

/-- Cores of a sharer vector other than one. -/
def otherSharers (v : BitVec 96) (core : Nat) : List Nat := (List.range 96).filter (fun c => v.getLsbD c && c != core)

/-- The entry is busy (R272). -/
def dirBusy (d : Dir) : Bool :=
  match d.st with
  | .sD | .mA | .wD => true
  | _ => false

/-- A directory entry with no transaction in progress. -/
def dirStable (d : Dir) : Bool :=
  match d.st with
  | .i | .s | .e | .m | .o => true
  | _ => false

/-- The entry names an owner. -/
def dirOwned (d : Dir) : Bool := d.st == .e || d.st == .m || d.st == .o

/-- Lines that an L2 slice holds: 2 MiB of 128 bytes (R12, R16), less the places of latent lines (R340). -/
def sliceRoom (s : State) (slice : Nat) : Nat := 16384 - (slicePlaces s slice).length

/-- A dirty line is written back into the frame of its pool page (R295). -/
def frameDirty (s : State) (line : Nat) : State :=
  match frameOfPage s (line / 65536) with
  | some (f, fr) =>
    if fr.st == .clean || fr.st == .dirty then
      setFrame s f { fr with st := .dirty, dirty := fr.dirty ||| (1 : BitVec 512) <<< (line % 65536 / 128) }
    else s
  | none => s

/-- The home copy of a line of this package is present. A slice that is full drops another line's first; which one is not architected
(log 7). -/
def homePut (s : State) (line : Nat) : State :=
  let d := dirOf s line
  if d.home ∨ 2 ^ 52 ≤ line then s
  else
    let t := setDir s line { d with home := true }
    let here := t.coh.dir.filter (fun e => e.2.home && e.1 != line && homeSlice e.1 == homeSlice line)
    if here.length < sliceRoom t (homeSlice line) then t
    else
      match here[(Config.freeWord (freeIdx s line)).toNat % here.length]? with
      | some (v, e) => setDir t v { e with home := false }
      | none => t

/-! ## L1 lines (R270, R274) -/

/-- Key of a core's L1 line. -/
def l1Key (core line : Nat) : Nat := core * 2 ^ 64 + line

/-- A core's L1 line. -/
def l1Of (s : State) (core line : Nat) : Option L1Line := Map.find s.coh.l1 (l1Key core line)

/-- Put a core's L1 line. -/
def setL1 (s : State) (core line : Nat) (l : L1Line) : State :=
  { s with coh := { s.coh with l1 := Map.insert s.coh.l1 (l1Key core line) l } }

/-- A core's L1 line goes to I. -/
def dropL1Line (s : State) (core line : Nat) : State :=
  { s with coh := { s.coh with l1 := Map.erase s.coh.l1 (l1Key core line) } }

/-- A line in a state, with nothing collected. -/
def L1Line.at (st : L1St) : L1Line := { st := st, acksNeed := none, acksGot := 0, heldAck := false, pend := false, wbSent := false, bad := false }

/-- The line waits on a request of its own. -/
def l1Asking (st : L1St) : Bool := st == .isD || st == .imD || st == .smA || st == .omA

/-- The line lies in the write-back buffer. -/
def l1Leaving (st : L1St) : Bool := st == .eiN || st == .miN || st == .iiN

/-! ## Halo pushes (R286, R287) -/

/-- Bytes a core reads at a key: its own unpushed bytes of an H line, else memory (R286). -/
def ownBytes (s : State) (core key : Nat) : Nat → List Byte
  | 0 => []
  | n + 1 =>
    (if haloOwner s key == some core then (Map.find s.coh.haloDirty key).getD (Tab.get 0 s.mem key) else Tab.get 0 s.mem key)
      :: ownBytes s core (key + 1) n

/-- Lines of H regions that a core owns and has written since their last push. -/
def haloDirtyLines (s : State) (core : Nat) : List Nat :=
  (s.coh.haloDirty.foldl (fun l e =>
    let line := lineOf e.1
    if l.contains line || haloOwner s line != some core then l else l ++ [line]) [])

/-- Cores other than the owner that hold a replica of a line (R286). -/
def replicaCores (s : State) (core line : Nat) : List Nat :=
  (s.coh.l1.filter (fun e => e.1 % 2 ^ 64 == line && e.1 / 2 ^ 64 != core)).map (fun e => e.1 / 2 ^ 64)

/-- A message of a push between the home of a line and a core; `core` owns the line. -/
def haloMsg (k : MsgK) (line dst core : Nat) : Msg := { fromHome k line dst core 0 with reqr := core }

/-- A push of the core is under way. -/
def pushing (s : State) (core : Nat) : Bool := s.coh.pushes.any (fun p => p.2.1 == core)

/-- The push of a core commits: the homes take the data, and the replicas become current (R287). -/
def commitPush (s : State) (core : Nat) : State :=
  let l := s.coh.pushes.filter (fun p => p.2.1 == core)
  let mem := l.foldl (fun m p => writeMem m p.1 (toBytes 128 p.2.2.2.toNat)) s.mem
  let sent (e : Host.Cell) : Bool := l.any (fun p => p.1 == lineOf e.1 && Tab.get 0 mem e.1 == e.2)
  let msgs := l.flatMap (fun p => (replicaCores s core p.1).map (fun c => haloMsg .hCommit p.1 c core))
  let t := (l.map (·.1)).foldl frameDirty s
  { t with mem := mem
           coh := { s.coh with pushes := s.coh.pushes.filter (fun p => p.2.1 != core), msgs := s.coh.msgs ++ msgs.map (·.at_ s.clock)
                               haloDirty := s.coh.haloDirty.filter (fun e => !sent e) } }

/-- Every `HAck` of a core's push has come. -/
def pushAcked (s : State) (core : Nat) : Bool := s.coh.pushes.all (fun p => p.2.1 != core || p.2.2.1 == 0)

/-- A push of some of a core's lines starts: the replicas get the data, or, with none, it commits at once (R287). -/
def startPush (s : State) (core : Nat) (lines : List Nat) : State :=
  let entry (line : Nat) : Nat × Nat × Nat × LineData :=
    (line, core, (replicaCores s core line).length, BitVec.ofNat 1024 (ofBytes (ownBytes s core line 128)))
  let msgs := lines.flatMap (fun line => (replicaCores s core line).map (fun c => haloMsg .hPush line c core))
  let t := { s with coh := { s.coh with pushes := s.coh.pushes ++ lines.map entry, msgs := s.coh.msgs ++ msgs.map (·.at_ s.clock) } }
  if pushAcked t core then commitPush t core else t

/-- The core has halo data to push, or a push under way. -/
def mustPush (s : State) (core : Nat) : Bool := pushing s core || haloDirtyLines s core != []

/-- Before a release, the core's push starts unless one is under way; true while it has not committed. -/
def pushStep (s : State) (core : Nat) (first : Bool) : State × Bool :=
  if first && mustPush s core then
    let t := if pushing s core then s else startPush s core (haloDirtyLines s core)
    (t, pushing t core)
  else (s, false)

/-! ## Requests at the home (R272, R273) -/

/-- `Inv` to some cores, whose answers go to the requester. -/
def sendInvs (s : State) (line reqr : Nat) (l : List Nat) : State := l.foldl (fun t c => sendMsg t (fromHome .inv line c reqr 0)) s

/-- Grant write permission: `DataM`, or a grant without data, once every external copy is answered for (R273, R407). -/
def grantWrite (s : State) (line r : Nat) (data : Bool) (acks : Nat) (d : Dir) : State :=
  let d' := { d with st := .mA, owner := r, sharers := 0, grantE := false, gotUnblock := false }
  let s := grantNote s line
  if d.ext = [] then sendMsg (setDir s line d') (fromHome (if data then .dataM else .grant) line r r acks)
  else setDir s line { d' with ext := [], biWait := d.ext, biGrant := some (r, data, acks) }

/-- An L1's outstanding request is answered with the fault response, with poison, or at the home without a copy: its access looks at the
line again, and finds the state that answered it (R279, R281, R282, R286). -/
def noCopy (s : State) (line r : Nat) : State :=
  { s with coh := { s.coh with l1 := s.coh.l1.filter (fun e => !(e.1 == l1Key r line && l1Asking e.2.st)) } }

/-- The home takes a request to a line that is not busy (R273). -/
def homeTake (s0 : State) (m : Msg) : State :=
  let line := m.line
  let r := m.reqr
  let st := lineSt s0 line
  if st == .a || st == .h || st == .fog then noCopy s0 line r
  else
    let s := homePut s0 line
    let d := dirOf s line
    if dirOwned d && decide (128 ≤ d.owner) then
      -- an external owner gives the line up by a BIRsp (R407); gotOwn says that the answer is the owner's
      setDir s line { d with st := .mA, owner := r, sharers := 0, grantE := m.k == .getS, gotUnblock := false, gotOwn := true,
                             biWait := [d.owner], biGrant := some (r, true, 0) }
    else if m.k = .getS then
      match d.st with
      | .i => sendMsg (setDir (grantNote s line) line { d with st := .mA, owner := r, sharers := 0, grantE := true, gotUnblock := false })
          (fromHome .dataE line r r 0)
      | .s => sendMsg (setDir s line { d with sharers := d.sharers ||| sharerBit r }) (fromHome .data line r r 0)
      | .e | .m | .o =>
        if d.owner = r then s
        else
          sendMsg (setDir s line { d with st := .sD, reqr := r, gotUnblock := false, gotOwn := false, gotClean := false })
            (fromHome .fwdGetS line d.owner r 0)
      | _ => s
    else
      match d.st with
      | .i => grantWrite s line r true 0 d
      | .s =>
        let l := otherSharers d.sharers r
        grantWrite (sendInvs s line r l) line r (!(m.k == .upg && d.sharers.getLsbD r)) l.length d
      | .e | .m =>
        if d.owner = r then s
        else
          sendMsg (setDir (grantNote s line) line { d with st := .mA, owner := r, grantE := false, gotUnblock := false })
            (fromHome .fwdGetM line d.owner r 0)
      | .o =>
        let l := otherSharers d.sharers r
        if d.owner = r then grantWrite (sendInvs s line r l) line r false l.length d
        else
          sendMsg (setDir (sendInvs (grantNote s line) line r l) line
              { d with st := .mA, owner := r, sharers := 0, grantE := false, gotUnblock := false })
            (fromHome .fwdGetM line d.owner r l.length)
      | _ => s

/-- The line's waiting requests are taken, in arrival order, until it is busy again (R272, R273). -/
def serveWaiting (fuel : Nat) (s : State) (line : Nat) : State :=
  match fuel with
  | 0 => s
  | fuel + 1 =>
    if dirBusy (dirOf s line) || lineSt s line == .migr then s
    else
      match s.coh.waitBuf.find? (fun m => m.line == line) with
      | none => s
      | some m => serveWaiting fuel (homeTake { s with coh := { s.coh with waitBuf := s.coh.waitBuf.erase m } } m) line

/-- Take what waits for a line. -/
def serveLine (s : State) (line : Nat) : State := serveWaiting (s.coh.waitBuf.length + 1) s line

/-- Transactions in progress in a slice (R272). -/
def sliceBusy (s : State) (slice : Nat) : Nat := (s.coh.dir.filter (fun e => dirBusy e.2 && homeSlice e.1 == slice)).length

/-- A request reaches the home: it is taken, waits, or is sent back; with the transaction table full it stays in the channel
(R272). -/
def homeRequest (s : State) (m : Msg) : Option State :=
  if dirBusy (dirOf s m.line) || lineSt s m.line == .migr then
    if (s.coh.waitBuf.filter (fun x => homeSlice x.line == homeSlice m.line)).length < 64 then
      some { s with coh := { s.coh with waitBuf := s.coh.waitBuf ++ [m] } }
    else some (sendMsg s (fromHome .retry m.line m.src m.src 0))
  else if 256 ≤ sliceBusy s (homeSlice m.line) then none
  else some (homeTake s m)

/-! ## Notices and answers at the home (R273, R276) -/

/-- A line's data has come back: S or I, and the answer to the owner (R273 `W_D`, R276). -/
def wroteBack (s : State) (line owner : Nat) (d : Dir) : State :=
  let v := d.sharers &&& ~~~(sharerBit owner)
  let t := setDir (frameDirty { s with tamper := s.tamper.filter (· != line) } line) line
    { d with st := if v = 0 then .i else .s, owner := 0, sharers := v, notice := none, wb := false }
  serveLine (sendMsg (homePut t line) (fromHome .wbAck line owner owner 0)) line

/-- The answer to a notice. -/
def ackNotice (s : State) (line src : Nat) (stale : Bool) : State :=
  sendMsg s { fromHome .noticeAck line src src 0 with stale := stale }

/-- The last answer to a back-invalidation is in: the pending grant goes (R407). -/
def biDone (s : State) (line : Nat) (d : Dir) : State :=
  match d.biGrant with
  | some (r, data, acks) =>
    let k : MsgK := if d.grantE then .dataE else if data then .dataM else .grant
    sendMsg (homePut (setDir s line { d with biWait := [], biGrant := none, gotOwn := false }) line) (fromHome k line r r acks)
  | none => setDir s line { d with biWait := [] }

/-- The home acts on a notice of the owner of a line that is not busy: a `PutE` in E gives the line up, any other is pulled. -/
def ownerNotice (s : State) (line : Nat) (k : MsgK) (d : Dir) : State :=
  if d.st = .e ∧ k = .putE then serveLine (ackNotice (setDir s line { d with st := .i, owner := 0, notice := none }) line d.owner false) line
  else sendMsg (setDir s line { d with st := .wD, notice := none }) (fromHome .pullWB line d.owner d.owner 0)

/-- An entry leaves a busy state: a pending notice is acted on, then the waiting requests (R273, R276). -/
def leaveBusy (s : State) (line : Nat) (d : Dir) : State :=
  if d.wb then wroteBack s line d.owner d
  else
    match d.notice with
    | some k => ownerNotice s line k d
    | none => serveLine (setDir s line d) line

/-- A notice reaches the home (R273). -/
def homeNotice (s : State) (m : Msg) : State :=
  let d := dirOf s m.line
  let owns := d.owner == m.src && (dirOwned d || dirBusy d)
  if owns && dirBusy d then setDir s m.line { d with notice := some m.k }
  else if owns && m.k != .putS then ownerNotice s m.line m.k d
  else if m.src < 96 && d.sharers.getLsbD m.src then
    let v := d.sharers &&& ~~~(sharerBit m.src)
    ackNotice (setDir s m.line { d with sharers := v, st := if d.st = .s ∧ v = 0 then .i else d.st }) m.line m.src false
  else ackNotice s m.line m.src true

/-- A forwarded read has both its answers: O with the requester, or S with both (R273). -/
def settleSD (s : State) (line : Nat) (d : Dir) : State :=
  let d0 := { d with gotUnblock := false, gotOwn := false, gotClean := false }
  if d.gotUnblock && d.gotOwn then leaveBusy s line { d0 with st := .o, sharers := d.sharers ||| sharerBit d.reqr }
  else if d.gotUnblock && d.gotClean then
    -- a notice of the owner that came meanwhile is that of a sharer
    let v := d.sharers ||| sharerBit d.reqr
    let t := if d.notice.isSome then ackNotice s line d.owner false else s
    leaveBusy t line { d0 with st := .s, sharers := if d.notice.isSome then v else v ||| sharerBit d.owner, owner := 0, home := true,
                               notice := none, wb := false }
  else setDir s line d

/-- A requester has its grant (R273). -/
def homeUnblock (s : State) (m : Msg) : State :=
  let d := dirOf s m.line
  match d.st with
  | .mA => leaveBusy s m.line { d with st := if d.grantE then .e else .m, grantE := false, gotUnblock := false }
  | .sD => settleSD s m.line { d with gotUnblock := true }
  | _ => s

/-- The owner has answered a forwarded read (R273). -/
def homeOwnAck (s : State) (m : Msg) : State :=
  let d := dirOf s m.line
  if d.st ≠ .sD then s
  else settleSD s m.line (if m.k = .ownAck then { d with gotOwn := true } else { d with gotClean := true })

/-- Write-back data reaches the home (R273, R276). -/
def homeWbData (s : State) (m : Msg) : State :=
  let d := dirOf s m.line
  let owns := d.owner == m.src
  if d.st = .wD ∧ owns then wroteBack s m.line m.src d
  else if m.notice && owns && dirOwned d then wroteBack s m.line m.src d
  else if m.notice && owns && dirBusy d then setDir s m.line { d with wb := true }
  else sendMsg s (fromHome .wbAck m.line m.src m.src 0)

/-- A replica has answered a push (R287). -/
def homeHAck (s : State) (m : Msg) : State :=
  let t := { s with coh := { s.coh with pushes := s.coh.pushes.map (fun p =>
    if p.1 == m.line && p.2.1 == m.reqr then (p.1, p.2.1, p.2.2.1 - 1, p.2.2.2) else p) } }
  if pushing t m.reqr && pushAcked t m.reqr then commitPush t m.reqr else t

/-- A message reaches the home of its line; none while it has to stay in its channel. -/
def atHome (s : State) (m : Msg) : Option State :=
  match m.k with
  | .getS | .getM | .upg => homeRequest s m
  | .putS | .putE | .putM | .putO => some (homeNotice s m)
  | .unblock => some (homeUnblock s m)
  | .ownAck | .cleanAck => some (homeOwnAck s m)
  | .wbData => some (homeWbData s m)
  | .hAck => some (homeHAck s m)
  | _ => some s

/-! ## The L1s (R274 to R276, R429) -/

/-- The state's eviction: the notice or write-back sent, and the state after (R274, R276); none where it cannot evict. -/
def evictMsg (wbMode : Bool) (st : L1St) : Option (MsgK × Option L1St) :=
  match st with
  | .s => some (.putS, none)
  | .e => some (.putE, some .eiN)
  | .m => some (if wbMode then .wbData else .putM, some .miN)
  | .o => some (if wbMode then .wbData else .putO, some .miN)
  | _ => none

/-- An L1 evicts a line. -/
def evictL1 (s : State) (core line : Nat) (l : L1Line) : State :=
  match evictMsg s.coh.wbMode l.st with
  | none => s
  | some (k, next) =>
    let t := match next with
      | none => dropL1Line s core line
      | some st => setL1 s core line { l with st := st, heldAck := false, wbSent := k == .wbData, bad := false }
    sendMsg t { toHome k line core with notice := k == .wbData }

/-- Lines of a core that it may evict. -/
def victims (s : State) (core line : Nat) : List (Nat × L1Line) :=
  (s.coh.l1.filter (fun e => e.1 / 2 ^ 64 == core && e.1 % 2 ^ 64 != line && (evictMsg false e.2.st).isSome
    && (haloOwner s (e.1 % 2 ^ 64)).isNone)).map (fun e => (e.1 % 2 ^ 64, e.2))

/-- Lines of a core's write-back buffer (R274). -/
def bufferLines (s : State) (core : Nat) : Nat :=
  (s.coh.l1.filter (fun e => e.1 / 2 ^ 64 == core && l1Leaving e.2.st)).length

/-- The line that a fill evicts, if it needs a place: which lines share a place is not architected (log 7). -/
def fillVictim (s : State) (core line : Nat) : Option (Nat × L1Line) :=
  match victims s core line with
  | [] => none
  | v :: rest =>
    if Config.freeBool (freeIdx s line) then (v :: rest)[(Config.freeWord (freeIdx s line)).toNat % (rest.length + 1)]? else none

/-- A fill whose place is still taken waits: the write-back buffer of 32 lines is full (R274). -/
def fillWaits (s : State) (core line : Nat) : Bool := (fillVictim s core line).isSome && decide (32 ≤ bufferLines s core)

/-- An L1 line reaches a stable state by a fill, with `ev` evicting the line in its place: `Unblock` goes to the home. -/
def fillL1 (ev : Bool) (s : State) (core line : Nat) (l : L1Line) (st : L1St) : State :=
  let t := sendMsg (setL1 s core line { l with st := st, acksNeed := none, acksGot := 0 }) (toHome .unblock line core)
  match (if ev then fillVictim s core line else none) with
  | some v => evictL1 t core v.1 v.2
  | none => t

/-- A write grant is complete once its acks are collected. -/
def checkAcks (ev : Bool) (s : State) (core line : Nat) (l : L1Line) : State :=
  if l.acksNeed == some l.acksGot && (l.st == .imD || l.st == .smA || l.st == .omA) then fillL1 ev s core line l .m
  else setL1 s core line l

/-- An answer from a core to the requester of a forward. -/
def toReqr (k : MsgK) (m : Msg) : Msg :=
  { k := k, line := m.line, src := m.dst, dst := m.reqr, reqr := m.reqr, acks := m.acks, stale := false, notice := false, sent := 0 }

/-- A grant of S is on its way to a core. -/
def dataComing (s : State) (core line : Nat) : Bool := s.coh.msgs.any (fun m => m.k == .data && m.line == line && m.dst == core)

/-- The request an L1 line in a transient state waits on. -/
def requestOf (st : L1St) : Option MsgK :=
  match st with
  | .isD => some .getS | .imD => some .getM | .smA | .omA => some .upg | _ => none

/-- The states of R274's rows for forwards of a read and of a write. -/
def takesFwd (st : L1St) : Bool := st == .e || st == .m || st == .o || st == .omA || st == .eiN || st == .miN

/-- A grant reaches an L1 line that waits for it. -/
def l1Grant (ev : Bool) (t : State) (m : Msg) (l : L1Line) : State :=
  match m.k, l.st with
  | .data, .isD => fillL1 ev t m.dst m.line l .s
  | .dataE, .isD => fillL1 ev t m.dst m.line l .e
  | .dataM, .isD | .grant, .isD => fillL1 ev t m.dst m.line l .m
  | .dataM, .imD | .dataM, .smA | .dataM, .omA | .grant, .imD | .grant, .smA | .grant, .omA =>
    checkAcks ev t m.dst m.line { l with acksNeed := some m.acks }
  | _, _ => t

/-- A read is forwarded to an owner (R274). -/
def l1FwdGetS (t : State) (m : Msg) (l : L1Line) : State :=
  let next : L1St := match l.st with
    | .e => .s
    | .m | .o => .o
    | .omA => .omA
    | _ => .miN
  sendMsg (sendMsg (setL1 t m.dst m.line { l with st := next }) (toReqr .data m))
    (toHome (if l.st = .e then .cleanAck else .ownAck) m.line m.dst)

/-- A write request is forwarded to an owner (R274, R429). -/
def l1FwdGetM (t : State) (m : Msg) (l : L1Line) : State :=
  let u :=
    match l.st with
    | .omA => setL1 t m.dst m.line { l with st := .imD }
    | .eiN | .miN => if l.heldAck then dropL1Line t m.dst m.line else setL1 t m.dst m.line { l with st := .iiN }
    | _ => dropL1Line t m.dst m.line
  sendMsg u (toReqr .dataM m)

/-- The acknowledgement of a notice (R274, R429). -/
def l1NoticeAck (t : State) (m : Msg) (l : L1Line) : State :=
  if l.st == .eiN || l.st == .miN then (if m.stale then setL1 t m.dst m.line { l with heldAck := true } else dropL1Line t m.dst m.line)
  else if l.st = .iiN then dropL1Line t m.dst m.line
  else t

/-- A message reaches the L1 line that it names, if the core has it; none while it waits there: a forward or an `Inv` for a line in a
transient state that has no row for it (R274), and a fill that waits for its place. A core with no copy left answers an
`Inv` too, be it that a request of its own for the line is out; one to which `Data` is on its way answers once it has come
(log 16). -/
def atL1 (ev : Bool) (s : State) (m : Msg) : Option State :=
  let core := m.dst
  match l1Of s core m.line with
  | none =>
    match m.k with
    | .inv => some (sendMsg s (toReqr .invAck m))
    | .hPush => some (sendMsg s { toHome .hAck m.line core with reqr := m.reqr })
    | _ => some s
  | some l =>
    match m.k with
    | .data | .dataE | .dataM | .grant => if ev && l1Asking l.st && fillWaits s core m.line then none else some (l1Grant ev s m l)
    | .invAck =>
      if ev && fillWaits s core m.line then none else some (checkAcks ev s core m.line { l with acksGot := l.acksGot + 1 })
    | .inv =>
      match l.st with
      | .s => some (sendMsg (dropL1Line s core m.line) (toReqr .invAck m))
      | .smA => some (sendMsg (setL1 s core m.line { l with st := .imD }) (toReqr .invAck m))
      | .imD => some (sendMsg s (toReqr .invAck m))
      | .isD => if dataComing s core m.line then none else some (sendMsg s (toReqr .invAck m))
      | _ => none
    | .fwdGetS => if takesFwd l.st then some (l1FwdGetS s m l) else none
    | .fwdGetM => if takesFwd l.st then some (l1FwdGetM s m l) else none
    | .pullWB => if l.st = .miN then some (sendMsg (dropL1Line s core m.line) (toHome .wbData m.line core)) else none
    | .noticeAck => some (l1NoticeAck s m l)
    | .wbAck => some (if l.wbSent && l1Leaving l.st then dropL1Line s core m.line else s)
    | .hPush => some (sendMsg (setL1 s core m.line { l with pend := true }) { toHome .hAck m.line core with reqr := m.reqr })
    | .hCommit => some (setL1 s core m.line { l with pend := false })
    | .retry =>
      some (match requestOf l.st with
        | some r => { s with coh := { s.coh with retries := s.coh.retries ++ [toHome r m.line core] } }
        | none => s)
    | _ => some s

/-! ## Delivery -/

/-- Deliver the message at place `k`; none while it cannot be taken. The home slices drop those of retired IDs (R283). -/
def deliver (ev : Bool) (s : State) (k : Nat) : Option State :=
  match s.coh.msgs[k]? with
  | none => none
  | some m =>
    let t := { s with coh := { s.coh with msgs := s.coh.msgs.eraseIdx k } }
    if m.dst = homeId then
      if m.src ≠ homeId ∧ retiredId s m.src then some (dropMsg t m.src) else atHome t m
    else atL1 ev t m

/-- Run the transactions in progress on a line to their ends: its messages are delivered, in order, while one can be. -/
def quiesce (fuel : Nat) (s : State) (line : Nat) : State :=
  match fuel with
  | 0 => s
  | fuel + 1 =>
    let next := (List.range s.coh.msgs.length).findSome? (fun k =>
      if (s.coh.msgs[k]?).map (·.line) = some line then deliver false s k else none)
    match next with
    | none => s
    | some t => quiesce fuel t line

/-- The line has no message on its way and no transaction in progress. -/
def settledLine (s : State) (line : Nat) : Bool := dirStable (dirOf s line) && s.coh.msgs.all (fun m => m.line != line)

/-- A line after the transactions in progress on it (R272). -/
def settleLine (s : State) (line : Nat) : State :=
  if settledLine s line then s else quiesce (1024 * (s.coh.msgs.length + s.coh.waitBuf.length + 1)) s line

/-! ## Recalls (R279, R280, R286) -/

/-- What a recall leaves of an L1 line: a copy goes; a line in the write-back buffer has given its data; a request that the home has not
taken stays out. -/
def recalled (coming : Nat → Bool) (core : Nat) (l : L1Line) : Option L1Line :=
  match l.st with
  | .s | .e | .m | .o => none
  | .isD => if coming core then none else some l
  | .imD => some l
  | .smA | .omA => some { l with st := .imD }
  | .eiN | .miN => if l.heldAck then none else some { l with st := .iiN }
  | .iiN => some l

/-- Every L1 copy of a line is taken back. -/
def dropCopies (s : State) (line : Nat) : State :=
  let coming (core : Nat) : Bool := dataComing s core line
  { s with coh := { s.coh with
      l1 := s.coh.l1.filterMap (fun e =>
        if e.1 % 2 ^ 64 == line then (recalled coming (e.1 / 2 ^ 64) e.2).map (fun l => (e.1, l)) else some e)
      msgs := s.coh.msgs.filter (fun m => !(m.k == .data && m.line == line)) } }

/-- Remove every L1 copy of a line but those of `keep`. -/
def dropL1 (s : State) (line : Nat) (keep : Nat → Bool) : State :=
  { s with coh := { s.coh with l1 := s.coh.l1.filter (fun e => e.1 % 2 ^ 64 != line || keep (e.1 / 2 ^ 64)) } }

/-- The bytes a core has written to an H line reach the home; a push of the line that is under way carries them on (R286, R287). -/
def collectHalo (s : State) (line : Nat) : State :=
  let mine := s.coh.haloDirty.filter (fun e => lineOf e.1 == line)
  let mem := mine.foldl (fun m e => Tab.set 0 m e.1 e.2) s.mem
  let t := if mine = [] then s else frameDirty s line
  { t with mem := mem
           coh := { s.coh with haloDirty := s.coh.haloDirty.filter (fun e => lineOf e.1 != line)
                               pushes := s.coh.pushes.map (fun p =>
                                 if p.1 == line then (p.1, p.2.1, p.2.2.1, BitVec.ofNat 1024 (ofBytes (readMem mem line 128))) else p) } }

/-- An H line's owner is pulled and its replicas go (R286). -/
def pullHalo (s : State) (line : Nat) : State := dropL1 (collectHalo s line) line (fun _ => false)

/-- An L1 holds the line dirty, or has its data on the way out. -/
def dirtyCopy (s : State) (line : Nat) : Bool :=
  s.coh.l1.any (fun e => e.1 % 2 ^ 64 == line && (e.2.st == .m || e.2.st == .o || e.2.st == .omA || e.2.st == .miN))

/-- Recall a line as for `GetM`, after the transactions in progress on it: no L1 copy remains, and memory holds its bytes (R272,
R279). -/
def recallLine (s0 : State) (line : Nat) : State :=
  let s := settleLine s0 line
  let d := dirOf s line
  if !dirStable d then s
  else setDir (dropCopies (if dirtyCopy s line then frameDirty s line else s) line) line { Dir.init with fog := d.fog, home := d.home }

/-- Recall lines. -/
def recallLines (s : State) (lines : List Nat) : State := lines.foldl recallLine s

/-- A read at the home (an engine's, a device's): an owner keeps the line as one that others may read (R273, R274). -/
def homeRead (s0 : State) (line : Nat) : State :=
  let s := settleLine s0 line
  let d := dirOf s line
  let t :=
    if d.owner < 96 then
      match d.st, l1Of s d.owner line with
      | .e, some l =>
        if l.st = .e then setDir (setL1 s d.owner line { l with st := .s }) line { d with st := .s, owner := 0, sharers := sharerBit d.owner }
        else if l.st = .m then setDir (setL1 s d.owner line { l with st := .o }) line { d with st := .o } else s
      | .m, some l => if l.st = .m then setDir (setL1 s d.owner line { l with st := .o }) line { d with st := .o } else s
      | _, _ => s
    else s
  homePut t line

/-- A write at the home (an engine's, a device's, an atomic access there): no other copy remains (R273, R305). -/
def homeWrite (s : State) (line : Nat) : State := homePut (frameDirty (grantNote (recallLine s line) line) line) line

/-- The home grants a line in M to a core without data, for a whole-line write, and every other copy goes (R259). -/
def claimLine (s : State) (core line : Nat) : State :=
  let t := homePut (grantNote (recallLine s line) line) line
  setDir (setL1 t core line (L1Line.at .m)) line { dirOf t line with st := .m, owner := core, fog := false }

/-! ## Snoops of pool lines (R406) -/

/-- A snoop of a pool line can be answered now: it meets no latent line, no move, no request of the K9 outstanding at
the pool device and no transaction in progress (R406, R279, R280). -/
def snoopReady (s : State) (line : Nat) : Bool :=
  let st := lineSt s line
  let filling := match frameOfPage s (line / 65536) with
    | some (_, f) => f.st == .filling
    | none => false
  st != .a && st != .migr && !filling && (evictingFrame s (line / 65536)).isNone && (dirStable (dirOf s line) || st == .fog || st == .h)

/-- Answer a snoop (R406). -/
def answerSnoop (s : State) (line : Nat) (inv : Bool) : State :=
  match lineSt s line with
  | .h => pullHalo s line
  | .fog => s
  | _ =>
    let t := recallLine s line
    setDir t line { dirOf t line with home := !inv }

/-- Answer the snoops that wait and can be answered. -/
def answerSnoops (s : State) : State :=
  if s.coh.snoops = [] then s
  else
    let now := s.coh.snoops.filter (fun e => snoopReady s e.1)
    now.foldl (fun t e => answerSnoop t e.1 e.2) { s with coh := { s.coh with snoops := s.coh.snoops.filter (fun e => !snoopReady s e.1) } }

/-! ## Lines whose home changes (R280) -/

/-- A line may not move yet: it is in A, or a transaction on it waits for an external agent (R280, R407). -/
def lineWaits (s : State) (line : Nat) : Bool :=
  inA s line || (!settledLine s line && (haloOwner s line).isNone && !dirStable (dirOf (settleLine s line) line))

/-- A line enters MIGR: its dirty data are collected and every copy goes. A line in A is not moved. -/
def enterMigr (s : State) (line : Nat) : State :=
  let t := if (haloOwner s line).isSome then pullHalo s line else recallLine s line
  setDir t line { dirOf t line with st := .migr }

/-- A message of a line follows it to its new home. -/
def Msg.moved (old new : Nat) (m : Msg) : Msg := if m.line = old then { m with line := new } else m

/-- A line leaves MIGR for I at its home, new or old; the fog marker, and the requests that wait for the line, go with it. -/
def leaveMigr (s : State) (old new : Nat) : State :=
  let d := dirOf s old
  let t := setDir (setDir s old Dir.init) new { Dir.init with fog := d.fog }
  let u := { t with coh := { t.coh with
    msgs := t.coh.msgs.map (Msg.moved old new), waitBuf := t.coh.waitBuf.map (Msg.moved old new)
    retries := t.coh.retries.map (Msg.moved old new)
    l1 := t.coh.l1.foldl (fun m e => Map.insert m (if e.1 % 2 ^ 64 = old then l1Key (e.1 / 2 ^ 64) new else e.1) e.2) [] } }
  serveLine u new

end Sys2Proof.Machine
end

