-- ==== Sys2Proof/Machine/Access.lean ====
section
/-! DEFINITION. Machine/Access.lean: the check of one access and its part in coherence (R82, R102, R110, R255, R259, R270 to R274,
R279 to R286, R290, R291, R295 to R298, R301, R425). -/

namespace Sys2Proof.Machine

/-- How an access comes out. `hole`: a leaf names local memory that does not exist. -/
inductive AccRes where
  | ok (key : Nat)
  | fault (c : Cause)
  | miss (page : Nat)
  | claimed (vpn : Nat)
  | wait
  | hole
  deriving DecidableEq, Repr

/-! ## Range locks (R80, R102) -/

/-- The locked span holds a byte of the `n` at `va`: at that address, or, as one location (R80), through a page that its operation
has translated to the same physical page. -/
def lockHits (c : Core) (k : Lock) (va key n : Nat) : Bool :=
  let meets (a : Nat) : Bool := decide (a < k.hi) && decide (k.lo < a + n)
  meets va || (match Map.find c.ops k.op with
    | some o => o.pinned.any (fun p => p.2 == key / 65536 && meets (p.1 * 65536 + key % 65536))
    | none => false)

/-- The range is locked against this access on its core (R102). -/
def rangeLocked (s : State) (core ctx va key n : Nat) (wr : Bool) : Bool :=
  match Map.find s.cores core with
  | none => false
  | some c => (c.locks ++ c.overflow).any (fun k => k.ctx == ctx && k.scr.isNone && (wr || k.rw) && lockHits c k va key n)

/-- Bytes of a group's scratch are locked against this access on its core (R102). -/
def scratchLocked (s : State) (core gid lo n : Nat) (wr : Bool) : Bool :=
  match Map.find s.cores core with
  | none => false
  | some c => (c.locks ++ c.overflow).any (fun k =>
      k.scr == some gid && (wr || k.rw) && decide (lo < k.hi) && decide (k.lo < lo + n))

/-! ## The L1 (R270, R274, R286) -/

/-- An access asks the L1 for a line: true when the L1 has it with the permission the access needs. A line in E becomes M on a store; a
miss sends its request, and a line on its way in or out makes the access wait (R274). -/
def l1Ask (s : State) (core line : Nat) (wr : Bool) : State × Bool :=
  let ask (l : L1Line) (st : L1St) (k : MsgK) : State × Bool := (sendMsg (setL1 s core line { l with st := st }) (toHome k line core), false)
  match l1Of s core line with
  | none => if wr then ask (L1Line.at .imD) .imD .getM else ask (L1Line.at .isD) .isD .getS
  | some l =>
    match l.st, wr with
    | .m, _ => (s, true)
    | .e, true => (setL1 s core line { l with st := .m }, true)
    | .e, false | .s, false | .o, false | .smA, false | .omA, false => (s, true)
    | .s, true => ask l .smA .upg
    | .o, true => ask l .omA .upg
    | _, _ => (s, false)

/-- The L1 of a core takes part in an access to an H line: the owner holds it with write permission, a neighbour a
replica (R286). -/
def haloTouch (s : State) (core key : Nat) : State :=
  let put (st : L1St) : State :=
    match l1Of s core (lineOf key) with
    | some _ => s
    | none => setL1 s core (lineOf key) (L1Line.at st)
  if haloOwner s key = some core then put .m else if haloReader s core key then put .s else s

/-- A core holds pushed data of a line pending, and its reads of it wait (R287). -/
def haloPending (s : State) (core line : Nat) : Bool := ((l1Of s core line).map (·.pend)).getD false

/-! ## Peers (R408, R409, R412) -/

/-- The port of an external agent's route (R411). -/
def routePort (s : State) (id : Nat) : Nat := ((Map.find s.link.agents id).map (·.route)).getD 0 % 16

/-- A line of a peer whose request has left in this step: the accesses of one word to a line travel as one (R84). -/
def linkSent (s : State) (id line : Nat) : Bool := s.link.sent.1 == s.free && s.link.sent.2.contains (id, line)

/-- The retry buffer of an agent's port is full (R409). -/
def linkFull (s : State) (id : Nat) : Bool := decide (1024 ≤ (Tab.get Port.init s.link.ports (routePort s id)).retry.length)

/-- A request of a context for a line leaves for a peer: its flit stays in the retry buffer until it is acknowledged (R408, R409,
R412), and a store's is noted (R116). -/
def linkSend (s : State) (ctx id line : Nat) (wr : Bool) : State :=
  if linkSent s id line then s
  else
    let p := routePort s id
    let x := Tab.get Port.init s.link.ports p
    let f : Flit := { ty := 1, cls := 0, seq := x.txSeq, ack := x.rxNext - 1, nak := x.sendNak, credits := 0,
                      agent := BitVec.ofNat 12 id, good := true }
    let ports := Tab.set Port.init s.link.ports p { x with txSeq := x.txSeq + 1, retry := x.retry ++ [f], sendNak := false }
    let before := if s.link.sent.1 = s.free then s.link.sent.2 else []
    { s with link := { s.link with ports := ports, sent := (s.free, before ++ [(id, line)])
                                   stores := if wr then s.link.stores ++ [(id, p, x.txSeq, ctx)] else s.link.stores } }

/-! ## Non-coherent pages (R265, R290) -/

/-- A number with the byte at place `j` replaced. -/
def putByte (x j b : Nat) : Nat := x - x / 2 ^ (8 * j) % 256 * 2 ^ (8 * j) + b * 2 ^ (8 * j)

/-- A line of a non-coherent page leaves the L2: the bytes that the K9 has written reach host memory, and no other. -/
def hostWriteBack (s : State) (line : Nat) : State :=
  match Map.find s.hostLines line with
  | none => s
  | some h =>
    let put (m : List Host.Cell) (j : Nat) : List Host.Cell :=
      if h.dirty.getLsbD j then Tab.set 0 m (line + j) (BitVec.ofNat 8 (h.data.toNat / 2 ^ (8 * j))) else m
    { s with mem := (List.range 128).foldl put s.mem, hostLines := Map.insert s.hostLines line { h with dirty := 0 } }

/-- The L2 drops a line of a non-coherent page. -/
def hostDrop (s : State) (line : Nat) : State :=
  let t := hostWriteBack s line
  { t with hostLines := Map.erase t.hostLines line }

/-- An access fills a line of a non-coherent page into the L2; the L2 may have evicted the line before (log 7). -/
def hostFill (s0 : State) (line : Nat) : State :=
  let s := if Config.freeBool (freeIdx s0 line) then hostDrop s0 line else s0
  match Map.find s.hostLines line with
  | some _ => s
  | none =>
    let h : HostLine := { data := BitVec.ofNat 1024 (ofBytes (readMem s.mem line 128)), dirty := 0 }
    { s with hostLines := Map.insert s.hostLines line h }

/-- Bytes of a non-coherent page as the L2 holds them, else as host memory does. -/
def hostBytes (s : State) (key n : Nat) : List Byte :=
  match Map.find s.hostLines (lineOf key) with
  | some h => (List.range n).map (fun j => BitVec.ofNat 8 (h.data.toNat / 2 ^ (8 * (key % 128 + j))))
  | none => readMem s.mem key n

/-- Store bytes of a line of a non-coherent page in the L2. -/
def hostStore (s : State) (key : Nat) (bs : List Byte) : State :=
  let line := lineOf key
  let h := (Map.find s.hostLines line).getD { data := BitVec.ofNat 1024 (ofBytes (readMem s.mem line 128)), dirty := 0 }
  let put (h : HostLine) (p : Byte × Nat) : HostLine :=
    { data := BitVec.ofNat 1024 (putByte h.data.toNat (key % 128 + p.2) p.1.toNat), dirty := h.dirty ||| (1 : BitVec 128) <<< (key % 128 + p.2) }
  { s with hostLines := Map.insert s.hostLines line ((bs.zip (List.range bs.length)).foldl put h) }

/-! ## Keys and integrity (R110, R425) -/

/-- The key that a line of a context's page is encrypted under; 0 when the page is shared-plain. -/
def sealOf (s : State) (ctx : Nat) (l : Leaf) : Nat :=
  if bit l.word 8 then 0 else ((ctxOf s ctx).map (fun c => c.key + 1)).getD 0

/-- The line is in the L1s or the L2, in clear. -/
def cachedLine (s : State) (line : Nat) : Bool := let d := dirOf s line; d.home || d.st != .i

/-- A fetch of the line through an encrypted page fails its check: it was written under another key, or an external agent has changed it
and no clear copy is left (R110, R425). -/
def sealBroken (s : State) (ctx line : Nat) (l : Leaf) : Bool :=
  !bit l.word 8 && ((match Map.find s.sealed line with
      | some k => k != sealOf s ctx l
      | none => false)
    || ((s.tamper.contains line || s.extBytes.any (fun e => lineOf e.1 == line)) && !cachedLine s line))

/-- A write leaves the line encrypted under its context's key, or in clear. -/
def sealLine (s : State) (ctx line : Nat) (l : Leaf) : State := { s with sealed := Map.insert s.sealed line (sealOf s ctx l) }

/-- An access to a line that an external agent has written (R425): through a shared-plain page it finds the agent's
bytes, through an encrypted one the clear copy that the K9 still holds. -/
def extTouch (s : State) (line : Nat) (plain : Bool) : State :=
  let mine := s.extBytes.filter (fun e => lineOf e.1 == line)
  if mine = [] then s
  else
    let rest := s.extBytes.filter (fun e => lineOf e.1 != line)
    if plain then { s with extBytes := rest }
    else { s with extBytes := rest, tamper := s.tamper ++ [line], mem := mine.foldl (fun m e => Tab.set 0 m e.1 e.2) s.mem }

/-- A fetch that fails its check: the line has not come back yet (R110, R425). -/
def failFetch (s : State) (ctx line va : Nat) : State :=
  if s.coh.failing.contains (ctx, line, va) then s else { s with coh := { s.coh with failing := s.coh.failing ++ [(ctx, line, va)] } }

/-! ## One access -/

/-- A claim on the page by another wave (R301). -/
def claimedByOther (s : State) (ctx vpn core slot : Nat) : Bool :=
  s.vm.claims.any (fun c => c.ctx == ctx && c.vpn == vpn && !(c.core == core && c.slot == slot))

/-- The fill of a page failed while a wave waited for it (R295). -/
def poisoned (s : State) (core slot page : Nat) : Bool :=
  match Map.find s.waves (64 * core + slot) with
  | some w => w.poison.contains page
  | none => false

/-- The pool page of a line is at hand: in a frame, or the line itself is in the L1s or the L2; a line that an eviction has released is
not (R295, R296, R298). -/
def pageAtHand (s : State) (page line : Nat) : Bool :=
  match frameOfPage s page with
  | some (_, f) => f.st == .clean || f.st == .dirty
  | none =>
    match evictingFrame s page with
    | some (_, f) => decide (f.released ≤ line % 65536 / 128)
    | none => cachedLine s line

/-- The eviction of the page's frame has this line in hand (R280, R298). -/
def lineMoving (s : State) (page line : Nat) : Bool :=
  match frameOfPage s page, evictingFrame s page with
  | none, some (_, f) => f.released == line % 65536 / 128
  | _, _ => false

/-- The frame of a local page that system software has mapped is in `LOCAL` (R295). -/
def localFrame (s : State) (ctx page : Nat) : State :=
  match Map.find s.vm.frames page with
  | some _ => s
  | none => setFrame s page { st := .loc, page := 0, ctx := ctx, clock := false, dirty := 0, released := 0 }

/-- The last part of an access to a line of local or pool memory: what it needs of the L1 or of the home; false while it has to wait. -/
def joinLine (s : State) (core line : Nat) (k : AccKind) (claim : Bool) : State × Bool :=
  let settled (g : State → State) : State × Bool :=
    let t := settleLine s line
    if dirStable (dirOf t line) then (g t, true) else (t, false)
  match k with
  | .fetch | .look => (homePut s line, true)
  | .pull => settled (fun t => homeRead t line)
  | .update => settled (fun t => homeWrite t line)
  | .read => l1Ask s core line false
  | .write =>
    -- the copies of external agents are answered for before a core's write grant (R407)
    let d := dirOf s line
    if claim && d.ext == [] && !(dirOwned d && decide (128 ≤ d.owner)) then settled (fun t => claimLine t core line)
    else l1Ask s core line true

/-- An access of the L1 finds a copy that an uncorrectable soft error has spoilt (R255 rank 12). -/
def softErrored (s : State) (core line : Nat) (k : AccKind) : Bool :=
  (k == .read || k == .write) && ((l1Of s core line).map (·.bad)).getD false

/-- A fill from a lost peer has come as poison, and waits to be consumed (R415). -/
def lostFill (s : State) (core line : Nat) : Bool := ((l1Of s core line).map (fun l => l.bad && l1Asking l.st)).getD false

/-- The spoilt copy leaves the L1, so that the next access fetches the line again. -/
def dropBad (s : State) (core line : Nat) : State :=
  match l1Of s core line with
  | some l => evictL1 s core line l
  | none => s

/-- An access to a peer's line sends a request to the peer: the L1 has no permission for it and none on its way (R412). -/
def peerAsks (s : State) (core line : Nat) (k : AccKind) : Bool :=
  match k, l1Of s core line with
  | .read, some _ => false
  | .write, some l => l.st == .s || l.st == .o
  | _, _ => true

/-- One access of a wave to `n` naturally aligned bytes (R190, R255): translation, range locks, the line's state at its home, page-cache
misses, and the line's permission. `claim`: a full-line write that clears fog (R259). -/
def access (s : State) (core slot ctx : Nat) (priv : Priv) (va n : Nat) (k : AccKind) (claim : Bool) : State × AccRes :=
  let wr := k.writes
  match translate s core ctx priv va k with
  | .error .reservedTouch =>
    if claimedByOther s ctx (va / 65536) core slot then (sheetNote s ctx va true false, .claimed (va / 65536))
    else (sheetNote s ctx va true true, .fault .reservedTouch)
  | .error c => (s, .fault c)
  | .ok l =>
    let key := leafKey l va
    let home := pteHome l.word
    let line := lineOf key
    let st := lineSt s key
    let broken := decide (home ≤ 1) && sealBroken s ctx line l && !claim
    let s := tlbPut (sheetNote s ctx va true false) core ctx va l
    if home == 0 && decide (2 ^ 38 ≤ leafPa l va) then (s, .hole)
    else if rangeLocked s core ctx va key n wr then (s, .fault .rangeLocked)
    else if st == .h && wr && haloOwner s key != some core then (s, .fault .haloWrite)
    else if st == .a then (s, .fault .accBusy)
    else if home == 2 && peerLostAgent s (ptePeer l.word) then
      (if lostFill s core line then (dropL1Line s core line, .fault .linkDown) else (s, .fault .peerGone))
    else if (dirOf s line).fog && !claim then (s, .fault .fogged)
    else if home == 3 then (if k == .pull || k == .update then s else hostFill s line, .ok key)
    else if home == 2 && linkFull s (ptePeer l.word) && peerAsks s core line k && !linkSent s (ptePeer l.word) line then (s, .wait)
    else if st == .migr || haloPending s core line then (s, .wait)
    else
      let page := leafPa l va / 65536
      if home == 1 && lineMoving s page line then (s, .wait)
      else if home == 1 && !pageAtHand s page line && poisoned s core slot page then (s, .fault .linkDown)
      else if home == 1 && !pageAtHand s page line then (sheetNote s ctx va false true, .miss page)
      else if broken then (failFetch s ctx line va, .wait)
      else
        let s :=
          if home == 2 then (if peerAsks s core line k then linkSend s ctx (ptePeer l.word) line wr else s)
          else extTouch (if home == 0 then localFrame s ctx page else if cachedLine s line then s else clockNote s page) line (bit l.word 8)
        if softErrored s core line k then (dropBad s core line, .fault .softError)
        else
          let r :=
            if st == .h then (haloTouch (if wr then grantNote s key else s) core key, true)
            else joinLine s core line k claim
          if !r.2 then (r.1, .wait)
          else
            let s := if claim then setDir r.1 line { dirOf r.1 line with fog := false } else r.1
            (if wr && home != 2 then sealLine s ctx line l else s, .ok key)

/-- Bytes a core reads at a key: its own unpushed bytes of an H line, the L2's of a non-coherent page, else memory's (R286, R290). -/
def loadBytes (s : State) (core key n : Nat) : List Byte := if 2 ^ 64 ≤ key then hostBytes s key n else ownBytes s core key n

/-- Store bytes at a key: an H line's owner writes its own copy (R286), a non-coherent page's line is written in the L2 (R290), every other
write reaches memory. -/
def storeBytes (s : State) (core key : Nat) (bs : List Byte) : State :=
  if 2 ^ 64 ≤ key then hostStore s key bs
  else if haloOwner s key == some core then
    { s with coh := { s.coh with haloDirty :=
        (bs.zip (List.range bs.length)).foldl (fun h p => Map.insert h (key + p.2) p.1) s.coh.haloDirty } }
  else { s with mem := writeMem s.mem key bs }

/-- Bytes at a key as an engine reads them: of host memory directly (R404), else as its core reads them. -/
def engBytes (s : State) (core key n : Nat) : List Byte := if 2 ^ 64 ≤ key then readMem s.mem key n else ownBytes s core key n

/-- Bytes at a key as its home holds them, for a read that takes no line into an L1 (R83, R290). -/
def lookBytes (s : State) (key n : Nat) : List Byte := if 2 ^ 64 ≤ key then hostBytes s key n else readMem s.mem key n

/-- Bytes of a line with those stored at a key in their places. -/
def patchLine (line key : Nat) (bs : List Byte) (x : LineData) : LineData :=
  BitVec.ofNat 1024 ((bs.zip (List.range bs.length)).foldl (fun y p =>
    if lineOf (key + p.2) = line then putByte y ((key + p.2) % 128) p.1.toNat else y) x.toNat)

/-- Bytes stored at a key at device scope, as an engine's are (R101): over an H line's owner's copy too, and over what a push of the line
that is under way carries (R287). -/
def storeHome (s : State) (key : Nat) (bs : List Byte) : State :=
  { s with mem := writeMem s.mem key bs
           coh := { s.coh with
             haloDirty := s.coh.haloDirty.filter (fun e => !(decide (key ≤ e.1) && decide (e.1 < key + bs.length)))
             pushes := s.coh.pushes.map (fun p => (p.1, p.2.1, p.2.2.1, patchLine p.1 key bs p.2.2.2)) } }

end Sys2Proof.Machine
end

