-- ==== Sys2Proof/Machine/Wave.lean ====
section
/-! DEFINITION. Machine/Wave.lean: a wave's registers, masks and fragments (R159, R179), and the end of a scalar word. -/

namespace Sys2Proof.Machine

/-- What a meaning answers. -/
abbrev Out := Host.Outcome State Fault Refusal

/-! ## Waves and fragments -/

/-- The wave in a slot of a core (R132: 64 slots each), with its place. -/
def waveAt (s : State) (core slot : Nat) : Option Wave :=
  (Map.find s.waves (64 * core + slot)).map (fun w => { w with core := core, slot := slot })

/-- Put a wave into its slot. -/
def putWave (s : State) (w : Wave) : State := { s with waves := Map.insert s.waves (64 * w.core + w.slot) w }

/-- The partition of a wave slot (R132). -/
def partOf (slot : Nat) : Nat := slot / 16

/-- The fragment in slot A or B. -/
def fragOf (w : Wave) (b : Bool) : Option Frag := if b then w.fragB else w.fragA

/-- Put a fragment into slot A or B. -/
def putFrag (w : Wave) (b : Bool) (f : Option Frag) : Wave := if b then { w with fragB := f } else { w with fragA := f }

/-- Fragments that hold a slot. -/
def slotFrags (w : Wave) : List Frag := w.fragA.toList ++ w.fragB.toList

/-- The wave's live fragments: in slots and on the stack (R170, R172). -/
def liveFrags (w : Wave) : List Frag := slotFrags w ++ w.stack

/-- The grid of a group. -/
def groupOf (s : State) (gid : Nat) : Option Group := Map.find s.groups gid

/-- Put a group. -/
def putGroup (s : State) (gid : Nat) (g : Group) : State := { s with groups := Map.insert s.groups gid g }

/-- The grid of a wave's group. -/
def gridOf (s : State) (gid : Nat) : Option Grid := (groupOf s gid).bind (fun g => Map.find s.grids g.grid)

/-- The context of a wave. -/
def ctxIdOf (s : State) (gid : Nat) : Nat :=
  match gridOf s gid with
  | some g => g.ctx
  | none => 0

/-- The scalar bound of a wave (R41): the kernel's registers at U, at least 16 at S. -/
def scalarBound (w : Wave) : Nat := if w.priv = .s then max w.sbound 16 else w.sbound

/-! ## Scalar registers: `s0` reads zero and discards writes (R179) -/

/-- A scalar register. -/
def rdS (w : Wave) (n : Nat) : Word := if n = 0 then 0 else Tab.get 0 w.sregs n

/-- Write a scalar register. -/
def wrS (w : Wave) (n : Nat) (x : Word) : Wave := if n = 0 then w else { w with sregs := Tab.set 0 w.sregs n x }

/-- A register pair, low half in the even register (R51). -/
def rdP (w : Wave) (n : Nat) : DWord := rdS w (n + 1) ++ rdS w n

/-- Write a register pair; the pair `s0`, `s1` keeps `s0` at zero. -/
def wrP (w : Wave) (n : Nat) (x : DWord) : Wave := wrS (wrS w n (x.setWidth 32)) (n + 1) ((x >>> 32).setWidth 32)

/-! ## Masks -/

/-- A mask: `m0` is the fragment's (R159). -/
def rdM (w : Wave) (f : Frag) (n : Nat) : Word := if n = 0 then f.m0 else Tab.get 0 w.masks n

/-- Write a mask other than `m0` (R163). -/
def wrM (w : Wave) (n : Nat) (x : Word) : Wave := if n = 0 then w else { w with masks := Tab.set 0 w.masks n x }

/-! ## Feeds and event queues -/

/-- A feed (R175). -/
def feedOf (w : Wave) (n : Nat) : Feed := Tab.get Feed.init w.feeds n
/-- Put a feed. -/
def putFeed (w : Wave) (n : Nat) (f : Feed) : Wave := { w with feeds := Tab.set Feed.init w.feeds n f }
/-- An event queue (R324). -/
def evqOf (w : Wave) (n : Nat) : EvQ := Tab.get EvQ.init w.evqs n
/-- Put an event queue. -/
def putEvq (w : Wave) (n : Nat) (q : EvQ) : Wave := { w with evqs := Tab.set EvQ.init w.evqs n q }

/-! ## The end of a scalar word -/

/-- The spin count returns to 0, and a demotion is lifted with it (R168, R169). -/
def spinReset (s : State) (w : Wave) : Wave :=
  { w with spin := 0, demoted := false, age := if w.demoted then s.clock.toNat else w.age }

/-- A scalar register, mask or flag of the wave took a new value (R169). -/
def changed (old new : Wave) (b : Bool) : Bool :=
  old.sregs != new.sregs || old.masks != new.masks || (fragOf old b).map (·.flags) != (fragOf new b).map (·.flags)

/-- The wave after a word: its registers as given, the spin count by R169. -/
def settleWave (s : State) (w : Wave) (b : Bool) : State :=
  match waveAt s w.core w.slot with
  | some old => if changed old w b then putWave s (spinReset s w) else putWave s w
  | none => putWave s w

/-- The issuing fragment goes to `pc`, waiting on nothing. -/
def goTo (s : State) (w : Wave) (f : Frag) (pc : DWord) : Out :=
  .next (settleWave s (putFrag w s.cur.b (some { f with pc := pc, wait := .none })) s.cur.b)

/-- The word is done: the next word is 4 bytes on. -/
def done (s : State) (w : Wave) (f : Frag) : Out := goTo s w f (f.pc + 4)

/-- The word does not issue: the fragment waits, and nothing else changes. -/
def blocked (s : State) (w : Wave) (f : Frag) (r : Wait) : Out :=
  .next (putWave s (putFrag w s.cur.b (some { f with wait := r })))

/-- The meaning of a scalar word over its issuing wave and fragment; with no such fragment nothing issues. -/
def onFrag (s : State) (k : Wave → Frag → Out) : Out :=
  match waveAt s s.cur.core s.cur.slot with
  | none => .next s
  | some w =>
    match fragOf w s.cur.b with
    | none => .next s
    | some f => k w f

/-- The strips the issuing fragment enqueued are in the queue (R163). -/
def ownStrips (w : Wave) (b : Bool) : Bool := w.strips.any (fun t => t.b == b)

end Sys2Proof.Machine
end

