-- ==== Sys2Proof/Machine/Ring.lean ====
section
/-! DEFINITION. Machine/Ring.lean: what the device reads and writes for a context (R114, R119), the error log (R113 to
R116), the device event log (R420, R421) and MSI-X. -/

namespace Sys2Proof.Machine

/-- The six-bit code of a cause (R354). -/
def causeCode : Cause → Nat
  | .illegal => 1 | .misalign => 2 | .unmapped => 3 | .protect => 4 | .reservedTouch => 5 | .execDenied => 6
  | .rangeLocked => 7 | .haloWrite => 8 | .accBusy => 9 | .accSpillFull => 10 | .peerGone => 11 | .fogged => 12
  | .linkDown => 13 | .softError => 14 | .layerPool => 15 | .barrierMisuse => 16 | .watchdog => 17 | .svc => 18
  | .trap => 19

/-- How the device itself reaches a byte of a context: with a key, not at all, or once a page of the pool has come. -/
inductive DevRes where
  | ok (key : Nat)
  | fail
  | miss (page key : Nat)
  deriving DecidableEq, Repr

/-- The device's reach of a byte (R114, R119): a failed translation or permission, a lost peer (R291), a line in A (R98), FOG, a halo line for
a write (R286) or a broken integrity check (R110) fail it. Core number 127 names no core, so no held translation
applies. -/
def devReach (s : State) (ctx : Nat) (priv : Priv) (va : Nat) (k : AccKind) : DevRes :=
  match translate s 127 ctx priv va k with
  | .error _ => .fail
  | .ok l =>
    let key := leafKey l va
    let line := lineOf key
    let home := pteHome l.word
    let page := leafPa l va / 65536
    if home == 0 && decide (2 ^ 38 ≤ leafPa l va) then .fail
    else if inA s key || (k.writes && (haloOwner s key).isSome) || (home == 2 && peerLostAgent s (ptePeer l.word)) || (dirOf s line).fog
      || (decide (home ≤ 1) && sealBroken s ctx line l) then .fail
    else if home == 1 && !pageAtHand s page line then .miss page key
    else .ok key

/-- The key of a byte that the device reaches; a page that has still to come only delays it (R114). -/
def devKey (s : State) (ctx : Nat) (priv : Priv) (va : Nat) (k : AccKind) : Option Nat :=
  match devReach s ctx priv va k with
  | .ok key => some key
  | .miss _ key => some key
  | .fail => none

/-- The number in `n` bytes at a virtual address, which may cross one page boundary. -/
def devRead (s : State) (ctx : Nat) (priv : Priv) (va n : Nat) : Option Nat :=
  let n1 := min n (65536 - va % 65536)
  match devKey s ctx priv va .read with
  | none => none
  | some k =>
    if n1 = n then some (readNum s.mem k n)
    else (devKey s ctx priv (va + n1) .read).map (fun k2 => readNum s.mem k n1 + 2 ^ (8 * n1) * readNum s.mem k2 (n - n1))

/-- Store `n` bytes at a physical key, at its home: no other copy of the line remains, and the page's write-grant bit is set (R273,
R305). -/
def putNum (s : State) (key n x : Nat) : State :=
  let t := if 2 ^ 64 ≤ key then s else homeWrite s (lineOf key)
  { t with mem := writeNum t.mem key n x }

/-- Store `n` bytes that lie in one page at a virtual address. -/
def devWrite (s : State) (ctx : Nat) (priv : Priv) (va n x : Nat) : Option State :=
  (devKey s ctx priv va .write).map (fun k => putNum s k n x)

/-! ## The error log (R113, R114, R116) -/

/-- Bits of an error-log record. -/
def errRecord (ctx code unit core wave addr detail : Nat) (clock : DWord) : Nat :=
  ctx + unit * 2 ^ 18 + code * 2 ^ 22 + core * 2 ^ 32 + wave * 2 ^ 40 + addr % 2 ^ 57 * 2 ^ 64 + detail % 2 ^ 32 * 2 ^ 128
    + clock.toNat * 2 ^ 160

/-- Address of a ring's record `n` (R113). -/
def ringSlot (base order n : Nat) : Nat := base + 64 * (1 + n % 2 ^ order)

/-- Post a record to a context's error log, or drop it: a full log counts an overrun, an unwritable page logs `LOG_LOST` (R114). Whether the log
is full is tested first (DESIGN CHOICE, log 16: R114 does not order the two). -/
def logError (s : State) (ctx code unit core wave addr detail : Nat) : State :=
  match ctxOf s ctx with
  | none => s
  | some c =>
    let base := c.desc.elBase
    match devRead s ctx .s base 12, devKey s ctx .s base .write with
    | some h, some hk =>
      let tail := h % 2 ^ 32
      let head := bits h 63 32
      if 2 ^ c.desc.elOrder ≤ (tail + 2 ^ 32 - head) % 2 ^ 32 then putNum s (hk + 8) 4 (bits h 95 64 + 1)
      else
        match devKey s ctx .s (ringSlot base c.desc.elOrder tail) .write with
        | some k => putNum (putNum s k 64 (errRecord ctx code unit core wave addr detail s.clock)) hk 4 (tail + 1)
        | none => evLog s 9 ctx code 1
    | _, _ => evLog s 9 ctx code 1

/-- Raise an MSI-X vector of a context's function (R114, R119; log 10). -/
def raiseMsix (s : State) (ctx vector : Nat) : State := { s with msix := (ctx, vector) :: s.msix }

end Sys2Proof.Machine
end

