-- ==== Sys2Proof/Machine/Pages.lean ====
section
/-! DEFINITION. Machine/Pages.lean: page-cache misses and the Loupe's batch (R295, R296, R299), claims of first-touch
pages (R301), pins (R303) and the device-local pool (R295). -/

namespace Sys2Proof.Machine

/-- A fragment that stands for the sleep a trap interrupted. -/
def sleepFrag (x : Wait) : Frag :=
  { m0 := 0, pc := 0, flags := Flags.zero, depth := 0, token := 0, wait := x, handler := false }

/-- Change every fragment of a wave, and the sleep that a trap interrupted. -/
def mapFrags (w : Wave) (g : Frag → Frag) : Wave :=
  { w with fragA := w.fragA.map g, fragB := w.fragB.map g, stack := w.stack.map g,
           shadow := { w.shadow with wait := (g (sleepFrag w.shadow.wait)).wait } }

/-- Change every wave. -/
def mapWaves (s : State) (g : Wave → Wave) : State := { s with waves := Map.mapVals s.waves (fun _ w => g w) }

/-- A wave that waits for no page issues its parked words again (R167). -/
def unyield (w : Wave) : Wave :=
  if w.yieldOn = [] ∧ w.yieldClaim = [] then
    mapFrags w (fun f => match f.wait with | .pageMiss _ => { f with wait := .none } | _ => f)
  else w

/-! ## Frames -/

/-- Frames that are not reserved (R294). -/
def frameLimit (s : State) : Nat := 2 ^ 22 - s.vm.reserved

/-- The state of a frame: a frame that is not listed is FREE (R295). -/
def frameStOf (s : State) (f : Nat) : Option FrameSt := (Map.find s.vm.frames f).map (·.st)

/-- The lowest-numbered FREE frame (R295). -/
def freeFrame (s : State) : Option Nat := Map.lowestFree (fun _ => false) (frameLimit s) s.vm.frames 0

/-- The lowest-numbered frame in a state. -/
def lowestIn (s : State) (st : FrameSt) : Option Nat := (s.vm.frames.find? (fun e => e.2.st == st)).map (·.1)

/-- A frame that holds no cached page, in a state. -/
def plainFrame (st : FrameSt) (ctx : Nat) : Frame := { st := st, page := 0, ctx := ctx, clock := false, dirty := 0, released := 0 }

/-! ## Evictions (R297, R298) -/

/-- The lines of a physical page. -/
def pageLines (page : Nat) : List Nat := (List.range 512).map (fun j => page * 65536 + 128 * j)

/-- The clock passes the page (R297, R304, R340). -/
def clockPasses (s : State) (page : Nat) : Bool :=
  (Map.find s.vm.pins page).isSome || s.accs.any (fun e => accLive e.2
    && (e.2.map.any (fun m => m.2 == page)
        || (match ctxOf s e.2.ctx with
            | some c => (List.range e.2.spillBlocks).any (fun j =>
                match walk s.mem c.desc.ptRoot (e.2.spill + 65536 * j) with
                | some l => leafKey l (e.2.spill + 65536 * j) / 65536 == page
                | none => false)
            | none => false)))

/-- The hand passes over frames until it finds a victim. -/
def sweep (s : State) : List Nat → State × Option Nat
  | [] => (s, none)
  | f :: rest =>
    match Map.find s.vm.frames f with
    | some fr =>
      if fr.st ≠ .clean ∧ fr.st ≠ .dirty then sweep s rest
      else if fr.clock then sweep (setFrame s f { fr with clock := false }) rest
      else if clockPasses s fr.page then sweep s rest
      else (s, some f)
    | none => sweep s rest

/-- Frames that are FREE, or on their way there. -/
def framesComing (s : State) : Nat :=
  let used := s.vm.frames.filter (fun e => decide (e.1 < frameLimit s))
  frameLimit s - used.length + (used.filter (fun e => e.2.st == .evicting)).length

/-- The line of an evicted page is released: every copy is recalled, and it goes to I with its home in the pool; the fog marker stays, and an
H line stays H (R282, R286, R298). -/
def evictLine (s : State) (line : Nat) : State := leaveMigr (enterMigr s line) line line

/-- An eviction starts: how many lines it has released so far, in ascending address, is free; the next one is in MIGR (R298). -/
def startEvict (s : State) (f : Nat) (fr : Frame) : State :=
  let n := (Config.freeWord (freeIdx s f)).toNat % 512
  let t := ((pageLines fr.page).take n).foldl evictLine (setFrame s f { fr with st := .evicting, released := n })
  let u := enterMigr t (fr.page * 65536 + 128 * n)
  { u with vm := { u.vm with hand := f + 1 } }

/-- The clock chooses a victim within two rounds, and its eviction starts (R297). -/
def evictOne (s : State) : State :=
  let l := s.vm.frames.map (·.1)
  let round := l.filter (fun f => decide (s.vm.hand ≤ f)) ++ l.filter (fun f => decide (f < s.vm.hand))
  match sweep s (round ++ round) with
  | (t, none) => t
  | (t, some f) =>
    match Map.find t.vm.frames f with
    | some fr => startEvict t f fr
    | none => t

/-- The Enlarger keeps at least 64 frames FREE by evicting ahead of need (R297). -/
def evictAhead (fuel : Nat) (s : State) : State :=
  match fuel with
  | 0 => s
  | fuel + 1 => if framesComing s < 64 then evictAhead fuel (evictOne s) else s

/-! ## Fills and the Loupe (R295, R299, R300) -/

/-- Start the fill of one pool page into the lowest FREE frame, if there is one (R295). -/
def startFill (s : State) (page ctx : Nat) : Option State :=
  (freeFrame s).map (fun f => evictAhead 64 (setFrame s f { st := .filling, page := page, ctx := ctx, clock := true, dirty := 0, released := 0 }))

/-- Fills that wait for a frame start while there is one (R297). -/
def fillStarved : List (Nat × Nat) → State → State
  | [], s => s
  | e :: rest, s =>
    match startFill s e.1 e.2 with
    | some t => fillStarved rest { t with vm := { t.vm with starved := t.vm.starved.erase e } }
    | none => s

/-- Put a page in its place among pages that rise. -/
def risingPut (e : Nat × Nat) : List (Nat × Nat) → List (Nat × Nat)
  | [] => [e]
  | x :: rest => if e.1 ≤ x.1 then e :: x :: rest else x :: risingPut e rest

/-- The pages of a list in ascending address. -/
def rising (l : List (Nat × Nat)) : List (Nat × Nat) := l.foldl (fun m e => risingPut e m) []

/-- The last page of the run of consecutive pages in a list that `p` begins, looking `dir` (R299). -/
def runEnd (fuel : Nat) (l : List (Nat × Nat)) (up : Bool) (p : Nat) : Nat :=
  match fuel with
  | 0 => p
  | fuel + 1 =>
    let q := if up then p + 1 else p - 1
    if q ≠ p ∧ l.any (fun e => e.1 == q) then runEnd fuel l up q else p

/-- Missed pages in the order of their fills: misses on adjacent pages are one migration of consecutive pages, in ascending address
(R299). -/
def migrations (fuel : Nat) (l : List (Nat × Nat)) : List (Nat × Nat) :=
  match fuel, l with
  | 0, _ => l
  | _, [] => []
  | fuel + 1, e :: rest =>
    let lo := runEnd l.length l false e.1
    let hi := runEnd l.length l true e.1
    let mine (x : Nat × Nat) : Bool := decide (lo ≤ x.1) && decide (x.1 ≤ hi)
    rising ((e :: rest).filter mine) ++ migrations fuel (rest.filter (fun x => !mine x))

/-- A predicted page starts its fill if it is in no frame and a frame is FREE; it evicts nothing (R299). -/
def prefetchPage (s : State) (e : Nat × Nat) : State :=
  if (frameOfPage s e.1).isSome ∨ framesComing s ≤ 64 then s else (startFill s e.1 e.2).getD s

/-- The batch closes: each missed page starts its fill, and one that finds no FREE frame waits for the next eviction; then the predicted
pages for which it has room, those of engine descriptors first, in ascending address (R297, R299, R300). -/
def closeBatch (s : State) (engine : List (Nat × Nat)) : State :=
  let demand := s.vm.batch.getD []
  let size := demand.length + s.vm.touches.length
  let s0 := { s with vm := { s.vm with starved := s.vm.starved ++ migrations demand.length demand } }
  let from_ (src : Nat) : List (Nat × Nat) := (s.vm.foreseen.filter (fun e => e.1 == src)).map (·.2)
  let more := if size = 0 then [] else (engine ++ from_ 2 ++ from_ 3).take (32 - size)
  let t := (rising more).foldl prefetchPage (fillStarved s0.vm.starved s0)
  { t with vm := { t.vm with batch := none, touches := [], foreseen := [] } }

/-- A page lies in an enabled range of the pool (R294, R405). -/
def inPool (s : State) (page : Nat) : Bool :=
  s.link.decoders.any (fun e => e.2.enable && decide (e.2.base.toNat * 8192 ≤ page)
    && decide (page < (e.2.base.toNat + e.2.size.toNat) * 8192))

/-- A prediction adds a pool page to the open batch while the batch has room (R299, R300). -/
def predict (src ctx : Nat) (s : State) (page : Nat) : State :=
  let b := s.vm.batch.getD []
  if (b = [] ∧ s.vm.touches = []) ∨ 32 ≤ b.length + s.vm.touches.length + s.vm.foreseen.length ∨ !inPool s page ∨ (frameOfPage s page).isSome ∨ b.any (fun e => e.1 == page)
      ∨ s.vm.foreseen.any (fun e => e.2.1 == page) then s
  else { s with vm := { s.vm with foreseen := s.vm.foreseen ++ [(src, page, ctx)] } }

/-- The third of a unit's misses on pages in a row predicts the next four that way (R300). -/
def strideMiss (s : State) (unit page ctx : Nat) : State :=
  let old := (Map.find s.vm.strides unit).getD []
  if old.head? = some page then s
  else
    let t := { s with vm := { s.vm with strides := Map.insert s.vm.strides unit ((page :: old).take 3) } }
    match old with
    | b :: a :: _ =>
      if page = b + 1 ∧ b = a + 1 then [page + 1, page + 2, page + 3, page + 4].foldl (predict 3 ctx) t
      else if page + 1 = b ∧ b + 1 = a then [page - 1, page - 2, page - 3, page - 4].foldl (predict 3 ctx) t
      else t
    | _ => t

/-- The unit of a wave's misses (R300). -/
def waveUnit (core slot : Nat) : Nat := 64 * core + slot
/-- The unit of an engine operation's misses. -/
def engUnit (core op : Nat) : Nat := 2 ^ 20 + 1024 * core + op

/-- A batch of 32 pages closes (R299). -/
def fullBatch (s : State) : State :=
  if 32 ≤ (s.vm.batch.getD []).length + s.vm.touches.length + s.vm.foreseen.length then closeBatch s [] else s

/-- A miss joins the fill of its page, or the open batch, which closes at 32 pages (R296, R299). -/
def batchMiss (s : State) (unit page ctx : Nat) : State :=
  let b := s.vm.batch.getD []
  let t :=
    if (frameOfPage s page).isSome ∨ b.any (fun e => e.1 == page) ∨ s.vm.starved.any (fun e => e.1 == page) then s
    else { s with vm := { s.vm with batch := some (b ++ [(page, ctx)]) } }
  let u := strideMiss t unit page ctx
  fullBatch u

/-- A page has landed, or its fill has failed: the waves that wait for it can go on (R295, R296). -/
def wakePage (s : State) (page : Nat) : State :=
  mapWaves s (fun w => if w.yieldOn.contains page then unyield { w with yieldOn := w.yieldOn.filter (· != page) } else w)

/-! ## Claims (R301) -/

/-- The wave claims a page it touched first, unless the page is claimed. -/
def claimPage (s : State) (ctx vpn core slot : Nat) : State :=
  if s.vm.claims.any (fun c => c.ctx == ctx && c.vpn == vpn) then s
  else
    fullBatch { s with vm := { s.vm with claims := s.vm.claims ++ [{ ctx := ctx, vpn := vpn, core := core, slot := slot }]
                                         touches := s.vm.touches ++ [(ctx, vpn)] } }

/-- A claim ends: the units that yielded for it replay. -/
def endClaim (s : State) (ctx vpn : Nat) : State :=
  let t := { s with vm := { s.vm with claims := s.vm.claims.filter (fun c => !(c.ctx == ctx && c.vpn == vpn)) } }
  mapWaves t (fun w =>
    if w.yieldClaim.contains vpn && ctxIdOf t w.gid == ctx then unyield { w with yieldClaim := w.yieldClaim.filter (· != vpn) }
    else w)

/-- Every claim of a wave ends. -/
def endClaimsOf (s : State) (core slot : Nat) : State :=
  (s.vm.claims.filter (fun c => c.core == core && c.slot == slot)).foldl (fun t c => endClaim t c.ctx c.vpn) s

/-! ## Pins (R303, R304) -/

/-- Pages in the page-lock table. -/
def pinnedCount (s : State) : Nat := s.vm.pins.length

/-- A page can take one more pin: the table has room, and the count is below 65,535. -/
def canPin (s : State) (page : Nat) : Bool :=
  match Map.find s.vm.pins page with
  | some n => decide (n < 65535)
  | none => decide (pinnedCount s < 4096)

/-- Pin a page. -/
def pinPage (s : State) (page : Nat) : State :=
  { s with vm := { s.vm with pins := Map.insert s.vm.pins page ((Map.find s.vm.pins page).getD 0 + 1) } }

/-- Drop one pin of a page. -/
def unpinPage (s : State) (page : Nat) : State :=
  match Map.find s.vm.pins page with
  | some (n + 2) => { s with vm := { s.vm with pins := Map.insert s.vm.pins page (n + 1) } }
  | _ => { s with vm := { s.vm with pins := Map.erase s.vm.pins page } }

/-- Drop pins of pages. -/
def unpinAll (s : State) (pages : List Nat) : State := pages.foldl unpinPage s

/-- TAKEN frames of a context go to ZEROING (R295). -/
def returnTaken (s : State) (ctx : Nat) : State :=
  { s with vm := { s.vm with frames := Map.mapVals s.vm.frames (fun _ f =>
      if f.st == .taken && f.ctx == ctx then plainFrame .zeroing 0 else f) } }

end Sys2Proof.Machine
end

