-- ==== Sys2Proof/Machine/Fabric.lean ====
section
/-! DEFINITION. Machine/Fabric.lean: reductions merged in the Glinor switches (R100, R261, R413, R414). -/

namespace Sys2Proof.Machine

/-- A reduction of a type at a key lies in an enabled window of a peer, named by its domain device number (R411, R413). -/
def inWindow (s : State) (key : Nat) (ty : LType) : Bool :=
  match Map.find s.link.agents (key / 2 ^ 52) with
  | none => false
  | some a => s.link.windows.any (fun e =>
      let w := e.2
      let pa := key % 2 ^ 52
      w.enable && w.ty == ty && a.kind == .peer && w.home == a.route / 16 && decide (w.base ≤ pa) && decide (pa < w.base + 65536 * w.pages))

/-- The sum of two values of a type: exact modulo 2^w for an integer, rounded once by RNE for a float (R414). -/
def fabSum (ty : LType) (a b : Nat) : Nat :=
  if isInt ty then (a + b) % 2 ^ ltypeBits ty else roundF ty 0 false (fAdd 0 (readF ty a) (readF ty b))

/-- A reduction performs at the home's memory port. -/
def fabArrive (s : State) (r : FabRed) : State :=
  let n := ltypeBits r.ty / 8
  putNum s r.key n (fabSum r.ty (readNum s.mem r.key n) r.val)

/-- The reductions that `p` picks arrive; the others stay on their way. -/
def fabArriveAll (s : State) (p : FabRed → Bool) : State :=
  (s.link.merging.filter p).foldl fabArrive { s with link := { s.link with merging := s.link.merging.filter (fun r => !p r) } }

/-- Two reductions of a type at an element may merge in a switch (R414). -/
def fabMeets (a b : FabRed) : Bool := a.key == b.key && a.ty == b.ty

/-- A reduction leaves for its home: a switch may merge it with another one that it holds (R414; log 7). -/
def fabSend (s : State) (r : FabRed) : State :=
  let put (l : List FabRed) : State := { s with link := { s.link with merging := l } }
  match s.link.merging.find? (fabMeets r) with
  | some q =>
    if Config.freeBool (freeIdx s (r.key + 1)) then
      put (s.link.merging.erase q ++ [{ r with val := fabSum r.ty q.val r.val, waves := q.waves ++ r.waves }])
    else put (s.link.merging ++ [r])
  | none => put (s.link.merging ++ [r])

/-- As time goes on some of the reductions on their way reach their home; which is free (R100, R414; log 7). -/
def fabSettle (s : State) : State :=
  if s.link.merging = [] then s else fabArriveAll s (fun r => Config.freeBool (freeIdx s r.key))

/-- A release at `.fab` or `.sys`, or a fence, waits until the earlier reductions of its wave have performed (R100). -/
def fabDrain (s : State) (core slot : Nat) : State :=
  if s.link.merging = [] then s else fabArriveAll s (fun r => r.waves.contains (64 * core + slot))

/-- The reductions on their way to a lost peer are dropped (R415). -/
def fabLose (s : State) (id : Nat) : State :=
  { s with link := { s.link with merging := s.link.merging.filter (fun r => r.key / 2 ^ 52 != id) } }

end Sys2Proof.Machine
end

