-- ==== Sys2Proof/Machine/AccCore.lean ====
section
/-! DEFINITION. Machine/AccCore.lean: the elements of an open accumulator (R70, R72, R73), the arrival of a partial
(R338, R340, R341) and the changes of an accumulator's state (R339). -/

namespace Sys2Proof.Machine

/-! ## Elements -/

/-- A partial's value: an `I64` partial is the count of units itself (R348). -/
def partialVal (a : Acc) (ty : LType) (b : DWord) : FVal :=
  if ty = .i64 then
    let v := sgn 64 b.toNat
    .fin (decide (v < 0)) v.natAbs a.anchor
  else readF ty b.toNat

/-- Add `q` units to an element in exact form (R70). -/
def accAdd (e : AccElem) (q : Int) : AccElem :=
  let q' := clampI (-(2 ^ 63)) (2 ^ 63 - 1) q
  let t := e.acc.toInt + q'
  let t' := clampI (-(2 ^ 79)) (2 ^ 79 - 1) t
  { e with acc := BitVec.ofInt 80 t', satmark := e.satmark || q' != q || t' != t }

/-- The type that a float-form accumulator holds (R337, R338). -/
def accFloatType (form : Nat) : LType := if form = 2 then .f64 else .f32

/-- Apply a partial to an element: exact form (R70) or float form (R72). -/
def accApply (a : Acc) (e : AccElem) (ty : LType) (b : DWord) : AccElem :=
  let v := partialVal a ty b
  if a.form = 0 then
    match v with
    | .nan => { e with nan := true }
    | .inf neg => if neg then { e with ninf := true } else { e with pinf := true }
    | .fin neg m x => accAdd e (roundInt 0 { neg := neg, m := m, e := x - a.anchor, sticky := false })
  else
    let t := accFloatType a.form
    let r := roundF t 0 false (fAdd 0 (readF t (e.acc.toNat % 2 ^ 64)) v)
    { e with acc := BitVec.ofNat 80 r }

/-- An element of exact form is saturated (R70). -/
def accSaturated (e : AccElem) : Bool :=
  e.satmark || decide (e.acc.toInt < -(2 ^ 63)) || decide (2 ^ 63 ≤ e.acc.toInt)

/-- The saturation flag of the line that holds an element (R70): one of the line's 16 elements is saturated. -/
def accLineSaturated (a : Acc) (i : Nat) : Bool :=
  (List.range 16).any (fun j => accSaturated (Tab.get AccElem.zero a.elems (i / 16 * 16 + j)))

/-- Step 1 of the drain: the type of the value and its bits (R73). -/
def accStep1 (a : Acc) (e : AccElem) : LType × Nat :=
  if a.form = 0 then
    let v : FVal :=
      if e.nan || (e.pinf && e.ninf) then .nan
      else if e.pinf then .inf false
      else if e.ninf then .inf true
      else if accSaturated e then .inf (decide (e.acc.toInt < 0))
      else .fin (decide (e.acc.toInt < 0)) e.acc.toInt.natAbs a.anchor
    (.f32, roundF .f32 0 false v)
  else (accFloatType a.form, e.acc.toNat % 2 ^ ltypeBits (accFloatType a.form))

/-- The histogram bin of an element (R74). -/
def accBin (a : Acc) (e : AccElem) : Nat :=
  let v := accStep1 a e
  if a.form = 0 && accSaturated e then 31 else
  match readF v.1 v.2 with
  | .nan => 31
  | .inf _ => 31
  | .fin _ m x => if m = 0 then 0 else (clampI 1 30 (floorLog2 m x - a.histBase + 15)).toNat

/-- The types that an accumulator's form accepts of a partial (R348). -/
def accAccepts (form : Nat) (ty : LType) : Bool :=
  match form with
  | 0 => ty == .f32 || ty == .f64 || ty == .i64
  | 1 => ty == .f32
  | _ => ty == .f32 || ty == .f64

/-! ## Places in the slices (R13, R340) -/

/-- Lines of the region. -/
def accLines (a : Acc) : Nat := ceilDiv (a.rows * a.cols * accElemBytes a.form) 128

/-- Slots of 256 bytes after the map of the spill area (R340). -/
def spillSlots (a : Acc) : Nat := (a.spillBlocks * 65536 - alignUp (4 * accLines a) 256) / 256

/-- A slot of the spill area is free. -/
def spillFree (a : Acc) : Bool := decide (a.spilled.length + a.parkedLines < spillSlots a)

/-- Lines of one way of an L2 slice: 2 MiB of 128-byte lines in 16 ways (R16). -/
def linesPerWay : Nat := 1024

/-- The least recently updated of some placed lines. -/
def oldestPlace : List (Nat × Nat × Nat × Nat) → Option (Nat × Nat × Nat × Nat)
  | [] => none
  | p :: rest =>
    match oldestPlace rest with
    | none => some p
    | some q => if p.2.2.1 ≤ q.2.2.1 then some p else some q

/-- Give a line its place, spilling the context's least recently updated line of the slice when none is free (R340);
none when the spill area has no slot (R341). -/
def accPlace (s : State) (k : Nat) (a : Acc) (line : Nat) : Option State :=
  let put (t : State) : State :=
    { t with stamp := t.stamp + 1, accs := Map.modify t.accs k (fun b =>
        { b with placed := (b.placed.filter (fun p => p.1 != line)) ++ [(line, t.stamp)],
                 spilled := b.spilled.filter (· != line) }) }
  if a.placed.any (fun p => p.1 == line) then some (put s)
  else
    let ways := ((ctxOf s a.ctx).map (fun c => c.desc.accWays)).getD 0
    let here := slicePlaces s (homeSlice (accKeyOf a (128 * line)))
    let own := here.filter (fun p => p.2.2.2 == a.ctx)
    if own.length < ways * linesPerWay ∧ here.length < 8 * linesPerWay then some (put s)
    else
      match oldestPlace own with
      | none =>
        -- the context holds no place here to free: the line is updated in a slot of its own (log 17)
        if a.spilled.contains line then some s
        else if spillFree a then some { s with accs := Map.modify s.accs k (fun b => { b with spilled := b.spilled ++ [line] }) }
        else none
      | some (k2, line2, _, _) =>
        match Map.find s.accs k2 with
        | none => none
        | some b =>
          -- a reload frees the slot its line held
          let freed := k2 = k && a.spilled.contains line
          let b' := { b with placed := b.placed.filter (fun p => p.1 != line2), spilled := b.spilled ++ [line2] }
          if spillFree b || freed then some (put { s with accs := Map.insert s.accs k2 b' }) else none

/-! ## The arrival of a partial (R338) -/

/-- The accumulator of a context that holds an element address, in `OPEN`. -/
def accAt (s : State) (ctx va : Nat) : Option (Nat × Acc) :=
  s.accs.find? (fun e => e.2.ctx == ctx && e.2.st == .opened && decide (e.2.base ≤ va)
    && decide (va < e.2.base + e.2.rows * e.2.cols * accElemBytes e.2.form))

/-- Apply a partial at its home, or refuse it with a cause. -/
def applyPartial (s : State) (ctx va : Nat) (ty : LType) (b : DWord) : State × Option Cause :=
  match accAt s ctx va with
  | none => (s, some .accBusy)
  | some (k, a) =>
    if !accAccepts a.form ty || (va - a.base) % accElemBytes a.form != 0 then (s, some .accBusy)
    else
      match accPlace s k a (va / 128) with
      | none => (s, some .accSpillFull)
      | some t =>
        let i := (va - a.base) / accElemBytes a.form
        ({ t with accs := Map.modify t.accs k (fun c =>
            { c with elems := Tab.set AccElem.zero c.elems i (accApply c (Tab.get AccElem.zero c.elems i) ty b) }) }, none)

/-! ## State changes (R339) -/

/-- Code of an accumulator state (R337). -/
def accCode : AccSt → Nat
  | .closed => 0 | .opened => 1 | .draining => 2 | .drained => 3 | .aborted => 4 | .faulted => 5

/-- Write state and fault_cause into the descriptor (R337). -/
def accWriteSt (s : State) (pa : Nat) (st : AccSt) (cause : Nat) : State :=
  let b17 := readNum s.mem (pa + 17) 1
  let b18 := readNum s.mem (pa + 18) 1
  putNum (putNum s (pa + 17) 1 (b17 / 8 * 8 + accCode st)) (pa + 18) 1 (b18 / 64 * 64 + cause)

/-- An accumulator leaves the table in a final state: its lines go to I with their contents from before (R339). -/
def accEnd (s : State) (k : Nat) (st : AccSt) : State :=
  match Map.find s.accs k with
  | none => s
  | some a => accWriteSt { s with accs := Map.erase s.accs k } a.descPa st (bits (readNum s.mem (a.descPa + 18) 1) 5 0)

/-- An accumulator goes to `FAULTED` with a cause (R339). -/
def accFault (s : State) (k : Nat) (c : Cause) : State :=
  match Map.find s.accs k with
  | none => s
  | some a => accWriteSt { s with accs := Map.insert s.accs k { a with st := .faulted } } a.descPa .faulted (causeCode c)

/-- Log `ACC_ABANDONED` for an accumulator (R116). -/
def accLogAbandoned (s : State) (a : Acc) : State := logError s a.ctx 1 15 127 0 a.descAddr a.descAddr

end Sys2Proof.Machine
end

