-- ==== Sys2Proof/Machine/Engine.lean ====
section
/-! DEFINITION. Machine/Engine.lean: engine operations and their range locks, pins and completion records (R102, R303,
R320 to R324), and the staging state of a team (R331, R334, R335). -/

namespace Sys2Proof.Machine

/-- The wave of a group by its number, while it is resident. -/
def waveOf (s : State) (gid wv : Nat) : Option Wave :=
  (s.waves.find? (fun e => e.2.gid == gid && e.2.ident.waveid.toNat == wv)).map (·.2)

/-- Wake the fragments that wait as given; a wake resets the spin count (R169). -/
def wakeFrags (s : State) (w : Wave) (p : Wait → Bool) : Wave :=
  if (liveFrags w).any (fun f => p f.wait) then
    spinReset s (mapFrags w (fun f => if p f.wait then { f with wait := .none } else f))
  else w

/-! ## Range locks (R102) -/

/-- Register the ranges of an operation, in table entries while there are any, else as overflow ranges. -/
def addLocks (c : Core) (l : List Lock) : Core :=
  let room := 64 - c.locks.length
  { c with locks := c.locks ++ l.take room, overflow := c.overflow ++ l.drop room }

/-- Drop the locks of an operation; overflow ranges move into the entries that free, oldest first. -/
def dropLocks (c : Core) (op : Nat) : Core :=
  let l := c.locks.filter (fun k => k.op != op)
  let o := c.overflow.filter (fun k => k.op != op)
  { c with locks := l ++ o.take (64 - l.length), overflow := o.drop (64 - l.length) }

/-- The physical spans of a lock: those of its pages that its operation has pinned (R80, R303). -/
def lockSpans (c : Core) (k : Lock) : List (Nat × Nat) :=
  match k.scr, Map.find c.ops k.op with
  | none, some o => o.pinned.filterMap (fun p =>
      let lo := max k.lo (p.1 * 65536)
      let hi := min k.hi (p.1 * 65536 + 65536)
      if lo < hi then some (p.2 * 65536 + (lo - p.1 * 65536), p.2 * 65536 + (hi - p.1 * 65536)) else none)
  | _, _ => []

/-- Two spans overlap. -/
def spansMeet (a b : Nat × Nat) : Bool := decide (a.1 < b.2) && decide (b.1 < a.2)

/-- Two ranges conflict: one of them is locked against reads, and they overlap, at their addresses or, as one location (R80), at
physical ones. -/
def lockConflict (c : Core) (a b : Lock) : Bool :=
  (a.rw || b.rw) && ((a.ctx == b.ctx && a.scr == b.scr && spansMeet (a.lo, a.hi) (b.lo, b.hi))
    || (lockSpans c a).any (fun x => (lockSpans c b).any (spansMeet x)))

/-- The ranges of an operation. -/
def locksOf (c : Core) (op : Nat) : List Lock := (c.locks ++ c.overflow).filter (fun k => k.op == op)

/-! ## Records (R324) -/

/-- Source code of a record. -/
def engSource : EngKind → Nat
  | .mloop => 1 | .drain => 2 | _ => 0

/-- Operation code of a record. -/
def engOpCode : EngKind → Nat
  | .gather => 1 | .scatter => 2 | .fill => 3 | _ => 0

/-- The handle of an operation (R320). -/
def engHandle (o : EngOp) (slot : Nat) : Word := BitVec.ofNat 32 (slot + o.serial.toNat * 1024)

/-- The tag of an operation's descriptor (R317, R350); a drain has none. -/
def engTag (o : EngOp) : Nat :=
  match o.kind with
  | .mloop => bits o.desc.toNat 383 320
  | .drain => 0
  | _ => bits o.desc.toNat 447 384

/-- A completion record (R324). -/
def engRecord (o : EngOp) (slot status cause va : Nat) : BitVec 256 :=
  BitVec.ofNat 256 (status + engSource o.kind * 2 ^ 8 + engOpCode o.kind * 2 ^ 12 + cause * 2 ^ 16
    + (engHandle o slot).toNat * 2 ^ 32 + engTag o * 2 ^ 64 + o.written * 2 ^ 128 + va * 2 ^ 192)

/-- The group has been saved into a darkslide (R146). -/
def swappedOut (s : State) (gid : Nat) : Bool := ((groupOf s gid).map (fun g => g.st == .swapped)).getD false

/-- The operation in a slot, unless its group is saved: then it moves no further (R126, R321). -/
def opAt (s : State) (core op : Nat) : Option EngOp :=
  (Map.find (coreOf s core).ops op).bind (fun o => if swappedOut s o.gid then none else some o)

/-- Post a record to a wave's event queue and wake it; none when the queue has no place. A record for a wave that has
exited is discarded (R321). -/
def postRecord (s : State) (gid wv q : Nat) (r : BitVec 256) : Option State :=
  match waveOf s gid wv with
  | none => if swappedOut s gid then none else some s
  | some w =>
    let e := evqOf w q
    if e.recs.length < e.depth then
      some (putWave s (wakeFrags s (putEvq w q { e with recs := e.recs ++ [r] }) (fun x => x == .evwait q)))
    else none

/-- Put an operation into its slot. -/
def putOp (s : State) (core slot : Nat) (o : EngOp) : State :=
  putCore s core { coreOf s core with ops := Map.insert (coreOf s core).ops slot o }

/-- Release an operation's locks, pins and slot (R321); waves that wait for a slot or for pins may go on. -/
def releaseOp (s : State) (core slot : Nat) : State :=
  match Map.find (coreOf s core).ops slot with
  | none => s
  | some o =>
    let c := coreOf s core
    let t := putCore s core (dropLocks { c with ops := Map.erase c.ops slot } slot)
    mapWaves (unpinAll t (o.pinned.map (·.2))) (fun w => mapFrags w (fun f =>
      match f.wait with
      | .engineSlot => { f with wait := .none }
      | .pins => { f with wait := .none }
      | _ => f))

/-- An operation becomes final with a record, or keeps its slot until its queue has a place (R324). -/
def finishOp (s : State) (core slot status cause va : Nat) : State :=
  match Map.find (coreOf s core).ops slot with
  | none => s
  | some o =>
    let r := engRecord o slot status cause va
    match postRecord s o.gid o.wave o.q r with
    | some t => releaseOp t core slot
    | none => putOp s core slot { o with st := .waitPlace, final := some r }

/-- An operation is cancelled without a record (R147, R321); a cancelled drain aborts its accumulator (R339). -/
def cancelOp (s : State) (core slot : Nat) : State :=
  match Map.find (coreOf s core).ops slot with
  | none => s
  | some o =>
    let t := releaseOp s core slot
    if o.kind = .drain ∧ o.final.isNone then accEnd t o.acc .aborted else t

/-- Every operation in some cores' slots that satisfies `p`. -/
def opsWhere (s : State) (p : EngOp → Bool) : List (Nat × Nat) :=
  s.cores.flatMap (fun c => (c.2.ops.filter (fun o => p o.2)).map (fun o => (c.1, o.1)))

/-- Cancel every operation of a group (R147). -/
def cancelGroupOps (s : State) (gid : Nat) : State :=
  (opsWhere s (fun o => o.gid == gid)).foldl (fun t p => cancelOp t p.1 p.2) s

/-- `ACCABORT` of an accumulator: any drain of it is cancelled with a record (R339, R346). -/
def accAbort (s : State) (k : Nat) : State :=
  let t := (opsWhere s (fun o => o.kind == .drain && o.acc == k && o.final.isNone)).foldl (fun t p => finishOp t p.1 p.2 1 0 0) s
  accEnd t k .aborted

/-- A drain of an accumulator stops with a `FAILED` record, and the accumulator is `FAULTED` (R339). -/
def accBreak (s : State) (k : Nat) (c : Cause) : State :=
  let t := (opsWhere s (fun o => o.kind == .drain && o.acc == k && o.final.isNone)).foldl
    (fun t p => finishOp t p.1 p.2 2 (causeCode c) 0) s
  accFault t k c

/-- The accumulators of the table that satisfy `p` are aborted and logged as abandoned (R339, R116). -/
def accAbandon (s : State) (p : Acc → Bool) : State :=
  (s.accs.filter (fun e => p e.2)).foldl (fun t e => accLogAbandoned (accAbort t e.1) e.2) s

/-! ## Teams -/

/-- Side of a team's tile. -/
def teamSide (t : Team) : Nat := 32 * t.size

/-- The type of a staging value (R334). -/
def teamType (t : Team) : LType := if t.is64 then .f64 else .f32

/-- Lines of a staging state. -/
def teamLines (t : Team) : Nat := teamSide t * teamSide t * (if t.is64 then 8 else 4) / 128

/-- The team of a group on a core. -/
def teamOf (s : State) (core gid team : Nat) : Option Team :=
  (coreOf s core).teams.find? (fun t => t.gid == gid && t.team == team)

/-- A team at start: no staging, no words. -/
def teamInit (gid team size : Nat) : Team :=
  { gid := gid, team := team, size := size, members := [], dissolved := false, tile := 0, fmtAddr := 0, fmt := 0,
    steps := 0, is64 := false, vals := [], unsent := [], parked := false, stamp := 0, stop := .none, waiting := [],
    skipped := false }

/-- Team size of a wave, 0 without teams (R133). -/
def teamSizeOf (w : Wave) : Nat := bits w.ident.team.toNat 3 0

/-- Team index of a wave (R133). -/
def teamIdxOf (w : Wave) : Nat := bits w.ident.team.toNat 10 4

/-- Put a team in its place. -/
def putTeam (s : State) (core : Nat) (t : Team) : State :=
  let c := coreOf s core
  if c.teams.any (fun x => x.gid == t.gid && x.team == t.team) then
    putCore s core { c with teams := c.teams.map (fun x => if x.gid == t.gid && x.team == t.team then t else x) }
  else putCore s core { c with teams := c.teams ++ [t] }

/-- Remove a team. -/
def dropTeam (s : State) (core gid team : Nat) : State :=
  let c := coreOf s core
  putCore s core { c with teams := c.teams.filter (fun x => !(x.gid == gid && x.team == team)) }

/-- Spill slots a parked state holds change with it (R335, R340). -/
def parkLines (s : State) (t : Team) (add : Bool) : State :=
  match accAt s (ctxIdOf s t.gid) t.tile.toNat with
  | none => s
  | some (k, a) =>
    let n := if add then a.parkedLines + teamLines t else a.parkedLines - teamLines t
    { s with accs := Map.insert s.accs k { a with parkedLines := n } }

/-- Park a staging state that holds steps; a park that finds no slot faults the accumulator (R335, R341). -/
def parkTeam (s : State) (t : Team) : State × Team :=
  if t.parked || t.steps == 0 then (s, t)
  else
    match accAt s (ctxIdOf s t.gid) t.tile.toNat with
    | none => (s, { t with parked := true })
    | some (k, a) =>
      if a.spilled.length + a.parkedLines + teamLines t ≤ spillSlots a then (parkLines s t true, { t with parked := true })
      else (accFault s k .accSpillFull, { t with parked := true })

/-- Reload a parked staging state. -/
def unparkTeam (s : State) (t : Team) : State × Team :=
  if t.parked then (parkLines s t false, { t with parked := false }) else (s, t)

/-- A staging state at +0 with no step. -/
def clearTeam (t : Team) : Team := { t with vals := [], steps := 0, unsent := [] }

/-- The elements of a tile, row by row. -/
def tileElems (t : Team) : List Nat := List.range (teamSide t * teamSide t)

/-- The tile lies as R338 asks in an open accumulator: its table key. -/
def tileAcc (s : State) (t : Team) : Option (Nat × Acc × Nat × Nat) :=
  match accAt s (ctxIdOf s t.gid) t.tile.toNat with
  | none => none
  | some (k, a) =>
    let off := t.tile.toNat - a.base
    let i := off / accElemBytes a.form
    let i0 := i / a.cols
    let j0 := i % a.cols
    if off % accElemBytes a.form = 0 ∧ i0 % 32 = 0 ∧ j0 % 32 = 0 ∧ i0 + teamSide t ≤ a.rows ∧ j0 + teamSide t ≤ a.cols
      ∧ accAccepts a.form (teamType t) then some (k, a, i0, j0) else none

/-- Flush a staging state: send each element as a partial (R334). Refused partials stay, with the cause (R336). -/
def flushTeam (s : State) (t : Team) : State × Team × Option Cause :=
  if t.steps = 0 then (s, clearTeam t, none)
  else
    let todo := if t.unsent = [] then tileElems t else t.unsent
    match tileAcc s t with
    | none => (s, { t with unsent := todo }, some .accBusy)
    | some (_, a, i0, j0) =>
      let r := todo.foldl (fun (p : State × List Nat × Option Cause) x =>
        let va := a.base + ((i0 + x / teamSide t) * a.cols + (j0 + x % teamSide t)) * accElemBytes a.form
        match applyPartial p.1 a.ctx va (teamType t) (Tab.get 0 t.vals x) with
        | (q, none) => (q, p.2.1, p.2.2)
        | (q, some c) => (q, p.2.1 ++ [x], if p.2.2.isSome then p.2.2 else some c)) (s, [], none)
      if r.2.1 = [] then (r.1, clearTeam t, none) else (r.1, { t with unsent := r.2.1 }, r.2.2)

/-- The `MMA` of a member settles: its lanes are done (R331, R333). -/
def settleMma (s : State) (gid wv opId : Nat) : State :=
  match waveOf s gid wv with
  | none => s
  | some w => putWave s { w with ops := w.ops.map (fun o => if o.id == opId then { o with done := o.active, pendingAnswers := 0 } else o) }

/-- A member's loop is final with a record, unless it is gone already. -/
def endLoop (s : State) (core h status cause va : Nat) : State :=
  match Map.find (coreOf s core).ops (h % 1024) with
  | none => s
  | some o => if (engHandle o (h % 1024)).toNat = h then finishOp s core (h % 1024) status cause va else s

/-- A matrix word that is discarded: an `MMA` settles with no effect, an `MLOOP` posts a `CANCELLED` record (R331). -/
def discardWord (s : State) (core gid wv : Nat) (x : TeamWord) : State :=
  match x with
  | .mma opId _ _ _ _ _ _ _ _ _ => settleMma s gid wv opId
  | .mloop h => endLoop s core h 1 0 0

/-- A member has exited: the team is dissolved, its waiting words are discarded and its staging state is flushed
(R331, R334). -/
def dissolveTeam (s : State) (core : Nat) (t : Team) : State :=
  if t.dissolved then s else
  let s1 := t.members.foldl (fun a m => m.words.foldl (fun b x => discardWord b core t.gid m.wave x) a) s
  let (s2, t2) := unparkTeam s1 { t with dissolved := true, members := t.members.map (fun m => { m with words := [] }) }
  let (s3, t3, _) := flushTeam s2 t2
  putTeam s3 core t3

end Sys2Proof.Machine
end

