-- ==== Sys2Proof/Machine/Task.lean ====
section
/-! DEFINITION. Machine/Task.lean: task records (R138, R139): placing, counting, and the end of a task's grid. -/

namespace Sys2Proof.Machine

/-- Replace bits [hi:lo] of a number. -/
def putBits (x hi lo v : Nat) : Nat := x - bits x hi lo * 2 ^ lo + v % 2 ^ (hi + 1 - lo) * 2 ^ lo

/-- A queue's register block (R117). -/
def queueOf (s : State) (q : Nat) : Queue := Tab.get Queue.init s.queues q

/-- Put a queue's register block. -/
def putQueue (s : State) (q : Nat) (x : Queue) : State := { s with queues := Tab.set Queue.init s.queues q x }

/-- The queue becomes `READY`, in its place among the queues of its class (R118, R122). -/
def queueReady (s : State) (q : Nat) : State :=
  putQueue { s with stamp := s.stamp + 1 } q { queueOf s q with st := .ready, stamp := s.stamp, promoted := false, readyAt := s.clock }

/-- The device's key of a task record's byte. -/
def taskKey (s : State) (ctx va : Nat) : Option Nat := devKey s ctx .s va .write

/-- Append a record to its queue's ready list of its priority (R139). -/
def readyAppend (s : State) (q ctx prio va : Nat) : State :=
  let x := queueOf s q
  match Map.find x.readyTail prio with
  | none => putQueue s q { x with readyHead := Map.insert x.readyHead prio va, readyTail := Map.insert x.readyTail prio va }
  | some t =>
    let s1 := match devWrite s ctx .s (t + 40) 8 va with
      | some s' => s'
      | none => s
    putQueue s1 q { x with readyTail := Map.insert x.readyTail prio va }

/-- Place a task (R139): `key` is the physical key of the record at `va`. -/
def taskPlace (s : State) (ctx va key : Nat) : State :=
  let h := readNum s.mem key 8
  let q := bits h 57 48
  let x := queueOf s q
  if x.st == .disabled || x.st == .error || x.ctxId != ctx then
    putNum s key 8 (putBits (putBits h 34 32 5) 43 40 4)
  else
    let s1 := putNum (putNum s key 8 (putBits h 34 32 2)) (key + 40) 8 0
    let s2 := readyAppend s1 q ctx (bits h 37 36) va
    if x.st == .idle then queueReady s2 q else s2

/-- `TDEC` at a record (R139, R144): the counter as found. -/
def taskDec (s : State) (ctx va key : Nat) : State × Nat :=
  let h := readNum s.mem key 8
  let old := bits h 31 0
  if bits h 34 32 = 1 then
    let s1 := putNum s key 8 (putBits h 31 0 (old - 1))
    (if old - 1 = 0 then taskPlace s1 ctx va key else s1, old)
  else (s, old)

/-- `TADD` at a record (R139, R144). -/
def taskAdd (s : State) (key n : Nat) : State × Nat :=
  let h := readNum s.mem key 8
  let old := bits h 31 0
  if bits h 34 32 = 1 then (putNum s key 8 (putBits h 31 0 (min (old + n) (2 ^ 32 - 1))), old) else (s, old)

/-- The task's successor is decremented, or `SUCC_LOST` is logged (R139, R116). -/
def taskSucc (s : State) (ctx va succ : Nat) : State :=
  if succ = 0 then s
  else
    match (if succ % 64 = 0 then taskKey s ctx succ else none) with
    | some k => (taskDec s ctx succ k).1
    | none => logError s ctx 7 15 127 0 succ va

/-- Some groups of a task retire or are killed: the rows of R139 that the state and live of its record name, whatever wrote them (R140); true once one
of them has ended the task in `DONE` or `FAILED`. -/
def taskRetire (s : State) (ctx va n : Nat) (killed : Bool) : State × Bool :=
  match taskKey s ctx va with
  | none => (s, false)
  | some k =>
    let h := readNum s.mem k 8
    let live := bits (readNum s.mem (k + 48) 8) 31 0
    if n = 0 ∨ bits h 34 32 ≠ 3 then (s, false)
    else if n < live then (putNum (if killed then putNum s k 8 (putBits h 43 40 3) else s) (k + 48) 4 (live - n), false)
    else
      let t := putNum s (k + 48) 4 0
      if killed || live == 0 || bits h 43 40 != 0 then (putNum t k 8 (putBits (putBits h 34 32 5) 43 40 3), true)
      else (taskSucc (putNum t k 8 (putBits h 34 32 4)) ctx va (bits (readNum t.mem (k + 32) 8) 56 0), true)

/-- A task that the dispatcher cannot start, or whose queue is killed, is `FAILED` with an error (R139). -/
def taskFail (s : State) (ctx va err : Nat) : State :=
  match taskKey s ctx va with
  | none => s
  | some k => putNum s k 8 (putBits (putBits (readNum s.mem k 8) 34 32 5) 43 40 err)

/-! ## Grids -/

/-- Trays of a grid, on every core. -/
def gridTrays (s : State) (gi : Nat) : Nat :=
  (s.cores.map (fun c => (c.2.trays.filter (fun t => t.2.grid == gi)).length)).foldl (· + ·) 0

/-- The group is not in a final state. -/
def groupLive (g : Group) : Bool := g.st != .retired && g.st != .killed

/-- Every group and tray wave of the grid has ended, and its tray drain is empty (R121, R231). -/
def gridOver (s : State) (gi : Nat) (g : Grid) : Bool :=
  g.live == 0 && gridTrays s gi == 0 && !(s.groups.any (fun e => e.2.grid == gi && groupLive e.2))

/-- A queue with nothing left to do becomes `IDLE` (R118, R139). -/
def queueIdle (s : State) (q : Nat) : State :=
  let x := queueOf s q
  if x.st = .active ∧ x.head = x.tail ∧ x.started = [] ∧ x.readyHead = [] ∧ !(s.grids.any (fun e => e.2.queue == q)) then
    putQueue s q { x with st := .idle }
  else s

/-- A grid that has ended. -/
def endGrid (s : State) (gi : Nat) : State := { s with grids := Map.modify s.grids gi (fun g => { g with ended := true }) }

/-- A task's grid that is over ends its task, unless that has ended, and goes; a packet's grid waits for its packet (R121, R139). -/
def gridSettle (s : State) (gi : Nat) : State :=
  match Map.find s.grids gi with
  | none => s
  | some g =>
    if gridOver s gi g then
      match g.src with
      | .packet _ _ => s
      | .task _ va =>
        let t := { s with grids := Map.erase s.grids gi }
        queueIdle (if g.ended then t else (taskRetire t g.ctx va 1 (g.killed || g.anyKilled)).1) g.queue
    else s

/-- Groups of a grid that is not over retire or are killed: its task, unless that has ended, takes note in its record (R139, R140). -/
def gridNote (s : State) (gi n : Nat) (killed : Bool) : State :=
  match Map.find s.grids gi with
  | none => s
  | some g =>
    match g.src with
    | .packet _ _ => s
    | .task _ va =>
      if g.ended then s
      else
        let r := taskRetire s g.ctx va n killed
        if r.2 then endGrid r.1 gi else r.1

/-- A group of a grid has retired or been killed (R121, R139). The last one ends a task once the grid's trays are drained. -/
def gridCount (s : State) (gi : Nat) (tray killed : Bool) : State :=
  match Map.find s.grids gi with
  | none => s
  | some g =>
    let live := if tray then g.live else g.live - 1
    let t := { s with grids := Map.insert s.grids gi { g with live := live, anyKilled := g.anyKilled || (killed && (tray || live == 0)) } }
    gridSettle (if tray || live == 0 then t else gridNote t gi 1 killed) gi

end Sys2Proof.Machine
end

