-- ==== Sys2Proof/Machine/Group.lean ====
section
/-! DEFINITION. Machine/Group.lean: barriers' phases (R241), register pools (R149, R150), parked words that another word
completes (R156), the exit of a wave (R167, R174) and the release of a group's resources (R146, R147). -/

namespace Sys2Proof.Machine

/-- Change a group. -/
def modGroup (s : State) (gid : Nat) (g : Group → Group) : State := { s with groups := Map.modify s.groups gid g }

/-- Change the wave in a slot. -/
def modWave (s : State) (core slot : Nat) (g : Wave → Wave) : State :=
  { s with waves := Map.modify s.waves (64 * core + slot) g }

/-- The waves of a group. -/
def groupWaves (s : State) (gid : Nat) : List Wave := (s.waves.filter (fun e => e.2.gid == gid)).map (·.2)

/-- The next stamp: the number of a parked word, or a place in an order of issue. -/
def nextStamp (s : State) : State := { s with stamp := s.stamp + 1 }

/-- The wave runs its trap handler. -/
def handling (w : Wave) : Bool :=
  match w.trap with
  | .handling _ => true
  | _ => false

/-- A word of a fragment that is not the handler's writes a scalar register while the handler may run: `s1` to `s15` as they were before
its entry (R358). -/
def wrFor (w : Wave) (f : Frag) (sd : Nat) (x : Word) : Wave :=
  if handling w && !f.handler && decide (0 < sd) && decide (sd < 16) then
    { w with shadow := { w.shadow with regs := Map.insert w.shadow.regs sd x } }
  else wrS w sd x

/-- The words of live fragments whose wait has come to its end complete, each with its destination and result. -/
def doneFrags (w : Wave) (res : Wait → Option (Nat × Word)) : Wave :=
  let v := (liveFrags w).foldl (fun v f =>
    match res f.wait with
    | some (sd, x) => wrFor v f sd x
    | none => v) w
  { mapFrags v (fun f => if (res f.wait).isSome then { f with pc := f.pc + 4, wait := .none } else f) with shadow := v.shadow }

/-- The entry that a parked word waits in. -/
def parkId : Wait → Option Nat
  | .mqsend id => some id
  | .mqrecv id => some id
  | .vclaim id => some id
  | _ => none

/-- A parked word completes, in a slot or on the stack: its result is written and its fragment goes on. -/
def completeParked (s : State) (core slot id sd : Nat) (x : Word) : State :=
  modWave s core slot (fun w => spinReset s (doneFrags w (fun r => if parkId r = some id then some (sd, x) else none)))

/-! ## Barriers (R241) -/

/-- A barrier of a group. -/
def barrierOf (g : Group) (n : Nat) : Barrier := Tab.get Barrier.init g.barriers n

/-- Put a barrier. -/
def putBarrier (g : Group) (n : Nat) (b : Barrier) : Group := { g with barriers := Tab.set Barrier.init g.barriers n b }

/-- The result of a `BSYNC` that a wake at a barrier completes. -/
def bsyncResult (n : Nat) : Wait → Option (Nat × Word)
  | .bsync m p sd => if m = n then some (sd, p.setWidth 32) else none
  | _ => none

/-- A wave whose waiter bit is set wakes: a `BSYNC` completes with the phase it waited on, at the return where a trap has set it aside, and a
`BWAIT` reads the phase again. -/
def wakeAt (s : State) (n : Nat) (w : Wave) : Wave :=
  let hit : Wait → Bool := fun x => match x with
    | .bwait m _ => m == n
    | .bsync m _ _ => m == n
    | _ => false
  if (liveFrags w).any (fun f => hit f.wait) || hit w.shadow.wait then
    let aside := match w.shadow.wait with
      | .bsync m p sd => if m = n then Wait.bsyncDone p sd else .bsync m p sd
      | x => x
    let v := doneFrags w (bsyncResult n)
    spinReset s (mapFrags { v with shadow := { v.shadow with wait := aside } } (fun f => match f.wait with
      | .bwait m _ => if m = n then { f with wait := .none } else f
      | _ => f))
  else w

/-- Wake the waves of a group whose waiter bits are set (R241, R244). -/
def wakeBarrier (s : State) (gid n : Nat) (mask : BitVec 128) : State :=
  mapWaves s (fun w => if w.gid == gid && mask.getLsbD w.ident.waveid.toNat then wakeAt s n w else w)

/-- A phase completes (R241). -/
def phaseDone (s : State) (gid n : Nat) (b : Barrier) : State :=
  wakeBarrier (modGroup s gid (fun g => putBarrier g n { b with phase := b.phase + 1, arrived := 0, waiters := 0 })) gid n b.waiters

/-- One arrival at a barrier in `COUNTING` (R241). -/
def arrive (s : State) (gid n : Nat) : State :=
  match groupOf s gid with
  | none => s
  | some g =>
    let b := barrierOf g n
    if !b.inUse then s
    else if b.arrived + 1 = b.expected then phaseDone s gid n b
    else modGroup s gid (fun g => putBarrier g n { b with arrived := b.arrived + 1 })

/-- A wave of the group exits: the rows of R241 at one barrier. -/
def exitBarrier (s : State) (gid n : Nat) : State :=
  match groupOf s gid with
  | none => s
  | some g =>
    let b := barrierOf g n
    if !b.inUse then s
    else if b.expected = 1 then
      wakeBarrier (modGroup s gid (fun g => putBarrier g n { b with inUse := false, expected := 0, arrived := 0, waiters := 0 }))
        gid n b.waiters
    else if b.expected - 1 ≤ b.arrived then phaseDone s gid n { b with expected := b.expected - 1 }
    else modGroup s gid (fun g => putBarrier g n { b with expected := b.expected - 1 })

/-! ## Register pools (R149, R150) -/

/-- The pool of a wave: the partitions of the group's lower core, then those of the upper core. -/
def poolOf (g : Group) (core slot : Nat) : Nat := partOf slot + (if core = g.core then 0 else 4)

/-- The vector allocation changes: registers at and above it hold 0. -/
def setValloc (w : Wave) (a : Nat) : Wave := { w with valloc := a, vregs := w.vregs.filter (fun e => decide (e.1 < a)) }

/-- Serve the parked claims of one pool in the order in which they issued, while the pool suffices. -/
def serveClaims (fuel : Nat) (s : State) (gid pool : Nat) : State :=
  match fuel with
  | 0 => s
  | fuel + 1 =>
    match groupOf s gid with
    | none => s
    | some g =>
      match g.claimQ.find? (fun c => poolOf g c.core c.slot == pool) with
      | none => s
      | some c =>
        let have_ := Tab.get 0 g.pools pool
        if c.n ≤ have_ then
          let s1 := modGroup s gid (fun g => { g with pools := Tab.set 0 g.pools pool (have_ - c.n), claimQ := g.claimQ.erase c })
          let a := match waveAt s1 c.core c.slot with
            | some w => w.valloc + c.n
            | none => c.n
          serveClaims fuel (completeParked (modWave s1 c.core c.slot (fun w => setValloc w a)) c.core c.slot c.id c.sd
            (BitVec.ofNat 32 a)) gid pool
        else s

/-- Registers go to a pool, and parked claims are served. -/
def poolGive (s : State) (gid pool n : Nat) : State :=
  let s1 := modGroup s gid (fun g => { g with pools := Tab.set 0 g.pools pool (Tab.get 0 g.pools pool + n) })
  serveClaims (((groupOf s1 gid).map (fun g => g.claimQ.length)).getD 0 + 1) s1 gid pool

/-! ## Banks (R151) -/

/-- A bank of a core. -/
def bankOf (c : Core) (i : Nat) : Bank := Tab.get Bank.init c.banks i

/-- Put a bank. -/
def putBank (c : Core) (i : Nat) (b : Bank) : Core := { c with banks := Tab.set Bank.init c.banks i b }

/-- Granules that groups hold on a core. -/
def granulesOn (s : State) (core : Nat) : List (Nat × Nat) :=
  s.groups.flatMap (fun e => if e.2.core == core then e.2.scratchGran ++ e.2.fifoGran else [])

/-- Of some banks, the unheld SCRATCH and FIFO banks without a granule revert to CACHE (R151). -/
def revertBanks (s : State) (core : Nat) (banks : List Nat) : State :=
  let used := granulesOn s core
  putCore s core (banks.foldl (fun c i =>
    let b := bankOf c i
    if b.mode != .cache && !b.hold && b.change.isNone && !(used.any (fun g => g.1 == i)) then
      putBank c i { b with mode := .cache }
    else c) (coreOf s core))

/-! ## Trays (R230, R231) -/

/-- Change the trays of a core. -/
def mapTrays (s : State) (core : Nat) (g : Tray → Tray) : State :=
  putCore s core { coreOf s core with trays := Map.mapVals (coreOf s core).trays (fun _ t => g t) }

/-- FILLING trays that satisfy `p` trigger. -/
def triggerTrays (s : State) (core : Nat) (p : Tray → Bool) : State :=
  mapTrays { s with stamp := s.stamp + 1 } core (fun t =>
    if t.st == .filling && p t then { t with st := .triggered, stamp := s.stamp } else t)

/-- The `FILLING` tray of a core with the earliest deadline. -/
def nextDeadline (c : Core) : Option (Nat × Tray) :=
  (c.trays.filter (fun t => t.2.st == .filling)).foldl (fun best t =>
    match best with
    | none => some t
    | some u => if t.2.deadline < u.2.deadline then some t else best) none

/-- Trays of a core whose deadline has come trigger, in the order of their deadlines (R231, R232). -/
def lateTrays (fuel : Nat) (s : State) (core : Nat) : State :=
  match fuel with
  | 0 => s
  | fuel + 1 =>
    match nextDeadline (coreOf s core) with
    | none => s
    | some t => if t.2.deadline ≤ s.clock.toNat then lateTrays fuel (triggerTrays s core (fun u => u == t.2)) core else s

/-- Grid drain: the grid's FILLING trays on a core trigger once no wave of it that is not a tray wave is there. -/
def gridDrain (s : State) (core gi : Nat) : State :=
  if s.groups.any (fun e => e.2.grid == gi && !e.2.isTray && e.2.core == core && (groupWaves s e.1) != []) then s
  else triggerTrays s core (fun t => t.grid == gi)

/-- Tray entries that a grid's groups reserve on a core (R230). -/
def reservedBy (s : State) (core gi : Nat) : Nat :=
  (s.groups.filter (fun e => e.2.grid == gi && e.2.core == core
    && (e.2.st == .placing || e.2.st == .resident || e.2.st == .draining))).foldl (fun n e => n + e.2.trayCount) 0

/-- The oldest FILLING tray of a grid on a core. -/
def oldestFilling (c : Core) (gi : Nat) : Option (Nat × Tray) :=
  (c.trays.filter (fun t => t.2.grid == gi && t.2.st == .filling)).foldl (fun best t =>
    match best with
    | none => some t
    | some u => if t.2.stamp < u.2.stamp then some t else best) none

/-- Trays beyond what the grid's other groups reserve trigger when a reserving group goes, oldest first (R231; log 16). -/
def releaseTrays (fuel : Nat) (s : State) (core gi : Nat) : State :=
  match fuel with
  | 0 => s
  | fuel + 1 =>
    let c := coreOf s core
    let n := (c.trays.filter (fun t => t.2.grid == gi && t.2.st == .filling)).length
    if n ≤ reservedBy s core gi then s
    else
      match oldestFilling c gi with
      | none => s
      | some t => releaseTrays fuel (triggerTrays s core (fun u => u == t.2)) core gi

/-! ## Message queues (R154 to R156) -/

/-- Entries the queue of a group can hold. -/
def mqSize (g : Group) : Nat := g.fifoBytes / 128

/-- Handle of a group (R154). -/
def groupHandle (g : Group) : Word := BitVec.ofNat 32 (g.core + g.gslot * 128 + g.tag.toNat * 8192)

/-- Senders parked on a group's queue complete with no entry (R147). -/
def failSenders (s : State) (gid : Nat) : State :=
  match groupOf s gid with
  | none => s
  | some g => modGroup (g.sendQ.foldl (fun t p => completeParked t p.core p.slot p.id p.sd 0xFFFFFFFF) s) gid (fun g => { g with sendQ := [] })

/-! ## The end of waves and groups -/

/-- Drop what a wave has parked elsewhere, and its claims (R301). -/
def forgetWave (s : State) (core slot : Nat) : State :=
  let s1 := { s with groups := Map.mapVals s.groups (fun _ g =>
    { g with sendQ := g.sendQ.filter (fun p => !(p.core == core && p.slot == slot))
             recvQ := g.recvQ.filter (fun p => !(p.core == core && p.slot == slot))
             claimQ := g.claimQ.filter (fun p => !(p.core == core && p.slot == slot)) }) }
  endClaimsOf { s1 with waves := Map.erase s1.waves (64 * core + slot) } core slot

/-- A darkslide without a group that was killed (R146); the restore of an active queue ends with its last group. -/
def dropSaved (q : Queue) (gid : Nat) : Darkslide :=
  let l := q.slides.groups.filter (fun x => x.gid != gid)
  if l = [] ∧ q.st = .active then Darkslide.none else { q.slides with groups := l }

/-- The context's last wave has retired (R111). -/
def ctxRests (s : State) (ctx : Nat) : State :=
  match ctxOf s ctx with
  | none => s
  | some c =>
    if c.st = .running ∧ !(s.groups.any (fun e => groupLive e.2 && ((Map.find s.grids e.2.grid).map (·.ctx)) == some ctx))
        ∧ (opsWhere s (fun o => o.ctx == ctx)).isEmpty
        ∧ !(s.vm.frames.any (fun e => e.2.st == .filling && e.2.ctx == ctx)) ∧ !((s.vm.batch.getD []).any (fun e => e.2 == ctx)) then
      { s with ctxs := Map.insert s.ctxs ctx { c with st := .bound } }
    else s

/-- Release a group's resources and enter a final state (R147). -/
def releaseGroup (s : State) (gid : Nat) (final : GroupSt) : State :=
  match groupOf s gid with
  | none => s
  | some g =>
    let s1 := (groupWaves s gid).foldl (fun t w => forgetWave t w.core w.slot) s
    let s2 := failSenders (cancelGroupOps s1 gid) gid
    let s3 := { s2 with cores := Map.mapVals s2.cores (fun _ c => { c with teams := c.teams.filter (fun t => t.gid != gid) }) }
    let s4 := accAbandon s3 (fun a => a.ownerGid == some gid && (a.st == .opened || a.st == .faulted))
    let s5 := modGroup s4 gid (fun g =>
      { g with st := final, scratch := [], bad := [], scratchGran := [], fifoGran := [], slots := [], wantBanks := [], msgs := [],
               sendQ := [], recvQ := [], pools := [], claimQ := [], barriers := [], live := 0 })
    let s6 := { s5 with queues := Map.mapVals s5.queues (fun _ q =>
      { q with slides := dropSaved q gid }) }
    let s7 := if g.isTray then s6 else releaseTrays 256 s6 g.core g.grid
    ctxRests (gridCount (gridDrain (revertBanks s7 g.core ((g.scratchGran ++ g.fifoGran).map (·.1))) g.core g.grid) g.grid g.isTray (final == .killed)) (ctxIdOf s gid)

/-- A group that is not final is killed (R146). -/
def killGroup (s : State) (gid : Nat) : State :=
  match groupOf s gid with
  | some g => if groupLive g then releaseGroup s gid .killed else s
  | none => s

/-- A grid is killed with every group of it, placed or not; its trays are discarded (R231, R365). -/
def killGrid (s : State) (gi : Nat) : State :=
  match Map.find s.grids gi with
  | none => s
  | some g =>
    let placed := (s.groups.filter (fun e => e.2.grid == gi && groupLive e.2))
    let s0 := { s with cores := Map.mapVals s.cores (fun _ c => { c with trays := c.trays.filter (fun t => t.2.grid != gi) }) }
    -- groups not yet placed end here, so that the last group killed ends the task
    let left := (placed.filter (fun e => !e.2.isTray)).length
    let unplaced := g.live - left
    let g' := { g with killed := true, anyKilled := true, next := g.nx * g.ny * g.nz, live := left }
    let s1 := gridNote { s0 with grids := Map.insert s0.grids gi g' } gi (if left = 0 then unplaced - 1 else unplaced) true
    gridSettle (placed.foldl (fun t e => killGroup t e.1) s1) gi

/-- The last fragment of a wave has exited (R146, R149, R167, R174, R241, R331). -/
def exitWave (s : State) (core slot : Nat) : State :=
  match waveAt s core slot with
  | none => s
  | some w =>
    let s1 := forgetWave s core slot
    -- its engine operations run on without it (R321)
    let s2 := { s1 with cores := Map.mapVals s1.cores (fun _ c => { c with ops := Map.mapVals c.ops (fun _ o =>
      if o.gid == w.gid && o.wave == w.ident.waveid.toNat then { o with orphan := true } else o) }) }
    let s3 :=
      if teamSizeOf w = 0 then s2
      else dissolveTeam s2 core ((teamOf s2 core w.gid (teamIdxOf w)).getD (teamInit w.gid (teamIdxOf w) (teamSizeOf w)))
    match groupOf s3 w.gid with
    | none => s3
    | some g =>
      let s4 := modGroup s3 w.gid (fun g => { g with live := g.live - 1, exited := g.exited ++ [w.ident.waveid.toNat] })
      let s5 := if g.live ≤ 1 then s4 else poolGive s4 w.gid (poolOf g core slot) w.valloc
      let s6 := (List.range 16).foldl (fun t n => exitBarrier t w.gid n) s5
      let s7 := mapWaves s6 (fun x =>
        if x.gid == w.gid then
          mapFrags x (fun f => match f.wait with
            | .regroup p _ _ => if p == w.ident.waveid.toNat then { f with wait := .none } else f
            | _ => f)
        else x)
      let s8 :=
        if g.live ≤ 1 then
          let t := cancelGroupOps s7 w.gid
          modGroup t w.gid (fun g => { g with st := .draining })
        else s7
      gridDrain s8 g.core g.grid

end Sys2Proof.Machine
end

