-- ==== Sys2Proof/Machine/Ops.lean ====
section
/-! DEFINITION. Machine/Ops.lean: quarantine (R111, R112), the taking of a trap (R108, R356 to R358) and the return from
one (R363), and the access of a scalar word (R189, R190). -/

namespace Sys2Proof.Machine

/-! ## Quarantine (R111, R112, R118) -/

/-- Fuel for a walk of a ready list: a record in a list holds at least one listed byte. -/
def listFuel (s : State) : Nat := s.mem.length + 1

/-- The records of a ready list, from one on. -/
def readyList (fuel : Nat) (s : State) (ctx va : Nat) (last : Nat) : List Nat :=
  match fuel with
  | 0 => []
  | fuel + 1 =>
    if va = last then [va]
    else va :: (match devRead s ctx .s (va + 40) 8 with
      | some n => readyList fuel s ctx (bits n 56 0) last
      | none => [])

/-- The `QUEUED` tasks of a queue end `FAILED`, and its ready lists empty (R139). -/
def failReady (s : State) (q : Nat) : State :=
  let x := queueOf s q
  let l := x.readyHead.flatMap (fun e => readyList (listFuel s) s x.ctxId e.2 (Tab.get 0 x.readyTail e.1))
  putQueue (l.foldl (fun t va => taskFail t x.ctxId va 3) s) q { x with readyHead := [], readyTail := [] }

/-- Kill a queue's groups, tasks and packets and discard its darkslide (R118). -/
def killQueue (s : State) (q : Nat) : State :=
  let s1 := (s.grids.filter (fun e => e.2.queue == q)).foldl (fun t e => killGrid t e.1) s
  let s2 := failReady { s1 with grids := s1.grids.filter (fun e => e.2.queue != q) } q
  putQueue s2 q { queueOf s2 q with started := [], slides := Darkslide.none, gridSlots := 0 }

/-- The context is quarantined; `code` is the error-log code of the cause, 0 for a CTXOP (R111, R112, R421). -/
def quarantine (s : State) (ctx code : Nat) : State :=
  match ctxOf s ctx with
  | none => s
  | some c =>
    if c.st = .quarantined then s
    else
      let s1 := accAbandon { s with ctxs := Map.insert s.ctxs ctx { c with st := .quarantined, unbinding := false } } (fun a => a.ctx == ctx)
      let s2 := (s1.queues.filter (fun e => e.2.ctxId == ctx && e.2.st != .disabled)).foldl (fun t e =>
        let u := killQueue t e.1
        putQueue u e.1 { queueOf u e.1 with st := .error, err := 2 }) s1
      let s3 := (s2.grids.filter (fun e => e.2.ctx == ctx)).foldl (fun t e => killGrid t e.1) s2
      evLog (returnTaken s3 ctx) 8 ctx code 0

/-- A double fault: logged, and the context is quarantined (R108, R116). -/
def doubleFault (s : State) (w : Wave) (c : Cause) (unit addr : Nat) : State :=
  let ctx := ctxIdOf s w.gid
  quarantine (logError s ctx 3 unit w.core w.slot addr (causeCode c)) ctx 3

/-! ## Taking a trap (R108, R356 to R358) -/

/-- The L-stream's own traps enter when they are raised; the others wait for the wave's strips (R356). -/
def isLane : TrapKind → Bool
  | .lane _ => true
  | .laneFetch => true
  | .feedPop => true
  | _ => false

/-- Causes that are held while a trap is in hand (R356). -/
def isHeld (s : State) (k : TrapKind) : Bool :=
  match k with
  | .watchdog => true
  | .engine core op =>
    match Map.find (coreOf s core).ops op with
    | some o => o.priv == .u
    | none => true
  | _ => false

/-- A fragment that traps leaves the queues its word was parked on; the word executes again after the handler (R364). -/
def unpark (s : State) (core slot : Nat) (b : Bool) : State :=
  match ((waveAt s core slot).bind (fun w => fragOf w b)).bind (fun f => parkId f.wait) with
  | none => s
  | some id =>
    { s with groups := Map.mapVals s.groups (fun _ g =>
      { g with sendQ := g.sendQ.filter (fun p => p.id != id), recvQ := g.recvQ.filter (fun p => p.id != id)
               claimQ := g.claimQ.filter (fun p => p.id != id) }) }

/-- The fragment that takes a trap: the one named, else the one in the other slot (R357, R322). -/
def trapSlot (w : Wave) (b : Bool) : Bool := if (fragOf w b).isSome then b else !b

/-- `s1` to `s15` at entry: the cause, sup_data and zeros (R358). -/
def entryRegs (sregs : Map Word) (cause : Word) (sup : Nat) : Map Word :=
  let rest := sregs.filter (fun e => decide (16 ≤ e.1))
  Tab.set 0 (Tab.set 0 (Tab.set 0 rest 1 cause) 2 (BitVec.ofNat 32 sup)) 3 (BitVec.ofNat 32 (sup / 2 ^ 32))

/-- The trap registers at entry (R355). -/
def trapRegs (r : TrapReq) (pc : DWord) : TrapRegs :=
  { cause := BitVec.ofNat 32 (causeCode r.cause + r.unit * 64), pc := pc, addr := r.addr, mask := r.mask, info := r.info }

/-- A sleep that goes on through a trap which the sleeping word did not raise: `BSYNC` has arrived, and a `WAITA` must
not miss its `WAKE`. -/
def keptWait (k : TrapKind) (x : Wait) : Wait :=
  match k, x with
  | .scalar, _ | .watchdog, _ | .service, _ => .none
  | _, .bsync n p sd => .bsync n p sd
  | _, .waita l c => .waita l c
  | _, _ => .none

/-- The pc at entry: `SVC` and `TRAP` give the word after (R355). -/
def entryPc (r : TrapReq) (f : Frag) : DWord := if r.kind = .service then f.pc + 4 else f.pc

/-- The wave in the handler (R358). -/
def handlerWave (c : CtxDesc) (w : Wave) (r : TrapReq) (b : Bool) (f : Frag) : Wave :=
  let g : Frag := { f with pc := BitVec.ofNat 64 c.trapVector, flags := Flags.zero, handler := true, wait := .none }
  let pc := entryPc r f
  let sh : Shadow :=
    { wait := keptWait r.kind f.wait, regs := w.sregs.filter (fun e => decide (e.1 < 16)), flags := f.flags, pcEntry := pc,
      strips := w.strips, headOff := w.headOff, lstop := w.lstop, fenceR := w.fenceR, fenceW := w.fenceW, late := w.late,
      ops := w.ops }
  let tr := trapRegs r pc
  let w1 := { w with priv := .s, sregs := entryRegs w.sregs tr.cause c.supData, treg := tr, shadow := sh, strips := [],
                     headOff := 0, lstop := false, fenceR := 0, fenceW := 0, late := [], ops := [], trap := .handling { r with b := b }, spin := 0,
                     demoted := false, poison := [] }
  putFrag w1 b (some g)

/-- Trap entry: the wave starts its handler (R358); its team's staging state is parked (R335). -/
def enterTrap (s : State) (core slot : Nat) (r : TrapReq) : State :=
  match waveAt s core slot with
  | none => s
  | some w =>
    let b := trapSlot w r.b
    match fragOf w b, ctxOf s (ctxIdOf s w.gid) with
    | some f, some c =>
      let s1 := unpark s core slot b
      let s2 := match teamOf s1 core w.gid (teamIdxOf w) with
        | some t => let p := parkTeam s1 t; putTeam p.1 core p.2
        | none => s1
      putWave s2 (handlerWave c.desc w r b f)
    | _, _ => s

/-- A trap in `ENTERING` enters once the strips enqueued before it have retired (R356). -/
def tryEnter (s : State) (core slot : Nat) : State :=
  match waveAt s core slot with
  | none => s
  | some w =>
    match w.trap with
    | .entering r => if isLane r.kind || w.strips == [] then enterTrap s core slot r else s
    | _ => s

/-- A trap is raised in a wave: at U it starts to enter; at S it is held or is a double fault (R108, R356). -/
def raiseTrap (s : State) (core slot : Nat) (r : TrapReq) : State :=
  match waveAt s core slot with
  | none => s
  | some w =>
    if w.priv = .s then
      if isHeld s r.kind then putWave s { w with held := w.held ++ [r] }
      else doubleFault s w r.cause r.unit r.addr.toNat
    else
      match w.trap with
      | .entering q =>
        -- a fault of the strips that drain replaces the trap: an engine's or the watchdog's is held, another recurs
        if isLane r.kind then
          let keep := if isHeld s q.kind then [q] else []
          tryEnter (putWave s { w with trap := .entering r, held := w.held ++ keep }) core slot
        else if isHeld s r.kind then putWave s { w with held := w.held ++ [r] }
        else s
      | _ => tryEnter (putWave s { w with trap := .entering r }) core slot

/-- A trap of the issuing fragment's word, with `TRAPADDR` and `TRAPINFO` (R355): the word does not execute. -/
def trapAt (s : State) (w : Wave) (f : Frag) (k : TrapKind) (c : Cause) (addr : DWord) (info : Nat) : Out :=
  .next (raiseTrap (putWave s (putFrag w s.cur.b (some { f with wait := .none }))) w.core w.slot
    { kind := k, cause := c, unit := 1, mask := f.m0, addr := addr, info := BitVec.ofNat 32 info, pc := f.pc, b := s.cur.b })

/-- The trap `WATCHDOG` of a fragment that has slept too long, with `TRAPINFO` (R128, R129). -/
def timeoutReq (info : Nat) (f : Frag) (b : Bool) : TrapReq :=
  { kind := .watchdog, cause := .watchdog, unit := 1, mask := f.m0, addr := 0, info := BitVec.ofNat 32 info, pc := f.pc, b := b }

/-- A precise fault of a scalar word (R184). -/
def trapS (s : State) (w : Wave) (f : Frag) (c : Cause) (addr : DWord) : Out := trapAt s w f .scalar c addr 0

/-- `trap(ILLEGAL, all)`: a run-time condition of R41. -/
def illegalS (s : State) (w : Wave) (f : Frag) : Out := trapS s w f .illegal 0

/-- A word marked S raises `ILLEGAL` at U (R107). -/
def onlyS (s : State) (w : Wave) (f : Frag) (k : Out) : Out := if w.priv = .u then illegalS s w f else k

/-! ## The return from a trap (R363) -/

/-- The interrupted fragment as it goes on at `pc`: a sleep goes on only at the word that was asleep, and one that came to its end in
the meantime is over there. -/
def resumed (sh : Shadow) (f : Frag) (pc : DWord) : Frag :=
  let g : Frag := { f with pc := pc, flags := sh.flags, handler := false, wait := .none }
  if pc = sh.pcEntry then
    match sh.wait with
    | .bsyncDone _ _ => { g with pc := pc + 4 }
    | .waitaDone => { g with pc := pc + 4 }
    | x => { g with wait := x }
  else g

/-- The register that a sleep which came to its end during the handler writes. -/
def sleepResult (sh : Shadow) (pc : DWord) (w : Wave) : Wave :=
  match sh.wait with
  | .bsyncDone p sd => if pc = sh.pcEntry then wrS w sd (p.setWidth 32) else w
  | _ => w

/-- The registers, privilege, strips and operations that a return restores: `s1` to `s15` and the flags from the shadow,
the strips set aside, and the pc given. -/
def leaveTrap (w : Wave) (b : Bool) (f : Frag) (pc : DWord) : Wave :=
  let sh := w.shadow
  let regs := sh.regs.filter (fun e => decide (e.1 < 16)) ++ w.sregs.filter (fun e => decide (16 ≤ e.1))
  let w1 := { w with priv := .u, sregs := regs, strips := sh.strips, headOff := sh.headOff, lstop := sh.lstop,
                     fenceR := sh.fenceR, fenceW := sh.fenceW, late := sh.late, ops := sh.ops, trap := .none, shadow := Shadow.zero }
  putFrag (sleepResult sh pc w1) b (some (resumed sh f pc))

/-! ## Accesses of scalar words (R189, R190) -/

/-- The wave of a slot yields for a page (R167, R296). -/
def yieldPage (s : State) (core slot ctx page : Nat) : State :=
  batchMiss (modWave s core slot (fun w => if w.yieldOn.contains page then w else { w with yieldOn := w.yieldOn ++ [page] }))
    (waveUnit core slot) page ctx

/-- The wave of a slot yields for a claimed page (R301). -/
def yieldOnClaim (s : State) (core slot vpn : Nat) : State :=
  modWave s core slot (fun w => if w.yieldClaim.contains vpn then w else { w with yieldClaim := w.yieldClaim ++ [vpn] })

/-- One access of a scalar word to `n` bytes, which may claim its line (R259, R284): it goes on with the state and the key, traps, yields
or waits. -/
def sAccessAs (claim : Bool) (s : State) (w : Wave) (f : Frag) (va : DWord) (n : Nat) (k : AccKind) (yes : State → Nat → Out) : Out :=
  let ctx := ctxIdOf s w.gid
  match access s w.core w.slot ctx w.priv va.toNat n k claim with
  | (t, .ok key) => yes t key
  | (t, .fault c) =>
    trapS (if c = .reservedTouch then claimPage t ctx (va.toNat / 65536) w.core w.slot else t) w f c va
  | (t, .miss page) =>
    .next (yieldPage (putWave t (putFrag w s.cur.b (some { f with wait := .pageMiss page }))) w.core w.slot ctx page)
  | (t, .claimed vpn) =>
    .next (yieldOnClaim (putWave t (putFrag w s.cur.b (some { f with wait := .pageMiss vpn }))) w.core w.slot vpn)
  | (t, .wait) => blocked t w f .access
  | (_, .hole) => .fault .physicalHole

/-- One access of a scalar word. -/
def sAccess (s : State) (w : Wave) (f : Frag) (va : DWord) (n : Nat) (k : AccKind) (yes : State → Nat → Out) : Out :=
  sAccessAs false s w f va n k yes

/-- A scalar word reads `n` bytes as a number. -/
def sRead (s : State) (w : Wave) (f : Frag) (va : DWord) (n : Nat) (yes : State → Nat → Out) : Out :=
  sAccess s w f va n .read (fun t key => yes t (ofBytes (loadBytes t w.core key n)))

/-- A scalar word writes `n` bytes. -/
def sWrite (s : State) (w : Wave) (f : Frag) (va : DWord) (n x : Nat) (yes : State → Out) : Out :=
  sAccess s w f va n .write (fun t key => yes (storeBytes t w.core key (toBytes n x)))

/-- A scalar word reads and writes `n` bytes at once (an atomic access at the home). -/
def sUpdate (s : State) (w : Wave) (f : Frag) (va : DWord) (n : Nat) (yes : State → Nat → Out) : Out :=
  sAccess s w f va n .update yes

/-- A stored word of memory at a key, or of the core's own halo copy. -/
def storeNum (s : State) (core key n x : Nat) : State := storeBytes s core key (toBytes n x)

/-- The wave stored, made an atomic access, commanded an engine or arrived at a barrier: its spin count returns to 0
(R169). -/
def acted (s : State) (w : Wave) : Wave := spinReset s w

end Sys2Proof.Machine
end

