-- ==== Sys2Proof/Machine/Operands.lean ====
section
/-! DEFINITION. Machine/Operands.lean: the L-stream: operands of a lane word (R33, R166, R175, R191, R209), the writing of
results (R164 to R166), strips and stop marks (R165), and lane operations with their replay records (R255 to R257). -/

namespace Sys2Proof.Machine

/-! ## Registers of lanes -/

/-- Element of register `r` in lane `l`, as written. -/
def rdElem (w : Wave) (r l : Nat) : Word := laneGet (Tab.get 0 w.vregs r) l

/-- Write an element. -/
def wrElem (w : Wave) (r l : Nat) (x : Word) : Wave := { w with vregs := Tab.set 0 w.vregs r (laneSet (Tab.get 0 w.vregs r) l x) }

/-- Write a bit of a mask other than `m0`. -/
def wrMaskBit (w : Wave) (n l : Nat) (x : Bool) : Wave := wrM w n (setBit (Tab.get 0 w.masks n) l x)

/-- Apply a register write. -/
def applyWrite (w : Wave) (x : RegWrite) : Wave :=
  match x with
  | .v r l v => wrElem w r l v
  | .m n l b => wrMaskBit w n l b
  | .s r v => wrS w r v

/-- Apply register writes in order. -/
def applyWrites (w : Wave) (l : List RegWrite) : Wave := l.foldl applyWrite w

/-- The values that unsettled operations will write to an element (R166). -/
def pendingElem (w : Wave) (r l : Nat) : List Word :=
  w.ops.flatMap (fun o => o.res.filterMap (fun x => match x with
    | .v r' l' v => if r' = r ∧ l' = l then some v else none
    | _ => none))

/-- An element as a lane word reads it: with unsettled writes, its old value or one of theirs (R166). -/
def rdV (s : State) (w : Wave) (r l : Nat) : Word :=
  match pendingElem w r l with
  | [] => rdElem w r l
  | v :: rest =>
    let all := rdElem w r l :: v :: rest
    all.getD ((Config.freeWord (freeIdx s (2 ^ 40 + r * 32 + l))).toNat % all.length) (rdElem w r l)

/-- The values that unsettled operations will write to a bit of a mask (R166). -/
def pendingBit (w : Wave) (n l : Nat) : List Bool :=
  w.ops.flatMap (fun o => o.res.filterMap (fun x => match x with
    | .m n' l' v => if n' = n ∧ l' = l then some v else none
    | _ => none))

/-- A mask as a lane word reads it: with unsettled writes of a bit, its old value or one of theirs (R166). -/
def rdLaneM (s : State) (w : Wave) (f : Frag) (n : Nat) : Word :=
  let old := rdM w f n
  if n = 0 ∨ !(w.ops.any (fun o => o.res.any (fun x => match x with | .m n' _ _ => n' == n | _ => false))) then old
  else
    maskOf ((List.range 32).filter (fun l =>
      let all := old.getLsbD l :: pendingBit w n l
      all.getD ((Config.freeWord (freeIdx s (2 ^ 42 + n * 32 + l))).toNat % all.length) (old.getLsbD l)))

/-- A 64-bit element pair. -/
def rdVP (s : State) (w : Wave) (r l : Nat) : Nat := (rdV s w r l).toNat + 2 ^ 32 * (rdV s w (r + 1) l).toNat

/-- The register writes of a result of a type: extended as R51 and R53 state, a pair for 64 bits. -/
def elemWrites (t : LType) (r l x : Nat) : List RegWrite :=
  if is64 t then [.v r l (BitVec.ofNat 32 x), .v (r + 1) l (BitVec.ofNat 32 (x / 2 ^ 32))]
  else if isSigned t then [.v r l (BitVec.ofInt 32 (sgn (ltypeBits t) x))]
  else [.v r l (BitVec.ofNat 32 (x % 2 ^ ltypeBits t))]

/-- Where a write goes. -/
def sameDest (a b : RegWrite) : Bool :=
  match a, b with
  | .v r l _, .v r' l' _ => r == r' && l == l'
  | .m n l _, .m n' l' _ => n == n' && l == l'
  | .s r _, .s r' _ => r == r'
  | _, _ => false

/-- A fixed-latency write over an unsettled one: the element ends with either value (R166). -/
def fixedWrite (s : State) (w : Wave) (k : Nat) (x : RegWrite) : Wave :=
  let pend := w.ops.any (fun o => o.res.any (sameDest x))
  if pend && Config.freeBool (freeIdx s (2 ^ 41 + k)) then applyWrite w x
  else applyWrite { w with ops := w.ops.map (fun o => { o with res := o.res.filter (fun y => !sameDest x y) }) } x

/-- Fixed-latency writes in order. -/
def fixedWrites (s : State) (w : Wave) (l : List RegWrite) : Wave :=
  (l.zip (List.range l.length)).foldl (fun v p => fixedWrite s v p.2 p.1) w

/-! ## Operands (R33, R175, R191, R209) -/

/-- The immediate as a type reads it (R33). -/
def immOf (t : LType) (imm : Word) : Nat :=
  match t with
  | .i64 => low 64 imm.toInt
  | .f64 => roundF .f64 0 false (readF .f32 imm.toNat)
  | .f16 => roundF .f16 0 false (readF .f32 imm.toNat)
  | .bf16 => roundF .bf16 0 false (readF .f32 imm.toNat)
  | _ => imm.toNat % 2 ^ ltypeBits t

/-- A vector popped from a feed: element `l` of 64 bits. -/
def feedElem (v : FeedVec) (l : Nat) : Nat := ((v.data >>> (64 * l)).setWidth 64 : BitVec 64).toNat

/-- An operand source resolved at issue: a register, one value for all lanes, or a feed's vector. -/
inductive Src where
  | reg (r : Nat)
  | all (x : Nat)
  | vec (v : FeedVec)
  deriving DecidableEq, Repr

/-- The value of a source in a lane, over a type's width. -/
def srcAt (s : State) (w : Wave) (t : LType) (x : Src) (l : Nat) : Nat :=
  match x with
  | .reg r => if is64 t then rdVP s w r l else (rdV s w r l).toNat % 2 ^ ltypeBits t
  | .all x => x % 2 ^ ltypeBits t
  | .vec v => feedElem v l % 2 ^ ltypeBits t

/-- The source a field names; `pops` counts the earlier operands of the word that name the same feed. -/
def srcOf (w : Wave) (t : LType) (sel : Sel) (f : BitVec 8) (imm : Word) (pops : Nat) : Src :=
  match sel with
  | .reg => .reg f.toNat
  | .scalar => .all (if is64 t then (rdP w f.toNat).toNat else (rdS w f.toNat).toNat)
  | .imm => .all (immOf t imm)
  | .feed =>
    let fd := feedOf w f.toNat
    .vec (fd.buf.getD pops { data := 0, fault := none })

/-- A feed after `n` pops (R175): vectors leave the buffer; a pop past the end sets underflow. -/
def popFeed (f : Feed) (n : Nat) : Feed :=
  let k := min n f.remaining.toNat
  let live := f.run
  { f with buf := f.buf.drop n
           nextAddr := if live then f.nextAddr + BitVec.ofInt 64 ((k : Int) * f.stride.toInt) else f.nextAddr
           remaining := if live then f.remaining - BitVec.ofNat 32 k else f.remaining
           run := live && decide (k < f.remaining.toNat)
           underflow := f.underflow || !live || decide (f.remaining.toNat < n) }

/-- Pops the word makes of a feed. -/
def popsOf (feeds : List Nat) (f : Nat) : Nat := (feeds.filter (· == f)).length

/-- The vectors a word pops are buffered, or the feed has none left (R175). -/
def feedReady (w : Wave) (feeds : List Nat) : Bool :=
  feeds.all (fun f =>
    let fd := feedOf w f
    !fd.run || decide (min (popsOf feeds f) fd.remaining.toNat ≤ fd.buf.length))

/-- The first fault of the vectors a word pops (R175). -/
def feedFault (w : Wave) (feeds : List Nat) : Option (Cause × DWord) :=
  feeds.findSome? (fun f => ((feedOf w f).buf.take (popsOf feeds f)).findSome? (·.fault))

/-- The wave after the pops of a word. -/
def popFeeds (w : Wave) (feeds : List Nat) : Wave :=
  (List.range 4).foldl (fun v f => if feeds.contains f then putFeed v f (popFeed (feedOf v f) (popsOf feeds f)) else v) w

/-! ## Strips (R160, R165) -/

/-- `TRAPINFO` of a lane word: strip, offset, slot (R355). -/
def laneInfo (lcidx : BitVec 18) (off : Nat) (b : Bool) : Word :=
  BitVec.ofNat 32 (lcidx.toNat + off * 2 ^ 18 + (if b then 2 ^ 26 else 0))

/-- A lane-stream trap, in the fragment of the strip. -/
def raiseLane (s : State) (core slot : Nat) (k : TrapKind) (c : Cause) (unit : Nat) (mask : Word) (addr : DWord)
    (info : Word) (b : Bool) : State :=
  raiseTrap s core slot { kind := k, cause := c, unit := unit, mask := mask, addr := addr, info := info, pc := 0, b := b }

/-- Rank of a lane fault (R255). -/
def faultRank : Cause → Nat
  | .misalign => 1 | .unmapped => 2 | .protect => 3 | .reservedTouch => 4 | .rangeLocked => 5 | .haloWrite => 6
  | .accBusy => 7 | .accSpillFull => 8 | .peerGone => 9 | .fogged => 10 | .linkDown => 11 | .softError => 12
  | .layerPool => 13 | _ => 0

/-- The first-ranked cause among an operation's faulting lanes. -/
def firstCause : List (Nat × Cause × DWord) → Option Cause
  | [] => none
  | f :: rest =>
    match firstCause rest with
    | none => some f.2.1
    | some c => if faultRank f.2.1 ≤ faultRank c then some f.2.1 else some c

/-- The unit of a lane word's trap (R115, R355). -/
def unitOf (i : Instr) : Nat :=
  match i with
  | .trace _ | .traceq _ | .hitget _ | .primemit _ => 3
  | .sample _ | .samplel _ | .sampleg _ | .texld _ | .texst _ => 2
  | .lyins _ | .lyread _ | .lyresolve _ | .lyclear _ => 6
  | _ => 0

/-- Take the trap of the earliest faulting operation (R255). -/
def laneFaultTrap (s : State) (core slot : Nat) (o : LaneOp) : State :=
  match firstCause o.faults with
  | none => s
  | some c =>
    let hit := o.faults.filter (fun f => f.2.1 == c)
    let mask := maskOf (hit.map (·.1))
    let addr := ((hit.find? (fun f => f.1 == firstSet mask)).map (·.2.2)).getD 0
    raiseLane s core slot (.lane o.id) c (unitOf o.word) mask addr (laneInfo o.lcidx o.off o.b) o.b

/-- Fragments that waited on the strip queue may issue again. -/
def wakeStrips (w : Wave) : Wave :=
  mapFrags w (fun f => match f.wait with
    | .strips => { f with wait := .none }
    | .queueFull => { f with wait := .none }
    | .interlock => { f with wait := .none }
    | _ => f)

/-- The wave `new`, its spin count back at 0 if a scalar register or a mask of `old` has changed (R169). -/
def spinIf (s : State) (old new : Wave) : Wave :=
  if old.sregs != new.sregs || old.masks != new.masks then spinReset s new else new

/-- The stop mark or strip end takes effect once every outstanding operation has settled: the earliest fault traps, else
the L-stream passes and a strip at its end retires (R165, R255, R356). -/
def lstopCheck (s : State) (core slot : Nat) : State :=
  match waveAt s core slot with
  | none => s
  | some w =>
    if !w.lstop || w.ops.any (fun o => !o.settled) then s
    else
      match w.ops with
      | o :: _ => laneFaultTrap s core slot o
      | [] =>
        match w.strips with
        | [] => putWave s { w with lstop := false }
        | t :: rest =>
          if t.len ≤ w.headOff then
            let w' := { w with lstop := false, strips := rest, headOff := 0, fenceR := w.fenceR - 1, fenceW := w.fenceW - 1, late := [] }
            -- what stands before a fence has performed (R100)
            let u := if w.fenceW = 0 then s else fabDrain s core slot
            tryEnter (putWave u (wakeStrips (spinIf s w (applyWrites w' w.late)))) core slot
          else putWave s { w with lstop := false }

/-- A lane word has issued: the next one follows, or the L-stream parks at the stop mark or strip end (R165). -/
def laneDone (s : State) (core slot : Nat) (stop : Bool) : State :=
  match waveAt s core slot with
  | none => s
  | some w =>
    let last := match w.strips with
      | [] => true
      | t :: _ => decide (t.len ≤ w.headOff + 1)
    lstopCheck (putWave s { w with headOff := w.headOff + 1, lstop := w.lstop || stop || last }) core slot

/-! ## Issuing a lane word -/

/-- The meaning of a lane word over its wave, its strip and the lanes that are active: `m0` and guard (R5, R160). -/
def onLane (s : State) (guard : Nat) (k : Wave → Strip → Frag → Word → Out) : Out :=
  match waveAt s s.cur.core s.cur.slot with
  | none => .next s
  | some w =>
    match w.strips with
    | [] => .next s
    | t :: _ =>
      match fragOf w t.b with
      | none => .next s
      | some f => k w t f (f.m0 &&& rdLaneM s w f guard)

/-- Pop the word's feeds: it does not issue until they are buffered, and a faulting vector traps (R175). -/
def withFeeds (s : State) (w : Wave) (t : Strip) (act : Word) (feeds : List Nat) (k : Wave → Out) : Out :=
  if !feedReady w feeds then .next s
  else
    match feedFault w feeds with
    | none => k (popFeeds w feeds)
    | some (c, a) =>
      if w.ops ≠ [] then .next (lstopCheck (putWave s { w with lstop := true }) w.core w.slot)
      else .next (raiseLane s w.core w.slot .feedPop c 0 act a (laneInfo t.lcidx w.headOff t.b) t.b)

/-- A run-time `ILLEGAL` of a lane word (R41): once earlier operations have settled. -/
def illegalL (s : State) (w : Wave) (t : Strip) (act : Word) : Out :=
  if w.ops ≠ [] then .next (lstopCheck (putWave s { w with lstop := true }) w.core w.slot)
  else .next (raiseLane s w.core w.slot .laneFetch .illegal 0 act 0 (laneInfo t.lcidx w.headOff t.b) t.b)

/-- A fixed-latency word: its results are written at once (R164). -/
def fixedWord (s : State) (w : Wave) (stop : Bool) (ws : List RegWrite) : Out :=
  .next (laneDone (putWave s (spinIf s w (fixedWrites s w ws))) w.core w.slot stop)

/-! ## Variable-latency operations (R164, R255 to R257) -/

/-- How one lane of an operation comes out. -/
inductive LaneRes where
  | ok (ws : List RegWrite)
  | fault (c : Cause) (addr : DWord)
  | miss (page : Nat)
  | claimed (vpn : Nat)
  | wait
  | hole
  deriving DecidableEq, Repr

/-- How a lane of an operation performs. -/
abbrev Performer := LaneOp → Nat → State → State × LaneRes

/-- Lanes of an operation neither performed nor faulted. -/
def undone (o : LaneOp) : Word := o.active &&& ~~~o.done &&& ~~~(maskOf (o.faults.map (·.1)))

/-- What a run of lanes has met: pages missed, pages claimed by another wave, and a hole in memory. -/
structure RunRes where
  s : State
  o : LaneOp
  misses : List Nat
  claims : List Nat
  hole : Bool
  deriving DecidableEq, Repr

/-- Perform one lane. -/
def runLane (p : Performer) (r : RunRes) (l : Nat) : RunRes :=
  match p r.o l r.s with
  | (t, .ok ws) => { r with s := t, o := { r.o with done := r.o.done ||| maskOf [l], res := r.o.res ++ ws } }
  | (t, .fault c a) => { r with s := t, o := { r.o with faults := r.o.faults ++ [(l, c, a)] } }
  | (t, .miss pg) => { r with s := t, misses := r.misses ++ [pg] }
  | (t, .claimed v) => { r with s := t, claims := r.claims ++ [v] }
  | (t, .wait) => { r with s := t }
  | (t, .hole) => { r with s := t, hole := true }

/-! ## The order of a stream's accesses (R88, R100, R234, R254) -/

/-- What a lane word does to memory: a read under R83 is apart, a read-modify-write an `update`, a commutative update `comm` (R83, R87). -/
inductive LaneAcc where
  | none | look | read | write | update | comm
  deriving DecidableEq, Repr

/-- The access of a lane word. -/
def laneAcc (i : Instr) : LaneAcc :=
  match i with
  | .ld _ | .lds _ | .vmm _ | .accpeek _ | .lyread _ | .lyresolve _ => .read
  | .st _ | .sts _ | .texst _ | .primemit _ | .lyclear _ => .write
  | .atom _ | .atoms _ | .lyins _ => .update
  | .red w => if w.order = .comm then .comm else .update
  | .accred _ => .comm
  | .trace _ | .traceq _ | .sample _ | .samplel _ | .sampleg _ | .texld _ => .look
  | _ => .none

/-- The order of a lane word's access (R36). -/
def laneOrder (i : Instr) : LOrder :=
  match lxView i with
  | some (_, w) => w.order
  | none => .rlx

/-- A lane word is a release; `TRAYPUT` is one of the stores before it (R234). -/
def laneRel (i : Instr) : Bool :=
  match i with
  | .trayput _ => true
  | _ => laneOrder i == .rel || laneOrder i == .ar

/-- A lane word is an acquire. -/
def laneAcq (i : Instr) : Bool := laneOrder i == .acq || laneOrder i == .ar

/-- A lane word is a release at `.clus` or wider, before which its core pushes its halo lines (R287). -/
def lanePushFirst (i : Instr) : Bool :=
  match i with
  | .trayput _ => true
  | _ =>
    match lxView i with
    | some (_, w) => laneRel i && w.scope != .wave && w.scope != .group
    | none => false

/-- A lane word is a release at `.fab` or `.sys`. -/
def laneFabRel (i : Instr) : Bool :=
  match lxView i with
  | some (_, w) => laneRel i && (w.scope == .fab || w.scope == .sys)
  | none => false

/-- Bytes of one lane's access, and whether they lie in scratch; none where a descriptor says which bytes. -/
def laneSpan (i : Instr) : Option (Nat × Bool) :=
  match i with
  | .ld w | .atom w | .red w | .accred w | .accpeek w => some (ltypeBits w.ty / 8, false)
  | .st w => some (if w.claim then 128 else ltypeBits w.ty / 8, false)
  | .lds w | .sts w | .atoms w => some (ltypeBits w.ty / 8, true)
  | _ => none

/-- Two operations may access one byte: within 64 KiB their addresses meet, which every two names of one byte do (R80). -/
def mayOverlap (a b : LaneOp) : Bool :=
  match laneSpan a.word, laneSpan b.word with
  | some (n, x), some (m, y) =>
    x == y && (lanesOf (undone a)).any (fun i => (lanesOf b.active).any (fun j =>
      let p := (Tab.get 0 a.addrs i).toNat % 65536
      let q := (Tab.get 0 b.addrs j).toNat % 65536
      decide (p < q + m) && decide (q < p + n)))
  | _, _ => true

/-- The packages that home what an operation accesses, by agent (R88); `none` stands for one that is not known. -/
def opHomes (s : State) (w : Wave) (o : LaneOp) : List (Option Nat) :=
  match laneSpan o.word with
  | some (_, false) => (lanesOf o.active).map (fun l =>
      (devKey s (ctxIdOf s w.gid) w.priv (Tab.get 0 o.addrs l).toNat .look).map (· / 2 ^ 52))
  | some (_, true) => [some 0]
  | none => [none]

/-- Some location of each operation may be homed in one package. -/
def oneHome (s : State) (w : Wave) (a b : LaneOp) : Bool :=
  (opHomes s w a).any (fun x => (opHomes s w b).any (fun y => x.isNone || y.isNone || x == y))

/-- An `MMA` word of the list will flush a tile that differs from the one before it (R334); `prev` is the tile held. -/
def wordFlushes (prev : Option (DWord × DWord)) (id : Nat) : List TeamWord → Bool
  | [] => false
  | .mma k _ _ tile fmt _ flush _ _ _ :: rest =>
    if k = id then flush || (prev.isSome && prev != some (tile, fmt)) else wordFlushes (some (tile, fmt)) id rest
  | .mloop _ :: rest => wordFlushes (some (0, 0)) id rest

/-- The operation is an `MMA` that has still to flush (R97). -/
def flushPending (s : State) (w : Wave) (o : LaneOp) : Bool :=
  match o.word with
  | .mma _ =>
    !o.settled && o.done != o.active && (match teamOf s w.core w.gid (teamIdxOf w) with
      | none => false
      | some t => t.members.any (fun m => m.wave == w.ident.waveid.toNat
          && wordFlushes (if t.steps = 0 then none else some (t.tile, t.fmtAddr)) o.id m.words))
  | _ => false

/-- Lanes of an earlier operation have not performed; lanes that have faulted hold nothing back (log 16). -/
def laneStalled (o : LaneOp) : Bool :=
  match o.word with
  | .mma _ => false
  | _ => undone o != 0

/-- What a release waits for: lanes not performed, partials in flight, a flush still to come (R97, R254). -/
def unperformed (s : State) (w : Wave) (o : LaneOp) : Bool :=
  laneStalled o || flushPending s w o || (match o.word with | .mma _ => false | _ => o.pendingAnswers != 0)

/-- The rows of R88 that hold a later operation behind an earlier one of its stream. -/
def holdsBack (s : State) (w : Wave) (a b : LaneOp) : Bool :=
  let ka := laneAcc a.word
  let kb := laneAcc b.word
  (laneRel b.word && unperformed s w a)
    || (laneStalled a && ((laneRel a.word && laneAcq b.word)
      || (ka != .none && kb != .none && (
        (ka != .comm && ka != .look && kb != .look && mayOverlap a b)
          || ((ka == .read || ka == .look || ka == .update) && (kb == .write || kb == .update || kb == .comm))
          || ((ka == .write || ka == .update) && (kb == .write || kb == .update) && oneHome s w a b)))))

/-- Before an operation performs: it waits behind earlier ones of its stream, and a release for its core's push and for its
wave's fabric reductions (R88, R100, R287); true while it waits. -/
def orderStep (s : State) (core slot : Nat) (o : LaneOp) : State × Bool :=
  match waveAt s core slot with
  | none => (s, false)
  | some w =>
    if (w.ops.takeWhile (fun a => a.id != o.id)).any (fun a => holdsBack s w a o) then (s, true)
    else
      match pushStep s core (lanePushFirst o.word) with
      | (t, true) => (t, true)
      | (t, false) => (if laneFabRel o.word then fabDrain t core slot else t, false)

/-- Perform every undone lane, ascending. -/
def runLanes (p : Performer) (s : State) (o : LaneOp) : RunRes :=
  (lanesOf (undone o)).foldl (runLane p) { s := s, o := { o with misses := [] }, misses := [], claims := [], hole := false }

/-- Perform what the order of the stream lets an operation perform. -/
def performOp (p : Performer) (s : State) (core slot : Nat) (o : LaneOp) : RunRes :=
  let q := orderStep s core slot o
  if q.2 then { s := q.1, o := { o with misses := [] }, misses := [], claims := [], hole := false } else runLanes p q.1 o

/-- Put an operation back into its wave, with the pages it waits for (R167, R257, R296, R301). -/
def keepRun (r : RunRes) (core slot : Nat) : State :=
  let sent := (r.s.partials.filter (fun p => p.core == core && p.slot == slot && p.opId == r.o.id)).length
  let o := match r.o.word with
    | .accred _ => { r.o with misses := r.misses, pendingAnswers := sent }
    | _ => { r.o with misses := r.misses }
  let s1 := modWave r.s core slot (fun w =>
    { w with ops := if w.ops.any (fun x => x.id == o.id) then w.ops.map (fun x => if x.id == o.id then o else x) else w.ops ++ [o]
             trap := if o.faults ≠ [] && w.trap == .none then .pending else w.trap })
  let ctx := match waveAt s1 core slot with
    | some w => ctxIdOf s1 w.gid
    | none => 0
  let s2 := o.faults.foldl (fun t f => if f.2.1 = .reservedTouch then claimPage t ctx (f.2.2.toNat / 65536) core slot else t) s1
  r.claims.foldl (fun t v => yieldOnClaim t core slot v) (r.misses.foldl (fun t pg => yieldPage t core slot ctx pg) s2)

/-- A new operation of the head strip's word, with its lanes still to perform. -/
def newOp (w : Wave) (t : Strip) (i : Instr) (act : Word) (addrs : Map DWord) (data : Map Word) : LaneOp :=
  { id := w.nextOp, stamp := 0, word := i, lcidx := t.lcidx, off := w.headOff, b := t.b, active := act, done := 0, faults := [],
    addrs := addrs, data := data, misses := [], pendingAnswers := 0, res := [], settled := false }

/-- The wave with an operation that issues now. -/
def opIssued (s : State) (w : Wave) (o : LaneOp) : State :=
  putWave (nextStamp s) { w with nextOp := w.nextOp + 1, ops := w.ops ++ [{ o with stamp := s.stamp }] }

/-- Issue an operation: its lanes perform as far as they can; it stays outstanding until it settles. A store, an atomic or a `RED`
ends a spin (R169). -/
def issueOp (p : Performer) (s : State) (w : Wave) (stop : Bool) (o : LaneOp) : Out :=
  let acts := match laneAcc o.word with
    | .write | .update | .comm => true
    | _ => false
  let r := performOp p (opIssued s (if acts then spinReset s w else w) o) w.core w.slot { o with stamp := s.stamp }
  if r.hole then .fault .physicalHole
  else .next (laneDone (keepRun r w.core w.slot) w.core w.slot stop)

/-- An operation may settle: every lane is performed or has its fault recorded, and no answer is outstanding (R164). -/
def canSettle (o : LaneOp) : Bool := undone o == 0 && o.pendingAnswers == 0

/-- A write of `VREADL`. -/
def isScalarWrite (x : RegWrite) : Bool :=
  match x with
  | .s _ _ => true
  | _ => false

/-- An operation settles: its results are written; it stays on record while lanes of it have faulted (R165, R255). -/
def settleOp (s : State) (core slot id : Nat) : State :=
  match waveAt s core slot with
  | none => s
  | some w =>
    match w.ops.find? (fun o => o.id == id) with
    | none => s
    | some o =>
      if o.settled || !canSettle o then s
      else
        let o' := { o with settled := true, res := [] }
        let ops := w.ops.filterMap (fun x => if x.id == id then (if o.faults = [] then none else some o') else some x)
        let late := o.res.filter isScalarWrite
        let now := o.res.filter (fun x => !isScalarWrite x)
        lstopCheck (putWave s (spinIf s w (applyWrites { w with ops := ops, late := w.late ++ late } now))) core slot

/-- The words of the special-function pipe (R214). -/
def pipeWord (i : Instr) : Bool :=
  match i with
  | .frcp _ | .frsq _ | .fsqrt _ | .fexp2 _ | .flog2 _ | .fsin _ | .fcos _ | .ftanh _ | .fdiv _ => true
  | _ => false

/-- The words that a partition's special-function pipe holds: those of its waves that have not settled (R214). -/
def pipeOps (s : State) (core part : Nat) : List LaneOp :=
  s.waves.flatMap (fun e =>
    if e.2.core == core && partOf e.2.slot == part then e.2.ops.filter (fun o => !o.settled && pipeWord o.word) else [])

/-- A word stands behind another one in its pipe, which takes words in issue order (R214). -/
def pipeBehind (s : State) (core slot : Nat) (o : LaneOp) : Bool :=
  pipeWord o.word && (pipeOps s core (partOf slot)).any (fun p => decide (p.stamp < o.stamp))

/-- The pipe has no room for one more word: it runs one, and 15 wait (R214). -/
def pipeFull (s : State) (w : Wave) (i : Instr) : Bool := pipeWord i && decide (16 ≤ (pipeOps s w.core (partOf w.slot)).length)

/-- The words that the Finder takes in ray mode (R368). -/
def finderWord (i : Instr) : Bool :=
  match i with
  | .trace _ | .traceq _ | .hitget _ => true
  | _ => false

/-- A core's Finder has no room for one more word: it has one in work, and 8 wait (R368; log 16). -/
def finderFull (s : State) (core : Nat) (i : Instr) : Bool :=
  finderWord i && decide (9 ≤ (s.waves.foldl (fun n e =>
    if e.2.core = core then n + (e.2.ops.filter (fun o => !o.settled && finderWord o.word)).length else n) 0))

/-- An operation whose results are known at issue: every active lane is done, and with none it settles at once (R214). -/
def issueDone (s : State) (w : Wave) (stop : Bool) (o : LaneOp) (res : List RegWrite) : Out :=
  let t := opIssued s w { o with done := o.active, res := res }
  .next (laneDone (if o.active = 0 then settleOp t w.core w.slot o.id else t) w.core w.slot stop)

/-! ## Captured operands of an operation (R360) -/

/-- Key of an operand word: register slot `j` of lane `l`. -/
def dataKey (j l : Nat) : Nat := 64 * j + l

/-- Operand word `j` of a lane. -/
def opData (o : LaneOp) (j l : Nat) : Word := Tab.get 0 o.data (dataKey j l)

/-- Address of a lane. -/
def opAddr (o : LaneOp) (l : Nat) : DWord := Tab.get 0 o.addrs l

/-- Capture `n` registers from `r` of the given lanes as operand words `j` on. -/
def capture (s : State) (w : Wave) (act : Word) (r n j : Nat) (m : Map Word) : Map Word :=
  (lanesOf act).foldl (fun m l => (List.range n).foldl (fun m i => Tab.set 0 m (dataKey (j + i) l) (rdV s w (r + i) l)) m) m

end Sys2Proof.Machine
end

