-- ==== Sys2Proof/Machine/Fetch.lean ====
section
/-! DEFINITION. Machine/Fetch.lean: the fetch of scalar and lane words (R48, R160, R184), the bounds of R41 and the
hold-backs of R161 to R164, R208 and R433. -/

namespace Sys2Proof.Machine

/-! ## Fetch -/

/-- How a fetch comes out. -/
inductive FetchRes where
  | ok (i : Instr)
  | illegal
  | fault (c : Cause) (addr : DWord)
  | miss (page : Nat)
  | claimed (vpn : Nat)
  | wait
  | hole
  deriving DecidableEq, Repr

/-- Bytes fetched at an address that is a multiple of 4, four at a time: each aligned part is one access, and after a store to a kernel image
it holds the new bytes (DESIGN CHOICE, log 16: R83 allows the old ones too). -/
def fetchParts (s : State) (w : Wave) (va : Nat) : Nat → State × Except FetchRes (List Byte)
  | 0 => (s, .ok [])
  | n + 1 =>
    match access s w.core w.slot (ctxIdOf s w.gid) w.priv va 4 .fetch false with
    | (t, .ok key) =>
      match fetchParts t w (va + 4) n with
      | (u, .ok l) => (u, .ok (lookBytes t key 4 ++ l))
      | r => r
    | (t, .fault c) => (t, .error (.fault c (BitVec.ofNat 64 va)))
    | (t, .miss pg) => (t, .error (.miss pg))
    | (t, .claimed v) => (t, .error (.claimed v))
    | (t, .wait) => (t, .error .wait)
    | (t, .hole) => (t, .error .hole)

/-- The scalar word of a fragment: its second word is fetched only for `SLI` (R25). -/
def fetchScalar (s : State) (w : Wave) (f : Frag) : State × FetchRes :=
  if f.pc.toNat % 4 ≠ 0 then (s, .fault .misalign f.pc)
  else
    match fetchParts s w f.pc.toNat 1 with
    | (t, .error r) => (t, r)
    | (t, .ok l) =>
      let more := if numOf l / 2 ^ 26 = 0x3E then fetchParts t w (f.pc.toNat + 4) 1 else (t, .ok [])
      match more with
      | (u, .error r) => (u, r)
      | (u, .ok l2) =>
        match decodeScalarBytes (l ++ l2) with
        | .ok i => (u, .ok i)
        | .error _ => (u, .illegal)

/-- Address of a strip's word (R48). -/
def laneAddr (w : Wave) (t : Strip) (off : Nat) : Nat := (w.lcbase.toNat + 12 * (t.lcidx.toNat + off)) % 2 ^ 64

/-- The lane word at an offset of a strip. -/
def fetchLane (s : State) (w : Wave) (t : Strip) (off : Nat) : State × FetchRes :=
  match fetchParts s w (laneAddr w t off) 3 with
  | (u, .error (.fault c a)) => (u, .fault c (BitVec.ofNat 64 (a.toNat / 128 * 128)))
  | (u, .error r) => (u, r)
  | (u, .ok l) =>
    match decodeLaneBytes l with
    | .ok i => (u, .ok i)
    | .error _ => (u, .illegal)

/-! ## What queued strips name -/

/-- Bytes of code as memory holds them, which may cross one page boundary, without any effect (R291: with execute permission). -/
def peekCode (s : State) (w : Wave) (va n : Nat) : Option Nat :=
  let ctx := ctxIdOf s w.gid
  let n1 := min n (65536 - va % 65536)
  match devKey s ctx w.priv va .fetch with
  | none => none
  | some k =>
    if n1 = n then some (ofBytes (lookBytes s k n))
    else (devKey s ctx w.priv (va + n1) .fetch).map (fun k2 => ofBytes (lookBytes s k n1) + 2 ^ (8 * n1) * ofBytes (lookBytes s k2 (n - n1)))

/-- The word at an offset of a queued strip; none where it does not decode, and no answer where it cannot be read. -/
def peekWord (s : State) (w : Wave) (t : Strip) (off : Nat) : Option (Option Instr) :=
  (peekCode s w (laneAddr w t off) 12).map (fun n =>
    match decodeLaneBytes (bytesOf 12 n) with
    | .ok i => some i
    | .error _ => none)

/-- The word at an offset of a queued strip, if it is there to be read. -/
def peekLane (s : State) (w : Wave) (t : Strip) (off : Nat) : Option Instr := (peekWord s w t off).join

/-- What a lane word that cannot be read yet may name: everything. -/
def Use.any : Use :=
  { vr := [(0, 256)], vw := [(0, 256)], sr := [(0, 192)], sw := [(0, 192)], mr := List.range 16, mw := List.range 16, feeds := List.range 4 }

/-- What a word of a queued strip names: a word that does not decode names nothing. -/
def peekUse (s : State) (w : Wave) (t : Strip) (off : Nat) : Use :=
  match peekWord s w t off with
  | none => Use.any
  | some none => Use.none
  | some (some i) => useOf i

/-- What the words of a strip from an offset on name. -/
def stripUses (s : State) (w : Wave) (t : Strip) (off : Nat) : List Use :=
  (List.range (t.len - off)).map (fun i => peekUse s w t (off + i))

/-- Every word of every queued strip. -/
def queuedUses (s : State) (w : Wave) : List Use := w.strips.flatMap (fun t => stripUses s w t 0)

/-- Every word of a queued strip that has not issued. -/
def unissuedUses (s : State) (w : Wave) : List Use :=
  match w.strips with
  | [] => []
  | t :: rest => stripUses s w t w.headOff ++ rest.flatMap (fun t => stripUses s w t 0)

/-- Two register lists meet. -/
def meets (a b : List (Nat × Nat)) : Bool := a.any (fun p => b.any (fun q => decide (p.1 < q.1 + q.2) && decide (q.1 < p.1 + p.2)))

/-- A scalar word is held back by the strips enqueued before it (R161, R162): it would write a scalar register that a
word still reads, or read or write what a strip writes, or write a mask that a strip names. -/
def heldBack (s : State) (w : Wave) (u : Use) : Bool :=
  if w.strips = [] then false
  else
    let q := queuedUses s w
    (u.sw ≠ [] && (unissuedUses s w).any (fun x => meets u.sw x.sr))
      || q.any (fun x => meets (u.sw ++ u.sr) x.sw)
      || (u.mw ≠ [] && q.any (fun x => (x.mr ++ x.mw).any (fun m => u.mw.contains m)))
      || u.mr.any (fun m => m ≠ 0 && q.any (fun x => x.mw.contains m))

/-- Scalar words that read memory and do nothing else there. -/
def scalarReads (i : Instr) : Bool :=
  match i with
  | .sld _ _ _ | .sldk _ _ _ | .sldOrdered _ _ _ _ _ | .waita _ _ _ | .accwait _ _ | .pgquery _ _ => true
  | _ => false

/-- Scalar words that write memory, update it, command an engine or a unit, or arrive at a barrier. -/
def scalarWrites (i : Instr) : Bool :=
  match i with
  | .sst _ _ _ | .sstOrdered _ _ _ _ _ | .barr _ _ | .bsync _ _ | .barrx _ _ _ | .wake _ _ | .klaunch _ _ | .tspawn _ _
  | .tdec _ _ | .tadd _ _ _ | .mqsend _ _ | .mqrecv _ _ _ | .qpost _ _ | .xcopy _ _ _ | .xgather _ _ _ | .xscatter _ _ _
  | .xfill _ _ _ | .lycfg _ _ _ | .mloop _ _ _ | .accopen _ _ | .accdrain _ _ _ | .accabort _ _ | .pgmap _ _ _ _
  | .pgtake _ _ | .pgunmap _ _ _ | .pginv _ _ | .pgharvest _ _ | .pgmigrate _ _ | .csheet _ _ _ | .halodecl _ _
  | .halopush _ _ | .haloend _ _ | .lclaim _ _ => true
  | _ => false

/-- A `FENCE` holds the word back until the strips enqueued before the fence have retired (R88, R264). -/
def fenceHolds (w : Wave) (i : Instr) : Bool :=
  (scalarReads i && decide (0 < w.fenceR)) || (scalarWrites i && decide (0 < w.fenceW))

/-- `LRUN` and `LRUNX` of a strip that reads a scalar register which an earlier strip writes by `VREADL` (R208). -/
def stripHeld (s : State) (w : Wave) (t : Strip) : Bool :=
  if w.strips = [] then false
  else
    let q := queuedUses s w
    (stripUses s w t 0).any (fun u => q.any (fun x => meets u.sr x.sw))

/-! ## Holding back a lane word (R164, R433) -/

/-- Registers an unsettled `MMA` reads. -/
def mmaReads (w : Wave) : List (Nat × Nat) :=
  w.ops.flatMap (fun o => match o.word with
    | .mma _ => if o.settled || o.done == o.active then [] else (useOf o.word).vr
    | _ => [])

/-- A lane word of classes 4, 5 and 6. -/
def laneMemory (i : Instr) : Bool := (lxView i).isSome

/-- A lane word is held back behind an acquire that has not settled (R254); an `MMA`, whose flush may follow at once, also behind a read
that has not performed (R88). -/
def laneHeld (w : Wave) (i : Instr) : Bool :=
  let late (o : LaneOp) : Bool :=
    match i with
    | .mma _ => laneStalled o && (laneAcc o.word == .read || laneAcc o.word == .look || laneAcc o.word == .update)
    | _ => false
  laneMemory i && w.ops.any (fun o => !o.settled && (laneAcq o.word || late o))

/-- Bytes of a lane word's replay record (R360). -/
def recordBytes (i : Instr) : Nat :=
  match i with
  | .ld _ | .st _ | .lds _ | .sts _ | .atom _ | .atoms _ | .red _ | .accred _ | .accpeek _ | .vmm _ => 816
  | .sample _ | .samplel _ | .sampleg _ | .texld _ | .texst _ => 1072
  | .trace _ | .traceq _ => 12336
  | .lyins _ | .lyread _ | .lyresolve _ | .lyclear _ => 1072
  | _ => 0

/-- Bytes of the replay records a wave holds. -/
def heldRecords (w : Wave) : Nat :=
  (w.ops ++ w.shadow.ops).foldl (fun n o => n + recordBytes o.word) 0 + (if w.stack = [] then 0 else 16 + 16 * w.stack.length)
    + (if w.evqs = [] then 0 else 32 + 32 * w.evqs.foldl (fun a e => a + e.2.recs.length) 0) + (if w.priv = .u then 0 else 160)

/-- The word's record would pass the bound of R433. -/
def recordsFull (w : Wave) (i : Instr) : Bool := recordBytes i != 0 && decide (65536 < heldRecords w + recordBytes i)

/-! ## Who may issue -/

/-- A fragment that waits for another step to complete or wake its word. -/
def parkedWait : Wait → Bool
  | .join => true | .backoff _ => true | .mqsend _ => true | .mqrecv _ => true | .vclaim _ => true | .bsync _ _ _ => true
  | .waita _ _ => true | .fqpost _ => true | _ => false

/-- The fragment may issue a scalar word: the wave has not yielded, no trap is entering, and a handler runs alone
(R167, R357). -/
def fragRuns (w : Wave) (f : Frag) : Bool :=
  w.yieldOn == [] && w.yieldClaim == [] && !parkedWait f.wait &&
    (match w.trap with
     | .entering _ => false
     | .handling _ => f.handler
     | _ => true)

/-- The L-stream may issue: a strip is queued, no stop mark holds, and the wave has not yielded (R165, R167). -/
def laneRuns (w : Wave) : Bool := w.strips != [] && !w.lstop && w.yieldOn == [] && w.yieldClaim == []

end Sys2Proof.Machine
end

