-- ==== Sys2Proof/Machine/LaneInt.lean ====
section
/-! DEFINITION. Machine/LaneInt.lean: class 0 words: lane integer work (R194 to R199). -/

namespace Sys2Proof.Machine

/-! ## The sources of an L-format word (R33) -/

/-- The feeds a word pops, in operand order. -/
def feedsOf (w : LWord) : List Nat :=
  (if w.selA = .feed then [w.va.toNat] else []) ++ (if w.selB = .feed then [w.vb.toNat] else [])
    ++ (if w.selC = .feed then [w.vc.toNat] else [])

/-- va of a word, read as a type, in a lane. -/
def srcA (s : State) (v : Wave) (t : LType) (w : LWord) (l : Nat) : Nat := srcAt s v t (srcOf v t w.selA w.va w.imm 0) l

/-- vb of a word. -/
def srcB (s : State) (v : Wave) (t : LType) (w : LWord) (l : Nat) : Nat :=
  srcAt s v t (srcOf v t w.selB w.vb w.imm (if w.selA = .feed ∧ w.va = w.vb then 1 else 0)) l

/-- vc of a word. -/
def srcC (s : State) (v : Wave) (t : LType) (w : LWord) (l : Nat) : Nat :=
  srcAt s v t (srcOf v t w.selC w.vc w.imm
    ((if w.selA = .feed ∧ w.va = w.vc then 1 else 0) + (if w.selB = .feed ∧ w.vb = w.vc then 1 else 0))) l

/-- A fixed-latency L-format word: `g` gives its register writes from the wave as it issues. -/
def laneWord (w : LWord) (s : State) (g : Wave → Frag → Word → List RegWrite) : Out :=
  onLane s w.guard.toNat (fun v t f act =>
    withFeeds s v t act (feedsOf w) (fun v' => fixedWord s v' w.stop (g v f act)))

/-- A variable-latency L-format word whose results are known at issue. -/
def laneLate (i : Instr) (w : LWord) (s : State) (g : Wave → Frag → Word → List RegWrite) : Out :=
  onLane s w.guard.toNat (fun v t f act =>
    withFeeds s v t act (feedsOf w) (fun v' => issueDone s v' w.stop (newOp v' t i act [] []) (g v f act)))

/-- The writes of a result of the word's type in each active lane. -/
def perLane (w : LWord) (act : Word) (r : Nat → Nat) : List RegWrite :=
  (lanesOf act).flatMap (fun l => elemWrites w.ty w.vd.toNat l (r l))

/-- A class 0 word whose result is a function of its three sources. -/
def intWord (w : LWord) (op : Nat → Nat → Nat → Nat) (s : State) : Out :=
  laneWord w s (fun v _ act => perLane w act (fun l => op (srcA s v w.ty w l) (srcB s v w.ty w l) (srcC s v w.ty w l)))

/-! ## Results (R195 to R199) -/

/-- A source as an integer of its type. -/
def ival (t : LType) (x : Nat) : Int := if isSigned t then sgn (ltypeBits t) x else ((x % 2 ^ ltypeBits t : Nat) : Int)

/-- An exact result as a type's bits, clamped to the type's range with sat (R196). -/
def intRes (t : LType) (sat : Bool) (x : Int) : Nat :=
  low (ltypeBits t) (if sat then clampI (intRange t).1 (intRange t).2 x else x)

/-- `VADD` (R195, R196). -/
def vAdd (t : LType) (sat : Bool) (a b : Nat) : Nat := intRes t sat (ival t a + ival t b)
/-- `VSUB`. -/
def vSub (t : LType) (sat : Bool) (a b : Nat) : Nat := intRes t sat (ival t a - ival t b)
/-- `VMUL`. -/
def vMul (t : LType) (a b : Nat) : Nat := a * b % 2 ^ ltypeBits t
/-- `VMULH`. -/
def vMulh (t : LType) (a b : Nat) : Nat := low (ltypeBits t) (ival t a * ival t b / ((2 ^ ltypeBits t : Nat) : Int))
/-- `VANDN`. -/
def vAndn (t : LType) (a b : Nat) : Nat := a &&& ((2 ^ ltypeBits t - 1) ^^^ b % 2 ^ ltypeBits t)
/-- `VSHL`. -/
def vShl (t : LType) (a b : Nat) : Nat := a * 2 ^ (b % ltypeBits t) % 2 ^ ltypeBits t
/-- `VSHR`. -/
def vShr (t : LType) (a b : Nat) : Nat := a / 2 ^ (b % ltypeBits t)
/-- `VSAR`. -/
def vSar (t : LType) (a b : Nat) : Nat := low (ltypeBits t) (sgn (ltypeBits t) a / ((2 ^ (b % ltypeBits t) : Nat) : Int))
/-- `VROL`. -/
def vRol (t : LType) (a b : Nat) : Nat :=
  let n := b % ltypeBits t
  a * 2 ^ n % 2 ^ ltypeBits t + a / 2 ^ (ltypeBits t - n)
/-- `VMIN`, or `VMAX`. -/
def vMin (t : LType) (greater : Bool) (a b : Nat) : Nat := if decide (ival t a < ival t b) != greater then a else b
/-- `VBFX` (R197). -/
def vBfx (t : LType) (a b c : Nat) : Nat :=
  let off := b % 2 ^ 32 % ltypeBits t
  let wd := min (c % 2 ^ 32) (ltypeBits t - off)
  let x := a / 2 ^ off % 2 ^ wd
  if isSigned t then low (ltypeBits t) (sgn wd x) else x
/-- `VBFI` (R197). -/
def vBfi (t : LType) (old a b c : Nat) : Nat :=
  let off := b % 2 ^ 32 % ltypeBits t
  let wd := min (c % 2 ^ 32) (ltypeBits t - off)
  old - old / 2 ^ off % 2 ^ wd * 2 ^ off + a % 2 ^ wd * 2 ^ off
/-- A comparison by its code (R198). -/
def cmpBy (code : Nat) (a b : Int) : Bool :=
  match code with
  | 0 => a == b
  | 1 => a != b
  | 2 => decide (a < b)
  | 3 => decide (a ≤ b)
  | 4 => decide (b < a)
  | _ => decide (b ≤ a)
/-- Sum of absolute differences of four bytes (R199). -/
def vSad (signed : Bool) (a b c : Nat) : Nat :=
  let byte (x i : Nat) : Int := if signed then sgn 8 (x / 2 ^ (8 * i)) else ((x / 2 ^ (8 * i) % 256 : Nat) : Int)
  (c + ((List.range 4).map (fun i => (byte a i - byte b i).natAbs)).foldl (· + ·) 0) % 2 ^ 32

/-! ## The words -/

/-- `VADD` (R195, R196). -/
def execVadd (w : LWord) (s : State) : Out := intWord w (fun a b _ => vAdd w.ty (satOf w) a b) s
/-- `VSUB` (R195, R196). -/
def execVsub (w : LWord) (s : State) : Out := intWord w (fun a b _ => vSub w.ty (satOf w) a b) s
/-- `VMUL` (R195). -/
def execVmul (w : LWord) (s : State) : Out := intWord w (fun a b _ => vMul w.ty a b) s
/-- `VMULH` (R195). -/
def execVmulh (w : LWord) (s : State) : Out := intWord w (fun a b _ => vMulh w.ty a b) s
/-- `VMAD` (R195). -/
def execVmad (w : LWord) (s : State) : Out := intWord w (fun a b c => (a * b + c) % 2 ^ ltypeBits w.ty) s
/-- `VAND` (R195). -/
def execVand (w : LWord) (s : State) : Out := intWord w (fun a b _ => a &&& b) s
/-- `VOR` (R195). -/
def execVor (w : LWord) (s : State) : Out := intWord w (fun a b _ => a ||| b) s
/-- `VXOR` (R195). -/
def execVxor (w : LWord) (s : State) : Out := intWord w (fun a b _ => a ^^^ b) s
/-- `VANDN` (R195). -/
def execVandn (w : LWord) (s : State) : Out := intWord w (fun a b _ => vAndn w.ty a b) s
/-- `VNOT` (R195). -/
def execVnot (w : LWord) (s : State) : Out := intWord w (fun a _ _ => 2 ^ ltypeBits w.ty - 1 - a) s
/-- `VSHL` (R195). -/
def execVshl (w : LWord) (s : State) : Out := intWord w (fun a b _ => vShl w.ty a b) s
/-- `VSHR` (R195). -/
def execVshr (w : LWord) (s : State) : Out := intWord w (fun a b _ => vShr w.ty a b) s
/-- `VSAR` (R195). -/
def execVsar (w : LWord) (s : State) : Out := intWord w (fun a b _ => vSar w.ty a b) s
/-- `VROL` (R195). -/
def execVrol (w : LWord) (s : State) : Out := intWord w (fun a b _ => vRol w.ty a b) s
/-- `VMIN` (R195). -/
def execVmin (w : LWord) (s : State) : Out := intWord w (fun a b _ => vMin w.ty false a b) s
/-- `VMAX` (R195). -/
def execVmax (w : LWord) (s : State) : Out := intWord w (fun a b _ => vMin w.ty true a b) s
/-- `VABS` (R195, R196). -/
def execVabs (w : LWord) (s : State) : Out := intWord w (fun a _ _ => intRes w.ty (satOf w) ((ival w.ty a).natAbs : Int)) s
/-- `VNEG` (R195, R196). -/
def execVneg (w : LWord) (s : State) : Out := intWord w (fun a _ _ => intRes w.ty (satOf w) (-(ival w.ty a))) s
/-- `VCLZ` (R195). -/
def execVclz (w : LWord) (s : State) : Out := intWord w (fun a _ _ => clz (ltypeBits w.ty) a) s
/-- `VPOPC` (R195). -/
def execVpopc (w : LWord) (s : State) : Out := intWord w (fun a _ _ => popcount 64 a) s
/-- `VBREV` (R195). -/
def execVbrev (w : LWord) (s : State) : Out := intWord w (fun a _ _ => bitrev (ltypeBits w.ty) a) s
/-- `VBFX` (R197). -/
def execVbfx (w : LWord) (s : State) : Out := intWord w (fun a b c => vBfx w.ty a b c) s
/-- `VBFI` (R197): vd is read too. -/
def execVbfi (w : LWord) (s : State) : Out :=
  laneWord w s (fun v _ act => perLane w act (fun l =>
    vBfi w.ty (srcAt s v w.ty (.reg w.vd.toNat) l) (srcA s v w.ty w l) (srcB s v w.ty w l) (srcC s v w.ty w l)))
/-- `VSEL` (R199). -/
def execVsel (w : LWord) (s : State) : Out :=
  laneWord w s (fun v f act => perLane w act (fun l =>
    if (rdLaneM s v f w.vc.toNat).getLsbD l then srcA s v w.ty w l else srcB s v w.ty w l))
/-- `VMOV` (R195). -/
def execVmov (w : LWord) (s : State) : Out := intWord w (fun a _ _ => a) s
/-- `VLI` (R195): va selects the immediate. -/
def execVli (w : LWord) (s : State) : Out := intWord w (fun a _ _ => a) s
/-- `VCMP` (R198). -/
def execVcmp (w : LWord) (s : State) : Out :=
  laneWord w s (fun v _ act => (lanesOf act).map (fun l =>
    .m w.vd.toNat l (cmpBy w.vc.toNat (ival w.ty (srcA s v w.ty w l)) (ival w.ty (srcB s v w.ty w l)))))
/-- `VADDC` (R199). -/
def execVaddc (w : LWord) (s : State) : Out :=
  laneWord w s (fun v f act => (lanesOf act).flatMap (fun l =>
    let c := if (rdLaneM s v f w.vc.toNat).getLsbD l then 1 else 0
    let t := srcA s v w.ty w l + srcB s v w.ty w l + c
    [.v w.vd.toNat l (BitVec.ofNat 32 t), .m w.vc.toNat l (decide (2 ^ 32 ≤ t))]))
/-- `VIDX` (R195). -/
def execVidx (w : LWord) (s : State) : Out :=
  laneWord w s (fun v _ act => perLane w act (fun l => (srcA s v w.ty w l + l) % 2 ^ 32))
/-- `VSAD` (R199): all three sources and vd are 32 bits wide. -/
def execVsad (w : LWord) (s : State) : Out :=
  laneWord w s (fun v _ act => (lanesOf act).map (fun l =>
    .v w.vd.toNat l (BitVec.ofNat 32 (vSad (w.ty == .i8) (srcA s v .n32 w l) (srcB s v .n32 w l) (srcC s v .n32 w l)))))

end Sys2Proof.Machine
end

