-- ==== Sys2Proof/Machine/Transcend.lean ====
section
/-! DEFINITION. Machine/Transcend.lean: the special functions of R222, whose results are the exact mathematical values
rounded once. Each is computed in fixed point with 720 fraction bits by a series, far below the distance from a rounding
boundary that F32, F16 and BF16 operands admit (notes/assumptions/15.md), and rounded with a sticky bit. -/

namespace Sys2Proof.Machine

/-- Fraction bits of the fixed-point work. -/
def fxP : Nat := 720

/-- One in fixed point. -/
def fxOne : Nat := 2 ^ fxP

/-- Sum of z^(2i+1)/(2i+1) with signs alternating when `alt`, for the given number of terms; `t` is z^(2i+1). -/
def fxAtanAux (alt : Bool) : Nat → Nat → Nat → Nat → Int
  | 0, _, _, _ => 0
  | fuel + 1, i, t, z2 =>
    let term : Int := (t / (2 * i + 1) : Nat)
    (if alt && i % 2 == 1 then -term else term) + fxAtanAux alt fuel (i + 1) (t * z2 / fxOne) z2

/-- arctan(1/k). -/
def fxAtanInv (k : Nat) : Int := fxAtanAux true 165 0 (fxOne / k) (fxOne / (k * k))

/-- artanh of z in fixed point, for z at most 1/3. -/
def fxAtanh (z : Nat) : Int := fxAtanAux false 240 0 z (z * z / fxOne)

/-- Pi in fixed point (Machin's formula). -/
def fxPi : Nat := (16 * fxAtanInv 5 - 4 * fxAtanInv 239).toNat

/-- The natural logarithm of 2. -/
def fxLn2 : Nat := (2 * fxAtanh (fxOne / 3)).toNat

/-- Sum of x^i/i! with the signs of `sg i`, over the terms i = i0, i0 + step, ...; `t` is x^i/i!. -/
def fxSeries (step : Nat) (alt : Bool) : Nat → Nat → Nat → Nat → Int
  | 0, _, _, _ => 0
  | fuel + 1, i, t, x =>
    let t' := if step = 1 then t * x / fxOne / (i + 1) else t * x / fxOne * x / fxOne / ((i + 1) * (i + 2))
    (t : Int) + (if alt then -1 else 1) * fxSeries step alt fuel (i + step) t' x

/-- e^x for 0 ≤ x < 1. -/
def fxExp (x : Nat) : Nat := (fxSeries 1 false 160 0 fxOne x).toNat

/-- sin x for 0 ≤ x < 2. -/
def fxSin (x : Nat) : Nat := (fxSeries 2 true 100 1 x x).toNat

/-- cos x for 0 ≤ x < 2. -/
def fxCos (x : Nat) : Nat := (fxSeries 2 true 100 0 fxOne x).toNat

/-- A fixed-point result as an inexact value, with the lowest 64 bits dropped; e is added to the exponent. -/
def fxResult (neg : Bool) (x : Nat) (e : Int) : Exact :=
  { neg := neg, m := x / 2 ^ 64, e := e + 64 - fxP, sticky := true }

/-- A magnitude `m * 2^e` in fixed point, its bits below 2^-720 dropped. -/
def fxOf (m : Nat) (e : Int) : Nat :=
  let s := e + fxP
  if 0 ≤ s then m * 2 ^ s.toNat else m / 2 ^ (-s).toNat

/-- 2^a for finite a (R222): the integer part moves the exponent. -/
def exp2Exact (neg : Bool) (m : Nat) (e : Int) : Exact :=
  if bitLen m + e > 13 then
    { neg := false, m := 2 ^ 100, e := if neg then -20000 else 20000, sticky := false }
  else
    let x := fxOf m e
    let n := x / fxOne
    let f := x % fxOne
    if f = 0 ∧ (0 ≤ e ∨ m % 2 ^ (-e).toNat = 0) then
      { neg := false, m := 2 ^ 100, e := (if neg then -(n : Int) else n) - 100, sticky := false }
    else if neg then fxResult false (fxExp (max 1 ((fxOne - f) * fxLn2 / fxOne))) (-(n : Int) - 1)
    else fxResult false (fxExp (f * fxLn2 / fxOne)) n

/-- log2 of a positive finite value (R222). -/
def log2Exact (m : Nat) (e : Int) : Exact :=
  let k := floorLog2 m e
  if m = 2 ^ (bitLen m - 1) then
    { neg := decide (k < 0), m := k.natAbs * 2 ^ 100, e := -100, sticky := false }
  else
    let y := m * 2 ^ (fxP + 1 - bitLen m)
    let z := (y - fxOne) * fxOne / (y + fxOne)
    let l := (2 * fxAtanh z).toNat * fxOne / fxLn2
    let r : Int := k * (fxOne : Nat) + l
    if r < 0 then fxResult true (r.natAbs - 1) 0 else fxResult false r.toNat 0

/-- The quadrant and the remainder below pi/2 of a magnitude (R222: the whole finite range, below 2^128, against pi
with 720 fraction bits). -/
def trigReduce (m : Nat) (e : Int) : Nat × Nat :=
  let half := fxPi / 2
  let x := fxOf m e
  (x / half % 4, x % half)

/-- sin of a finite nonzero value (R222). -/
def sinExact (neg : Bool) (m : Nat) (e : Int) : Exact :=
  let r := trigReduce m e
  let v := if r.1 % 2 = 0 then fxSin r.2 else fxCos r.2
  fxResult (neg != decide (2 ≤ r.1)) v 0

/-- cos of a finite nonzero value (R222). -/
def cosExact (m : Nat) (e : Int) : Exact :=
  let r := trigReduce m e
  let v := if r.1 % 2 = 0 then fxCos r.2 else fxSin r.2
  fxResult (r.1 == 1 || r.1 == 2) (if r.1 % 2 = 0 ∧ fxOne ≤ v + 2 ^ 64 then fxOne - 1 else v) 0

/-- tanh of a finite nonzero value (R222): (1 - e^-2x) / (1 + e^-2x). -/
def tanhExact (neg : Bool) (m : Nat) (e : Int) : Exact :=
  if bitLen m + e > 7 then fxResult neg (fxOne - 1) 0
  else
    let y := 2 * fxOf m e
    let n := y / fxLn2
    let g := y % fxLn2
    -- e^-y = 2^-n * e^-g, and 1 - e^-g is the alternating series
    let eg := (fxSeries 1 true 160 0 fxOne g).toNat / 2 ^ n
    fxResult neg ((fxOne - eg) * fxOne / (fxOne + eg)) 0

/-- A special function of R222. -/
inductive SpecFn where
  | rcp | rsq | sqrt | exp2 | log2 | sin | cos | tanh
  deriving DecidableEq, Repr

/-- A special function applied to a value, rounded (R222, R211). -/
def specEval (f : SpecFn) (t : LType) (rnd : Nat) (sat : Bool) (a : FVal) : Nat :=
  let put (x : FVal) : Nat := roundF t rnd sat x
  let nan := nanBits t
  let r (x : Exact) : Nat := roundExact t rnd sat x
  match a with
  | .nan => nan
  | .inf n =>
    match f with
    | .rcp => put (.fin n 0 0)
    | .rsq => if n then nan else put (.fin false 0 0)
    | .sqrt => if n then nan else put (.inf false)
    | .exp2 => if n then put (.fin false 0 0) else put (.inf false)
    | .log2 => if n then nan else put (.inf false)
    | .sin | .cos => nan
    | .tanh => put (.fin n 1 0)
  | .fin n m e =>
    if m = 0 then
      match f with
      | .rcp | .rsq => put (.inf n)
      | .sqrt | .sin | .tanh => put (.fin n 0 0)
      | .exp2 | .cos => put (.fin false 1 0)
      | .log2 => put (.inf true)
    else
      match f with
      | .rcp => r (divExact n 1 0 m e)
      | .rsq => if n then nan else r (rsqrtExact m e)
      | .sqrt => if n then nan else r (sqrtExact m e)
      | .exp2 => r (exp2Exact n m e)
      | .log2 => if n then nan else r (log2Exact m e)
      | .sin => r (sinExact n m e)
      | .cos => r (cosExact m e)
      | .tanh => r (tanhExact n m e)

end Sys2Proof.Machine
end

