-- ==== Sys2Proof/Machine/LaneFloat.lean ====
section
/-! DEFINITION. Machine/LaneFloat.lean: class 1 and class 2 words: lane floating point and conversion (R209 to R228). -/

namespace Sys2Proof.Machine

/-! ## Results -/

/-- A float's bits with the sign flipped when asked (R212). -/
def flipIf (t : LType) (neg : Bool) (x : Nat) : Nat := if neg then x ^^^ signBit t else x

/-- `FADD` (R216). -/
def fpAdd (t : LType) (rnd : Nat) (sat : Bool) (a b : Nat) : Nat := roundF t rnd sat (fAdd rnd (readF t a) (readF t b))
/-- `FMUL` (R216). -/
def fpMul (t : LType) (rnd : Nat) (sat : Bool) (a b : Nat) : Nat := roundF t rnd sat (fMul (readF t a) (readF t b))
/-- `FFMA` (R216): rounded once. -/
def fpFma (t : LType) (rnd : Nat) (sat : Bool) (a b c : Nat) : Nat :=
  roundF t rnd sat (fSum rnd [fMul (readF t a) (readF t b), readF t c])

/-- A float comparison by its code (R218). -/
def fcmpBy (t : LType) (code x y : Nat) : Bool :=
  let a := readF t x
  let b := readF t y
  let un := a == .nan || b == .nan
  let c := fCmp a b
  match code with
  | 0 => !un && c == 0
  | 1 => un || c != 0
  | 2 => !un && decide (c < 0)
  | 3 => !un && decide (c ≤ 0)
  | 4 => !un && decide (0 < c)
  | 5 => !un && decide (0 ≤ c)
  | 6 => un
  | _ => !un

/-- The class of a float, as a bit of `FCLASS` (R219). -/
def fclassBit (t : LType) (x : Nat) : Nat :=
  match readF t x with
  | .nan => 0
  | .inf n => if n then 1 else 8
  | .fin n m _ =>
    if m = 0 then (if n then 4 else 5)
    else
      let normal := decide (2 ^ fracBits t ≤ m)
      if n then (if normal then 2 else 3) else (if normal then 7 else 6)

/-- `FRND` (R220). -/
def fpRnd (t : LType) (rnd : Nat) (sat : Bool) (x : Nat) : Nat :=
  match readF t x with
  | .fin n m e => roundF t rnd sat (.fin n (toUnits { neg := n, m := m, e := e, sticky := false } 0 rnd) 0)
  | v => roundF t rnd sat v

/-- A value times a power of two (R220); powers beyond every format's range act alike. -/
def fpScale (t : LType) (rnd : Nat) (sat : Bool) (x : Nat) (k : Int) : Nat :=
  match readF t x with
  | .fin n m e => roundF t rnd sat (.fin n m (e + clampI (-5000) 5000 k))
  | v => roundF t rnd sat v

/-- The fraction of `FFREXP` (R220). -/
def fpFrac (t : LType) (x : Nat) : Nat :=
  match readF t x with
  | .fin n m e => if m = 0 then x else roundF t 0 false (.fin n m (e - floorLog2 m e))
  | v => roundF t 0 false v

/-- The exponent of `FFREXP.EXP` (R220). -/
def fpExp (t : LType) (x : Nat) : Word :=
  match readF t x with
  | .fin _ m e => if m = 0 then 0x80000000 else BitVec.ofInt 32 (floorLog2 m e)
  | _ => 0x7FFFFFFF

/-- `FDOT2`, `FDOT4` (R221): `n` packed elements of type `t`. -/
def fpDot (t : LType) (n rnd : Nat) (sat : Bool) (a b c : Nat) : Nat :=
  let w := ltypeBits t
  let el (x i : Nat) : FVal := readF t (x / 2 ^ (w * i) % 2 ^ w)
  roundF .f32 rnd sat (fSum rnd (readF .f32 c :: (List.range n).map (fun i => fMul (el a i) (el b i))))

/-- `CVT.E8.F32` (R226). -/
def toE8 (x : Nat) : Nat :=
  match readF .f32 x with
  | .nan => 255
  | .inf _ => 254
  | .fin _ m e => if m = 0 then 0 else (clampI 0 254 (floorLog2 m e + 127)).toNat

/-- `CVT` (R224 to R226). -/
def convert (d t : LType) (rnd : Nat) (sat : Bool) (x : Nat) : Nat :=
  if d = .e8 then (if t = .e8 then x % 256 else toE8 x)
  else if isInt d then
    if isInt t then intRes d sat (ival t x) else toIntType d rnd sat (readF t x)
  else roundF d rnd sat (readF t x)

/-- `CVTEF`: the narrowed value and the residual (R58, R227). -/
def convertEf (d t : LType) (rnd : Nat) (sat : Bool) (x : Nat) : Nat × Nat :=
  let n := roundF d rnd sat (readF t x)
  let v := readF d n
  (n, if fFinite v then roundF .f32 0 false (fSum 0 [readF t x, fFlip v]) else 0)

/-! ## Class 1 words -/

/-- va, vb and vc with the modifiers of R212; `FFMA` flips vc where the others flip vb. -/
def modA (s : State) (v : Wave) (w : LWord) (l : Nat) : Nat := flipIf w.ty (w.mods.getLsbD 0) (srcA s v w.ty w l)
/-- vb after `.NB`. -/
def modB (s : State) (v : Wave) (w : LWord) (l : Nat) : Nat := flipIf w.ty (w.mods.getLsbD 1) (srcB s v w.ty w l)
/-- vc after `.NC`. -/
def modC (s : State) (v : Wave) (w : LWord) (l : Nat) : Nat := flipIf w.ty (w.mods.getLsbD 1) (srcC s v w.ty w l)

/-- A class 1 word of two modified sources. -/
def floatWord (w : LWord) (op : Nat → Nat → Nat) (s : State) : Out :=
  laneWord w s (fun v _ act => perLane w act (fun l => op (modA s v w l) (modB s v w l)))

/-- `FADD` (R216). -/
def execFadd (w : LWord) (s : State) : Out := floatWord w (fpAdd w.ty (rndOf w) (satOf w)) s
/-- `FSUB` (R216). -/
def execFsub (w : LWord) (s : State) : Out := floatWord w (fun a b => fpAdd w.ty (rndOf w) (satOf w) a (flipIf w.ty true b)) s
/-- `FMUL` (R216). -/
def execFmul (w : LWord) (s : State) : Out := floatWord w (fpMul w.ty (rndOf w) (satOf w)) s
/-- `FFMA` (R216). -/
def execFfma (w : LWord) (s : State) : Out :=
  laneWord w s (fun v _ act => perLane w act (fun l =>
    fpFma w.ty (rndOf w) (satOf w) (modA s v w l) (srcB s v w.ty w l) (modC s v w l)))
/-- `FMIN` (R217). -/
def execFmin (w : LWord) (s : State) : Out := floatWord w (fMinBits w.ty false) s
/-- `FMAX` (R217). -/
def execFmax (w : LWord) (s : State) : Out := floatWord w (fMinBits w.ty true) s
/-- `FCMP` (R218). -/
def execFcmp (w : LWord) (s : State) : Out :=
  laneWord w s (fun v _ act => (lanesOf act).map (fun l =>
    .m w.vd.toNat l (fcmpBy w.ty w.vc.toNat (srcA s v w.ty w l) (srcB s v w.ty w l))))
/-- `FCLASS` (R219). -/
def execFclass (w : LWord) (s : State) : Out :=
  laneWord w s (fun v _ act => (lanesOf act).map (fun l =>
    .m w.vd.toNat l (bit (srcB s v .n32 w l) (fclassBit w.ty (srcA s v w.ty w l)))))
/-- `FRND` (R220). -/
def execFrnd (w : LWord) (s : State) : Out :=
  laneWord w s (fun v _ act => perLane w act (fun l => fpRnd w.ty (rndOf w) (satOf w) (srcA s v w.ty w l)))
/-- `FLDEXP` (R220). -/
def execFldexp (w : LWord) (s : State) : Out :=
  laneWord w s (fun v _ act => perLane w act (fun l =>
    fpScale w.ty (rndOf w) (satOf w) (srcA s v w.ty w l) (sgn 32 (srcB s v .n32 w l))))
/-- `FFREXP` (R220). -/
def execFfrexp (w : LWord) (s : State) : Out :=
  laneWord w s (fun v _ act =>
    if w.mods.getLsbD 0 then (lanesOf act).map (fun l => .v w.vd.toNat l (fpExp w.ty (srcA s v w.ty w l)))
    else perLane w act (fun l => fpFrac w.ty (srcA s v w.ty w l)))
/-- A dot product of `n` elements: va and vb are read whole (R221). -/
def dotWord (n : Nat) (w : LWord) (s : State) : Out :=
  laneWord w s (fun v _ act => perLane w act (fun l =>
    fpDot ((ty2Of w).getD .f32) n (rndOf w) (satOf w) (srcA s v .n32 w l) (srcB s v .n32 w l) (srcC s v .f32 w l)))
/-- `FDOT2` (R221). -/
def execFdot2 (w : LWord) (s : State) : Out := dotWord 2 w s
/-- `FDOT4` (R221). -/
def execFdot4 (w : LWord) (s : State) : Out := dotWord 4 w s
/-- `FSCALE` (R220): the factor 255 is NaN. -/
def execFscale (w : LWord) (s : State) : Out :=
  laneWord w s (fun v _ act => perLane w act (fun l =>
    let e := srcB s v .n32 w l % 256
    if e = 255 then nanBits w.ty else fpScale w.ty (rndOf w) (satOf w) (srcA s v w.ty w l) ((e : Int) - 127)))

/-! ## Class 2 words: special functions and division (R222, R223) -/

/-- A special function: its result is written when the word settles (R213). -/
def specWord (i : Instr) (f : SpecFn) (w : LWord) (s : State) : Out :=
  laneLate i w s (fun v _ act => perLane w act (fun l =>
    specEval f w.ty (rndOf w) (satOf w) (readF w.ty (srcA s v w.ty w l))))

/-- `FRCP` (R222). -/
def execFrcp (w : LWord) (s : State) : Out := specWord (.frcp w) .rcp w s
/-- `FRSQ` (R222). -/
def execFrsq (w : LWord) (s : State) : Out := specWord (.frsq w) .rsq w s
/-- `FSQRT` (R222). -/
def execFsqrt (w : LWord) (s : State) : Out := specWord (.fsqrt w) .sqrt w s
/-- `FDIV` (R223). -/
def execFdiv (w : LWord) (s : State) : Out :=
  laneLate (.fdiv w) w s (fun v _ act => perLane w act (fun l =>
    fDiv w.ty (rndOf w) (satOf w) (readF w.ty (srcA s v w.ty w l)) (readF w.ty (srcB s v w.ty w l))))
/-- `FEXP2` (R222). -/
def execFexp2 (w : LWord) (s : State) : Out := specWord (.fexp2 w) .exp2 w s
/-- `FLOG2` (R222). -/
def execFlog2 (w : LWord) (s : State) : Out := specWord (.flog2 w) .log2 w s
/-- `FSIN` (R222). -/
def execFsin (w : LWord) (s : State) : Out := specWord (.fsin w) .sin w s
/-- `FCOS` (R222). -/
def execFcos (w : LWord) (s : State) : Out := specWord (.fcos w) .cos w s
/-- `FTANH` (R222). -/
def execFtanh (w : LWord) (s : State) : Out := specWord (.ftanh w) .tanh w s

/-! ## Conversion (R224 to R228) -/

/-- `CVT` (R224 to R226). -/
def execCvt (w : LWord) (s : State) : Out :=
  let t := (ty2Of w).getD w.ty
  laneWord w s (fun v _ act => perLane w act (fun l => convert w.ty t (rndOf w) (satOf w) (srcA s v t w l)))
/-- `CVTEF` (R227): vd takes the narrowed value and vc the residual. -/
def execCvtef (w : LWord) (s : State) : Out :=
  let t := (ty2Of w).getD w.ty
  laneWord w s (fun v _ act => (lanesOf act).flatMap (fun l =>
    let r := convertEf w.ty t (rndOf w) (satOf w) (srcA s v t w l)
    [.v w.vd.toNat l (BitVec.ofNat 32 r.1), .v w.vc.toNat l (BitVec.ofNat 32 r.2)]))
/-- `PACK` (R228): an 8-bit form replaces half of vd. -/
def execPack (w : LWord) (s : State) : Out :=
  laneWord w s (fun v _ act => (lanesOf act).map (fun l =>
    let a := srcA s v w.ty w l
    let b := srcB s v w.ty w l
    let n := ltypeBits w.ty
    let x := a + b * 2 ^ n
    let old := (rdV s v w.vd.toNat l).toNat
    let o := 16 * w.mods.toNat
    .v w.vd.toNat l (BitVec.ofNat 32 (if n = 16 then x else old - old / 2 ^ o % 65536 * 2 ^ o + x * 2 ^ o))))
/-- `UNPACK` (R228): va is read whole. -/
def execUnpack (w : LWord) (s : State) : Out :=
  laneWord w s (fun v _ act => perLane w act (fun l =>
    srcA s v .n32 w l / 2 ^ (ltypeBits w.ty * w.mods.toNat) % 2 ^ ltypeBits w.ty))

end Sys2Proof.Machine
end

