-- ==== Sys2Proof/Machine/LanePair.lean ====
section
/-! DEFINITION. Machine/LanePair.lean: the P-format word: two halves (R37, R38). -/

namespace Sys2Proof.Machine

/-- The 8-bit immediate of a half: sign-extended, for a float type converted (R37). -/
def pairImm (t : LType) (f : BitVec 8) : Nat :=
  if isInt t then low (ltypeBits t) f.toInt else roundF t 0 false (.fin (decide (f.toInt < 0)) f.toInt.natAbs 0)

/-- vb of a half (R37). -/
def pairB (v : Wave) (h : PHalf) : Src :=
  match h.sel with
  | .reg => .reg h.vb.toNat
  | .scalar => .all (rdS v h.vb.toNat).toNat
  | .imm => .all (pairImm h.ty h.vb)

/-- The result of a half, from va, vb and the accumulator (R37, R195, R216, R217). -/
def pairOp (h : PHalf) (a b d : Nat) : Nat :=
  let t := h.ty
  let na := flipIf t (h.flags.getLsbD 0)
  let nb := flipIf t (h.flags.getLsbD 1)
  match h.op with
  | .vadd => vAdd t false a b
  | .vsub => vSub t false a b
  | .vmul => vMul t a b
  | .vand => a &&& b
  | .vor => a ||| b
  | .vxor => a ^^^ b
  | .vandn => vAndn t a b
  | .vshl => vShl t a b
  | .vshr => vShr t a b
  | .vsar => vSar t a b
  | .vmin => vMin t false a b
  | .vmax => vMin t true a b
  | .vmov => a
  | .fadd => fpAdd t 0 false (na a) (nb b)
  | .fsub => fpAdd t 0 false (na a) (flipIf t true (nb b))
  | .fmul => fpMul t 0 false (na a) (nb b)
  | .ffma => fpFma t 0 false (na a) b (nb d)
  | .fmin => fMinBits t false (na a) (nb b)
  | .fmax => fMinBits t true (na a) (nb b)

/-- The register writes of a half in its active lanes. -/
def pairWrites (s : State) (v : Wave) (f : Frag) (h : PHalf) : List RegWrite :=
  let rd (x : Src) (l : Nat) : Nat := srcAt s v h.ty x l
  (lanesOf (f.m0 &&& rdLaneM s v f h.guard.toNat)).flatMap (fun l =>
    elemWrites h.ty h.vd.toNat l (pairOp h (rd (.reg h.va.toNat) l) (rd (pairB v h) l) (rd (.reg h.vd.toNat) l)))

/-- The P-format word (R37, R38): both halves read before either writes, and Y's result stands on a common vd. -/
def execLanePair (x y : PHalf) (s : State) : Out :=
  onLane s 0 (fun v _ f _ => fixedWord s v (x.stop || y.stop) (pairWrites s v f x ++ pairWrites s v f y))

end Sys2Proof.Machine
end

