-- ==== Sys2Proof/Machine/LaneMem.lean ====
section
/-! DEFINITION. Machine/LaneMem.lean: class 4 words: lane memory (R250 to R263). -/

namespace Sys2Proof.Machine

/-! ## Addresses and values -/

/-- The vector offset of a lane, scaled (R250, R251). -/
def laneOff (s : State) (w : Wave) (i : LXWord) (l : Nat) : Nat :=
  if i.nov then 0 else (rdV s w i.va.toNat l).toNat * 2 ^ i.scale.toNat

/-- The virtual address of a lane, modulo 2^64 (R250). -/
def virtAddr (s : State) (w : Wave) (i : LXWord) (l : Nat) : DWord :=
  rdP w i.sbase.toNat + BitVec.ofNat 64 (laneOff s w i l) + BitVec.ofInt 64 i.imm24.toInt

/-- The scratch offset of a lane, exact (R251). -/
def scratchOff (s : State) (w : Wave) (i : LXWord) (l : Nat) : Int :=
  ((rdS w i.sbase.toNat).toNat + laneOff s w i l : Nat) + i.imm24.toInt

/-- Addresses of the active lanes. -/
def laneAddrs (act : Word) (g : Nat → DWord) : Map DWord :=
  (lanesOf act).foldl (fun m l => Tab.set 0 m l (g l)) []

/-- Bytes of an element (R252). -/
def elemSize (t : LType) : Nat := ltypeBits t / 8

/-- The captured operand of a lane from operand word `j` on, over a type's width (R256). -/
def opVal (o : LaneOp) (t : LType) (j l : Nat) : Nat :=
  if is64 t then (opData o j l).toNat + 2 ^ 32 * (opData o (j + 1) l).toNat else (opData o j l).toNat % 2 ^ ltypeBits t

/-- The new value of a read-modify-write (R261). -/
def atomNew (t : LType) (aux old b n : Nat) : Nat :=
  match aux with
  | 0 => if isInt t then (old + b) % 2 ^ ltypeBits t else roundF t 0 false (fAdd 0 (readF t old) (readF t b))
  | 1 => if isInt t then vMin t false old b else fMinBits t false old b
  | 2 => if isInt t then vMin t true old b else fMinBits t true old b
  | 3 => old &&& b
  | 4 => old ||| b
  | 5 => old ^^^ b
  | 6 => b
  | _ => if old = b then n else old

/-! ## One lane's access -/

/-- A lane's access to `n` bytes of virtual memory (R252, R255): it goes on with the state and the key. -/
def laneAccess (s : State) (w : Wave) (va : DWord) (n : Nat) (k : AccKind) (claim : Bool) (yes : State → Nat → State × LaneRes) :
    State × LaneRes :=
  match access s w.core w.slot (ctxIdOf s w.gid) w.priv va.toNat n k claim with
  | (t, .ok key) => yes t key
  | (t, .fault c) => (t, .fault c va)
  | (t, .miss pg) => (t, .miss pg)
  | (t, .claimed v) => (t, .claimed v)
  | (t, .wait) => (t, .wait)
  | (t, .hole) => (t, .hole)

/-- A naturally aligned access of a lane (R252). -/
def alignedAccess (s : State) (w : Wave) (va : DWord) (n : Nat) (k : AccKind) (yes : State → Nat → State × LaneRes) :
    State × LaneRes :=
  if va.toNat % n ≠ 0 then (s, .fault .misalign va) else laneAccess s w va n k false yes

/-- A lane's access to `n` bytes of its group's scratch (R102, R251, R252, R255). -/
def scratchAccess (s : State) (w : Wave) (off : DWord) (n : Nat) (wr : Bool) (yes : Group → Nat → State × LaneRes) : State × LaneRes :=
  match groupOf s w.gid with
  | none => (s, .ok [])
  | some g =>
    if off.toNat % n ≠ 0 then (s, .fault .misalign off)
    else if off.toInt < 0 ∨ g.scratchBytes < off.toNat + n then (s, .fault .protect off)
    else if scratchLocked s w.core w.gid off.toNat n wr then (s, .fault .rangeLocked off)
    else if (List.range n).any (fun j => g.bad.contains (off.toNat + j)) then (s, .fault .softError off)
    else yes g off.toNat

/-- Store a number in a group's scratch. -/
def scratchPut (s : State) (gid off n x : Nat) : State :=
  modGroup s gid (fun g => { g with scratch := writeNum g.scratch off n x })

/-- A `.claim` store of lane `l` lies in its place of one line, with all 32 lanes active (R259). -/
def claimOk (o : LaneOp) : Bool :=
  o.active == 0xFFFFFFFF && (opAddr o 0).toNat % 128 == 0
    && (List.range 32).all (fun l => opAddr o l == opAddr o 0 + BitVec.ofNat 64 (4 * l))

/-- The bytes of a `.claim` store: the 32 lanes' words. -/
def claimBytes (o : LaneOp) : List Byte := (List.range 32).flatMap (fun l => toBytes 4 (opVal o .n32 0 l))

/-- A `.claim` store is one access to its line (R87, R259): the first lane makes it, and the others come out as it does. -/
def claimLane (o : LaneOp) (l : Nat) (s : State) (w : Wave) : State × LaneRes :=
  if !claimOk o then (s, .fault .misalign (opAddr o l))
  else if l = 0 then laneAccess s w (opAddr o 0) 128 .write true (fun t key => (storeBytes t w.core key (claimBytes o), .ok []))
  else if o.done.getLsbD 0 then (s, .ok [])
  else
    match o.faults.find? (fun x => x.1 == 0) with
    | some (_, c, _) => (s, .fault c (opAddr o l))
    | none => (s, .wait)

/-- A reduction of a lane: merged in the switches on its way to a window (R100, R414), else performed at the home. -/
def reduceAt (s : State) (w : Wave) (i : LXWord) (key b : Nat) : State :=
  let n := elemSize i.ty
  if i.order == .comm && i.scope == .fab && inWindow s key i.ty then
    fabSend s { key := key, ty := i.ty, val := b, waves := [64 * w.core + w.slot] }
  else storeNum s w.core key n (atomNew i.ty i.aux.toNat (ofBytes (loadBytes s w.core key n)) b 0)

/-- A prefetch of a lane (R263): `.L2` fills the home slice, `.L1` the core's L1 too, and `.PAGE` a page alone. -/
def prefLane (s : State) (w : Wave) (i : LXWord) (a : DWord) : State :=
  let ctx := ctxIdOf s w.gid
  let r := access s w.core w.slot ctx w.priv a.toNat 4 (if i.aux = 1 then .read else .look) false
  if a.toNat % 4 ≠ 0 then s
  else
    match r.2 with
    | .ok _ => if i.aux = 2 then { r.1 with coh := s.coh } else r.1
    | .miss pg => batchMiss r.1 (waveUnit w.core w.slot) pg ctx
    | .wait => if i.aux = 1 then r.1 else s
    | _ => s

/-- Whether a word is an access or a prefetch, and how its lane performs (R258 to R263). -/
def memLane (o : LaneOp) (l : Nat) (s : State) : State × LaneRes :=
  match waveAt s s.cur.core s.cur.slot with
  | none => (s, .ok [])
  | some w =>
    let a := opAddr o l
    match o.word with
    | .ld i =>
      alignedAccess s w a (elemSize i.ty) .read (fun t key =>
        (t, .ok (elemWrites i.ty i.vd.toNat l (ofBytes (loadBytes t w.core key (elemSize i.ty))))))
    | .st i =>
      if i.claim then claimLane o l s w
      else
        alignedAccess s w a (elemSize i.ty) .write (fun t key => (storeNum t w.core key (elemSize i.ty) (opVal o i.ty 0 l), .ok []))
    | .atom i =>
      let n := elemSize i.ty
      alignedAccess s w a n .update (fun t key =>
        let old := ofBytes (loadBytes t w.core key n)
        (storeNum t w.core key n (atomNew i.ty i.aux.toNat old (opVal o i.ty 0 l) (opVal o i.ty (regsOf i.ty) l)),
          .ok (elemWrites i.ty i.vd.toNat l old)))
    | .red i =>
      alignedAccess s w a (elemSize i.ty) .update (fun t key => (reduceAt t w i key (opVal o i.ty 0 l), .ok []))
    | .lds i =>
      scratchAccess s w a (elemSize i.ty) false (fun g off =>
        (s, .ok (elemWrites i.ty i.vd.toNat l (readNum g.scratch off (elemSize i.ty)))))
    | .sts i =>
      scratchAccess s w a (elemSize i.ty) true (fun _ off => (scratchPut s w.gid off (elemSize i.ty) (opVal o i.ty 0 l), .ok []))
    | .atoms i =>
      let n := elemSize i.ty
      scratchAccess s w a n true (fun g off =>
        let old := readNum g.scratch off n
        (scratchPut s w.gid off n (atomNew i.ty i.aux.toNat old (opVal o i.ty 0 l) (opVal o i.ty (regsOf i.ty) l)),
          .ok (elemWrites i.ty i.vd.toNat l old)))
    | .pref i => (prefLane s w i a, .ok [])
    | _ => (s, .ok [])

/-! ## The words -/

/-- A class 4 word on virtual memory: `n` registers of vb are captured with the addresses. -/
def memWord (i : Instr) (x : LXWord) (n : Nat) (s : State) : Out :=
  onLane s x.guard.toNat (fun w t _ act =>
    issueOp memLane s w x.stop
      (newOp w t i act (laneAddrs act (virtAddr s w x)) (capture s w act x.vb.toNat n 0 [])))

/-- A class 4 word on scratch. -/
def scratchWord (i : Instr) (x : LXWord) (n : Nat) (s : State) : Out :=
  onLane s x.guard.toNat (fun w t _ act =>
    issueOp memLane s w x.stop
      (newOp w t i act (laneAddrs act (fun l => BitVec.ofInt 64 (scratchOff s w x l))) (capture s w act x.vb.toNat n 0 [])))

/-- Registers of vb that a read-modify-write reads (R261). -/
def atomRegs (x : LXWord) : Nat := if x.aux = 7 then 2 * regsOf x.ty else regsOf x.ty

/-- `LD` (R258). -/
def execLd (w : LXWord) (s : State) : Out := memWord (.ld w) w 0 s
/-- `ST` (R258, R259). -/
def execSt (w : LXWord) (s : State) : Out := memWord (.st w) w (regsOf w.ty) s
/-- `LDS` (R260). -/
def execLds (w : LXWord) (s : State) : Out := scratchWord (.lds w) w 0 s
/-- `STS` (R260). -/
def execSts (w : LXWord) (s : State) : Out := scratchWord (.sts w) w (regsOf w.ty) s
/-- `ATOM` (R261). -/
def execAtom (w : LXWord) (s : State) : Out := memWord (.atom w) w (atomRegs w) s
/-- `ATOMS` (R261, R262). -/
def execAtoms (w : LXWord) (s : State) : Out := scratchWord (.atoms w) w (atomRegs w) s
/-- `RED` (R261). -/
def execRed (w : LXWord) (s : State) : Out := memWord (.red w) w (regsOf w.ty) s
/-- `PREF` (R263). -/
def execPref (w : LXWord) (s : State) : Out := memWord (.pref w) w 0 s

end Sys2Proof.Machine
end

