-- ==== Sys2Proof/Machine/Ray.lean ====
section
/-! DEFINITION. Machine/Ray.lean: ray mode of the Finder (R367 to R376): `TRACE`, `TRACEQ` and `HITGET`. Coordinates are
exact counts of 2^-149, so every test of R372 and R373 is exact. -/

namespace Sys2Proof.Machine

/-! ## Reads of one lane -/

/-- A lane's work: it goes on, or ends in a lane result. -/
abbrev LaneM (α : Type) := ExceptT LaneRes (StateM State) α

/-- End the lane's work. -/
def laneEnd {α : Type} (r : LaneRes) : LaneM α := ExceptT.mk (fun s => (.error r, s))

/-- The key of `n` bytes that the lane reaches. -/
def laneKey (w : Wave) (va : DWord) (n : Nat) (k : AccKind) : LaneM Nat :=
  ExceptT.mk (fun s =>
    match access s w.core w.slot (ctxIdOf s w.gid) w.priv va.toNat n k false with
    | (t, .ok key) => (.ok key, t)
    | (t, .fault c) => (.error (.fault c va), t)
    | (t, .miss pg) => (.error (.miss pg), t)
    | (t, .claimed v) => (.error (.claimed v), t)
    | (t, .wait) => (.error .wait, t)
    | (t, .hole) => (.error .hole, t))

/-- Read `n` bytes as a number, as the home holds them (R83). -/
def laneRead (w : Wave) (va : DWord) (n : Nat) : LaneM Nat := do
  let key ← laneKey w va n .look
  let s ← (get : StateM State State)
  pure (ofBytes (lookBytes s key n))

/-- Read `n` bytes as a number, as an engine reads: at the home, with every copy's newer bytes (R270). -/
def lanePull (w : Wave) (va : DWord) (n : Nat) : LaneM Nat := do
  let key ← laneKey w va n .pull
  let s ← (get : StateM State State)
  pure (ofBytes (engBytes s w.core key n))

/-- Write `n` bytes. -/
def laneWrite (w : Wave) (va : DWord) (n x : Nat) : LaneM Unit := do
  let key ← laneKey w va n .write
  ExceptT.lift (modify (fun s => storeNum s w.core key n x))

/-- A lane's work as a lane performs. -/
def laneRun (m : LaneM (List RegWrite)) (s : State) : State × LaneRes :=
  match m.run s with
  | (.ok ws, t) => (t, .ok ws)
  | (.error r, t) => (t, r)

/-! ## Exact numbers -/

/-- A finite F32 as a count of 2^-149. -/
def f32Units (x : Nat) : Option Int :=
  match readF .f32 x with
  | .fin n m e => some (unitsOf (-149) n m e)
  | _ => none

/-- A distance along a ray: a quotient with a denominator of 0 or more; 1/0 is +infinity. -/
abbrev Quot2 := Int × Nat

/-- The quotient of two integers. -/
def quot2 (a b : Int) : Quot2 := if b < 0 then (-a, b.natAbs) else (a, b.natAbs)

/-- Order of two distances. -/
def qLe (x y : Quot2) : Bool := decide (x.1 * (y.2 : Int) ≤ y.1 * (x.2 : Int))
/-- Strict order of two distances. -/
def qLt (x y : Quot2) : Bool := !qLe y x
/-- The greater. -/
def qHigher (x y : Quot2) : Quot2 := if qLe x y then y else x
/-- The lesser. -/
def qLower (x y : Quot2) : Quot2 := if qLe x y then x else y

/-- A quotient rounded to F32 (R372). -/
def qRound (x : Quot2) : Nat :=
  if x.1 = 0 then 0 else roundExact .f32 0 false (divExact (decide (x.1 < 0)) x.1.natAbs 0 x.2 0)

/-- Component `i` of a list of integers. -/
def vget (l : List Int) (i : Nat) : Int := l.getD i 0
/-- Difference of two points. -/
def vsub3 (a b : List Int) : List Int := [vget a 0 - vget b 0, vget a 1 - vget b 1, vget a 2 - vget b 2]
/-- Cross product. -/
def vcross (a b : List Int) : List Int :=
  [vget a 1 * vget b 2 - vget a 2 * vget b 1, vget a 2 * vget b 0 - vget a 0 * vget b 2, vget a 0 * vget b 1 - vget a 1 * vget b 0]
/-- Dot product. -/
def vdot (a b : List Int) : Int := vget a 0 * vget b 0 + vget a 1 * vget b 1 + vget a 2 * vget b 2

/-! ## The ray (R371, R372) -/

/-- A ray that can hit: origin, direction, tmin and tmax, with the mode and mask of its word. -/
structure Ray where
  o : List Int
  d : List Int
  tmin : Quot2
  tmax : Quot2
  cullBack : Bool
  cullFront : Bool
  mask : Nat
  query : Bool
  deriving DecidableEq, Repr

/-- The finite values of some components, none if one is not finite. -/
def allUnits : List Nat → Option (List Int)
  | [] => some []
  | x :: rest =>
    match f32Units x, allUnits rest with
    | some a, some l => some (a :: l)
    | _, _ => none

/-- The ray of a lane's eight registers, none when R372 says that it misses. -/
def rayOf (v : List Nat) (aux mask : Nat) (query : Bool) : Option Ray :=
  match allUnits [v.getD 0 0, v.getD 1 0, v.getD 2 0, v.getD 3 0, v.getD 4 0, v.getD 5 0, v.getD 6 0] with
  | some [ox, oy, oz, tm, dx, dy, dz] =>
    let far : Option Quot2 :=
      match readF .f32 (v.getD 7 0) with
      | .nan => none
      | .inf n => if n then none else some (1, 0)
      | .fin n m e => some (unitsOf (-149) n m e, 2 ^ 149)
    match far with
    | none => none
    | some tmax =>
      if dx = 0 ∧ dy = 0 ∧ dz = 0 then none
      else some { o := [ox, oy, oz], d := [dx, dy, dz], tmin := (tm, 2 ^ 149), tmax := tmax, cullBack := bit aux 0,
                  cullFront := bit aux 1, mask := mask, query := query }
  | _ => none

/-- The best candidate so far. -/
structure RayHit where
  t : Quot2
  u : Quot2
  v : Quot2
  front : Bool
  index : Nat
  material : Nat
  prim : Nat
  deriving DecidableEq, Repr

/-- A traversal: the bound, the best hit, whether it has ended, and whether it met an error (R374). -/
structure RayRun where
  tb : Quot2
  best : Option RayHit
  stop : Bool
  bad : Bool
  deriving DecidableEq, Repr

/-! ## Triangles (R370, R372) -/

/-- A primitive breaks its map (R370). -/
def primBad (p : Nat) : Bool := bits p 383 360 != 0 || bits p 511 441 != 0 || bits p 440 384 % 4 != 0

/-- A triangle test (R372). -/
def triTest (r : Ray) (prim p : Nat) (x : RayRun) : RayRun :=
  match allUnits ((List.range 9).map (fun i => bits p (32 * i + 31) (32 * i))) with
  | none => x
  | some c =>
    let p0 := c.take 3
    let e1 := vsub3 ((c.drop 3).take 3) p0
    let e2 := vsub3 (c.drop 6) p0
    let s := vsub3 r.o p0
    let h := vcross r.d e2
    let k := vcross s e1
    let det := vdot h e1
    if det = 0 ∨ bits p 359 352 &&& r.mask = 0 ∨ (r.cullBack ∧ det < 0) ∨ (r.cullFront ∧ 0 < det) then x
    else
      let u := quot2 (vdot h s) det
      let v := quot2 (vdot k r.d) det
      let t := quot2 (vdot k e2) det
      let idx := bits p 351 320
      if u.1 < 0 ∨ v.1 < 0 ∨ (u.2 : Int) < u.1 + v.1 ∨ !qLe r.tmin t ∨ !qLe t x.tb then x
      else
        let better := match x.best with
          | none => true
          | some b => qLt t x.tb || decide (idx < b.index)
        if better then
          { x with tb := t, stop := r.query,
                   best := some { t := t, u := u, v := v, front := decide (0 < det), index := idx, material := bits p 319 288, prim := prim } }
        else x

/-! ## Nodes (R369, R373) -/

/-- Kind of a child. -/
def childKind (n j : Nat) : Nat := bits n (2 * j + 257) (2 * j + 256)
/-- Index of a child. -/
def childIndex (n j : Nat) : Nat := bits n (272 + 8 * j + 7) (272 + 8 * j)
/-- Leaf primitives of a child. -/
def childCount (n j : Nat) : Nat := bits n (336 + 8 * j + 7) (336 + 8 * j)
/-- Box of a child. -/
def childBox (n j : Nat) : Nat := bits n (400 + 48 * j + 47) (400 + 48 * j)

/-- A child breaks the map (R369). -/
def childBad (n j : Nat) : Bool :=
  match childKind n j with
  | 0 => childIndex n j != 0 || childCount n j != 0 || childBox n j != 0
  | 1 => childCount n j != 0
  | 2 => childCount n j == 0
  | _ => true

/-- A node breaks its map (R369). -/
def nodeBad (n : Nat) : Bool :=
  bits n 127 120 != 0 || bits n 191 185 != 0 || bits n 255 249 != 0 || bits n 1023 784 != 0
    || bits n 184 128 % 128 != 0 || bits n 248 192 % 64 != 0
    || (List.range 3).any (fun i => bits n (96 + 8 * i + 7) (96 + 8 * i) == 255 || (f32Units (bits n (32 * i + 31) (32 * i))).isNone)
    || (List.range 8).any (childBad n)

/-- Narrow a span of distances by one axis (R373): lower end, upper end, and whether any is left. -/
def slab (r : Ray) (n j : Nat) (x : Quot2 × Quot2 × Bool) (i : Nat) : Quot2 × Quot2 × Bool :=
  let org := (f32Units (bits n (32 * i + 31) (32 * i))).getD 0
  let unit : Int := (2 ^ (bits n (96 + 8 * i + 7) (96 + 8 * i) + 22) : Nat)
  let qlo := bits (childBox n j) (8 * i + 7) (8 * i)
  let qhi := bits (childBox n j) (24 + 8 * i + 7) (24 + 8 * i)
  let lo := org + qlo * unit
  let hi := org + qhi * unit
  let o := vget r.o i
  let d := vget r.d i
  if qhi < qlo then (x.1, x.2.1, false)
  else if d = 0 then (x.1, x.2.1, x.2.2 && decide (lo ≤ o) && decide (o ≤ hi))
  else
    let a := quot2 (lo - o) d
    let b := quot2 (hi - o) d
    (qHigher x.1 (qLower a b), qLower x.2.1 (qHigher a b), x.2.2)

/-- The hit children of a node with their tnear (R373). -/
def nodeHits (r : Ray) (n : Nat) (tb : Quot2) : List (Nat × Quot2) :=
  (List.range 8).filterMap (fun j =>
    if childKind n j = 0 then none
    else
      let x := (List.range 3).foldl (slab r n j) (r.tmin, tb, true)
      if x.2.2 && qLe x.1 x.2.1 then some (j, x.1) else none)

/-- The child with the least tnear, the lowest number on ties. -/
def nearest : List (Nat × Quot2) → Option (Nat × Quot2)
  | [] => none
  | c :: rest =>
    match nearest rest with
    | none => some c
    | some d => if qLe c.2 d.2 then some c else some d

/-- Triangle tests of a leaf's primitives, ascending. -/
def leafTests (w : Wave) (r : Ray) (n j : Nat) (x : RayRun) : LaneM RayRun :=
  (List.range (childCount n j)).foldlM (fun x i =>
    if x.stop || x.bad then pure x
    else do
      let a := bits n 248 192 + 64 * (childIndex n j + i)
      let p ← laneRead w (BitVec.ofNat 64 a) 64
      pure (if primBad p then { x with bad := true } else triTest r a p x)) x

/-- The Loupe predicts the pages of a fetched node's child pointers (R300). -/
def foreseeNode (w : Wave) (n : Nat) (s : State) : State :=
  (List.range 8).foldl (fun t j =>
    let va := if childKind n j = 1 then bits n 184 128 + 128 * childIndex n j else bits n 248 192 + 64 * childIndex n j
    if childKind n j = 0 then t
    else
      match translate t w.core (ctxIdOf t w.gid) w.priv va .read with
      | .ok l => if pteHome l.word == 1 then predict 2 (ctxIdOf t w.gid) t (leafKey l va / 65536) else t
      | .error _ => t) s

/-- `enter` of a node with `d` places left on the stack, and the traversal below it (R373, R374). -/
def rayEnter (w : Wave) (r : Ray) : Nat → Nat → RayRun → LaneM RayRun
  | 0, _, x => pure { x with bad := true }
  | d + 1, a, x => do
    let n ← laneRead w (BitVec.ofNat 64 a) 128
    if nodeBad n then pure { x with bad := true }
    else do
      ExceptT.lift (modify (foreseeNode w n))
      let hits := nodeHits r n x.tb
      let x1 ← (hits.filter (fun c => childKind n c.1 == 2)).foldlM (fun x c => if x.stop || x.bad then pure x else leafTests w r n c.1 x) x
      let r2 ← (List.range 8).foldlM (fun (p : RayRun × List (Nat × Quot2)) i =>
        if p.1.stop || p.1.bad || p.2 == [] then pure p
        else do
          -- the node is tested again once a child below it has been entered
          let m ← (if i = 0 then pure n else laneRead w (BitVec.ofNat 64 a) 128)
          if nodeBad m then pure ({ p.1 with bad := true }, [])
          else do
            let pend := if i = 0 then p.2 else (nodeHits r m p.1.tb).filter (fun c => p.2.any (fun e => e.1 == c.1))
            match nearest pend with
            | none => pure (p.1, [])
            | some c => do
              let y ← rayEnter w r d (bits m 184 128 + 128 * childIndex m c.1) p.1
              pure (y, pend.filter (fun e => e.1 != c.1)))
        (x1, hits.filter (fun c => childKind n c.1 == 1))
      pure r2.1

/-- The hit record's eight words: a hit, a miss or an error (R371, R374). -/
def hitWords (x : Option RayRun) : List Nat :=
  match x with
  | none => [0x7F800000, 0, 0, 0xFFFFFFFF, 0, 0, 0, 0]
  | some y =>
    if y.bad then [0x7F800000, 0, 0, 0xFFFFFFFF, 0, 4, 0, 0]
    else
      match y.best with
      | none => [0x7F800000, 0, 0, 0xFFFFFFFF, 0, 0, 0, 0]
      | some h => [qRound h.t, qRound h.u, qRound h.v, h.index, h.material, if h.front then 3 else 1, h.prim % 2 ^ 32, h.prim / 2 ^ 32]

/-- The register writes of some words to consecutive registers of a lane. -/
def wordWrites (vd l : Nat) (ws : List Nat) : List RegWrite :=
  (ws.zip (List.range ws.length)).map (fun p => .v (vd + p.2) l (BitVec.ofNat 32 p.1))

/-- The captured words of a lane, `n` from the first. -/
def opWords (o : LaneOp) (n l : Nat) : List Nat := (List.range n).map (fun i => (opData o i l).toNat)

/-- One lane of `TRACE` or `TRACEQ` (R372 to R375). -/
def traceLane (w : Wave) (x : LXWord) (query : Bool) (o : LaneOp) (l : Nat) : LaneM (List RegWrite) := do
  let root := opAddr o l
  if root.toNat % 128 ≠ 0 then laneEnd (.fault .misalign root)
  else do
    let run ← (match rayOf (opWords o 8 l) x.aux.toNat x.imm24.toNat query with
      | none => pure none
      | some r => do
        let y ← rayEnter w r 32 root.toNat { tb := r.tmax, best := none, stop := false, bad := false }
        pure (some y))
    if query then
      pure [.m x.vd.toNat l (match run with | some y => !y.bad && y.best.isSome | none => false)]
    else pure (wordWrites x.vd.toNat l (hitWords run))

/-- One lane of `HITGET` (R376); a primitive with a nonzero reserved field is `ILLEGAL` (R3). -/
def hitgetLane (w : Wave) (x : LXWord) (o : LaneOp) (l : Nat) : LaneM (List RegWrite) := do
  let n := x.imm24.toNat + 1
  if !(opData o 5 l).getLsbD 0 then pure (wordWrites x.vd.toNat l (List.replicate n 0))
  else do
    let a : DWord := opData o 7 l ++ opData o 6 l
    if a.toNat % 64 ≠ 0 then laneEnd (.fault .misalign a)
    else do
      let p ← laneRead w a 64
      let attr := bits p 440 384
      if bits p 383 360 ≠ 0 ∨ bits p 511 441 ≠ 0 then laneEnd (.fault .illegal a)
      else if attr % 4 ≠ 0 then laneEnd (.fault .misalign (BitVec.ofNat 64 attr))
      else do
        let u := readF .f32 (opData o 1 l).toNat
        let v := readF .f32 (opData o 2 l).toNat
        let w0 := fSum 0 [.fin false 1 0, fFlip u, fFlip v]
        let at_ (i j : Nat) : LaneM FVal := do
          let b ← laneRead w (BitVec.ofNat 64 (attr + 4 * (n * i + j))) 4
          pure (readF .f32 b)
        let out ← (List.range n).foldlM (fun (l : List Nat) j => do
          let a0 ← at_ 0 j
          let a1 ← at_ 1 j
          let a2 ← at_ 2 j
          pure (l ++ [roundF .f32 0 false (fSum 0 [fMul a0 w0, fMul a1 u, fMul a2 v])])) []
        pure (wordWrites x.vd.toNat l out)

/-- How a lane of a ray word performs. -/
def rayLane (o : LaneOp) (l : Nat) (s : State) : State × LaneRes :=
  match waveAt s s.cur.core s.cur.slot, o.word with
  | some w, .trace x => laneRun (traceLane w x false o l) s
  | some w, .traceq x => laneRun (traceLane w x true o l) s
  | some w, .hitget x => laneRun (hitgetLane w x o l) s
  | _, _ => (s, .ok [])

/-- A ray word: eight registers of va are captured, with the address that sbase holds. -/
def rayWord (i : Instr) (x : LXWord) (s : State) : Out :=
  onLane s x.guard.toNat (fun w t _ act =>
    issueOp rayLane s w x.stop (newOp w t i act (laneAddrs act (fun _ => rdP w x.sbase.toNat)) (capture s w act x.va.toNat 8 0 [])))

/-- `TRACE` (R375). -/
def execTrace (w : LXWord) (s : State) : Out := rayWord (.trace w) w s
/-- `TRACEQ` (R375). -/
def execTraceq (w : LXWord) (s : State) : Out := rayWord (.traceq w) w s
/-- `HITGET` (R376). -/
def execHitget (w : LXWord) (s : State) : Out := rayWord (.hitget w) w s

end Sys2Proof.Machine
end

