-- ==== Sys2Proof/Machine/Flags.lean ====
section
/-! DEFINITION. Machine/Flags.lean: the scalar flags Z, N, C, V (R182) and the conditions on them (R26, R28). -/

namespace Sys2Proof.Machine

/-- Flags of `a - b` over `n` bits (R182, `SCMP`). -/
def flagsSub (n : Nat) (a b : BitVec n) : Flags :=
  let r := a - b
  { z := r == 0, n := r.msb, c := decide (b.toNat ≤ a.toNat), v := a.msb != b.msb && r.msb != a.msb }

/-- Sum with carry in, and its flags (R182, `SADDC`). -/
def addCarry (n : Nat) (a b : BitVec n) (c : Bool) : BitVec n × Flags :=
  let t := a.toNat + b.toNat + (if c then 1 else 0)
  let r := BitVec.ofNat n t
  (r, { z := r == 0, n := r.msb, c := decide (2 ^ n ≤ t), v := a.msb == b.msb && r.msb != a.msb })

/-- Flags of a bit test (R182, `STST`). -/
def flagsTest (a b : Word) : Flags :=
  let r := a &&& b
  { z := r == 0, n := r.msb, c := false, v := false }

/-- The condition of `BC` holds (R28). -/
def condHolds (c : Cond) (f : Flags) : Bool :=
  match c with
  | .al => true
  | .eq => f.z
  | .ne => !f.z
  | .lt => f.n != f.v
  | .ge => f.n == f.v
  | .ltu => !f.c
  | .geu => f.c
  | .gt => !f.z && f.n == f.v
  | .le => f.z || f.n != f.v
  | .gtu => f.c && !f.z
  | .leu => !f.c || f.z
  | .mi => f.n
  | .pl => !f.n
  | .vs => f.v
  | .vc => !f.v

/-- The condition of `SSEL` holds (R26, R28). -/
def selHolds (c : SelCond) (f : Flags) : Bool :=
  match c with
  | .eq => f.z
  | .ne => !f.z
  | .lt => f.n != f.v
  | .ltu => !f.c

end Sys2Proof.Machine
end

