-- ==== Sys2Proof/Machine/ScalarAlu.lean ====
section
/-! DEFINITION. Machine/ScalarAlu.lean: the scalar ALU words (R181 to R183) and the mask words (R187). -/

namespace Sys2Proof.Machine

/-- A word that changes its wave and goes on to the next word. -/
def doneWith (s : State) (g : Wave → Frag → Wave) : Out := onFrag s (fun w f => done s (g w f) f)

/-- A two-operand word over its type's width (R181). -/
def aluRR (t : SType) (d a b : SReg) (op : (n : Nat) → BitVec n → BitVec n → BitVec n) (s : State) : Out :=
  doneWith s (fun w _ =>
    if stypeWide t then wrP w d.toNat (op 64 (rdP w a.toNat) (rdP w b.toNat))
    else wrS w d.toNat (op 32 (rdS w a.toNat) (rdS w b.toNat)))

/-- A word of one register and a sign-extended immediate, over 32 bits (R181). -/
def aluRI (d a : SReg) (i : BitVec 10) (op : Word → Word → Word) (s : State) : Out :=
  doneWith s (fun w _ => wrS w d.toNat (op (rdS w a.toNat) (i.signExtend 32)))

/-- The signed types of a scalar word (R27). -/
def stypeSigned : SType → Bool
  | .i32 | .i64 => true
  | _ => false

/-- High half of a product (R181). -/
def mulHigh (signed : Bool) (n : Nat) (a b : BitVec n) : BitVec n :=
  if signed then BitVec.ofInt n (a.toInt * b.toInt / ((2 ^ n : Nat) : Int)) else BitVec.ofNat n (a.toNat * b.toNat / 2 ^ n)

/-- Quotient truncated toward zero; a zero divisor gives all ones (R181). -/
def divTrunc (signed : Bool) (n : Nat) (a b : BitVec n) : BitVec n :=
  if b = 0 then BitVec.allOnes n else if signed then BitVec.ofInt n (a.toInt.tdiv b.toInt) else BitVec.ofNat n (a.toNat / b.toNat)

/-- The remainder of `divTrunc`; a zero divisor gives the dividend (R181). -/
def remTrunc (signed : Bool) (n : Nat) (a b : BitVec n) : BitVec n :=
  if b = 0 then a else if signed then BitVec.ofInt n (a.toInt.tmod b.toInt) else BitVec.ofNat n (a.toNat % b.toNat)

/-- The lesser of two values, or the greater. -/
def minMax (signed greater : Bool) (n : Nat) (a b : BitVec n) : BitVec n :=
  let less := if signed then decide (a.toInt < b.toInt) else decide (a.toNat < b.toNat)
  if less != greater then a else b

/-- Left shift by a count modulo the width. -/
def shiftL (n : Nat) (a b : BitVec n) : BitVec n := a <<< (b.toNat % n)
/-- Logical right shift. -/
def shiftR (n : Nat) (a b : BitVec n) : BitVec n := a >>> (b.toNat % n)
/-- Arithmetic right shift. -/
def shiftA (n : Nat) (a b : BitVec n) : BitVec n := a.sshiftRight (b.toNat % n)

/-- `SADD` (R181). -/
def execSadd (t : SType) (d a b : SReg) (s : State) : Out := aluRR t d a b (fun _ x y => x + y) s
/-- `SSUB` (R181). -/
def execSsub (t : SType) (d a b : SReg) (s : State) : Out := aluRR t d a b (fun _ x y => x - y) s
/-- `SMUL` (R181). -/
def execSmul (t : SType) (d a b : SReg) (s : State) : Out := aluRR t d a b (fun _ x y => x * y) s
/-- `SMULH` (R181). -/
def execSmulh (t : SType) (d a b : SReg) (s : State) : Out := aluRR t d a b (mulHigh (stypeSigned t)) s
/-- `SDIV` (R181). -/
def execSdiv (t : SType) (d a b : SReg) (s : State) : Out := aluRR t d a b (divTrunc (stypeSigned t)) s
/-- `SREM` (R181). -/
def execSrem (t : SType) (d a b : SReg) (s : State) : Out := aluRR t d a b (remTrunc (stypeSigned t)) s
/-- `SAND` (R181). -/
def execSand (t : SType) (d a b : SReg) (s : State) : Out := aluRR t d a b (fun _ x y => x &&& y) s
/-- `SOR` (R181). -/
def execSor (t : SType) (d a b : SReg) (s : State) : Out := aluRR t d a b (fun _ x y => x ||| y) s
/-- `SXOR` (R181). -/
def execSxor (t : SType) (d a b : SReg) (s : State) : Out := aluRR t d a b (fun _ x y => x ^^^ y) s
/-- `SANDN` (R181). -/
def execSandn (t : SType) (d a b : SReg) (s : State) : Out := aluRR t d a b (fun _ x y => x &&& ~~~y) s
/-- `SSHL` (R181). -/
def execSshl (t : SType) (d a b : SReg) (s : State) : Out := aluRR t d a b shiftL s
/-- `SSHR` (R181). -/
def execSshr (wide : Bool) (d a b : SReg) (s : State) : Out := aluRR (if wide then .n64 else .n32) d a b shiftR s
/-- `SSAR` (R181). -/
def execSsar (wide : Bool) (d a b : SReg) (s : State) : Out := aluRR (if wide then .i64 else .i32) d a b shiftA s
/-- `SMIN` (R181). -/
def execSmin (t : SType) (d a b : SReg) (s : State) : Out := aluRR t d a b (minMax (stypeSigned t) false) s
/-- `SMAX` (R181). -/
def execSmax (t : SType) (d a b : SReg) (s : State) : Out := aluRR t d a b (minMax (stypeSigned t) true) s

/-- The word's flags go to the issuing fragment (R182). -/
def flagWord (s : State) (g : Wave → Frag → Flags) : Out := onFrag s (fun w f => done s w { f with flags := g w f })

/-- `SCMP` (R182). -/
def execScmp (t : SType) (a b : SReg) (s : State) : Out :=
  flagWord s (fun w _ =>
    if stypeWide t then flagsSub 64 (rdP w a.toNat) (rdP w b.toNat) else flagsSub 32 (rdS w a.toNat) (rdS w b.toNat))

/-- `SADDC` (R182). -/
def execSaddc (t : SType) (d a b : SReg) (s : State) : Out :=
  onFrag s (fun w f =>
    if stypeWide t then
      let r := addCarry 64 (rdP w a.toNat) (rdP w b.toNat) f.flags.c
      done s (wrP w d.toNat r.1) { f with flags := r.2 }
    else
      let r := addCarry 32 (rdS w a.toNat) (rdS w b.toNat) f.flags.c
      done s (wrS w d.toNat r.1) { f with flags := r.2 })

/-- `SADD_IMM` (R181). -/
def execSaddImm (d a : SReg) (i : BitVec 10) (s : State) : Out := aluRI d a i (fun x y => x + y) s
/-- `SMUL_IMM` (R181). -/
def execSmulImm (d a : SReg) (i : BitVec 10) (s : State) : Out := aluRI d a i (fun x y => x * y) s
/-- `SAND_IMM` (R181). -/
def execSandImm (d a : SReg) (i : BitVec 10) (s : State) : Out := aluRI d a i (fun x y => x &&& y) s
/-- `SOR_IMM` (R181). -/
def execSorImm (d a : SReg) (i : BitVec 10) (s : State) : Out := aluRI d a i (fun x y => x ||| y) s
/-- `SXOR_IMM` (R181). -/
def execSxorImm (d a : SReg) (i : BitVec 10) (s : State) : Out := aluRI d a i (fun x y => x ^^^ y) s
/-- `SMIN_IMM` (R27, R181): signed. -/
def execSminImm (d a : SReg) (i : BitVec 10) (s : State) : Out := aluRI d a i (minMax true false 32) s
/-- `SMAX_IMM` (R27, R181): signed. -/
def execSmaxImm (d a : SReg) (i : BitVec 10) (s : State) : Out := aluRI d a i (minMax true true 32) s

/-- `SSHL_IMM` (R27, R181). -/
def execSshlImm (d a : SReg) (i : BitVec 5) (s : State) : Out :=
  doneWith s (fun w _ => wrS w d.toNat (rdS w a.toNat <<< i.toNat))
/-- `SSHR_IMM` (R27, R181). -/
def execSshrImm (d a : SReg) (i : BitVec 5) (s : State) : Out :=
  doneWith s (fun w _ => wrS w d.toNat (rdS w a.toNat >>> i.toNat))
/-- `SSAR_IMM` (R27, R181). -/
def execSsarImm (d a : SReg) (i : BitVec 5) (s : State) : Out :=
  doneWith s (fun w _ => wrS w d.toNat ((rdS w a.toNat).sshiftRight i.toNat))

/-- `SCMP_IMM` (R182). -/
def execScmpImm (a : SReg) (i : BitVec 10) (s : State) : Out :=
  flagWord s (fun w _ => flagsSub 32 (rdS w a.toNat) (i.signExtend 32))
/-- `STST` (R182). -/
def execStst (a b : SReg) (s : State) : Out := flagWord s (fun w _ => flagsTest (rdS w a.toNat) (rdS w b.toNat))
/-- `STST_IMM` (R182). -/
def execStstImm (a : SReg) (i : BitVec 10) (s : State) : Out :=
  flagWord s (fun w _ => flagsTest (rdS w a.toNat) (i.signExtend 32))

/-- `SBFX` (R26, R183): the field holds the width less one. -/
def execSbfx (d a : SReg) (w o : BitVec 5) (s : State) : Out :=
  doneWith s (fun v _ => wrS v d.toNat (BitVec.ofNat 32 ((rdS v a.toNat).toNat / 2 ^ o.toNat % 2 ^ (w.toNat + 1))))
/-- `SEXT` (R183). -/
def execSext (d a : SReg) (b : BitVec 5) (s : State) : Out :=
  doneWith s (fun w _ => wrS w d.toNat (BitVec.ofInt 32 (sgn (b.toNat + 1) (rdS w a.toNat).toNat)))
/-- The value of a register or pair. -/
def rdWide (w : Wave) (wide : Bool) (a : SReg) : Nat := if wide then (rdP w a.toNat).toNat else (rdS w a.toNat).toNat
/-- `SCLZ` (R183). -/
def execSclz (d a : SReg) (wide : Bool) (s : State) : Out :=
  doneWith s (fun w _ => wrS w d.toNat (BitVec.ofNat 32 (clz (if wide then 64 else 32) (rdWide w wide a))))
/-- `SPOPC` (R183). -/
def execSpopc (d a : SReg) (wide : Bool) (s : State) : Out :=
  doneWith s (fun w _ => wrS w d.toNat (BitVec.ofNat 32 (popcount 64 (rdWide w wide a))))
/-- `SSEL` (R183). -/
def execSsel (d a b : SReg) (c : SelCond) (s : State) : Out :=
  doneWith s (fun w f => wrS w d.toNat (if selHolds c f.flags then rdS w a.toNat else rdS w b.toNat))
/-- `SLI` (R26, R183): the next word is 8 bytes on (R25). -/
def execSli (f : SliForm) (d : SReg) (imm : Word) (s : State) : Out :=
  onFrag s (fun w g =>
    let w' := match f with
      | .w32 => wrS w d.toNat imm
      | .i64 => wrP w d.toNat (imm.signExtend 64)
      | .n64 => wrP w d.toNat (imm.setWidth 64)
    goTo s w' g (g.pc + 8))

/-! ## Masks (R187) -/

/-- A mask from two masks. -/
def maskOp (d a b : MReg) (op : Word → Word → Word) (s : State) : Out :=
  doneWith s (fun w f => wrM w d.toNat (op (rdM w f a.toNat) (rdM w f b.toNat)))

/-- `MAND` (R187). -/
def execMand (d a b : MReg) (s : State) : Out := maskOp d a b (fun x y => x &&& y) s
/-- `MOR` (R187). -/
def execMor (d a b : MReg) (s : State) : Out := maskOp d a b (fun x y => x ||| y) s
/-- `MXOR` (R187). -/
def execMxor (d a b : MReg) (s : State) : Out := maskOp d a b (fun x y => x ^^^ y) s
/-- `MANDN` (R187). -/
def execMandn (d a b : MReg) (s : State) : Out := maskOp d a b (fun x y => x &&& ~~~y) s
/-- `MNOT` (R187). -/
def execMnot (d a : MReg) (s : State) : Out := doneWith s (fun w f => wrM w d.toNat (~~~(rdM w f a.toNat)))
/-- `MSET` (R187). -/
def execMset (d : MReg) (a : SReg) (s : State) : Out := doneWith s (fun w _ => wrM w d.toNat (rdS w a.toNat))
/-- `MGET` (R187). -/
def execMget (d : SReg) (a : MReg) (s : State) : Out := doneWith s (fun w f => wrS w d.toNat (rdM w f a.toNat))
/-- `MPOP` (R187). -/
def execMpop (d : SReg) (a : MReg) (s : State) : Out :=
  doneWith s (fun w f => wrS w d.toNat (BitVec.ofNat 32 (popc (rdM w f a.toNat))))
/-- `MFIRST` (R187). -/
def execMfirst (d : SReg) (a : MReg) (s : State) : Out :=
  doneWith s (fun w f => wrS w d.toNat (BitVec.ofNat 32 (firstSet (rdM w f a.toNat))))

end Sys2Proof.Machine
end

