-- ==== Sys2Proof/Machine/Room.lean ====
section
/-! DEFINITION. Machine/Room.lean: the room a group takes: its largest save size (R124), wave slots and registers
(R131, R132), banks (R151) and trays (R230); and the start of its waves (R133, R146). -/

namespace Sys2Proof.Machine

/-- Tray entries of a core (R131). -/
def trayEntries : Nat := 256

/-- Entries a grid holds on a core. -/
def traysHeld (c : Core) (gi : Nat) : Nat := (c.trays.filter (fun t => t.2.grid == gi)).length

/-- Grids that hold or reserve entries on a core. -/
def trayGrids (s : State) (core : Nat) : List Nat :=
  (((coreOf s core).trays.map (fun t => t.2.grid)) ++ (s.groups.map (fun g => g.2.grid))).eraseDups

/-- Free entries that groups have reserved and not used. -/
def reservedFree (s : State) (core : Nat) : Nat :=
  ((trayGrids s core).map (fun gi => reservedBy s core gi - traysHeld (coreOf s core) gi)).foldl (· + ·) 0

/-! ## The darkslide (R124) -/

/-- The largest save size of a group. -/
def saveBytes (waves blocks scratch fifo trays : Nat) : Nat :=
  768 + waves * (1024 + 1024 * blocks + 65536) + alignUp scratch 256 + alignUp (128 * (fifo / 128)) 256
    + alignUp (528 * trays) 256 + 131072 * (if 64 < waves then 2 else 1)

/-- The largest save size of a group of a kernel. -/
def kernelSave (d : KDesc) : Nat := saveBytes d.groupWaves d.vregBlocks d.scratchBytes d.fifoBytes d.trayCount

/-- The kernel of a grid that exists. -/
def descOf (s : State) (gi : Nat) : Option KDesc := (Map.find s.grids gi).map (·.desc)

/-- The largest save size of a group. -/
def groupSave (s : State) (g : Group) : Nat :=
  match descOf s g.grid with
  | none => 0
  | some d => if g.isTray then saveBytes 1 d.vregBlocks 0 0 0 else kernelSave d

/-- Entries that the grids of a queue hold beyond what they reserve. -/
def extraTrays (s : State) (q : Nat) : Nat :=
  ((s.grids.filter (fun e => e.2.queue == q)).flatMap (fun e =>
    s.cores.map (fun c => traysHeld c.2 e.1 - reservedBy s c.1 e.1))).foldl (· + ·) 0

/-- The queue that a group belongs to. -/
def groupQueue (s : State) (g : Group) : Option Nat := (Map.find s.grids g.grid).map (·.queue)

/-- A queue's darkslide holds every group of it that is placed, and `n` bytes more. -/
def slideFits (s : State) (q n : Nat) : Bool :=
  let used := (s.groups.filter (fun e => groupLive e.2 && groupQueue s e.2 == some q)).foldl (fun a e => a + groupSave s e.2) 0
  decide (used + 528 * extraTrays s q + n + 4096 ≤ (queueOf s q).saveLen.toNat * 65536)

/-! ## Wave slots and registers (R131, R132) -/

/-- The group holds its place on its core. -/
def holdsPlace (g : Group) : Bool := g.st == .placing || g.st == .resident || g.st == .draining

/-- Wave slots held, each with the registers its wave started with. -/
def slotsHeld (s : State) : List (Nat × Nat) :=
  s.groups.flatMap (fun e =>
    if holdsPlace e.2 then e.2.slots.map (fun x => (x, 8 * ((descOf s e.2.grid).map (·.vregBlocks)).getD 0)) else [])

/-- Waves of a core's `n` waves that lie in a partition. -/
def partWaves (n p : Nat) : Nat := (n - p + 3) / 4

/-- The core has wave slots and registers for `n` more waves of `blocks` blocks. -/
def wavesFit (s : State) (core n blocks : Nat) : Bool :=
  (List.range 4).all (fun p =>
    let l := (slotsHeld s).filter (fun x => x.1 / 16 == 4 * core + p)
    decide (l.length + partWaves n p ≤ 16)
      && decide (l.foldl (fun a x => a + x.2) 0 + 8 * blocks * partWaves n p ≤ 1024))

/-- The lowest number below `lim` that a list does not hold. -/
def lowestNot (l : List Nat) (lim : Nat) : Option Nat := (List.range lim).find? (fun i => !l.contains i)

/-- The lowest free wave slot of a partition, as 64 * core + slot. -/
def freeSlot (s : State) (taken : List Nat) (core p : Nat) : Nat :=
  let base := 64 * core + 16 * p
  base + ((lowestNot (((slotsHeld s).map (·.1) ++ taken).filterMap (fun x => if base ≤ x then some (x - base) else none)) 16).getD 0)

/-- The slots of a group's waves in ascending order: those from 64 on lie on the upper core. -/
def takeSlots (s : State) (core n : Nat) : List Nat :=
  (List.range n).foldl (fun l w => l ++ [freeSlot s l (core + w / 64) (w % 4)]) []

/-- The lowest free group slot of a core (R154). -/
def freeGslot (s : State) (core : Nat) : Nat :=
  (lowestNot ((s.groups.filter (fun e => holdsPlace e.2 && e.2.core == core)).map (fun e => e.2.gslot)) 64).getD 0

/-! ## Banks (R151) -/

/-- The mode a bank ends in, any change in progress taken as done. -/
def bankEnds (b : Bank) : BankMode := b.change.getD b.mode

/-- The bank is in CACHE and stays there: two such banks remain at all times (R151). -/
def bankStays (b : Bank) : Bool := b.mode == .cache && bankEnds b == .cache

/-- Free granules of a mode on a core. -/
def freeGran (s : State) (core : Nat) (m : BankMode) : List (Nat × Nat) :=
  (List.range 16).flatMap (fun i =>
    let b := bankOf (coreOf s core) i
    if b.mode = m ∧ b.change.isNone then
      ((List.range 8).map (fun j => (i, j))).filter (fun x => !(granulesOn s core).contains x)
    else [])

/-- Granules for a group, and the banks to convert for them. -/
structure BankPlan where
  scratch : List (Nat × Nat)
  fifo : List (Nat × Nat)
  toScratch : List Nat
  toFifo : List Nat
  deriving DecidableEq, Repr

/-- The granules of some banks. -/
def bankGran (l : List Nat) : List (Nat × Nat) := l.flatMap (fun i => (List.range 8).map (fun j => (i, j)))

/-- Find granules on a core, converting unheld CACHE banks, the highest first, when those of a mode fall short; two banks
stay CACHE. -/
def planBanks (s : State) (core ns nf : Nat) : Option BankPlan :=
  let c := coreOf s core
  let gs := freeGran s core .scratch
  let gf := freeGran s core .fifo
  let caches := ((List.range 16).reverse).filter (fun i =>
    let b := bankOf c i
    b.mode == .cache && b.change.isNone && !b.hold)
  let stay := ((List.range 16).filter (fun i => bankStays (bankOf c i))).length
  let a := ceilDiv (ns - gs.length) 8
  let b := ceilDiv (nf - gf.length) 8
  if a + b ≤ caches.length ∧ (a + b = 0 ∨ a + b + 2 ≤ stay) then
    let ba := caches.take a
    let bb := (caches.drop a).take b
    some { scratch := (gs ++ bankGran ba.reverse).take ns, fifo := (gf ++ bankGran bb.reverse).take nf,
           toScratch := ba, toFifo := bb }
  else none

/-- Start the conversions of a plan. -/
def convertBanks (s : State) (core : Nat) (p : BankPlan) : State :=
  let go (m : BankMode) (c : Core) (l : List Nat) : Core :=
    l.foldl (fun c i => putBank c i { bankOf c i with change := some m }) c
  putCore s core (go .fifo (go .scratch (coreOf s core) p.toScratch) p.toFifo)

/-! ## Waves at start (R48, R133) -/

/-- `ROLE` of a wave (R50). -/
def roleOf : List (Nat × Nat) → Nat → Nat
  | [], _ => 0
  | (v, n) :: rest, w => if w < n then v else roleOf rest (w - n)

/-- `TEAM` of a wave. -/
def teamReg (d : KDesc) (w : Nat) : Nat := if d.teamSize = 0 then 0 else d.teamSize + 16 * (w / d.teamSize)

/-- The identity registers of a wave. -/
def waveIdent (g : Grid) (x : Group) (w waves role : Nat) : WaveId :=
  { waveid := BitVec.ofNat 32 w, groupx := BitVec.ofNat 32 x.gx, groupy := BitVec.ofNat 32 x.gy, groupz := BitVec.ofNat 32 x.gz,
    gridx := BitVec.ofNat 32 g.nx, gridy := BitVec.ofNat 32 g.ny, gridz := BitVec.ofNat 32 g.nz,
    groupwaves := BitVec.ofNat 32 waves, role := BitVec.ofNat 32 role, team := BitVec.ofNat 32 (teamReg g.desc w), karg := g.karg }

/-- The one fragment of a wave that starts. -/
def startFrag (m0 : Word) (pc : Nat) : Frag :=
  { m0 := m0, pc := BitVec.ofNat 64 pc, flags := Flags.zero, depth := 0, token := 0, wait := .none, handler := false }

/-- A wave that starts in a slot, 64 * core + slot. -/
def startWave (s : State) (gid : Nat) (g : Grid) (id : WaveId) (x : Nat) (m0 : Word) (entry : Nat) (tray : Option TrayInfo) :
    Wave :=
  { core := x / 64, slot := x % 64, gid := gid, ident := id, lcbase := BitVec.ofNat 64 (g.image + g.desc.lcodeOffset),
    priv := .u, sregs := [], vregs := [], masks := [], valloc := 8 * g.desc.vregBlocks, sbound := g.desc.sregCount,
    fragA := some (startFrag m0 (g.image + g.desc.scodeOffset + entry)), fragB := none, bOlder := false, stack := [],
    feeds := [], evqs := [], strips := [], headOff := 0, lstop := false, fenceR := 0, fenceW := 0, ops := [], late := [],
    nextOp := 0, trap := .none, held := [], treg := TrapRegs.zero, shadow := Shadow.zero, yieldOn := [], yieldClaim := [],
    poison := [], age := s.clock.toNat, starved := false, spin := 0, demoted := false, backoffCount := 0, tray := tray }

/-- A placed group whose banks are granted becomes resident, and its waves start (R146). -/
def grantGroup (s : State) (gid : Nat) : State :=
  match groupOf s gid with
  | none => s
  | some x =>
    match Map.find s.grids x.grid with
    | none => s
    | some g =>
      if x.st = .placing ∧ x.wantBanks = [] then
        let s1 := putGroup s gid { x with st := .resident }
        (x.slots.zip (List.range x.slots.length)).foldl (fun t p =>
          putWave t (startWave s gid g (waveIdent g x p.2 x.waves (roleOf g.desc.roles p.2)) p.1 0xFFFFFFFF g.desc.entryOffset none)) s1
      else s

/-- Grant every group that waits for no bank. -/
def grantGroups (s : State) : State :=
  (s.groups.filter (fun e => e.2.st == .placing && e.2.wantBanks == [])).foldl (fun t e => grantGroup t e.1) s

end Sys2Proof.Machine
end

