-- ==== Sys2Proof/Machine/Slide.lean ====
section
/-! DEFINITION. Machine/Slide.lean: the darkslide in memory (R127): the records that a save writes and a restore reads (R158, R179, R180,
R240, R246, R359 to R361). What these layouts have no place for stays with the saved group (log 11). -/

namespace Sys2Proof.Machine

/-! ## Fields -/

/-- Fields packed from bit 0 up: each a width and a value. -/
def packBits : List (Nat × Nat) → Nat
  | [] => 0
  | (w, x) :: rest => x % 2 ^ w + 2 ^ w * packBits rest

/-- Bits of a field at a place. -/
def field (x at_ w : Nat) : Nat := x / 2 ^ at_ % 2 ^ w

/-- A truth value as a bit. -/
def bitOf (b : Bool) : Nat := if b then 1 else 0

/-! ## Places in the darkslide (R117, R127) -/

/-- The key of a byte of a queue's darkslide, where the device can reach it. -/
def slideKey (s : State) (q off : Nat) : Option Nat :=
  let x := queueOf s q
  match ctxOf s x.ctxId with
  | none => none
  | some c => devKey s x.ctxId .s (c.desc.saveBase + 65536 * x.saveOff.toNat + off) .write

/-- Some lines of a queue's darkslide as one number. -/
def slideGet (s : State) (q off : Nat) : Nat → Option Nat
  | 0 => some 0
  | n + 1 =>
    match slideKey s q off, slideGet s q (off + 128) n with
    | some k, some r => some (readNum s.mem k 128 + 2 ^ 1024 * r)
    | _, _ => none

/-- Write some lines of a queue's darkslide, under its context's key. -/
def slidePut (s : State) (q off x : Nat) : Nat → State
  | 0 => s
  | n + 1 =>
    let t :=
      match slideKey s q off, ctxOf s (queueOf s q).ctxId with
      | some k, some c =>
        let u := putNum s k 128 (x % 2 ^ 1024)
        { u with sealed := Map.insert u.sealed (lineOf k) (c.key + 1) }
      | _, _ => s
    slidePut t q (off + 128) (x / 2 ^ 1024) n

/-- The header of a darkslide (R127). -/
def slideHeader (d : Darkslide) : Nat :=
  packBits [(32, 0x44534C44), (32, bitOf d.valid), (32, d.nextPacket.toNat), (16, d.groups.length), (16, 0), (32, d.bytes)]

/-! ## The wave record (R179) -/

/-- A fragment entry. -/
def fragNum (f : Option Frag) : Nat :=
  match f with
  | none => 0
  | some f =>
    let join := f.wait == .join
    packBits [(2, if join then 2 else 1), (1, bitOf f.flags.z), (1, bitOf f.flags.n), (1, bitOf f.flags.c), (1, bitOf f.flags.v), (6, f.depth),
      (10, if join then f.token.toNat else 0), (10, 0), (32, f.m0.toNat), (55, f.pc.toNat / 4), (9, 0)]

/-- A fragment as an entry gives it; what the entry does not say is as it was. -/
def fragRead (x : Nat) (priv : Priv) (old : Option Frag) : Option Frag :=
  let st := field x 0 2
  let o := old.getD { m0 := 0, pc := 0, flags := Flags.zero, depth := 0, token := 0, wait := .none, handler := priv == .s }
  if st = 0 then none
  else
    some { o with m0 := BitVec.ofNat 32 (field x 32 32), pc := BitVec.ofNat 64 (4 * field x 64 55)
                  flags := { z := bit x 2, n := bit x 3, c := bit x 4, v := bit x 5 }, depth := field x 6 6
                  token := BitVec.ofNat 10 (field x 12 10)
                  wait := if st = 2 then .join else if o.wait = .join then .none else o.wait }

/-- A feed entry. -/
def feedNum (f : Feed) : Nat :=
  packBits [(57, f.nextAddr.toNat), (1, bitOf f.run), (1, bitOf f.underflow), (2, f.size.toNat), (3, 0), (32, f.stride.toNat), (32, f.remaining.toNat)]

/-- A feed as its entry gives it: it has read nothing ahead (R175). -/
def feedRead (x : Nat) : Feed :=
  { nextAddr := BitVec.ofNat 64 (field x 0 57), size := BitVec.ofNat 2 (field x 59 2), stride := BitVec.ofNat 32 (field x 64 32)
    remaining := BitVec.ofNat 32 (field x 96 32), run := bit x 57, underflow := bit x 58, buf := [] }

/-- A strip entry. -/
def stripNum (t : Strip) : Nat := packBits [(18, t.lcidx.toNat), (8, t.len - 1), (1, bitOf t.b), (5, 0)]

/-- A strip as its entry gives it. -/
def stripRead (x : Nat) : Strip := { lcidx := BitVec.ofNat 18 (field x 0 18), len := field x 18 8 + 1, b := bit x 26 }

/-- `n` entries of a width each, from a place. -/
def entriesAt (x at_ w n : Nat) : List Nat := (List.range n).map (fun i => field x (at_ + w * i) w)

/-- wstate of a saved wave (R167, R179): it yields for nothing. -/
def waveState (w : Wave) : Nat :=
  if (liveFrags w).any (fun f => parkedWait f.wait && f.wait != .join) then 2 else if (slotFrags w).all (fun f => f.wait == .join) then 1 else 0

/-- The wave record. -/
def waveNum (w : Wave) : Nat :=
  packBits ([(32, w.lcbase.toNat)] ++ (List.range 191).map (fun n => (32, (rdS w (n + 1)).toNat))
    ++ (List.range 15).map (fun n => (32, (Tab.get 0 w.masks (n + 1)).toNat))
    ++ [(5, w.stack.length), (1, bitOf (w.priv == .s)), (3, waveState w), (8, w.headOff), (5, w.strips.length), (10, 0),
        (128, fragNum w.fragA), (128, fragNum w.fragB)]
    ++ (List.range 4).map (fun n => (128, feedNum (feedOf w n)))
    ++ (List.range 16).map (fun n => (32, ((w.strips[n]?).map stripNum).getD 0))
    ++ [(64, w.treg.pc.toNat), (64, w.treg.addr.toNat), (32, w.treg.cause.toNat), (32, w.treg.mask.toNat), (32, w.treg.info.toNat),
        (32, w.lcbase.toNat / 2 ^ 32)])

/-- A table of words as entries give it, from number `i` on. -/
def wordsRead (m : Map Word) (i : Nat) : List Nat → Map Word
  | [] => m
  | x :: rest => wordsRead (Tab.set 0 m i (BitVec.ofNat 32 x)) (i + 1) rest

/-- A wave as its record gives it, its vector registers apart; what the record does not say is as it was. -/
def waveRead (x : Nat) (w : Wave) : Wave :=
  let priv : Priv := if bit x 6629 then .s else .u
  { w with lcbase := BitVec.ofNat 64 (field x 0 32 + 2 ^ 32 * field x 8160 32), sregs := wordsRead [] 1 (entriesAt x 32 32 191)
           masks := wordsRead [] 1 (entriesAt x 6144 32 15), priv := priv, headOff := field x 6633 8
           strips := ((entriesAt x 7424 32 16).take (field x 6641 5)).map stripRead
           fragA := fragRead (field x 6656 128) priv w.fragA, fragB := fragRead (field x 6784 128) priv w.fragB
           feeds := (List.range 4).foldl (fun m n => Tab.set Feed.init m n (feedRead (field x (6912 + 128 * n) 128))) []
           treg := { pc := BitVec.ofNat 64 (field x 7936 64), addr := BitVec.ofNat 64 (field x 8000 64), cause := BitVec.ofNat 32 (field x 8064 32)
                     mask := BitVec.ofNat 32 (field x 8096 32), info := BitVec.ofNat 32 (field x 8128 32) } }

/-! ## Replay records (R359 to R361) -/

/-- A replay record: kind, wave, fragment slot, cause, address, and its body in fields. -/
structure SlideRec where
  kind : Nat
  wave : Nat
  slot : Bool
  cause : Nat
  addr : Nat
  len : Nat
  body : List (Nat × Nat)
  deriving DecidableEq, Repr

/-- A record's fields: its header, its body, and zeros up to its length. -/
def recFields (r : SlideRec) : List (Nat × Nat) :=
  [(4, r.kind), (7, r.wave), (1, bitOf r.slot), (4, 0), (16, r.len), (6, r.cause), (26, 0), (57, r.addr), (7, 0), (8 * (r.len - 16), packBits r.body)]

/-- The kind of a lane word's record. -/
def recKind (i : Instr) : Nat :=
  match i with
  | .sample _ | .samplel _ | .sampleg _ | .texld _ | .texst _ => 1
  | .trace _ | .traceq _ => 2
  | .lyins _ | .lyread _ | .lyresolve _ | .lyclear _ => 6
  | _ => 0

/-- The bits of a lane word. -/
def laneBits (i : Instr) : Nat :=
  match encode i with
  | some (.lane x) => x.toNat
  | _ => 0

/-- What a record holds of a lane, in words: its operands as they were read at issue. -/
def laneEntry (kind : Nat) (o : LaneOp) (l : Nat) : List (Nat × Nat) :=
  let word (j : Nat) : Nat × Nat := (32, (opData o j l).toNat)
  match kind with
  | 1 => (List.range 8).map word
  | 2 => (List.range 16).map word ++ [(2560, 0)]
  | _ => [(16, (opData o 0 l).toNat), (16, (opData o 1 l).toNat)] ++ (List.range 6).map (fun j => word (j + 2)) ++ [(32, 0)]

/-- The record of a lane operation. -/
def laneRecord (wv : Nat) (o : LaneOp) : SlideRec :=
  let kind := recKind o.word
  let r : Nat := ((lxView o.word).map (fun x => if is64 x.2.ty then 2 else 1)).getD 1
  let opnd (j l : Nat) : Nat × Nat := (64, (opData o j l).toNat + (if r = 2 then 2 ^ 32 * (opData o (j + 1) l).toNat else 0))
  let head : List (Nat × Nat) := [(128, laneBits o.word), (32, o.active.toNat), (32, o.done.toNat), (32, (maskOf (o.faults.map (·.1))).toNat),
    (18, o.lcidx.toNat), (14, o.off)]
  let lanes := List.range 32
  { kind := kind, wave := wv, slot := o.b, cause := ((firstCause o.faults).map causeCode).getD 0
    addr := match o.faults, o.misses with
      | f :: _, _ => f.2.2.toNat
      | [], _ :: _ => (opAddr o (firstSet (undone o))).toNat
      | [], [] => 0
    len := recordBytes o.word
    body := head ++ (if kind = 0 then lanes.map (fun l => (64, (opAddr o l).toNat)) ++ lanes.flatMap (fun l => [opnd 0 l, opnd r l])
                     else lanes.flatMap (laneEntry kind o)) }

/-- The record of an engine operation. -/
def engRec (slot : Nat) (o : EngOp) : SlideRec :=
  let tail : List (Nat × Nat) := [(8, bitOf (o.priv == .s))]
  let h := (engHandle o slot).toNat
  let st := match o.st with
    | .issued => 0 | .translated => 1 | .running => 2 | .parked => 3 | .waitPlace => 4
  let loop := o.kind == .mloop
  { kind := if loop then 5 else 4, wave := o.wave, slot := o.b, cause := (o.failCause.map causeCode).getD 0
    addr := (o.failPage.getD (o.missPage.getD 0)), len := if loop then 128 else 112
    body := (512, o.desc.toNat) :: (if loop then [(256, o.fmt.toNat), (32, h), (16, o.elem), (8, o.team), (8, o.q)] ++ tail
      else [(32, h), (8, o.q), (8, st), (16, 0), (32, o.elem), (32, o.byte), (64, o.failPage.getD 0)] ++ tail) }

/-- The other records of a wave: the fragment stack, the event queues and the trap shadow. -/
def otherRecs (w : Wave) : List SlideRec :=
  let r (k n : Nat) (b : List (Nat × Nat)) : SlideRec :=
    { kind := k, wave := w.ident.waveid.toNat, slot := false, cause := 0, addr := 0, len := n, body := b }
  let recs := (List.range 4).flatMap (fun n => (evqOf w n).recs)
  let sh := w.shadow
  (if w.stack = [] then [] else [r 7 (16 + 16 * w.stack.length) (w.stack.reverse.map (fun f => (128, fragNum (some f))))])
  ++ (if w.evqs = [] then [] else [r 8 (32 + 32 * recs.length)
      ((List.range 4).map (fun n => (8, (evqOf w n).depth)) ++ [(96, 0)] ++ recs.map (fun x => (256, x.toNat)))])
  ++ (if w.priv = .u then [] else [r 9 160
      ((List.range 15).map (fun n => (32, ((Map.find sh.regs (n + 1)).getD 0).toNat))
        ++ [(1, bitOf sh.flags.z), (1, bitOf sh.flags.n), (1, bitOf sh.flags.c), (1, bitOf sh.flags.v), (28, 0), (64, sh.pcEntry.toNat),
            (8, sh.headOff), (8, sh.strips.length), (48, 0)]
        ++ sh.strips.map (fun t => (32, stripNum t)))])

/-- The records of a group: by wave, and for a wave by kind (R361). -/
def groupRecs (ws : List Wave) (ops : List (Nat × EngOp)) : List SlideRec :=
  let all := ws.flatMap (fun w => ((w.ops ++ w.shadow.ops).filter (fun o => recordBytes o.word != 0)).map (laneRecord w.ident.waveid.toNat)
      ++ otherRecs w) ++ ops.map (fun e => engRec e.1 e.2)
  (List.range 128).flatMap (fun wv => (List.range 10).flatMap (fun k => all.filter (fun r => r.wave == wv && r.kind == k)))

/-! ## The group record (R127, R158, R240, R246) -/

/-- A barrier's entry. -/
def barrierNum (b : Barrier) : Nat :=
  packBits [(16, b.expected), (16, b.arrived), (16, b.phase.toNat), (1, bitOf b.inUse), (15, 0), (32, b.remote), (128, b.waiters.toNat), (32, 0)]

/-- A barrier as its entry gives it. -/
def barrierRead (x : Nat) : Barrier :=
  { inUse := bit x 48, expected := field x 0 16, arrived := field x 16 16, phase := BitVec.ofNat 16 (field x 32 16)
    waiters := BitVec.ofNat 128 (field x 96 128), remote := field x 64 32 }

/-- The group header: the entries of a message queue are saved from its head on, so the head is 0. -/
def groupNum (task : Nat) (g : Group) : Nat :=
  packBits ([(32, g.gx), (16, g.gy), (16, g.gz), (7, g.waves), (1, 0), (7, g.core), (1, bitOf (decide (64 < g.waves))), (12, g.tag.toNat), (6, g.gslot),
    (30, 0), (32, g.scratchBytes), (32, g.fifoBytes), (16, 0), (16, g.msgs.length)]
    ++ (List.range 4).map (fun p => (11, Tab.get 0 g.pools p)) ++ [(57, task)])

/-- A saved tray: its header and its records. -/
def trayNum (st : Nat) (key : Word) (config left : Nat) (recs : List TrayRec) : Nat :=
  packBits ([(32, key.toNat), (6, config), (6, recs.length), (2, st), (16, left), (66, 0)]
    ++ recs.flatMap (fun r => [(32, r.key.toNat), (32, r.p0.toNat), (32, r.p1.toNat), (32, r.p2.toNat)]))

/-- The trays that a group record holds, its tray waves' own records among them. -/
def groupTrays (x : Saved) : List Nat :=
  x.waves.filterMap (fun w => w.tray.map (fun t => trayNum 2 ((t.recs[0]?.map (·.key)).getD 0) t.config 0 t.recs))
    ++ x.trays.map (fun e => trayNum (if e.2.st = .filling then 1 else 2) e.2.key e.2.config e.2.deadline e.2.recs)

/-- The parts of a group record before its replay records, each with its bytes. -/
def groupParts (task : Nat) (x : Saved) : List (Nat × Nat) :=
  let g := x.group
  [(256, groupNum task g), (512, packBits ((List.range 16).map (fun n => (256, barrierNum (barrierOf g n)))))]
  ++ x.waves.flatMap (fun w => (1024, waveNum w) :: (List.range w.valloc).map (fun r => (128, (Tab.get 0 w.vregs r).toNat)))
  ++ [(g.scratchBytes, g.scratch.foldl (fun n e => n + e.2.toNat * 2 ^ (8 * e.1)) 0)]
  ++ g.msgs.map (fun m => (128, m.2.toNat)) ++ (groupTrays x).map (fun t => (528, t))

/-- Bytes of some parts. -/
def partBytes (l : List (Nat × Nat)) : Nat := l.foldl (fun n p => n + p.1) 0

/-- The task record of a group's grid, 0 for a packet grid. -/
def groupTask (s : State) (g : Group) : Nat :=
  match Map.find s.grids g.grid with
  | none => 0
  | some gr =>
    match gr.src with
    | .task _ va => va
    | .packet _ _ => 0

/-- The engine operations of a group, by their slots. -/
def groupOps (s : State) (gid : Nat) : List (Nat × EngOp) :=
  s.cores.flatMap (fun c => c.2.ops.filter (fun o => o.2.gid == gid))

/-- Write a group record at a place: the group with its place, its size and what its replay records are. -/
def slideGroup (s : State) (q off : Nat) (x : Saved) : State × Saved :=
  let recs := groupRecs x.waves (groupOps s x.gid)
  let parts := groupParts (groupTask s x.group) x
  let n := alignUp (partBytes parts + recs.foldl (fun a r => a + r.len) 0) 256
  let num := packBits (parts.map (fun p => (8 * p.1, p.2)) ++ recs.flatMap recFields)
  (slidePut s q off num (n / 128), { x with off := off, bytes := n, recs := recs.map (fun r => (r.kind, r.wave, r.len)) })

/-- Write a darkslide: its group records, then its header. -/
def slideSave (s : State) (q : Nat) (next : Word) (l : List Saved) : State :=
  let r := l.foldl (fun (p : State × List Saved × Nat) x =>
    let u := slideGroup p.1 q p.2.2 x
    (u.1, p.2.1 ++ [u.2], p.2.2 + u.2.bytes)) (s, [], 4096)
  let d : Darkslide := { valid := true, nextPacket := next, bytes := r.2.2, groups := r.2.1 }
  let t := slidePut r.1 q 0 (slideHeader d) 32
  putQueue t q { queueOf t q with slides := d }

/-! ## The restore -/

/-- The replay records that a group record holds pass the checks of R361: `l` says which were written, `x` is read from the first on. -/
def recsOk (waves : List Wave) (x : Nat) : List (Nat × Nat × Nat) → Bool
  | [] => true
  | (kind, _, len) :: rest =>
    let k := field x 0 4
    let wv := field x 4 7
    decide (k < 10) && (k == kind && field x 16 16 == len)
      && (match waves.find? (fun w => w.ident.waveid.toNat == wv) with
          | none => false
          | some w => k != 9 || w.priv == .s)
      && recsOk waves (x / 2 ^ (8 * len)) rest

/-- The barriers of a group record pass the checks of R246. -/
def barrierOk (waves : List Wave) (b : Barrier) : Bool :=
  decide (b.arrived + b.remote ≤ 65535)
    && (List.range 128).all (fun i => !b.waiters.getLsbD i || waves.any (fun w => w.ident.waveid.toNat == i))

/-- The group header passes the checks of R158. -/
def headerOk (d : KDesc) (g : Group) (x : Nat) : Bool :=
  let waves := if g.isTray then 1 else d.groupWaves
  field x 64 7 == waves % 128 && field x 79 1 == bitOf (decide (64 < waves))
    && field x 128 32 == (if g.isTray then 0 else d.scratchBytes) && field x 160 32 == (if g.isTray then 0 else d.fifoBytes)
    && (entriesAt x 224 11 4).all (fun n => decide (n ≤ 1024))

/-- Waves as a group record gives them, its wave records from a place on. -/
def wavesRead (x : Nat) : List Wave → List Wave
  | [] => []
  | w :: rest =>
    let v := waveRead x w
    let regs := (List.range w.valloc).foldl (fun m r => Tab.set 0 m r (BitVec.ofNat 1024 (field x (8192 + 1024 * r) 1024))) []
    { v with vregs := regs } :: wavesRead (x / 2 ^ (8192 + 1024 * w.valloc)) rest

/-- The trap shadow as its record's body gives it. -/
def shadowRead (x : Nat) (sh : Shadow) : Shadow :=
  { sh with regs := (List.range 15).foldl (fun m n => Map.insert m (n + 1) (BitVec.ofNat 32 (field x (32 * n) 32))) []
            flags := { z := bit x 480, n := bit x 481, c := bit x 482, v := bit x 483 }, pcEntry := BitVec.ofNat 64 (field x 512 64)
            headOff := field x 576 8, strips := (entriesAt x 640 32 (field x 584 8)).map stripRead }

/-- A wave with what one of its replay records gives: the fragment stack, the event queues or the trap shadow. -/
def recRead (kind len x : Nat) (w : Wave) : Wave :=
  match kind with
  | 7 =>
    let l := entriesAt x 0 128 ((len - 16) / 16)
    { w with stack := (l.reverse.zip (List.range l.length)).filterMap (fun p => fragRead p.1 w.priv w.stack[p.2]?) }
  | 9 => { w with shadow := shadowRead x w.shadow }
  | _ => w

/-- Waves with what their replay records give. -/
def recsRead (x : Nat) (ws : List Wave) : List (Nat × Nat × Nat) → List Wave
  | [] => ws
  | (kind, wv, len) :: rest =>
    recsRead (x / 2 ^ (8 * len)) (ws.map (fun w => if w.ident.waveid.toNat = wv then recRead kind len (x / 2 ^ 128) w else w)) rest

/-- A saved group as its record gives it: the barrier file, the pools, the waves and the scratch. -/
def groupRead (s : State) (x : Saved) (n : Nat) : Saved :=
  let g := x.group
  let bars := (List.range 16).foldl (fun m i => Tab.set Barrier.init m i (barrierRead (field n (2048 + 256 * i) 256))) []
  let pools := (List.range 4).foldl (fun m p => Tab.set 0 m p (field n (224 + 11 * p) 11)) (g.pools.filter (fun e => decide (4 ≤ e.1)))
  let ws := wavesRead (n / 2 ^ 6144) x.waves
  let after := 6144 + x.waves.foldl (fun a w => a + 8192 + 1024 * w.valloc) 0
  let scr := (List.range g.scratchBytes).foldl (fun m i => Tab.set 0 m i (BitVec.ofNat 8 (field n (after + 8 * i) 8))) []
  let tail := 8 * partBytes (groupParts (groupTask s g) x)
  { x with group := { g with barriers := bars, pools := pools, scratch := scr }, waves := recsRead (n / 2 ^ tail) ws x.recs }

/-- A group record passes the checks of a restore (R158, R246, R361); with a page of it out of reach nothing is read. -/
def groupOk (s : State) (q : Nat) (x : Saved) : Bool :=
  match slideGet s q x.off (x.bytes / 128), descOf s x.group.grid with
  | some n, some d =>
    headerOk d x.group n && (List.range 16).all (fun i => barrierOk x.waves (barrierRead (field n (2048 + 256 * i) 256)))
      && recsOk (wavesRead (n / 2 ^ 6144) x.waves) (n / 2 ^ (8 * partBytes (groupParts (groupTask s x.group) x))) x.recs
  | _, _ => false

/-- The header of a darkslide as memory holds it, where it is one: the first packet not yet started (R127). -/
def headerRead (s : State) (q : Nat) (d : Darkslide) : Option Word :=
  match slideGet s q 0 1 with
  | some h => if h = slideHeader { d with nextPacket := BitVec.ofNat 32 (field h 64 32) } then some (BitVec.ofNat 32 (field h 64 32)) else none
  | none => none

/-- A saved group as the darkslide holds it. -/
def slideLoad (s : State) (q : Nat) (x : Saved) : Saved :=
  match slideGet s q x.off (x.bytes / 128) with
  | some n => groupRead s x n
  | none => x

/-- An arrival reaches a saved group: its barrier's remote count, in the darkslide at its home (R127, R246). -/
def remoteArrive (s : State) (gid n : Nat) : State :=
  match s.queues.find? (fun e => e.2.slides.groups.any (fun x => x.gid == gid)) with
  | none => s
  | some (q, x) =>
    match x.slides.groups.find? (fun y => y.gid == gid) with
    | none => s
    | some y =>
      match slideKey s q (y.off + 256 + 32 * n + 8) with
      | some k => putNum s k 4 ((readNum s.mem k 4 + 1) % 2 ^ 32)
      | none => s

end Sys2Proof.Machine
end

