-- ==== Sys2Proof/Machine/BarrierOps.lean ====
section
/-! DEFINITION. Machine/BarrierOps.lean: named barriers (R241 to R246), watched addresses (R247, R248, R129), message
queues (R154 to R156) and register-pool words (R150). -/

namespace Sys2Proof.Machine

/-- The word goes on, its wave as it now stands changed by `g`; it counts as an action for the spin count (R169). -/
def actedWith (s : State) (g : Wave → Wave) : Out := onFrag s (fun w f => done s (acted s (g w)) f)

/-! ## Named barriers -/

/-- `BARRIER_MISUSE` with its number and reason (R243). -/
def misuse (s : State) (w : Wave) (f : Frag) (n reason : Nat) : Out :=
  trapAt s w f .scalar .barrierMisuse 0 (n + 16 * reason)

/-- A barrier word over its group and barrier; a number past barrier_count is a misuse (R243). -/
def onBarrier (s : State) (n : Nat) (k : Wave → Frag → Group → Barrier → Out) : Out :=
  onFrag s (fun w f =>
    match groupOf s w.gid with
    | none => .next s
    | some g => if g.barrierCount ≤ n then misuse s w f n 1 else k w f g (barrierOf g n))

/-- `BINIT` (R244). -/
def execBinit (d a : SReg) (n : BitVec 4) (s : State) : Out :=
  onBarrier s n.toNat (fun w f _ b =>
    let x := (rdS w a.toNat).toNat
    let count := if bit x 16 then bits x 15 0 * teamSizeOf w else bits x 15 0
    let put (y : Barrier) : State := modGroup s w.gid (fun g => putBarrier g n.toNat y)
    if bits x 31 17 ≠ 0 ∨ (bit x 16 ∧ teamSizeOf w = 0) ∨ 65535 < count then misuse s w f n.toNat 3
    else if !b.inUse then
      if count = 0 then done s (wrS w d.toNat 0) f
      else
        let t := put { b with inUse := true, expected := count, arrived := 0 }
        done t (wrS w d.toNat 0) f
    else if b.arrived = 0 ∧ b.waiters = 0 then
      let t := put { b with inUse := count != 0, expected := count }
      done t (wrS w d.toNat 0) f
    else done s (wrS w d.toNat 1) f)

/-- `BARR` (R244). -/
def execBarr (d : SReg) (n : BitVec 4) (s : State) : Out :=
  onBarrier s n.toNat (fun w f _ b =>
    if !b.inUse then misuse s w f n.toNat 2
    else actedWith (arrive s w.gid n.toNat) (fun v => wrS v d.toNat (b.phase.setWidth 32)))

/-- The wave's waiter bit is set. -/
def setWaiter (s : State) (w : Wave) (n : Nat) : State :=
  modGroup s w.gid (fun g =>
    let b := barrierOf g n
    putBarrier g n { b with waiters := b.waiters ||| (1 : BitVec 128) <<< w.ident.waveid.toNat })

/-- `BWAIT` (R244). -/
def execBwait (d a : SReg) (n : BitVec 4) (s : State) : Out :=
  onBarrier s n.toNat (fun w f _ b =>
    let tok : BitVec 16 := (rdS w a.toNat).setWidth 16
    if b.phase ≠ tok then done s (wrS w d.toNat (b.phase.setWidth 32)) f
    else blocked (setWaiter s w n.toNat) w f (.bwait n.toNat tok))

/-- `BSYNC` (R244): it arrives, and sleeps unless that ended the phase; the wake completes it. -/
def execBsync (d : SReg) (n : BitVec 4) (s : State) : Out :=
  onBarrier s n.toNat (fun w f _ b =>
    if !b.inUse then misuse s w f n.toNat 2
    else
      let t := arrive s w.gid n.toNat
      let now := ((groupOf t w.gid).map (fun g => (barrierOf g n.toNat).phase)).getD b.phase
      if now ≠ b.phase then actedWith t (fun v => wrS v d.toNat (b.phase.setWidth 32))
      else
        let u := setWaiter t w n.toNat
        onFrag u (fun v g => blocked u (acted u v) g (.bsync n.toNat b.phase d.toNat)))

/-! ## Handles (R154, R155) -/

/-- The groups whose handle a word is, live for a sender on a core (R155): same cluster, tag, queue, and a message queue. -/
def liveHandle (s : State) (w : Wave) (h : Word) : Option (Nat × Group) :=
  let q := (gridOf s w.gid).map (·.queue)
  s.groups.find? (fun e =>
    groupHandle e.2 == h && decide (e.2.core / 8 = w.core / 8) && groupLive e.2 && e.2.st != .pending
      && decide (128 ≤ e.2.fifoBytes) && ((Map.find s.grids e.2.grid).map (·.queue)) == q)

/-- `BARRX` (R244). -/
def execBarrx (d a : SReg) (n : BitVec 4) (s : State) : Out :=
  onFrag s (fun w f =>
    let h := rdS w a.toNat
    match liveHandle s w h with
    | none => done s (wrS w d.toNat 0xFFFFFFFF) f
    | some (_, g) =>
      if g.barrierCount ≤ n.toNat then done s (wrS w d.toNat 0xFFFFFFFF) f
      else
        let t := { s with arrivals := s.arrivals ++ [(h, n.toNat)] }
        done t (acted t (wrS w d.toNat 0)) f)

/-- `BARRIER_REMOTE_ARRIVAL` (R244, R246): an arrival reaches its target; one at an `UNUSED` barrier, or for a group
that is gone, is dropped. -/
def execBarrierRemoteArrival (k : Nat) (s : State) : Out :=
  match s.arrivals[k]? with
  | none => .next s
  | some (h, n) =>
    let t := { s with arrivals := s.arrivals.eraseIdx k }
    match t.groups.find? (fun e => groupHandle e.2 == h && groupLive e.2 && e.2.st != .pending) with
    | none => .next t
    | some (gid, g) => .next (if g.st = .swapped then remoteArrive t gid n else arrive t gid n)

/-! ## Watched addresses (R247, R248, R129) -/

/-- A `WAITA` at S writes the flags on return (R129). -/
def waitaFlags (f : Frag) (c : Bool) : Frag :=
  if f.handler then { f with flags := { Flags.zero with c := c } } else f

/-- `WAITA` (R247). -/
def execWaita (d a : SReg) (sc : Scope) (s : State) : Out :=
  onFrag s (fun w f =>
    let va := rdP w a.toNat
    if va.toNat % 4 ≠ 0 then trapS s w f .misalign va
    else sAccess s w f va 4 .read (fun t key =>
      let x : Word := BitVec.ofNat 32 (ofBytes (loadBytes t w.core key 4))
      if x ≠ rdS w d.toNat then done t w (waitaFlags f false)
      else blocked t w f (.waita (lineOf key) sc)))

/-- The agents of wave `v` lie in the instance of a scope seen from wave `w` (R86). -/
def scopeHas (sc : Scope) (w v : Wave) : Bool :=
  match sc with
  | .wave => w.core == v.core && w.slot == v.slot
  | .group => w.gid == v.gid
  | .clus => w.core / 8 == v.core / 8
  | _ => true

/-- A watcher of a line that a `WAKE` of wave `w` rouses. -/
def rouses (line : Nat) (sc : Scope) (w v : Wave) (x : Wait) : Bool :=
  match x with
  | .waita l c => l == line && scopeHas sc w v && scopeHas c v w
  | _ => false

/-- The sleepers of a wave that `hit` picks return from their `WAITA`; one that a trap has set aside does so at the return. -/
def roused (s : State) (hit : Wait → Bool) (v : Wave) : Wave :=
  if (liveFrags v).any (fun g => hit g.wait) || hit v.shadow.wait then
    let aside := if hit v.shadow.wait then Wait.waitaDone else v.shadow.wait
    let u := mapFrags v (fun g => if hit g.wait then { waitaFlags g false with pc := g.pc + 4, wait := .none } else g)
    spinReset s { u with shadow := { v.shadow with wait := aside } }
  else v

/-- `WAKE` (R247). -/
def execWake (a : SReg) (sc : Scope) (s : State) : Out :=
  onFrag s (fun w f =>
    let va := rdP w a.toNat
    if va.toNat % 4 ≠ 0 then trapS s w f .misalign va
    else sAccess s w f va 4 .read (fun t key =>
      let hit := rouses (lineOf key) sc w
      let u := mapWaves t (fun v => roused t (hit v) v)
      doneWith u (fun v _ => v)))

/-- A fragment that sleeps in `WAITA` executes it again. -/
def rereads (f : Frag) : Frag :=
  match f.wait with
  | .waita _ _ => { f with wait := .none }
  | _ => f

/-- A sleeping `WAITA` reads its word again (R248): that of a fragment in a slot, and those of the wave's fragments that lie on the stack or
that a trap has interrupted. -/
def reread (s : State) (core slot : Nat) (b : Bool) : State :=
  modWave s core slot (fun w =>
    let v := putFrag w b ((fragOf w b).map rereads)
    { v with stack := v.stack.map rereads, shadow := { v.shadow with wait := (rereads (sleepFrag v.shadow.wait)).wait } })

/-- `WAITA_REREAD` (R248). -/
def execWaitaReread (core slot : Nat) (b : Bool) (s : State) : Out := .next (reread s core slot b)
/-- `WAITA_PERIODIC_REREAD` (R248). -/
def execWaitaPeriodicReread (core slot : Nat) (b : Bool) (s : State) : Out := .next (reread s core slot b)

/-- The fragment sleeps in a `WAITA` at `.fab` or `.sys`. -/
def fabSleeps (f : Frag) : Bool :=
  match f.wait with
  | .waita _ sc => sc == .fab || sc == .sys
  | _ => false

/-- A `WAITA` at S has slept its time: it returns with C set (R129). -/
def sleptOut (f : Frag) : Frag := { waitaFlags f true with pc := f.pc + 4, wait := .none }

/-- `WAITA_FAB_TIMEOUT` (R129): of a fragment in a slot, and of those on the stack, which trap once they have a slot. -/
def execWaitaFabTimeout (core slot : Nat) (b : Bool) (s : State) : Out :=
  match waveAt s core slot with
  | none => .next s
  | some w0 =>
    if ((ctxOf s (ctxIdOf s w0.gid)).map (fun c => c.desc.fabTimeout)).getD 0 = 0 then .next s
    else
      let late (f : Frag) : Frag := if fabSleeps f then (if f.handler then sleptOut f else { f with wait := .waitaOut }) else f
      let w := if w0.stack.any fabSleeps then spinReset s { w0 with stack := w0.stack.map late } else w0
      match fragOf w b with
      | none => .next (putWave s w)
      | some f =>
        if !fabSleeps f then .next (putWave s w)
        else if f.handler then .next (putWave s (spinReset s (putFrag w b (some (sleptOut f)))))
        else .next (raiseTrap (putWave s w) core slot (timeoutReq 1 f b))

/-! ## Message queues (R156) -/

/-- 128 bytes of a group's scratch. -/
def scratchLine (g : Group) (off : Nat) : LineData := BitVec.ofNat 1024 (ofBytes (readMem g.scratch off 128))

/-- The fault of a scratch offset of 128 bytes (R80, R156). -/
def msgFault (g : Group) (off : Nat) : Option Cause :=
  if off % 128 ≠ 0 then some .misalign else if g.scratchBytes ≤ off then some .protect else none

/-- Move messages while the queue of a group has parked senders with room, and parked receivers with entries (R156). -/
def pumpQueue (fuel : Nat) (s : State) (gid : Nat) : State :=
  match fuel with
  | 0 => s
  | fuel + 1 =>
    match groupOf s gid with
    | none => s
    | some g =>
      match g.recvQ, g.msgs with
      | r :: rest, (h, m) :: more =>
        let t := modGroup s gid (fun g =>
          { g with recvQ := rest, msgs := more, scratch := writeMem g.scratch r.off (toBytes 128 m.toNat) })
        pumpQueue fuel (completeParked t r.core r.slot r.id r.sd h) gid
      | _, _ =>
        match g.sendQ with
        | [] => s
        | p :: rest =>
          if g.msgs.length < mqSize g then
            let t := modGroup s gid (fun g => { g with sendQ := rest, msgs := g.msgs ++ [(p.handle, p.msg)] })
            pumpQueue fuel (completeParked t p.core p.slot p.id p.sd (BitVec.ofNat 32 (mqSize g - (g.msgs.length + 1)))) gid
          else s

/-- Fuel for `pumpQueue`: each round serves a parked word. -/
def pump (s : State) (gid : Nat) : State :=
  match groupOf s gid with
  | none => s
  | some g => pumpQueue (g.sendQ.length + g.recvQ.length + 1) s gid

/-- `MQSEND` (R156). -/
def execMqsend (d a : SReg) (s : State) : Out :=
  onFrag s (fun w f =>
    let off := (rdS w (a.toNat + 1)).toNat
    match groupOf s w.gid with
    | none => .next s
    | some own =>
      match msgFault own off with
      | some c => trapS s w f c 0
      | none =>
        match liveHandle s w (rdS w a.toNat) with
        | none => done s (wrS w d.toNat 0xFFFFFFFF) f
        | some (gid, g) =>
          let msg := scratchLine own off
          let h := groupHandle own
          if g.msgs.length < mqSize g ∧ g.sendQ = [] then
            let t := modGroup s gid (fun g => { g with msgs := g.msgs ++ [(h, msg)] })
            let left := mqSize g - (g.msgs.length + 1)
            onFrag (pump t gid) (fun v e => done (pump t gid) (wrS v d.toNat (BitVec.ofNat 32 left)) e)
          else
            let p : ParkedSend := { core := w.core, slot := w.slot, id := s.stamp, sd := d.toNat, handle := h, msg := msg }
            blocked (modGroup (nextStamp s) gid (fun g => { g with sendQ := g.sendQ ++ [p] })) w f (.mqsend s.stamp))

/-- `MQRECV` (R156). -/
def execMqrecv (d a : SReg) (tryIt : Bool) (s : State) : Out :=
  onFrag s (fun w f =>
    let off := (rdS w a.toNat).toNat
    match groupOf s w.gid with
    | none => .next s
    | some g =>
      if g.fifoBytes < 128 then illegalS s w f
      else
        match msgFault g off with
        | some c => trapS s w f c 0
        | none =>
          match g.msgs, g.recvQ with
          | (h, m) :: rest, [] =>
            let t := modGroup s w.gid (fun g =>
              { g with msgs := rest, scratch := writeMem g.scratch off (toBytes 128 m.toNat) })
            doneWith (pump t w.gid) (fun v _ => wrS v d.toNat h)
          | _, _ =>
            if tryIt then done s (wrS w d.toNat 0xFFFFFFFF) f
            else
              let p : ParkedRecv := { core := w.core, slot := w.slot, id := s.stamp, sd := d.toNat, off := off }
              blocked (modGroup (nextStamp s) w.gid (fun g => { g with recvQ := g.recvQ ++ [p] })) w f (.mqrecv s.stamp))

/-- `MQCOUNT` (R156). -/
def execMqcount (d : SReg) (id : Bool) (s : State) : Out :=
  onFrag s (fun w f =>
    match groupOf s w.gid with
    | none => .next s
    | some g =>
      let x : Word := if id then (if g.fifoBytes < 128 then 0xFFFFFFFF else groupHandle g) else BitVec.ofNat 32 g.msgs.length
      done s (wrS w d.toNat x) f)

end Sys2Proof.Machine
end

