-- ==== Sys2Proof/Machine/HaloCore.lean ====
section
/-! DEFINITION. Machine/HaloCore.lean: the scalar words that push their core's halo lines first (R287). -/

namespace Sys2Proof.Machine

/-- The order's release side pushes (R287). -/
def pushesAt (o : Order) (c : Scope) : Bool := (o == .rel || o == .ar) && c != .wave && c != .group

/-- A scalar word is a release at `.clus` or wider, before which a push runs (R287). -/
def pushFirst (i : Instr) : Bool :=
  match i with
  | .sstOrdered _ _ c o _ => pushesAt o c
  | .fence c o => pushesAt o c
  | .wake _ c => c != .wave && c != .group
  | .tdec _ _ | .tadd _ _ _ | .tspawn _ _ | .klaunch _ _ | .mqsend _ _ | .barrx _ _ _ | .qpost _ _ | .accopen _ _ | .accdrain _ _ _
  | .accabort _ _ | .pgmap _ _ _ _ | .pgunmap _ _ _ => true
  | _ => false

/-- A fence pushes what the strips before it write, so it waits for them on a core that owns halo tiles. -/
def fenceWaits (s : State) (w : Wave) (i : Instr) : Bool :=
  (match i with
   | .fence _ _ => true
   | _ => false) && w.strips != [] && s.ctxs.any (fun c => c.2.halos.any (fun h => h.2.owners.contains w.core))

end Sys2Proof.Machine
end

