-- ==== Sys2Proof/Machine/Issue.lean ====
section
/-! DEFINITION. Machine/Issue.lean: the issue of one word: fetch, the bounds of R41, the hold-backs, then the meaning that
the caller gives (`ex`); and which agent moves when no turn is given (R168). -/

namespace Sys2Proof.Machine

/-- Time goes on by an unstated number of cycles (log 3). -/
def tick (s : State) : State :=
  { s with clock := s.clock + 1 + BitVec.ofNat 64 (Config.freeCycles s.free), free := s.free + 1 }

/-! ## The Safelight (R128) -/

/-- The fragment sleeps in one of the words that the Safelight watches. -/
def asleep (f : Frag) : Bool :=
  match f.wait with
  | .bwait _ _ | .bsync _ _ _ | .waita _ _ | .mqsend _ | .mqrecv _ | .evwait _ | .accwait | .vclaim _ | .fqpost _ => true
  | _ => false

/-- The wave sleeps (R128, R167), and any `WAITA` of it watches at `.group` or `.dev`. -/
def waveSleeps (w : Wave) : Bool :=
  let fr := liveFrags w
  w.strips == [] && w.yieldOn == [] && w.yieldClaim == [] && fr.any asleep
    && fr.all (fun f => (asleep f || f.wait == .join) && (match f.wait with
        | .waita _ sc => sc == .group || sc == .dev
        | _ => true))

/-- The waves of a context. -/
def ctxWaves (s : State) (ctx : Nat) : List Wave := (s.waves.filter (fun e => ctxIdOf s e.2.gid == ctx)).map (·.2)

/-- A page fill for a context is pending. -/
def fillPending (s : State) (ctx : Nat) : Bool :=
  s.vm.frames.any (fun e => e.2.st == .filling && e.2.ctx == ctx) || (s.vm.batch.getD []).any (fun e => e.2 == ctx)

/-- The condition under which the Safelight counts (R128). -/
def safelightCounts (s : State) (ctx : Nat) : Bool :=
  ctxWaves s ctx != [] && (ctxWaves s ctx).all waveSleeps && (opsWhere s (fun o => o.ctx == ctx)).isEmpty && !fillPending s ctx

/-- The cycles at which the Safelight fires (R109, R128). -/
def safelightLimit (c : Ctx) : Nat := 2 ^ (if c.desc.wdShift = 0 then 24 else c.desc.wdShift)

/-- A context's counter `n` cycles on. -/
def dogCount (s : State) (n ctx : Nat) (c : Ctx) : Ctx :=
  if safelightCounts s ctx then { c with dog := c.dog + n } else if c.dog = 0 then c else { c with dog := 0 }

/-! ## What goes on beside the streams -/

/-- What goes on while time does: the Safelight counts (R128), snoops that wait are answered once they can be (R277, R406), trays
trigger at their deadlines (R231), and fabric reductions reach their homes (R100). -/
def background (s : State) : State :=
  let t := answerSnoops { s with ctxs := Map.mapVals s.ctxs (dogCount s (1 + Config.freeCycles (s.free - 1))) }
  fabSettle (t.cores.foldl (fun u c => lateTrays c.2.trays.length u c.1) t)

/-! ## Engine faults before a word (R322) -/

/-- The handle of an engine fault already raised in the wave. -/
def engineRaised (w : Wave) (core op : Nat) : Bool :=
  let hit : TrapReq → Bool := fun r => match r.kind with
    | .engine c o => c == core && o == op
    | _ => false
  w.held.any hit || (match w.trap with
    | .entering r => hit r
    | .handling r => hit r
    | _ => false)

/-- The earliest of some parked operations. -/
def earliestParked : List (Nat × EngOp) → Option (Nat × EngOp)
  | [] => none
  | p :: rest =>
    match earliestParked rest with
    | none => some p
    | some q => if p.2.parkedAt ≤ q.2.parkedAt then some p else some q

/-- The fault that a fragment takes before its next word: of a parked operation it issued, or of one whose issuer has
left its slot (R322). -/
def dueFault (s : State) (w : Wave) (b : Bool) : Option (Nat × EngOp) :=
  earliestParked ((coreOf s w.core).ops.filter (fun e =>
    e.2.st == .parked && e.2.failCause.isSome && e.2.gid == w.gid && e.2.wave == w.ident.waveid.toNat
      && (e.2.b == b || (fragOf w e.2.b).isNone) && !engineRaised w w.core e.1))

/-- The trap of a parked operation (R322). -/
def engineReq (o : EngOp) (core op : Nat) (b : Bool) (f : Frag) (c : Cause) : TrapReq :=
  { kind := .engine core op, cause := c, unit := if o.kind = .mloop then 5 else 4, mask := f.m0,
    addr := BitVec.ofNat 64 (o.failPage.getD 0), info := engHandle o op, pc := f.pc, b := b }

/-- Raise the trap of a parked operation in a fragment; a fault on a reserved page claims it (R301). -/
def raiseEngine (s : State) (w : Wave) (b : Bool) (f : Frag) (op : Nat) (o : EngOp) : State :=
  match o.failCause with
  | none => s
  | some c =>
    let s1 := if c = .reservedTouch then claimPage s o.ctx (o.failPage.getD 0 / 65536) w.core w.slot else s
    raiseTrap s1 w.core w.slot (engineReq o w.core op b f c)

/-! ## The S-stream -/

/-- Issue the next S-stream word of a fragment. -/
def scalarTurn (ex : Instr → State → Out) (s0 : State) (core slot : Nat) (b : Bool) : Out :=
  let s := { s0 with cur := { core := core, slot := slot, b := b } }
  onFrag s (fun w f =>
    if !fragRuns w f then .next s
    else
      if f.wait = .waitaOut then .next (raiseTrap s core slot (timeoutReq 1 f b))
      else if f.wait = .dogOut then .next (raiseTrap s core slot (timeoutReq 0 f b))
      else
      match dueFault s w b with
      | some (op, o) => .next (raiseEngine s w b f op o)
      | none =>
        match fetchScalar s w f with
        | (u, .illegal) => illegalS u w f
        | (u, .fault c a) => trapS (if c = .reservedTouch then claimPage u (ctxIdOf u w.gid) (a.toNat / 65536) core slot else u) w f c a
        | (u, .miss pg) =>
          .next (yieldPage (putWave u (putFrag w b (some { f with wait := .pageMiss pg }))) core slot (ctxIdOf u w.gid) pg)
        | (u, .claimed v) => .next (yieldOnClaim (putWave u (putFrag w b (some { f with wait := .pageMiss v }))) core slot v)
        | (u, .wait) => blocked u w f .access
        | (_, .hole) => .fault .physicalHole
        | (u, .ok i) =>
          if !(namedUse i).within (scalarBound w) w.valloc then illegalS u w f
          else if heldBack u w (useOf i) then blocked u w f .interlock
          else if fenceHolds w i || (pushFirst i && fenceWaits u w i) then blocked u w f .strips
          else
            match pushStep u core (pushFirst i) with
            | (v, true) => blocked v w f .access
            | (v, false) => ex i (putWave v { w with starved := false }))

/-! ## The L-stream -/

/-- A trap before a lane word issues (R41, R160): earlier operations settle first, and their faults trap first. -/
def laneStop (s : State) (w : Wave) (t : Strip) (act : Word) (c : Cause) (a : DWord) : Out :=
  if w.ops ≠ [] then .next (lstopCheck (putWave s { w with lstop := true }) w.core w.slot)
  else .next (raiseLane s w.core w.slot .laneFetch c 0 act a (laneInfo t.lcidx w.headOff t.b) t.b)

/-- Issue the next lane word of a wave. -/
def laneTurn (ex : Instr → State → Out) (s0 : State) (core slot : Nat) : Out :=
  match waveAt s0 core slot with
  | none => .next s0
  | some w =>
    match w.strips with
    | [] => .next s0
    | t :: _ =>
      let s := { s0 with cur := { core := core, slot := slot, b := t.b } }
      if !laneRuns w then .next s
      else
        let act := ((fragOf w t.b).map (·.m0)).getD 0
        match fetchLane s w t w.headOff with
        | (u, .illegal) => laneStop u w t act .illegal 0
        | (u, .fault c a) =>
          laneStop (if c = .reservedTouch then claimPage u (ctxIdOf u w.gid) (a.toNat / 65536) core slot else u) w t act c a
        | (u, .miss pg) => .next (yieldPage u core slot (ctxIdOf u w.gid) pg)
        | (u, .claimed v) => .next (yieldOnClaim u core slot v)
        | (u, .wait) => .next u
        | (_, .hole) => .fault .physicalHole
        | (u, .ok i) =>
          if !(useOf i).within (scalarBound w) w.valloc then laneStop u w t act .illegal 0
          else if meets (useOf i).vw (mmaReads w) || laneHeld w i || pipeFull u w i || finderFull u core i then .next u
          else if recordsFull w i then .next (lstopCheck (putWave u { w with lstop := true }) core slot)
          else ex i (putWave u { w with starved := false })

/-! ## Turns -/

/-- The instruction is a device event, not a word. -/
def isEvent (i : Instr) : Bool := (encode i).isNone

/-- Take a turn. -/
def runTurn (ex : Instr → State → Out) (s : State) (t : Turn) : Out :=
  match t with
  | .s core slot b => scalarTurn ex s core slot b
  | .l core slot => laneTurn ex s core slot
  | .ev i => if isEvent i then ex i s else .next s

/-- A candidate's rank: R168's items as a list of numbers, the least first. -/
def rankOf (s : State) (w : Wave) (b : Nat) : List Nat :=
  let cls := match gridOf s w.gid with
    | some g => (queueOf s g.queue).cls
    | none => 3
  [if w.starved then 0 else 1, if w.demoted then 4 else cls, w.age, w.slot, b]

/-- One rank before another. -/
def rankLess : List Nat → List Nat → Bool
  | [], _ => false
  | _ :: _, [] => false
  | a :: x, b :: y => decide (a < b) || (a == b && rankLess x y)

/-- The first-ranked of some candidates. -/
def bestTurn : List (List Nat × Turn) → Option (List Nat × Turn)
  | [] => none
  | c :: rest =>
    match bestTurn rest with
    | none => some c
    | some d => if rankLess d.1 c.1 then some d else some c

/-- The words of one stream kind of a partition that may issue: of fragments whose wait is as `p` asks, or of L-streams. -/
def readyTurns (s : State) (p : Wait → Bool) (lanes : Bool) (part : Nat) : List (List Nat × Turn) :=
  s.waves.flatMap (fun e =>
    let w := e.2
    let fr (b : Bool) : List (List Nat × Turn) :=
      match fragOf w b with
      | some f => if fragRuns w f && p f.wait then [(rankOf s w (if b then 1 else 0), .s w.core w.slot b)] else []
      | none => []
    if 4 * w.core + partOf w.slot != part then []
    else if lanes then (if laneRuns w then [(rankOf s w 2, .l w.core w.slot)] else [])
    else fr false ++ fr true)

/-- The places that issue: of each partition that holds a wave, its S-streams and its L-streams (R168). -/
def issuePlaces (s : State) : List (Bool × Nat) :=
  ((s.waves.map (fun e => 4 * e.2.core + partOf e.2.slot)).eraseDups).flatMap (fun p => [(false, p), (true, p)])

/-- The first-ranked words of the places that issue, one for each. -/
def placeTurns (s : State) (p : Wait → Bool) : List Turn :=
  (issuePlaces s).filterMap (fun q => (bestTurn (readyTurns s p q.1 q.2)).map (·.2))

/-- The turn taken when none is given: the places that issue move in turn, each with its first-ranked ready word; with none ready, a word that
waits asks again. -/
def pickTurn (s : State) : Option Turn :=
  match placeTurns s (fun x => x == .none) with
  | c :: rest => (c :: rest)[s.free % (rest.length + 1)]?
  | [] =>
    match placeTurns s (fun _ => true) with
    | [] => none
    | c :: rest => (c :: rest)[s.free % (rest.length + 1)]?

/-- Time goes on, and with it what goes on beside the streams. -/
def nextTime (s : State) : State := background (tick s)

/-- One step: the next given turn, else the one picked, else time alone goes on. Words take effect one at a time, in the order in which they
issue or replay (DESIGN CHOICE, log 2: R88 also leaves unordered what no row of its table orders). -/
def stepWith (ex : Instr → State → Out) (s : State) : Out :=
  match s.turns with
  | t :: rest => runTurn ex (nextTime { s with turns := rest }) t
  | [] =>
    match pickTurn s with
    | some t => runTurn ex (nextTime s) t
    | none => .next (nextTime s)

end Sys2Proof.Machine
end

