-- ==== Sys2Proof/Machine/Transfer.lean ====
section
/-! DEFINITION. Machine/Transfer.lean: transfer descriptors (R317 to R319), the issue and life of an engine operation
(R320 to R323), event queues (R324, R327 to R329). -/

namespace Sys2Proof.Machine

/-! ## Descriptors (R317, R318) -/

/-- A transfer descriptor's fields. -/
structure XDesc where
  src : Nat
  srcScr : Bool
  dst : Nat
  dstScr : Bool
  rowBytes : Nat
  rows : Nat
  srcPitch : Nat
  dstPitch : Nat
  value : Nat
  idx : Nat
  deriving DecidableEq, Repr

/-- The fields of a descriptor's 512 bits. -/
def xdesc (r : Nat) : XDesc :=
  { src := bits r 56 0, srcScr := bit r 57, dst := bits r 120 64, dstScr := bit r 121, rowBytes := bits r 159 128,
    rows := bits r 175 160, srcPitch := bits r 223 192, dstPitch := bits r 255 224, value := bits r 319 256,
    idx := bits r 376 320 }

/-- The operation reads a list of indices. -/
def xIndexed (k : EngKind) : Bool := k == .gather || k == .scatter

/-- The descriptor keeps R317's ranges and reserved fields for its instruction. -/
def xValid (k : EngKind) (r : Nat) : Bool :=
  let d := xdesc r
  bits r 63 58 == 0 && bits r 127 122 == 0 && bits r 191 176 == 0 && bits r 383 377 == 0 && bits r 511 448 == 0
    && (!d.srcScr || d.src < 2 ^ 32) && (!d.dstScr || d.dst < 2 ^ 32)
    && decide (1 ≤ d.rowBytes) && decide (d.rowBytes ≤ 2 ^ 26) && decide (1 ≤ d.rows)
    && (k == .fill || d.value == 0) && (xIndexed k || d.idx == 0)
    && (k != .fill || (d.src == 0 && !d.srcScr && d.srcPitch == 0))

/-- Source address of element `i` (R318). -/
def xSrc (k : EngKind) (d : XDesc) (idxs : List Nat) (i : Nat) : Nat :=
  d.src + (if k = .gather then idxs.getD i 0 else i) * d.srcPitch

/-- Destination address of element `i` (R318). -/
def xDst (k : EngKind) (d : XDesc) (idxs : List Nat) (i : Nat) : Nat :=
  d.dst + (if k = .scatter then idxs.getD i 0 else i) * d.dstPitch

/-- The span of some elements of a row's length. -/
def spanOf (addr : Nat → Nat) (rows rowBytes : Nat) : Nat × Nat :=
  (List.range rows).foldl (fun p i => (min p.1 (addr i), max p.2 (addr i + rowBytes))) (addr 0, addr 0 + rowBytes)

/-- A range of an operation: in scratch or not, its span, and whether it is the destination (R319). -/
structure XRange where
  scr : Bool
  lo : Nat
  hi : Nat
  dst : Bool
  deriving DecidableEq, Repr

/-- The ranges of an operation (R319). -/
def xRanges (k : EngKind) (d : XDesc) (idxs : List Nat) : List XRange :=
  let sp := spanOf (xSrc k d idxs) d.rows d.rowBytes
  let dp := spanOf (xDst k d idxs) d.rows d.rowBytes
  let s : List XRange := if k = .fill then [] else [{ scr := d.srcScr, lo := sp.1, hi := sp.2, dst := false }]
  let x : List XRange := if xIndexed k then [{ scr := false, lo := d.idx, hi := d.idx + 4 * d.rows, dst := false }] else []
  { scr := d.dstScr, lo := dp.1, hi := dp.2, dst := true } :: (s ++ x)

/-- Two ranges overlap. -/
def rangesMeet (a b : XRange) : Bool := a.scr == b.scr && decide (a.lo < b.hi) && decide (b.lo < a.hi)

/-- 64 KiB pages of a span. -/
def spanPages (lo hi : Nat) : Nat := (hi - 1) / 65536 + 1 - lo / 65536

/-- The operand checks of R320, items 6 to 9. -/
def xCheck (k : EngKind) (d : XDesc) (l : List XRange) (scratch : Nat) : Option Cause :=
  if l.any (fun r => !r.scr && decide (1024 < spanPages r.lo r.hi)) then some .illegal
  else if (l.filter (fun r => !r.dst)).any (fun r => l.any (fun t => t.dst && rangesMeet t r)) then some .illegal
  else if k ≠ .scatter ∧ 1 < d.rows ∧ d.dstPitch < d.rowBytes then some .illegal
  else if l.any (fun r => r.scr && decide (scratch < r.hi)) then some .protect
  else none

/-! ## Issue (R320) -/

/-- The index list of an operation, read as `SLD` reads. -/
def readIdx (s : State) (w : Wave) (va : Nat) : Nat → State × Except (AccRes × Nat) (List Nat)
  | 0 => (s, .ok [])
  | n + 1 =>
    match access s w.core w.slot (ctxIdOf s w.gid) w.priv va 4 .pull false with
    | (t, .ok key) =>
      match readIdx t w (va + 4) n with
      | (u, .ok l) => (u, .ok (ofBytes (engBytes t w.core key 4) :: l))
      | r => r
    | (t, r) => (t, .error (r, va))

/-- A page of an operation's virtual ranges: the first byte needed of it, and whether it is written. -/
structure XPage where
  va : Nat
  wr : Bool
  deriving DecidableEq, Repr

/-- Add the pages of a span, unless listed. -/
def addPages (l : List XPage) (lo hi : Nat) (wr : Bool) : List XPage :=
  (List.range (spanPages lo hi)).foldl (fun l j =>
    let va := if j = 0 then lo else (lo / 65536 + j) * 65536
    if l.any (fun p => p.va / 65536 == va / 65536 && p.wr == wr) then l else l ++ [{ va := va, wr := wr }]) l

/-- The pages that an operation needs, in processing order, from element `i` on: the index list, then each element's
source and destination (R321; log 16). -/
def xPages (k : EngKind) (d : XDesc) (idxs : List Nat) : List XPage :=
  let l0 := if xIndexed k then addPages [] d.idx (d.idx + 4 * d.rows) false else []
  (List.range d.rows).foldl (fun l i =>
    let a := xSrc k d idxs i
    let b := xDst k d idxs i
    let l1 := if d.srcScr || k == .fill then l else addPages l a (a + d.rowBytes) false
    if d.dstScr then l1 else addPages l1 b (b + d.rowBytes) true) l0

/-- The privilege-checked translation of a page an operation needs. -/
def engPage (s : State) (core ctx : Nat) (priv : Priv) (p : XPage) : Except Cause Nat :=
  match translate s core ctx priv p.va (if p.wr then .update else .pull) with
  | .error c => .error c
  | .ok l => if pteHome l.word == 2 && peerLostAgent s (ptePeer l.word) then .error .peerGone else .ok (leafKey l p.va / 65536)

/-- Pin the pages of an operation up to the first that fails (R303, R321): none when a page cannot be pinned now. -/
def pinPages (s : State) (core ctx : Nat) (priv : Priv) (pinned : List (Nat × Nat)) :
    List XPage → Option (State × List (Nat × Nat) × Option (Nat × Cause))
  | [] => some (s, pinned, none)
  | p :: rest =>
    match engPage s core ctx priv p with
    | .error c => some (s, pinned, some (p.va, c))
    | .ok page =>
      if pinned.any (fun e => e.1 == p.va / 65536) then pinPages s core ctx priv pinned rest
      else if canPin s page then pinPages (pinPage s page) core ctx priv (pinned ++ [(p.va / 65536, page)]) rest
      else none

/-- A free transfer slot of a core (R14). -/
def freeOpSlot (c : Core) : Option Nat := Map.lowestFree (fun _ => false) 1024 c.ops 0

/-- An operation at issue. -/
def engNew (s : State) (w : Wave) (k : EngKind) (q : Nat) (desc : BitVec 512) (descAddr : Nat) : EngOp :=
  { serial := (coreOf s w.core).serial, kind := k, st := .issued, ctx := ctxIdOf s w.gid, gid := w.gid,
    wave := w.ident.waveid.toNat, core := w.core, slot := w.slot, b := s.cur.b, q := q, priv := w.priv, desc := desc,
    descAddr := descAddr, fmt := 0, idxs := [], elem := 0, byte := 0, written := 0, pinned := [], failPage := none,
    failCause := none, missPage := none, parkedAt := 0, orphan := false, final := none, team := 0, acc := 0, hist := [] }

/-- The locks of some ranges (R102, R319). -/
def xLocks (op ctx gid : Nat) (l : List XRange) : List Lock :=
  l.map (fun r => { op := op, ctx := ctx, scr := if r.scr then some gid else none, lo := r.lo, hi := r.hi, rw := r.dst })

/-- Take a slot for an operation, locking its ranges; its handle. -/
def takeSlot (s : State) (core slot : Nat) (o : EngOp) (l : List XRange) : State × Word :=
  let c := coreOf s core
  let c' := addLocks { c with ops := Map.insert c.ops slot o, serial := c.serial + 1 } (xLocks slot o.ctx o.gid l)
  (putCore s core c', engHandle o slot)

/-- A transfer word (R320). -/
def transferWord (k : EngKind) (d a : SReg) (q : BitVec 2) (s : State) : Out :=
  onFrag s (fun w f =>
    let va := rdP w a.toNat
    if va.toNat % 64 ≠ 0 then trapS s w f .misalign va
    else
      sRead s w f va 64 (fun s1 r =>
        let x := xdesc r
        if !xValid k r then illegalS s1 w f
        else if xIndexed k ∧ x.idx % 4 ≠ 0 then trapS s1 w f .misalign (BitVec.ofNat 64 x.idx)
        else
          match readIdx s1 w x.idx (if xIndexed k then x.rows else 0) with
          | (s2, .error (.fault c, b)) =>
            trapS (if c = .reservedTouch then claimPage s2 (ctxIdOf s2 w.gid) (b / 65536) w.core w.slot else s2) w f c (BitVec.ofNat 64 b)
          | (s2, .error (.miss pg, _)) =>
            .next (yieldPage (putWave s2 (putFrag w s.cur.b (some { f with wait := .pageMiss pg }))) w.core w.slot (ctxIdOf s2 w.gid) pg)
          | (s2, .error (.claimed v, _)) =>
            .next (yieldOnClaim (putWave s2 (putFrag w s.cur.b (some { f with wait := .pageMiss v }))) w.core w.slot v)
          | (_, .error (.hole, _)) => .fault .physicalHole
          | (s2, .error _) => blocked s2 w f .access
          | (s2, .ok idxs) =>
            let l := xRanges k x idxs
            let scratch := ((groupOf s2 w.gid).map (·.scratchBytes)).getD 0
            match xCheck k x l scratch with
            | some c => trapS s2 w f c 0
            | none =>
              match freeOpSlot (coreOf s2 w.core), pinPages s2 w.core (ctxIdOf s2 w.gid) w.priv [] (xPages k x idxs) with
              | some slot, some _ =>
                let o := { engNew s2 w k q.toNat (BitVec.ofNat 512 r) va.toNat with idxs := idxs }
                let t := takeSlot s2 w.core slot o l
                done t.1 (acted t.1 (wrS w d.toNat t.2)) f
              | _, _ => blocked s2 w f .engineSlot))

/-- `XCOPY` (R318, R320). -/
def execXcopy (d a : SReg) (q : BitVec 2) (s : State) : Out := transferWord .copy d a q s
/-- `XGATHER` (R318, R320). -/
def execXgather (d a : SReg) (q : BitVec 2) (s : State) : Out := transferWord .gather d a q s
/-- `XSCATTER` (R318, R320). -/
def execXscatter (d a : SReg) (q : BitVec 2) (s : State) : Out := transferWord .scatter d a q s
/-- `XFILL` (R318, R320). -/
def execXfill (d a : SReg) (q : BitVec 2) (s : State) : Out := transferWord .fill d a q s

/-! ## Life cycle (R321) -/

/-- The pages that a drain writes, by its accumulator's descriptor (R337, R345): each row of the target, then the
histogram block. -/
def drainPages (desc : BitVec 512) : List XPage :=
  let r := desc.toNat
  let n := bits r 95 80 * (ltypeBits ((ltypeOf (bits r 127 120)).getD .f32) / 8)
  let l := (List.range (bits r 79 64)).foldl (fun l i =>
    addPages l (bits r 312 256 + i * bits r 351 320) (bits r 312 256 + i * bits r 351 320 + n) true) []
  if bits r 248 192 = 0 then l else addPages l (bits r 248 192) (bits r 248 192 + 128) true

/-- The pages an operation has to translate: those of its ranges, or of a drain's target. -/
def opPages (o : EngOp) : List XPage :=
  match o.kind with
  | .copy | .gather | .scatter | .fill => xPages o.kind (xdesc o.desc.toNat) o.idxs
  | .drain => drainPages o.desc
  | .mloop => []

/-- Translate the pages not yet pinned, and pin them (R303, R321). -/
def engTranslate (s : State) (core op : Nat) (o : EngOp) (st : EngSt) : State :=
  match pinPages s o.core o.ctx o.priv o.pinned (opPages o) with
  | none => s
  | some (t, pinned, bad) =>
    -- a drain meets its failing page when it writes there
    let b := if o.kind = .drain then none else bad
    putOp t core op { o with st := st, pinned := pinned, failPage := b.map (·.1), failCause := b.map (·.2) }

/-- `TRANSFER_TRANSLATION_END` (R321). -/
def execTransferTranslationEnd (core op : Nat) (s : State) : Out :=
  match opAt s core op with
  | none => .next s
  | some o => .next (if o.st = .issued ∧ o.kind ≠ .mloop then engTranslate s core op o .translated else s)

/-- An earlier lock of the core conflicts with the operation's (R102). -/
def lockedOut (c : Core) (op : Nat) : Bool :=
  let all := c.locks ++ c.overflow
  let earlier := all.takeWhile (fun k => k.op != op)
  earlier.any (fun a => (locksOf c op).any (lockConflict c a))

/-- `TRANSFER_LOCKS_CLEAR` (R321). -/
def execTransferLocksClear (core op : Nat) (s : State) : Out :=
  match opAt s core op with
  | none => .next s
  | some o =>
    .next (if o.st = .translated ∧ !lockedOut (coreOf s core) op then putOp s core op { o with st := .running } else s)

/-- An access of an engine operation: its core's range locks do not apply to it (R102). -/
def engAccess (s : State) (o : EngOp) (va n : Nat) (k : AccKind) : State × AccRes :=
  let c := coreOf s o.core
  let t := putCore s o.core { c with locks := [], overflow := [] }
  let r := access t o.core o.slot o.ctx o.priv va n k false
  (putCore r.1 o.core { coreOf r.1 o.core with locks := c.locks, overflow := c.overflow }, r.2)

/-- How a run of an operation stands. -/
inductive EngRun where
  | over
  | fault (va : Nat) (c : Cause)
  | miss (page : Nat)
  | wait
  | hole
  deriving DecidableEq, Repr

/-- The end of an access that did not succeed, for an engine operation. -/
def engStop (va : Nat) : AccRes → EngRun
  | .fault c => .fault va c
  | .miss p => .miss p
  | .claimed _ => .wait
  | .wait => .wait
  | .hole => .hole
  | .ok _ => .over

/-- Bytes of memory or scratch an operation reads, up to a line's end. -/
def engRead (s : State) (o : EngOp) (scr : Bool) (va n : Nat) : State × Except EngRun (List Byte) :=
  if scr then (s, .ok (readMem (((groupOf s o.gid).map (·.scratch)).getD []) va n))
  else
    match engAccess s o va n .pull with
    | (t, .ok key) => (t, .ok (engBytes t o.core key n))
    | (t, r) => (t, .error (engStop va r))

/-- Bytes an operation writes, up to a line's end. -/
def engWrite (s : State) (o : EngOp) (scr : Bool) (va : Nat) (bs : List Byte) : State × Except EngRun Unit :=
  if scr then (modGroup s o.gid (fun g => { g with scratch := writeMem g.scratch va bs }), .ok ())
  else
    match engAccess s o va bs.length .update with
    | (t, .ok key) => (storeHome t key bs, .ok ())
    | (t, r) => (t, .error (engStop va r))

/-- The bytes `XFILL` writes at an address (R318). -/
def fillBytes (value a n : Nat) : List Byte := (List.range n).map (fun i => BitVec.ofNat 8 (value / 2 ^ (8 * ((a + i) % 8))))

/-- Move one chunk of an operation: the bytes up to the next line's end on either side. -/
def engChunk (s : State) (o : EngOp) : State × EngOp × Option EngRun :=
  let d := xdesc o.desc.toNat
  let a := xSrc o.kind d o.idxs o.elem + o.byte
  let b := xDst o.kind d o.idxs o.elem + o.byte
  let n := min (d.rowBytes - o.byte) (min (128 - a % 128) (128 - b % 128))
  let rd : State × Except EngRun (List Byte) :=
    if o.kind = .fill then (s, .ok (fillBytes d.value b n)) else engRead s o d.srcScr a n
  match rd with
  | (t, .error e) => (t, o, some e)
  | (t, .ok bs) =>
    match engWrite t o d.dstScr b bs with
    | (u, .error e) => (u, o, some e)
    | (u, .ok _) =>
      let full := o.byte + n = d.rowBytes
      (u, { o with byte := if full then 0 else o.byte + n, elem := if full then o.elem + 1 else o.elem,
                   written := o.written + n }, none)

/-- Move an operation on from its progress until it ends or stops. -/
def engMove (fuel : Nat) (s : State) (o : EngOp) : State × EngOp × EngRun :=
  match fuel with
  | 0 => (s, o, .wait)
  | fuel + 1 =>
    if (xdesc o.desc.toNat).rows ≤ o.elem then (s, o, .over)
    else
      match engChunk s o with
      | (t, p, none) => engMove fuel t p
      | (t, p, some e) => (t, p, e)

/-- Fuel for `engMove`: each chunk moves a byte. -/
def engFuel (o : EngOp) : Nat := (xdesc o.desc.toNat).rows * (xdesc o.desc.toNat).rowBytes + 1

/-- A parked operation's missing page has come. -/
def missGone (s : State) (o : EngOp) : Bool :=
  match o.missPage with
  | none => false
  | some p => match frameOfPage s p with
    | some (_, fr) => fr.st == .clean || fr.st == .dirty
    | none => false

/-- An operation runs, or may go on because its page has come (R296, R321). -/
def engRuns (s : State) (o : EngOp) : Bool := o.st == .running || (o.st == .parked && o.failCause.isNone && missGone s o)

/-- An operation parks for a page-cache miss. -/
def engMiss (s : State) (core op : Nat) (o : EngOp) (page : Nat) : State :=
  batchMiss (putOp s core op { o with st := .parked, missPage := some page }) (engUnit core op) page o.ctx

/-- `TRANSFER_COMPLETE` (R321): the operation moves the rest of its bytes and posts its record, unless it stops. The bytes move in one step
(DESIGN CHOICE, log 2: R101 leaves the accesses of an operation unordered against other agents, which might see a copy in part). -/
def execTransferComplete (core op : Nat) (s : State) : Out :=
  match opAt s core op with
  | none => .next s
  | some o =>
    if o.kind = .mloop ∨ o.kind = .drain ∨ !engRuns s o then .next s
    else
      match engMove (engFuel o) s { o with st := .running, missPage := none } with
      | (t, p, .over) => .next (finishOp (putOp t core op p) core op 0 0 0)
      | (t, p, .fault va c) => .next (putOp t core op { p with failPage := some va, failCause := some c })
      | (t, p, .miss pg) => .next (engMiss t core op p pg)
      | (t, p, .wait) => .next (putOp t core op p)
      | (_, _, .hole) => .fault .physicalHole

/-- An operation parks on a fault: the fragment takes it now, or when it wakes (R322). The fault of an operation whose
wave has exited ends it `FAILED` without a trap (R321). -/
def engFault (s : State) (core op : Nat) (o : EngOp) (va : Nat) (c : Cause) : State :=
  let o' := { o with st := .parked, failPage := some va, failCause := some c, parkedAt := s.stamp }
  let t := putOp { s with stamp := s.stamp + 1 } core op o'
  match (if o.orphan then none else waveOf t o.gid o.wave) with
  | none =>
    let u := finishOp t core op 2 (causeCode c) va
    if o.kind = .drain then accFault u o.acc c else u
  | some w =>
    let b := trapSlot w o.b
    match fragOf w b with
    | some f => if asleep f || parkedWait f.wait then t else raiseEngine t w b f op o'
    | none => t

/-- `ENGINE_FAULT_TAKEN` (R321, R322): the operation moves up to its failing page and parks there. -/
def execEngineFaultTaken (core op : Nat) (s : State) : Out :=
  match opAt s core op with
  | none => .next s
  | some o =>
    if !engRuns s o then .next s
    else
      match o.kind with
      | .mloop | .drain =>
        match o.failPage, o.failCause with
        | some va, some c => .next (engFault s core op o va c)
        | _, _ => .next s
      | _ =>
        match engMove (engFuel o) s { o with st := .running, missPage := none } with
        | (t, p, .fault va c) => .next (engFault t core op p va c)
        | (t, p, .miss pg) => .next (engMiss t core op p pg)
        | (t, p, .over) => .next (putOp t core op p)
        | (t, p, .wait) => .next (putOp t core op p)
        | (_, _, .hole) => .fault .physicalHole

/-- A handler resumes a parked transfer: it translates again from the failing page (R321). -/
def engRetry (s : State) (core op : Nat) : State :=
  match Map.find (coreOf s core).ops op with
  | none => s
  | some o => engTranslate s core op { o with failPage := none, failCause := none } .running

/-- A handler skips a parked operation: `FAILED`, with the cause (R321). -/
def engSkip (s : State) (core op : Nat) : State :=
  match Map.find (coreOf s core).ops op with
  | none => s
  | some o => finishOp s core op 2 ((o.failCause.map causeCode).getD 0) (o.failPage.getD 0)

/-- `EVENT_RECORD_POST_RESUME` (R324): a finished operation posts its record once its queue has a place. -/
def execEventRecordPostResume (core op : Nat) (s : State) : Out :=
  match opAt s core op with
  | none => .next s
  | some o =>
    match o.st, o.final with
    | .waitPlace, some r =>
      (match postRecord s o.gid o.wave o.q r with
       | some t => .next (releaseOp t core op)
       | none => .next s)
    | _, _ => .next s

/-! ## Cancel and event queues (R327 to R329) -/

/-- Drop the held trap of a withdrawn operation (R327). -/
def dropHeld (s : State) (core op : Nat) : State :=
  mapWaves s (fun w => { w with held := w.held.filter (fun r => match r.kind with
    | .engine c o => !(c == core && o == op)
    | _ => true) })

/-- `XCANCEL` (R327): a cancelled drain aborts its accumulator (R339). -/
def execXcancel (d a : SReg) (s : State) : Out :=
  onFrag s (fun w f =>
    let h := rdS w a.toNat
    let op := bits h.toNat 9 0
    match Map.find (coreOf s w.core).ops op with
    | some o =>
      if engHandle o op = h ∧ o.gid = w.gid then
        let t := dropHeld (finishOp s w.core op 1 0 0) w.core op
        let u := if o.kind = .drain then accEnd t o.acc .aborted else t
        actedWith u (fun v => wrS v d.toNat 0)
      else done s (wrS w d.toNat 1) f
    | none => done s (wrS w d.toNat 1) f)

/-- The words of a completion record (R328). -/
def takeRecord (w : Wave) (d : Nat) (r : BitVec 256) : Wave :=
  (List.range 8).foldl (fun v j => wrS v (d + j) ((r >>> (32 * j)).setWidth 32)) w

/-- Take the head record of an event queue, or answer as the word does without one. -/
def popRecord (d : SReg) (q : BitVec 2) (empty : Wave → Frag → Out) (s : State) : Out :=
  onFrag s (fun w f =>
    let e := evqOf w q.toNat
    match e.recs with
    | [] => empty w f
    | r :: rest => done s (takeRecord (putEvq w q.toNat { e with recs := rest }) d.toNat r) f)

/-- `EVPOP` (R328). -/
def execEvpop (d : SReg) (q : BitVec 2) (s : State) : Out :=
  popRecord d q (fun w f => done s (wrS w d.toNat 0xFFFFFFFF) f) s
/-- `EVWAIT` (R328). -/
def execEvwait (d : SReg) (q : BitVec 2) (s : State) : Out :=
  popRecord d q (fun w f => blocked s w f (.evwait q.toNat)) s

/-- `EVCFG` (R329). -/
def execEvcfg (d a : SReg) (s : State) : Out :=
  onFrag s (fun w f =>
    let x := (rdS w a.toNat).toNat
    let dep (q : Nat) : Nat := bits x (8 * q + 6) (8 * q)
    let bad := [7, 15, 23, 31].any (fun i => bit x i) || decide (64 < dep 0 + dep 1 + dep 2 + dep 3)
    let busy := (List.range 4).any (fun q => decide (dep q < (evqOf w q).recs.length))
      || !(opsWhere s (fun o => o.gid == w.gid && o.wave == w.ident.waveid.toNat)).isEmpty
    if bad then done s (wrS w d.toNat 1) f
    else if busy then done s (wrS w d.toNat 2) f
    else
      let w' := (List.range 4).foldl (fun v q => putEvq v q { evqOf v q with depth := dep q }) w
      done s (wrS w' d.toNat 0) f)

end Sys2Proof.Machine
end

