-- ==== Sys2Proof/Machine/AccOps.lean ====
section
/-! DEFINITION. Machine/AccOps.lean: the accumulator words (R342 to R349), the arrival of a partial (R338) and the end
of a drain (R345). -/

namespace Sys2Proof.Machine

/-! ## The descriptor (R337) -/

/-- form of a descriptor. -/
def adForm (r : Nat) : Nat := bits r 97 96
/-- rows of a descriptor. -/
def adRows (r : Nat) : Nat := bits r 79 64
/-- cols of a descriptor. -/
def adCols (r : Nat) : Nat := bits r 95 80
/-- base of a descriptor. -/
def adBase (r : Nat) : Nat := bits r 56 0
/-- Bytes of the region (R338). -/
def adSize (r : Nat) : Nat := adRows r * adCols r * accElemBytes (adForm r)
/-- drain_type of a descriptor. -/
def adDrainType (r : Nat) : LType := (ltypeOf (bits r 127 120)).getD .f32
/-- Bytes of an element of the target. -/
def adDrainBytes (r : Nat) : Nat := ltypeBits (adDrainType r) / 8
/-- dst of a descriptor. -/
def adDst (r : Nat) : Nat := bits r 312 256
/-- dst_pitch of a descriptor. -/
def adPitch (r : Nat) : Nat := bits r 351 320
/-- hist of a descriptor. -/
def adHist (r : Nat) : Nat := bits r 248 192
/-- spill of a descriptor. -/
def adSpill (r : Nat) : Nat := bits r 440 384
/-- spill_blocks of a descriptor. -/
def adBlocks (r : Nat) : Nat := bits r 367 352
/-- state of a descriptor. -/
def adState (r : Nat) : Nat := bits r 138 136
/-- Bytes from the first to the last byte of the target (R345). -/
def adDstBytes (r : Nat) : Nat := (adRows r - 1) * adPitch r + adCols r * adDrainBytes r

/-- The drain types that a form allows (R337). -/
def drainTypeOk (form : Nat) (t : Option LType) : Bool :=
  match t with
  | none => false
  | some t => if form = 2 then t == .f64 || t == .f32 else t == .f32 || t == .f16 || t == .bf16 || t == .f8e4 || t == .f8e5

/-- rows or cols in range. -/
def adSide (n : Nat) : Bool := decide (32 ≤ n) && decide (n ≤ 32768) && n % 32 == 0

/-- The descriptor keeps R337's map (R342, R3). -/
def adValid (r : Nat) : Bool :=
  let anchor := sgn 8 (bits r 111 104)
  bits r 63 57 == 0 && bits r 103 99 == 0 && bits r 135 132 == 0 && bits r 143 139 == 0 && bits r 159 150 == 0
    && bits r 255 249 == 0 && bits r 319 313 == 0 && bits r 383 368 == 0 && bits r 511 441 == 0
    && adBase r % 128 == 0 && adSide (adRows r) && adSide (adCols r) && adForm r != 3
    && (if adForm r = 0 then decide (-126 ≤ anchor) && decide (anchor ≤ 64) else anchor == 0)
    && drainTypeOk (adForm r) (ltypeOf (bits r 127 120)) && decide (bits r 130 128 ≤ 4) && decide (adState r ≤ 5)
    && adHist r % 128 == 0 && adDst r % adDrainBytes r == 0 && adPitch r % adDrainBytes r == 0
    && decide (adCols r * adDrainBytes r ≤ adPitch r) && decide (1 ≤ adBlocks r) && adSpill r % 65536 == 0

/-- An accumulator word over its checked descriptor (R342). -/
def onAcc (a : SReg) (s : State) (k : State → Wave → Frag → DWord → Nat → Out) : Out :=
  onFrag s (fun w f =>
    let va := rdP w a.toNat
    if va.toNat % 64 ≠ 0 then trapS s w f .misalign va
    else sRead s w f va 64 (fun t r => if adValid r then k t w f va r else illegalS t w f))

/-- The table entry of a descriptor (R337, R339). -/
def accByDesc (s : State) (ctx pa : Nat) : Option (Nat × Acc) :=
  s.accs.find? (fun e => e.2.ctx == ctx && e.2.descPa == pa && accLive e.2)

/-! ## ACCOPEN (R344) -/

/-- The pages of a span, each with its physical page, if every one is writable and its home is at most `home`. -/
def openPages (s : State) (w : Wave) (lo : Nat) (home : Nat) : Nat → Option (List (Nat × Nat))
  | 0 => some []
  | n + 1 =>
    match translate s w.core (ctxIdOf s w.gid) w.priv (lo * 65536) .write with
    | .error _ => none
    | .ok l =>
      if pteHome l.word ≤ home then (openPages s w (lo + 1) home n).map (fun r => (lo, leafKey l (lo * 65536) / 65536) :: r)
      else none

/-- The accumulator that a descriptor opens. -/
def accNew (s : State) (w : Wave) (va : Nat) (pa r : Nat) (map : List (Nat × Nat)) : Acc :=
  { ctx := ctxIdOf s w.gid, descAddr := va, descPa := pa, base := adBase r, rows := adRows r, cols := adCols r,
    form := adForm r, anchor := sgn 8 (bits r 111 104), histBase := sgn 8 (bits r 119 112), drainType := adDrainType r,
    drainRnd := bits r 130 128, drainSat := bit r 131, ownerGid := if bit r 98 then none else some w.gid,
    hist := adHist r, dst := adDst r, dstPitch := adPitch r, spill := adSpill r, spillBlocks := adBlocks r,
    st := .opened, elems := [], placed := [], spilled := [], parkedLines := 0, map := map }

/-- Physical lines of an accumulator's region. -/
def accLineKeys (a : Acc) : List Nat := (List.range (accLines a)).map (fun j => accKeyOf a (a.base + 128 * j))

/-- The accumulator enters the table: owner and state are written, and its lines are recalled and enter A (R279). -/
def accOpenAt (s : State) (k : Nat) (a : Acc) : State :=
  let handle := match a.ownerGid.bind (groupOf s) with
    | some g => (groupHandle g).toNat
    | none => 0
  let s1 := putNum (recallLines s (accLineKeys a)) (a.descPa + 20) 4 handle
  accWriteSt { s1 with accs := Map.insert s1.accs k a } a.descPa .opened (bits (readNum s1.mem (a.descPa + 18) 1) 5 0)

/-- `ACCOPEN` (R344). -/
def execAccopen (d a : SReg) (s : State) : Out :=
  onAcc a s (fun s w f va r =>
    match openPages s w (adBase r / 65536) 1 (spanPages (adBase r) (adBase r + adSize r)),
        openPages s w (adSpill r / 65536) 0 (adBlocks r) with
    | some map, some _ =>
      if 65536 * adBlocks r < 4 * ceilDiv (adSize r) 128 then illegalS s w f
      else
        sUpdate s w f va 64 (fun t key =>
          let ans (u : State) (x : Word) : Out := actedWith u (fun v => wrS v d.toNat x)
          let st := adState (readNum t.mem key 64)
          let x := accNew t w va.toNat key r map
          if st ≠ 0 ∧ st ≠ 3 ∧ st ≠ 4 then ans t 1
          else if (accLineKeys x).any (fun k => inA t k || (haloOwner t k).isSome) then ans t 2
          else
            match Map.lowestFree (fun _ => false) 1024 t.accs 0 with
            | none => ans t 3
            | some k =>
              -- a line whose recall waits for an external agent holds the word back (R279, R407)
              if (accLineKeys x).any (fun l => lineSt t l == .migr || lineWaits t l) then blocked t w f .access
              else ans (accOpenAt t k x) 0)
    | _, _ => trapS s w f .protect 0)

/-! ## ACCDRAIN (R345) -/

/-- Two runs of bytes meet. -/
def bytesMeet (a an b bn : Nat) : Bool := spansMeet (a, a + an) (b, b + bn)

/-- The seal of a drain discards the parked staging states of the accumulator; their teams start again from +0 (R345). -/
def dropParked (s : State) (k : Nat) (a : Acc) : State :=
  let mine (t : Team) : Bool :=
    t.parked && ctxIdOf s t.gid == a.ctx && decide (a.base ≤ t.tile.toNat)
      && decide (t.tile.toNat < a.base + a.rows * a.cols * accElemBytes a.form)
  let s1 := { s with cores := Map.mapVals s.cores (fun _ c =>
    { c with teams := c.teams.map (fun t => if mine t then { clearTeam t with parked := false } else t) }) }
  { s1 with accs := Map.modify s1.accs k (fun b => { b with parkedLines := 0 }) }

/-- The ranges that a drain locks (R102, R345). -/
def drainRanges (r : Nat) : List XRange :=
  let h : List XRange := if adHist r = 0 then [] else [{ scr := false, lo := adHist r, hi := adHist r + 128, dst := true }]
  { scr := false, lo := adDst r, hi := adDst r + adDstBytes r, dst := true } :: h

/-- The accumulator is sealed, and its drain takes a slot (R345). -/
def startDrain (s : State) (w : Wave) (q k slot : Nat) (a : Acc) (va r : Nat) : State × Word :=
  let s1 := dropParked { s with accs := Map.insert s.accs k { a with st := .draining } } k a
  let s2 := accWriteSt s1 a.descPa .draining (bits (readNum s1.mem (a.descPa + 18) 1) 5 0)
  takeSlot s2 w.core slot { engNew s2 w .drain q (BitVec.ofNat 512 r) va with acc := k } (drainRanges r)

/-- `ACCDRAIN` (R345). -/
def execAccdrain (d a : SReg) (q : BitVec 2) (s : State) : Out :=
  onAcc a s (fun s w f va r =>
    if bytesMeet (adDst r) (adDstBytes r) (adBase r) (adSize r)
      || (adHist r != 0 && bytesMeet (adDst r) (adDstBytes r) (adHist r) 128) then illegalS s w f
    else
      sUpdate s w f va 64 (fun t key =>
        match accByDesc t (ctxIdOf t w.gid) key with
        | some (k, x) =>
          if adState (readNum t.mem key 64) ≠ 1 ∨ x.st ≠ .opened then done t (wrS w d.toNat 0xFFFFFFFF) f
          else
            (match freeOpSlot (coreOf t w.core), pinPages t w.core (ctxIdOf t w.gid) w.priv [] (drainPages (BitVec.ofNat 512 r)) with
             | some slot, some _ =>
               let p := startDrain t w q.toNat k slot x va.toNat r
               actedWith p.1 (fun v => wrS v d.toNat p.2)
             | _, _ => blocked t w f .engineSlot)
        | none => done t (wrS w d.toNat 0xFFFFFFFF) f))

/-- The bytes of a histogram block (R75). -/
def histBytes (h : Map Nat) : List Byte :=
  (List.range 32).flatMap (fun j => toBytes 4 (min (Tab.get 0 h j) 0xFFFFFFFF))

/-- Write an element of the target, or the histogram block after the last; none when the drain has ended. -/
def drainStep (s : State) (a : Acc) (o : EngOp) : State × EngOp × Option EngRun :=
  let n := a.rows * a.cols
  if o.elem < n then
    let e := Tab.get AccElem.zero a.elems o.elem
    let v := accStep1 a e
    let bs := toBytes (ltypeBits a.drainType / 8) (convert a.drainType v.1 a.drainRnd a.drainSat v.2)
    match engWrite s o false (a.dst + o.elem / a.cols * a.dstPitch + o.elem % a.cols * bs.length) bs with
    | (t, .error r) => (t, o, some r)
    | (t, .ok _) =>
      let b := accBin a e
      (t, { o with elem := o.elem + 1, written := o.written + bs.length, hist := Tab.set 0 o.hist b (Tab.get 0 o.hist b + 1) }, none)
  else if o.elem = n ∧ a.hist ≠ 0 then
    match engWrite s o false a.hist (histBytes o.hist) with
    | (t, .error r) => (t, o, some r)
    | (t, .ok _) => (t, { o with elem := n + 1 }, none)
  else (s, o, some .over)

/-- Move a drain on until it ends or stops. -/
def drainMove (fuel : Nat) (s : State) (a : Acc) (o : EngOp) : State × EngOp × EngRun :=
  match fuel with
  | 0 => (s, o, .wait)
  | fuel + 1 =>
    match drainStep s a o with
    | (t, p, none) => drainMove fuel t a p
    | (t, p, some r) => (t, p, r)

/-- `DRAIN_COMPLETE` (R345): the drain writes what is left of its target and ends, unless it stops. -/
def execDrainComplete (core op : Nat) (s : State) : Out :=
  match opAt s core op with
  | none => .next s
  | some o =>
    match Map.find s.accs o.acc with
    | none => .next s
    | some a =>
      if o.kind ≠ .drain ∨ !engRuns s o ∨ o.failCause.isSome then .next s
      else
        match drainMove (a.rows * a.cols + 3) s a { o with st := .running, missPage := none } with
        | (t, p, .over) => .next (finishOp (accEnd (putOp t core op p) o.acc .drained) core op 0 0 0)
        | (t, p, .fault va c) => .next (putOp t core op { p with failPage := some va, failCause := some c })
        | (t, p, .miss pg) => .next (engMiss t core op p pg)
        | (t, p, .wait) => .next (putOp t core op p)
        | (_, _, .hole) => .fault .physicalHole

/-- A handler skips a parked drain: `FAILED`, and the accumulator is `FAULTED` with the cause (R339). -/
def drainSkip (s : State) (core op : Nat) : State :=
  match Map.find (coreOf s core).ops op with
  | none => s
  | some o => accFault (engSkip s core op) o.acc (o.failCause.getD .unmapped)

/-! ## ACCABORT and ACCWAIT (R346, R347) -/

/-- `ACCABORT` (R346). -/
def execAccabort (d a : SReg) (s : State) : Out :=
  onAcc a s (fun s w f va _ =>
    sUpdate s w f va 64 (fun t key =>
      match accByDesc t (ctxIdOf t w.gid) key with
      | some (k, _) => actedWith (accAbort t k) (fun v => wrS v d.toNat 0)
      | none => done t (wrS w d.toNat 1) f))

/-- `ACCWAIT` (R347): it sleeps while the state is `DRAINING`, and reads again. -/
def execAccwait (d a : SReg) (s : State) : Out :=
  onAcc a s (fun s w f _ r =>
    if adState r = 2 then blocked s w f .accwait else done s (wrS w d.toNat (BitVec.ofNat 32 (adState r))) f)

/-! ## Lane access to latent lines (R348, R349) -/

/-- The live accumulator of a context whose region holds an address. -/
def accLiveAt (s : State) (ctx va : Nat) : Option (Nat × Acc) :=
  s.accs.find? (fun e => e.2.ctx == ctx && accLive e.2 && decide (e.2.base ≤ va)
    && decide (va < e.2.base + e.2.rows * e.2.cols * accElemBytes e.2.form))

/-- The unit that an element address must be a multiple of: the element's size, else the type's. -/
def accUnit (s : State) (ctx : Nat) (t : LType) (va : Nat) : Nat :=
  match accLiveAt s ctx va with
  | some (_, a) => accElemBytes a.form
  | none => elemSize t

/-- A lane reaches a latent line: alignment, translation and range locks (R255, R348). -/
def accReach (s : State) (w : Wave) (t : LType) (va : DWord) (k : AccKind) (yes : State → State × LaneRes) : State × LaneRes :=
  let ctx := ctxIdOf s w.gid
  if va.toNat % accUnit s ctx t va.toNat ≠ 0 then (s, .fault .misalign va)
  else
    match translate s w.core ctx w.priv va.toNat k with
    | .error .reservedTouch =>
      let s1 := sheetNote s ctx va.toNat true true
      if claimedByOther s ctx (va.toNat / 65536) w.core w.slot then (s1, .claimed (va.toNat / 65536)) else (s1, .fault .reservedTouch va)
    | .error c => (s, .fault c va)
    | .ok l =>
      let s1 := tlbPut (sheetNote s ctx va.toNat true false) w.core ctx va.toNat l
      if pteHome l.word == 0 && decide (2 ^ 38 ≤ leafPa l va.toNat) then (s1, .hole)
      else if rangeLocked s1 w.core ctx va.toNat (leafKey l va.toNat) (elemSize t) k.writes then (s1, .fault .rangeLocked va)
      else yes s1

/-- The types that `ACCPEEK` reads of a form (R349). -/
def peekOk (form : Nat) (t : LType) : Bool :=
  match t with
  | .f32 => true
  | .i64 => form == 0
  | .f64 => form == 2
  | _ => false

/-- The element as `ACCPEEK` reads it (R349). -/
def peekVal (a : Acc) (t : LType) (e : AccElem) : Nat :=
  match t with
  | .i64 => low 64 (clampI (-(2 ^ 63)) (2 ^ 63 - 1) e.acc.toInt)
  | .f64 => e.acc.toNat % 2 ^ 64
  | _ => let v := accStep1 a e; if v.1 = .f32 then v.2 else roundF .f32 0 false (readF v.1 v.2)

/-- How a lane of `ACCRED` and of `ACCPEEK` performs; a partial of `ACCRED` is sent, and arrives later. -/
def accLane (o : LaneOp) (l : Nat) (s : State) : State × LaneRes :=
  match waveAt s s.cur.core s.cur.slot with
  | none => (s, .ok [])
  | some w =>
    let va := opAddr o l
    match o.word with
    | .accred i =>
      let p : Partial :=
        { ctx := ctxIdOf s w.gid, va := va.toNat, ty := i.ty, bits := BitVec.ofNat 64 (opVal o i.ty 0 l), gid := w.gid,
          core := w.core, slot := w.slot, opId := o.id, lane := l }
      accReach s w i.ty va .write (fun t => ({ t with partials := t.partials ++ [p] }, .ok []))
    | .accpeek i =>
      accReach s w i.ty va .read (fun t =>
        match accLiveAt t (ctxIdOf t w.gid) va.toNat with
        | none => (t, .fault .accBusy va)
        | some (_, a) =>
          if !peekOk a.form i.ty then (t, .fault .accBusy va)
          else (t, .ok (elemWrites i.ty i.vd.toNat l
            (peekVal a i.ty (Tab.get AccElem.zero a.elems ((va.toNat - a.base) / accElemBytes a.form))))))
    | _ => (s, .ok [])

/-- `ACCRED` (R348). -/
def execAccred (x : LXWord) (s : State) : Out :=
  onLane s x.guard.toNat (fun w t _ act =>
    issueOp accLane s w x.stop
      (newOp w t (.accred x) act (laneAddrs act (virtAddr s w x)) (capture s w act x.vb.toNat (regsOf x.ty) 0 [])))

/-- `ACCPEEK` (R349). -/
def execAccpeek (x : LXWord) (s : State) : Out :=
  onLane s x.guard.toNat (fun w t _ act =>
    issueOp accLane s w x.stop (newOp w t (.accpeek x) act (laneAddrs act (virtAddr s w x)) []))

/-- A partial is answered: it counts as performed, or its lane faults (R348). -/
def answerPartial (s : State) (p : Partial) (c : Option Cause) : State :=
  modWave s p.core p.slot (fun w =>
    if w.gid ≠ p.gid then w
    else
      { w with
        ops := w.ops.map (fun o =>
          if o.id ≠ p.opId then o
          else
            match c with
            | none => { o with pendingAnswers := o.pendingAnswers - 1 }
            | some c => { o with pendingAnswers := o.pendingAnswers - 1, done := o.done &&& ~~~(maskOf [p.lane]),
                                 faults := o.faults ++ [(p.lane, c, BitVec.ofNat 64 p.va)] })
        trap := if c.isSome && w.trap == .none then .pending else w.trap })

/-- `PARTIAL_ARRIVE` (R338, R340, R341). -/
def execPartialArrive (k : Nat) (s : State) : Out :=
  match s.partials[k]? with
  | none => .next s
  | some p =>
    let r := applyPartial { s with partials := s.partials.eraseIdx k } p.ctx p.va p.ty p.bits
    .next (answerPartial r.1 p r.2)

end Sys2Proof.Machine
end

