-- ==== Sys2Proof/Machine/Page.lean ====
section
/-! DEFINITION. Machine/Page.lean: the page instructions (R301 to R315) and the events of frames (R295 to R299). -/

namespace Sys2Proof.Machine

/-- The word answers in its status register. -/
def answer (s : State) (d : SReg) (x : Nat) : Out := actedWith s (fun v => wrS v d.toNat (BitVec.ofNat 32 x))

/-- A word marked S over the context of its wave. -/
def onPriv (s : State) (k : Wave → Frag → Ctx → Out) : Out :=
  onFrag s (fun w f => onlyS s w f (
    match ctxOf s (ctxIdOf s w.gid) with
    | some c => k w f c
    | none => .next s))

/-- An operand address that must name a page (R308). -/
def pageAddr (s : State) (w : Wave) (f : Frag) (a : SReg) (k : Nat → Out) : Out :=
  let va := rdP w a.toNat
  if va.toNat % 65536 ≠ 0 then trapS s w f .misalign va else k va.toNat

/-! ## PGTAKE and PGMAP (R309) -/

/-- A TAKEN frame of a context. -/
def takenBy (s : State) (f ctx : Nat) : Bool :=
  match Map.find s.vm.frames f with
  | some fr => fr.st == .taken && fr.ctx == ctx
  | none => false

/-- `PGTAKE` (R309). -/
def execPgtake (d : SReg) (put : Bool) (s : State) : Out :=
  onPriv s (fun w _ _ =>
    let ctx := ctxIdOf s w.gid
    let n := (rdS w d.toNat).toNat
    if put then
      if takenBy s n ctx then answer (setFrame s n (plainFrame .zeroing 0)) d 0 else answer s d 0xFFFFFFFF
    else
      match lowestIn s .pooled with
      | some f => answer (setFrame s f (plainFrame .taken ctx)) d f
      | none => answer s d 0xFFFFFFFF)

/-- Install a leaf for a TAKEN frame in a level-2 table, unless a leaf is there (R309). -/
def mapLeaf (s : State) (ctx table va f : Nat) (w x : Bool) : State × Nat :=
  let a := table + 8 * bits va 28 16
  let r :=
    if pteLeaf false (readNum s.mem a 8) then (s, 1)
    else
      let e := 19 + (if w then 32 else 0) + (if x then 64 else 0) + f * 65536
      (setFrame (putNum s a 8 e) f (plainFrame .loc ctx), 0)
  (endClaim r.1 ctx (va / 65536), r.2)

/-- `PGMAP` of a frame (R309): the new state and the status. -/
def pgMap (s : State) (c : Ctx) (ctx va f : Nat) (w x : Bool) : State × Nat :=
  if !inResv c va then (s, 2)
  else if !takenBy s f ctx then (s, 3)
  else
    let e0 := readNum s.mem (c.desc.ptRoot + 8 * bits va 56 43) 8
    if !pteTable e0 then (s, 4)
    else
      let a1 := ptePa e0 + 8 * bits va 42 29
      let e1 := readNum s.mem a1 8
      if pteLeaf true e1 then (s, 1)
      else if pteTable e1 then mapLeaf s ctx (ptePa e1) va f w x
      else
        match lowestIn s .pooled with
        | none => (s, 5)
        | some t => mapLeaf (setFrame (putNum s a1 8 (1 + t * 65536)) t (plainFrame .loc ctx)) ctx (t * 65536) va f w x

/-- `PGMAP` (R309). -/
def execPgmap (d a : SReg) (w x : Bool) (s : State) : Out :=
  onPriv s (fun v f c =>
    pageAddr s v f a (fun va =>
      let r := pgMap s c (ctxIdOf s v.gid) va (rdS v d.toNat).toNat w x
      answer r.1 d r.2))

/-! ## PGUNMAP and PGINV (R304, R310, R311) -/

/-- A page lies in a range of `n` pages from `lo`; every page when `n` is 0. -/
def inPages (lo n vpn : Nat) : Bool := n == 0 || (decide (lo ≤ vpn) && decide (vpn < lo + n))

/-- Pins of a range that operations parked on a fault hold are dropped (R304). -/
def dropParkedPins (s : State) (ctx lo n : Nat) : State :=
  (opsWhere s (fun o => o.ctx == ctx && o.st == .parked && o.failCause.isSome)).foldl (fun t p =>
    match Map.find (coreOf t p.1).ops p.2 with
    | none => t
    | some o =>
      let gone := o.pinned.filter (fun e => inPages lo n e.1)
      putOp (unpinAll t (gone.map (·.2))) p.1 p.2 { o with pinned := o.pinned.filter (fun e => !inPages lo n e.1) }) s

/-- An operation of the context holds a pin in a range. -/
def rangePinned (s : State) (ctx lo n : Nat) : Bool :=
  !(opsWhere s (fun o => o.ctx == ctx && o.pinned.any (fun e => inPages lo n e.1))).isEmpty

/-- A held table entry leads to a page of the range. -/
def walkMeets (lo n : Nat) (x : WalkEnt) : Bool :=
  let size := if x.level = 1 then 2 ^ 27 else 2 ^ 13
  n == 0 || (decide (lo < (x.idx + 1) * size) && decide (x.idx * size < lo + n))

/-- Remove the held translations of a range from every TLB and walk cache (R311). -/
def invalidate (s : State) (ctx lo n : Nat) : State :=
  let stays (e : TlbEnt) : Bool := !(e.ctx == ctx && inPages lo n e.vpn)
  { s with vm := { s.vm with tlb := s.vm.tlb.filter stays, tlb2 := s.vm.tlb2.filter stays
                             walks := s.vm.walks.filter (fun x => !(x.ctx == ctx && walkMeets lo n x)) } }

/-- The waits of `PGINV` (R311, R304): the wave's strips, then the pins of the range. -/
def afterPins (s : State) (w : Wave) (f : Frag) (lo n : Nat) (k : State → Out) : Out :=
  if w.strips ≠ [] then blocked s w f .strips
  else
    let t := dropParkedPins s (ctxIdOf s w.gid) lo n
    if rangePinned t (ctxIdOf s w.gid) lo n then blocked t w f .pins else k t

/-- Return a frame to be zeroed (R295). -/
def freeLocal (s : State) (f : Nat) : State := setFrame (recallLines s (pageLines f)) f (plainFrame .zeroing 0)

/-- `PGUNMAP` of a page whose pins are gone (R310). -/
def pgUnmap (s : State) (c : Ctx) (ctx va : Nat) (free : Bool) : State × Nat :=
  match walkTo s.mem c.desc.ptRoot va with
  | none => (s, 1)
  | some (a, large) =>
    let e := readNum s.mem a 8
    if !pteLeaf large e then (s, 1)
    else
      let l : Leaf := { word := e, large := large }
      let page := leafKey l va / 65536
      if (pageLines page).any (inA s) then (s, 6)
      else
        let t := invalidate (putNum s a 8 (e - 1)) ctx (va / 65536) 1
        (if free && pteHome e == 0 && decide (page < frameLimit s) then freeLocal t page else t, 0)

/-- `PGUNMAP` (R310). -/
def execPgunmap (d a : SReg) (free : Bool) (s : State) : Out :=
  onPriv s (fun w f c =>
    pageAddr s w f a (fun va =>
      if !inResv c va then answer s d 2
      else if (pgUnmap s c (ctxIdOf s w.gid) va free).2 = 6 then answer s d 6
      else
        afterPins s w f (va / 65536) 1 (fun t =>
          let r := pgUnmap t c (ctxIdOf s w.gid) va free
          answer r.1 d r.2)))

/-- `PGINV` (R311); with n = 0 the pair names no page. -/
def execPginv (d a : SReg) (s : State) : Out :=
  onPriv s (fun w f _ =>
    let n := (rdS w d.toNat).toNat
    let va := rdP w a.toNat
    if 65536 < n then illegalS s w f
    else if n ≠ 0 ∧ va.toNat % 65536 ≠ 0 then trapS s w f .misalign va
    else
      afterPins s w f (va.toNat / 65536) n (fun t => actedWith (invalidate t (ctxIdOf s w.gid) (va.toNat / 65536) n) (fun v => v)))

/-! ## PGHARVEST (R305, R312) -/

/-- Take write permission from the L1 copy of a line: E and M become S, with dirty data written to the home. The owner of an H line holds
it without the directory, and keeps it (R286, R312; log 16). -/
def downgradeLine (s0 : State) (line : Nat) : State :=
  let s := settleLine s0 line
  let d := dirOf s line
  match l1Of s d.owner line with
  | none => s
  | some l =>
    if (haloOwner s line).isSome || !(d.st == .e || d.st == .m) || !(l.st == .e || l.st == .m) then s
    else
      let t := if l.st = .m then frameDirty s line else s
      homePut (setDir (setL1 t d.owner line { l with st := .s }) line { d with st := .s, owner := 0, sharers := sharerBit d.owner }) line

/-- The lines of a page that some L1 has an entry for. -/
def pageCopies (s : State) (page : Nat) : List Nat :=
  ((s.coh.l1.map (fun e => e.1 % 2 ^ 64)).filter (fun line => line / 65536 == page)).eraseDups

/-- Take write permission from every L1 copy of a page's lines (R312). -/
def downgradePage (s : State) (page : Nat) : State := (pageCopies s page).foldl downgradeLine s

/-- Harvest `n` pages from `vpn` on; how many had their write-grant bit. -/
def harvest (root : Nat) : Nat → State → Nat → State × Nat
  | 0, s, _ => (s, 0)
  | n + 1, s, vpn =>
    let va := vpn * 65536
    let r : State × Nat :=
      match walkTo s.mem root va with
      | none => (s, 0)
      | some (a, large) =>
        let e := readNum s.mem a 8
        let l : Leaf := { word := e, large := large }
        let page := leafKey l va / 65536
        if pteLeaf large e && Tab.get false s.vm.wgrant page then
          let t := downgradePage { s with vm := { s.vm with wgrant := Tab.set false s.vm.wgrant page false } } page
          (if bit e 10 then t else putNum t a 8 (e + 2 ^ 10), 1)
        else (s, 0)
    let q := harvest root n r.1 (vpn + 1)
    (q.1, r.2 + q.2)

/-- `PGHARVEST` (R312). -/
def execPgharvest (d a : SReg) (s : State) : Out :=
  onPriv s (fun w f c =>
    let n := (rdS w d.toNat).toNat
    if n = 0 ∨ 4096 < n then illegalS s w f
    else
      pageAddr s w f a (fun va =>
        let r := harvest c.desc.ptRoot n s (va / 65536)
        answer r.1 d r.2))

/-! ## PGMIGRATE (R302, R313) -/

/-- Copy a page's bytes to another page. -/
def copyPage (m : List Host.Cell) (src dst : Nat) : List Host.Cell :=
  let out := m.filter (fun e => e.1 / 65536 != dst)
  (m.filter (fun e => e.1 / 65536 == src)).foldl (fun o e => Tab.set 0 o (dst * 65536 + e.1 % 65536) e.2) out

/-- A page's bytes become 0. -/
def zeroPage (m : List Host.Cell) (page : Nat) : List Host.Cell := m.filter (fun e => e.1 / 65536 != page)

/-- The pages of declared halo regions follow a move (R286). -/
def moveHalos (s : State) (src dst : Nat) : State :=
  { s with ctxs := Map.mapVals s.ctxs (fun _ c =>
    { c with halos := Map.mapVals c.halos (fun _ h => { h with map := h.map.map (fun p => if p.2 == src then (p.1, dst) else p) }) }) }

/-- What is kept of a line beside its bytes moves with it: the key it is encrypted under, and that an external agent has changed it while
no clear copy was left (R110, R425). -/
def moveMarks (s : State) (src dst : Nat) : State :=
  let there (line : Nat) : Nat := dst * 65536 + line % 65536
  let out (line : Nat) : Bool := line / 65536 != src && line / 65536 != dst
  let keys := s.sealed.filter (fun e => e.1 / 65536 == src)
  let bad := s.tamper.filter (fun line => line / 65536 == src && !cachedLine s line)
  { s with sealed := keys.foldl (fun m e => Map.insert m (there e.1) e.2) (s.sealed.filter (fun e => out e.1))
           tamper := s.tamper.filter out ++ bad.map there }

/-- A page takes its new home: its lines one after another, its bytes, its write-grant bit, its leaf and its translations (R280, R302). -/
def movePage (s0 : State) (ctx vpn a e src dst home : Nat) : State :=
  let ext := (s0.extBytes.map (fun x => lineOf x.1)).eraseDups.filter (fun line => line / 65536 == src)
  let s := ext.foldl (fun t line => extTouch t line (bit e 8)) s0
  let s1 := ((pageLines src).filter (fun line => (haloOwner s line).isSome)).foldl pullHalo (recallLines (moveMarks s src dst) (pageLines dst))
  let s2 := (pageLines src).foldl (fun t line => leaveMigr (enterMigr t line) line (dst * 65536 + line % 65536)) (moveHalos s1 src dst)
  let g := Tab.get false s2.vm.wgrant src
  let s3 := { s2 with mem := copyPage s2.mem src dst
                      vm := { s2.vm with wgrant := Tab.set false (if g then Tab.set false s2.vm.wgrant dst true else s2.vm.wgrant) src false } }
  let s4 := match frameOfPage s3 src with
    | some (f, _) => dropFrame s3 f
    | none => s3
  let e' := e % 4 + home * 4 + (e / 16 % 4096 * 16) + dst * 65536
  invalidate (putNum s4 a 8 e') ctx vpn 1

/-- How one page of a migration comes out. -/
inductive Migr where
  | moved (s : State)
  | stop (reason : Nat)
  | wait
  deriving DecidableEq, Repr

/-- A page may not move yet: pins, lines that may not, a push of its H lines, a fill or an eviction (R287, R302, R304, R340). -/
def migrWaits (s : State) (page : Nat) : Bool :=
  (Map.find s.vm.pins page).isSome || (pageLines page).any (lineWaits s)
    || s.coh.pushes.any (fun p => p.1 / 65536 == page)
    || (evictingFrame s page).isSome
    || (match frameOfPage s page with
        | some (_, f) => f.st == .filling
        | none => false)

/-- Migrate one page to local, or to pool page `pool` (R302, R313). -/
def migratePage (s : State) (root ctx vpn : Nat) (toPool : Bool) (pool : Nat) : Migr :=
  match walkTo s.mem root (vpn * 65536) with
  | none => .stop 1
  | some (a, large) =>
    let e := readNum s.mem a 8
    if large || !pteLeaf false e then .stop 1
    else if pteHome e ≠ (if toPool then 0 else 1) then .stop 2
    else
      let src := ptePa e / 65536
      if migrWaits s src then .wait
      else if toPool then
        let t := movePage s ctx vpn a e src pool 1
        .moved (setFrame t src (plainFrame .zeroing 0))
      else
        match lowestIn s .pooled with
        | none => .stop 3
        | some f => .moved (movePage (setFrame s f (plainFrame .loc ctx)) ctx vpn a e src f 0)

/-- Migrate `n` pages: the state, the pages moved and the reason for stopping; none while a page has to wait. -/
def migratePages (root ctx : Nat) (toPool : Bool) : Nat → State → Nat → Nat → Option (State × Nat × Nat)
  | 0, s, _, _ => some (s, 0, 0)
  | n + 1, s, vpn, pool =>
    match migratePage s root ctx vpn toPool pool with
    | .wait => none
    | .stop r => some (s, 0, r)
    | .moved t => (migratePages root ctx toPool n t (vpn + 1) (pool + 1)).map (fun q => (q.1, q.2.1 + 1, q.2.2))

/-- A migration descriptor keeps R313's map. -/
def migrValid (r : Nat) : Bool :=
  bits r 63 57 == 0 && !bit r 71 && bits r 127 73 == 0 && bits r 255 180 == 0 && bits r 56 0 % 65536 == 0
    && decide (1 ≤ bits r 70 64) && decide (bits r 70 64 ≤ 64) && bits r 179 128 % 65536 == 0
    && (bit r 72 || bits r 179 128 == 0)

/-- `PGMIGRATE` (R313). -/
def execPgmigrate (d a : SReg) (s : State) : Out :=
  onPriv s (fun w f c =>
    let va := rdP w a.toNat
    if va.toNat % 32 ≠ 0 then trapS s w f .misalign va
    else
      sRead s w f va 32 (fun t r =>
        if !migrValid r then illegalS t w f
        else
          match migratePages c.desc.ptRoot (ctxIdOf t w.gid) (bit r 72) (bits r 70 64) t (bits r 56 16) (bits r 179 144) with
          | none => blocked t w f .pins
          | some (u, n, why) => answer u d (n + why * 256)))

/-! ## PGQUERY (R314) -/

/-- A snapshot of a page (R314). -/
def pageInfo (s : State) (c : Ctx) (priv : Priv) (va : Nat) : Nat :=
  let b (x : Bool) (i : Nat) : Nat := if x then 2 ^ i else 0
  match (if 2 ^ 57 ≤ va then none else walk s.mem c.desc.ptRoot va) with
  | none => 0
  | some l =>
    if priv == .u && bit l.word 7 then 0
    else
      let page := leafKey l va / 65536
      let st := (frameOfPage s page).map (·.2.st)
      let pool := pteHome l.word == 1
      let migr := s.coh.dir.any (fun e => e.1 / 65536 == page && e.2.st == .migr)
      1 + 2 * pteHome l.word + b (pteHome l.word == 0 || (pool && (st == some .clean || st == some .dirty))) 3
        + b (pool && st == some .dirty) 4 + b (migr || (pool && (st == some .filling || (evictingFrame s page).isSome))) 5
        + b l.large 6 + b (bit l.word 10) 7 + 256 * min 255 ((Map.find s.vm.pins page).getD 0)

/-- `PGQUERY` (R314). -/
def execPgquery (d a : SReg) (s : State) : Out :=
  onFrag s (fun w f =>
    match ctxOf s (ctxIdOf s w.gid) with
    | none => .next s
    | some c => done s (wrS w d.toNat (BitVec.ofNat 32 (pageInfo s c w.priv (rdP w a.toNat).toNat))) f)

/-! ## CSHEET (R307, R315) -/

/-- A request keeps R315's map for its form. -/
def sheetValid (f : SheetForm) (r : Nat) : Bool :=
  bits r 63 57 == 0 && bits r 127 88 == 0 && bits r 255 185 == 0 &&
    (match f with
     | .decl => bits r 56 0 % 65536 == 0 && decide (1 ≤ bits r 84 64) && decide (bits r 84 64 ≤ 2 ^ 20)
     | .drop => true
     | .snapshot => bits r 184 128 % 128 == 0)

/-- The bytes of a snapshot, two for each page. -/
def sheetBytes (sh : Sheet) : List Byte := (List.range sh.pages).flatMap (fun p => toBytes 2 (Tab.get 0 sh.marks p).toNat)

/-- Change the sheets of a context. -/
def modSheets (s : State) (ctx : Nat) (g : Map Sheet → Map Sheet) : State :=
  { s with ctxs := Map.modify s.ctxs ctx (fun c => { c with sheets := g c.sheets }) }

/-- Write bytes for a scalar word, a line at a time from an address that is a multiple of 128. -/
def sWriteLines (fuel : Nat) (s : State) (w : Wave) (f : Frag) (va : Nat) (bs : List Byte) (yes : State → Out) : Out :=
  match fuel with
  | 0 => yes s
  | fuel + 1 =>
    if bs = [] then yes s
    else
      sAccess s w f (BitVec.ofNat 64 va) (bs.take 128).length .update (fun t key =>
        sWriteLines fuel (storeBytes t w.core key (bs.take 128)) w f (va + 128) (bs.drop 128) yes)

/-- A state with the bytes of another: what was written since is not (log 16). -/
def unwritten (old new : State) : State :=
  { new with mem := old.mem, sealed := old.sealed, hostLines := old.hostLines, coh := { new.coh with haloDirty := old.coh.haloDirty } }

/-- `CSHEET` (R315): a snapshot counts its own touches anew. -/
def execCsheet (d a : SReg) (form : SheetForm) (s : State) : Out :=
  onFrag s (fun w f =>
    let va := rdP w a.toNat
    if va.toNat % 32 ≠ 0 then trapS s w f .misalign va
    else
      sRead s w f va 32 (fun t r =>
        let ctx := ctxIdOf t w.gid
        let slot := bits r 87 85
        let sheets := ((ctxOf t ctx).map (·.sheets)).getD []
        if !sheetValid form r then illegalS t w f
        else
          match form, Map.find sheets slot with
          | .decl, some _ => answer t d 1
          | .decl, none =>
            if 2 ^ 20 < sheets.foldl (fun n e => n + e.2.pages) (bits r 84 64) then answer t d 2
            else answer (modSheets t ctx (fun m => Map.insert m slot { base := bits r 56 0, pages := bits r 84 64, marks := [] })) d 0
          | .drop, none => answer t d 1
          | .drop, some _ => answer (modSheets t ctx (fun m => Map.erase m slot)) d 0
          | .snapshot, none => answer t d 0xFFFFFFFF
          | .snapshot, some sh =>
            let u := modSheets t ctx (fun m => Map.insert m slot { sh with marks := [] })
            let n := 2 * sh.pages
            match sWriteLines (n / 128 + 1) u w f (bits r 184 128) (sheetBytes sh) (fun v => answer v d sh.pages) with
            | .next v =>
              -- a snapshot that did not complete writes and clears nothing
              if ((waveAt v w.core w.slot).bind (fun x => fragOf x s.cur.b)).map (·.pc) = some (f.pc + 4) then .next v
              else .next (modSheets (unwritten t v) ctx (fun m => Map.insert m slot sh))
            | r => r))

/-! ## Frames and fills (R295 to R299) -/

/-- The pages that an operation has still to transfer, in processing order from its progress on (R300). -/
def pagesLeft (o : EngOp) : List XPage :=
  match o.kind with
  | .copy | .gather | .scatter | .fill =>
    let d := xdesc o.desc.toNat
    ((List.range d.rows).drop o.elem).foldl (fun l i =>
      let skip := if i = o.elem then o.byte else 0
      let a := xSrc o.kind d o.idxs i
      let b := xDst o.kind d o.idxs i
      let l1 := if d.srcScr || o.kind == .fill then l else addPages l (a + skip) (a + d.rowBytes) false
      if d.dstScr then l1 else addPages l1 (b + skip) (b + d.rowBytes) true) []
  | .drain => drainPages o.desc
  | .mloop => []

/-- The pool page of a page that an operation needs, if it is one in no frame. -/
def poolPageOf (s : State) (o : EngOp) (p : XPage) : Option (Nat × Nat) :=
  match translate s o.core o.ctx o.priv p.va (if p.wr then .write else .read) with
  | .ok l =>
    let page := leafKey l p.va / 65536
    if pteHome l.word == 1 && (frameOfPage s page).isNone && !((s.vm.batch.getD []).any (fun e => e.1 == page)) then some (page, o.ctx) else none
  | .error _ => none

/-- What the Loupe predicts from engine descriptors: of each operation, up to 32 pages ahead of its progress (R300). -/
def engineAhead (s : State) : List (Nat × Nat) :=
  ((opsWhere s (fun o => o.final.isNone)).flatMap (fun p =>
    match Map.find (coreOf s p.1).ops p.2 with
    | some o => ((pagesLeft o).take 32).filterMap (poolPageOf s o)
    | none => [])).eraseDups

/-- `LOUPE_BATCH_CLOSE` (R299). -/
def execLoupeBatchClose (s : State) : Out := .next (closeBatch s (engineAhead s))

/-- Some CXL port carries pool traffic: it is up and its link stream is active (R405, R426). -/
def cxlUp (s : State) : Bool :=
  s.link.ports.any (fun e => decide (e.1 < 4) && (e.2.st == .up || e.2.st == .degraded) && e.2.ide == 2)

/-- `FRAME_FILL_COMPLETE` (R295): the frame is `CLEAN`, and the units that wait for its page can replay. -/
def execFrameFillComplete (f : Nat) (s : State) : Out :=
  match Map.find s.vm.frames f with
  | some fr => .next (if fr.st = .filling && cxlUp s then wakePage (setFrame s f { fr with st := .clean }) fr.page else s)
  | none => .next s

/-- The address at which a parked operation waits for a page. -/
def opWaitVa (s : State) (o : EngOp) (page : Nat) : Nat :=
  (((opPages o).find? (fun p => match engPage s o.core o.ctx o.priv p with
    | .ok q => q == page
    | .error _ => false)).map (·.va)).getD o.descAddr

/-- `FILL_POOL_UNREACHABLE` (R295): the accesses that wait for the page raise `LINK_DOWN`. -/
def execFillPoolUnreachable (f : Nat) (s : State) : Out :=
  match Map.find s.vm.frames f with
  | none => .next s
  | some fr =>
    if fr.st ≠ .filling then .next s
    else
      let s0 := dropFrame s f
      let s1 := mapWaves (fillStarved s0.vm.starved s0) (fun w => if w.yieldOn.contains fr.page then { w with poison := fr.page :: w.poison } else w)
      let s2 := wakePage s1 fr.page
      .next ((opsWhere s2 (fun o => o.st == .parked && o.missPage == some fr.page)).foldl (fun t p =>
        match Map.find (coreOf t p.1).ops p.2 with
        | some o => engFault t p.1 p.2 { o with missPage := none } (opWaitVa t o fr.page) .linkDown
        | none => t) s2)

/-- `ENLARGER_EVICT` (R297): with fewer than 64 frames FREE or on their way there, the clock chooses a victim. -/
def execEnlargerEvict (s : State) : Out := .next (if framesComing s < 64 then evictOne s else s)

/-- `EVICTION_COMPLETE` (R298): the lines not yet released are, in ascending address, and the frame is FREE for a fill that waits. -/
def execEvictionComplete (f : Nat) (s : State) : Out :=
  match Map.find s.vm.frames f with
  | none => .next s
  | some fr =>
    if fr.st ≠ .evicting then .next s
    else
      let t := dropFrame (((pageLines fr.page).drop fr.released).foldl evictLine s) f
      .next (fillStarved t.vm.starved t)

/-- `POOL_FRAME_MOVE` (R295): a `FREE` frame goes to the device-local pool while that is below its target. -/
def execPoolFrameMove (f : Nat) (s : State) : Out :=
  let n := (s.vm.frames.filter (fun e => e.2.st == .pooled)).length
  .next (if frameStOf s f = none ∧ f < frameLimit s ∧ n < s.vm.poolTarget then setFrame s f (plainFrame .zeroing 0) else s)

/-- The lines of a frame that has been zeroed: lost no longer, and under no key (R282, R295). -/
def freshFrame (s : State) (f : Nat) : State :=
  let out (line : Nat) : Bool := line / 65536 != f
  let t := (pageLines f).foldl (fun t line => setDir t line { dirOf t line with fog := false }) s
  { t with mem := zeroPage t.mem f, sealed := t.sealed.filter (fun e => out e.1), tamper := t.tamper.filter out
           extBytes := t.extBytes.filter (fun e => out e.1) }

/-- `ZEROING_DONE` (R295). -/
def execZeroingDone (f : Nat) (s : State) : Out :=
  match Map.find s.vm.frames f with
  | some fr => .next (if fr.st = .zeroing then setFrame (freshFrame s f) f (plainFrame .pooled 0) else s)
  | none => .next s

end Sys2Proof.Machine
end

