-- ==== Sys2Proof/Machine/Halo.lean ====
section
/-! DEFINITION. Machine/Halo.lean: `HALODECL`, `HALOPUSH`, `HALOEND` (R285 to R288) and `LCLAIM` (R284). -/

namespace Sys2Proof.Machine

/-! ## HALODECL -/

/-- The descriptor keeps R285's map. -/
def haloValid (r : Nat) : Bool :=
  let tw := bits r 103 96
  let th := bits r 119 104
  let tx := bits r 143 128
  let ty := bits r 159 144
  bits r 63 57 == 0 && bits r 127 120 == 0 && bits r 191 184 == 0 && bits r 511 249 == 0 && bits r 56 0 % 128 == 0
    && bits r 95 64 % 128 == 0 && decide (128 * tw * tx ≤ bits r 95 64) && tw != 0 && th != 0 && tx != 0 && ty != 0
    && decide (tx * ty ≤ 1024) && decide (bits r 167 160 ≤ tw) && decide (bits r 183 168 ≤ th)

/-- The region of a descriptor. -/
def haloOf (r : Nat) (owners : List Nat) (map : List (Nat × Nat)) : Halo :=
  { base := bits r 56 0, pitch := bits r 95 64, tw := bits r 103 96, th := bits r 119 104, tilesX := bits r 143 128,
    tilesY := bits r 159 144, hx := bits r 167 160, hy := bits r 183 168, owners := owners, map := map }

/-- Virtual addresses of the lines of a region. -/
def haloLines (h : Halo) : List Nat :=
  (List.range (h.th * h.tilesY)).flatMap (fun row => (List.range (h.tw * h.tilesX)).map (fun c => h.base + row * h.pitch + 128 * c))

/-- 64 KiB pages that hold lines of a region. -/
def haloPages (h : Halo) : List Nat :=
  ((List.range (h.th * h.tilesY)).foldl (fun l row =>
    addPages l (h.base + row * h.pitch) (h.base + row * h.pitch + 128 * h.tw * h.tilesX) true) []).map (fun p => p.va / 65536)

/-- Each page with its physical page, if every one is mapped and writable. -/
def mapPages (s : State) (w : Wave) : List Nat → Option (List (Nat × Nat))
  | [] => some []
  | v :: rest =>
    match translate s w.core (ctxIdOf s w.gid) w.priv (v * 65536) .write with
    | .error _ => none
    | .ok l => (mapPages s w rest).map (fun r => (v, leafKey l (v * 65536) / 65536) :: r)

/-- Physical key of a virtual byte of a region. -/
def haloKey (h : Halo) (va : Nat) : Nat :=
  match h.map.find? (fun e => e.1 == va / 65536) with
  | some e => e.2 * 65536 + va % 65536
  | none => va

/-- A scalar word reads `n` bytes at any address, a line at a time. -/
def sReadBytes (fuel : Nat) (s : State) (w : Wave) (f : Frag) (va n : Nat) (acc : List Byte) (yes : State → List Byte → Out) : Out :=
  match fuel with
  | 0 => yes s acc
  | fuel + 1 =>
    if n = 0 then yes s acc
    else
      let k := min n (128 - va % 128)
      sAccess s w f (BitVec.ofNat 64 va) k .read (fun t key =>
        sReadBytes fuel t w f (va + k) (n - k) (acc ++ loadBytes t w.core key k) yes)

/-- Change the regions of a context. -/
def modHalos (s : State) (ctx : Nat) (g : Map Halo → Map Halo) : State :=
  { s with ctxs := Map.modify s.ctxs ctx (fun c => { c with halos := g c.halos }) }

/-- `HALODECL` (R288). -/
def execHalodecl (d a : SReg) (s : State) : Out :=
  onFrag s (fun w f =>
    let va := rdP w a.toNat
    if va.toNat % 64 ≠ 0 then trapS s w f .misalign va
    else
      sRead s w f va 64 (fun t r =>
          -- the owner table of a descriptor in range has at most 1,024 entries
          sReadBytes 16 t w f (bits r 248 192) (min 1024 (bits r 143 128 * bits r 159 144)) [] (fun u bs =>
            let owners := bs.map (·.toNat)
            let h0 := haloOf r owners []
            if !haloValid r || owners.any (fun o => decide (95 < o)) then illegalS u w f
            else
              match mapPages u w (haloPages h0) with
              | none => trapS u w f .protect 0
              | some map =>
                let h := { h0 with map := map }
                let keys := (haloLines h).map (haloKey h)
                let ctx := ctxIdOf u w.gid
                if keys.any (fun k => inA u k || (haloOwner u k).isSome) then answer u d 0xFFFFFFFE
                else if keys.any (fun k => lineSt u k == .migr) then blocked u w f .access
                else
                  match Map.lowestFree (fun _ => false) 16 (((ctxOf u ctx).map (·.halos)).getD []) 0 with
                  | none => answer u d 0xFFFFFFFF
                  | some n => answer (modHalos (recallLines u keys) ctx (fun m => Map.insert m n h)) d n)))

/-! ## HALOPUSH and HALOEND -/

/-- A declared region of the wave's context, by the number in a register (R288; log 16: a number
above 15 names none). -/
def haloRegion (s : State) (w : Wave) (n : Nat) : Option Halo :=
  (ctxOf s (ctxIdOf s w.gid)).bind (fun c => Map.find c.halos n)

/-- A physical byte lies in a region. -/
def inHalo (h : Halo) (key : Nat) : Bool :=
  match vaOfKey h.map key with
  | some va => (haloTile h va).isSome
  | none => false

/-- `HALOPUSH` (R287, R288). -/
def execHalopush (d a : SReg) (s : State) : Out :=
  onFrag s (fun w f =>
    let n := (rdS w a.toNat).toNat
    if w.strips ≠ [] then blocked s w f .strips
    else if pushing s w.core then blocked s w f (match f.wait with | .haloPush k => .haloPush k | _ => .access)
    else
      match f.wait with
      | .haloPush k => answer s d k
      | _ =>
        match haloRegion s w n with
        | none => answer s d 0xFFFFFFFF
        | some h =>
          let lines := (haloDirtyLines s w.core).filter (inHalo h)
          let t := startPush s w.core lines
          if pushing t w.core then blocked t w f (.haloPush lines.length) else answer t d lines.length)

/-- A region ends: the owners' dirty bytes reach the homes, no copy remains, and its lines go to I; FOG lines stay FOG (R288; log 16). -/
def endHalo (s : State) (ctx n : Nat) (h : Halo) : State :=
  let out := s.coh.haloDirty.filter (fun e => inHalo h e.1)
  let mem := out.foldl (fun m e => Tab.set 0 m e.1 e.2) s.mem
  let t := (out.map (fun e => lineOf e.1)).eraseDups.foldl frameDirty s
  let s1 := { t with mem := mem, coh := { s.coh with
    haloDirty := s.coh.haloDirty.filter (fun e => !inHalo h e.1)
    l1 := s.coh.l1.filter (fun e => !inHalo h (e.1 % 2 ^ 64)) } }
  modHalos s1 ctx (fun m => Map.erase m n)

/-- `HALOEND` (R288). -/
def execHaloend (d a : SReg) (s : State) : Out :=
  onFrag s (fun w f =>
    let n := (rdS w a.toNat).toNat
    match haloRegion s w n with
    | none => answer s d 0xFFFFFFFF
    | some h =>
      if s.coh.pushes.any (fun p => inHalo h p.1) then blocked s w f .access
      else answer (endHalo s (ctxIdOf s w.gid) n h) d 0)

/-! ## LCLAIM (R284) -/

/-- A FOG line is reclaimed: 128 zero bytes (R282, R284, R305). -/
def reclaim (s : State) (key : Nat) : State :=
  storeHome (setDir (grantNote s key) key { dirOf s key with fog := false }) key (toBytes 128 0)

/-- `LCLAIM` (R284): the state A comes first, then the wait while the line moves, then the fog marker. -/
def execLclaim (d a : SReg) (s : State) : Out :=
  onPriv s (fun w f _ =>
    let va := rdP w a.toNat
    let ctx := ctxIdOf s w.gid
    if va.toNat % 128 ≠ 0 then trapS s w f .misalign va
    else
      match translate s w.core ctx w.priv va.toNat .write with
      | .error _ => sAccess s w f va 128 .write (fun t _ => .next t)
      | .ok l =>
        let key := leafKey l va.toNat
        let st := lineSt s key
        if rangeLocked s w.core ctx va.toNat key 128 true then trapS s w f .rangeLocked va
        else if st = .a then trapS s w f .accBusy va
        else if st = .migr then blocked s w f .access
        else if !(dirOf s key).fog then sAccess s w f va 128 .look (fun t _ => answer t d 0)
        else if st = .h then answer (sealLine (reclaim s key) ctx key l) d 1
        else sAccessAs true s w f va 128 .update (fun t key => answer (reclaim t key) d 1))

end Sys2Proof.Machine
end

