-- ==== Sys2Proof/Machine/Coherence.lean ====
section
/-! DEFINITION. Machine/Coherence.lean: the events that deliver a coherence message to a home slice or to an L1 (R272 to R276, R283, R287,
R429), and `CWB` and `CINV` (R265). What a message does where it arrives stands in Proto.lean. -/

namespace Sys2Proof.Machine

/-- Message `k`, if it is of a kind and goes to the home, or to a core, is delivered, unless it cannot be taken yet. -/
def onMsg (s : State) (k : Nat) (kind : MsgK) (home : Bool) : Out :=
  match s.coh.msgs[k]? with
  | none => .next s
  | some m => .next (if m.k = kind ∧ (m.dst == homeId) = home then (deliver true s k).getD s else s)

/-! ## At the home -/

/-- `HOME_GETS` (R272, R273). -/
def execHomeGets (k : Nat) (s : State) : Out := onMsg s k .getS true
/-- `HOME_GETM` (R272, R273). -/
def execHomeGetm (k : Nat) (s : State) : Out := onMsg s k .getM true
/-- `HOME_UPG` (R272, R273). -/
def execHomeUpg (k : Nat) (s : State) : Out := onMsg s k .upg true
/-- `HOME_PUTS` (R273). -/
def execHomePuts (k : Nat) (s : State) : Out := onMsg s k .putS true
/-- `HOME_PUTE` (R273). -/
def execHomePute (k : Nat) (s : State) : Out := onMsg s k .putE true
/-- `HOME_PUTM` (R273). -/
def execHomePutm (k : Nat) (s : State) : Out := onMsg s k .putM true
/-- `HOME_PUTO` (R273). -/
def execHomePuto (k : Nat) (s : State) : Out := onMsg s k .putO true
/-- `HOME_UNBLOCK` (R273). -/
def execHomeUnblock (k : Nat) (s : State) : Out := onMsg s k .unblock true
/-- `HOME_OWNACK` (R273). -/
def execHomeOwnack (k : Nat) (s : State) : Out := onMsg s k .ownAck true
/-- `HOME_CLEANACK` (R273). -/
def execHomeCleanack (k : Nat) (s : State) : Out := onMsg s k .cleanAck true
/-- `HOME_WBDATA` (R273, R276). -/
def execHomeWbdata (k : Nat) (s : State) : Out := onMsg s k .wbData true
/-- `HOME_HACK` (R287). -/
def execHomeHack (k : Nat) (s : State) : Out := onMsg s k .hAck true

/-! ## At an L1 -/

/-- `L1_DATA` (R274). -/
def execL1Data (k : Nat) (s : State) : Out := onMsg s k .data false
/-- `L1_DATAE` (R274). -/
def execL1Datae (k : Nat) (s : State) : Out := onMsg s k .dataE false
/-- `L1_DATAM` (R274). -/
def execL1Datam (k : Nat) (s : State) : Out := onMsg s k .dataM false
/-- `L1_GRANT` (R274). -/
def execL1Grant (k : Nat) (s : State) : Out := onMsg s k .grant false
/-- `L1_INVACK` (R274). -/
def execL1Invack (k : Nat) (s : State) : Out := onMsg s k .invAck false
/-- `L1_INV` (R274). -/
def execL1Inv (k : Nat) (s : State) : Out := onMsg s k .inv false
/-- `L1_FWDGETS` (R274). -/
def execL1Fwdgets (k : Nat) (s : State) : Out := onMsg s k .fwdGetS false
/-- `L1_FWDGETM` (R274, R429). -/
def execL1Fwdgetm (k : Nat) (s : State) : Out := onMsg s k .fwdGetM false
/-- `L1_PULLWB` (R274). -/
def execL1Pullwb (k : Nat) (s : State) : Out := onMsg s k .pullWB false
/-- `L1_NOTICEACK` (R274, R429). -/
def execL1Noticeack (k : Nat) (s : State) : Out := onMsg s k .noticeAck false
/-- `L1_WBACK` (R276). -/
def execL1Wback (k : Nat) (s : State) : Out := onMsg s k .wbAck false
/-- `L1_HPUSH` (R287). -/
def execL1Hpush (k : Nat) (s : State) : Out := onMsg s k .hPush false
/-- `L1_HCOMMIT` (R287). -/
def execL1Hcommit (k : Nat) (s : State) : Out := onMsg s k .hCommit false
/-- `L1_RETRY` (R272). -/
def execL1Retry (k : Nat) (s : State) : Out := onMsg s k .retry false

/-- `REQUEST_RESEND` (R272). -/
def execRequestResend (k : Nat) (s : State) : Out :=
  match s.coh.retries[k]? with
  | none => .next s
  | some m => .next (sendMsg { s with coh := { s.coh with retries := s.coh.retries.eraseIdx k } } m)

/-! ## CWB and CINV (R265) -/

/-- The dirty data of a coherent line goes to its home memory; the line stays valid and clean. -/
def backLine (s : State) (line : Nat) : State :=
  let d := dirOf s line
  let clean (t : State) : State := { t with tamper := t.tamper.filter (· != line) }
  let t :=
    match s.coh.l1.find? (fun e => e.1 % 2 ^ 64 == line && (e.2.st == .m || e.2.st == .o)) with
    | none => s
    | some (k, l) =>
      let owner := k / 2 ^ 64
      if l.st = .m then homePut (setDir (setL1 (clean s) owner line { l with st := .e }) line { d with st := .e }) line
      else homePut (setDir (setL1 (clean s) owner line { l with st := .s }) line
        { d with st := .s, sharers := d.sharers ||| sharerBit owner, owner := 0 }) line
  match frameOfPage t (line / 65536) with
  | some (f, fr) => setFrame t f { fr with dirty := fr.dirty &&& ~~~((1 : BitVec 512) <<< (line % 65536 / 128)) }
  | none => t

/-- A core drops its own clean copy of a coherent line. -/
def leaveLine (s : State) (core line : Nat) : State :=
  let d := dirOf s line
  match l1Of s core line with
  | none => s
  | some l =>
    if l.st = .s then
      let v := d.sharers &&& ~~~(sharerBit core)
      setDir (dropL1Line s core line) line { d with sharers := v, st := if d.st = .s ∧ v = 0 then .i else d.st }
    else if l.st = .e then setDir (dropL1Line s core line) line { d with st := .i, owner := 0 }
    else s

/-- Write back, and for `CINV` drop, the copies of one line, as the word does. The bytes that the owner of an H line has written reach the
home, and the replicas go, as for a snoop (R286; log 16). -/
def cleanLine (s : State) (core line : Nat) (inv : Bool) : State :=
  if 2 ^ 64 ≤ line then (if inv then hostDrop s line else hostWriteBack s line)
  else
    match haloOwner s line with
    | some o => dropL1 (collectHalo s line) line (fun c => c == o && !(inv && c == core))
    | none =>
      let t := backLine (settleLine s line) line
      if inv then leaveLine t core line else t

/-- Physical lines of a range that lie in mapped pages of a context. -/
def rangeLines (s : State) (c : Ctx) (a n : Nat) : List Nat :=
  if n = 0 then []
  else (List.range ((a + n - 1) / 128 + 1 - a / 128)).filterMap (fun j =>
    let va := (a / 128 + j) * 128
    if 2 ^ 57 ≤ va then none else (walk s.mem c.desc.ptRoot va).map (fun l => leafKey l va))

/-- `CWB` and `CINV` (R265): they wait for lines that move, and for transactions that wait for an external agent. -/
def cacheWord (inv : Bool) (d a : SReg) (s : State) : Out :=
  onFrag s (fun w f =>
    let n := (rdS w d.toNat).toNat
    if 2 ^ 24 ≤ n then illegalS s w f
    else if w.strips ≠ [] then blocked s w f .strips
    else
      match ctxOf s (ctxIdOf s w.gid) with
      | none => .next s
      | some c =>
        let l := (rangeLines s c (rdP w a.toNat).toNat n).filter (fun line => !inA s line)
        if l.any (fun line => lineSt s line == .migr || lineWaits s line) then blocked s w f .access
        else actedWith (l.foldl (fun t line => cleanLine t w.core line inv) s) (fun v => v))

/-- `CWB` (R265). -/
def execCwb (d a : SReg) (s : State) : Out := cacheWord false d a s
/-- `CINV` (R265). -/
def execCinv (d a : SReg) (s : State) : Out := cacheWord true d a s

end Sys2Proof.Machine
end

