-- ==== Sys2Proof/Machine/Agents.lean ====
section
/-! DEFINITION. Machine/Agents.lean: dead cores and lost agents (R281, R411, R415), soft errors (R255, R281, R116),
write-back-and-answer mode (R276), snoops and requests of external agents (R406, R407, R425), and ports (R405 to R410,
R426). -/

namespace Sys2Proof.Machine

/-! ## Lost lines (R281, R282) -/

/-- A line becomes FOG. -/
def fogLine (s : State) (line : Nat) : State := setDir s line { Dir.init with fog := true }

/-- A core's L1 holds a line dirty, or with its data on the way out. -/
def holdsDirty (s : State) (core line : Nat) : Bool :=
  match l1Of s core line with
  | some l => l.st == .m || l.st == .o || l.st == .omA || l.st == .miN
  | none => false

/-- The home acts on one entry when a core dies (R281). -/
def deadEntry (core : Nat) (s : State) (e : Nat × Dir) : State :=
  let line := e.1
  let d := e.2
  let v := d.sharers &&& ~~~(sharerBit core)
  match d.st with
  | .e => if d.owner = core then (if holdsDirty s core line then fogLine s line else setDir s line { d with st := .i, owner := 0 }) else s
  | .m => if d.owner = core then fogLine s line else s
  | .o => if d.owner = core then fogLine s line else setDir s line { d with sharers := v }
  | .s => setDir s line { d with sharers := v, st := if v = 0 then .i else .s }
  | .sD =>
    if d.owner = core then
      if holdsDirty s core line then noCopy (fogLine s line) line d.reqr
      else sendMsg (setDir s line { d with st := .s, owner := 0, sharers := v ||| sharerBit d.reqr }) (fromHome .data line d.reqr d.reqr 0)
    else if d.reqr = core then settleSD s line { d with reqr := 96, gotUnblock := true }
    else setDir s line { d with sharers := v }
  | .mA => if d.owner = core then (if d.grantE then setDir s line { d with st := .i, owner := 0, grantE := false } else fogLine s line) else s
  | .wD => if d.owner = core then fogLine s line else s
  | _ => s

/-- A forward that the dead core has not answered completes as if it had (R281). -/
def deadForward (core : Nat) (s : State) (m : Msg) : State :=
  match m.k with
  | .inv => sendMsg s (fromHome .invAck m.line m.reqr m.reqr 0)
  | .fwdGetM =>
    if holdsDirty s core m.line then noCopy (fogLine s m.line) m.line m.reqr
    else sendMsg s (fromHome .dataM m.line m.reqr m.reqr m.acks)
  | .hPush => sendMsg s { toHome .hAck m.line homeId with reqr := m.reqr }
  | _ => s

/-- A core is declared dead: its lines go to I or FOG, its ID retires and its groups are killed (R281, R146). -/
def coreDead (s : State) (core cause : Nat) : State :=
  if (coreOf s core).dead then s
  else
    let s1 := s.coh.dir.foldl (deadEntry core) s
    let s2 := (s1.coh.msgs.filter (fun m => m.dst == core)).foldl (deadForward core) s1
    let s3 := (haloDirtyLines s2 core).foldl fogLine s2
    let s4 := { s3 with coh := { s3.coh with
      l1 := s3.coh.l1.filter (fun e => e.1 / 2 ^ 64 != core)
      -- what it has answered still counts: a HAck on its way comes as from the home
      msgs := (s3.coh.msgs.filter (fun m => m.dst != core)).map (fun m => if m.src == core && m.k == .hAck then { m with src := homeId } else m)
      pushes := s3.coh.pushes.filter (fun p => p.2.1 != core)
      haloDirty := s3.coh.haloDirty.filter (fun e => haloOwner s3 e.1 != some core) } }
    let s5 := putCore s4 core { coreOf s4 core with dead := true }
    let s6 := (s5.groups.filter (fun e => e.2.core == core || (groupWaves s5 e.1).any (fun w => w.core == core))).foldl
      (fun t e => killGroup t e.1) s5
    evLog ((s1.coh.dir.map (·.1)).foldl serveLine s6) 4 core cause 0

/-- `FORWARD_TIMEOUT` (R281): the core has left a forward unanswered for 2^20 cycles. -/
def execForwardTimeout (core : Nat) (s : State) : Out :=
  let late (m : Msg) : Bool := m.dst == core && (m.k == .fwdGetS || m.k == .fwdGetM || m.k == .inv || m.k == .pullWB || m.k == .hPush)
    && decide (2 ^ 20 ≤ (s.clock - m.sent).toNat)
  .next (if core < 96 ∧ s.coh.msgs.any late then coreDead s core 2 else s)

/-! ## Soft errors -/

/-- `UNCORRECTABLE_SOFT_ERROR` (R255 rank 12, R281, R339). -/
def execUncorrectableSoftError (site : ErrSite) (s : State) : Out :=
  match site with
  | .l1Tags core => .next (if core < 96 then coreDead s core 1 else s)
  | .l1Line core line =>
    let halo := haloOwner s line == some core && (haloDirtyLines s core).contains line
    .next (
      if halo then
        dropL1 (fogLine { s with coh := { s.coh with haloDirty := s.coh.haloDirty.filter (fun e => lineOf e.1 != line) } } line) line (fun _ => false)
      else if holdsDirty s core line then fogLine (dropL1 s line (fun _ => false)) line
      else
        match l1Of s core line with
        | some l => if l.st == .s || l.st == .e then setL1 s core line { l with bad := true } else s
        | none => s)
  | .scratch gid off =>
    .next (modGroup s gid (fun g => if off < g.scratchBytes ∧ !g.bad.contains off then { g with bad := g.bad ++ [off] } else g))
  | .latent line =>
    match s.accs.find? (fun e => (e.2.st == .opened || e.2.st == .draining) && accHas e.2 line) with
    | some (k, _) => .next (accBreak s k .softError)
    | none => .next s

/-- `CORRECTABLE_SOFT_ERROR` (R116): the detail holds the unit below the bank (DESIGN CHOICE, log 16: R116 says 'unit and bank', not where). -/
def execCorrectableSoftError (ctx core unit bank : Nat) (s : State) : Out :=
  .next (logError s ctx 5 unit core 0 0 (unit + 16 * bank))

/-! ## Write-back-and-answer mode (R276) -/

/-- An eviction is in flight on the device. -/
def evicting (s : State) : Bool :=
  s.coh.l1.any (fun e => e.2.st == .eiN || e.2.st == .miN || e.2.st == .iiN)
    || s.coh.msgs.any (fun m => m.k == .putS || m.k == .putE || m.k == .putM || m.k == .putO || m.k == .wbData || m.k == .noticeAck
      || m.k == .wbAck)

/-- Set the mode and log the change (R421). -/
def setWbMode (s : State) (on : Bool) : State :=
  if s.coh.wbMode = on then s else evLog { s with coh := { s.coh with wbMode := on } } 6 0 (if on then 1 else 0) 0

/-- `MODE_CHANGE` (R276): it takes effect when no eviction is in flight. -/
def execModeChange (on : Bool) (s : State) : Out := .next (if evicting s then s else setWbMode s on)

/-! ## Memory and external agents (R104, R110, R406, R407, R425) -/

/-- An integrity failure of a line that a context has fetched (R110, R116): the error is logged, and the context is quarantined. -/
def integrityFail (s : State) (ctx va : Nat) : State := quarantine (logError s ctx 4 15 127 0 va 0) ctx 4

/-- `MEMORY_LINE_RETURN` (R110, R425): the line of fetches that fail their check comes back; what their waves would consume is poison, and each
context that fetched it is quarantined. -/
def execMemoryLineReturn (line0 : Nat) (s : State) : Out :=
  let line := lineOf line0
  let mine := s.coh.failing.filter (fun e => e.2.1 == line)
  .next (mine.foldl (fun t e => integrityFail t e.1 e.2.2)
    { s with coh := { s.coh with failing := s.coh.failing.filter (fun e => e.2.1 != line) } })

/-- `BISNP_RECEIVE` (R406): a snoop that cannot be answered at once waits in the home's snoop buffer. -/
def execBisnpReceive (line0 : Nat) (inv : Bool) (s : State) : Out :=
  .next (answerSnoops { s with coh := { s.coh with snoops := s.coh.snoops ++ [(lineOf line0, inv)] } })

/-- `BICONFLICT_RECEIVE` (R406): a `BIConflictAck` lets the snoop of the line be answered before the K9's own request; a
`BIConflict` for the K9's snoop is acknowledged, and changes nothing here. -/
def execBiconflictReceive (line0 : Nat) (ack : Bool) (s : State) : Out :=
  let line := lineOf line0
  .next (
    if ack && lineSt s line != .a && lineSt s line != .migr then
      let mine := s.coh.snoops.filter (fun e => e.1 == line)
      answerSnoops (mine.foldl (fun t e => answerSnoop t e.1 e.2) { s with coh := { s.coh with snoops := s.coh.snoops.filter (fun e => e.1 != line) } })
    else s)

/-- An external agent's ID has been given and retired (R268, R411). -/
def retiredAgent (s : State) (id : Nat) : Bool := ((Map.find s.link.agents id).map (fun a => !a.live)).getD false

/-- `BIRSP_RECEIVE` (R407): the pending grant goes once every answer is in; one of a retired ID is dropped and counted (R283). -/
def execBirspReceive (line0 agent : Nat) (s : State) : Out :=
  let line := lineOf line0
  let d := dirOf s line
  if retiredAgent s agent then .next (dropMsg s agent)
  else if !d.biWait.contains agent then .next s
  else
    match d.biWait.filter (· != agent) with
    | [] => .next (biDone s line d)
    | rest => .next (setDir s line { d with biWait := rest })

/-- Store an external agent's bytes: memory holds them; the clear bytes they replace are kept for the copies that the
K9 holds (R425). -/
def extWrite (s : State) (pa : Nat) (bs : List Byte) : State :=
  let old := (List.range bs.length).map (fun j => (pa + j, Tab.get 0 s.mem (pa + j)))
  let keep := old.filter (fun e => !(s.extBytes.any (fun x => x.1 == e.1)))
  { s with mem := writeMem s.mem pa bs, extBytes := keep.foldl (fun m e => Map.insert m e.1 e.2) s.extBytes }

/-- Local pages that the K9 exposes to external agents (R407). -/
def exposed (pa : Nat) : Bool := decide (pa < 2 ^ 38)

/-- A line that an external agent's request can be served on now: in no special state, with no transaction in progress. -/
def servable (s : State) (pa : Nat) : Bool :=
  let st := lineSt s (lineOf pa)
  exposed pa && st != .a && st != .h && st != .fog && dirStable (dirOf s (lineOf pa))

/-- The copies that an external agent's read leaves: an owner goes on as one of several, and the agent joins the external set while
it has fewer than four members (R407). -/
def extRead (s0 : State) (agent line : Nat) : State :=
  let s := homeRead s0 line
  let d := dirOf s line
  setDir s line { d with ext := if d.ext.contains agent ∨ 4 ≤ d.ext.length then d.ext else d.ext ++ [agent] }

/-- `EXTERNAL_REQUEST` (R104, R407): a live agent's request to a local line is served at its home, after the transactions in progress there; a
line in A answers with a fault, FOG with poison, a line of a halo region with its published value. A write beyond local memory
is the agent's own, to pool or host memory. A request of a retired ID is dropped and counted (R283). -/
def execExternalRequest (agent : Nat) (req : ExtReq) (s0 : State) : Out :=
  if retiredAgent s0 agent then .next (dropMsg s0 agent)
  else if peerLostAgent s0 agent then .next s0
  else
    match req with
    | .read pa =>
      let s := settleLine s0 (lineOf pa)
      .next (if servable s pa then extRead s agent (lineOf pa) else s)
    | .getM pa =>
      let line := lineOf pa
      let s := settleLine s0 line
      .next (if servable s pa then setDir (grantNote (recallLine s line) line) line { Dir.init with st := .m, owner := agent } else s)
    | .write pa bs =>
      let line := lineOf pa
      let s := settleLine s0 line
      if 128 < pa % 128 + bs.length then .next s
      else if exposed pa then
        .next (if servable s pa then
          let t := grantNote (recallLine s line) line
          extWrite (setDir t line { dirOf t line with ext := ((dirOf s line).ext).filter (· == agent) }) pa bs else s)
      else .next (if s.coh.l1.any (fun e => e.1 % 2 ^ 64 == line) then s else extWrite s pa bs)
    | .evict pa =>
      let line := lineOf pa
      let d := dirOf s0 line
      .next (if d.st == .m && d.owner == agent then setDir s0 line { d with st := .i, owner := 0 }
        else setDir s0 line { d with ext := d.ext.filter (· != agent) })

/-! ## Ports (R405, R409, R410) -/

/-- A port. -/
def portOf (s : State) (p : Nat) : Port := Tab.get Port.init s.link.ports p

/-- Put a port. -/
def putPort (s : State) (p : Nat) (x : Port) : State := { s with link := { s.link with ports := Tab.set Port.init s.link.ports p x } }

/-- Code of a port's state (R410). -/
def portCode : PortSt → Nat
  | .down => 0 | .training => 1 | .up => 2 | .degraded => 3 | .fenced => 4

/-- A port changes state, and the change is logged (R410, R421); a fenced port has no retry buffer. -/
def portGo (s : State) (p : Nat) (st : PortSt) : State :=
  let x := portOf s p
  evLog (putPort s p { x with st := st, resends := 0, retry := if st = .fenced then [] else x.retry }) 5 0 p (portCode st)

/-- A port's event, for one of the 12 ports in a state that `from_` admits. -/
def onPort (p : Nat) (from_ : PortSt → Bool) (s : State) (k : State → State) : Out :=
  .next (if p < 12 ∧ from_ (portOf s p).st then k s else s)

/-- A port carries traffic. -/
def portRuns : PortSt → Bool
  | .up => true | .degraded => true | _ => false

/-- `PORT_ENABLE` (R410). -/
def execPortEnable (p : Nat) (s : State) : Out :=
  if s.boot.st = .recovery then .next s else onPort p (· == .down) s (fun s => portGo s p .training)

/-- `PORT_TRAINING_END` (R410): the retry buffer is replayed on a port that comes up. -/
def execPortTrainingEnd (p lanes : Nat) (s : State) : Out :=
  onPort p (· == .training) s (fun s => portGo s p (if 8 ≤ lanes then .up else if 4 ≤ lanes then .degraded else .fenced))

/-- `PORT_TRAINING_TIMEOUT` (R410). -/
def execPortTrainingTimeout (p : Nat) (s : State) : Out := onPort p (· == .training) s (fun s => portGo s p .fenced)

/-- `PORT_RESEND_LIMIT` (R409, R410). -/
def execPortResendLimit (p : Nat) (s : State) : Out :=
  onPort p portRuns s (fun s => if 8 ≤ (portOf s p).resends then portGo s p .training else s)

/-- `PORT_LANE_LOST` (R410). -/
def execPortLaneLost (p : Nat) (s : State) : Out := onPort p portRuns s (fun s => portGo s p .training)

/-- `PORT_FENCE` (R410). -/
def execPortFence (p : Nat) (s : State) : Out := onPort p (· != .fenced) s (fun s => portGo s p .fenced)

/-- The port of an agent's route (R411). -/
def agentPort (a : Agent) : Nat := a.route % 16

/-- `PORT_RESET` (R410): no live agent may be routed through the port. -/
def execPortReset (p : Nat) (s : State) : Out :=
  onPort p (· == .fenced) s (fun s => if s.link.agents.any (fun e => e.2.live && agentPort e.2 == p) then s else portGo s p .down)

/-- `CXL_PORT_DOWN` (R405, R416). -/
def execCxlPortDown (p : Nat) (s : State) : Out :=
  onPort p portRuns s (fun s => if p < 4 then portGo s p .down else s)

/-- Bases and sizes of two decoders overlap. -/
def decodersMeet (a b : Decoder) : Bool :=
  decide (a.base.toNat < b.base.toNat + b.size.toNat) && decide (b.base.toNat < a.base.toNat + a.size.toNat)

/-- `POOL_DECODER_WRITE` (R405): an enabled decoder that overlaps another, or breaks its map, is refused and logged. -/
def execPoolDecoderWrite (k : Nat) (enable : Bool) (base size : BitVec 23) (s : State) : Out :=
  let d : Decoder := { enable := enable, base := base, size := size }
  if 8 ≤ k then .next s
  else
    let bad := enable && (decide (base.toNat < 2 ^ 11) || size == 0
      || s.link.decoders.any (fun e => e.1 != k && e.2.enable && decodersMeet e.2 d))
    .next (if bad then evLog s 3 0 k 0 else { s with link := { s.link with decoders := Map.insert s.link.decoders k d } })

/-- A flit that a Glinor port accepts (R408, R409): its acknowledgement, its credits and, for link control, a key change
to come (R426). -/
def takeFlit (x : Port) (f : Flit) : Port :=
  let acked := x.retry.filter (fun g => decide ((f.ack - g.seq).toNat < 2048))
  let rest := x.retry.filter (fun g => !decide ((f.ack - g.seq).toNat < 2048))
  let c := f.cls.toNat
  { x with rxNext := x.rxNext + 1, sendNak := false, retry := rest
           resends := if f.nak && rest != [] then (if acked = [] then x.resends + 1 else 1) else if acked = [] then x.resends else 0
           credits := Tab.set 0 x.credits c (Tab.get 0 x.credits c + f.credits.toNat)
           nextKey := if f.ty = 2 ∧ c = 6 then some (x.keyPhase + 1) else x.nextKey }

/-- Stores whose flit is acknowledged are no longer in flight (R116, R409). -/
def ackStores (s : State) (port : Nat) (f : Flit) : State :=
  { s with link := { s.link with stores := s.link.stores.filter (fun e => e.2.1 != port || !decide ((f.ack - e.2.2.1).toNat < 2048)) } }

/-- `GLINOR_FLIT_RECEIVE` (R409): a bad flit, or one out of sequence, is discarded with a nak; messages of a retired ID
are dropped (R283). -/
def execGlinorFlitReceive (port : Nat) (f : Flit) (s : State) : Out :=
  if port < 4 then .next s
  else
    onPort port portRuns s (fun s =>
      let x := portOf s port
      if !f.good || f.seq != x.rxNext then putPort s port { x with sendNak := true }
      else
        let t := ackStores (putPort s port (takeFlit x f)) port f
        if f.ty = 1 ∧ retiredId s f.agent.toNat then dropMsg t f.agent.toNat else t)

/-- `LINK_KEY_CHANGE` (R426). -/
def execLinkKeyChange (port : Nat) (s : State) : Out :=
  if port < 4 then .next s
  else
    onPort port portRuns s (fun s =>
      let x := portOf s port
      match x.nextKey with
      | some k => putPort s port { x with keyPhase := k, nextKey := none }
      | none => s)

/-! ## Joining and losing an agent (R411, R415) -/

/-- `AGENT_JOIN` (R268, R411): a fresh ID. -/
def execAgentJoin (kind : AgentKind) (route : Nat) (s : State) : Out :=
  let id := s.link.nextAgent
  .next (if 4096 ≤ id ∨ 12 ≤ route % 16 ∨ s.boot.st = .recovery then s
    else { s with link := { s.link with nextAgent := id + 1, agents := Map.insert s.link.agents id { kind := kind, route := route, live := true } } })

/-- The home acts on one entry when an external agent is lost (R281, R407, R416). -/
def lostEntry (id : Nat) (s : State) (e : Nat × Dir) : State :=
  let line := e.1
  let d := e.2
  let d1 := { d with ext := d.ext.filter (· != id) }
  if (d.st == .m || d.st == .o) && d.owner == id then fogLine s line
  else if d.gotOwn && d.biWait.contains id then noCopy (fogLine s line) line d.owner
  else if d.st == .e && d.owner == id then setDir s line { d1 with st := .i, owner := 0 }
  else if d.biWait.contains id then
    match d.biWait.filter (· != id) with
    | [] => biDone s line d1
    | l => setDir s line { d1 with biWait := l }
  else setDir s line d1

/-- The leaf of a held translation names a peer. -/
def tlbPeer (e : TlbEnt) (id : Nat) : Bool := pteHome e.leaf.toNat == 2 && ptePeer e.leaf.toNat == id

/-- Contexts with stores, or reductions in the switches, in flight to a peer. -/
def storesDropped (s : State) (id : Nat) : List Nat :=
  let reds := (s.link.merging.filter (fun r => r.key / 2 ^ 52 == id)).flatMap (fun r =>
    r.waves.filterMap (fun k => (Map.find s.waves k).map (fun w => ctxIdOf s w.gid)))
  ((s.link.stores.filter (fun e => e.1 == id)).map (·.2.2.2) ++ reds).eraseDups

/-- The line belongs to a peer's memory. -/
def peerLine (id line : Nat) : Bool := line / 2 ^ 52 == id

/-- What this package holds of a lost peer's lines goes: copies, entries and messages; a fill on its way comes as poison (R415). -/
def dropPeer (s : State) (id : Nat) : State :=
  let mine (key : Nat) : Bool := peerLine id (key % 2 ^ 64)
  let out (m : Msg) : Bool := !peerLine id m.line
  { s with coh := { s.coh with
      l1 := s.coh.l1.filterMap (fun e =>
        if !mine e.1 then some e else if l1Asking e.2.st then some (e.1, { e.2 with bad := true }) else none)
      dir := s.coh.dir.filter (fun e => !peerLine id e.1)
      msgs := s.coh.msgs.filter out, waitBuf := s.coh.waitBuf.filter out, retries := s.coh.retries.filter out }
           link := { s.link with stores := s.link.stores.filter (fun e => e.1 != id) }
           vm := { s.vm with tlb := s.vm.tlb.filter (fun e => !tlbPeer e id), tlb2 := s.vm.tlb2.filter (fun e => !tlbPeer e id) } }

/-- A `WAITA` that watches a peer's line. -/
def watchesPeer (id : Nat) (f : Frag) : Bool :=
  match f.wait with
  | .waita line _ => peerLine id line
  | _ => false

/-- Those that watch a lost peer's lines read again at once (R415). -/
def rousePeer (s : State) (id : Nat) : State := mapWaves s (fun w => mapFrags w (fun f => if watchesPeer id f then rereads f else f))

/-- The lane that a result goes to. -/
def writeLane : RegWrite → Nat
  | .v _ l _ => l
  | .m _ l _ => l
  | .s _ _ => 32

/-- The lanes of an outstanding load or atomic that read from a peer: their data comes as poison, which raises `LINK_DOWN`
(R415). -/
def poisonOp (s : State) (id core ctx : Nat) (o : LaneOp) : LaneOp :=
  let loads := match o.word with
    | .ld _ | .atom _ => !o.settled
    | _ => false
  let ls := (lanesOf o.done).filter (fun l => loads && s.vm.tlb.any (fun e =>
    e.core == core && e.ctx == ctx && e.vpn == (opAddr o l).toNat / 65536 && tlbPeer e id))
  { o with done := o.done &&& ~~~(maskOf ls), res := o.res.filter (fun x => !ls.contains (writeLane x))
           faults := o.faults ++ ls.map (fun l => (l, .linkDown, opAddr o l)) }

/-- Loads from a lost peer that are outstanding in a wave complete with poison (R415). -/
def poisonWave (s : State) (id : Nat) (w : Wave) : Wave :=
  let ops := w.ops.map (poisonOp s id w.core (ctxIdOf s w.gid))
  { w with ops := ops, trap := if w.trap = .none ∧ ops.any (fun o => o.faults != []) then .pending else w.trap }

/-- Code of the cause of a loss (R421). -/
def lossCode : LossCause → Nat
  | .softError => 1 | .unansweredForward => 2 | .notice => 3 | .allFenced => 4 | .timeout => 5

/-- An external agent is declared lost (R415, R411). -/
def agentLost (s : State) (id : Nat) (cause : LossCause) : State :=
  match Map.find s.link.agents id with
  | none => s
  | some a =>
    if !a.live then s
    else
      let s1 := { s with link := { s.link with agents := Map.insert s.link.agents id { a with live := false } } }
      let p := agentPort a
      let s2 := if s1.link.agents.any (fun e => e.2.live && agentPort e.2 == p) ∨ (portOf s1 p).st = .fenced then s1 else portGo s1 p .fenced
      let s3 := s2.coh.dir.foldl (lostEntry id) s2
      let dropped := if a.kind = .peer then storesDropped s id else []
      let s4 := if a.kind = .peer then
          rousePeer (dropPeer (fabLose { s3 with waves := Map.mapVals s3.waves (fun _ w => poisonWave s3 id w) } id) id) id
        else s3
      let s5 := dropped.foldl (fun t c => logError t c 2 15 127 0 0 id) s4
      evLog ((s2.coh.dir.map (·.1)).foldl serveLine s5) 4 id (lossCode cause) 0

/-- `PEER_LOST` (R415). -/
def execPeerLost (id : Nat) (cause : LossCause) (s : State) : Out := .next (agentLost s id cause)

/-- `COMPLETION_TIMEOUT` (R415). -/
def execCompletionTimeout (id : Nat) (s : State) : Out := .next (agentLost s id .timeout)

/-- `IDE_KM_REQUEST` (R426): a CXL port's link stream key is programmed, made active or stopped, in a session on that
port. -/
def execIdeKmRequest (port : Nat) (m : IdeKm) (s : State) : Out :=
  let x := portOf s port
  .next (
    if 4 ≤ port ∨ Map.find s.boot.spdm port ≠ some .session then s
    else
      match m with
      | .keyProg => putPort s port { x with ide := 1 }
      | .keySetGo => if x.ide = 0 then s else putPort s port { x with ide := 2 }
      | .keySetStop => if x.ide = 2 then putPort s port { x with ide := 1 } else s)

end Sys2Proof.Machine
end

