-- ==== Sys2Proof/Machine/Boot.lean ====
section
/-! DEFINITION. Machine/Boot.lean: reset and boot (R422, R423, R428) and the SPDM responder (R424). -/

namespace Sys2Proof.Machine

/-! ## Boot (R422) -/

/-- The boot ROM accepts an image. -/
def imageOk (s : State) (slot : Nat) : Bool :=
  match Map.find s.boot.flash slot with
  | some i => i.ecdsaOk && i.lmsOk && decide (s.boot.fuseVersion ≤ i.secVersion)
  | none => false

/-- A number for an image, which its digest depends on. -/
def imageNum (i : FwImage) : Nat := 4 * i.secVersion + (if i.ecdsaOk then 2 else 0) + (if i.lmsOk then 1 else 0)

/-- The measurements of a boot (R423): the ROM's digest of the image, the image's own, and the fuse state's. -/
def measures (i : FwImage) (fuses : Nat) : Map (BitVec 384) :=
  let put (m : Map (BitVec 384)) (k n : Nat) : Map (BitVec 384) := Tab.set 0 m k (Config.digest n)
  put (put (put [] 0 (3 * imageNum i)) 1 (3 * imageNum i + 1)) 2 (3 * fuses + 2)

/-- A cause byte of a rejected slot; the spec gives it no code. -/
def rejectByte (s : State) (slot : Nat) : Nat := (Config.freeWord (freeIdx s (2 ^ 50 + slot))).toNat % 256

/-- The slot is accepted: the image is measured, and the fuses are burnt up to its version. -/
def acceptSlot (s : State) (slot : Nat) (i : FwImage) : State :=
  let fuses := max s.boot.fuseVersion i.secVersion
  let t := { s with boot := { s.boot with st := .firmware, fuseVersion := fuses, running := i.secVersion, measure := measures i fuses } }
  evLog t 7 0 slot (if slot = 1 then rejectByte s 0 else 0)

/-- The boot ROM checks slot 0, then slot 1 (R422). -/
def bootCheck (s : State) : State :=
  match (if imageOk s 0 then Map.find s.boot.flash 0 else none) with
  | some i => acceptSlot s 0 i
  | none =>
    match (if imageOk s 1 then Map.find s.boot.flash 1 else none) with
    | some i => acceptSlot s 1 i
    | none => evLog { s with boot := { s.boot with st := .recovery } } 7 0 2 (rejectByte s 0 + 256 * rejectByte s 1)

/-- The machine after a reset: nothing of the device is kept but the flash and the fuses (R428). Local memory, of which only ciphertext
under discarded keys is left, lists nothing; pool, host and peer memory is not the device's and keeps its bytes (log 12). -/
def afterReset (s : State) : State :=
  { State.reset with turns := s.turns, free := s.free, mem := s.mem.filter (fun c => decide (2 ^ 38 ≤ c.1))
                     boot := { State.reset.boot with flash := s.boot.flash, fuseVersion := s.boot.fuseVersion } }

/-- `DEVICE_RESET` (R422): reset, and the boot ROM's check of the slots. -/
def execDeviceReset (s : State) : Out := .next (bootCheck (afterReset s))

/-- `START_UP_COMPLETE` (R422): the firmware leaves write-back-and-answer mode, which it does when no eviction is in flight (R276). -/
def execStartUpComplete (s : State) : Out :=
  if s.boot.st = .firmware ∧ !evicting s then .next (setWbMode { s with boot := { s.boot with st := .operational } } false) else .next s

/-- `FLASH_IMAGE_WRITE` (R422): the image is checked at the next reset. -/
def execFlashImageWrite (slot : Nat) (img : FwImage) (s : State) : Out :=
  if slot < 2 ∧ (s.boot.st = .operational ∨ s.boot.st = .recovery) then
    .next { s with boot := { s.boot with flash := Map.insert s.boot.flash slot img } }
  else .next s

/-! ## SPDM (R424; log 9) -/

/-- State of the responder on a path: 0 to 3 the CXL ports' DOE mailboxes, 4 MCTP. -/
def spdmSt (s : State) (path : Nat) : SpdmSt := Tab.get SpdmSt.start s.boot.spdm path

/-- Answer with a code and go to a state. -/
def spdmGo (s : State) (path code : Nat) (st : SpdmSt) : State :=
  { s with boot := { s.boot with spdm := Tab.set SpdmSt.start s.boot.spdm path st, lastSpdm := some (path, code) } }

/-- The algorithms are agreed. -/
def spdmAgreed (st : SpdmSt) : Bool := st == .negotiated || st == .exchanged || st == .session

/-- A request: answered in the states of `ok` with a code, going on as `goes` says; else with an error, code 0x7F. -/
def spdm (path code : Nat) (ok : SpdmSt → Bool) (goes : SpdmSt → SpdmSt) (s : State) : Out :=
  if 5 ≤ path then .next s
  else
    let st := spdmSt s path
    .next (if ok st then spdmGo s path code (goes st) else spdmGo s path 0x7F st)

/-- `GET_VERSION`: it starts the exchange anew. -/
def execSpdmGetVersion (path : Nat) (s : State) : Out := spdm path 0x04 (fun _ => true) (fun _ => .versioned) s
/-- `GET_CAPABILITIES`. -/
def execSpdmGetCapabilities (path : Nat) (s : State) : Out := spdm path 0x61 (· == .versioned) (fun _ => .capable) s
/-- `NEGOTIATE_ALGORITHMS`. -/
def execSpdmNegotiateAlgorithms (path : Nat) (s : State) : Out := spdm path 0x63 (· == .capable) (fun _ => .negotiated) s
/-- `GET_DIGESTS`. -/
def execSpdmGetDigests (path : Nat) (s : State) : Out := spdm path 0x01 spdmAgreed id s
/-- `GET_CERTIFICATE`. -/
def execSpdmGetCertificate (path : Nat) (s : State) : Out := spdm path 0x02 spdmAgreed id s
/-- `CHALLENGE`. -/
def execSpdmChallenge (path : Nat) (s : State) : Out := spdm path 0x03 spdmAgreed id s
/-- `GET_MEASUREMENTS`. -/
def execSpdmGetMeasurements (path : Nat) (s : State) : Out := spdm path 0x60 spdmAgreed id s
/-- `KEY_EXCHANGE`. -/
def execSpdmKeyExchange (path : Nat) (s : State) : Out := spdm path 0x64 (· == .negotiated) (fun _ => .exchanged) s
/-- `FINISH`. -/
def execSpdmFinish (path : Nat) (s : State) : Out := spdm path 0x65 (· == .exchanged) (fun _ => .session) s
/-- `END_SESSION`. -/
def execSpdmEndSession (path : Nat) (s : State) : Out := spdm path 0x6C (· == .session) (fun _ => .negotiated) s

end Sys2Proof.Machine
end

