-- ==== Sys2Proof/Machine/GroupOps.lean ====
section
/-! DEFINITION. Machine/GroupOps.lean: register re-division (R149, R150) and core SRAM banks (R151 to R153). -/

namespace Sys2Proof.Machine

/-- `VGIVE` (R150). -/
def execVgive (d : SReg) (n : BitVec 6) (s : State) : Out :=
  onFrag s (fun w f =>
    let k := 8 * n.toNat
    if w.strips ≠ [] then blocked s w f .strips
    else if w.valloc ≤ k then illegalS s w f
    else
      match groupOf s w.gid with
      | none => .next s
      | some g =>
        let a := w.valloc - k
        let t := poolGive (putWave s (setValloc w a)) w.gid (poolOf g w.core w.slot) k
        doneWith t (fun v _ => wrS v d.toNat (BitVec.ofNat 32 a)))

/-- `VCLAIM` (R150). -/
def execVclaim (d : SReg) (n : BitVec 6) (s : State) : Out :=
  onFrag s (fun w f =>
    let k := 8 * n.toNat
    if 256 < w.valloc + k then illegalS s w f
    else
      match groupOf s w.gid with
      | none => .next s
      | some g =>
        let p := poolOf g w.core w.slot
        let room := Tab.get 0 g.pools p
        if k ≤ room ∧ !(g.claimQ.any (fun c => poolOf g c.core c.slot == p)) then
          let t := modGroup s w.gid (fun g => { g with pools := Tab.set 0 g.pools p (room - k) })
          let a := w.valloc + k
          done t (wrS (setValloc w a) d.toNat (BitVec.ofNat 32 a)) f
        else
          let c : ParkedClaim := { core := w.core, slot := w.slot, id := s.stamp, sd := d.toNat, n := k }
          blocked (modGroup (nextStamp s) w.gid (fun g => { g with claimQ := g.claimQ ++ [c] })) w f (.vclaim s.stamp))

/-! ## CARVE (R153) -/

/-- The mode a request names for a bank. -/
def carveMode (x i : Nat) : Option BankMode :=
  match bits x (2 * i + 1) (2 * i) with
  | 1 => some .cache
  | 2 => some .scratch
  | 3 => some .fifo
  | _ => none

/-- The banks a request changes. -/
def carveChanges (c : Core) (x : Nat) : List Nat :=
  (List.range 16).filter (fun i => match carveMode x i with
    | some m => (bankOf c i).mode != m
    | none => false)

/-- The request would leave a bank of the wave's core in which the group holds a granule (R148, R153). -/
def carveHeld (core : Nat) (c : Core) (g : Group) (x : Nat) : Bool :=
  g.core == core && (carveChanges c x).any (fun i => (bankOf c i).mode != .cache && (g.scratchGran ++ g.fifoGran).any (fun p => p.1 == i))

/-- Banks that end in CACHE after the request. -/
def carveCaches (c : Core) (x : Nat) : Nat :=
  ((List.range 16).filter (fun i => (carveMode x i).getD (bankEnds (bankOf c i)) == .cache)).length

/-- A bank that the request names is already changing (R152; log 16). -/
def carveBusy (c : Core) (x : Nat) : Bool :=
  (List.range 16).any (fun i => (carveMode x i).isSome && (bankOf c i).change.isSome)

/-- A core with the request's holds set and its changes started. -/
def carveStart (c : Core) (x : Nat) (hold : Bool) : Core :=
  (List.range 16).foldl (fun c i =>
    let b := bankOf c i
    match carveMode x i with
    | none => c
    | some m => putBank c i { b with hold := hold && m != .cache, change := if b.mode = m then none else some m }) c

/-- A `CARVE` of the fragment that issued before a stamp is in progress or waits. -/
def carveBefore (n : Nat) (f : Frag) : Bool :=
  match f.wait with
  | .carve m _ => decide (m < n)
  | _ => false

/-- The stamp of a `CARVE`: that of its first issue. -/
def carveSince (s : State) (f : Frag) : Nat :=
  match f.wait with
  | .carve m _ => m
  | _ => s.stamp

/-- A `CARVE` that issued earlier on the core has not completed (R153). -/
def carving (s : State) (core n : Nat) : Bool := s.waves.any (fun e => e.2.core == core && (liveFrags e.2).any (carveBefore n))

/-- `CARVE` (R153). -/
def execCarve (d a : SReg) (hold : Bool) (s : State) : Out :=
  onFrag s (fun w f => onlyS s w f (
    let c := coreOf s w.core
    let x := (rdS w a.toNat).toNat
    let n := carveSince s f
    let answer (n : Nat) : Out := done s (wrS w d.toNat (BitVec.ofNat 32 n)) f
    let fresh : Out :=
      if carving s w.core n || carveBusy c x then blocked (nextStamp s) w f (.carve n [])
      else
        match groupOf s w.gid with
        | none => .next s
        | some g =>
          if carveHeld w.core c g x then answer 1
          else if carveCaches c x < 2 then answer 2
          else
            let t := putCore s w.core (carveStart c x hold)
            match carveChanges c x with
            | [] => done t (wrS w d.toNat 0) f
            | l => blocked (nextStamp t) w f (.carve n l)
    match f.wait with
    | .carve _ (i :: l) => if (i :: l).all (fun j => (bankOf c j).change.isNone) then answer 0 else .next s
    | _ => fresh))

/-- A bank that leaves CACHE writes back and drops the lines it holds as the L1 evicts lines; which lines those are is not architected
(R152; log 7). -/
def emptyBank (s : State) (core : Nat) : State :=
  (victims s core 0).foldl (fun t v =>
    if Config.freeBool (freeIdx s (v.1 + 3)) && decide (bufferLines t core < 32) then evictL1 t core v.1 v.2 else t) s

/-- Banks of a core that are to leave CACHE: they convert one at a time, in ascending number (R152). -/
def leavingCache (c : Core) : List Nat := (List.range 16).filter (fun i => (bankOf c i).mode == .cache && (bankOf c i).change.isSome)

/-- Banks of a core in CACHE. -/
def cacheBanks (c : Core) : Nat := ((List.range 16).filter (fun i => (bankOf c i).mode == .cache)).length

/-- A bank's conversion can end: from CACHE in its turn, with two other banks in CACHE; from SCRATCH or FIFO once no group holds a granule in
it (R151, R152). -/
def conversionReady (s : State) (core bank : Nat) : Bool :=
  let c := coreOf s core
  if (bankOf c bank).mode = .cache then (leavingCache c).head? == some bank && decide (3 ≤ cacheBanks c)
  else !((granulesOn s core).any (fun g => g.1 == bank))

/-- `BANK_CONVERSION_DONE` (R151, R152): the bank changes its mode. A group that waited for its last bank starts (R146). -/
def execBankConversionDone (core bank : Nat) (s : State) : Out :=
  let b := bankOf (coreOf s core) bank
  match b.change with
  | none => .next s
  | some m =>
    if conversionReady s core bank then
      let u := if b.mode = .cache then emptyBank s core else s
      let t := putCore u core (putBank (coreOf u core) bank { b with mode := m, change := none })
      .next (grantGroups { t with groups := Map.mapVals t.groups (fun _ g =>
        if g.core == core then { g with wantBanks := g.wantBanks.filter (· != bank) } else g) })
    else .next s

end Sys2Proof.Machine
end

