-- ==== Sys2Proof/Machine/Tray.lean ====
section
/-! DEFINITION. Machine/Tray.lean: deposits (R230, R231, R235), `TRAYGET`, `TRAYFLUSH`, `TRAYCFG` (R236 to R238) and a
tray's deadline. -/

namespace Sys2Proof.Machine

/-- A grid may take a free entry on a core: one it reserves, else one that no group reserves, while its queue's darkslide
has room for it (R124, R230). -/
def trayRoom (s : State) (core gi : Nat) : Bool :=
  let c := coreOf s core
  let free := trayEntries - c.trays.length
  decide (0 < free) && (decide (traysHeld c gi < reservedBy s core gi)
    || (decide (reservedFree s core < free) && slideFits s (((Map.find s.grids gi).map (·.queue)).getD 0) 528))

/-- The age limit of a configuration (R229, R238): 0 means 2,048. -/
def trayAge (g : Grid) (config : Nat) : Nat :=
  let a := match Map.find g.ages config with
    | some x => x
    | none => (g.desc.trays[config]?.map (·.2)).getD 0
  if a = 0 then 2048 else a

/-- Append a record to a tray; the 32nd triggers it (R231). -/
def trayAppend (s : State) (core k : Nat) (t : Tray) (r : TrayRec) : State :=
  let full := decide (31 ≤ t.recs.length)
  let t' := { t with recs := t.recs ++ [r], st := if full then .triggered else t.st, stamp := if full then s.stamp else t.stamp }
  putCore { s with stamp := s.stamp + 1 } core { coreOf s core with trays := Map.insert (coreOf s core).trays k t' }

/-- The ticket of a new pixel tray: the next of its tile, a tile being one of its queue (R384). -/
def newTicket (s : State) (core gi config : Nat) (key : Word) : Option (Nat × Nat) :=
  match Map.find s.grids gi with
  | none => none
  | some g =>
    match g.draw with
    | none => none
    | some d =>
      let tile := g.queue * 2 ^ 32 + key.toNat
      if d.pixelTray = config then some (tile, Tab.get 0 (coreOf s core).trayTickets tile) else none

/-- The ticket is taken. -/
def takeTicket (s : State) (core : Nat) (x : Option (Nat × Nat)) : State :=
  match x with
  | none => s
  | some t => putCore s core { coreOf s core with trayTickets := Tab.set 0 (coreOf s core).trayTickets t.1 (t.2 + 1) }

/-- Open a tray with its first record (R230, R231). -/
def trayOpen (s : State) (core gi config gx gy gz : Nat) (r : TrayRec) : State :=
  match Map.lowestFree (fun _ => false) trayEntries (coreOf s core).trays 0 with
  | none => s
  | some k =>
    let age := ((Map.find s.grids gi).map (fun x => trayAge x config)).getD 2048
    let ticket := newTicket s core gi config r.key
    trayAppend (takeTicket s core ticket) core k
      { st := .filling, grid := gi, config := config, key := r.key, recs := [], deadline := s.clock.toNat + 12 + age,
        stamp := s.stamp, gx := gx, gy := gy, gz := gz, ticket := ticket } r

/-- Deposit a record on a core, or wait for an entry. A lane that finds none triggers the grid's oldest `FILLING` tray, once: `who` is its
word's stamp and its number (R230). -/
def trayDeposit (s : State) (core gi config gx gy gz : Nat) (who : Nat × Nat) (r : TrayRec) : State × Bool :=
  let c := coreOf s core
  let gone (t : State) : State := putCore t core { coreOf t core with trayWait := none }
  match c.trays.find? (fun t => t.2.grid == gi && t.2.config == config && t.2.key == r.key && t.2.st == .filling) with
  | some (k, t) => (gone (trayAppend s core k t r), true)
  | none =>
    if trayRoom s core gi then (gone (trayOpen s core gi config gx gy gz r), true)
    else if c.trayWait = some who then (s, false)
    else
      match oldestFilling c gi with
      | some t => (triggerTrays (putCore s core { c with trayWait := some who }) core (fun u => u == t.2), false)
      | none => (s, false)

/-- The core of a wave's trays (R148). -/
def trayCore (s : State) (w : Wave) : Nat := ((groupOf s w.gid).map (·.core)).getD w.core

/-- A `TRAYPUT` that issued before a stamp for the same core has lanes still to deposit (R233). -/
def earlierPut (s : State) (core stamp : Nat) : Bool :=
  s.waves.any (fun e => trayCore s e.2 == core && e.2.ops.any (fun o => decide (o.stamp < stamp) && (match o.word with
    | .trayput _ => undone o != 0
    | _ => false)))

/-- One lane of `TRAYPUT`: lanes deposit in ascending order, and words in the order of their issue (R233, R235). Trays that a tray wave opens
after the grid's drain trigger with its word (R231). -/
def trayLane (o : LaneOp) (l : Nat) (s : State) : State × LaneRes :=
  match waveAt s s.cur.core s.cur.slot, o.word with
  | some w, .trayput i =>
    match groupOf s w.gid with
    | some g =>
      if firstSet (undone o) ≠ l ∨ earlierPut s g.core o.stamp then (s, .wait)
      else
        let r : TrayRec := { key := opData o 0 l, p0 := opData o 1 l, p1 := opData o 2 l, p2 := opData o 3 l }
        match trayDeposit s g.core g.grid i.aux.toNat g.gx g.gy g.gz (o.stamp, l) r with
        | (t, true) => (if undone o = maskOf [l] then gridDrain t g.core g.grid else t, .ok [])
        | (t, false) => (t, .wait)
    | none => (s, .ok [])
  | _, _ => (s, .ok [])

/-- tray_count of a wave's kernel (R229). -/
def trayCountOf (s : State) (w : Wave) : Nat := ((gridOf s w.gid).map (fun g => g.desc.trayCount)).getD 0

/-- `TRAYPUT` (R235). -/
def execTrayput (i : LXWord) (s : State) : Out :=
  onLane s i.guard.toNat (fun w t _ act =>
    if trayCountOf s w ≤ i.aux.toNat then illegalL s w t act
    else
      let data := capture s w act i.vb.toNat i.imm24.toNat 1 (capture s w act i.va.toNat 1 0 [])
      issueOp trayLane s w i.stop (newOp w t (.trayput i) act [] data))

/-- The words `TRAYGET` gives a lane: its record's key and payload, or zeros (R236). -/
def trayWords (t : TrayInfo) (l : Nat) : List Word :=
  match t.recs[l]? with
  | some r => [r.key, r.p0, r.p1, r.p2]
  | none => [0, 0, 0, 0]

/-- `TRAYGET` (R236). -/
def execTrayget (i : LXWord) (s : State) : Out :=
  onLane s i.guard.toNat (fun w t _ act =>
    match w.tray with
    | none => illegalL s w t act
    | some tr =>
      let res := (lanesOf act).flatMap (fun l => ((trayWords tr l).zip (List.range 4)).map (fun p =>
        RegWrite.v (i.vd.toNat + p.2) l p.1))
      issueDone s w i.stop (newOp w t (.trayget i) act [] []) res)

/-- Some queued strip holds a `TRAYPUT`, or one has not settled (R237). -/
def putsQueued (s : State) (w : Wave) : Bool :=
  let isPut : Instr → Bool := fun i => match i with
    | .trayput _ => true
    | _ => false
  w.ops.any (fun o => isPut o.word && !o.settled) || w.strips.any (fun t => (List.range t.len).any (fun j =>
    match peekWord s w t j with
    | some (some i) => isPut i
    | some none => false
    | none => true))

/-- `TRAYFLUSH` (R237). -/
def execTrayflush (d a : SReg) (all : Bool) (s : State) : Out :=
  onFrag s (fun w f =>
    match groupOf s w.gid with
    | none => .next s
    | some g =>
      if putsQueued s w then blocked s w f .strips
      else
        let hit (t : Tray) : Bool := t.grid == g.grid && (all || t.config == bits (rdS w a.toNat).toNat 5 0)
        let n := ((coreOf s g.core).trays.filter (fun t => t.2.st == .filling && hit t.2)).length
        let u := triggerTrays s g.core hit
        done u (wrS w d.toNat (BitVec.ofNat 32 n)) f)

/-- `TRAYCFG` (R238). -/
def execTraycfg (d a : SReg) (s : State) : Out :=
  onFrag s (fun w f =>
    let x := (rdS w a.toNat).toNat
    let k := bits x 5 0
    match groupOf s w.gid with
    | none => .next s
    | some g =>
      match Map.find s.grids g.grid with
      | none => .next s
      | some gr =>
        if bits x 15 6 ≠ 0 ∨ gr.desc.trayCount ≤ k then illegalS s w f
        else
          let t := { s with grids := Map.insert s.grids g.grid { gr with ages := Map.insert gr.ages k (bits x 31 16) } }
          done t (wrS w d.toNat (BitVec.ofNat 32 (trayAge gr k))) f)

/-- `TRAY_DEADLINE` (R231, R232): its time has come. -/
def execTrayDeadline (core k : Nat) (s : State) : Out :=
  match Map.find (coreOf s core).trays k with
  | none => .next s
  | some t => .next (if t.deadline ≤ s.clock.toNat then triggerTrays s core (fun u => u == t) else s)

end Sys2Proof.Machine
end

