-- ==== Sys2Proof/Machine/Launch.lean ====
section
/-! DEFINITION. Machine/Launch.lean: the kernel descriptor (R49, R50, R229) and the placement of groups (R131 to R137,
R146). -/

namespace Sys2Proof.Machine

/-! ## The kernel descriptor -/

/-- A kernel descriptor's bits, without its tray records. -/
def kernelOf (n : Nat) : KDesc :=
  { graphics := bit n 40, coresident := bit n 41, scodeOffset := bits n 95 64, scodeSize := bits n 127 96,
    lcodeOffset := bits n 159 128, lcodeSize := bits n 191 160, constOffset := bits n 223 192, constSize := bits n 255 224,
    dataOffset := bits n 287 256, dataSize := bits n 319 288, entryOffset := bits n 351 320, vregBlocks := bits n 357 352,
    sregCount := bits n 367 360, groupWaves := bits n 375 368, teamSize := if bits n 377 376 = 0 then 0 else 2 ^ bits n 377 376,
    barrierCount := bits n 382 378, scratchBytes := bits n 415 384, fifoBytes := bits n 447 416, trayCount := bits n 455 448,
    roles := (List.range (bits n 459 456)).map (fun j => (bits n (464 + 16 * j + 7) (464 + 16 * j), bits n (464 + 16 * j + 15) (464 + 16 * j + 8))),
    trays := [] }

/-- Two spans of an image overlap. -/
def spansOverlap (a b : Nat × Nat) : Bool := decide (a.1 < b.1 + b.2) && decide (b.1 < a.1 + a.2) && a.2 != 0 && b.2 != 0

/-- No two spans of a list overlap. -/
def spansApart : List (Nat × Nat) → Bool
  | [] => true
  | a :: rest => rest.all (fun b => !spansOverlap a b) && spansApart rest

/-- The descriptor keeps R49's map and R50's conditions, its tray records apart; the descriptor counts as a span of the
image (log 16). -/
def kernelOk (n : Nat) : Bool :=
  let d := kernelOf n
  let spans := [(0, 256), (d.scodeOffset, d.scodeSize), (d.lcodeOffset, d.lcodeSize), (d.constOffset, d.constSize),
    (d.dataOffset, d.dataSize)]
  let banks := ceilDiv (ceilDiv d.scratchBytes 4096) 8 + ceilDiv (ceilDiv d.fifoBytes 4096) 8
  bits n 31 0 == 0x4B394B44 && bits n 39 32 == 1 && bits n 63 42 == 0 && bits n 359 358 == 0 && !bit n 383
    && bits n 463 460 == 0 && bits n 2047 592 == 0 && spans.all (fun x => x.1 % 256 == 0) && d.scodeSize % 4 == 0
    && d.lcodeSize % 12 == 0 && decide (d.lcodeSize ≤ 3145728) && d.entryOffset % 4 == 0
    && decide (d.entryOffset < d.scodeSize) && decide (1 ≤ d.vregBlocks) && decide (d.vregBlocks ≤ 32)
    && decide (1 ≤ d.sregCount) && decide (d.sregCount ≤ 192) && decide (1 ≤ d.groupWaves) && decide (d.groupWaves ≤ 128)
    && decide (d.barrierCount ≤ 16) && decide (d.trayCount ≤ 64) && decide (bits n 459 456 ≤ 8)
    && spansApart spans && (d.roles.isEmpty || (d.roles.map (·.2)).foldl (· + ·) 0 == d.groupWaves)
    && (d.teamSize == 0 || d.groupWaves % d.teamSize == 0) && decide (32 * d.trayCount ≤ d.constSize)
    && decide (d.scratchBytes + d.fifoBytes ≤ 458752) && decide (banks ≤ 14)

/-- A tray configuration record keeps R229's map. -/
def trayRecOk (d : KDesc) (t : Nat) : Bool :=
  bits t 31 0 % 4 == 0 && decide (bits t 31 0 < d.scodeSize) && bits t 255 48 == 0

/-- Why a packet or a task does not start (R118, R119, R139). -/
inductive PktErr where
  | malformed | memory
  /-- A page of the pool has still to come: the packet processor waits for its fill. -/
  | miss (page : Nat)
  deriving DecidableEq, Repr

/-- The page of the pool that the packet processor waits for before it reaches `n` bytes (R119). -/
def pktMiss (s : State) (ctx va n : Nat) (k : AccKind) : Option Nat :=
  let at_ (va : Nat) : Option Nat := match devReach s ctx .u va k with
    | .miss page _ => some page
    | _ => none
  match at_ va with
  | some p => some p
  | none => if va / 65536 = (va + n - 1) / 65536 then none else at_ (va + n - 1)

/-- A page that the packet processor reads must translate, and have come (R119). -/
def pktRead (s : State) (ctx va n : Nat) : Except PktErr Nat :=
  match pktMiss s ctx va n .read, devRead s ctx .u va n with
  | some p, _ => .error (.miss p)
  | none, some x => .ok x
  | none, none => .error .memory

/-- A condition of R3 or R120. -/
def pktCheck (p : Bool) : Except PktErr Unit := if p then .ok () else .error .malformed

/-- Read the tray configuration records from place `i` on. -/
def readTrays (s : State) (ctx base : Nat) (d : KDesc) : Nat → Nat → Except PktErr (List (Nat × Nat))
  | _, 0 => .ok []
  | i, n + 1 => do
    let t ← pktRead s ctx (base + 32 * i) 32
    pktCheck (trayRecOk d t)
    let l ← readTrays s ctx base d (i + 1) n
    .ok ((bits t 31 0, bits t 47 32) :: l)

/-- Read and check the kernel descriptor of an image (R49, R50, R229). -/
def readKernel (s : State) (ctx image : Nat) : Except PktErr KDesc := do
  let n ← pktRead s ctx image 256
  pktCheck (kernelOk n)
  let d := kernelOf n
  let l ← readTrays s ctx (image + d.constOffset) d 0 d.trayCount
  .ok { d with trays := l }

/-! ## The walk (R134, R135, R232) -/

/-- A tray waits to start on a core: its queue has not been pre-empted. -/
def trayWaits (s : State) (core : Nat) : Bool :=
  (coreOf s core).trays.any (fun t => t.2.st == .triggered
    && ((Map.find s.grids t.2.grid).map (fun g => (queueOf s g.queue).st != .preempted)).getD false)

/-- The lower cores that the walk tries, in order. -/
def walkCores (s : State) (waves : Nat) : List Nat :=
  if waves ≤ 64 then (List.range 96).map (fun i => (s.placeP + 1 + i) % 96)
  else (List.range 48).map (fun i => 2 * ((s.placeP / 2 + 1 + i) % 48))

/-- The cores a group lies on. -/
def groupCores (core waves : Nat) : List Nat := if waves ≤ 64 then [core] else [core, core + 1]

/-- The waves of a group fit on its cores (R131). -/
def coresFit (s : State) (core waves blocks : Nat) : Bool :=
  wavesFit s core (min waves 64) blocks && (decide (waves ≤ 64) || wavesFit s (core + 1) (waves - 64) blocks)

/-- Barriers of a core that groups hold. -/
def barriersHeld (s : State) (core : Nat) : Nat :=
  (s.groups.filter (fun e => holdsPlace e.2 && e.2.core == core)).foldl (fun n e => n + e.2.barrierCount) 0

/-- Tray entries that `n` more reserved ones of a grid find free (R131, R230). -/
def traysFit (s : State) (core gi n : Nat) : Bool :=
  let held := traysHeld (coreOf s core) gi
  let r := reservedBy s core gi
  decide ((coreOf s core).trays.length + reservedFree s core - (r - held) + (r + n - held) ≤ trayEntries)

/-- Every demand of a kernel's group is met on a core (R131, R232); the plan for its banks. -/
def placeFits (s : State) (gi : Nat) (d : KDesc) (core : Nat) : Option BankPlan :=
  if (groupCores core d.groupWaves).all (fun c => !(coreOf s c).dead && !trayWaits s c)
      && coresFit s core d.groupWaves d.vregBlocks && decide (barriersHeld s core + d.barrierCount ≤ 64)
      && traysFit s core gi d.trayCount then
    planBanks s core (ceilDiv d.scratchBytes 4096) (ceilDiv d.fifoBytes 4096)
  else none

/-- Advance a core's tag counter (R154). -/
def nextTag (s : State) (core : Nat) : State := putCore s core { coreOf s core with tagCtr := (coreOf s core).tagCtr + 1 }

/-- A context whose first wave is dispatched runs (R111). -/
def ctxRuns (s : State) (ctx : Nat) : State :=
  { s with ctxs := Map.modify s.ctxs ctx (fun c => if c.st == .bound then { c with st := .running } else c) }

/-- Place the next group of a grid on a core (R132, R146). -/
def placeAt (s : State) (gi : Nat) (g : Grid) (core : Nat) (p : BankPlan) : State :=
  let d := g.desc
  let s1 := nextTag (convertBanks s core p) core
  let slots := takeSlots s core d.groupWaves
  let x : Group :=
    { grid := gi, index := g.next, gx := g.next % g.nx, gy := g.next / g.nx % g.ny, gz := g.next / (g.nx * g.ny),
      waves := d.groupWaves, core := core, gslot := freeGslot s core, tag := (coreOf s1 core).tagCtr, st := .placing,
      scratchBytes := d.scratchBytes, fifoBytes := d.fifoBytes, scratch := [], bad := [], scratchGran := p.scratch,
      fifoGran := p.fifo, slots := slots, wantBanks := p.toScratch ++ p.toFifo, msgs := [], sendQ := [], recvQ := [],
      pools := [], claimQ := [], barriers := [], barrierCount := d.barrierCount, trayCount := d.trayCount, isTray := false,
      live := d.groupWaves, exited := [] }
  let s2 := putGroup s1 s1.nextGid x
  grantGroup (ctxRuns { s2 with nextGid := s2.nextGid + 1, placeP := core,
                                grids := Map.insert s2.grids gi { g with next := g.next + 1 } } g.ctx) s1.nextGid

/-- The ring of a DRAW has a place for the next group's segment: every Finder has finished the segment it would
overwrite (R378). -/
def ringRoom (s : State) (g : Grid) : Bool :=
  match g.draw with
  | none => true
  | some d => (List.range 96).all (fun c => (coreOf s c).dead || decide (g.next < Tab.get 0 d.next c + 2 ^ d.ringOrder))

/-- Place the next group of a grid, if it fits in the darkslide and on some core (R124, R131, R135). -/
def placeNext (s : State) (gi : Nat) : Option State :=
  match Map.find s.grids gi with
  | none => none
  | some g =>
    if g.next < g.nx * g.ny * g.nz ∧ ringRoom s g ∧ slideFits s g.queue (kernelSave g.desc) then
      (walkCores s g.desc.groupWaves).findSome? (fun c => (placeFits s gi g.desc c).map (placeAt s gi g c))
    else none

/-- Place `n` groups of a grid, or none. -/
def placeMany (gi : Nat) : Nat → State → Option State
  | 0, s => some s
  | n + 1, s => (placeNext s gi).bind (placeMany gi n)

/-- Waves that the device holds: no more groups can be resident at once (R14). -/
def waveLimit : Nat := 6144

/-- Place every group of a co-resident grid at once, or none (R136). -/
def placeAll (s : State) (gi : Nat) : Option State :=
  match Map.find s.grids gi with
  | none => none
  | some g => if waveLimit < g.nx * g.ny * g.nz then none else placeMany gi (g.nx * g.ny * g.nz) s

/-- A co-resident grid fits on an empty device, as many cores as it still has, and in its queue's darkslide (R124, R136). -/
def couldFit (s : State) (g : Grid) : Bool :=
  !g.desc.coresident ||
    (let t := { s with groups := [], waves := [], cores := Map.mapVals s.cores (fun _ c => { Core.init with dead := c.dead }), grids := [(0, g)] }
     (placeAll t 0).isSome)

/-! ## Which group is placed next (R122, R136, R137) -/

/-- One grid comes before another in its queue. -/
def gridBefore (a b : Grid) : Bool := decide (a.prio < b.prio) || (a.prio == b.prio && decide (a.ready < b.ready))

/-- The grid of a queue that is next to place. -/
def headGrid (s : State) (q : Nat) : Option (Nat × Grid) :=
  (s.grids.filter (fun e => e.2.queue == q && decide (e.2.next < e.2.nx * e.2.ny * e.2.nz))).foldl (fun best e =>
    match best with
    | none => some e
    | some b => if gridBefore e.2 b.2 then some e else best) none

/-- The queue dispatches: it is `ACTIVE`, its darkslide is restored, and its context is not being unbound (R111, R118). -/
def dispatches (s : State) (q : Nat) : Bool :=
  let x := queueOf s q
  x.st == .active && !x.slides.valid && ((ctxOf s x.ctxId).map (fun c => !c.unbinding)).getD false

/-- Class of a queue as the schedulers take it (R122). -/
def classOf (x : Queue) : Nat := if x.promoted then x.cls - 1 else x.cls

/-- A co-resident grid that has not been admitted. -/
def unadmitted (g : Grid) : Bool := g.desc.coresident && g.next == 0

/-- A co-resident grid of another queue waits to be admitted and holds this queue back: one of a higher class, or of the same class, unless this
queue's own grid waits too and came before it (R136). -/
def coWaits (s : State) (q : Nat) : Bool :=
  let mine := (headGrid s q).map (·.2)
  s.queues.any (fun e => e.1 != q && dispatches s e.1 && (match headGrid s e.1 with
    | some (gi, g) =>
      unadmitted g && (placeAll s gi).isNone && (decide (classOf e.2 < classOf (queueOf s q))
        || (classOf e.2 == classOf (queueOf s q) && !((mine.map (fun m => unadmitted m && decide (m.ready < g.ready))).getD false)))
    | none => false))

/-- The next placement of a queue's head grid: its next group, or every group of a co-resident one, where it fits. -/
def placeHead (s : State) (q : Nat) : Option State :=
  match headGrid s q with
  | none => none
  | some (gi, g) =>
    if !dispatches s q || coWaits s q then none
    else
      (if unadmitted g then placeAll s gi else placeNext s gi).map (fun t =>
        putQueue (nextStamp t) q { queueOf t q with turn := t.stamp })

/-- The dispatcher serves another queue first: one of a higher class, or of the same class whose turn it is (R122). -/
def servedFirst (s : State) (q : Nat) : Bool :=
  s.queues.any (fun e =>
    let c := classOf e.2
    let d := classOf (queueOf s q)
    e.1 != q && (decide (c < d) || (c == d && (decide (e.2.turn < (queueOf s q).turn) || (e.2.turn == (queueOf s q).turn && decide (e.1 < q)))))
      && (placeHead s e.1).isSome)

/-- `GROUP_PLACE` (R122, R134 to R137, R146): the next group of a grid, or every group of a co-resident one, in its queue's turn. -/
def execGroupPlace (gi : Nat) (s : State) : Out :=
  match Map.find s.grids gi with
  | none => .next s
  | some g =>
    if (headGrid s g.queue).map (·.1) != some gi || servedFirst s g.queue then .next s
    else .next ((placeHead s g.queue).getD s)

/-! ## Settling (R146) -/

/-- A group's stores perform at `.dev`: its cores push the halo lines they have written (R146, R286, R287); true while a push is under
way. -/
def settlePush (s : State) (x : Group) : State × Bool :=
  (groupCores x.core x.waves).foldl (fun p c =>
    let r := pushStep p.1 c true
    (r.1, p.2 || r.2)) (s, false)

/-- `GROUP_SETTLED` (R146, R147): a draining group whose partials have arrived retires. -/
def execGroupSettled (gid : Nat) (s : State) : Out :=
  match groupOf s gid with
  | none => .next s
  | some x =>
    if x.st ≠ .draining ∨ s.partials.any (fun p => p.gid == gid) then .next s
    else
      match settlePush s x with
      | (t, true) => .next t
      | (t, false) => .next (releaseGroup t gid .retired)

/-! ## Tray waves (R231 to R233) -/

/-- The tray that takes room next on a core: the one triggered first (R232). -/
def firstWaiting (s : State) (core : Nat) : Option (Nat × Tray) :=
  ((coreOf s core).trays.filter (fun t => t.2.st == .triggered
    && ((Map.find s.grids t.2.grid).map (fun g => (queueOf s g.queue).st != .preempted)).getD false)).foldl (fun best t =>
      match best with
      | none => some t
      | some u => if t.2.stamp < u.2.stamp then some t else best) none

/-- The lowest-numbered partition with room for one wave. -/
def trayPart (s : State) (core blocks : Nat) : Option Nat :=
  (List.range 4).find? (fun p =>
    let l := (slotsHeld s).filter (fun x => x.1 / 16 == 4 * core + p)
    decide (l.length < 16) && decide (l.foldl (fun a x => a + x.2) 0 + 8 * blocks ≤ 1024))

/-- The group of a tray wave (R233). -/
def trayGroup (s : State) (core : Nat) (t : Tray) (slot : Nat) : Group :=
  { grid := t.grid, index := 0, gx := t.gx, gy := t.gy, gz := t.gz, waves := 1, core := core, gslot := freeGslot s core,
    tag := (coreOf (nextTag s core) core).tagCtr, st := .resident, scratchBytes := 0, fifoBytes := 0, scratch := [], bad := [],
    scratchGran := [], fifoGran := [], slots := [slot], wantBanks := [], msgs := [], sendQ := [], recvQ := [], pools := [],
    claimQ := [], barriers := [], barrierCount := 0, trayCount := 0, isTray := true, live := 1, exited := [] }

/-- `TRAY_WAVE_START` (R231, R233). -/
def execTrayWaveStart (core : Nat) (s : State) : Out :=
  match firstWaiting s core with
  | none => .next s
  | some (k, t) =>
    match Map.find s.grids t.grid with
    | none => .next s
    | some g =>
      match trayPart s core g.desc.vregBlocks with
      | none => .next s
      | some p =>
        if (coreOf s core).dead || !slideFits s g.queue (saveBytes 1 g.desc.vregBlocks 0 0 0) then .next s
        else
          let slot := freeSlot s [] core p
          let x := trayGroup s core t slot
          let n := t.recs.length
          let entry := (g.desc.trays[t.config]?.map (·.1)).getD 0
          let m0 : Word := BitVec.ofNat 32 (2 ^ n - 1)
          let info : TrayInfo := { config := t.config, recs := t.recs, ticket := t.ticket }
          let s1 := nextTag s core
          let s2 := putCore s1 core { coreOf s1 core with trays := Map.erase (coreOf s1 core).trays k }
          let s3 := putGroup { s2 with nextGid := s2.nextGid + 1 } s2.nextGid x
          .next (ctxRuns (putWave s3 (startWave s s2.nextGid g (waveIdent g x 0 1 0) slot m0 entry (some info))) g.ctx)

end Sys2Proof.Machine
end

