-- ==== Sys2Proof/Machine/Swap.lean ====
section
/-! DEFINITION. Machine/Swap.lean: pre-emption and restore (R122 to R127, R146, R180, R240, R246). -/

namespace Sys2Proof.Machine

/-! ## The save (R126) -/

/-- The groups of a queue that satisfy `p`. -/
def queueGroups (s : State) (q : Nat) (p : Group → Bool) : List (Nat × Group) :=
  s.groups.filter (fun e => groupQueue s e.2 == some q && p e.2)

/-- The routine may save the queue's groups: none is `PLACING` or `DRAINING`, and no partial of theirs is in flight
(R126, R146). -/
def canSave (s : State) (q : Nat) : Bool :=
  queueGroups s q (fun g => g.st == .placing || g.st == .draining) == []
    && (queueGroups s q (fun g => g.st == .resident)).all (fun e => !s.partials.any (fun p => p.gid == e.1))

/-- The wait of a fragment as it is saved: a `BSYNC` and a `JOIN` keep their place, a back-off ends, and any other word
issues again (R180, R246, R249). -/
def savedWait : Wait → Wait
  | .join => .join
  | .bsync n p sd => .bsync n p sd
  | .bwait n t => .bwait n t
  | _ => .none

/-- A wave as it is saved: it yields for nothing, its feeds have read nothing ahead (R175), a trap that was to enter is pending again (R366),
and what no record holds starts afresh. -/
def saveWave (w : Wave) : Wave :=
  let trap := match w.trap with
    | .entering r => if isLane r.kind then TrapSt.pending else .entering r
    | t => t
  { mapFrags w (fun f => { f with wait := savedWait f.wait }) with
      yieldOn := [], yieldClaim := [], feeds := Map.mapVals w.feeds (fun _ f => { f with buf := [] }), trap := trap, bOlder := false
      spin := 0, demoted := false, starved := false, backoffCount := 0 }

/-- The group that carries the trays of its grid on its core: the one in the lowest group slot (R240). -/
def carriesTrays (s : State) (gid : Nat) (x : Group) : Bool :=
  s.groups.all (fun e => e.1 == gid || e.2.grid != x.grid || e.2.core != x.core || e.2.st != .resident
    || decide (x.gslot ≤ e.2.gslot))

/-- A tray as it is saved: the cycles that remain to its deadline. -/
def saveTray (s : State) (t : Tray) : Tray := { t with deadline := t.deadline - s.clock.toNat }

/-- Park the staging states of a group's teams on a core (R126, R335). -/
def parkTeams (s : State) (gid core : Nat) : State :=
  ((coreOf s core).teams.filter (fun t => t.gid == gid)).foldl (fun u t =>
    let p := parkTeam u t
    putTeam p.1 core p.2) s

/-- Claims keep their wave while it is saved: by group and number (R301). -/
def saveClaims (s : State) (w : Wave) : State :=
  { s with vm := { s.vm with claims := s.vm.claims.map (fun c =>
    if c.core == w.core && c.slot == w.slot then { c with core := 128 + w.gid, slot := w.ident.waveid.toNat } else c) } }

/-- Save one resident group (R126, R127). -/
def saveGroup (s : State) (gid : Nat) : State × Option Saved :=
  match groupOf s gid with
  | none => (s, none)
  | some x =>
    let cores := groupCores x.core x.waves
    let trays := if carriesTrays s gid x then (coreOf s x.core).trays.filter (fun t => t.2.grid == x.grid) else []
    let s1 := cores.foldl (fun t c => parkTeams t gid c) s
    let ws := groupWaves s1 gid
    let s2 := ws.foldl (fun t w => { saveClaims t w with waves := Map.erase t.waves (64 * w.core + w.slot) }) s1
    let mine (core slot : Nat) : Bool := ws.any (fun w => w.core == core && w.slot == slot)
    let s2 := { s2 with groups := Map.mapVals s2.groups (fun _ g =>
      { g with sendQ := g.sendQ.filter (fun p => !mine p.core p.slot), recvQ := g.recvQ.filter (fun p => !mine p.core p.slot)
               claimQ := g.claimQ.filter (fun p => !mine p.core p.slot) }) }
    let c := coreOf s2 x.core
    let s3 := putCore s2 x.core { c with trays := c.trays.filter (fun t => !trays.any (fun u => u.1 == t.1)) }
    let x' := (groupOf s3 gid).getD x
    let held : Group := { x' with st := .swapped, scratchGran := [], fifoGran := [], slots := [] }
    (revertBanks (putGroup s3 gid held) x.core ((x.scratchGran ++ x.fifoGran).map (·.1)),
      some { gid := gid, group := x', waves := ws.map saveWave, trays := trays.map (fun t => (t.1, saveTray s t.2)), off := 0, bytes := 0, recs := [] })

/-- Save a queue's resident groups, one after another. -/
def saveGroups (s : State) (l : List Nat) : State × List Saved :=
  l.foldl (fun (p : State × List Saved) gid =>
    match saveGroup p.1 gid with
    | (t, some x) => (t, p.2 ++ [x])
    | (t, none) => (t, p.2)) (s, [])

/-- Pages of a queue's darkslide: the physical address of each that translates (R117, R127). -/
def slidePages (s : State) (q : Nat) : List Nat :=
  let x := queueOf s q
  match ctxOf s x.ctxId with
  | none => []
  | some c => (List.range x.saveLen.toNat).filterMap (fun i =>
      (devKey s x.ctxId .s (c.desc.saveBase + 65536 * (x.saveOff.toNat + i)) .write).map (fun k => k / 65536))

/-- An external agent has written to the stored darkslide since it was saved, so that its check fails (R127, R425). -/
def slideTampered (s : State) (q : Nat) : Bool :=
  let pages := slidePages s q
  s.extBytes.any (fun e => pages.contains (e.1 / 65536)) || s.tamper.any (fun l => pages.contains (l / 65536))

/-- The save overwrites the darkslide's pages. -/
def freshPages (s : State) (q : Nat) : State :=
  let pages := slidePages s q
  { s with extBytes := s.extBytes.filter (fun e => !pages.contains (e.1 / 65536))
           tamper := s.tamper.filter (fun l => !pages.contains (l / 65536)) }

/-- Pre-empt a queue: its groups are saved, and it waits to be activated again (R118, R126). A queue that was still being
restored keeps the groups not yet restored. -/
def preemptQueue (s : State) (q : Nat) : State :=
  let old := (queueOf s q).slides.groups.map (slideLoad s q)
  let r := saveGroups s ((queueGroups s q (fun g => g.st == .resident)).map (·.1))
  let t := slideSave (freshPages r.1 q) q (queueOf s q).head (old ++ r.2)
  putQueue (nextStamp t) q { queueOf t q with st := .preempted, stamp := t.stamp, promoted := false, readyAt := s.clock }

/-- The default slice of a class, in cycles; class 0 has none (R123). -/
def classSlice (cls : Nat) : Nat :=
  match cls with
  | 1 => 3300000
  | 2 => 16500000
  | _ => 33000000

/-- A queue has waited, and another has held its slot, for more than the class slice. -/
def sliceOver (s : State) (cls : Nat) (since : DWord) : Bool := decide (classSlice cls < (s.clock - since).toNat)

/-- The queue waits to be activated. -/
def waitsTurn (x : Queue) : Bool := x.st == .ready || x.st == .preempted

/-- The cases in which a queue may be pre-empted: a queue of a higher class cannot be placed; one of its class has waited longer than the class
slice, which the victim has held; or an action requires it, of which the model has the UNBIND of its context (R123; log 16). -/
def mayPreempt (s : State) (q : Nat) : Bool :=
  let x := queueOf s q
  s.queues.any (fun e => e.1 != q && waitsTurn e.2
    && (decide (classOf e.2 < classOf x)
      || (classOf e.2 == classOf x && x.cls != 0 && sliceOver s x.cls e.2.readyAt && sliceOver s x.cls x.since)))
  || ((ctxOf s x.ctxId).map (·.unbinding)).getD false

/-- A draw of the queue is in flight, and some core's Finder is inside a segment: the tile that it shades ends first (R125). -/
def drawBusy (s : State) (q : Nat) : Bool :=
  s.grids.any (fun e => e.2.queue == q && (e.2.draw.map (fun d => d.pos.any (fun p => p.2 != 0))).getD false)

/-- `QUEUE_PREEMPT` (R123, R125, R126): of a queue that holds an active slot. -/
def execQueuePreempt (q : Nat) (s : State) : Out :=
  let st := (queueOf s q).st
  if (st = .active ∨ st = .waiting) ∧ canSave s q ∧ mayPreempt s q ∧ !drawBusy s q then .next (preemptQueue s q) else .next s

/-- `SLICE_EXPIRY` (R123): the slice of a queue's class has elapsed while another of its class waits, and the queue gives its slot up. -/
def execSliceExpiry (q : Nat) (s : State) : Out :=
  let x := queueOf s q
  let due := x.cls ≠ 0 ∧ s.queues.any (fun e => e.1 != q && waitsTurn e.2 && classOf e.2 == classOf x && sliceOver s x.cls e.2.readyAt)
    ∧ sliceOver s x.cls x.since
  if (x.st = .active ∨ x.st = .waiting) ∧ due ∧ canSave s q ∧ !drawBusy s q then .next (preemptQueue s q) else .next s

/-- `READY_AGE_PROMOTION` (R122): a queue counts as one class higher until it is activated. -/
def execReadyAgePromotion (q : Nat) (s : State) : Out :=
  let x := queueOf s q
  if x.st = .ready ∧ 2 ^ 28 ≤ (s.clock - x.readyAt).toNat then .next (putQueue s q { x with promoted := true }) else .next s

/-! ## The restore (R118, R126, R146) -/

/-- The lowest free resident slot (R105, R111). -/
def freeResident (s : State) : Option Nat := lowestNot (s.ctxs.filterMap (fun e => e.2.slot)) 64

/-- BIND of a context in `CREATED` or `SWITCHED` (R111). -/
def bindCtx (s : State) (ctx : Nat) : Option State :=
  match ctxOf s ctx, freeResident s with
  | some c, some n => some { s with ctxs := Map.insert s.ctxs ctx { c with st := .bound, slot := some n } }
  | _, _ => none

/-- Queues that hold an active slot (R117). -/
def activeQueues (s : State) : Nat := (s.queues.filter (fun e => e.2.st == .active || e.2.st == .waiting)).length

/-- The slots of a group's engine operations are free on a core (R320). -/
def opsFit (s : State) (gid : Nat) (old new : List Nat) : Bool :=
  (old.zip new).all (fun p => p.1 == p.2 || ((coreOf s p.1).ops.filter (fun o => o.2.gid == gid)).all (fun o =>
    (Map.find (coreOf s p.2).ops o.1).isNone))

/-- Tray entries for a restored group's trays. -/
def trayFit (s : State) (core gi n : Nat) (trays : List (Nat × Tray)) : Bool :=
  traysFit s core gi n && decide ((coreOf s core).trays.length + trays.length ≤ trayEntries)

/-- Another group holds the group slot of a saved group on a core (R154). -/
def slotTaken (s : State) (core : Nat) (g : Group) : Bool :=
  s.groups.any (fun e => holdsPlace e.2 && e.2.core == core && e.2.gslot == g.gslot)

/-- A saved group fits on a core (R131, R146); one with a FIFO keeps its group slot, and with it its handle (R155). -/
def restoreFits (s : State) (x : Saved) (d : KDesc) (core : Nat) : Option BankPlan :=
  let g := x.group
  let cores := groupCores core g.waves
  if cores.all (fun c => !(coreOf s c).dead && !trayWaits s c) && coresFit s core g.waves d.vregBlocks
      && decide (barriersHeld s core + g.barrierCount ≤ 64) && trayFit s core g.grid g.trayCount x.trays
      && opsFit s x.gid (groupCores g.core g.waves) cores && (g.fifoBytes == 0 || !slotTaken s core g) then
    planBanks s core (ceilDiv g.scratchBytes 4096) (ceilDiv g.fifoBytes 4096)
  else none

/-- The saved groups of a queue that have a FIFO fit where they were (R146). -/
def fifoFits (s : State) (x : Queue) : Bool :=
  x.slides.groups.all (fun y => y.group.fifoBytes == 0 || (match descOf s y.group.grid with
    | some d => (restoreFits s y d y.group.core).isSome
    | none => true))

/-- The queue may be activated: it waits to be, an active slot is free, its context is or can be bound (R118), and the room that its groups
with a FIFO held is free (R146). -/
def canActivate (s : State) (x : Queue) : Bool :=
  (x.st == .ready || x.st == .preempted) && decide (activeQueues s < 256) && fifoFits s x
    && (match ctxOf s x.ctxId with
        | none => false
        | some c => !c.unbinding && (match c.st with
            | .bound | .running => true
            | .created | .switched => (freeResident s).isSome
            | .quarantined => false))

/-- One queue is activated before another (R122). -/
def queueBefore (a b : Queue) : Bool :=
  decide (classOf a < classOf b) || (classOf a == classOf b && decide (a.stamp < b.stamp))

/-- A darkslide cannot be restored: its pages fail their check, or its header is none (R127). -/
def slideBroken (s : State) (q : Nat) : Bool := slideTampered s q || (headerRead s q (queueOf s q).slides).isNone

/-- A restore fails its integrity check: the context is quarantined (R127). -/
def slideFail (s : State) (q : Nat) : State :=
  let x := queueOf s q
  let addr := ((ctxOf s x.ctxId).map (fun c => c.desc.saveBase + 65536 * x.saveOff.toNat)).getD 0
  quarantine (logError s x.ctxId 4 15 127 0 addr 0) x.ctxId 4

/-- `QUEUE_ACTIVATE` (R118, R122, R127): the queue takes a slot, and goes on at next_packet; a darkslide that fails its check quarantines the
context. -/
def execQueueActivate (q : Nat) (s : State) : Out :=
  let x := queueOf s q
  if !canActivate s x || s.queues.any (fun e => e.1 != q && canActivate s e.2 && queueBefore e.2 x) then .next s
  else
    let s1 := match (ctxOf s x.ctxId).map (·.st) with
      | some .created => (bindCtx s x.ctxId).getD s
      | some .switched => (bindCtx s x.ctxId).getD s
      | _ => s
    if x.slides.valid ∧ slideBroken s q then .next (slideFail s1 q)
    else
      let slide := if x.slides.groups = [] then Darkslide.none else x.slides
      let head := if x.slides.valid then (headerRead s q x.slides).getD x.head else x.head
      .next (queueIdle (putQueue s1 q { x with st := .active, promoted := false, since := s.clock, slides := slide, head := head }) q)

/-- The cores a restore tries: the same one for a group with a FIFO (R146). -/
def restoreCores (s : State) (g : Group) : List Nat := if 0 < g.fifoBytes then [g.core] else walkCores s g.waves

/-- The new place of a wave of the group: by its number. -/
def newPlace (slots : List Nat) (wv : Nat) : Nat := slots.getD wv 0

/-- Move a group's operations, locks and teams from one core to another. -/
def moveUnits (gid : Nat) (slots : List Nat) (s : State) (p : Nat × Nat) : State :=
  let c := coreOf s p.1
  let mine := c.ops.filter (fun o => o.2.gid == gid)
  let isMine (k : Lock) : Bool := mine.any (fun o => o.1 == k.op)
  let c1 : Core := { c with ops := c.ops.filter (fun o => o.2.gid != gid), locks := c.locks.filter (fun k => !isMine k)
                            overflow := c.overflow.filter (fun k => !isMine k), teams := c.teams.filter (fun t => t.gid != gid) }
  let s1 := putCore s p.1 c1
  let c2 := coreOf s1 p.2
  let ops := mine.map (fun o => (o.1, { o.2 with core := p.2, slot := newPlace slots o.2.wave % 64 }))
  let teams := (c.teams.filter (fun t => t.gid == gid)).map (fun t =>
    { t with members := t.members.map (fun m => { m with core := newPlace slots m.wave / 64, slot := newPlace slots m.wave % 64 }) })
  let c3 := addLocks { c2 with ops := ops.foldl (fun m o => Map.insert m o.1 o.2) c2.ops } ((c.locks ++ c.overflow).filter isMine)
  putCore s1 p.2 { c3 with teams := c3.teams ++ teams }

/-- Put saved trays into free entries; their age goes on (R240). -/
def putTrays (s : State) (core : Nat) (l : List (Nat × Tray)) : State :=
  l.foldl (fun t e =>
    let c := coreOf t core
    match Map.lowestFree (fun _ => false) trayEntries c.trays 0 with
    | some k => putCore t core { c with trays := Map.insert c.trays k { e.2 with deadline := e.2.deadline + s.clock.toNat } }
    | none => t) s

/-- A barrier at restore: the remote arrivals count (R246). -/
def restoreBarrier (b : Barrier) : Barrier := { b with arrived := b.arrived + b.remote, remote := 0 }

/-- Barriers whose phase the remote arrivals complete (R246). -/
def restorePhases (s : State) (gid : Nat) : State :=
  (List.range 16).foldl (fun t n =>
    match groupOf t gid with
    | none => t
    | some g =>
      let b := barrierOf g n
      if b.inUse && decide (b.expected ≤ b.arrived) then phaseDone t gid n b else t) s

/-- Claims name their wave's slot again. -/
def restoreClaims (s : State) (gid : Nat) (slots : List Nat) : State :=
  { s with vm := { s.vm with claims := s.vm.claims.map (fun c =>
    if c.core == 128 + gid then { c with core := newPlace slots c.slot / 64, slot := newPlace slots c.slot % 64 } else c) } }

/-- A fragment's sleep at a barrier goes on while its wave's waiter bit is set; any other word issues again (R180, R246). -/
def sleepsOn (g : Group) (wv : Nat) (f : Frag) : Frag :=
  let bit (n : Nat) : Bool := (barrierOf g n).waiters.getLsbD wv
  match f.wait with
  | .bsync n _ _ => if bit n then f else { f with wait := .none }
  | .bwait n _ => { f with wait := if bit n then .bwait n (barrierOf g n).phase else .none }
  | _ => f

/-- Rebuild a saved group on a core. -/
def restoreAt (s : State) (x : Saved) (core : Nat) (p : BankPlan) : State :=
  let g := x.group
  let s1 := convertBanks s core p
  let done (c : Core) (i : Nat) : Core := putBank c i { bankOf c i with mode := bankEnds (bankOf c i), change := none }
  let s0 := if p.toScratch ++ p.toFifo = [] then s1 else emptyBank s1 core
  let s2 := putCore s0 core ((p.toScratch ++ p.toFifo).foldl done (coreOf s0 core))
  let slots := takeSlots s2 core g.waves
  let gslot := if g.fifoBytes = 0 ∧ slotTaken s core g then freeGslot s2 core else g.gslot
  -- messages sent while the group was saved, and their senders, are in its entry
  let held := (groupOf s x.gid).getD g
  let g' : Group := { g with st := .resident, core := core, gslot := gslot, slots := slots, scratchGran := p.scratch
                             fifoGran := p.fifo, wantBanks := [], msgs := held.msgs, sendQ := held.sendQ, recvQ := [], claimQ := []
                             barriers := Map.mapVals g.barriers (fun _ b => restoreBarrier b) }
  let s3 := putGroup s2 x.gid g'
  let s4 := ((groupCores g.core g.waves).zip (groupCores core g.waves)).foldl (moveUnits x.gid slots) s3
  let s5 := x.waves.foldl (fun t w =>
    let k := newPlace slots w.ident.waveid.toNat
    putWave t { mapFrags w (sleepsOn g w.ident.waveid.toNat) with core := k / 64, slot := k % 64, age := s.clock.toNat }) s4
  restorePhases (restoreClaims (putTrays s5 core x.trays) x.gid slots) x.gid

/-- A saved group comes back on the first core that has room; valid is cleared with the last one (R127). -/
def restoreGroup (s : State) (q : Nat) (y : Saved) (d : KDesc) : Out :=
  match (restoreCores s y.group).findSome? (fun c => (restoreFits s y d c).map (fun p => (c, p))) with
  | none => .next s
  | some (c, p) =>
    let x := queueOf s q
    let t := restoreAt s (slideLoad s q y) c p
    let l := x.slides.groups.filter (fun z => z.gid != y.gid)
    let slide := if l = [] then Darkslide.none else { x.slides with groups := l }
    let u := putQueue t q { queueOf t q with slides := slide }
    let v := if l = [] then slidePut u q 0 (slideHeader { x.slides with valid := false }) 32 else u
    .next (ctxRuns (if y.group.fifoBytes = 0 then { v with placeP := c } else v) x.ctxId)

/-- `GROUP_RESTORE` (R146, R158, R361): a saved group of an active queue comes back where it has room; a record that fails its checks quarantines
the context. -/
def execGroupRestore (gid : Nat) (s : State) : Out :=
  match groupOf s gid with
  | none => .next s
  | some e =>
    match groupQueue s e with
    | none => .next s
    | some q =>
      let x := queueOf s q
      if x.st ≠ .active ∨ !x.slides.valid then .next s
      else
        match x.slides.groups.find? (fun y => y.gid == gid), descOf s e.grid with
        | some y, some d => if groupOk s q y then restoreGroup s q y d else .next (slideFail s q)
        | _, _ => .next s

end Sys2Proof.Machine
end

