-- ==== Sys2Proof/Machine/Queue.lean ====
section
/-! DEFINITION. Machine/Queue.lean: queue registers and states (R117, R118) and the packets LAUNCH, DRAW, SIGNAL, WAIT and
BARRIER (R119 to R121). -/

namespace Sys2Proof.Machine

/-! ## Registers (R117, R118) -/

/-- The queue ends in `ERROR` (R118). -/
def queueError (s : State) (q err : Nat) (idx : Word) : State :=
  putQueue s q { queueOf s q with st := .error, err := err, errIdx := idx }

/-- The queue is enabled: one whose darkslide was refused is not (R117). -/
def queueEnabled (x : Queue) : Bool := x.st != .disabled && !(x.st == .error && x.err == 5)

/-- A queue's darkslide lies within `blocks` and overlaps that of no other enabled queue of its context (R117). -/
def slideOk (s : State) (q : Nat) (x : Queue) (blocks : Nat) : Bool :=
  let lo := x.saveOff.toNat
  let n := x.saveLen.toNat
  decide (1 ≤ n) && decide (lo + n ≤ blocks)
    && !s.queues.any (fun e => e.1 != q && e.2.ctxId == x.ctxId && queueEnabled e.2
      && decide (e.2.saveOff.toNat < lo + n) && decide (lo < e.2.saveOff.toNat + e.2.saveLen.toNat))

/-- `QUEUE_ENABLE_SET` (R118): the device accepts queues once it is operational (R422). -/
def execQueueEnableSet (q : Nat) (s : State) : Out :=
  let x := queueOf s q
  if x.st ≠ .disabled ∨ s.boot.st ≠ .operational ∨ 1024 ≤ q then .next s
  else
    let y := { x with enable := true }
    match ctxOf s x.ctxId with
    | none => .next (putQueue s q { y with st := .error, err := 2 })
    | some c =>
      if c.st = .quarantined then .next (putQueue s q { y with st := .error, err := 2 })
      else if slideOk s q x c.desc.saveBlocks then .next (putQueue s q { y with st := .idle, err := 0 })
      else .next (putQueue s q { y with st := .error, err := 5 })

/-- Work of a queue is pending (R118, R139). -/
def workPending (s : State) (q : Nat) : Bool :=
  let x := queueOf s q
  x.started != [] || x.head != x.tail || x.readyHead != [] || s.grids.any (fun e => e.2.queue == q)

/-- `QUEUE_ENABLE_CLEAR` (R118). -/
def execQueueEnableClear (q : Nat) (s : State) : Out :=
  let x := queueOf s q
  if x.st = .disabled then .next s
  else
    let t := killQueue s q
    let y := { queueOf t q with enable := false, st := .disabled }
    if x.st = .error then .next (putQueue t q { y with head := 0, tail := 0 })
    else .next (putQueue t q (if workPending s q then { y with err := 4 } else y))

/-- `QUEUE_DOORBELL` (R117, R118). -/
def execQueueDoorbell (q : Nat) (tail : Word) (s : State) : Out :=
  if 1024 ≤ q ∨ s.boot.st = .recovery then .next s
  else
    let x := { queueOf s q with tail := tail }
    let t := putQueue s q x
    .next (if x.st = .idle ∧ tail ≠ x.head then queueReady t q else t)

/-- A queue field that takes a write only while the queue is `DISABLED` (R117). -/
def lockedField (s : State) (q : Nat) (f : Queue → Queue) : State :=
  let x := queueOf s q
  if x.st = .disabled ∧ q < 1024 then putQueue s q (f x) else s

/-- A write of the mailbox's go (R419): a 1 while go is still 1 changes nothing. -/
def writeGo (s : State) (v : Nat) : State := { s with mgmt := { s.mgmt with go := bit v 0 } }

/-- Code of a queue state (R118). -/
def queueCode : QueueSt → Nat
  | .disabled => 0 | .idle => 1 | .ready => 2 | .active => 3 | .waiting => 4 | .preempted => 5 | .error => 6

/-- A queue's register block as its function reads it: admin reads 0 in a virtual function (R2, R117). -/
def queueBlock (s : State) (q : Nat) : Nat :=
  let x := queueOf s q
  packBits [(64, x.qbase), (1, bitOf x.enable), (2, x.cls), (1, bitOf (x.admin && x.fn == 0)), (12, x.ctxId), (4, x.sizeOrder), (44, 0),
    (32, x.head.toNat), (32, x.tail.toNat), (32, x.saveOff.toNat), (32, x.saveLen.toNat), (3, queueCode x.st), (5, x.err), (24, 0),
    (32, x.errIdx.toNat)]

/-- The mailbox's register block as the physical function reads it (R2, R419). -/
def mailboxBlock (s : State) : Nat :=
  packBits [(1, bitOf s.mgmt.go), (1, bitOf s.mgmt.done), (30, 0), (128, s.mgmt.req.toNat), (32, 0), (2080, s.mgmt.resp.toNat)]

/-- `REGISTER_WRITE` (R2, R117, R419). -/
def writeReg (r : RegField) (v : BitVec 128) (s : State) : Out :=
  let n := v.toNat
  match r with
  | .qbase q => .next (lockedField s q (fun x => { x with qbase := n % 2 ^ 57 }))
  | .qclass q => .next (lockedField s q (fun x => { x with cls := n % 4 }))
  | .qadmin q pf => .next (if pf && decide (q < 1024) then putQueue s q { queueOf s q with admin := bit n 0 } else s)
  | .qctx q => .next (lockedField s q (fun x => { x with ctxId := n % 4096 }))
  | .qsize q => .next (lockedField s q (fun x => { x with sizeOrder := n % 16 }))
  | .qsaveOff q => .next (lockedField s q (fun x => { x with saveOff := BitVec.ofNat 32 n }))
  | .qsaveLen q => .next (lockedField s q (fun x => { x with saveLen := BitVec.ofNat 32 n }))
  | .mailboxReq => .next { s with mgmt := { s.mgmt with req := v } }
  | .mailboxGo => .next (writeGo s n)
  | .readOnly => .next s

/-- `REGISTER_WRITE` (R2, R117, R419): in `RECOVERY` the device offers no registers (R422; log 16). -/
def execRegisterWrite (r : RegField) (v : BitVec 128) (s : State) : Out :=
  if s.boot.st = .recovery then .next s else writeReg r v s

/-- `MAILBOX_DONE_CLEAR` (R2, R419, R422). -/
def execMailboxDoneClear (s : State) : Out :=
  if s.boot.st = .recovery then .next s else .next { s with mgmt := { s.mgmt with done := false } }

/-! ## Packets (R119, R120) -/

/-- Reserved bits of a packet of each type are 0, and its type is known. -/
def packetOk (n : Nat) : Bool :=
  bits n 15 10 == 0 && bits n 63 32 == 0 && (match bits n 7 0 with
    | 1 => bits n 127 121 == 0 && bits n 191 185 == 0 && bits n 319 313 == 0 && bits n 511 384 == 0
    | 2 => bits n 127 121 == 0 && bits n 191 185 == 0 && bits n 319 313 == 0 && bits n 511 441 == 0
    | 3 => bits n 127 121 == 0 && bits n 511 197 == 0
    | 4 => bits n 127 121 == 0 && bits n 511 197 == 0
    | 5 => bits n 511 64 == 0
    | 6 => bits n 127 84 == 0 && bits n 511 185 == 0
    | _ => false)

/-- The packet processor's move on a packet: it starts, or stays at the head. -/
abbrev PktMove := Except PktErr (Option State)

/-- The packet at a queue's head. -/
def headPacket (s : State) (q : Nat) : Except PktErr Nat := do
  let x := queueOf s q
  pktCheck (decide ((x.tail - x.head).toNat ≤ 2 ^ x.sizeOrder))
  let n ← pktRead s x.ctxId (x.qbase + 64 * (x.head.toNat % 2 ^ x.sizeOrder)) 64
  pktCheck (packetOk n)
  .ok n

/-- The unit number of the packet processor and the dispatcher among those that miss pages (R299, R300). -/
def packetUnit : Nat := 64 * 128

/-- How a move comes out: a failure ends the queue at the packet's index (R118), and a page that has still to come is filled first (R119). -/
def settleMove (s : State) (q : Nat) (m : PktMove) : State :=
  match m with
  | .error .malformed => queueError s q 1 (queueOf s q).head
  | .error .memory => queueError s q 6 (queueOf s q).head
  | .error (.miss page) => batchMiss s packetUnit page (queueOf s q).ctxId
  | .ok none => s
  | .ok (some t) => t

/-- The packet processor looks at the head packet of a queue that dispatches. -/
def onPacket (s : State) (q : Nat) (k : Nat → PktMove) : Out :=
  let x := queueOf s q
  if !dispatches s q || x.head == x.tail then .next s
  else .next (settleMove s q (headPacket s q >>= k))

/-- Every earlier packet of the queue has completed (R121). -/
def nonePending (s : State) (q : Nat) : Bool := (queueOf s q).started == []

/-- The fence of a packet holds it back (R119). -/
def fenced (s : State) (q n : Nat) : Bool := bit n 8 && !nonePending s q

/-- The packet starts: head goes past it (R121). -/
def startPkt (s : State) (q n : Nat) (grid unbind : Option Nat) : State :=
  let x := queueOf s q
  let p : Pkt := { idx := x.head, grid := grid, unbind := unbind, irq := bit n 9 }
  putQueue s q { x with head := x.head + 1, started := x.started ++ [p] }

/-- A packet completes (R118, R119, R121). -/
def completePkt (s : State) (q : Nat) (idx : Word) : State :=
  let x := queueOf s q
  let irq := x.started.any (fun p => p.idx == idx && p.irq)
  let t := putQueue s q { x with started := x.started.filter (fun p => p.idx != idx) }
  let u := if irq then raiseMsix t x.ctxId (((ctxOf t x.ctxId).map (fun c => c.desc.fqMsix)).getD 0) else t
  queueIdle u q

/-- A packet that completes as it starts. -/
def passPkt (s : State) (q n : Nat) : State := completePkt (startPkt s q n none none) q (queueOf s q).head

/-! ## LAUNCH and DRAW (R121, R136, R137, R377) -/

/-- The pipeline state block keeps R377's map. -/
def pipeOk (n trays : Nat) : Bool :=
  bits n 56 0 % 65536 == 0 && bits n 63 57 == 0 && bits n 79 76 == 0 && !bit n 95 && !bit n 111 && bits n 113 112 != 3
    && bits n 119 115 == 0 && bits n 127 126 == 0 && bits n 511 192 == 0 && decide (1 ≤ bits n 75 72)
    && decide (bits n 75 72 ≤ 12) && decide (bits n 125 120 < trays)

/-- A pipeline state block. -/
def pipeOf (n : Nat) : Draw :=
  { primBuf := bits n 56 0, segSize := bits n 71 64 + 1, ringOrder := bits n 75 72, width := bits n 94 80 + 1,
    height := bits n 110 96 + 1, cull := bits n 113 112, merge := bit n 114, pixelTray := bits n 125 120,
    cosMin := BitVec.ofNat 32 (bits n 159 128), depthBound := BitVec.ofNat 32 (bits n 191 160), emitted := [], next := [],
    pos := [], carry := [] }

/-- The grid of a packet. -/
def packetGrid (s : State) (q n : Nat) (d : KDesc) (draw : Option Draw) : Grid :=
  let nx := bits n 223 192
  let ny := bits n 239 224
  let nz := bits n 255 240
  { src := .packet q (queueOf s q).head.toNat, ctx := (queueOf s q).ctxId, queue := q, image := bits n 120 64,
    karg := BitVec.ofNat 64 (bits n 184 128), nx := nx, ny := ny, nz := nz, desc := d, prio := 2, ready := s.stamp, next := 0,
    live := nx * ny * nz, killed := false, anyKilled := false, ended := false, doneAddr := bits n 312 256,
    doneVal := BitVec.ofNat 64 (bits n 383 320), irq := bit n 9, ages := [], draw := draw }

/-- Packet-grid slots of a queue (R137). -/
def gridSlotLimit : Nat := 8

/-- A grid launch clears the constant caches of its context (R83). -/
def dropKonst (s : State) (ctx : Nat) : State :=
  { s with cores := Map.mapVals s.cores (fun _ c => { c with konst := c.konst.filter (fun e => e.1 != ctx) }) }

/-- A LAUNCH or DRAW packet starts its grid once a packet-grid slot is free. -/
def startGrid (s : State) (q n : Nat) (draw : Bool) : PktMove := do
  let x := queueOf s q
  let state := bits n 440 384
  pktCheck (bits n 71 64 == 0 && bits n 258 256 == 0 && bits n 223 192 != 0 && bits n 239 224 != 0 && bits n 255 240 != 0)
  pktCheck (if draw then bits n 239 224 == 1 && bits n 255 240 == 1 && state % 64 == 0 else state == 0)
  if fenced s q n || decide (gridSlotLimit ≤ x.gridSlots) then .ok none
  else do
    let d ← readKernel s x.ctxId (bits n 120 64)
    let pipe ← if draw then do
        let b ← pktRead s x.ctxId state 64
        pktCheck (pipeOk b d.trayCount)
        .ok (some (pipeOf b))
      else .ok none
    let g := packetGrid s q n d pipe
    pktCheck (couldFit s g)
    let t := startPkt (dropKonst s x.ctxId) q n (some s.nextGrid) none
    let u := putQueue t q { queueOf t q with gridSlots := x.gridSlots + 1 }
    .ok (some { u with grids := Map.insert u.grids u.nextGrid g, nextGrid := u.nextGrid + 1, stamp := u.stamp + 1 })

/-- `LAUNCH` (R121). -/
def execLaunch (q : Nat) (s : State) : Out :=
  onPacket s q (fun n => if bits n 7 0 = 1 then startGrid s q n false else .ok none)

/-- `DRAW` (R121, R377). -/
def execDraw (q : Nat) (s : State) : Out :=
  onPacket s q (fun n => if bits n 7 0 = 2 then startGrid s q n true else .ok none)

/-- Every Finder has finished the last segment of a DRAW (R378). -/
def findersDone (s : State) (g : Grid) : Bool :=
  match g.draw with
  | none => true
  | some d => (List.range 96).all (fun c => (coreOf s c).dead || decide (g.nx * g.ny * g.nz ≤ Tab.get 0 d.next c))

/-- `GRID_COMPLETE` (R121, R137): the grid's writes have performed at `.sys`, fabric reductions among them; done_val is written, and the packet
completes. -/
def execGridComplete (gi : Nat) (s : State) : Out :=
  match Map.find s.grids gi with
  | none => .next s
  | some g =>
    match g.src with
    | .task _ _ => .next s
    | .packet q idx =>
      if !gridOver s gi g || !findersDone s g then .next s
      else
        let s0 := if s.link.merging = [] then s else fabArriveAll s (fun _ => true)
        let s1 := { s0 with grids := Map.erase s0.grids gi }
        let x := queueOf s1 q
        let s2 := putQueue s1 q { x with gridSlots := x.gridSlots - 1 }
        let i : Word := BitVec.ofNat 32 idx
        if g.doneAddr = 0 then .next (completePkt s2 q i)
        else if let some page := pktMiss s g.ctx g.doneAddr 8 .write then .next (batchMiss s packetUnit page g.ctx)
        else
          match devWrite s2 g.ctx .u g.doneAddr 8 g.doneVal.toNat with
          | some t => .next (completePkt t q i)
          | none =>
            let y := queueOf s2 q
            .next (queueError (putQueue s2 q { y with started := y.started.filter (fun p => p.idx != i) }) q 6 i)

/-! ## SIGNAL, WAIT and BARRIER (R121) -/

/-- addr, op and scope of a SIGNAL or WAIT packet are in range; the scopes are `.dev`, `.fab` and `.sys` (R29, R120). -/
def signalOk (n top : Nat) : Bool :=
  bits n 120 64 % 8 == 0 && decide (bits n 193 192 ≤ top) && decide (3 ≤ bits n 196 194) && decide (bits n 196 194 ≤ 5)

/-- A SIGNAL packet writes or adds once every earlier packet has completed. -/
def startSignal (s : State) (q n : Nat) : PktMove := do
  let x := queueOf s q
  pktCheck (signalOk n 1)
  if !nonePending s q then .ok none
  else
    match devReach s x.ctxId .u (bits n 120 64) .write with
    | .fail => .error .memory
    | .miss page _ => .error (.miss page)
    | .ok k =>
      let v := if bits n 193 192 = 1 then (readNum s.mem k 8 + bits n 191 128) % 2 ^ 64 else bits n 191 128
      .ok (some (passPkt (putNum s k 8 v) q n))

/-- The comparison of a WAIT packet (R120). -/
def waitMet (op v x : Nat) : Bool := if op = 0 then decide (x ≤ v) else if op = 1 then v == x else v != x

/-- A WAIT packet reads its address: it completes as it starts, or the queue waits. -/
def startWait (s : State) (q n : Nat) : PktMove := do
  let x := queueOf s q
  pktCheck (signalOk n 2)
  if fenced s q n then .ok none
  else do
    let v ← pktRead s x.ctxId (bits n 120 64) 8
    if waitMet (bits n 193 192) v (bits n 191 128) then .ok (some (passPkt (putQueue s q { x with st := .active }) q n))
    else .ok (some (putQueue s q { x with st := .waiting }))

/-- A BARRIER packet passes once every earlier packet has completed. -/
def startBarrier (s : State) (q n : Nat) : PktMove := if nonePending s q then .ok (some (passPkt s q n)) else .ok none

/-- `SIGNAL` (R121). -/
def execSignalPkt (q : Nat) (s : State) : Out :=
  onPacket s q (fun n => if bits n 7 0 = 3 then startSignal s q n else .ok none)

/-- `WAIT` (R121). -/
def execWaitPkt (q : Nat) (s : State) : Out :=
  onPacket s q (fun n => if bits n 7 0 = 4 then startWait s q n else .ok none)

/-- `BARRIER` (R121). -/
def execBarrierPkt (q : Nat) (s : State) : Out :=
  onPacket s q (fun n => if bits n 7 0 = 5 then startBarrier s q n else .ok none)

/-- The WAIT packet that a queue in `WAITING` reads again. -/
def onWaiting (s : State) (q : Nat) (k : Nat → PktMove) : Out :=
  if (queueOf s q).st ≠ .waiting then .next s
  else .next (settleMove s q (headPacket s q >>= (fun n => if bits n 7 0 = 4 then k n else .error .malformed)))

/-- `WAIT_REREAD` (R118, R121): a write has reached the watched line. -/
def execWaitReread (q : Nat) (s : State) : Out := onWaiting s q (startWait s q)

/-- The address of a WAIT packet is homed outside this package (R121). -/
def homedOutside (s : State) (ctx va : Nat) : Bool :=
  match translate s 127 ctx .u va .read with
  | .ok l => decide (2 ≤ pteHome l.word)
  | .error _ => false

/-- `WAIT_PERIODIC_POLL` (R121). -/
def execWaitPeriodicPoll (q : Nat) (s : State) : Out :=
  onWaiting s q (fun n => if homedOutside s (queueOf s q).ctxId (bits n 120 64) then startWait s q n else .ok none)

/-- `WAIT_TIMEOUT` (R109, R118): of a WAIT at `.fab` or `.sys` whose context has a timeout. -/
def execWaitTimeout (q : Nat) (s : State) : Out :=
  let x := queueOf s q
  let limit := ((ctxOf s x.ctxId).map (fun c => c.desc.fabTimeout)).getD 0
  onWaiting s q (fun n => if decide (4 ≤ bits n 196 194) && limit != 0 then .ok (some (queueError s q 3 x.head)) else .ok none)

/-! ## Tasks (R137, R139) -/

/-- The list of highest priority that holds a task, and its head record. -/
def headTask (x : Queue) : Option (Nat × Nat) := x.readyHead.head?

/-- Take the head record off its list. -/
def unlinkTask (s : State) (q prio va link : Nat) : State :=
  let x := queueOf s q
  if Map.find x.readyTail prio = some va then
    putQueue s q { x with readyHead := Map.erase x.readyHead prio, readyTail := Map.erase x.readyTail prio }
  else putQueue s q { x with readyHead := Map.insert x.readyHead prio link }

/-- The grid of a task record. -/
def taskGrid (s : State) (q va n : Nat) (d : KDesc) : Grid :=
  let nx := bits n 223 192
  let ny := bits n 239 224
  let nz := bits n 255 240
  { src := .task q va, ctx := (queueOf s q).ctxId, queue := q, image := bits n 120 64,
    karg := BitVec.ofNat 64 (bits n 184 128), nx := nx, ny := ny, nz := nz, desc := d, prio := bits n 37 36, ready := s.stamp,
    next := 0, live := nx * ny * nz, killed := false, anyKilled := false, ended := false, doneAddr := 0, doneVal := 0, irq := false, ages := [],
    draw := none }

/-- The kernel of a task (R139): its descriptor reads, keeps R50, and is no shader stage; a page of it may have still to come. -/
def taskKernel (s : State) (ctx n : Nat) : Except PktErr KDesc := do
  let d ← readKernel s ctx (bits n 120 64)
  pktCheck (!d.graphics)
  .ok d

/-- A task's grid starts (R137, R139). -/
def startTask (s : State) (q va key n : Nat) (d : KDesc) : State :=
  let g := taskGrid s q va n d
  let t := dropKonst s g.ctx
  let u := putNum (putNum t key 8 (putBits (readNum t.mem key 8) 34 32 3)) (key + 48) 4 g.live
  { u with grids := Map.insert u.grids u.nextGrid g, nextGrid := u.nextGrid + 1, stamp := u.stamp + 1 }

/-- `TASK_DISPATCH` (R137, R139): the dispatcher takes the first queued task of a queue, once its pages have come; a record that is no longer `QUEUED`
is only taken off its list (R140). -/
def execTaskDispatch (q : Nat) (s : State) : Out :=
  let x := queueOf s q
  match (if dispatches s q then headTask x else none) with
  | none => .next s
  | some (prio, va) =>
    match devReach s x.ctxId .s va .write with
    | .fail => .next (queueIdle (unlinkTask s q prio va 0) q)
    | .miss page _ => .next (batchMiss s packetUnit page x.ctxId)
    | .ok k =>
      let n := readNum s.mem k 64
      let s1 := unlinkTask s q prio va (bits n 376 320)
      if bits n 34 32 ≠ 2 then .next (queueIdle s1 q)
      else
        match taskKernel s x.ctxId n with
        | .error (.miss page) => .next (batchMiss s packetUnit page x.ctxId)
        | .error _ => .next (queueIdle (taskFail s1 x.ctxId va 1) q)
        | .ok d =>
          if couldFit s (taskGrid s q va n d) then .next (startTask s1 q va k n d)
          else .next (queueIdle (taskFail s1 x.ctxId va 2) q)

end Sys2Proof.Machine
end

