-- ==== Sys2Proof/Machine/Context.lean ====
section
/-! DEFINITION. Machine/Context.lean: the context descriptor (R109) and the CTXOP packets (R111, R112, R120), and packets
that start late (R119). -/

namespace Sys2Proof.Machine

/-! ## The context descriptor (R109) -/

/-- A context descriptor's fields. -/
def ctxDescOf (n : Nat) : CtxDesc :=
  { ctxId := bits n 11 0, accWays := bits n 19 16, plainOk := bit n 20, wdShift := bits n 28 24, fabTimeout := bits n 47 32,
    fqOrder := bits n 51 48, elOrder := bits n 55 52, fqMsix := bits n 63 56, ptRoot := bits n 115 64,
    trapVector := bits n 184 128, supData := bits n 248 192, fqBase := bits n 312 256, elBase := bits n 376 320,
    saveBase := bits n 440 384, saveBlocks := bits n 479 448, resvBase := bits n 568 512, resvLimit := bits n 632 576 }

/-- The descriptor keeps its map, and names the target of the packet. -/
def ctxDescOk (n target : Nat) : Bool :=
  let d := ctxDescOf n
  bits n 15 12 == 0 && bits n 23 21 == 0 && bits n 31 29 == 0 && bits n 127 116 == 0 && bits n 191 185 == 0
    && bits n 255 249 == 0 && bits n 319 313 == 0 && bits n 383 377 == 0 && bits n 447 441 == 0 && bits n 511 480 == 0
    && bits n 575 569 == 0 && bits n 2047 633 == 0 && d.ctxId == target && decide (1 ≤ d.ctxId) && decide (d.accWays ≤ 8)
    && (d.wdShift == 0 || decide (16 ≤ d.wdShift)) && decide (4 ≤ d.fqOrder) && decide (d.fqOrder ≤ 12)
    && decide (4 ≤ d.elOrder) && decide (d.elOrder ≤ 12) && d.ptRoot % 131072 == 0 && d.trapVector % 256 == 0
    && d.fqBase % 4096 == 0 && d.elBase % 4096 == 0 && d.saveBase % 65536 == 0 && decide (1 ≤ d.saveBlocks)
    && d.resvBase % 65536 == 0 && decide (d.resvBase ≤ d.resvLimit)

/-- Read a descriptor in the context of the packet's queue. -/
def readCtxDesc (s : State) (ctx va target : Nat) : Except PktErr CtxDesc := do
  let n ← pktRead s ctx va 256
  pktCheck (ctxDescOk n target)
  .ok (ctxDescOf n)

/-! ## What a context holds -/

/-- A held translation of a context reaches a line, or the line is encrypted under its key (R105, R110). -/
def ctxLine (s : State) (ctx line : Nat) : Bool :=
  let hit (e : TlbEnt) : Bool :=
    e.ctx == ctx && leafKey { word := e.leaf.toNat, large := e.large } (e.vpn * 65536) / 65536 == line / 65536
  s.vm.tlb.any hit || s.vm.tlb2.any hit
    || (match ctxOf s ctx, Map.find s.sealed line with
        | some c, some k => k == c.key + 1
        | _, _ => false)

/-- The context's lines in the L1s and the L2; a latent line is its accumulator's (R339). -/
def ctxLines (s : State) (ctx : Nat) : List Nat :=
  let l : List Nat := s.coh.l1.map (fun e => e.1 % 2 ^ 64) ++ s.coh.dir.map (fun e => e.1)
  l.eraseDups.filter (fun line => ctxLine s ctx line && !inA s line)

/-- A line is written back, and leaves the L1s and the L2. -/
def takeBack (s : State) (line : Nat) : State :=
  let t := if (haloOwner s line).isSome then pullHalo s line else recallLine s line
  setDir t line { dirOf t line with home := false }

/-- The context's lines leave every L1 and the L2, written back (R111). -/
def dropCtxLines (s : State) (ctx : Nat) : State := (ctxLines s ctx).foldl takeBack s

/-- A line leaves the L1s and the L2 without a write-back. -/
def discardLine (s0 : State) (line : Nat) : State :=
  let s := settleLine s0 line
  setDir (dropCopies s line) line { Dir.init with fog := (dirOf s line).fog }

/-- The context's lines are discarded (R111); the lines stay encrypted under a key that no context has any more (R428). -/
def discardCtxLines (s : State) (ctx : Nat) : State :=
  let t := (ctxLines s ctx).foldl discardLine s
  { t with coh := { t.coh with haloDirty := t.coh.haloDirty.filter (fun e => !ctxLine s ctx (lineOf e.1)) } }

/-- The context's translations go from every TLB and walk cache (R111). -/
def dropTlb (s : State) (ctx : Nat) : State :=
  { s with vm := { s.vm with tlb := s.vm.tlb.filter (fun e => e.ctx != ctx), tlb2 := s.vm.tlb2.filter (fun e => e.ctx != ctx)
                             walks := s.vm.walks.filter (fun e => e.ctx != ctx) } }

/-- Change a context. -/
def modCtx (s : State) (ctx : Nat) (f : Ctx → Ctx) : State := { s with ctxs := Map.modify s.ctxs ctx f }

/-! ## The rows of R111 -/

/-- The state of a context; a free ID has none. -/
def ctxSt (s : State) (id : Nat) : Option CtxSt := (ctxOf s id).map (·.st)

/-- A CTXOP ends with error (R111, R118). -/
def ctxopRefused (s : State) (q : Nat) : State := queueError s q 7 (queueOf s q).head

/-- CREATE: a fresh key for a fresh context (R110). -/
def createCtx (s : State) (id : Nat) (d : CtxDesc) : State :=
  let c : Ctx := { st := .created, desc := d, slot := none, key := s.nextKey, sheets := [], halos := [],
                   unbinding := false, dog := 0 }
  { s with ctxs := Map.insert s.ctxs id c, nextKey := s.nextKey + 1 }

/-- DESTROY, after any quarantine (R111, R339). -/
def destroyCtx (s : State) (id : Nat) : State :=
  let s1 := returnTaken (accAbandon s (fun a => a.ctx == id)) id
  let s2 := dropTlb (discardCtxLines s1 id) id
  { s2 with ctxs := Map.erase s2.ctxs id, coh := { s2.coh with failing := s2.coh.failing.filter (fun e => e.1 != id) } }

/-- Every enabled queue of a context keeps its darkslide within `blocks` (R117). -/
def slidesWithin (s : State) (ctx blocks : Nat) : Bool :=
  s.queues.all (fun e => e.2.ctxId != ctx || !queueEnabled e.2 || decide (e.2.saveOff.toNat + e.2.saveLen.toNat ≤ blocks))

/-- CREATE (R111). -/
def ctxCreate (s : State) (q n : Nat) : PktMove := do
  let id := bits n 83 72
  pktCheck (id != 0 && (ctxOf s id).isNone)
  let d ← readCtxDesc s (queueOf s q).ctxId (bits n 184 128) id
  .ok (some (passPkt (createCtx s id d) q n))

/-- BIND (R111): without a free slot the packet stays at the head. -/
def ctxBind (s : State) (q n : Nat) : PktMove :=
  let id := bits n 83 72
  match ctxSt s id with
  | some .quarantined => .ok (some (ctxopRefused s q))
  | some .created => .ok ((bindCtx s id).map (fun t => passPkt t q n))
  | some .switched => .ok ((bindCtx s id).map (fun t => passPkt t q n))
  | _ => .ok (some (passPkt s q n))

/-- UNBIND (R111): the context's queues are pre-empted and its lines written back before the packet completes. -/
def ctxUnbind (s : State) (q n : Nat) : PktMove :=
  let id := bits n 83 72
  match ctxSt s id with
  | some .quarantined => .ok (some (ctxopRefused s q))
  | some .bound => .ok (some (startPkt (modCtx s id (fun c => { c with unbinding := true })) q n none (some id)))
  | some .running => .ok (some (startPkt (modCtx s id (fun c => { c with unbinding := true })) q n none (some id)))
  | _ => .ok (some (passPkt s q n))

/-- UPDATE (R111). -/
def ctxUpdate (s : State) (q n : Nat) : PktMove :=
  let id := bits n 83 72
  let replace : PktMove := do
    let d ← readCtxDesc s (queueOf s q).ctxId (bits n 184 128) id
    pktCheck (slidesWithin s id d.saveBlocks)
    .ok (some (passPkt (modCtx s id (fun c => { c with desc := d })) q n))
  match ctxSt s id with
  | some .created => replace
  | some .switched => replace
  | _ => .ok (some (ctxopRefused s q))

/-- QUARANTINE (R111). -/
def ctxQuarantine (s : State) (q n : Nat) : PktMove := .ok (some (passPkt (quarantine s (bits n 83 72) 0) q n))

/-- DESTROY (R111): a running context is quarantined first. -/
def ctxDestroy (s : State) (q n : Nat) : PktMove :=
  let id := bits n 83 72
  match ctxSt s id with
  | none => .ok (some (passPkt s q n))
  | some .running => .ok (some (passPkt (destroyCtx (quarantine s id 0) id) q n))
  | _ => .ok (some (passPkt (destroyCtx s id) q n))

/-- A CTXOP that reaches a context while a change of it is in progress waits (R112). -/
def ctxBusy (s : State) (id : Nat) : Bool := ((ctxOf s id).map (·.unbinding)).getD false

/-- A CTXOP packet (R120): on an admin queue, with a known operation, and with a descriptor where one is read. -/
def startCtxop (s : State) (q n : Nat) : PktMove := do
  let op := bits n 71 64
  pktCheck ((queueOf s q).admin && decide (1 ≤ op) && decide (op ≤ 6))
  pktCheck (if op = 1 ∨ op = 4 then bits n 184 128 % 256 == 0 else bits n 184 128 == 0)
  if fenced s q n || ctxBusy s (bits n 83 72) then .ok none
  else
    match op with
    | 1 => ctxCreate s q n
    | 2 => ctxBind s q n
    | 3 => ctxUnbind s q n
    | 4 => ctxUpdate s q n
    | 5 => ctxQuarantine s q n
    | _ => ctxDestroy s q n

/-- The head packet, if it is a CTXOP of one operation. -/
def onCtxop (s : State) (q op : Nat) : Out :=
  onPacket s q (fun n => if bits n 7 0 = 6 ∧ (bits n 71 64 = op ∨ bits n 71 64 = 0 ∨ 6 < bits n 71 64) then startCtxop s q n else .ok none)

/-- `CTXOP CREATE` (R111). -/
def execCtxopCreate (q : Nat) (s : State) : Out := onCtxop s q 1
/-- `CTXOP BIND` (R111). -/
def execCtxopBind (q : Nat) (s : State) : Out := onCtxop s q 2
/-- `CTXOP UNBIND` (R111). -/
def execCtxopUnbind (q : Nat) (s : State) : Out := onCtxop s q 3
/-- `CTXOP UPDATE` (R111). -/
def execCtxopUpdate (q : Nat) (s : State) : Out := onCtxop s q 4
/-- `CTXOP QUARANTINE` (R111). -/
def execCtxopQuarantine (q : Nat) (s : State) : Out := onCtxop s q 5
/-- `CTXOP DESTROY` (R111). -/
def execCtxopDestroy (q : Nat) (s : State) : Out := onCtxop s q 6

/-- `BIND_RETRY` (R111): a BIND that waits at its queue's head goes on once a resident slot is free. -/
def execBindRetry (q : Nat) (s : State) : Out :=
  if (freeResident s).isSome then onPacket s q (fun n => if bits n 7 0 = 6 ∧ bits n 71 64 = 2 then startCtxop s q n else .ok none)
  else .next s

/-- The queues of a context that hold an active slot. -/
def ctxActive (s : State) (ctx : Nat) : List Nat :=
  (s.queues.filter (fun e => e.2.ctxId == ctx && (e.2.st == .active || e.2.st == .waiting))).map (·.1)

/-- UNBIND writes the placed lines of an accumulator to spill slots; one without room for them is `FAULTED` (R339, R341). -/
def accStow (s : State) (k : Nat) : State :=
  match Map.find s.accs k with
  | none => s
  | some a =>
    if a.spilled.length + a.placed.length + a.parkedLines ≤ spillSlots a then
      { s with accs := Map.insert s.accs k { a with placed := [], spilled := a.spilled ++ a.placed.map (·.1) } }
    else if a.st == .faulted then s
    else accBreak s k .accSpillFull

/-- The context leaves the device: `SWITCHED` (R111). -/
def unbindCtx (s : State) (ctx : Nat) : State :=
  let s0 := (ctxActive s ctx).foldl preemptQueue s
  let s1 := (s0.accs.filter (fun e => e.2.ctx == ctx)).foldl (fun t e => accStow t e.1) s0
  modCtx (dropTlb (dropCtxLines s1 ctx) ctx) ctx (fun c => { c with st := .switched, slot := none, unbinding := false })

/-- The UNBIND packet of a context completes. -/
def completeUnbind (s : State) (ctx : Nat) : State :=
  s.queues.foldl (fun t e =>
    match e.2.started.find? (fun p => p.unbind == some ctx) with
    | some p => completePkt t e.1 p.idx
    | none => t) s

/-- `UNBIND_COMPLETE` (R111, R112): the queues are saved, the last line is written back, and the packet completes. One
whose context has been quarantined in the meantime completes as well. -/
def execUnbindComplete (ctx : Nat) (s : State) : Out :=
  if ctxBusy s ctx then
    if (ctxActive s ctx).all (canSave s) && (ctxLines s ctx).all (fun line => !lineWaits s line) then
      .next (completeUnbind (unbindCtx s ctx) ctx)
    else .next s
  else .next (completeUnbind s ctx)

/-! ## Packets that start late (R119, R121) -/

/-- `PACKET_DEFERRED_START`: a packet with its fence set, a SIGNAL or a BARRIER starts once every earlier packet of the
queue has completed. -/
def execPacketDeferredStart (q : Nat) (s : State) : Out :=
  onPacket s q (fun n =>
    if !nonePending s q then .ok none
    else
      match bits n 7 0 with
      | 3 => startSignal s q n
      | 5 => startBarrier s q n
      | 1 => if bit n 8 then startGrid s q n false else .ok none
      | 2 => if bit n 8 then startGrid s q n true else .ok none
      | 4 => if bit n 8 then startWait s q n else .ok none
      | _ => if bit n 8 then startCtxop s q n else .ok none)

end Sys2Proof.Machine
end

