-- ==== Sys2Proof/Machine/Control.lean ====
section
/-! DEFINITION. Machine/Control.lean: branches (R184), fragments (R171 to R174, R249), strips (R160, R185), feeds
(R175, R177), `REGROUP` (R178), control registers (R31, R188) and `LDRAIN` (R89). -/

namespace Sys2Proof.Machine

/-! ## Branches (R184) -/

/-- Target of an SB-format word (R25). -/
def target (f : Frag) (o : BitVec 22) : DWord := f.pc + 4 * o.signExtend 64

/-- A taken branch: one to a lower address advances the spin count (R169). -/
def branchTo (s : State) (w : Wave) (f : Frag) (pc : DWord) : Out :=
  goTo s (if pc.toNat < f.pc.toNat then { w with spin := w.spin + 1 } else w) f pc

/-- A branch on a condition. -/
def branchIf (s : State) (p : Wave → Frag → Bool) (o : BitVec 22) : Out :=
  onFrag s (fun w f => if p w f then branchTo s w f (target f o) else done s w f)

/-- `BC` (R184). -/
def execBc (c : Cond) (o : BitVec 22) (s : State) : Out := branchIf s (fun _ f => condHolds c f.flags) o
/-- `BMZ` (R184). -/
def execBmz (m : MReg) (o : BitVec 22) (s : State) : Out := branchIf s (fun w f => rdM w f m.toNat == 0) o
/-- `BMNZ` (R184). -/
def execBmnz (m : MReg) (o : BitVec 22) (s : State) : Out := branchIf s (fun w f => rdM w f m.toNat != 0) o
/-- `CALL` (R184). -/
def execCall (o : BitVec 22) (s : State) : Out :=
  onFrag s (fun w f => branchTo s (wrP w 190 (f.pc + 4)) f (target f o))
/-- `RET` (R184): the target is checked before the branch is taken. -/
def execRet (a : SReg) (s : State) : Out :=
  onFrag s (fun w f =>
    let t := rdP w a.toNat
    if t.toNat % 4 ≠ 0 then trapS s w f .misalign t
    else if 2 ^ 57 ≤ t.toNat then trapS s w f .unmapped t
    else branchTo s w f t)

/-! ## Fragments (R170 to R174) -/

/-- The slot a new fragment takes: the free one, or the one of the fragment that has held its slot longer (R172). -/
def newSlot (w : Wave) : Bool := if w.fragB.isNone then true else if w.fragA.isNone then false else w.bOlder

/-- Put a new fragment into a slot, the fragment there going to the top of the stack. -/
def pushFrag (w : Wave) (g : Frag) : Wave :=
  let v := newSlot w
  let w1 := match fragOf w v with
    | some old => { w with stack := old :: w.stack }
    | none => w
  let w2 := putFrag w1 v (some g)
  { w2 with bOlder := !v }

/-- The fragment that a split would spill still has strips in the queue (R172). -/
def victimBusy (w : Wave) : Bool := (fragOf w (newSlot w)).isSome && ownStrips w (newSlot w)

/-- Divide the issuing fragment: `stay` keeps the slot, `new` is the new fragment (R171). -/
def divide (s : State) (w : Wave) (stay new : Frag) : Out :=
  .next (putWave s (pushFrag (putFrag w s.cur.b (some stay)) new))

/-- A fragment's part. -/
def partFrag (f : Frag) (m : Word) (pc : DWord) (x : Wait) : Frag :=
  { f with m0 := m, pc := pc, depth := min (f.depth + 1) 63, wait := x }

/-- `SPLIT` (R171). -/
def execSplit (m : MReg) (o : BitVec 22) (s : State) : Out :=
  onFrag s (fun w f =>
    let t := f.m0 &&& rdM w f m.toNat
    let n := f.m0 &&& ~~~(rdM w f m.toNat)
    if t = 0 then done s w f
    else if n = 0 then branchTo s w f (target f o)
    else if ownStrips w s.cur.b || victimBusy w then blocked s w f .strips
    else
      let ft := partFrag f t (target f o) .none
      let fn := partFrag f n (f.pc + 4) .none
      if popc t ≤ popc n then divide s w fn ft else divide s w ft fn)

/-- The greatest depth of some fragments. -/
def maxDepth (l : List Frag) : Nat := l.foldl (fun d f => max d f.depth) 0

/-- The fragment that a member of the greatest depth becomes: the member with the lowest lane of its token carries the
union, the others go (R173). -/
def mergeFrag (deep : List Frag) (f : Frag) : Option Frag :=
  let mem := deep.filter (fun g => g.token == f.token)
  let u := mem.foldl (fun m g => m ||| g.m0) 0
  if firstSet f.m0 = firstSet u then
    some { f with m0 := u, depth := f.depth - 1, pc := f.pc + 4, wait := .none }
  else none

/-- `JOIN` is evaluated: when every live fragment of the greatest depth waits at one, they merge by token (R173). -/
def joinCheck (w : Wave) : Wave :=
  let d := maxDepth (liveFrags w)
  let deep := (liveFrags w).filter (fun f => f.depth == d)
  if deep ≠ [] ∧ deep.all (fun f => f.wait == .join) then
    let g (f : Frag) : Option Frag := if f.depth = d then mergeFrag deep f else some f
    { w with fragA := w.fragA.bind g, fragB := w.fragB.bind g, stack := w.stack.filterMap g }
  else w

/-- `JOIN` (R173). -/
def execJoin (t : BitVec 10) (s : State) : Out :=
  onFrag s (fun w f =>
    if ownStrips w s.cur.b then blocked s w f .strips
    else .next (putWave s (joinCheck (putFrag w s.cur.b (some { f with token := t, wait := .join })))))

/-- `EXIT` (R174). -/
def execExit (s : State) : Out :=
  onFrag s (fun w f =>
    if ownStrips w s.cur.b then blocked s w f .strips
    else
      let w' := joinCheck (putFrag w s.cur.b none)
      let t := putWave s w'
      .next (if liveFrags w' = [] then exitWave t w.core w.slot else t))

/-- `YIELD` (R168, R186). -/
def execYield (s : State) : Out := doneWith s (fun w _ => { w with age := s.clock.toNat })
/-- `NOP` (R186). -/
def execNop (s : State) : Out := doneWith s (fun w _ => w)
/-- `HINT` (R186): the K9 acts on no hint value. -/
def execHint (_ : BitVec 8) (s : State) : Out := doneWith s (fun w _ => w)

/-- `LDRAIN` (R89): every strip enqueued before it has retired, and their writes have performed; it pushes no halo lines (DESIGN CHOICE, log
16: R287 does not list it among what starts a push, R89 asks for device scope). -/
def execLdrain (s : State) : Out := onFrag s (fun w f => if w.strips ≠ [] then blocked s w f .strips else done s w f)

/-- `BACKOFF` (R249): the interval is not architected, so its end is a device event. -/
def execBackoff (m : MReg) (s : State) : Out :=
  onFrag s (fun w f =>
    let l := f.m0 &&& rdM w f m.toNat
    let n := f.m0 &&& ~~~(rdM w f m.toNat)
    if ownStrips w s.cur.b then blocked s w f .strips
    else if l = 0 then done s { w with backoffCount := 0 } f
    else
      let w' := { w with backoffCount := w.backoffCount + 1 }
      if n = 0 then .next (putWave s (putFrag w' s.cur.b (some { f with pc := f.pc + 4, wait := .backoff l })))
      else if victimBusy w then blocked s w f .strips
      else
        let fl := partFrag f l (f.pc + 4) (.backoff l)
        let fn := partFrag f n (f.pc + 4) .none
        if popc l ≤ popc n then divide s w' fn fl else divide s w' fl fn)

/-- An entry of the stack that can run. -/
def runnable (f : Frag) : Bool := !parkedWait f.wait

/-- The slot that `FRAGMENT_RETURN` fills: a free one, else one whose fragment waits at `JOIN` (R172). -/
def returnSlot (w : Wave) : Option Bool :=
  if w.fragA.isNone then some false
  else if w.fragB.isNone then some true
  else if (w.fragA.map (·.wait)) = some .join then some false
  else if (w.fragB.map (·.wait)) = some .join then some true
  else none

/-- `FRAGMENT_RETURN` (R172): the runnable entry spilled most recently returns. -/
def execFragmentReturn (core slot : Nat) (s : State) : Out :=
  match waveAt s core slot with
  | none => .next s
  | some w =>
    match w.stack.find? runnable, returnSlot w with
    | some g, some b =>
      let rest := w.stack.erase g
      let st := match fragOf w b with
        | some old => old :: rest
        | none => rest
      let w' := putFrag { w with stack := st } b (some g)
      .next (putWave s { w' with bOlder := !b })
    | _, _ => .next s

/-- The fragment is in back-off. -/
def inBackoff (f : Frag) : Bool := match f.wait with | .backoff _ => true | _ => false

/-- `BACKOFF_EXPIRY` (R249): the sleeping lanes continue. -/
def execBackoffExpiry (core slot : Nat) (b : Bool) (s : State) : Out :=
  match waveAt s core slot with
  | none => .next s
  | some w =>
    let go (f : Frag) : Frag := { f with wait := .none }
    if ((fragOf w b).map inBackoff).getD false then .next (putWave s (putFrag w b ((fragOf w b).map go)))
    else
      match w.stack.find? inBackoff with
      | some g => .next (putWave s { w with stack := w.stack.map (fun x => if x == g then go x else x) })
      | none => .next s

/-- `SPIN_DEMOTION` (R169). -/
def execSpinDemotion (core slot : Nat) (s : State) : Out :=
  .next (modWave s core slot (fun w => if 64 ≤ w.spin then { w with demoted := true } else w))

/-- `ISSUE_AGE_PROMOTION` (R168). -/
def execIssueAgePromotion (core slot : Nat) (s : State) : Out :=
  .next (modWave s core slot (fun w => { w with starved := true }))

/-! ## Strips (R160, R185) -/

/-- Append a strip, or wait for a place (R160) or for an earlier strip's `VREADL` (R208). -/
def enqueue (s : State) (w : Wave) (f : Frag) (l : BitVec 18) (n : Nat) : Out :=
  let t : Strip := { lcidx := l, len := n, b := s.cur.b }
  if 16 ≤ w.strips.length then blocked s w f .queueFull
  else if stripHeld s w t then blocked s w f .interlock
  else done s { w with strips := w.strips ++ [t] } f

/-- `LRUN` (R185): the count field holds the length less one (R24). -/
def execLrun (l : BitVec 18) (n : BitVec 8) (s : State) : Out := onFrag s (fun w f => enqueue s w f l (n.toNat + 1))

/-- `LRUNX` (R185). -/
def execLrunx (a b : SReg) (s : State) : Out :=
  onFrag s (fun w f =>
    let l := (rdS w a.toNat).toNat
    let n := (rdS w b.toNat).toNat
    if 2 ^ 18 ≤ l ∨ n = 0 ∨ 256 < n then illegalS s w f else enqueue s w f (BitVec.ofNat 18 l) n)

/-! ## Feeds (R175 to R177) -/

/-- Wait until every queued strip that pops the feed has retired (R177). -/
def afterPops (s : State) (n : Nat) (g : Wave → Wave) : Out :=
  onFrag s (fun w f =>
    if w.strips ≠ [] ∧ (queuedUses s w).any (fun u => u.feeds.contains n) then blocked s w f .strips
    else done s (g w) f)

/-- `FEEDSET` (R177). -/
def execFeedset (n : BitVec 2) (a b : SReg) (z : BitVec 2) (s : State) : Out :=
  afterPops s n.toNat (fun w =>
    putFeed w n.toNat
      { nextAddr := rdP w a.toNat, size := z, stride := rdS w b.toNat, remaining := rdS w (b.toNat + 1),
        run := rdS w (b.toNat + 1) != 0, underflow := false, buf := [] })

/-- `FEEDSTOP` (R177). -/
def execFeedstop (n : BitVec 2) (s : State) : Out :=
  afterPops s n.toNat (fun w => putFeed w n.toNat { feedOf w n.toNat with run := false, buf := [] })

/-- One lane of a feed's vector: its element, its fault, or a wait (R175). -/
def feedLane (s : State) (w : Wave) (va n : Nat) : State × Except (Option (Cause × DWord)) Nat :=
  let va := va % 2 ^ 64
  if va % n ≠ 0 then (s, .error (some (.misalign, BitVec.ofNat 64 va)))
  else
    match access s w.core w.slot (ctxIdOf s w.gid) w.priv va n .pull false with
    | (t, .ok key) => (t, .ok (ofBytes (engBytes t w.core key n)))
    | (t, .fault c) => (t, .error (some (c, BitVec.ofNat 64 va)))
    | (t, .miss pg) => (batchMiss t (waveUnit w.core w.slot) pg (ctxIdOf s w.gid), .error none)
    | (t, _) => (t, .error none)

/-- The lanes of a feed's vector, from lane `l` on. -/
def feedLanes (s : State) (w : Wave) (va n : Nat) : Nat → Nat → Nat → State × Except (Option (Cause × DWord)) Nat
  | 0, _, acc => (s, .ok acc)
  | k + 1, l, acc =>
    match feedLane s w (va + l * n) n with
    | (t, .ok x) => feedLanes t w va n k (l + 1) (acc + x * 2 ^ (64 * l))
    | r => r

/-- `FEED_VECTOR_ARRIVE` (R175): up to 8 vectors ahead; a vector that meets a page-cache miss stays out. -/
def execFeedVectorArrive (core slot n : Nat) (s : State) : Out :=
  match waveAt s core slot with
  | none => .next s
  | some w =>
    let fd := feedOf w n
    if !fd.run || decide (8 ≤ fd.buf.length) || decide (fd.remaining.toNat ≤ fd.buf.length) || decide (4 ≤ n) then .next s
    else
      let va := (fd.nextAddr + BitVec.ofInt 64 ((fd.buf.length : Int) * fd.stride.toInt)).toNat
      let put (t : State) (v : FeedVec) : Out := .next (putWave t (putFeed w n { fd with buf := fd.buf ++ [v] }))
      match feedLanes s w va (2 ^ fd.size.toNat) 32 0 0 with
      | (t, .ok x) => put t { data := BitVec.ofNat 2048 x, fault := none }
      | (t, .error (some c)) => put t { data := 0, fault := some c }
      | (t, .error none) => .next t

/-! ## REGROUP (R178) -/

/-- A wave's fragment parked at `REGROUP`: its partner, `k` and destination. -/
def regroupOf (w : Wave) : Option (Nat × Nat × Nat) :=
  (liveFrags w).findSome? (fun f => match f.wait with
    | .regroup p k d => some (p, k, d)
    | _ => none)

/-- A wave's engine operations are final and its event queues empty. -/
def engineQuiet (s : State) (w : Wave) : Bool :=
  (opsWhere s (fun o => o.gid == w.gid && o.wave == w.ident.waveid.toNat)).isEmpty && w.evqs.all (fun e => e.2.recs.isEmpty)

/-- The wave's single fragment at depth 0. -/
def loneFrag (w : Wave) : Option Frag :=
  match liveFrags w with
  | [f] => if f.depth = 0 then some f else none
  | _ => none

/-- Lanes of the receiver, then of the donor, packed from lane 0 (R178). -/
def regroupSrc (r d : Wave) (fr fd : Frag) : List (Wave × Nat) :=
  (lanesOf fr.m0).map (fun l => (r, l)) ++ (lanesOf fd.m0).map (fun l => (d, l))

/-- The receiver after the fusion, before its result is written. -/
def regroupWave (r d : Wave) (fr fd : Frag) (k : Nat) : Wave :=
  let src := regroupSrc r d fr fd
  let reg (n : Nat) : VReg := (src.zip (List.range 32)).foldl (fun v p => laneSet v p.2 (laneGet (Tab.get 0 p.1.1.vregs n) p.1.2)) 0
  let msk (n : Nat) : Word := (src.zip (List.range 32)).foldl (fun m p => setBit m p.2 ((Tab.get 0 p.1.1.masks n).getLsbD p.1.2)) 0
  let v := (List.range k).foldl (fun t n => Tab.set 0 t n (reg n)) r.vregs
  let m := (List.range 15).foldl (fun t n => Tab.set 0 t (n + 1) (msk (n + 1))) r.masks
  { r with vregs := v, masks := m, feeds := Map.mapVals r.feeds (fun _ f => { f with run := false, buf := [] }) }

/-- The fragment of a wave parked at `REGROUP` goes on with a result. -/
def regroupEnd (s : State) (w : Wave) (d : Nat) (x : Word) : Wave :=
  let go (f : Frag) : Frag := match f.wait with
    | .regroup _ _ _ => { f with pc := f.pc + 4, wait := .none }
    | _ => f
  spinReset s (wrS (mapFrags w go) d x)

/-- Both waves have issued `REGROUP` for each other: fuse them, or refuse both (R178). Each is parked at its word. -/
def regroupBoth (s : State) (x y : Wave) (kx ky dx dy : Nat) : State :=
  let refuse := putWave (putWave s (regroupEnd s x dx 0xFFFFFFFF)) (regroupEnd s y dy 0xFFFFFFFF)
  let less := decide (x.ident.waveid.toNat < y.ident.waveid.toNat)
  let r := if less then x else y
  let d := if less then y else x
  match loneFrag r, loneFrag d with
  | some fr, some fd =>
    let n := popc fr.m0 + popc fd.m0
    if kx ≠ ky ∨ r.valloc < kx ∨ d.valloc < kx ∨ 32 < n ∨ !engineQuiet s d then refuse
    else
      let r1 := regroupEnd s (regroupWave r d fr fd kx) (if less then dx else dy) (BitVec.ofNat 32 n)
      let m : Word := BitVec.ofNat 32 (2 ^ n - 1)
      let r2 := { r1 with fragA := r1.fragA.map (fun f => { f with m0 := m }), fragB := r1.fragB.map (fun f => { f with m0 := m }) }
      exitWave (putWave s r2) d.core d.slot
  | _, _ => refuse

/-- The waves of a group parked at a `REGROUP` that names wave `me`, but for wave `p`, are refused: `me` has issued one that does not name
them (R178). -/
def refuseNamers (s : State) (gid me p : Nat) : State :=
  mapWaves s (fun x =>
    let n := x.ident.waveid.toNat
    match regroupOf x with
    | some (q, _, d) => if x.gid = gid ∧ n ≠ me ∧ n ≠ p ∧ q = me then regroupEnd s x d 0xFFFFFFFF else x
    | none => x)

/-- `REGROUP` (R178). -/
def execRegroup (d a : SReg) (s : State) : Out :=
  onFrag s (fun w f =>
    let x := (rdS w a.toNat).toNat
    let p := bits x 6 0
    let k := bits x 15 8
    let me := w.ident.waveid.toNat
    let s1 := refuseNamers s w.gid me p
    let refused := done s1 (wrS w d.toNat 0xFFFFFFFF) f
    if bit x 7 || bits x 31 16 != 0 then illegalS s w f
    else if w.strips ≠ [] then blocked s w f .strips
    else
      match waveOf s1 w.gid p with
      | none => refused
      | some q =>
        if p = me ∨ p % 4 ≠ me % 4 ∨ p / 64 ≠ me / 64 then refused
        else
          let parked := putFrag w s.cur.b (some { f with wait := .regroup p k d.toNat })
          match regroupOf q with
          | none => .next (putWave s1 parked)
          | some (n, kq, dq) =>
            if n ≠ me then refused
            else .next (regroupBoth (putWave s1 parked) parked q k kq d.toNat dq))

/-! ## Control registers (R31, R188) -/

/-- `FEEDSTAT` (R176). -/
def feedStat (w : Wave) : Nat :=
  (List.range 4).foldl (fun x n =>
    let f := feedOf w n
    x + 2 ^ (8 * n) * (f.buf.length + (if f.run then 16 else 0) + (if f.underflow then 32 else 0)
      + (if f.buf.any (fun v => v.fault.isSome) then 64 else 0))) 0

/-- `EVSTAT` (R325). -/
def evStat (w : Wave) : Nat := (List.range 4).foldl (fun x n => x + 2 ^ (8 * n) * (evqOf w n).recs.length) 0

/-- `TRAYSTAT` (R239). -/
def trayStat (s : State) (w : Wave) : Nat :=
  let gi := ((groupOf s w.gid).map (·.grid)).getD 0
  let mine := (coreOf s (((groupOf s w.gid).map (·.core)).getD w.core)).trays.filter (fun t => t.2.grid == gi)
  let tr := match w.tray with
    | some t => 2 ^ 18 + 2 ^ 19 * t.recs.length + 2 ^ 25 * t.config
    | none => 0
  (mine.filter (fun t => t.2.st == .filling)).length + 2 ^ 9 * (mine.filter (fun t => t.2.st == .triggered)).length + tr

/-- `CTX` (R106): the context's ID and its resident slot. -/
def ctxReg (s : State) (ctx : Nat) : Nat := ctx + 2 ^ 12 * ((ctxOf s ctx).bind (fun c => c.slot)).getD 0

/-- The value of a listed control register (R31). -/
def ctlRead (s : State) (w : Wave) (r : Nat) : Option DWord :=
  let z (x : Word) : Option DWord := some (x.setWidth 64)
  let n (x : Nat) : Option DWord := some (BitVec.ofNat 64 x)
  match r with
  | 0x00 => z w.ident.waveid
  | 0x01 => z w.ident.groupx
  | 0x02 => z w.ident.groupy
  | 0x03 => z w.ident.groupz
  | 0x04 => z w.ident.gridx
  | 0x05 => z w.ident.gridy
  | 0x06 => z w.ident.gridz
  | 0x07 => z w.ident.groupwaves
  | 0x08 => z w.ident.role
  | 0x09 => z w.ident.team
  | 0x0A => n w.core
  | 0x0B => n (w.core / 24)
  | 0x0C => n (ctxReg s (ctxIdOf s w.gid))
  | 0x0D => n (if w.priv = .s then 1 else 0)
  | 0x0E => some s.clock
  | 0x10 => some w.ident.karg
  | 0x12 => some w.lcbase
  | 0x14 => z w.treg.cause
  | 0x16 => some w.treg.pc
  | 0x18 => some w.treg.addr
  | 0x1A => z w.treg.mask
  | 0x1B => z w.treg.info
  | 0x1C => n (feedStat w)
  | 0x1D => n (evStat w)
  | 0x1E => n (trayStat s w)
  | _ => none

/-- `SGET` (R188). -/
def execSget (d : SReg) (r : BitVec 8) (s : State) : Out :=
  onFrag s (fun w f =>
    match ctlRead s w r.toNat with
    | none => illegalS s w f
    | some x => done s (if ctlWide r then wrP w d.toNat x else wrS w d.toNat (x.setWidth 32)) f)

/-- `SSET` (R31, R188): reserved bits of `TRAPCAUSE` stay 0 (R355). -/
def execSset (a : SReg) (r : BitVec 8) (s : State) : Out :=
  onFrag s (fun w f =>
    let x := rdS w a.toNat
    let p := rdP w a.toNat
    let put (t : TrapRegs) : Out := done s { w with treg := t } f
    if w.priv = .u then illegalS s w f
    else
      match r.toNat with
      | 0x12 =>
        if w.strips ≠ [] then blocked s w f .strips
        else done s { w with lcbase := BitVec.ofNat 64 (p.toNat % 2 ^ 57 / 256 * 256) } f
      | 0x14 => put { w.treg with cause := x &&& 0x3FF }
      | 0x16 => put { w.treg with pc := p }
      | 0x18 => put { w.treg with addr := p }
      | 0x1A => put { w.treg with mask := x }
      | 0x1B => put { w.treg with info := x }
      | _ => illegalS s w f)

end Sys2Proof.Machine
end

