-- ==== Sys2Proof/Machine/CrossLane.lean ====
section
/-! DEFINITION. Machine/CrossLane.lean: class 3 words: cross-lane work (R200 to R208). -/

namespace Sys2Proof.Machine

/-- A shuffle: `src` gives the source lane of a lane and the value of vb, none when it is out of range (R203). vb is a
source of the word's type (R191), of which the low 32 bits count. -/
def shuffle (i : Instr) (w : LWord) (src : Nat → Nat → Option Nat) (s : State) : Out :=
  laneLate i w s (fun v _ act =>
    let z := w.mods.getLsbD 0
    perLane w act (fun l =>
      match src l (srcB s v w.ty w l % 2 ^ 32) with
      | none => if z then 0 else srcA s v w.ty w l
      | some j => if z && !act.getLsbD j then 0 else srcA s v w.ty w j))

/-- `SHFL` (R203). -/
def execShfl (w : LWord) (s : State) : Out := shuffle (.shfl w) w (fun _ b => some (b % 32)) s
/-- `SHFLX` (R203). -/
def execShflx (w : LWord) (s : State) : Out := shuffle (.shflx w) w (fun l b => some (l ^^^ (b % 32))) s
/-- `SHFLUP` (R203). -/
def execShflup (w : LWord) (s : State) : Out := shuffle (.shflup w) w (fun l b => if b ≤ l then some (l - b) else none) s
/-- `SHFLDN` (R203). -/
def execShfldn (w : LWord) (s : State) : Out := shuffle (.shfldn w) w (fun l b => if l + b ≤ 31 then some (l + b) else none) s
/-- `BCAST` (R203). -/
def execBcast (w : LWord) (s : State) : Out := shuffle (.bcast w) w (fun _ b => some (b % 32)) s

/-- `BALLOT` (R204). -/
def execBallot (w : LWord) (s : State) : Out :=
  laneWord w s (fun v _ act => (lanesOf act).map (fun l => .m w.vd.toNat l (srcA s v w.ty w l != 0)))

/-- The vote of some values, by its kind (R204). -/
def voteOf (kind : Nat) (l : List Nat) : Bool :=
  match kind with
  | 0 => l.any (· != 0)
  | 1 => l.all (· != 0)
  | _ => l.all (fun x => x == l.headD 0)

/-- `VOTE` (R204). -/
def execVote (w : LWord) (s : State) : Out :=
  laneWord w s (fun v _ act =>
    let r := voteOf w.mods.toNat ((lanesOf act).map (srcA s v w.ty w))
    (lanesOf act).map (fun l => .m w.vd.toNat l r))

/-- The identity of a combination (R205). -/
def combId (op : Nat) (t : LType) : Nat :=
  match op with
  | 1 => if t = .f32 then infBits .f32 else low (ltypeBits t) (intRange t).2
  | 2 => if t = .f32 then infBits .f32 + signBit .f32 else low (ltypeBits t) (intRange t).1
  | 3 => 2 ^ ltypeBits t - 1
  | _ => 0

/-- A step of a combination (R205). -/
def combStep (op : Nat) (t : LType) (sat : Bool) (x y : Nat) : Nat :=
  match op with
  | 0 => if t = .f32 then roundF .f32 0 false (fAdd 0 (readF .f32 x) (readF .f32 y)) else vAdd t sat x y
  | 1 => if t = .f32 then fMinBits .f32 false x y else vMin t false x y
  | 2 => if t = .f32 then fMinBits .f32 true x y else vMin t true x y
  | 3 => x &&& y
  | 4 => x ||| y
  | _ => x ^^^ y

/-- The running combinations of some values: before each step, and at the end. -/
def combRun (op : Nat) (t : LType) (sat : Bool) : Nat → List Nat → List Nat × Nat
  | acc, [] => ([], acc)
  | acc, x :: rest =>
    let r := combRun op t sat (combStep op t sat acc x) rest
    (acc :: r.1, r.2)

/-- `SCAN` (R205). -/
def execScan (w : LWord) (s : State) : Out :=
  laneLate (.scan w) w s (fun v _ act =>
    let ls := lanesOf act
    let r := combRun w.vc.toNat w.ty (satOf w) (combId w.vc.toNat w.ty) (ls.map (srcA s v w.ty w))
    let vals := if w.mods.getLsbD 0 then r.1 else (r.1 ++ [r.2]).drop 1
    (ls.zip vals).flatMap (fun p => elemWrites w.ty w.vd.toNat p.1 p.2))

/-- `LRED` (R205). -/
def execLred (w : LWord) (s : State) : Out :=
  laneLate (.lred w) w s (fun v _ act =>
    let r := combRun w.vc.toNat w.ty (satOf w) (combId w.vc.toNat w.ty) ((lanesOf act).map (srcA s v w.ty w))
    perLane w act (fun _ => r.2))

/-- `COMPACT` (R206). -/
def execCompact (w : LWord) (s : State) : Out :=
  laneLate (.compact w) w s (fun v f act =>
    let src := (lanesOf (act &&& rdLaneM s v f w.vc.toNat)).map (srcA s v w.ty w)
    ((lanesOf act).zip (List.range 32)).flatMap (fun p => elemWrites w.ty w.vd.toNat p.1 (src.getD p.2 0)))

/-- `VREADL` (R207, R208); a destination of `s0`, alone or as a pair, discards the value. -/
def execVreadl (w : LWord) (s : State) : Out :=
  laneLate (.vreadl w) w s (fun v _ act =>
    if act = 0 ∨ w.vd = 0 then []
    else
      let x := srcA s v w.ty w (srcB s v w.ty w 0 % 32)
      let lo : RegWrite := .s w.vd.toNat (BitVec.ofNat 32 x)
      if is64 w.ty then [lo, .s (w.vd.toNat + 1) (BitVec.ofNat 32 (x / 2 ^ 32))] else [lo])

/-- `VWRITEL` (R207). -/
def execVwritel (w : LWord) (s : State) : Out :=
  laneLate (.vwritel w) w s (fun v _ act =>
    let n := srcB s v w.ty w 0 % 32
    if act.getLsbD n then elemWrites w.ty w.vd.toNat n (srcA s v w.ty w n) else [])

end Sys2Proof.Machine
end

