-- ==== Sys2Proof/Machine/Texture.lean ====
section
/-! DEFINITION. Machine/Texture.lean: the texture unit (R386 to R390) and the ticket wait of pixel-tray waves (R384). -/

namespace Sys2Proof.Machine

/-! ## Tickets (R384) -/

/-- A ticket of the tile that is lower. -/
def lowerTicket (t : Nat × Nat) (x : Option (Nat × Nat)) : Bool :=
  match x with
  | some (k, n) => k == t.1 && decide (n < t.2)
  | none => false

/-- Some pixel-tray wave of the same tile with a lower ticket has not exited: it runs, is saved, or its tray has not
launched (R384). -/
def ticketWait (s : State) (w : Wave) : Bool :=
  match w.tray.bind (·.ticket) with
  | none => false
  | some t =>
    let ofWave (x : Wave) : Bool := lowerTicket t (x.tray.bind (·.ticket))
    s.waves.any (fun e => ofWave e.2)
      || s.cores.any (fun c => c.2.trays.any (fun y => lowerTicket t y.2.ticket))
      || s.queues.any (fun q => q.2.slides.groups.any (fun g =>
          g.waves.any ofWave || g.trays.any (fun y => lowerTicket t y.2.ticket)))

/-! ## The descriptor (R386) -/

/-- A texture. -/
structure Tex where
  base : Nat
  width : Nat
  height : Nat
  layers : Nat
  levels : Nat
  format : Nat
  wrapU : Nat
  wrapV : Nat
  filter : Nat
  writable : Bool
  deriving DecidableEq, Repr

/-- A texture of its descriptor, none when the descriptor breaks its map (R386). -/
def texOf (d : Nat) : Option Tex :=
  let t : Tex :=
    { base := bits d 56 0, width := bits d 78 64 + 1, height := bits d 94 80 + 1, layers := bits d 105 96 + 1,
      levels := bits d 109 106 + 1, format := bits d 114 112, wrapU := bits d 117 116, wrapV := bits d 119 118,
      filter := bits d 121 120, writable := bit d 122 }
  if bits d 63 57 ≠ 0 ∨ bit d 79 ∨ bit d 95 ∨ bits d 111 110 ≠ 0 ∨ bit d 115 ∨ bits d 511 123 ≠ 0 ∨ t.base % 128 ≠ 0
    ∨ 5 < t.format ∨ t.filter = 3 ∨ bitLen (max t.width t.height) < t.levels then none
  else some t

/-- Channels of a format. -/
def texChannels (f : Nat) : Nat := match f with | 0 => 1 | 1 => 4 | 2 => 2 | 3 => 4 | 4 => 1 | _ => 4
/-- Bytes of a channel. -/
def texChanBytes (f : Nat) : Nat := if f < 2 then 1 else if f < 4 then 2 else 4
/-- Bytes of a texel. -/
def texBytes (t : Tex) : Nat := texChannels t.format * texChanBytes t.format
/-- Width of a level. -/
def texW (t : Tex) (m : Nat) : Nat := max 1 (t.width / 2 ^ m)
/-- Height of a level. -/
def texH (t : Tex) (m : Nat) : Nat := max 1 (t.height / 2 ^ m)
/-- Row pitch of a level. -/
def texPitch (t : Tex) (m : Nat) : Nat := alignUp (texW t m * texBytes t) 128

/-- Address of a texel (R386). -/
def texAddr (t : Tex) (m x y k : Nat) : Nat :=
  t.base + t.layers * ((List.range m).map (fun j => texPitch t j * texH t j)).foldl (· + ·) 0
    + (k * texH t m + y) * texPitch t m + x * texBytes t

/-- A channel's value as stored; an 8-bit channel in units of 1/255. -/
def texChan (t : Tex) (raw i : Nat) : FVal :=
  let n := texChanBytes t.format
  let c := raw / 2 ^ (8 * n * i) % 2 ^ (8 * n)
  if n = 1 then readF .n8 c else if n = 2 then readF .f16 c else readF .f32 c

/-- The four channels of a texel (R386). -/
def texExpand (t : Tex) (raw : Nat) : List FVal :=
  let one : FVal := .fin false (if texChanBytes t.format = 1 then 255 else 1) 0
  let zero : FVal := .fin false 0 0
  let c (i : Nat) : FVal := if i < texChannels t.format then texChan t raw i else if i = 3 then one else zero
  [c 0, c 1, c 2, c 3]

/-- A sum of channel values as an F32. -/
def texRound (t : Tex) (v : FVal) : Nat :=
  match v with
  | .fin n m e =>
    if texChanBytes t.format = 1 ∧ m ≠ 0 then roundExact .f32 0 false (divExact n m e 255 0) else roundF .f32 0 false v
  | _ => roundF .f32 0 false v

/-! ## Sampling (R387, R388) -/

/-- An index outside the level mapped by the wrap mode, none for a border (R387). -/
def wrapIdx (mode n : Nat) (i : Int) : Option Nat :=
  if 0 ≤ i ∧ i < n then some i.toNat
  else
    match mode with
    | 0 => some (i % n).toNat
    | 1 => some (clampI 0 (n - 1) i).toNat
    | 2 => let r := (i % (2 * n)).toNat; some (if r < n then r else 2 * n - 1 - r)
    | _ => none

/-- A coordinate: a NaN or an infinity reads as 0 (R387). -/
def texCoord (x : Nat) : Int := (f32Units x).getD 0

/-- The layer of a coordinate (R387). -/
def texLayer (t : Tex) (x : Nat) : Nat :=
  let z : Int := match readF .f32 x with
    | .fin n m e => roundInt 0 { neg := n, m := m, e := e, sticky := false }
    | _ => 0
  (clampI 0 (t.layers - 1) z).toNat

/-- One in counts of 2^-149. -/
def oneUnits : Int := ((2 ^ 149 : Nat) : Int)

/-- A bound beyond every level of detail, in counts of 2^-149. -/
def lodFar : Int := ((2 ^ 300 : Nat) : Int)

/-- The level of detail of four derivatives, none for an infinite one, in counts of 2^-149 (R388). -/
def lodOf (t : Tex) (dux dvx duy dvy : Option Int) (bias : Int) : Int :=
  match dux, dvx, duy, dvy with
  | some a, some b, some c, some d =>
    let sq (x y : Int) : Int := x * t.width * (x * t.width) + y * t.height * (y * t.height)
    let r := (max (sq a b) (sq c d)).toNat
    if r = 0 then -lodFar
    else ((bitLen (r ^ 128) : Int) - 1 - 298 * 128 + bias) * ((2 ^ 141 : Nat) : Int)
  | _, _, _, _ => lodFar

/-- A derivative: a NaN reads as 0, an infinity is none (R388). -/
def texDeriv (x : Nat) : Option Int :=
  match readF .f32 x with
  | .nan => some 0
  | .inf _ => none
  | .fin n m e => some (unitsOf (-149) n m e)

/-- `SAMPLEL`'s level of detail (R388). -/
def lodGiven (x : Nat) : Int :=
  match readF .f32 x with
  | .nan => 0
  | .inf n => if n then -lodFar else lodFar
  | .fin n m e => unitsOf (-149) n m e

/-- The taps of one level: weight in 1/65536 and texel place (R388). -/
def texTaps (t : Tex) (m : Nat) (u v : Int) : List (Nat × Int × Int) :=
  if t.filter = 0 then [(65536, u * texW t m / oneUnits, v * texH t m / oneUnits)]
  else
    let x := 256 * (u * texW t m) / oneUnits - 128
    let y := 256 * (v * texH t m) / oneUnits - 128
    let i := x / 256
    let a := (x % 256).toNat
    let j := y / 256
    let b := (y % 256).toNat
    [((256 - a) * (256 - b), i, j), (a * (256 - b), i + 1, j), ((256 - a) * b, i, j + 1), (a * b, i + 1, j + 1)]

/-- The levels a sample blends with their weights in counts of 2^-149 (R388). -/
def texLevels (t : Tex) (lod : Int) : List (Nat × Nat) :=
  let top : Int := t.levels - 1
  if t.filter = 2 then
    let c := clampI 0 (top * oneUnits) lod
    let m := (c / oneUnits).toNat
    let f := (c % oneUnits).toNat
    [(m, 2 ^ 149 - f), (min (m + 1) (t.levels - 1), f)]
  else [((clampI 0 top ((2 * lod + oneUnits) / (2 * oneUnits))).toNat, 2 ^ 149)]

/-- The channels of one texel, zeros for a border (R387). -/
def texFetch (w : Wave) (t : Tex) (m : Nat) (x y : Option Nat) (k : Nat) : LaneM (List FVal) :=
  match x, y with
  | some i, some j => do
    let raw ← laneRead w (BitVec.ofNat 64 (texAddr t m i j k)) (texBytes t)
    pure (texExpand t raw)
  | _, _ => pure (List.replicate 4 (.fin false 0 0))

/-- A filtered sample: four channels rounded once (R388). -/
def texSample (w : Wave) (t : Tex) (u v : Int) (k : Nat) (lod : Int) : LaneM (List Nat) := do
  let taps := (texLevels t lod).flatMap (fun p => (texTaps t p.1 u v).map (fun q => (p.1, p.2 * q.1, q.2.1, q.2.2)))
  let terms ← (taps.filter (fun q => q.2.1 != 0)).foldlM (fun (acc : List (List FVal)) q => do
    let c ← texFetch w t q.1 (wrapIdx t.wrapU (texW t q.1) q.2.2.1) (wrapIdx t.wrapV (texH t q.1) q.2.2.2) k
    pure (c.map (fun x => fMul (.fin false q.2.1 (-165)) x) :: acc)) []
  pure ((List.range 4).map (fun i => texRound t (fSum 0 (terms.map (fun c => c.getD i .nan)))))

/-! ## The words (R389, R390) -/

/-- The texture that the descriptor address names; every lane reads the descriptor (R389). -/
def texLoad (w : Wave) (o : LaneOp) (l : Nat) : LaneM (Option Tex) := do
  let a := opAddr o l
  if a.toNat % 64 ≠ 0 then laneEnd (.fault .misalign a)
  else do
    let d ← laneRead w a 64
    pure (texOf d)

/-- The level of detail of a sampling word in a lane. -/
def texLod (i : Instr) (t : Tex) (o : LaneOp) (l : Nat) : Int :=
  let q := l / 4 * 4
  let c (r j : Nat) : Int := texCoord (opData o r j).toNat
  match i with
  | .sample x =>
    lodOf t (some (c 0 (q + 1) - c 0 q)) (some (c 1 (q + 1) - c 1 q)) (some (c 0 (q + 2) - c 0 q)) (some (c 1 (q + 2) - c 1 q))
      (sgn 16 x.imm24.toNat)
  | .sampleg x =>
    let d (j : Nat) : Option Int := texDeriv (opData o (3 + j) l).toNat
    lodOf t (d 0) (d 1) (d 2) (d 3) (sgn 16 x.imm24.toNat)
  | _ => lodGiven (opData o 3 l).toNat

/-- One lane of a sampling word. -/
def sampleLane (w : Wave) (x : LXWord) (o : LaneOp) (l : Nat) : LaneM (List RegWrite) := do
  match ← texLoad w o l with
  | none => pure (wordWrites x.vd.toNat l [0, 0, 0, 0])
  | some t => do
    let r ← texSample w t (texCoord (opData o 0 l).toNat) (texCoord (opData o 1 l).toNat) (texLayer t (opData o 2 l).toNat)
      (texLod o.word t o l)
    pure (wordWrites x.vd.toNat l r)

/-- The texel that `TEXLD` and `TEXST` name lies in the texture (R390). -/
def texIn (t : Tex) (m x y k : Nat) : Bool :=
  decide (m < t.levels) && decide (x < texW t m) && decide (y < texH t m) && decide (k < t.layers)

/-- A channel value as `TEXST` writes it (R390). -/
def texEncodeV (t : Tex) (v : FVal) : Nat :=
  match texChanBytes t.format with
  | 1 =>
    match v with
    | .nan => 0
    | .inf n => if n then 0 else 255
    | .fin n m e => (clampI 0 255 (roundInt 0 { neg := n, m := m * 255, e := e, sticky := false })).toNat
  | 2 => roundF .f16 0 false v
  | _ => roundF .f32 0 false v

/-- The channels that a texel of a format takes, packed (R390). -/
def texPack (t : Tex) (c : List FVal) : Nat :=
  ((List.range (texChannels t.format)).map (fun i =>
    texEncodeV t (c.getD i (.fin false 0 0)) * 2 ^ (8 * texChanBytes t.format * i))).foldl (· + ·) 0

/-- One lane of `TEXLD` (R390). -/
def texldLane (w : Wave) (x : LXWord) (o : LaneOp) (l : Nat) : LaneM (List RegWrite) := do
  let p := opWords o 3 l
  let m := x.imm24.toNat
  match ← texLoad w o l with
  | none => pure (wordWrites x.vd.toNat l [0, 0, 0, 0])
  | some t =>
    if texIn t m (p.getD 0 0) (p.getD 1 0) (p.getD 2 0) then do
      let c ← texFetch w t m (some (p.getD 0 0)) (some (p.getD 1 0)) (p.getD 2 0)
      pure (wordWrites x.vd.toNat l (c.map (texRound t)))
    else pure (wordWrites x.vd.toNat l [0, 0, 0, 0])

/-- One lane of `TEXST` (R390). -/
def texstLane (w : Wave) (x : LXWord) (o : LaneOp) (l : Nat) : LaneM (List RegWrite) := do
  let p := opWords o 3 l
  let m := x.imm24.toNat
  match ← texLoad w o l with
  | none => pure []
  | some t =>
    if texIn t m (p.getD 0 0) (p.getD 1 0) (p.getD 2 0) then do
      let a := BitVec.ofNat 64 (texAddr t m (p.getD 0 0) (p.getD 1 0) (p.getD 2 0))
      if !t.writable then laneEnd (.fault .protect a)
      else do
        laneWrite w a (texBytes t) (texPack t ((List.range 4).map (fun i => readF .f32 (opData o (3 + i) l).toNat)))
        pure []
    else pure []

/-- How a lane of a texture word performs. -/
def texLane (o : LaneOp) (l : Nat) (s : State) : State × LaneRes :=
  match waveAt s s.cur.core s.cur.slot, o.word with
  | some w, .sample x | some w, .samplel x | some w, .sampleg x => laneRun (sampleLane w x o l) s
  | some w, .texld x => if ticketWait s w then (s, .wait) else laneRun (texldLane w x o l) s
  | some w, .texst x => if ticketWait s w then (s, .wait) else laneRun (texstLane w x o l) s
  | _, _ => (s, .ok [])

/-- A texture word: `a` registers of va from every lane that `who` names, then `b` registers of vb. -/
def texWord (i : Instr) (x : LXWord) (all : Bool) (a b : Nat) (s : State) : Out :=
  onLane s x.guard.toNat (fun w t _ act =>
    let d := capture s w act x.vb.toNat b a (capture s w (if all then 0xFFFFFFFF else act) x.va.toNat a 0 [])
    issueOp texLane s w x.stop (newOp w t i act (laneAddrs act (fun _ => rdP w x.sbase.toNat)) d))

/-- `SAMPLE` (R389): the quad's lanes are read whether or not they are active. -/
def execSample (w : LXWord) (s : State) : Out := texWord (.sample w) w true 3 0 s
/-- `SAMPLEL` (R389). -/
def execSamplel (w : LXWord) (s : State) : Out := texWord (.samplel w) w false 4 0 s
/-- `SAMPLEG` (R389). -/
def execSampleg (w : LXWord) (s : State) : Out := texWord (.sampleg w) w false 3 4 s
/-- `TEXLD` (R390). -/
def execTexld (w : LXWord) (s : State) : Out := texWord (.texld w) w false 3 0 s
/-- `TEXST` (R390). -/
def execTexst (w : LXWord) (s : State) : Out := texWord (.texst w) w false 3 4 s

end Sys2Proof.Machine
end

