-- ==== Sys2Proof/Machine/Layer.lean ====
section
/-! DEFINITION. Machine/Layer.lean: layered targets (R391 to R403). -/

namespace Sys2Proof.Machine

/-! ## The descriptor and the pool state (R391, R392) -/

/-- A layered target. -/
structure Layered where
  hdr : Nat
  pool : Nat
  width : Nat
  height : Nat
  k : Nat
  rule : Nat
  maxPages : Nat
  deriving DecidableEq, Repr

/-- A target of its descriptor, none when it breaks its map (R391). -/
def layeredOf (c : CtxDesc) (d : Nat) : Option Layered :=
  let t : Layered :=
    { hdr := bits d 56 0, pool := bits d 120 64, width := bits d 142 128 + 1, height := bits d 158 144 + 1,
      k := bits d 162 160 + 1, rule := bits d 164 163, maxPages := bits d 191 176 }
  if bits d 63 57 ≠ 0 ∨ bits d 127 121 ≠ 0 ∨ bit d 143 ∨ bit d 159 ∨ bits d 175 165 ≠ 0 ∨ bits d 511 192 ≠ 0
    ∨ t.hdr % 128 ≠ 0 ∨ t.pool % 65536 ≠ 0 ∨ t.rule = 3 ∨ t.maxPages = 0 ∨ t.pool < c.resvBase ∨ c.resvLimit ≤ t.pool then none
  else some t

/-- The pool state line (R392). -/
structure PoolSt where
  pages : Nat
  used : Nat
  freeHead : Nat
  live : Nat
  deriving DecidableEq, Repr

/-- Read the state from the first 16 bytes of its line. -/
def poolOfNum (x : Nat) : PoolSt := { pages := bits x 15 0, used := bits x 63 32, freeHead := bits x 95 64, live := bits x 127 96 }

/-- The pool state that its 128 bytes give; none where a reserved field is set (R3, R392). -/
def poolState (x : Nat) : Option PoolSt := if bits x 31 16 ≠ 0 ∨ bits x 1023 128 ≠ 0 then none else some (poolOfNum x)

/-- The 16 bytes of a state. -/
def poolNum (p : PoolSt) : Nat :=
  p.pages % 65536 + p.used % 2 ^ 32 * 2 ^ 32 + p.freeHead % 2 ^ 32 * 2 ^ 64 + p.live % 2 ^ 32 * 2 ^ 96

/-! ## Nodes (R394 to R396) -/

/-- Depth of a node. -/
def nodeDepth (n : Nat) : FVal := readF .f32 (bits n 95 64)

/-- Channel `i` of a node. -/
def nodeChan (n i : Nat) : FVal := readF .f16 (bits n (16 * i + 15) (16 * i))

/-- Put a node at its place: after every node whose depth is not greater (R395). -/
def nodeInsert (n : Nat) : List Nat → List Nat
  | [] => [n]
  | x :: rest => if fCmp (nodeDepth x) (nodeDepth n) ≤ 0 then x :: nodeInsert n rest else n :: x :: rest

/-- The gap between two depths; equal infinities differ by 0 (R395). -/
def depthGap (a b : FVal) : FVal := if a = b then .fin false 0 0 else fSum 0 [b, fFlip a]

/-- The index of the least gap, the lowest on ties. -/
def leastGap : List Nat → Nat → Option (Nat × FVal)
  | a :: b :: rest, j =>
    let g := depthGap (nodeDepth a) (nodeDepth b)
    match leastGap (b :: rest) (j + 1) with
    | none => some (j, g)
    | some (i, h) => if fCmp g h ≤ 0 then some (j, g) else some (i, h)
  | _, _ => none

/-- A weighted mean of two values, rounded to a type (R396). -/
def weighted (t : LType) (wf wk : Nat) (f k : FVal) : Nat :=
  let s := fSum 0 [fMul (.fin false wf 0) f, fMul (.fin false wk 0) k]
  match s with
  | .fin n m e => if m = 0 then roundF t 0 false s else roundExact t 0 false (divExact n m e (wf + wk) 0)
  | _ => roundF t 0 false s

/-- Two neighbours merged under a rule (R396). -/
def nodeMerge (rule f k : Nat) : Nat :=
  let wf0 := popcount 16 (bits f 111 96)
  let wk0 := popcount 16 (bits k 111 96)
  let wf := if wf0 = 0 ∧ wk0 = 0 then 1 else wf0
  let wk := if wf0 = 0 ∧ wk0 = 0 then 1 else wk0
  let keep := fSum 0 [.fin false 1 0, fFlip (nodeChan f 3)]
  let chan (i : Nat) : Nat :=
    match rule with
    | 0 => roundF .f16 0 false (fSum 0 [nodeChan f i, fMul keep (nodeChan k i)])
    | 1 => roundF .f16 0 false (nodeChan f i)
    | _ => weighted .f16 wf wk (nodeChan f i) (nodeChan k i)
  let depth :=
    if rule = 2 then
      let d := weighted .f32 wf wk (nodeDepth f) (nodeDepth k)
      if readF .f32 d = .nan then bits f 95 64 else d
    else bits f 95 64
  let cov := if rule = 1 then bits f 111 96 else bits f 111 96 ||| bits k 111 96
  chan 0 + chan 1 * 2 ^ 16 + chan 2 * 2 ^ 32 + chan 3 * 2 ^ 48 + depth * 2 ^ 64 + cov * 2 ^ 96 + bits f 118 112 * 2 ^ 112
    + 2 ^ 119 + bits f 127 120 * 2 ^ 120

/-- Merge the nodes `j` and `j + 1` of a list. -/
def mergeAt (rule : Nat) : List Nat → Nat → List Nat
  | a :: b :: rest, 0 => nodeMerge rule a b :: rest
  | a :: rest, j + 1 => a :: mergeAt rule rest j
  | l, _ => l

/-- The list after an insertion (R395). -/
def listInsert (k rule n : Nat) (l : List Nat) : List Nat :=
  let m := nodeInsert n l
  if m.length = k + 1 then
    match leastGap m 0 with
    | some (j, _) => mergeAt rule m j
    | none => m
  else m

/-- The number that a list's nodes make in their block (R393). -/
def nodesNum : List Nat → Nat
  | [] => 0
  | n :: rest => n + 2 ^ 128 * nodesNum rest

/-- The first `n` nodes of a block. -/
def blockNodes (x n : Nat) : List Nat := (List.range n).map (fun j => bits x (128 * j + 127) (128 * j))

/-! ## Accesses of one lane (R393, R397, R398) -/

/-- The state as a lane's work finds it. -/
def laneGet_ : LaneM State := ExceptT.lift get

/-- Store `n` bytes at a key that the lane has reached. -/
def lanePut (w : Wave) (key n x : Nat) : LaneM Unit := ExceptT.lift (modify (fun s => storeNum s w.core key n x))

/-- Bytes at a key that the lane has reached. -/
def laneAt (w : Wave) (key n : Nat) : LaneM Nat := do
  let s ← laneGet_
  pure (ofBytes (loadBytes s w.core key n))

/-- The target of the word's descriptor (R391, R399). -/
def lyLoad (w : Wave) (o : LaneOp) (l : Nat) : LaneM (Option Layered) := do
  let a := opAddr o l
  if a.toNat % 64 ≠ 0 then laneEnd (.fault .misalign a)
  else do
    let d ← laneRead w a 64
    let s ← laneGet_
    pure ((ctxOf s (ctxIdOf s w.gid)).bind (fun c => layeredOf c.desc d))

/-- The target and the pixel that a lane names, none when it does nothing (R399). -/
def lyPixel (w : Wave) (o : LaneOp) (l : Nat) : LaneM (Option (Layered × Nat × Nat)) := do
  let t ← lyLoad w o l
  let x := (opData o 0 l).toNat
  let y := (opData o 1 l).toNat
  match t with
  | some t => if x < t.width ∧ y < t.height then pure (some (t, x, y)) else pure none
  | none => pure none

/-- Key of a pixel's header (R393). -/
def lyHeadKey (w : Wave) (t : Layered) (x y : Nat) (k : AccKind) : LaneM Nat :=
  laneKey w (BitVec.ofNat 64 (t.hdr + 128 + 4 * (y * t.width + x))) 4 k

/-- Key of a block. -/
def lyBlockKey (w : Wave) (t : Layered) (b : Nat) (k : AccKind) : LaneM Nat :=
  laneKey w (BitVec.ofNat 64 (t.pool + 128 * b)) 128 k

/-- Key of the pool state line. -/
def lyStateKey (w : Wave) (t : Layered) : LaneM Nat := laneKey w (BitVec.ofNat 64 t.hdr) 128 .update

/-- The pool state at its line's key (R392); a line that breaks its map is `ILLEGAL` (R3). -/
def lyState (w : Wave) (t : Layered) (sk : Nat) : LaneM PoolSt := do
  match poolState (← laneAt w sk 128) with
  | some p => pure p
  | none => laneEnd (.fault .illegal (BitVec.ofNat 64 t.hdr))

/-- Nodes that a header counts. -/
def headCount (t : Layered) (h : Nat) : Nat := min (bits h 3 0) t.k

/-- Take a block: its number and key (R398). -/
def lyTake (w : Wave) (t : Layered) : LaneM (Nat × Nat) := do
  let sk ← lyStateKey w t
  let p ← lyState w t sk
  if p.freeHead ≠ 0 then do
    let b := p.freeHead - 1
    let bk ← lyBlockKey w t b .update
    let nx ← laneAt w bk 4
    lanePut w sk 16 (poolNum { p with freeHead := nx, live := p.live + 1 })
    pure (b, bk)
  else if p.used < 512 * p.pages then do
    let bk ← lyBlockKey w t p.used .update
    lanePut w sk 16 (poolNum { p with used := p.used + 1, live := p.live + 1 })
    pure (p.used, bk)
  else laneEnd (.fault .layerPool (BitVec.ofNat 64 (t.pool + 65536 * p.pages)))

/-- Empty a pixel's list: free its block and clear the header (R398, R400). The keys are those of header, block and
state line. -/
def lyFree (w : Wave) (t : Layered) (hk bk sk b : Nat) : LaneM Unit := do
  let p ← lyState w t sk
  lanePut w bk 4 p.freeHead
  lanePut w sk 16 (poolNum { p with freeHead := b + 1, live := p.live - 1 })
  lanePut w hk 4 0

/-- One lane of `LYINS` (R395). -/
def lyinsLane (w : Wave) (o : LaneOp) (l : Nat) : LaneM (List RegWrite) := do
  match ← lyPixel w o l with
  | none => pure []
  | some (t, x, y) => do
    let v := opWords o 6 l
    let n0 := v.getD 2 0 + v.getD 3 0 * 2 ^ 32 + v.getD 4 0 * 2 ^ 64 + v.getD 5 0 * 2 ^ 96
    let n := if bit n0 119 then n0 - 2 ^ 119 else n0
    if nodeDepth n = .nan then pure []
    else do
      let hk ← lyHeadKey w t x y .update
      let h ← laneAt w hk 4
      let c := headCount t h
      if c = 0 then do
        let (b, bk) ← lyTake w t
        lanePut w bk 16 n
        lanePut w hk 4 (1 + 16 * b)
        pure []
      else do
        let bk ← lyBlockKey w t (h / 16) .update
        let x ← laneAt w bk 128
        let m := listInsert t.k t.rule n (blockNodes x c)
        lanePut w bk (16 * m.length) (nodesNum m)
        lanePut w hk 4 (m.length + h / 16 * 16)
        pure []

/-- One lane of `LYREAD` (R400). -/
def lyreadLane (w : Wave) (i : LXWord) (o : LaneOp) (l : Nat) : LaneM (List RegWrite) := do
  let j := i.imm24.toNat
  let zero := List.replicate (if i.aux = 1 then 1 else 4) 0
  match ← lyPixel w o l with
  | none => pure (wordWrites i.vd.toNat l zero)
  | some (t, x, y) => do
    let hk ← lyHeadKey w t x y .pull
    let h ← laneAt w hk 4
    let c := headCount t h
    if i.aux = 1 then pure (wordWrites i.vd.toNat l [c])
    else if c ≤ j then pure (wordWrites i.vd.toNat l zero)
    else do
      let bk ← lyBlockKey w t (h / 16) .pull
      let n ← laneAt w (bk + 16 * j) 16
      pure (wordWrites i.vd.toNat l ((List.range 4).map (fun q => bits n (32 * q + 31) (32 * q))))

/-- A background with the nodes of a list over it, the farthest first (R401). -/
def resolve (bg : List FVal) (l : List Nat) : List FVal :=
  l.reverse.foldl (fun c n =>
    let keep := fSum 0 [.fin false 1 0, fFlip (nodeChan n 3)]
    (List.range 4).map (fun i => fSum 0 [nodeChan n i, fMul keep (c.getD i .nan)])) bg

/-- One lane of `LYRESOLVE` (R401); operand words 6 and 7 hold the texture descriptor's address. -/
def lyresolveLane (w : Wave) (i : LXWord) (o : LaneOp) (l : Nat) : LaneM (List RegWrite) := do
  match ← lyPixel w o l with
  | none => pure []
  | some (t, x, y) => do
    let ta : DWord := opData o 7 l ++ opData o 6 l
    if ta.toNat % 64 ≠ 0 then laneEnd (.fault .misalign ta)
    else do
      let d ← laneRead w ta 64
      match texOf d with
      | none => pure []
      | some tx =>
        if tx.width ≤ x ∨ tx.height ≤ y then pure []
        else do
          let a := BitVec.ofNat 64 (texAddr tx 0 x y 0)
          if !tx.writable then laneEnd (.fault .protect a)
          else do
            let tk ← laneKey w a (texBytes tx) .write
            let hk ← lyHeadKey w t x y (if i.aux = 1 then .update else .pull)
            let h ← laneAt w hk 4
            let c := headCount t h
            let bg := (List.range 4).map (fun q => readF .f32 (opData o (2 + q) l).toNat)
            if c = 0 then do
              lanePut w tk (texBytes tx) (texPack tx bg)
              pure []
            else do
              let bk ← lyBlockKey w t (h / 16) (if i.aux = 1 then .update else .pull)
              let n ← laneAt w bk 128
              let out := texPack tx (resolve bg (blockNodes n c))
              if i.aux = 1 then do
                let sk ← lyStateKey w t
                lyFree w t hk bk sk (h / 16)
                lanePut w tk (texBytes tx) out
                pure []
              else do
                lanePut w tk (texBytes tx) out
                pure []

/-- One lane of `LYCLEAR` (R400). -/
def lyclearLane (w : Wave) (o : LaneOp) (l : Nat) : LaneM (List RegWrite) := do
  match ← lyPixel w o l with
  | none => pure []
  | some (t, x, y) => do
    let hk ← lyHeadKey w t x y .update
    let h ← laneAt w hk 4
    if bits h 3 0 = 0 then pure []
    else do
      let bk ← lyBlockKey w t (h / 16) .update
      let sk ← lyStateKey w t
      lyFree w t hk bk sk (h / 16)
      pure []

/-- How a lane of a layer word performs; pixel-tray waves wait for their tile's turn (R384). -/
def lyLane (o : LaneOp) (l : Nat) (s : State) : State × LaneRes :=
  match waveAt s s.cur.core s.cur.slot, o.word with
  | some w, .lyins _ => if ticketWait s w then (s, .wait) else laneRun (lyinsLane w o l) s
  | some w, .lyread i => if ticketWait s w then (s, .wait) else laneRun (lyreadLane w i o l) s
  | some w, .lyresolve i => laneRun (lyresolveLane w i o l) s
  | some w, .lyclear _ => laneRun (lyclearLane w o l) s
  | _, _ => (s, .ok [])

/-- Capture a register pair as operand words `j` and `j + 1` of the active lanes. -/
def capturePair (w : Wave) (act : Word) (r j : Nat) (m : Map Word) : Map Word :=
  (lanesOf act).foldl (fun m l => Tab.set 0 (Tab.set 0 m (dataKey j l) (rdS w r)) (dataKey (j + 1) l) (rdS w (r + 1))) m

/-- A layer word: pixel and `n` registers of vb, and the second pair when `tex`. -/
def lyWord (i : Instr) (x : LXWord) (n : Nat) (tex : Bool) (s : State) : Out :=
  onLane s x.guard.toNat (fun w t _ act =>
    let d := capture s w act x.vb.toNat n 2 (capture s w act x.va.toNat 2 0 [])
    let d' := if tex then capturePair w act (x.sbase.toNat + 2) 6 d else d
    issueOp lyLane s w x.stop (newOp w t i act (laneAddrs act (fun _ => rdP w x.sbase.toNat)) d'))

/-- `LYINS` (R400). -/
def execLyins (w : LXWord) (s : State) : Out := lyWord (.lyins w) w 4 false s
/-- `LYREAD` (R400). -/
def execLyread (w : LXWord) (s : State) : Out := lyWord (.lyread w) w 0 false s
/-- `LYRESOLVE` (R400, R401). -/
def execLyresolve (w : LXWord) (s : State) : Out := lyWord (.lyresolve w) w 4 true s
/-- `LYCLEAR` (R400). -/
def execLyclear (w : LXWord) (s : State) : Out := lyWord (.lyclear w) w 0 false s

/-! ## LYCFG (R402) -/

/-- A virtual page has a valid, writable, local leaf. -/
def poolPage (s : State) (c : CtxDesc) (va : Nat) : Bool :=
  match walk s.mem c.ptRoot va with
  | some l => bit l.word 5 && pteHome l.word == 0
  | none => false

/-- Consecutive good pages from an address, at most `n`. -/
def poolPages (s : State) (c : CtxDesc) (va : Nat) : Nat → Nat
  | 0 => 0
  | n + 1 => if poolPage s c va then poolPages s c (va + 65536) n + 1 else 0

/-- Reach `n` lines from an address for a write, then go on with their keys. -/
def sLines (s : State) (w : Wave) (f : Frag) (va : Nat) : Nat → List Nat → (State → List Nat → Out) → Out
  | 0, keys, yes => yes s keys
  | n + 1, keys, yes =>
    sAccess s w f (BitVec.ofNat 64 va) 128 .update (fun t k => sLines t w f (va + 128) n (k :: keys) yes)

/-- Clear the headers: whole lines, and the bytes of the last line that the array fills. -/
def clearHeads (s : State) (w : Wave) (keys : List Nat) (last : Nat) : State :=
  match keys with
  | [] => s
  | k :: rest => (rest.foldl (fun t k => storeNum t w.core k 128 0) (storeNum s w.core k last 0))

/-- `LYCFG` (R402). -/
def execLycfg (d a : SReg) (form : LyForm) (s : State) : Out :=
  onFrag s (fun w f =>
    let va := rdP w a.toNat
    if va.toNat % 64 ≠ 0 then trapS s w f .misalign va
    else
      sRead s w f va 64 (fun t0 n =>
        match (ctxOf t0 (ctxIdOf t0 w.gid)) with
        | none => .next t0
        | some c =>
          match layeredOf c.desc n with
          | none => illegalS t0 w f
          | some t =>
            match form with
            | .query => 
              sAccess t0 w f (BitVec.ofNat 64 t.hdr) 128 .pull (fun u key =>
                match poolState (ofBytes (loadBytes u w.core key 128)) with
                | some p => done u (wrS w d.toNat (BitVec.ofNat 32 p.live)) f
                | none => illegalS u w f)
            | .grow =>
              sUpdate t0 w f (BitVec.ofNat 64 t.hdr) 128 (fun u key =>
                match poolState (ofBytes (loadBytes u w.core key 128)) with
                | none => illegalS u w f
                | some p =>
                  if p.pages < t.maxPages ∧ poolPage u c.desc (t.pool + 65536 * p.pages) then
                    done (storeNum u w.core key 16 (poolNum { p with pages := p.pages + 1 }))
                      (wrS (acted u w) d.toNat (BitVec.ofNat 32 (p.pages + 1))) f
                  else done u (wrS w d.toNat 0xFFFFFFFF) f)
            | .init =>
              let bytes := 4 * t.width * t.height
              let n := ceilDiv bytes 128
              sUpdate t0 w f (BitVec.ofNat 64 t.hdr) 128 (fun u key =>
                sLines u w f (t.hdr + 128) n [] (fun u keys =>
                  let pages := poolPages u c.desc t.pool t.maxPages
                  let v := storeNum (clearHeads u w keys (bytes - 128 * (n - 1))) w.core key 16
                    (poolNum { pages := pages, used := 0, freeHead := 0, live := 0 })
                  done v (wrS (acted v w) d.toNat (BitVec.ofNat 32 pages)) f))))

end Sys2Proof.Machine
end

