-- ==== Sys2Proof/Machine/Matrix.lean ====
section
/-! DEFINITION. Machine/Matrix.lean: format blocks (R63 to R66), matrix steps (R67, R68, R331 to R334), `MMA` (R336),
`MLOOP` (R350, R351) and `VMM` (R69, R352). -/

namespace Sys2Proof.Machine

/-! ## The format block (R64, R65) -/

/-- A format block. -/
structure Fmt where
  aAddr : Nat
  bAddr : Nat
  aStride : Nat
  bStride : Nat
  aType : LType
  aBlock : Nat
  aFtz : Bool
  bType : LType
  bBlock : Nat
  bFtz : Bool
  out : LType
  rnd : Nat
  sat : Bool
  deriving DecidableEq, Repr

/-- A type that may be block-scaled. -/
def blockType (t : LType) : Bool := t == .f8e4 || t == .f8e5 || t == .dx8

/-- The format block of its 32 bytes, none when it breaks R64 or R65. The out_rnd codes 5 to 7 are refused (DESIGN CHOICE, log 16: R65 states
no fate for them; R35 calls them reserved). -/
def fmtOf (x : Nat) : Option Fmt :=
  match ltypeOf (bits x 199 192), ltypeOf (bits x 215 208), ltypeOf (bits x 231 224) with
  | some ta, some tb, some td =>
    let f : Fmt :=
      { aAddr := bits x 56 0, bAddr := bits x 120 64, aStride := bits x 159 128, bStride := bits x 191 160, aType := ta,
        aBlock := bits x 201 200, aFtz := bit x 202, bType := tb, bBlock := bits x 217 216, bFtz := bit x 218, out := td,
        rnd := bits x 234 232, sat := bit x 235 }
    let ok := bits x 63 57 == 0 && bits x 127 121 == 0 && bits x 207 203 == 0 && bits x 223 219 == 0 && bits x 255 236 == 0
      && [LType.f64, .f32, .f16, .bf16, .f8e4, .f8e5].contains ta && [LType.f64, .f32, .f16, .bf16, .f8e4, .f8e5, .dx8].contains tb
      && [LType.f32, .f16, .bf16, .f8e4, .f8e5, .i8, .n8].contains td && decide (f.rnd ≤ 4)
      && (f.aBlock == 0 || blockType ta) && (f.bBlock == 0 || blockType tb)
    if ok then some f else none
  | _, _, _ => none

/-- K of one step for a pair of element types (R67, R332). -/
def stepK (ta tb : LType) : Nat := (mmaRegs ta tb).getD 0 * 4 / (ltypeBits ta / 8)

/-- Elements that share a scale (R63). -/
def blockLen (b : Nat) : Nat := 8 * 2 ^ b

/-- An element's value, its subnormal flushed when asked (R64). -/
def mxElem (t : LType) (ftz : Bool) (x : Nat) : FVal :=
  match readF t x with
  | .fin n m e => if ftz && t != .dx8 && decide (m < 2 ^ fracBits t) then .fin n 0 0 else .fin n m e
  | v => v

/-- Element `k` of packed words: `rd j` is the word `j` (R332). -/
def packedElem (t : LType) (k : Nat) (rd : Nat → Nat) : Nat :=
  if is64 t then rd (2 * k) + 2 ^ 32 * rd (2 * k + 1)
  else
    let n := ltypeBits t / 8
    rd (k * n / 4) / 2 ^ (8 * (k * n % 4)) % 2 ^ ltypeBits t

/-! ## A step (R63, R67, R68) -/

/-- Read bytes at the given addresses; an address that is not given reads as scale 1. -/
def readScales (rd : State → Nat → State × Except (Nat × AccRes) Nat) (s : State) :
    List (Option Nat) → State × Except (Nat × AccRes) (List Nat)
  | [] => (s, .ok [])
  | none :: rest =>
    match readScales rd s rest with
    | (t, .ok l) => (t, .ok (127 :: l))
    | r => r
  | some a :: rest =>
    match rd s a with
    | (t, .error e) => (t, .error e)
    | (t, .ok b) =>
      match readScales rd t rest with
      | (u, .ok l) => (u, .ok (b :: l))
      | r => r

/-- Addresses of the scales of `n` rows for K elements from `k0` on: row by row, block by block (R63). -/
def scaleAddrs (base stride block n k0 kk : Nat) (act : Nat → Bool) : List (Option Nat) :=
  if block = 0 then []
  else
    let b0 := k0 / blockLen block
    let b1 := (k0 + kk - 1) / blockLen block
    (List.range n).flatMap (fun m => (List.range (b1 + 1 - b0)).map (fun j =>
      if act m then some ((base + m * stride + b0 + j) % 2 ^ 64) else none))

/-- The scale of element `k0 + k` of row `m` among those read. -/
def scaleAt (l : List Nat) (block k0 kk m k : Nat) : FVal :=
  if block = 0 then .fin false 1 0
  else
    let b0 := k0 / blockLen block
    let nb := (k0 + kk - 1) / blockLen block + 1 - b0
    readF .e8 (l.getD (m * nb + ((k0 + k) / blockLen block - b0)) 127)

/-- What supplies a step: element bits of A by row and k and of B by column and k, and the rows that something supplies. -/
structure Supply where
  a : Nat → Nat → Nat
  b : Nat → Nat → Nat
  act : Nat → Bool

/-- An element of row `m` of a step: +0, whatever the format, where nothing supplies the row (R331, R432). -/
def supplied (x : Supply) (m : Nat) (v : FVal) : FVal := if x.act m then v else .fin false 0 0

/-- The staging values after one step (R67). -/
def stepVals (t : Team) (f : Fmt) (kk k0 : Nat) (x : Supply) (sa sb : List Nat) : Map DWord :=
  let n := teamSide t
  let ty := teamType t
  let row (m : Nat) : List FVal := (List.range kk).map (fun k =>
    fMul (supplied x m (mxElem f.aType f.aFtz (x.a m k))) (scaleAt sa f.aBlock k0 kk m k))
  let col (c : Nat) : List FVal := (List.range kk).map (fun k =>
    fMul (supplied x c (mxElem f.bType f.bFtz (x.b c k))) (scaleAt sb f.bBlock k0 kk c k))
  let cols := (List.range n).map col
  (List.range n).foldl (fun out m =>
    let r := row m
    (cols.zip (List.range n)).foldl (fun out c =>
      let i := n * m + c.2
      let v := roundF ty 0 false (fSum 0 (readF ty (Tab.get 0 t.vals i).toNat :: (r.zip c.1).map (fun p => fMul p.1 p.2)))
      Tab.set 0 out i (BitVec.ofNat 64 v)) out) t.vals

/-- Form one step: its scales are read first (R66, R67). -/
def matrixStep (rd : State → Nat → State × Except (Nat × AccRes) Nat) (s : State) (t : Team) (f : Fmt) (k0 : Nat) (x : Supply) :
    State × Except (Nat × AccRes) Team :=
  let kk := stepK f.aType f.bType
  match readScales rd s (scaleAddrs f.aAddr f.aStride f.aBlock (teamSide t) k0 kk x.act) with
  | (s1, .error e) => (s1, .error e)
  | (s1, .ok sa) =>
    match readScales rd s1 (scaleAddrs f.bAddr f.bStride f.bBlock (teamSide t) k0 kk x.act) with
    | (s2, .error e) => (s2, .error e)
    | (s2, .ok sb) =>
      (s2, .ok { t with vals := stepVals t f kk k0 x sa sb, steps := t.steps + 1, stamp := s2.stamp })

/-! ## Staging (R334, R335) -/

/-- Bytes of a staging state. -/
def stagingBytes (t : Team) : Nat := 128 * teamLines t

/-- Staging states in the buffer of a core, other than a team's own. -/
def stagedOthers (s : State) (core : Nat) (t : Team) : List Team :=
  (coreOf s core).teams.filter (fun x => !(x.gid == t.gid && x.team == t.team) && !x.parked && x.steps != 0)

/-- The least recently stepped of some teams. -/
def oldestTeam : List Team → Option Team
  | [] => none
  | a :: rest =>
    match oldestTeam rest with
    | none => some a
    | some b => if a.stamp ≤ b.stamp then some a else some b

/-- Make room in the 256 KiB buffer by parking the least recently stepped states (R335). -/
def makeRoom (fuel : Nat) (s : State) (core : Nat) (t : Team) : State :=
  match fuel with
  | 0 => s
  | fuel + 1 =>
    let l := stagedOthers s core t
    if 262144 < (l.map stagingBytes).foldl (· + ·) (stagingBytes t) then
      match oldestTeam l with
      | none => s
      | some x => let p := parkTeam s x; makeRoom fuel (putTeam p.1 core p.2) core t
    else s

/-- The staging state is flushed before an operation on another tile or format block (R334), and before one whose block now names the other
width (DESIGN CHOICE, log 16: R334 lists no flush for a change between `F32` and `F64` work at one block address). -/
def flushFirst (t : Team) (tile fmtAddr : DWord) (wide : Bool) : Bool :=
  t.steps != 0 && (t.tile != tile || t.fmtAddr != fmtAddr || t.is64 != wide)

/-- The staging state takes an operation's tile and format block, in the buffer. -/
def stageFor (s : State) (core : Nat) (t : Team) (tile fmtAddr : DWord) (fmt : BitVec 256) (wide : Bool) : State × Team :=
  let p := unparkTeam s { t with tile := tile, fmtAddr := fmtAddr, fmt := fmt, is64 := wide }
  let s1 := { p.1 with stamp := p.1.stamp + 1 }
  (makeRoom 64 s1 core p.2, p.2)

/-- Skip the rest of a refused flush: the partials are discarded and the accumulator is `FAULTED` (R336, R351). -/
def dropFlush (s : State) (t : Team) (c : Cause) : State × Team :=
  let s1 := match accAt s (ctxIdOf s t.gid) t.tile.toNat with
    | some (k, _) => accFault s k c
    | none => s
  (s1, { clearTeam t with stop := .none })

/-! ## Members -/

/-- The head word of a member. -/
def headOf (m : Member) : Option TeamWord := m.words.head?

/-- The member of lowest `WAVEID`. -/
def member0 (t : Team) : Option Member :=
  t.members.foldl (fun best m => match best with
    | none => some m
    | some b => if m.wave < b.wave then some m else best) none

/-- The member of place `i` (R332). -/
def memberAt (t : Team) (i : Nat) : Option Member := t.members.find? (fun m => m.wave % t.size == i)

/-- Every member has its next word. -/
def teamReady (t : Team) : Bool := t.members.length == t.size && t.members.all (fun m => m.words != [])

/-- A member joins the team's next operation. -/
def joinTeam (s : State) (w : Wave) (x : TeamWord) : State :=
  let t := (teamOf s w.core w.gid (teamIdxOf w)).getD (teamInit w.gid (teamIdxOf w) (teamSizeOf w))
  let wv := w.ident.waveid.toNat
  let ms := if t.members.any (fun m => m.wave == wv) then
      t.members.map (fun m => if m.wave == wv then { m with words := m.words ++ [x] } else m)
    else t.members ++ [{ wave := wv, core := w.core, slot := w.slot, words := [x] }]
  putTeam s w.core { t with members := ms }

/-- The members' head words are done. -/
def popHeads (t : Team) : Team := { t with members := t.members.map (fun m => { m with words := m.words.drop 1 }) }

/-- Settle the `MMA` heads of every member. -/
def settleHeads (s : State) (t : Team) : State :=
  t.members.foldl (fun a m => match headOf m with
    | some (.mma opId _ _ _ _ _ _ _ _ _) => settleMma a t.gid m.wave opId
    | _ => a) s

/-- Post a record for the loops among the heads. -/
def endLoops (s : State) (core : Nat) (t : Team) (status cause va : Nat) : State :=
  t.members.foldl (fun a m => match headOf m with
    | some (.mloop h) => endLoop a core h status cause va
    | _ => a) s

/-- Element bits that a member's registers supply; an inactive lane or a member without registers has none (R331, R332). -/
def regElem (s : State) (t : Team) (ofA : Bool) (m k : Nat) : Nat :=
  match memberAt t (m / 32) with
  | none => 0
  | some mb =>
    match headOf mb, waveOf s t.gid mb.wave with
    | some (.mma _ ta tb _ _ _ _ act va vb), some w =>
      if act.getLsbD (m % 32) then
        packedElem (if ofA then ta else tb) k (fun j => (rdV s w ((if ofA then va else vb) + j) (m % 32)).toNat)
      else 0
    | _, _ => 0

/-- The lane of a row is active. -/
def rowActive (t : Team) (m : Nat) : Bool :=
  match (memberAt t (m / 32)).bind headOf with
  | some (.mma _ _ _ _ _ _ _ act _ _) => act.getLsbD (m % 32)
  | _ => false

/-- What the members' registers supply, read as member 0's types. -/
def regSupply (s : State) (t : Team) (f : Fmt) : Supply :=
  { a := fun m k => regElem s t true m k % 2 ^ ltypeBits f.aType, b := fun n k => regElem s t false n k % 2 ^ ltypeBits f.bType,
    act := rowActive t }

/-- A member's `MMA` reports a fault in its active lanes; without an active lane the mask is 0 (R336). -/
def markMma (s : State) (gid wv opId : Nat) (act : Word) (c : Cause) (a : DWord) : State :=
  match waveOf s gid wv with
  | none => s
  | some w =>
    let l := if act = 0 then [(32, c, a)] else (lanesOf act).map (fun l => (l, c, a))
    putWave s { w with ops := w.ops.map (fun o => if o.id == opId then { o with faults := l, pendingAnswers := 0 } else o)
                       trap := if w.trap == .none then .pending else w.trap }

/-- The team stops: every member whose word is an `MMA` reports the fault (R336). -/
def stopTeam (s : State) (core : Nat) (t : Team) (x : TeamStop) (c : Cause) (a : DWord) : State :=
  let s1 := t.members.foldl (fun u m => match headOf m with
    | some (.mma opId _ _ _ _ _ _ act _ _) => markMma u t.gid m.wave opId act c a
    | _ => u) s
  let wait := t.members.filterMap (fun m => match headOf m with
    | some (.mma _ _ _ _ _ _ _ _ _ _) => some m.wave
    | _ => none)
  putTeam s1 core { t with stop := x, waiting := wait, skipped := false }

/-- How an attempt of a team comes out. -/
inductive TeamRes where
  | next (s : State)
  | hole
  deriving DecidableEq, Repr

/-- The end of an `MMA` operation after its step: the flush it calls for, then every member's word settles. -/
def mmaFinish (s : State) (core : Nat) (t : Team) (flush : Bool) : State :=
  let fin (u : State) (t : Team) : State := putTeam (settleHeads u t) core (popHeads { t with stop := .none, waiting := [], skipped := false })
  if flush || decide (256 ≤ t.steps) || t.unsent != [] then
    match flushTeam s t with
    | (u, t', none) => fin u t'
    | (u, t', some c) => stopTeam u core t' (.flush c) c t'.tile
  else fin s t

/-- The read of a scale byte by a team's first member (R66). -/
def scaleRead (w : Wave) (s : State) (a : Nat) : State × Except (Nat × AccRes) Nat :=
  match access s w.core w.slot (ctxIdOf s w.gid) w.priv a 1 .pull false with
  | (t, .ok key) => (t, .ok (ofBytes (engBytes t w.core key 1)))
  | (t, r) => (t, .error (a, r))

/-- Run an `MMA` operation from its flush on (R334, R336). -/
def mmaRun (s : State) (core : Nat) (t : Team) (w : Wave) (tile fmtAddr : DWord) (fmt : BitVec 256) (flush : Bool) : TeamRes :=
  match fmtOf fmt.toNat with
  | none => .next s
  | some f =>
    let wide := f.aType == .f64
    let pre := if flushFirst t tile fmtAddr wide then (let p := unparkTeam s t; flushTeam p.1 p.2) else (s, t, none)
    match pre with
    | (s1, t1, some c) => .next (stopTeam s1 core t1 (.flush c) c t1.tile)
    | (s1, t1, none) =>
      let p := stageFor s1 core t1 tile fmtAddr fmt wide
      match matrixStep (scaleRead w) p.1 p.2 f 0 (regSupply p.1 p.2 f) with
      | (s2, .ok t2) => .next (mmaFinish s2 core t2 flush)
      | (s2, .error (a, .fault c)) =>
        let s3 := if c = .reservedTouch then claimPage s2 (ctxIdOf s2 w.gid) (a / 65536) w.core w.slot else s2
        .next (stopTeam s3 core p.2 (.scale c (BitVec.ofNat 64 a)) c (BitVec.ofNat 64 a))
      | (s2, .error (_, .miss pg)) => .next (batchMiss (putTeam s2 core p.2) (waveUnit w.core w.slot) pg (ctxIdOf s2 w.gid))
      | (_, .error (_, .hole)) => .hole
      | (s2, .error _) => .next (putTeam s2 core p.2)

/-! ## Loops (R350, R351) -/

/-- A loop's descriptor. -/
structure LoopDesc where
  aOff : Nat
  bOff : Nat
  aInc : Int
  bInc : Int
  steps : Nat
  tile : Nat
  fmt : Nat
  deriving DecidableEq, Repr

/-- The fields of a loop's descriptor (R350). -/
def loopDesc (r : Nat) : LoopDesc :=
  { aOff := bits r 31 0, bOff := bits r 63 32, aInc := sgn 32 (bits r 95 64), bInc := sgn 32 (bits r 127 96),
    steps := bits r 143 128, tile := bits r 248 192, fmt := bits r 312 256 }

/-- The descriptor keeps its map (R350). -/
def loopValid (r : Nat) : Bool :=
  bits r 191 144 == 0 && bits r 255 249 == 0 && bits r 319 313 == 0 && bits r 511 384 == 0 && bits r 143 128 != 0

/-- The scratch span of an operand: lowest byte and end (R351). -/
def loopSpan (off : Nat) (inc : Int) (steps rowBytes side : Nat) : Int × Int :=
  let last : Int := off + (steps - 1 : Nat) * inc
  (min (off : Int) last, max (off : Int) last + (side * rowBytes : Nat))

/-- What a loop's step takes from scratch (R351). -/
def loopSupply (s : State) (t : Team) (d : LoopDesc) (f : Fmt) (u : Nat) : Supply :=
  let scr := ((groupOf s t.gid).map (·.scratch)).getD []
  let kk := stepK f.aType f.bType
  let el (ty : LType) (off : Nat) (inc : Int) (m k : Nat) : Nat :=
    let n := ltypeBits ty / 8
    readNum scr (((off : Int) + u * inc).toNat + m * (kk * n) + k * n) n
  { a := el f.aType d.aOff d.aInc, b := el f.bType d.bOff d.bInc, act := fun _ => true }

/-- The read of a scale byte by a loop. -/
def loopScale (o : EngOp) (s : State) (a : Nat) : State × Except (Nat × AccRes) Nat :=
  match engAccess s o a 1 .pull with
  | (t, .ok key) => (t, .ok (ofBytes (engBytes t o.core key 1)))
  | (t, r) => (t, .error (a, r))

/-- Run a loop from its progress until it ends or stops (R334, R351). -/
def loopGo (fuel : Nat) (s : State) (core : Nat) (t : Team) (o : EngOp) (d : LoopDesc) (f : Fmt) : State × Team × EngOp × EngRun :=
  match fuel with
  | 0 => (s, t, o, .wait)
  | fuel + 1 =>
    let wide := f.aType == .f64
    let tile := BitVec.ofNat 64 d.tile
    let fa := BitVec.ofNat 64 d.fmt
    let flush := t.unsent != [] || decide (256 ≤ t.steps) || flushFirst t tile fa wide || (decide (d.steps ≤ o.elem) && t.steps != 0)
    if flush then
      let p := unparkTeam s t
      match flushTeam p.1 p.2 with
      | (u, t1, none) => loopGo fuel u core t1 o d f
      | (u, t1, some c) => (u, { t1 with stop := .flush c }, o, .fault t1.tile.toNat c)
    else if d.steps ≤ o.elem then (s, t, o, .over)
    else
      let p := stageFor s core t tile fa o.fmt wide
      match matrixStep (loopScale o) p.1 p.2 f (o.elem * stepK f.aType f.bType) (loopSupply p.1 p.2 d f o.elem) with
      | (u, .ok t1) => loopGo fuel u core t1 { o with elem := o.elem + 1, written := o.elem + 1 } d f
      | (u, .error (a, r)) => (u, p.2, o, engStop a r)

/-- Go on with the loop of member 0; over: every member's record is posted and the team goes on (R351). -/
def loopAdvance (s : State) (core : Nat) (t : Team) (slot : Nat) (o : EngOp) (complete : Bool) : TeamRes :=
  let d := loopDesc o.desc.toNat
  match fmtOf o.fmt.toNat with
  | none => .next s
  | some f =>
    match loopGo (3 * d.steps + 16) s core t { o with st := .running, missPage := none } d f with
    | (u, t1, p, .over) =>
      let u1 := putOp u core slot p
      if complete then
        let u2 := { u1 with cores := Map.mapVals u1.cores (fun _ c => { c with ops := Map.mapVals c.ops (fun i x =>
          if t1.members.any (fun m => headOf m == some (.mloop (engHandle x i).toNat)) && x.gid == t1.gid then
            { x with written := d.steps } else x) }) }
        .next (putTeam (endLoops u2 core t1 0 0 0) core (popHeads { t1 with stop := .none }))
      else .next (putTeam u1 core t1)
    | (u, t1, p, .fault va c) => .next (putTeam (putOp u core slot { p with failPage := some va, failCause := some c }) core t1)
    | (u, t1, p, .miss pg) => .next (putTeam (engMiss u core slot p pg) core t1)
    | (u, t1, p, .wait) => .next (putTeam (putOp u core slot p) core t1)
    | (_, _, _, .hole) => .hole

/-- A loop that is gone: the others' words are done with it, and what a refused flush has sent leaves the staging. -/
def dropLoop (s : State) (core : Nat) (t : Team) (status cause va : Nat) : State :=
  let t1 := if t.unsent = [] then t else { t with vals := t.vals.filter (fun e => t.unsent.contains e.1), unsent := [] }
  putTeam (endLoops (settleHeads s t) core t status cause va) core (popHeads { t1 with stop := .none })

/-- The live loop of member 0. -/
def leadLoop (s : State) (core : Nat) (h : Nat) : Option (Nat × EngOp) :=
  match Map.find (coreOf s core).ops (h % 1024) with
  | some o => if (engHandle o (h % 1024)).toNat = h then some (h % 1024, o) else none
  | none => none

/-! ## The events -/

/-- An outcome of a team's attempt. -/
def teamOut : TeamRes → Out
  | .next s => .next s
  | .hole => .fault .physicalHole

/-- `TEAM_OP_START` (R331, R334). -/
def execTeamOpStart (core gid team : Nat) (s : State) : Out :=
  match teamOf s core gid team with
  | none => .next s
  | some t =>
    if t.dissolved || t.stop != .none || !teamReady t || swappedOut s gid then .next s
    else
      match member0 t with
      | none => .next s
      | some m0 =>
        match headOf m0, waveOf s gid m0.wave with
        | some (.mma _ _ _ tile fa fmt flush _ _ _), some w =>
          teamOut (mmaRun (endLoops s core t 1 0 0) core t w tile fa fmt flush)
        | some (.mloop h), _ =>
          (match leadLoop s core h with
           | none => .next (dropLoop s core t 1 0 0)
           | some (slot, o) =>
             if o.st = .issued ∧ !lockedOut (coreOf s core) slot then teamOut (loopAdvance (settleHeads s t) core t slot o false)
             else .next s)
        | _, _ => .next s

/-- The team whose leading word is a loop's operation. -/
def teamOfLoop (s : State) (core slot : Nat) (o : EngOp) : Option Team :=
  (coreOf s core).teams.find? (fun t => t.gid == o.gid && (member0 t).bind headOf == some (.mloop (engHandle o slot).toNat))

/-- `MLOOP_COMPLETE` (R351). -/
def execMloopComplete (core op : Nat) (s : State) : Out :=
  match opAt s core op with
  | none => .next s
  | some o =>
    match teamOfLoop s core op o with
    | none => .next s
    | some t => if o.kind = .mloop ∧ engRuns s o ∧ o.failCause.isNone then teamOut (loopAdvance s core t op o true) else .next s

/-- A handler resumes a parked loop (R321, R351). -/
def loopRetry (s : State) (core op : Nat) : State :=
  match Map.find (coreOf s core).ops op with
  | none => s
  | some o =>
    let s1 := putOp s core op { o with st := .running, failPage := none, failCause := none }
    match teamOfLoop s core op o with
    | none => s1
    | some t => putTeam s1 core { t with stop := .none }

/-- A handler skips a parked loop: `FAILED`, and for a refused flush the accumulator too (R351). -/
def loopSkip (s : State) (core op : Nat) : State :=
  match Map.find (coreOf s core).ops op with
  | none => s
  | some o =>
    match teamOfLoop s core op o with
    | none => s
    | some t =>
      let p := match t.stop with
        | .flush c => dropFlush s t c
        | _ => (s, t)
      dropLoop p.1 core p.2 2 ((o.failCause.map causeCode).getD 0) (o.failPage.getD 0)

/-- Every member has returned from a stopped `MMA` (R336): a skip discards the flush or the step, else it is tried
again. -/
def teamResume (s : State) (core : Nat) (t : Team) : TeamRes :=
  match (member0 t).bind headOf, (member0 t).bind (fun m => waveOf s t.gid m.wave) with
  | some (.mma _ _ _ tile fa fmt flush _ _ _), some w =>
    let wide := (fmtOf fmt.toNat).map (·.aType) == some .f64
    let t0 := { t with stop := .none, waiting := [], skipped := false }
    match t.stop with
    | .none => .next s
    | .scale _ _ =>
      if t.skipped then .next (putTeam (settleHeads s t0) core (popHeads t0)) else mmaRun s core t0 w tile fa fmt flush
    | .flush c =>
      let p := if t.skipped then dropFlush s t0 c else (s, t0)
      if flushFirst t0 tile fa wide then mmaRun p.1 core p.2 w tile fa fmt flush
      else if t.skipped then .next (putTeam (settleHeads p.1 p.2) core (popHeads p.2))
      else .next (mmaFinish p.1 core p.2 true)
  | _, _ => .next s

/-- A member returns from the trap of its `MMA` (R336). -/
def teamReturn (s : State) (core gid wv opId : Nat) (skip : Bool) : TeamRes :=
  let isHead (m : Member) : Bool := m.wave == wv && (match headOf m with
    | some (.mma i _ _ _ _ _ _ _ _ _) => i == opId
    | _ => false)
  match (coreOf s core).teams.find? (fun t => t.gid == gid && t.members.any isHead && t.waiting.contains wv) with
  | none => .next (settleMma s gid wv opId)
  | some t =>
    let t1 := { t with waiting := t.waiting.filter (· != wv), skipped := t.skipped || skip }
    if t1.waiting = [] then teamResume s core t1 else .next (putTeam s core t1)

/-! ## The words -/

/-- Read a format block at issue (R66); a fault of the read is one of the word, before it joins its operation. -/
def withFmt (s : State) (w : Wave) (t : Strip) (act : Word) (a : DWord) (k : State → Nat → Out) : Out :=
  if a.toNat % 32 ≠ 0 then laneStop s w t act .misalign a
  else
    match access s w.core w.slot (ctxIdOf s w.gid) w.priv a.toNat 32 .pull false with
    | (u, .ok key) => k u (ofBytes (engBytes u w.core key 32))
    | (u, .fault c) =>
      laneStop (if c = .reservedTouch then claimPage u (ctxIdOf u w.gid) (a.toNat / 65536) w.core w.slot else u) w t act c a
    | (u, .miss pg) => .next (yieldPage u w.core w.slot (ctxIdOf u w.gid) pg)
    | (u, .claimed v) => .next (yieldOnClaim u w.core w.slot v)
    | (u, .wait) => .next u
    | (_, .hole) => .fault .physicalHole

/-- `MMA` (R336): it joins its team's next operation; a dissolved team's word settles with no effect (R331). -/
def execMma (x : LXWord) (s : State) : Out :=
  onLane s x.guard.toNat (fun w t _ act =>
    let tb := (ltypeOf x.aux.toNat).getD .f32
    if teamSizeOf w = 0 then illegalL s w t act
    else
      withFmt s w t act (rdP w (x.sbase.toNat + 2)) (fun u n =>
        match fmtOf n with
        | none => illegalL u w t act
        | some f =>
          if f.aType ≠ x.ty ∨ f.bType ≠ tb then illegalL u w t act
          else
            let o := newOp w t (.mma x) act [] []
            if (teamOf u w.core w.gid (teamIdxOf w)).any (·.dissolved) then issueDone u w x.stop o []
            else
              let u1 := putWave u (spinReset u { w with nextOp := w.nextOp + 1, ops := w.ops ++ [{ o with pendingAnswers := 1 }] })
              let m : TeamWord := .mma o.id x.ty tb (rdP w x.sbase.toNat) (rdP w (x.sbase.toNat + 2)) (BitVec.ofNat 256 n)
                (x.imm24.getLsbD 0) act x.va.toNat x.vb.toNat
              .next (laneDone (joinTeam u1 w m) w.core w.slot x.stop)))

/-- `MLOOP` (R351). -/
def execMloop (d a : SReg) (q : BitVec 2) (s : State) : Out :=
  onFrag s (fun w f =>
    let va := rdP w a.toNat
    if va.toNat % 64 ≠ 0 then trapS s w f .misalign va
    else
      sRead s w f va 64 (fun s1 r =>
        let l := loopDesc r
        if teamSizeOf w = 0 ∨ !loopValid r then illegalS s1 w f
        else if l.fmt % 32 ≠ 0 then trapS s1 w f .misalign (BitVec.ofNat 64 l.fmt)
        else
          sRead s1 w f (BitVec.ofNat 64 l.fmt) 32 (fun s2 n =>
            match fmtOf n with
            | none => illegalS s2 w f
            | some fb =>
              if (mmaRegs fb.aType fb.bType).isNone then illegalS s2 w f
              else
                let kk := stepK fb.aType fb.bType
                let side := 32 * teamSizeOf w
                let sa := loopSpan l.aOff l.aInc l.steps (kk * (ltypeBits fb.aType / 8)) side
                let sb := loopSpan l.bOff l.bInc l.steps (kk * (ltypeBits fb.bType / 8)) side
                let size : Int := (((groupOf s2 w.gid).map (·.scratchBytes)).getD 0 : Nat)
                if sa.1 < 0 ∨ sb.1 < 0 ∨ size < sa.2 ∨ size < sb.2 then trapS s2 w f .protect 0
                else
                  match freeOpSlot (coreOf s2 w.core) with
                  | none => blocked s2 w f .engineSlot
                  | some slot =>
                    let o := { engNew s2 w .mloop q.toNat (BitVec.ofNat 512 r) va.toNat with
                      fmt := BitVec.ofNat 256 n, team := teamIdxOf w }
                    let rs : List XRange := [{ scr := true, lo := sa.1.toNat, hi := sa.2.toNat, dst := false },
                      { scr := true, lo := sb.1.toNat, hi := sb.2.toNat, dst := false }]
                    let p := takeSlot s2 w.core slot o rs
                    let w1 := acted p.1 (wrS w d.toNat p.2)
                    if (teamOf p.1 w.core w.gid (teamIdxOf w)).any (·.dissolved) then
                      -- a dissolved team's loop is cancelled at once (R331)
                      match done p.1 w1 f with
                      | .next u => .next (endLoop u w.core p.2.toNat 1 0 0)
                      | r => r
                    else done (joinTeam p.1 w (.mloop p.2.toNat)) w1 f)))

/-! ## VMM (R69, R352) -/

/-- Key of word `j` of the format block among a `VMM`'s captured words. -/
def fmtKey (j : Nat) : Nat := dataKey (512 + j) 0

/-- The format block that a `VMM` captured. -/
def capturedFmt (o : LaneOp) : Nat := ((List.range 8).map (fun j => (Tab.get 0 o.data (fmtKey j)).toNat * 2 ^ (32 * j))).foldl (· + ·) 0

/-- One lane of `VMM`. With out_type `F32` and out_sat = 1 an infinite sum is delivered as the largest finite value (DESIGN CHOICE, log 16:
R57 replaces infinity, R69 says that a second rounding to `F32` does not change the value). -/
def vmmLane (w : Wave) (x : LXWord) (o : LaneOp) (l : Nat) : LaneM (List RegWrite) := do
  let kk := (x.imm24.extractLsb' 0 7).toNat
  let nn := (x.imm24.extractLsb' 7 5).toNat + 1
  match fmtOf (capturedFmt o) with
  | none => pure []
  | some f => do
    let out (i v : Nat) : List RegWrite := elemWrites f.out (x.vd.toNat + i) l v
    let a := opAddr o l
    if a = 0 then pure ((List.range nn).flatMap (fun i => out i 0))
    else if a.toNat % 64 ≠ 0 then laneEnd (.fault .misalign a)
    else do
      let size := ltypeBits f.bType / 8
      let act (k : Nat) : FVal := mxElem f.aType f.aFtz (packedElem f.aType k (fun j => (opData o j l).toNat))
      (List.range nn).foldlM (fun (acc : List RegWrite) i => do
        let terms ← (List.range kk).foldlM (fun (ts : List FVal) k => do
          let e ← lanePull w (a + BitVec.ofNat 64 ((k * nn + i) * size)) size
          pure (fMul (act k) (mxElem f.bType f.bFtz e) :: ts)) []
        let r := roundF .f32 0 false (fSum 0 terms)
        pure (acc ++ out i (convert f.out .f32 f.rnd f.sat r))) []

/-- How a lane of a `VMM` performs. -/
def vmmPerform (o : LaneOp) (l : Nat) (s : State) : State × LaneRes :=
  match waveAt s s.cur.core s.cur.slot, o.word with
  | some w, .vmm x => laneRun (vmmLane w x o l) s
  | _, _ => (s, .ok [])

/-- `VMM` (R352). -/
def execVmm (x : LXWord) (s : State) : Out :=
  onLane s x.guard.toNat (fun w t _ act =>
    withFmt s w t act (rdP w x.sbase.toNat) (fun u n =>
      match fmtOf n with
      | none => illegalL u w t act
      | some f =>
        if f.aType ≠ x.ty ∨ some f.bType ≠ ltypeOf x.aux.toNat ∨ f.aBlock ≠ 0 ∨ f.bBlock ≠ 0 then illegalL u w t act
        else
          let ptr (l : Nat) : DWord :=
            if x.nov then rdP w (x.sbase.toNat + 2) else BitVec.ofNat 64 (rdVP u w x.vb.toNat l)
          let d := capture u w act x.va.toNat (vmmRegs x) 0 []
          let d' := (List.range 8).foldl (fun m j => Tab.set 0 m (fmtKey j) (BitVec.ofNat 32 (n / 2 ^ (32 * j)))) d
          issueOp vmmPerform u w x.stop (newOp w t (.vmm x) act (laneAddrs act ptr) d')))

end Sys2Proof.Machine
end

