-- ==== Sys2Proof/Machine/Mgmt.lean ====
section
/-! DEFINITION. Machine/Mgmt.lean: management requests (R417 to R420) and the clock (R19). -/

namespace Sys2Proof.Machine

/-- A request as the Rinkan core takes it: its command, tag and argument words. -/
structure Request where
  cmd : Nat
  tag : Nat
  a : Nat
  b : Nat
  deriving DecidableEq, Repr

/-- The request of the mailbox (R417, R419). -/
def mailboxRequest (s : State) : Request :=
  let n := s.mgmt.req.toNat
  { cmd := bits n 7 0, tag := bits n 15 8, a := bits n 63 32, b := bits n 95 64 }

/-- A response: tag, status, data length, and data in 32-bit words (R419; log 9). -/
def response (tag status : Nat) (data : List Nat) : BitVec 2080 :=
  BitVec.ofNat 2080 (tag + status * 2 ^ 8 + 4 * data.length * 2 ^ 16
    + ofBytes (data.flatMap (fun w => toBytes 4 w)) * 2 ^ 32)

/-- Answer a request on its path: the mailbox's resp with done, or the response message of an MCTP path. -/
def respond (s : State) (path : Nat) (r : BitVec 2080) : State :=
  if path = 2 then { s with mgmt := { s.mgmt with go := false, done := true, resp := r } }
  else { s with mgmt := { s.mgmt with lastResp := r } }

/-- How a command comes out: a status, data, and the state it leaves. -/
abbrev Command := State → Request → Nat × List Nat × State

/-- Serve a request (R417). The mailbox offers the request its registers hold, with an unlisted code answered with status
1; it is not offered in `RECOVERY` (R422). -/
def serve (r : MgmtReq) (cmd : Nat) (k : Command) (s : State) : Out :=
  let go (x : Request) : Out :=
    match k s x with
    | (st, data, t) => .next (respond t r.path (response x.tag st data))
  if r.path = 2 then
    let x := mailboxRequest s
    if !s.mgmt.go || s.boot.st == .recovery then .next s
    else if x.cmd = 0 ∨ 8 < x.cmd then .next (respond s 2 (response x.tag 1 []))
    else if x.cmd = cmd then go x
    else .next s
  else if 2 < r.path then .next s
  else go { cmd := cmd, tag := r.tag.toNat, a := r.arg0.toNat, b := r.arg1.toNat }

/-- The state code of the boot (R422). -/
def bootCode : BootSt → Nat
  | .rom => 0 | .firmware => 1 | .operational => 2 | .recovery => 3

/-- Frames of the device-local pool (R295). -/
def pooledFrames (s : State) : Nat := (s.vm.frames.filter (fun e => e.2.st == .pooled)).length

/-- `GET_INFO` (R418). -/
def execGetInfo (r : MgmtReq) (s : State) : Out :=
  serve r 1 (fun s _ => (0, [s.boot.running, bootCode s.boot.st, s.vm.reserved, s.vm.poolTarget, pooledFrames s,
    (s.ctxs.filter (fun e => e.2.slot.isSome)).length], s)) s

/-- `SET_POOL_TARGET` (R418). -/
def execSetPoolTarget (r : MgmtReq) (s : State) : Out :=
  serve r 2 (fun s x =>
    if frameLimit s < x.a then (2, [], s) else (0, [x.a], { s with vm := { s.vm with poolTarget := x.a } })) s

/-- `GET_LOG_STATE` (R418, R420). -/
def execGetLogState (r : MgmtReq) (s : State) : Out :=
  serve r 3 (fun s _ => (0, [s.mgmt.logTail.toNat, s.mgmt.logHead.toNat, s.mgmt.logLost.toNat], s)) s

/-- The sixteen words of an event-log record (R420). -/
def recordWords (e : EvRec) : List Nat :=
  [e.code + e.agent * 2 ^ 16, e.time.toNat % 2 ^ 32, e.time.toNat / 2 ^ 32, e.a.toNat, e.b.toNat] ++ List.replicate 11 0

/-- The record of an index of the event log. -/
def logRecord (s : State) (n : Nat) : List Nat := ((Map.find s.mgmt.log (n % 4096)).map recordWords).getD (List.replicate 16 0)

/-- Records of the log that are not consumed. -/
def logCount (s : State) : Nat := (s.mgmt.logTail - s.mgmt.logHead).toNat

/-- `READ_LOG` (R418, R420). -/
def execReadLog (r : MgmtReq) (s : State) : Out :=
  serve r 4 (fun s x =>
    let off := (BitVec.ofNat 32 x.a - s.mgmt.logHead).toNat
    if x.b = 0 ∨ 4 < x.b ∨ logCount s < off + x.b then (2, [], s)
    else (0, (List.range x.b).flatMap (fun i => logRecord s (x.a + i)), s)) s

/-- `SET_LOG_HEAD` (R418, R420). -/
def execSetLogHead (r : MgmtReq) (s : State) : Out :=
  serve r 5 (fun s x =>
    let h : Word := BitVec.ofNat 32 x.a
    if logCount s < (h - s.mgmt.logHead).toNat then (2, [], s) else (0, [], { s with mgmt := { s.mgmt with logHead := h } })) s

/-- `GET_SENSORS` (R418): power, the temperatures of the easel and four plates (R10), and the clock. The readings are free
values. -/
def execGetSensors (r : MgmtReq) (s : State) : Out :=
  serve r 6 (fun s _ => (0, (List.range 6).map (fun i => (Config.sensor (freeIdx s i)).toNat) ++ [s.mgmt.freqMHz], s)) s

/-- `SET_POWER_LIMIT` (R418). -/
def execSetPowerLimit (r : MgmtReq) (s : State) : Out :=
  serve r 7 (fun s x =>
    if x.a < 600 ∨ 2400 < x.a then (2, [], s) else (0, [], { s with mgmt := { s.mgmt with powerLimit := x.a } })) s

/-- `GET_PORTS` (R418). -/
def execGetPorts (r : MgmtReq) (s : State) : Out :=
  serve r 8 (fun s _ => (0, (List.range 12).map (fun p => portCode (Tab.get Port.init s.link.ports p).st), s)) s

/-- `FREQUENCY_CHANGE` (R19, R421): one change may move by several steps of 100 MHz, with one record (DESIGN CHOICE, log 16: R19 does not say
whether each step is a change of its own). -/
def execFrequencyChange (mhz : Nat) (s : State) : Out :=
  let old := s.mgmt.freqMHz
  if mhz % 100 = 0 ∧ 1200 ≤ mhz ∧ mhz ≤ 3300 ∧ mhz ≠ old then
    .next (evLog { s with mgmt := { s.mgmt with freqMHz := mhz } } 1 0 mhz old)
  else .next s

end Sys2Proof.Machine
end

