-- ==== Sys2Proof/Machine/Raster.lean ====
section
/-! DEFINITION. Machine/Raster.lean: raster mode of the Finder (R377 to R385): `PRIMEMIT` and the rasterizing of a segment
into pixel trays. -/

namespace Sys2Proof.Machine

/-! ## PRIMEMIT (R378, R379) -/

/-- Address of record `i` of segment `g` (R378). -/
def primAddr (d : Draw) (g i : Nat) : Nat := d.primBuf + 64 * (g % 2 ^ d.ringOrder * d.segSize + i)

/-- Twice the signed area of a triangle of six coordinates (R379). -/
def triArea (c : List Int) : Int :=
  (vget c 2 - vget c 0) * (vget c 5 - vget c 1) - (vget c 4 - vget c 0) * (vget c 3 - vget c 1)

/-- x and y of the three vertices among the words of a primitive. -/
def triXY (v : List Nat) : List Nat := [v.getD 0 0, v.getD 1 0, v.getD 3 0, v.getD 4 0, v.getD 6 0, v.getD 7 0]

/-- The primitive is discarded (R379). -/
def primDiscard (d : Draw) (v : List Nat) : Bool :=
  if (v.take 9).any (fun x => readF .f32 x == .nan) then true
  else
    match allUnits (triXY v) with
    | none => true
    | some c =>
      let a := triArea c
      c.any (fun x => decide (2 ^ 173 ≤ x.natAbs)) || a == 0 || (d.cull == 1 && decide (a < 0)) || (d.cull == 2 && decide (0 < a))

/-- Put a DRAW grid's progress. -/
def putDraw (s : State) (gi : Nat) (d : Draw) : State :=
  { s with grids := Map.modify s.grids gi (fun g => { g with draw := some d }) }

/-- The DRAW state of a wave's grid, with the grid's number and the group's index. -/
def drawOf (s : State) (w : Wave) : Option (Nat × Draw × Nat) :=
  match groupOf s w.gid with
  | none => none
  | some g => ((Map.find s.grids g.grid).bind (·.draw)).map (fun d => (g.grid, d, g.index))

/-- The number a primitive record holds (R378): vertices, normal, mesh and tag, attr. -/
def primRecord (v : List Nat) : Nat :=
  ((v.take 13).zip (List.range 13)).foldl (fun n p => n + p.1 * 2 ^ (32 * p.2)) 0 + (v.getD 13 0 + 2 ^ 32 * v.getD 14 0) % 2 ^ 57 * 2 ^ 448

/-- One lane of `PRIMEMIT`; lanes go in ascending order (R379). -/
def primLane (o : LaneOp) (l : Nat) (s : State) : State × LaneRes :=
  match waveAt s s.cur.core s.cur.slot with
  | none => (s, .ok [])
  | some w =>
    match drawOf s w with
    | none => (s, .ok [])
    | some (gi, d, g) =>
      if firstSet (undone o) ≠ l then (s, .wait)
      else
        let v := opWords o 15 l
        let i := Tab.get 0 d.emitted g
        let a := BitVec.ofNat 64 (primAddr d g i)
        if primDiscard d v then (s, .ok [])
        else if d.segSize ≤ i then (s, .fault .protect a)
        else
          laneAccess s w a 64 .write false (fun t key =>
            (putDraw (storeNum t w.core key 64 (primRecord v)) gi { d with emitted := Tab.set 0 d.emitted g (i + 1) }, .ok []))

/-- `PRIMEMIT` (R379). -/
def execPrimemit (x : LXWord) (s : State) : Out :=
  onLane s x.guard.toNat (fun w t _ act =>
    match drawOf s w with
    | none => illegalL s w t act
    | some _ =>
      issueOp primLane s w x.stop
        (newOp w t (.primemit x) act [] (capture s w act x.vb.toNat 6 9 (capture s w act x.va.toNat 9 0 []))))

/-! ## Coverage (R380, R381) -/

/-- A primitive as the Finder reads it. -/
structure Prim where
  raw : Nat
  order : Nat
  deriving DecidableEq, Repr

/-- The words of a primitive. -/
def Prim.v (p : Prim) : List Nat := (List.range 16).map (fun i => bits p.raw (32 * i + 31) (32 * i))

/-- Half a pixel in counts of 2^-149. -/
def halfPixel : Int := ((2 ^ 148 : Nat) : Int)

/-- An edge test at a point (R381). -/
def edgeIn (xi yi xj yj x y : Int) : Bool :=
  let e := (xj - xi) * (y - yi) - (yj - yi) * (x - xi)
  decide (0 < e) || (e == 0 && (decide (yj - yi < 0) || (yj == yi && decide (0 < xj - xi))))

/-- The vertices with those of a clockwise triangle exchanged (R381). -/
def orient (c : List Int) : List Int :=
  if triArea c < 0 then [vget c 0, vget c 1, vget c 4, vget c 5, vget c 2, vget c 3] else c

/-- A pixel of the viewport is covered (R381). -/
def covered (d : Draw) (c : List Int) (px py : Nat) : Bool :=
  let x := (2 * (px : Int) + 1) * halfPixel
  let y := (2 * (py : Int) + 1) * halfPixel
  decide (px < d.width) && decide (py < d.height)
    && edgeIn (vget c 0) (vget c 1) (vget c 2) (vget c 3) x y && edgeIn (vget c 2) (vget c 3) (vget c 4) (vget c 5) x y
    && edgeIn (vget c 4) (vget c 5) (vget c 0) (vget c 1) x y

/-- Covered positions of the quad at (2 * qx, 2 * qy), as a mask (R383). -/
def quadMask (d : Draw) (c : List Int) (qx qy : Nat) : Nat :=
  ((List.range 4).filter (fun p => covered d c (2 * qx + p % 2) (2 * qy + p / 2))).foldl (fun m p => m + 2 ^ p) 0

/-- The numbers from `a` to `b`. -/
def span (a b : Nat) : List Nat := (List.range (b + 1 - a)).map (a + ·)

/-- Blocks of `n` pixels that a span of coordinates meets, cut to the viewport. -/
def blockSpan (lo hi : Int) (n size : Nat) : List Nat :=
  let a := (lo / (2 * halfPixel)).toNat / n
  let b := min (hi / (2 * halfPixel)).toNat (size - 1) / n
  if hi < 0 then [] else span a b

/-- The quads of a primitive that a core deposits, in order, with their masks (R380). -/
def primQuads (d : Draw) (core : Nat) (p : Prim) : List (Nat × Nat × Nat) :=
  match allUnits (triXY p.v) with
  | none => []
  | some c0 =>
    let c := orient c0
    let xs := [vget c 0, vget c 2, vget c 4]
    let ys := [vget c 1, vget c 3, vget c 5]
    let lo (l : List Int) : Int := l.foldl min (l.headD 0)
    let hi (l : List Int) : Int := l.foldl max (l.headD 0)
    let inBox (n q : Nat) (l : List Int) (size : Nat) : Bool := (blockSpan (lo l) (hi l) n size).contains q
    (blockSpan (lo ys) (hi ys) 64 d.height).flatMap (fun ty =>
      ((blockSpan (lo xs) (hi xs) 64 d.width).filter (fun tx => (tx + 7 * ty) % 96 == core)).flatMap (fun tx =>
        (List.range 8).flatMap (fun by_ => (List.range 8).flatMap (fun bx =>
          if inBox 8 (8 * tx + bx) xs d.width && inBox 8 (8 * ty + by_) ys d.height then
            (List.range 4).flatMap (fun qy => (List.range 4).filterMap (fun qx =>
              let x := 32 * tx + 4 * bx + qx
              let y := 32 * ty + 4 * by_ + qy
              let m := quadMask d c x y
              if m = 0 then none else some (x, y, m)))
          else []))))

/-! ## Merging (R382) -/

/-- Vertex `i` of a primitive has the same x and y bits as vertex `j` of another, and their depths lie close. -/
def vertexMeets (d : Draw) (p q : Prim) (i j : Nat) : Bool :=
  p.v.getD (3 * i) 0 == q.v.getD (3 * j) 0 && p.v.getD (3 * i + 1) 0 == q.v.getD (3 * j + 1) 0
    && (match fSum 0 [readF .f32 (p.v.getD (3 * i + 2) 0), fFlip (readF .f32 (q.v.getD (3 * j + 2) 0))], readF .f32 d.depthBound.toNat with
        | .nan, _ => false
        | _, .nan => false
        | .fin _ m e, b => decide (fCmp (.fin false m e) b < 0)
        | .inf _, b => decide (fCmp (.inf false) b < 0))

/-- The two primitives may be fused (R382). -/
def primsFuse (d : Draw) (p q : Prim) : Bool :=
  let nrm (i : Nat) : FVal := fMul (readF .f32 (p.v.getD (9 + i) 0)) (readF .f32 (q.v.getD (9 + i) 0))
  let dot := fSum 0 [nrm 0, nrm 1, nrm 2]
  let c := readF .f32 d.cosMin.toNat
  let places := [(0, 1), (0, 2), (1, 0), (1, 2), (2, 0), (2, 1)]
  d.merge && p.v.getD 12 0 % 2 ^ 24 == q.v.getD 12 0 % 2 ^ 24 && dot != .nan && c != .nan && decide (0 < fCmp dot c)
    && places.any (fun a => places.any (fun b => decide (a.1 < a.2) && vertexMeets d p q a.1 b.1 && vertexMeets d p q a.2 b.2))

/-- A quad to deposit: place, mask of P's pixels, whether it is fused, P's order and the other's. -/
structure Quad where
  x : Nat
  y : Nat
  mask : Nat
  fused : Bool
  order : Nat
  other : Nat
  deriving DecidableEq, Repr

/-- The quads of a primitive that its predecessor has not taken. -/
def quadsLeft (d : Draw) (core : Nat) (used : List (Nat × Nat)) (p : Prim) : List (Nat × Nat × Nat) :=
  (primQuads d core p).filter (fun q => !used.contains (q.1, q.2.1))

/-- The quads of some primitives in deposit order, of all but the last, which stays behind with the quads that were taken of it; `used` are
those of the first (R382). -/
def pairQuads (d : Draw) (core : Nat) (used : List (Nat × Nat)) : List Prim → List Quad × Option (Prim × List (Nat × Nat))
  | [] => ([], none)
  | [p] => ([], some (p, used))
  | p :: q :: rest =>
    let mine := quadsLeft d core used p
    let next := if primsFuse d p q then primQuads d core q else []
    let fuses (a : Nat × Nat × Nat) : Bool := next.any (fun b => b.1 == a.1 && b.2.1 == a.2.1 && b.2.2 == 15 - a.2.2)
    let r := pairQuads d core ((mine.filter fuses).map (fun a => (a.1, a.2.1))) (q :: rest)
    (mine.map (fun a => { x := a.1, y := a.2.1, mask := a.2.2, fused := fuses a, order := p.order, other := q.order : Quad }) ++ r.1, r.2)

/-- The quads of the last primitive of a draw. -/
def lastQuads (d : Draw) (core : Nat) (x : Option (Prim × List (Nat × Nat))) : List Quad :=
  match x with
  | none => []
  | some (p, used) => (quadsLeft d core used p).map (fun a =>
      { x := a.1, y := a.2.1, mask := a.2.2, fused := false, order := p.order, other := 0 : Quad })

/-! ## Deposits (R383) -/

/-- The record of a quad's position (R383). -/
def quadRec (q : Quad) (pos : Nat) : TrayRec :=
  let px := 2 * q.x + pos % 2
  let py := 2 * q.y + pos / 2
  let own := bit q.mask pos
  { key := BitVec.ofNat 32 (py / 8 * 4096 + px / 8), p0 := BitVec.ofNat 32 (px + py * 65536),
    p1 := BitVec.ofNat 32 (if q.fused && !own then q.other else q.order),
    p2 := BitVec.ofNat 32 ((if own || q.fused then 1 else 0) + (if q.fused then 2 else 0) + 4 * pos) }

/-- The tray must trigger before the quad goes in: fewer than four places, or a record of one of its pixels. -/
def quadPushes (t : Tray) (q : Quad) : Bool :=
  decide (28 < t.recs.length) || (List.range 4).any (fun p => t.recs.any (fun r => r.p0 == (quadRec q p).p0))

/-- Deposit a quad; false when its first record finds no entry. -/
def quadDeposit (s : State) (core gi config : Nat) (q : Quad) : State × Bool :=
  let key := (quadRec q 0).key
  let s1 := triggerTrays s core (fun t => t.grid == gi && t.config == config && t.key == key && quadPushes t q)
  match trayDeposit s1 core gi config 0 0 0 (0, 32) (quadRec q 0) with
  | (t, false) => (t, false)
  | (t, true) => ([1, 2, 3].foldl (fun u p => (trayDeposit u core gi config 0 0 0 (0, 32) (quadRec q p)).1) t, true)

/-- Deposit quads until one finds no entry; the count of those deposited. -/
def quadsDeposit (s : State) (core gi config : Nat) : List Quad → Nat → State × Nat × Bool
  | [], n => (s, n, true)
  | q :: rest, n =>
    match quadDeposit s core gi config q with
    | (t, true) => quadsDeposit t core gi config rest (n + 1)
    | (t, false) => (t, n, false)

/-- The records of a segment, none when one cannot be read. -/
def segPrims (s : State) (g : Grid) (d : Draw) (seg : Nat) : Option (List Prim) :=
  (List.range (Tab.get 0 d.emitted seg)).foldl (fun acc i =>
    match acc, devRead s g.ctx .u (primAddr d seg i) 64 with
    | some l, some n => some (l ++ [{ raw := n, order := (seg * d.segSize + i) % 2 ^ 32 }])
    | _, _ => none) (some [])

/-- The group that shades a cluster has ended: retired, or killed with an empty segment (R378). -/
def segReady (s : State) (gi seg : Nat) (g : Grid) : Option Bool :=
  match s.groups.find? (fun e => e.2.grid == gi && !e.2.isTray && e.2.index == seg) with
  | some e => if e.2.st == .retired then some true else if e.2.st == .killed then some false else none
  | none => if g.killed then some false else none

/-- What a core's Finder has before it when it takes a segment: the primitive left behind, then the segment's; nothing of a killed group's
segment (R378, R382). -/
def segInput (s : State) (g : Grid) (d : Draw) (core seg : Nat) (whole : Bool) : Option (List (Nat × Nat) × List Prim) :=
  (if whole then segPrims s g d seg else some []).map (fun l =>
    match Map.find d.carry core with
    | some (n, order, used) => (used, { raw := n, order := order } :: l)
    | none => ([], l))

/-- `FINDER_SEGMENT_START` (R378, R380 to R384): core's Finder rasterizes its next segment of grid `gi`, going on from
the quad that found no tray entry. A segment's last primitive waits for the next one's first, with which it may fuse. -/
def execFinderSegmentStart (core gi : Nat) (s : State) : Out :=
  match Map.find s.grids gi with
  | none => .next s
  | some g =>
    match g.draw with
    | none => .next s
    | some d =>
      let seg := Tab.get 0 d.next core
      let total := g.nx * g.ny * g.nz
      if 96 ≤ core ∨ total ≤ seg then .next s
      else
        match (segReady s gi seg g).bind (segInput s g d core seg) with
        | none => .next s
        | some (used, l) =>
          let r := pairQuads d core used l
          let ends := decide (total ≤ seg + 1)
          let n := Tab.get 0 d.pos core
          match quadsDeposit s core gi d.pixelTray ((r.1 ++ (if ends then lastQuads d core r.2 else [])).drop n) n with
          | (t, k, false) => .next (putDraw t gi { d with pos := Tab.set 0 d.pos core k })
          | (t, _, true) =>
            let carry := match r.2 with
              | some (p, u) => if ends then Map.erase d.carry core else Map.insert d.carry core (p.raw, p.order, u)
              | none => d.carry
            .next (putDraw t gi { d with next := Tab.set 0 d.next core (seg + 1), pos := Tab.set 0 d.pos core 0, carry := carry })

end Sys2Proof.Machine
end

