-- ==== Sys2Proof/Machine/TrapOps.lean ====
section
/-! DEFINITION. Machine/TrapOps.lean: `SVC`, `TRAP` (R362), `TKILL` (R365), trap entry (R356, R358) and the Safelight
(R128). -/

namespace Sys2Proof.Machine

/-- `SVC` (R362). -/
def execSvc (n : BitVec 8) (s : State) : Out := onFrag s (fun w f => trapAt s w f .service .svc 0 n.toNat)
/-- `TRAP` (R362). -/
def execTrap (n : BitVec 8) (s : State) : Out := onFrag s (fun w f => trapAt s w f .service .trap 0 n.toNat)

/-- `TKILL` (R365). -/
def execTkill (grid : Bool) (s : State) : Out :=
  onFrag s (fun w f => onlyS s w f (
    if grid then
      match groupOf s w.gid with
      | some g => .next (killGrid s g.grid)
      | none => .next s
    else .next (killGroup s w.gid)))

/-- `TRAP_ENTRY` (R356, R358). -/
def execTrapEntry (core slot : Nat) (s : State) : Out := .next (tryEnter s core slot)

/-- A sleeping fragment on the stack leaves what it is parked on, and traps in its next slot. -/
def dogStack (s : State) (core slot : Nat) : State :=
  match waveAt s core slot with
  | none => s
  | some w =>
    let ids := w.stack.filterMap (fun f => parkId f.wait)
    let t := { s with groups := Map.mapVals s.groups (fun _ g =>
      { g with sendQ := g.sendQ.filter (fun p => !ids.contains p.id), recvQ := g.recvQ.filter (fun p => !ids.contains p.id)
               claimQ := g.claimQ.filter (fun p => !ids.contains p.id) }) }
    putWave t { w with stack := w.stack.map (fun f => if asleep f then { f with wait := .dogOut } else f) }

/-- `WATCHDOG` in each sleeping fragment of a wave in turn, slot A first (R357). -/
def raiseWatchdog (s : State) (w : Wave) : State :=
  [false, true].foldl (fun t b =>
    match fragOf w b with
    | some f => if asleep f then raiseTrap t w.core w.slot (timeoutReq 0 f b) else t
    | none => t) (dogStack s w.core w.slot)

/-- `SAFELIGHT_EXPIRY` (R128): the counter has come to its threshold: the event is logged, and every wave of the context takes `WATCHDOG`. -/
def execSafelightExpiry (ctx : Nat) (s : State) : Out :=
  match ctxOf s ctx with
  | none => .next s
  | some c =>
    if c.dog < safelightLimit c then .next s
    else
      let t := { s with ctxs := Map.insert s.ctxs ctx { c with dog := 0 } }
      .next ((ctxWaves t ctx).foldl raiseWatchdog (logError t ctx 6 15 127 0 0 0))

end Sys2Proof.Machine
end

