-- ==== Sys2Proof/Machine/Replay.lean ====
section
/-! DEFINITION. Machine/Replay.lean: the lanes of an operation performed again from its record (R255 to R257, R296, R360),
the settling of operations (R164), and the return from a trap (R363, R364). -/

namespace Sys2Proof.Machine

/-- Perform a lane of any operation, from its record. -/
def performLane (o : LaneOp) (l : Nat) (s : State) : State × LaneRes :=
  match o.word with
  | .ld _ | .st _ | .lds _ | .sts _ | .atom _ | .atoms _ | .red _ | .pref _ => memLane o l s
  | .trace _ | .traceq _ | .hitget _ => rayLane o l s
  | .sample _ | .samplel _ | .sampleg _ | .texld _ | .texst _ => texLane o l s
  | .primemit _ => primLane o l s
  | .lyins _ | .lyread _ | .lyresolve _ | .lyclear _ => lyLane o l s
  | .vmm _ => vmmPerform o l s
  | .trayput _ | .trayget _ => trayLane o l s
  | .accred _ | .accpeek _ => accLane o l s
  | _ => (s, .wait)

/-- Perform the undone lanes of an operation, as the order of its stream lets them (R88); none when one of them meets a hole in memory. -/
def rerun (s : State) (core slot : Nat) (o : LaneOp) : Option State :=
  if undone o = 0 then some s
  else
    let r := performOp performLane { s with cur := { core := core, slot := slot, b := o.b } } core slot o
    if r.hole then none else some (keepRun r core slot)

/-- The operations of a wave. -/
def opsOf (s : State) (core slot : Nat) : List LaneOp := ((waveAt s core slot).map (·.ops)).getD []

/-- Perform again some operations of a wave in turn, those of them that are still outstanding. -/
def rerunAll (core slot : Nat) : List Nat → State → Option State
  | [], s => some s
  | id :: rest, s =>
    match (opsOf s core slot).find? (fun o => o.id == id && !o.settled) with
    | none => rerunAll core slot rest s
    | some o => (rerun s core slot o).bind (rerunAll core slot rest)

/-- `LANE_OP_SETTLE` (R164, R166): the `k`-th operation of a wave settles if its lanes have come out; a word of the special-function pipe
in its turn (R214). -/
def execLaneOpSettle (core slot k : Nat) (s : State) : Out :=
  match (opsOf s core slot)[k]? with
  | none => .next s
  | some o =>
    match rerunAll core slot [o.id] s with
    | none => .fault .physicalHole
    | some t => .next (if pipeBehind t core slot o then t else settleOp t core slot o.id)

/-- `UNIT_REPLAY` (R257, R296): the parked lanes of a wave perform, those whose page has come. -/
def execUnitReplay (core slot : Nat) (s : State) : Out :=
  match rerunAll core slot ((opsOf s core slot).map (·.id)) s with
  | none => .fault .physicalHole
  | some t => .next t

/-! ## The return from a trap (R363, R364) -/

/-- The forms of `ERET`. -/
inductive EretForm where
  | plain | retry | skip
  deriving DecidableEq, Repr

/-- Bytes of the scalar word at an address: 8 for `SLI` (R25, R364). -/
def wordBytesAt (s : State) (w : Wave) (pc : DWord) : Nat :=
  match peekCode s { w with priv := .u } pc.toNat 4 with
  | some n => if n / 2 ^ 26 = 0x3E then 8 else 4
  | none => 4

/-- The traps after which `ERET.skip` passes the word at the pc of entry (R364). -/
def skipsWord : TrapKind → Bool
  | .scalar => true
  | .watchdog => true
  | _ => false

/-- Where a return goes (R363, R364). -/
def eretPc (s : State) (w : Wave) (r : TrapReq) (form : EretForm) : DWord :=
  match form with
  | .plain => w.treg.pc
  | .retry => w.shadow.pcEntry
  | .skip => if skipsWord r.kind then w.shadow.pcEntry + BitVec.ofNat 64 (wordBytesAt s w w.shadow.pcEntry)
             else w.shadow.pcEntry

/-- Change the operation of a wave. -/
def modLaneOp (s : State) (core slot id : Nat) (g : LaneOp → LaneOp) : State :=
  modWave s core slot (fun w => { w with ops := w.ops.map (fun o => if o.id == id then g o else o) })

/-- The feeds that the head strip's next word pops. -/
def headFeeds (s : State) (w : Wave) : List Nat :=
  match w.strips with
  | t :: _ => ((peekLane s w t w.headOff).map (fun i => (useOf i).feeds)).getD []
  | [] => []

/-- The word that faulted pops the same vectors, which are read again (R175, R364). -/
def refeed (w : Wave) (feeds : List Nat) : Wave := feeds.foldl (fun v n => putFeed v n { feedOf v n with buf := [] }) w

/-- The vectors of the head strip's next word are consumed, and the L-stream goes on behind it (R364). -/
def skipPops (s : State) (core slot : Nat) : State :=
  match waveAt s core slot with
  | none => s
  | some w => laneDone (putWave s (popFeeds { w with lstop := false } (headFeeds s w))) core slot false

/-- The pending work of a lane operation (R256, R336, R364). -/
def eretLane (s : State) (core slot id : Nat) (skip : Bool) : TeamRes :=
  match waveAt s core slot, (opsOf s core slot).find? (fun o => o.id == id) with
  | some w, some o =>
    let t := modLaneOp s core slot id (fun o => { o with faults := [], settled := false })
    match o.word with
    | .mma _ => teamReturn (modLaneOp t core slot id (fun o => { o with pendingAnswers := 1 })) core w.gid w.ident.waveid.toNat id skip
    | _ =>
      if skip then .next (lstopCheck (modWave s core slot (fun w => { w with ops := w.ops.filter (fun o => o.id != id) })) core slot)
      else
        match rerunAll core slot [id] t with
        | none => .hole
        | some u => .next u
  | _, _ => .next s

/-- The pending work of an engine operation (R321, R345, R351): it is still the one that faulted, and parked. -/
def eretEngine (s : State) (core op : Nat) (r : TrapReq) (skip : Bool) : State :=
  match Map.find (coreOf s core).ops op with
  | none => s
  | some o =>
    if engHandle o op ≠ r.info ∨ o.st ≠ .parked then s
    else
      match o.kind, skip with
      | .mloop, false => loopRetry s core op
      | .mloop, true => loopSkip s core op
      | .drain, true => drainSkip s core op
      | _, false => engRetry s core op
      | _, true => engSkip s core op

/-- The pending work of a trap (R364). -/
def eretWork (s : State) (core slot : Nat) (r : TrapReq) (skip : Bool) : TeamRes :=
  match r.kind with
  | .scalar | .watchdog | .service => .next s
  | .lane id => eretLane s core slot id skip
  | .laneFetch =>
    let t := modWave s core slot (fun w => { w with lstop := false })
    .next (if skip then laneDone t core slot false else t)
  | .feedPop => .next (if skip then skipPops s core slot else modWave s core slot (fun w => refeed { w with lstop := false } (headFeeds s w)))
  | .engine c op => .next (eretEngine s c op r skip)

/-- After a return: a fault still recorded is pending again, and the held causes are raised (R356). -/
def eretHeld (s : State) (core slot : Nat) : State :=
  match waveAt s core slot with
  | none => s
  | some w =>
    let tr := if w.trap = .none ∧ w.ops.any (fun o => o.faults != []) then .pending else w.trap
    w.held.foldl (fun t r => raiseTrap t core slot r) (putWave s { w with trap := tr, held := [] })

/-- `ERET` of any form (R363): by the wave's only live handler fragment. -/
def eretWith (form : EretForm) (s : State) : Out :=
  onFrag s (fun w f => onlyS s w f (
    match w.trap with
    | .handling r =>
      if ((liveFrags w).filter (·.handler)).length ≠ 1 then illegalS s w f
      else if w.strips ≠ [] then blocked s w f .strips
      else
        let t := endClaimsOf (putWave s (leaveTrap w s.cur.b f (eretPc s w r form))) w.core w.slot
        match eretWork t w.core w.slot r (form == .skip) with
        | .next u => .next (eretHeld u w.core w.slot)
        | .hole => .fault .physicalHole
    | _ => illegalS s w f))

/-- `ERET` (R363). -/
def execEret (s : State) : Out := eretWith .plain s
/-- `ERET.retry` (R363). -/
def execEretRetry (s : State) : Out := eretWith .retry s
/-- `ERET.skip` (R363). -/
def execEretSkip (s : State) : Out := eretWith .skip s

end Sys2Proof.Machine
end

