-- ==== Sys2Proof/Machine/ScalarMem.lean ====
section
/-! DEFINITION. Machine/ScalarMem.lean: the scalar loads and stores (R189, R190) and `FENCE` (R264). -/

namespace Sys2Proof.Machine

/-- Address of a scalar access: the pair and the displacement (R189). -/
def sAddr (w : Wave) (a : SReg) (i : BitVec 10) : DWord := rdP w a.toNat + i.signExtend 64

/-- A register or pair as a number, for a width in bytes. -/
def wrWidth (w : Wave) (wide : Bool) (d x : Nat) : Wave := if wide then wrP w d (BitVec.ofNat 64 x) else wrS w d (BitVec.ofNat 32 x)

/-- A scalar load of 4 or 8 bytes. -/
def loadS (d : SReg) (wide : Bool) (addr : Wave → DWord) (s : State) : Out :=
  onFrag s (fun w f =>
    let n := if wide then 8 else 4
    let va := addr w
    if va.toNat % n ≠ 0 then trapS s w f .misalign va
    else sRead s w f va n (fun t x => done t (wrWidth w wide d.toNat x) f))

/-- A scalar store of 4 or 8 bytes. -/
def storeS (d : SReg) (wide : Bool) (addr : Wave → DWord) (s : State) : Out :=
  onFrag s (fun w f =>
    let n := if wide then 8 else 4
    let va := addr w
    if va.toNat % n ≠ 0 then trapS s w f .misalign va
    else sWrite s w f va n (if wide then (rdP w d.toNat).toNat else (rdS w d.toNat).toNat) (fun t => done t (acted t w) f))

/-- `SLD` (R189). -/
def execSld (d a : SReg) (i : BitVec 10) (s : State) : Out := loadS d false (fun w => sAddr w a i) s
/-- `SST` (R189). -/
def execSst (d a : SReg) (i : BitVec 10) (s : State) : Out := storeS d false (fun w => sAddr w a i) s
/-- `SLD` with an order, a scope and a width (R189). -/
def execSldOrdered (d a : SReg) (_ : Scope) (_ : Order) (wide : Bool) (s : State) : Out :=
  loadS d wide (fun w => rdP w a.toNat) s
/-- `SST` with an order, a scope and a width (R189). -/
def execSstOrdered (d a : SReg) (_ : Scope) (_ : Order) (wide : Bool) (s : State) : Out :=
  storeS d wide (fun w => rdP w a.toNat) s

/-- What a core's constant cache holds of a word of a context (R83). -/
def konstFind (s : State) (core ctx key : Nat) : Option Word :=
  ((coreOf s core).konst.find? (fun e => e.1 == ctx && e.2.1 == key)).map (·.2.2)

/-- Keep a word in a core's constant cache. -/
def konstPut (s : State) (core ctx key : Nat) (x : Word) : State :=
  let c := coreOf s core
  putCore s core { c with konst := (ctx, key, x) :: c.konst.filter (fun e => !(e.1 == ctx && e.2.1 == key)) }

/-- `SLDK` (R83, R189): the word as memory holds it, or as the constant cache kept it. -/
def execSldk (d a : SReg) (i : BitVec 10) (s : State) : Out :=
  onFrag s (fun w f =>
    let va := sAddr w a i
    if va.toNat % 4 ≠ 0 then trapS s w f .misalign va
    else sAccess s w f va 4 .look (fun t key =>
      let ctx := ctxIdOf t w.gid
      let now : Word := BitVec.ofNat 32 (ofBytes (lookBytes t key 4))
      match konstFind t w.core ctx key with
      | some old =>
        if Config.freeBool (freeIdx t key) then done t (wrS w d.toNat old) f
        else done (konstPut t w.core ctx key now) (wrS w d.toNat now) f
      | none => done (konstPut t w.core ctx key now) (wrS w d.toNat now) f))

/-- A fence's waits fall on the accesses after it: they stand behind the strips enqueued before it (R88, R264). -/
def fenceWave (w : Wave) (o : Order) : Wave :=
  let n := w.strips.length
  { w with fenceR := if o = .acq ∨ o = .ar then n else w.fenceR, fenceW := n }

/-- A fence at `.fab` or `.sys` that orders writes waits for the wave's earlier fabric reductions (R100). -/
def fenceFab (sc : Scope) (o : Order) : Bool := (sc == .fab || sc == .sys) && (o == .rel || o == .ar)

/-- `FENCE` (R264). -/
def execFence (sc : Scope) (o : Order) (s : State) : Out :=
  onFrag s (fun w f => done (if fenceFab sc o then fabDrain s w.core w.slot else s) (fenceWave w o) f)

/-- The scalar loads and stores, whose answers may be late; any other word that waits asks again in its turn. -/
def answerWord (i : Instr) (s : State) : Out :=
  match i with
  | .sld d a i => execSld d a i s
  | .sst d a i => execSst d a i s
  | .sldk d a i => execSldk d a i s
  | .sldOrdered d a x o z => execSldOrdered d a x o z s
  | .sstOrdered d a x o z => execSstOrdered d a x o z s
  | _ => onFrag s (fun w f => .next (putWave s (putFrag w s.cur.b (some { f with wait := .none }))))

/-- `SCALAR_ACCESS_ANSWERED` (R190): the home answers the access the fragment waits for, and the word comes out. -/
def execScalarAccessAnswered (core slot : Nat) (b : Bool) (s : State) : Out :=
  match (waveAt s core slot).bind (fun w => fragOf w b) with
  | some f => if f.wait = .access then scalarTurn answerWord s core slot b else .next s
  | none => .next s

end Sys2Proof.Machine
end

