-- ==== Sys2Proof/Machine/TaskOps.lean ====
section
/-! DEFINITION. Machine/TaskOps.lean: the task words (R138 to R144), `QPOST` (R113 to R115, R130) and the resumption of
a parked post. -/

namespace Sys2Proof.Machine

/-- A task record as `TSPAWN` and `KLAUNCH` require it (R138, R3). -/
def taskValid (r : Nat) : Bool :=
  let z (hi lo : Nat) : Bool := bits r hi lo == 0
  z 35 35 && z 39 38 && z 47 44 && z 63 58 && z 127 121 && z 191 185 && z 319 313 && z 383 377 && z 511 416
    && decide (bits r 34 32 ≤ 5) && bits r 120 64 % 256 == 0 && !(z 223 192) && !(z 239 224) && !(z 255 240)
    && decide (bits r 223 192 * bits r 239 224 * bits r 255 240 < 2 ^ 32) && bits r 312 256 % 64 == 0

/-- The record of a new task: its queue, err and live (R139). -/
def taskOpen (s : State) (key q : Nat) (h : Nat) : State :=
  putNum (putNum s key 8 (putBits (putBits (putBits h 34 32 1) 43 40 0) 57 48 q)) (key + 48) 4 0

/-- `TSPAWN` and `KLAUNCH` at the record's home (R139, R143). -/
def taskSpawn (s : State) (ctx va key q : Nat) (launch : Bool) : State × Nat :=
  let h := readNum s.mem key 8
  let st := bits h 34 32
  if 1 ≤ st ∧ st ≤ 3 then (s, 2)
  else if launch ∨ bits h 31 0 = 0 then (taskPlace (taskOpen s key q (putBits h 31 0 0)) ctx va key, 1)
  else (taskOpen s key q h, 0)

/-- A task word over its record's address (R143, R144). -/
def onTask (a : SReg) (s : State) (k : Wave → Frag → DWord → Out) : Out :=
  onFrag s (fun w f =>
    let va := rdP w a.toNat
    if va.toNat % 64 ≠ 0 then trapS s w f .misalign va else k w f va)

/-- `TSPAWN` and `KLAUNCH` (R143). -/
def spawnWord (d a : SReg) (launch : Bool) (s : State) : Out :=
  onTask a s (fun w f va =>
    sRead s w f va 64 (fun t r =>
      if !taskValid r then illegalS t w f
      else sUpdate t w f va 8 (fun u key =>
        let q := ((gridOf u w.gid).map (·.queue)).getD 0
        let x := taskSpawn u (ctxIdOf u w.gid) va.toNat key q launch
        actedWith x.1 (fun v => wrS v d.toNat (BitVec.ofNat 32 x.2)))))

/-- `KLAUNCH` (R143). -/
def execKlaunch (d a : SReg) (s : State) : Out := spawnWord d a true s
/-- `TSPAWN` (R143). -/
def execTspawn (d a : SReg) (s : State) : Out := spawnWord d a false s

/-- `TDEC` (R144). -/
def execTdec (d a : SReg) (s : State) : Out :=
  onTask a s (fun w f va =>
    sUpdate s w f va 8 (fun u key =>
      let x := taskDec u (ctxIdOf u w.gid) va.toNat key
      actedWith x.1 (fun v => wrS v d.toNat (BitVec.ofNat 32 x.2))))

/-- `TADD` (R144). -/
def execTadd (d a : SReg) (n : BitVec 6) (s : State) : Out :=
  onTask a s (fun w f va =>
    sUpdate s w f va 8 (fun u key =>
      let x := taskAdd u key n.toNat
      actedWith x.1 (fun v => wrS v d.toNat (BitVec.ofNat 32 x.2))))

/-- A fault record with its seq (R115, R130). -/
def withSeq (r n : Nat) : Nat := putBits r 159 128 n

/-- Post a record as read: the header and the slot, which may share a line, are written at their home, reached in this order; a full queue parks the wave with the record (R114, R130). -/
def postFault (s : State) (w : Wave) (f : Frag) (c : Ctx) (d : SReg) (r : Nat) : Out :=
  sUpdate s w f (BitVec.ofNat 64 c.desc.fqBase) 64 (fun s2 hk =>
    let tail := ofBytes (loadBytes s2 w.core hk 4)
    let head := ofBytes (loadBytes s2 w.core (hk + 4) 4)
    if 2 ^ c.desc.fqOrder ≤ (tail + 2 ^ 32 - head) % 2 ^ 32 then blocked s2 w f (.fqpost (BitVec.ofNat 512 r))
    else
      sUpdate s2 w f (BitVec.ofNat 64 (ringSlot c.desc.fqBase c.desc.fqOrder tail)) 64 (fun s3 k =>
        let s4 := raiseMsix (storeNum (storeNum s3 w.core k 64 (withSeq r tail)) w.core hk 4 (tail + 1)) (ctxIdOf s w.gid) c.desc.fqMsix
        done s4 (acted s4 (wrS w d.toNat (BitVec.ofNat 32 tail))) f))

/-- `QPOST` (R130): the record is read first, then posted. -/
def execQpost (d a : SReg) (s : State) : Out :=
  onFrag s (fun w f => onlyS s w f (
    let va := rdP w a.toNat
    match ctxOf s (ctxIdOf s w.gid) with
    | none => .next s
    | some c =>
      if va.toNat % 64 ≠ 0 then trapS s w f .misalign va
      else sRead s w f va 64 (fun s1 r => postFault s1 w f c d r)))

/-- The fragment still holds the record that waits, unless its word has come out. -/
def keepPost (w : Wave) (b : Bool) (f : Frag) (u : State) : State :=
  modWave u w.core w.slot (fun v => match fragOf v b with
    | some g => if g.wait = .none then v else putFrag v b (some { g with wait := f.wait })
    | none => v)

/-- `FAULT_QUEUE_POST_RESUME` (R114): head has advanced, and the parked post goes on with the record it has read. -/
def execFaultQueuePostResume (core slot : Nat) (b : Bool) (s0 : State) : Out :=
  let s := { s0 with cur := { core := core, slot := slot, b := b } }
  onFrag s (fun w f =>
    match f.wait, fetchScalar s w f, ctxOf s (ctxIdOf s w.gid) with
    | .fqpost r, (u, .ok (.qpost d _)), some c =>
      match postFault u w f c d r.toNat with
      | .next t => .next (keepPost w b f t)
      | o => o
    | _, _, _ => .next s)

end Sys2Proof.Machine
end

