-- ==== Sys2Proof/Machine/Dispatch.lean ====
section
/-! DEFINITION. Machine/Dispatch.lean: one arm per constructor of `Instr`, each one call of its meaning. -/

namespace Sys2Proof.Machine

def exec (i : Instr) (s : State) : Host.Outcome State Fault Refusal :=
  match i with
  | .sadd t d a b => Sys2Proof.Machine.execSadd t d a b s
  | .ssub t d a b => Sys2Proof.Machine.execSsub t d a b s
  | .smul t d a b => Sys2Proof.Machine.execSmul t d a b s
  | .smulh t d a b => Sys2Proof.Machine.execSmulh t d a b s
  | .sdiv t d a b => Sys2Proof.Machine.execSdiv t d a b s
  | .srem t d a b => Sys2Proof.Machine.execSrem t d a b s
  | .sand t d a b => Sys2Proof.Machine.execSand t d a b s
  | .sor t d a b => Sys2Proof.Machine.execSor t d a b s
  | .sxor t d a b => Sys2Proof.Machine.execSxor t d a b s
  | .sandn t d a b => Sys2Proof.Machine.execSandn t d a b s
  | .sshl t d a b => Sys2Proof.Machine.execSshl t d a b s
  | .sshr wide d a b => Sys2Proof.Machine.execSshr wide d a b s
  | .ssar wide d a b => Sys2Proof.Machine.execSsar wide d a b s
  | .smin t d a b => Sys2Proof.Machine.execSmin t d a b s
  | .smax t d a b => Sys2Proof.Machine.execSmax t d a b s
  | .scmp t a b => Sys2Proof.Machine.execScmp t a b s
  | .saddc t d a b => Sys2Proof.Machine.execSaddc t d a b s
  | .saddImm d a i_ => Sys2Proof.Machine.execSaddImm d a i_ s
  | .smulImm d a i_ => Sys2Proof.Machine.execSmulImm d a i_ s
  | .sandImm d a i_ => Sys2Proof.Machine.execSandImm d a i_ s
  | .sorImm d a i_ => Sys2Proof.Machine.execSorImm d a i_ s
  | .sxorImm d a i_ => Sys2Proof.Machine.execSxorImm d a i_ s
  | .sshlImm d a i_ => Sys2Proof.Machine.execSshlImm d a i_ s
  | .sshrImm d a i_ => Sys2Proof.Machine.execSshrImm d a i_ s
  | .ssarImm d a i_ => Sys2Proof.Machine.execSsarImm d a i_ s
  | .sminImm d a i_ => Sys2Proof.Machine.execSminImm d a i_ s
  | .smaxImm d a i_ => Sys2Proof.Machine.execSmaxImm d a i_ s
  | .scmpImm a i_ => Sys2Proof.Machine.execScmpImm a i_ s
  | .ststImm a i_ => Sys2Proof.Machine.execStstImm a i_ s
  | .sbfx d a w o => Sys2Proof.Machine.execSbfx d a w o s
  | .sext d a b => Sys2Proof.Machine.execSext d a b s
  | .sclz d a wide => Sys2Proof.Machine.execSclz d a wide s
  | .spopc d a wide => Sys2Proof.Machine.execSpopc d a wide s
  | .stst a b => Sys2Proof.Machine.execStst a b s
  | .ssel d a b c => Sys2Proof.Machine.execSsel d a b c s
  | .sli f d imm => Sys2Proof.Machine.execSli f d imm s
  | .bc c o => Sys2Proof.Machine.execBc c o s
  | .bmz m o => Sys2Proof.Machine.execBmz m o s
  | .bmnz m o => Sys2Proof.Machine.execBmnz m o s
  | .call o => Sys2Proof.Machine.execCall o s
  | .split m o => Sys2Proof.Machine.execSplit m o s
  | .join t => Sys2Proof.Machine.execJoin t s
  | .exit => Sys2Proof.Machine.execExit s
  | .yield => Sys2Proof.Machine.execYield s
  | .nop => Sys2Proof.Machine.execNop s
  | .ret a => Sys2Proof.Machine.execRet a s
  | .ldrain => Sys2Proof.Machine.execLdrain s
  | .regroup d a => Sys2Proof.Machine.execRegroup d a s
  | .hint n => Sys2Proof.Machine.execHint n s
  | .lrun l n => Sys2Proof.Machine.execLrun l n s
  | .lrunx a b => Sys2Proof.Machine.execLrunx a b s
  | .feedset f a b z => Sys2Proof.Machine.execFeedset f a b z s
  | .feedstop f => Sys2Proof.Machine.execFeedstop f s
  | .mand d a b => Sys2Proof.Machine.execMand d a b s
  | .mor d a b => Sys2Proof.Machine.execMor d a b s
  | .mxor d a b => Sys2Proof.Machine.execMxor d a b s
  | .mandn d a b => Sys2Proof.Machine.execMandn d a b s
  | .mnot d a => Sys2Proof.Machine.execMnot d a s
  | .mset d a => Sys2Proof.Machine.execMset d a s
  | .mget d a => Sys2Proof.Machine.execMget d a s
  | .mpop d a => Sys2Proof.Machine.execMpop d a s
  | .mfirst d a => Sys2Proof.Machine.execMfirst d a s
  | .sld d a i_ => Sys2Proof.Machine.execSld d a i_ s
  | .sst d a i_ => Sys2Proof.Machine.execSst d a i_ s
  | .sldk d a i_ => Sys2Proof.Machine.execSldk d a i_ s
  | .sldOrdered d a s_ o wide => Sys2Proof.Machine.execSldOrdered d a s_ o wide s
  | .sstOrdered d a s_ o wide => Sys2Proof.Machine.execSstOrdered d a s_ o wide s
  | .binit d a n => Sys2Proof.Machine.execBinit d a n s
  | .barr d n => Sys2Proof.Machine.execBarr d n s
  | .bwait d a n => Sys2Proof.Machine.execBwait d a n s
  | .bsync d n => Sys2Proof.Machine.execBsync d n s
  | .barrx d a n => Sys2Proof.Machine.execBarrx d a n s
  | .waita d a s_ => Sys2Proof.Machine.execWaita d a s_ s
  | .wake a s_ => Sys2Proof.Machine.execWake a s_ s
  | .fence s_ o => Sys2Proof.Machine.execFence s_ o s
  | .backoff m => Sys2Proof.Machine.execBackoff m s
  | .klaunch d a => Sys2Proof.Machine.execKlaunch d a s
  | .tspawn d a => Sys2Proof.Machine.execTspawn d a s
  | .tdec d a => Sys2Proof.Machine.execTdec d a s
  | .tadd d a n => Sys2Proof.Machine.execTadd d a n s
  | .vgive d n => Sys2Proof.Machine.execVgive d n s
  | .vclaim d n => Sys2Proof.Machine.execVclaim d n s
  | .carve d a hold => Sys2Proof.Machine.execCarve d a hold s
  | .mqsend d a => Sys2Proof.Machine.execMqsend d a s
  | .mqrecv d a tryIt => Sys2Proof.Machine.execMqrecv d a tryIt s
  | .mqcount d id => Sys2Proof.Machine.execMqcount d id s
  | .qpost d a => Sys2Proof.Machine.execQpost d a s
  | .tkill grid => Sys2Proof.Machine.execTkill grid s
  | .xcopy d a q => Sys2Proof.Machine.execXcopy d a q s
  | .xgather d a q => Sys2Proof.Machine.execXgather d a q s
  | .xscatter d a q => Sys2Proof.Machine.execXscatter d a q s
  | .xfill d a q => Sys2Proof.Machine.execXfill d a q s
  | .xcancel d a => Sys2Proof.Machine.execXcancel d a s
  | .evpop d q => Sys2Proof.Machine.execEvpop d q s
  | .evwait d q => Sys2Proof.Machine.execEvwait d q s
  | .evcfg d a => Sys2Proof.Machine.execEvcfg d a s
  | .trayflush d a all => Sys2Proof.Machine.execTrayflush d a all s
  | .traycfg d a => Sys2Proof.Machine.execTraycfg d a s
  | .lycfg d a f => Sys2Proof.Machine.execLycfg d a f s
  | .mloop d a q => Sys2Proof.Machine.execMloop d a q s
  | .accopen d a => Sys2Proof.Machine.execAccopen d a s
  | .accdrain d a q => Sys2Proof.Machine.execAccdrain d a q s
  | .accabort d a => Sys2Proof.Machine.execAccabort d a s
  | .accwait d a => Sys2Proof.Machine.execAccwait d a s
  | .pgmap d a w x => Sys2Proof.Machine.execPgmap d a w x s
  | .pgtake d put => Sys2Proof.Machine.execPgtake d put s
  | .pgunmap d a free => Sys2Proof.Machine.execPgunmap d a free s
  | .pginv d a => Sys2Proof.Machine.execPginv d a s
  | .pgharvest d a => Sys2Proof.Machine.execPgharvest d a s
  | .pgmigrate d a => Sys2Proof.Machine.execPgmigrate d a s
  | .pgquery d a => Sys2Proof.Machine.execPgquery d a s
  | .csheet d a f => Sys2Proof.Machine.execCsheet d a f s
  | .halodecl d a => Sys2Proof.Machine.execHalodecl d a s
  | .halopush d a => Sys2Proof.Machine.execHalopush d a s
  | .haloend d a => Sys2Proof.Machine.execHaloend d a s
  | .lclaim d a => Sys2Proof.Machine.execLclaim d a s
  | .cwb d a => Sys2Proof.Machine.execCwb d a s
  | .cinv d a => Sys2Proof.Machine.execCinv d a s
  | .sget d r => Sys2Proof.Machine.execSget d r s
  | .sset a r => Sys2Proof.Machine.execSset a r s
  | .svc n => Sys2Proof.Machine.execSvc n s
  | .trap n => Sys2Proof.Machine.execTrap n s
  | .eret => Sys2Proof.Machine.execEret s
  | .eretRetry => Sys2Proof.Machine.execEretRetry s
  | .eretSkip => Sys2Proof.Machine.execEretSkip s
  | .lanePair x y => Sys2Proof.Machine.execLanePair x y s
  | .vadd w => Sys2Proof.Machine.execVadd w s
  | .vsub w => Sys2Proof.Machine.execVsub w s
  | .vmul w => Sys2Proof.Machine.execVmul w s
  | .vmulh w => Sys2Proof.Machine.execVmulh w s
  | .vmad w => Sys2Proof.Machine.execVmad w s
  | .vand w => Sys2Proof.Machine.execVand w s
  | .vor w => Sys2Proof.Machine.execVor w s
  | .vxor w => Sys2Proof.Machine.execVxor w s
  | .vandn w => Sys2Proof.Machine.execVandn w s
  | .vnot w => Sys2Proof.Machine.execVnot w s
  | .vshl w => Sys2Proof.Machine.execVshl w s
  | .vshr w => Sys2Proof.Machine.execVshr w s
  | .vsar w => Sys2Proof.Machine.execVsar w s
  | .vrol w => Sys2Proof.Machine.execVrol w s
  | .vmin w => Sys2Proof.Machine.execVmin w s
  | .vmax w => Sys2Proof.Machine.execVmax w s
  | .vabs w => Sys2Proof.Machine.execVabs w s
  | .vneg w => Sys2Proof.Machine.execVneg w s
  | .vclz w => Sys2Proof.Machine.execVclz w s
  | .vpopc w => Sys2Proof.Machine.execVpopc w s
  | .vbrev w => Sys2Proof.Machine.execVbrev w s
  | .vbfx w => Sys2Proof.Machine.execVbfx w s
  | .vbfi w => Sys2Proof.Machine.execVbfi w s
  | .vsel w => Sys2Proof.Machine.execVsel w s
  | .vmov w => Sys2Proof.Machine.execVmov w s
  | .vli w => Sys2Proof.Machine.execVli w s
  | .vcmp w => Sys2Proof.Machine.execVcmp w s
  | .vaddc w => Sys2Proof.Machine.execVaddc w s
  | .vidx w => Sys2Proof.Machine.execVidx w s
  | .vsad w => Sys2Proof.Machine.execVsad w s
  | .fadd w => Sys2Proof.Machine.execFadd w s
  | .fsub w => Sys2Proof.Machine.execFsub w s
  | .fmul w => Sys2Proof.Machine.execFmul w s
  | .ffma w => Sys2Proof.Machine.execFfma w s
  | .fmin w => Sys2Proof.Machine.execFmin w s
  | .fmax w => Sys2Proof.Machine.execFmax w s
  | .fcmp w => Sys2Proof.Machine.execFcmp w s
  | .fclass w => Sys2Proof.Machine.execFclass w s
  | .frnd w => Sys2Proof.Machine.execFrnd w s
  | .fldexp w => Sys2Proof.Machine.execFldexp w s
  | .ffrexp w => Sys2Proof.Machine.execFfrexp w s
  | .fdot2 w => Sys2Proof.Machine.execFdot2 w s
  | .fdot4 w => Sys2Proof.Machine.execFdot4 w s
  | .fscale w => Sys2Proof.Machine.execFscale w s
  | .frcp w => Sys2Proof.Machine.execFrcp w s
  | .frsq w => Sys2Proof.Machine.execFrsq w s
  | .fsqrt w => Sys2Proof.Machine.execFsqrt w s
  | .fdiv w => Sys2Proof.Machine.execFdiv w s
  | .fexp2 w => Sys2Proof.Machine.execFexp2 w s
  | .flog2 w => Sys2Proof.Machine.execFlog2 w s
  | .fsin w => Sys2Proof.Machine.execFsin w s
  | .fcos w => Sys2Proof.Machine.execFcos w s
  | .ftanh w => Sys2Proof.Machine.execFtanh w s
  | .cvt w => Sys2Proof.Machine.execCvt w s
  | .cvtef w => Sys2Proof.Machine.execCvtef w s
  | .pack w => Sys2Proof.Machine.execPack w s
  | .unpack w => Sys2Proof.Machine.execUnpack w s
  | .shfl w => Sys2Proof.Machine.execShfl w s
  | .shflx w => Sys2Proof.Machine.execShflx w s
  | .shflup w => Sys2Proof.Machine.execShflup w s
  | .shfldn w => Sys2Proof.Machine.execShfldn w s
  | .bcast w => Sys2Proof.Machine.execBcast w s
  | .ballot w => Sys2Proof.Machine.execBallot w s
  | .vote w => Sys2Proof.Machine.execVote w s
  | .scan w => Sys2Proof.Machine.execScan w s
  | .lred w => Sys2Proof.Machine.execLred w s
  | .compact w => Sys2Proof.Machine.execCompact w s
  | .vreadl w => Sys2Proof.Machine.execVreadl w s
  | .vwritel w => Sys2Proof.Machine.execVwritel w s
  | .ld w => Sys2Proof.Machine.execLd w s
  | .st w => Sys2Proof.Machine.execSt w s
  | .lds w => Sys2Proof.Machine.execLds w s
  | .sts w => Sys2Proof.Machine.execSts w s
  | .atom w => Sys2Proof.Machine.execAtom w s
  | .atoms w => Sys2Proof.Machine.execAtoms w s
  | .red w => Sys2Proof.Machine.execRed w s
  | .pref w => Sys2Proof.Machine.execPref w s
  | .trace w => Sys2Proof.Machine.execTrace w s
  | .traceq w => Sys2Proof.Machine.execTraceq w s
  | .hitget w => Sys2Proof.Machine.execHitget w s
  | .primemit w => Sys2Proof.Machine.execPrimemit w s
  | .sample w => Sys2Proof.Machine.execSample w s
  | .samplel w => Sys2Proof.Machine.execSamplel w s
  | .sampleg w => Sys2Proof.Machine.execSampleg w s
  | .texld w => Sys2Proof.Machine.execTexld w s
  | .texst w => Sys2Proof.Machine.execTexst w s
  | .lyins w => Sys2Proof.Machine.execLyins w s
  | .lyread w => Sys2Proof.Machine.execLyread w s
  | .lyresolve w => Sys2Proof.Machine.execLyresolve w s
  | .lyclear w => Sys2Proof.Machine.execLyclear w s
  | .mma w => Sys2Proof.Machine.execMma w s
  | .vmm w => Sys2Proof.Machine.execVmm w s
  | .accred w => Sys2Proof.Machine.execAccred w s
  | .accpeek w => Sys2Proof.Machine.execAccpeek w s
  | .trayput w => Sys2Proof.Machine.execTrayput w s
  | .trayget w => Sys2Proof.Machine.execTrayget w s
  | .laneOpSettle core slot k => Sys2Proof.Machine.execLaneOpSettle core slot k s
  | .trapEntry core slot => Sys2Proof.Machine.execTrapEntry core slot s
  | .feedVectorArrive core slot f => Sys2Proof.Machine.execFeedVectorArrive core slot f s
  | .fragmentReturn core slot => Sys2Proof.Machine.execFragmentReturn core slot s
  | .backoffExpiry core slot b => Sys2Proof.Machine.execBackoffExpiry core slot b s
  | .spinDemotion core slot => Sys2Proof.Machine.execSpinDemotion core slot s
  | .issueAgePromotion core slot => Sys2Proof.Machine.execIssueAgePromotion core slot s
  | .barrierRemoteArrival k => Sys2Proof.Machine.execBarrierRemoteArrival k s
  | .waitaReread core slot b => Sys2Proof.Machine.execWaitaReread core slot b s
  | .waitaPeriodicReread core slot b => Sys2Proof.Machine.execWaitaPeriodicReread core slot b s
  | .waitaFabTimeout core slot b => Sys2Proof.Machine.execWaitaFabTimeout core slot b s
  | .safelightExpiry ctx => Sys2Proof.Machine.execSafelightExpiry ctx s
  | .faultQueuePostResume core slot b => Sys2Proof.Machine.execFaultQueuePostResume core slot b s
  | .queueEnableSet q => Sys2Proof.Machine.execQueueEnableSet q s
  | .queueEnableClear q => Sys2Proof.Machine.execQueueEnableClear q s
  | .queueDoorbell q tail => Sys2Proof.Machine.execQueueDoorbell q tail s
  | .registerWrite r v => Sys2Proof.Machine.execRegisterWrite r v s
  | .mailboxDoneClear => Sys2Proof.Machine.execMailboxDoneClear s
  | .queueActivate q => Sys2Proof.Machine.execQueueActivate q s
  | .queuePreempt q => Sys2Proof.Machine.execQueuePreempt q s
  | .sliceExpiry q => Sys2Proof.Machine.execSliceExpiry q s
  | .readyAgePromotion q => Sys2Proof.Machine.execReadyAgePromotion q s
  | .launch q => Sys2Proof.Machine.execLaunch q s
  | .draw q => Sys2Proof.Machine.execDraw q s
  | .signalPkt q => Sys2Proof.Machine.execSignalPkt q s
  | .waitPkt q => Sys2Proof.Machine.execWaitPkt q s
  | .barrierPkt q => Sys2Proof.Machine.execBarrierPkt q s
  | .ctxopCreate q => Sys2Proof.Machine.execCtxopCreate q s
  | .ctxopBind q => Sys2Proof.Machine.execCtxopBind q s
  | .ctxopUnbind q => Sys2Proof.Machine.execCtxopUnbind q s
  | .ctxopUpdate q => Sys2Proof.Machine.execCtxopUpdate q s
  | .ctxopQuarantine q => Sys2Proof.Machine.execCtxopQuarantine q s
  | .ctxopDestroy q => Sys2Proof.Machine.execCtxopDestroy q s
  | .packetDeferredStart q => Sys2Proof.Machine.execPacketDeferredStart q s
  | .waitReread q => Sys2Proof.Machine.execWaitReread q s
  | .waitPeriodicPoll q => Sys2Proof.Machine.execWaitPeriodicPoll q s
  | .waitTimeout q => Sys2Proof.Machine.execWaitTimeout q s
  | .bindRetry q => Sys2Proof.Machine.execBindRetry q s
  | .unbindComplete ctx => Sys2Proof.Machine.execUnbindComplete ctx s
  | .gridComplete g => Sys2Proof.Machine.execGridComplete g s
  | .taskDispatch q => Sys2Proof.Machine.execTaskDispatch q s
  | .groupPlace g => Sys2Proof.Machine.execGroupPlace g s
  | .bankConversionDone core bank => Sys2Proof.Machine.execBankConversionDone core bank s
  | .groupSettled gid => Sys2Proof.Machine.execGroupSettled gid s
  | .groupRestore gid => Sys2Proof.Machine.execGroupRestore gid s
  | .trayDeadline core k => Sys2Proof.Machine.execTrayDeadline core k s
  | .trayWaveStart core => Sys2Proof.Machine.execTrayWaveStart core s
  | .finderSegmentStart core g => Sys2Proof.Machine.execFinderSegmentStart core g s
  | .teamOpStart core gid team => Sys2Proof.Machine.execTeamOpStart core gid team s
  | .partialArrive k => Sys2Proof.Machine.execPartialArrive k s
  | .mloopComplete core op => Sys2Proof.Machine.execMloopComplete core op s
  | .drainComplete core op => Sys2Proof.Machine.execDrainComplete core op s
  | .transferTranslationEnd core op => Sys2Proof.Machine.execTransferTranslationEnd core op s
  | .transferLocksClear core op => Sys2Proof.Machine.execTransferLocksClear core op s
  | .transferComplete core op => Sys2Proof.Machine.execTransferComplete core op s
  | .eventRecordPostResume core op => Sys2Proof.Machine.execEventRecordPostResume core op s
  | .engineFaultTaken core op => Sys2Proof.Machine.execEngineFaultTaken core op s
  | .loupeBatchClose => Sys2Proof.Machine.execLoupeBatchClose s
  | .frameFillComplete f => Sys2Proof.Machine.execFrameFillComplete f s
  | .fillPoolUnreachable f => Sys2Proof.Machine.execFillPoolUnreachable f s
  | .unitReplay core slot => Sys2Proof.Machine.execUnitReplay core slot s
  | .enlargerEvict => Sys2Proof.Machine.execEnlargerEvict s
  | .evictionComplete f => Sys2Proof.Machine.execEvictionComplete f s
  | .poolFrameMove f => Sys2Proof.Machine.execPoolFrameMove f s
  | .zeroingDone f => Sys2Proof.Machine.execZeroingDone f s
  | .homeGets k => Sys2Proof.Machine.execHomeGets k s
  | .homeGetm k => Sys2Proof.Machine.execHomeGetm k s
  | .homeUpg k => Sys2Proof.Machine.execHomeUpg k s
  | .homePuts k => Sys2Proof.Machine.execHomePuts k s
  | .homePute k => Sys2Proof.Machine.execHomePute k s
  | .homePutm k => Sys2Proof.Machine.execHomePutm k s
  | .homePuto k => Sys2Proof.Machine.execHomePuto k s
  | .homeUnblock k => Sys2Proof.Machine.execHomeUnblock k s
  | .homeOwnack k => Sys2Proof.Machine.execHomeOwnack k s
  | .homeCleanack k => Sys2Proof.Machine.execHomeCleanack k s
  | .homeWbdata k => Sys2Proof.Machine.execHomeWbdata k s
  | .homeHack k => Sys2Proof.Machine.execHomeHack k s
  | .l1Data k => Sys2Proof.Machine.execL1Data k s
  | .l1Datae k => Sys2Proof.Machine.execL1Datae k s
  | .l1Datam k => Sys2Proof.Machine.execL1Datam k s
  | .l1Grant k => Sys2Proof.Machine.execL1Grant k s
  | .l1Invack k => Sys2Proof.Machine.execL1Invack k s
  | .l1Inv k => Sys2Proof.Machine.execL1Inv k s
  | .l1Fwdgets k => Sys2Proof.Machine.execL1Fwdgets k s
  | .l1Fwdgetm k => Sys2Proof.Machine.execL1Fwdgetm k s
  | .l1Pullwb k => Sys2Proof.Machine.execL1Pullwb k s
  | .l1Noticeack k => Sys2Proof.Machine.execL1Noticeack k s
  | .l1Wback k => Sys2Proof.Machine.execL1Wback k s
  | .l1Hpush k => Sys2Proof.Machine.execL1Hpush k s
  | .l1Hcommit k => Sys2Proof.Machine.execL1Hcommit k s
  | .l1Retry k => Sys2Proof.Machine.execL1Retry k s
  | .requestResend k => Sys2Proof.Machine.execRequestResend k s
  | .forwardTimeout core => Sys2Proof.Machine.execForwardTimeout core s
  | .uncorrectableSoftError site => Sys2Proof.Machine.execUncorrectableSoftError site s
  | .modeChange on => Sys2Proof.Machine.execModeChange on s
  | .memoryLineReturn line => Sys2Proof.Machine.execMemoryLineReturn line s
  | .bisnpReceive line inv => Sys2Proof.Machine.execBisnpReceive line inv s
  | .externalRequest agent req => Sys2Proof.Machine.execExternalRequest agent req s
  | .glinorFlitReceive port f => Sys2Proof.Machine.execGlinorFlitReceive port f s
  | .portEnable p => Sys2Proof.Machine.execPortEnable p s
  | .portTrainingEnd p lanes => Sys2Proof.Machine.execPortTrainingEnd p lanes s
  | .portTrainingTimeout p => Sys2Proof.Machine.execPortTrainingTimeout p s
  | .portResendLimit p => Sys2Proof.Machine.execPortResendLimit p s
  | .portLaneLost p => Sys2Proof.Machine.execPortLaneLost p s
  | .portFence p => Sys2Proof.Machine.execPortFence p s
  | .portReset p => Sys2Proof.Machine.execPortReset p s
  | .cxlPortDown p => Sys2Proof.Machine.execCxlPortDown p s
  | .poolDecoderWrite k enable base size => Sys2Proof.Machine.execPoolDecoderWrite k enable base size s
  | .agentJoin kind route => Sys2Proof.Machine.execAgentJoin kind route s
  | .peerLost id cause => Sys2Proof.Machine.execPeerLost id cause s
  | .completionTimeout id => Sys2Proof.Machine.execCompletionTimeout id s
  | .linkKeyChange port => Sys2Proof.Machine.execLinkKeyChange port s
  | .getInfo r => Sys2Proof.Machine.execGetInfo r s
  | .setPoolTarget r => Sys2Proof.Machine.execSetPoolTarget r s
  | .getLogState r => Sys2Proof.Machine.execGetLogState r s
  | .readLog r => Sys2Proof.Machine.execReadLog r s
  | .setLogHead r => Sys2Proof.Machine.execSetLogHead r s
  | .getSensors r => Sys2Proof.Machine.execGetSensors r s
  | .setPowerLimit r => Sys2Proof.Machine.execSetPowerLimit r s
  | .getPorts r => Sys2Proof.Machine.execGetPorts r s
  | .frequencyChange mhz => Sys2Proof.Machine.execFrequencyChange mhz s
  | .deviceReset => Sys2Proof.Machine.execDeviceReset s
  | .startUpComplete => Sys2Proof.Machine.execStartUpComplete s
  | .flashImageWrite slot img => Sys2Proof.Machine.execFlashImageWrite slot img s
  | .spdmGetVersion path => Sys2Proof.Machine.execSpdmGetVersion path s
  | .spdmGetCapabilities path => Sys2Proof.Machine.execSpdmGetCapabilities path s
  | .spdmNegotiateAlgorithms path => Sys2Proof.Machine.execSpdmNegotiateAlgorithms path s
  | .spdmGetDigests path => Sys2Proof.Machine.execSpdmGetDigests path s
  | .spdmGetCertificate path => Sys2Proof.Machine.execSpdmGetCertificate path s
  | .spdmChallenge path => Sys2Proof.Machine.execSpdmChallenge path s
  | .spdmGetMeasurements path => Sys2Proof.Machine.execSpdmGetMeasurements path s
  | .spdmKeyExchange path => Sys2Proof.Machine.execSpdmKeyExchange path s
  | .spdmFinish path => Sys2Proof.Machine.execSpdmFinish path s
  | .spdmEndSession path => Sys2Proof.Machine.execSpdmEndSession path s
  | .scalarAccessAnswered core slot b => Sys2Proof.Machine.execScalarAccessAnswered core slot b s
  | .birspReceive line agent => Sys2Proof.Machine.execBirspReceive line agent s
  | .biconflictReceive line ack => Sys2Proof.Machine.execBiconflictReceive line ack s
  | .correctableSoftError ctx core unit bank => Sys2Proof.Machine.execCorrectableSoftError ctx core unit bank s
  | .ideKmRequest port m => Sys2Proof.Machine.execIdeKmRequest port m s

end Sys2Proof.Machine
end

