-- ==== Sys2Proof/Machine/Place.lean ====
section
/-! DEFINITION. Machine/Place.lean: a machine that runs one given word next (log 6): a context whose page table maps the
first 512 MiB onto local memory, a queue, a grid, a group and a wave on core 0, and the word's bytes. -/

namespace Sys2Proof.Machine

/-- Where the word is placed. -/
def codeVa : Nat := 0x20000
/-- Root of the page table. -/
def rootPa : Nat := 0x10000000

/-- The context's descriptor. -/
def placeDesc : CtxDesc :=
  { ctxId := 1, accWays := 8, plainOk := false, wdShift := 0, fabTimeout := 0, fqOrder := 0, elOrder := 0, fqMsix := 0,
    ptRoot := rootPa, trapVector := 0x40000, supData := 0, fqBase := 0x50000, elBase := 0x60000, saveBase := 0x70000,
    saveBlocks := 1, resvBase := 0, resvLimit := 0 }

/-- The context. -/
def placeCtx : Ctx :=
  { st := .running, desc := placeDesc, slot := some 0, key := 0, sheets := [], halos := [], unbinding := false, dog := 0 }

/-- The kernel: every register of R41's bounds. -/
def placeKernel : KDesc :=
  { graphics := false, coresident := false, scodeOffset := 0, scodeSize := 4096, lcodeOffset := 0, lcodeSize := 4096,
    constOffset := 0, constSize := 0, dataOffset := 0, dataSize := 0, entryOffset := 0, vregBlocks := 32, sregCount := 192,
    groupWaves := 1, teamSize := 0, barrierCount := 16, scratchBytes := 0, fifoBytes := 0, trayCount := 0, roles := [],
    trays := [] }

/-- The grid. -/
def placeGrid : Grid :=
  { src := .packet 0 0, ctx := 1, queue := 0, image := codeVa, karg := 0, nx := 1, ny := 1, nz := 1, desc := placeKernel,
    prio := 0, ready := 0, next := 1, live := 1, killed := false, anyKilled := false, ended := false, doneAddr := 0, doneVal := 0, irq := false,
    ages := [], draw := none }

/-- The group. -/
def placeGroup : Group :=
  { grid := 0, index := 0, gx := 0, gy := 0, gz := 0, waves := 1, core := 0, gslot := 0, tag := 0, st := .resident,
    scratchBytes := 0, fifoBytes := 0, scratch := [], bad := [], scratchGran := [], fifoGran := [], slots := [0], wantBanks := [], msgs := [],
    sendQ := [], recvQ := [], pools := [], claimQ := [], barriers := [], barrierCount := 16, trayCount := 0, isTray := false,
    live := 1, exited := [] }

/-- The fragment at the word. -/
def placeFrag : Frag :=
  { m0 := 0xFFFFFFFF, pc := BitVec.ofNat 64 codeVa, flags := Flags.zero, depth := 0, token := 0, wait := .none, handler := false }

/-- The wave, with a strip of the word when it is a lane word. -/
def placeWave (lane : Bool) : Wave :=
  { core := 0, slot := 0, gid := 0,
    ident := { waveid := 0, groupx := 0, groupy := 0, groupz := 0, gridx := 1, gridy := 1, gridz := 1, groupwaves := 1,
               role := 0, team := 0, karg := 0 },
    lcbase := BitVec.ofNat 64 codeVa, priv := .u, sregs := [], vregs := [], masks := [], valloc := 256, sbound := 192,
    fragA := some placeFrag, fragB := none, bOlder := false, stack := [], feeds := [], evqs := [],
    strips := if lane then [{ lcidx := 0, len := 1, b := false }] else [], headOff := 0, lstop := false, fenceR := 0, fenceW := 0, ops := [], late := [], nextOp := 0,
    trap := .none, held := [], treg := TrapRegs.zero, shadow := Shadow.zero, yieldOn := [], yieldClaim := [], poison := [], age := 0,
    starved := false, spin := 0, demoted := false, backoffCount := 0, tray := none }

/-- The page table (a table entry, then a 512 MiB leaf that reads, writes and executes) and the word's bytes. -/
def placeMem (nbits w : Nat) : List Host.Cell :=
  let m0 := writeNum [] codeVa (if nbits = 96 then 12 else 8) w
  writeNum (writeNum m0 rootPa 8 (rootPa + 0x20000 + 1)) (rootPa + 0x20000) 8 0x73

/-- The machine with the word where the next step fetches it. -/
def placeWord (s : State) (nbits w : Nat) : State :=
  let lane := nbits = 96
  { s with
    turns := [if lane then .l 0 0 else .s 0 0 false],
    mem := placeMem nbits w, extBytes := [], tamper := [], waves := [(0, placeWave lane)], groups := [(0, placeGroup)],
    grids := [(0, placeGrid)], queues := [(0, { Queue.init with st := .active, enable := true, ctxId := 1 })],
    ctxs := [(1, placeCtx)], cores := [], accs := [], nextGid := 1, nextGrid := 1,
    coh := State.reset.coh, vm := State.reset.vm }

end Sys2Proof.Machine
end

