-- ==== Sys2Proof/Safety.lean ====
section
/-! DEFINITION. Safety.lean: what the claims call a good state, an issuing fragment or strip, and the effect of a word that
touches its wave alone. -/

namespace Sys2Proof

open Machine

/-- Memory is in canonical form: addresses strictly rising, no listed zero (log 1). -/
def MemOk (s : State) : Prop := Memory.wf s.mem = true

/-- No message of the protocol is on its way, and no line's entry is in a transaction (R272). -/
def Settled (s : State) : Prop := ∀ line, settledLine s line = true

/-- A step goes on: neither a fault nor a refusal. -/
def GoesOn (s : State) : Prop := ∃ t, step s = .next t

/-- `exec i s` answers a next state that has a property. -/
def Answers (i : Instr) (s : State) (p : State → Prop) : Prop := ∃ t, exec i s = .next t ∧ p t

/-! ## Scalar words -/

/-- The fragment `f` of the wave `w` is the one whose scalar word `exec` runs. -/
def Issues (s : State) (w : Wave) (f : Frag) : Prop :=
  waveAt s s.cur.core s.cur.slot = some w ∧ fragOf w s.cur.b = some f

/-- The wave `v` is `w` with its fragment in slot `b` at `pc` with `flags`, waiting on nothing. The other fragment stays,
and no field differs but the registers, the masks, the two fragment slots and the scheduler's spin count, demotion and
age (R168, R169). -/
structure Moved (b : Bool) (w v : Wave) (f : Frag) (flags : Flags) (pc : DWord) : Prop where
  frag : fragOf v b = some { f with pc := pc, flags := flags, wait := .none }
  other : fragOf v (!b) = fragOf w (!b)
  frame : v = { w with sregs := v.sregs, masks := v.masks, fragA := v.fragA, fragB := v.fragB, spin := v.spin,
                       demoted := v.demoted, age := v.age }

/-- A word that writes its wave alone: it answers `s` with the wave's scalar registers reading as `regs`, its masks as
`masks`, its fragment's flags and pc as given, and everything else as it was: memory, every other wave, every other
piece of state. -/
def ScalarDone (i : Instr) (s : State) (w : Wave) (f : Frag) (regs masks : Nat → Word) (flags : Flags) (pc : DWord) : Prop :=
  ∃ v, exec i s = .next (putWave s v) ∧ Moved s.cur.b w v f flags pc ∧ (∀ n, rdS v n = regs n) ∧ ∀ n, rdM v f n = masks n

/-- As `ScalarDone`, over a state `t` that the word's own effect has made of `s`. -/
def ScalarDoneAt (i : Instr) (s t : State) (w : Wave) (f : Frag) (regs masks : Nat → Word) (flags : Flags) (pc : DWord) : Prop :=
  ∃ v, exec i s = .next (putWave t v) ∧ Moved s.cur.b w v f flags pc ∧ (∀ n, rdS v n = regs n) ∧ ∀ n, rdM v f n = masks n

/-- The scalar registers after a write of `x` to register `d`: `s0` reads zero and takes no write (R179). -/
def setReg (w : Wave) (d : Nat) (x : Word) (n : Nat) : Word := if n = 0 then 0 else if n = d then x else rdS w n

/-- The scalar registers after a write of `x` to the pair `d`, `d + 1` (R51). -/
def setPair (w : Wave) (d : Nat) (x : DWord) (n : Nat) : Word :=
  if n = 0 then 0 else if n = d then x.setWidth 32 else if n = d + 1 then (x >>> 32).setWidth 32 else rdS w n

/-- The scalar registers after a write over a type's width. -/
def setTyped (wide : Bool) (w : Wave) (d : Nat) (x : Word) (y : DWord) : Nat → Word :=
  if wide then setPair w d y else setReg w d x

/-- The masks after a write of `x` to mask `d`; `m0` belongs to the fragment and takes no write (R159, R163). -/
def setMask (w : Wave) (f : Frag) (d : Nat) (x : Word) (n : Nat) : Word := if n = d ∧ n ≠ 0 then x else rdM w f n

/-! ## Traps -/

/-- The fragment `f` of the wave `w` issues at U in the context `c`, with no trap in hand and no strip queued. -/
def AtUser (s : State) (w : Wave) (f : Frag) (c : Ctx) : Prop :=
  Issues s w f ∧ w.priv = .u ∧ (w.trap = .none ∨ w.trap = .pending) ∧ w.strips = [] ∧ ctxOf s (ctxIdOf s w.gid) = some c

/-- The word `i` takes a trap: in the next state the wave is at S, its trap registers hold cause and unit, the fragment's
mask, an address, an information word and the pc given, and the fragment stands in the handler at trap_vector (R355,
R358). -/
def TrapTaken (i : Instr) (s : State) (f : Frag) (c : Ctx) (cause : Cause) (unit : Nat) (addr : DWord) (info : Word) (pc : DWord) :
    Prop :=
  Answers i s (fun t => ∃ v g, waveAt t s.cur.core s.cur.slot = some v ∧ v.priv = .s
    ∧ v.treg = { cause := BitVec.ofNat 32 (causeCode cause + 64 * unit), pc := pc, addr := addr, mask := f.m0, info := info }
    ∧ fragOf v s.cur.b = some g ∧ g.handler = true ∧ g.pc = BitVec.ofNat 64 c.desc.trapVector ∧ g.m0 = f.m0)

/-! ## Shapes the statements share -/

/-- A two-operand word's result over both widths (R181): registers 32 bits wide, or pairs for the 64-bit types. -/
def TwoOperand (i : Instr) (t : SType) (d a b : SReg) (op : (n : Nat) → BitVec n → BitVec n → BitVec n) : Prop :=
  ∀ s w f, Issues s w f →
    ScalarDone i s w f
      (setTyped (stypeWide t) w d.toNat (op 32 (rdS w a.toNat) (rdS w b.toNat)) (op 64 (rdP w a.toNat) (rdP w b.toNat)))
      (rdM w f) f.flags (f.pc + 4)

/-- A word that writes `x` to one scalar register, and nothing else of its wave but the fragment's pc. -/
def OneRegister (i : Instr) (d : SReg) (x : Wave → Frag → Word) : Prop :=
  ∀ s w f, Issues s w f → ScalarDone i s w f (setReg w d.toNat (x w f)) (rdM w f) f.flags (f.pc + 4)

/-- The word `i` answers `x` in its status register over the state `t` that its own effect has made of `s`. -/
def AnswersIn (i : Instr) (s t : State) (w : Wave) (f : Frag) (d : SReg) (x : Word) : Prop :=
  ScalarDoneAt i s t w f (setReg w d.toNat x) (rdM w f) f.flags (f.pc + 4)

/-! ## Lane words -/

/-- The wave `w` runs its head strip `t` in the fragment `f`: no operation is outstanding, nothing waits for the strip's end, no
trap enters, and no reduction is on its way through the switches (R100). -/
structure Streams (s : State) (w : Wave) (t : Strip) (f : Frag) : Prop where
  wave : waveAt s s.cur.core s.cur.slot = some w
  head : w.strips.head? = some t
  frag : fragOf w t.b = some f
  ops : w.ops = []
  late : w.late = []
  lstop : w.lstop = false
  trap : ∀ r, w.trap ≠ .entering r
  fab : s.link.merging = []

/-- The lanes in which a word with a guard executes (R5, R160). -/
def activeOf (w : Wave) (f : Frag) (guard : Nat) (l : Nat) : Bool :=
  decide (l < 32) && (f.m0 &&& rdM w f guard).getLsbD l

/-- Word `k` of an exact integer that a lane's result of a type holds: narrowed to the type, then extended (R51, R53). -/
def laneVal (t : LType) (x : Int) (k : Nat) : Word :=
  if is64 t then ((BitVec.ofInt 64 x) >>> (32 * k)).setWidth 32
  else if isSigned t then (BitVec.ofInt (ltypeBits t) x).signExtend 32 else (BitVec.ofInt (ltypeBits t) x).setWidth 32

/-- The elements after results of a type go to register `vd`, or the pair `vd`, `vd + 1`, in some lanes; no other changes. -/
def setLanes (w : Wave) (t : LType) (vd : BitVec 8) (act : Nat → Bool) (x : Nat → Int) (r l : Nat) : Word :=
  if act l ∧ r = vd.toNat then laneVal t (x l) 0
  else if act l ∧ is64 t = true ∧ r = vd.toNat + 1 then laneVal t (x l) 1 else rdElem w r l

/-- The mask bits after bits go to mask `n` in some lanes; no other changes. -/
def setMaskBits (w : Wave) (n : Nat) (act : Nat → Bool) (x : Nat → Bool) (m l : Nat) : Bool :=
  if act l ∧ m = n ∧ n ≠ 0 then x l else (Tab.get 0 w.masks m).getLsbD l

/-- The L-stream has gone past one word of its head strip: the next word follows, or, at the strip's end, the next strip. Of
the rest of the wave only its vector registers, masks, feeds, operation numbers and scheduling counts may differ: the
fragments keep mask, pc, flags and depth. -/
structure Past (w v : Wave) (t : Strip) : Prop where
  next : w.headOff + 1 < t.len → v.strips = w.strips ∧ v.headOff = w.headOff + 1
  ends : t.len ≤ w.headOff + 1 → v.strips = w.strips.drop 1 ∧ v.headOff = 0
  frags : ∀ b, (fragOf v b).map (fun g => { g with wait := .none }) = (fragOf w b).map (fun g => { g with wait := .none })
  frame : v = { w with vregs := v.vregs, masks := v.masks, feeds := v.feeds, strips := v.strips, headOff := v.headOff, nextOp := v.nextOp,
                       fenceR := v.fenceR, fenceW := v.fenceW, fragA := v.fragA, fragB := v.fragB, stack := v.stack,
                       shadow := v.shadow, spin := v.spin, demoted := v.demoted, age := v.age }

/-- A fixed-latency lane word: its elements and mask bits are written, the feeds it reads are popped, the L-stream goes past it,
and nothing but its wave changes. -/
def LaneDone (i : Instr) (s : State) (w : Wave) (t : Strip) (feeds : List Nat) (els : Nat → Nat → Word)
    (masks : Nat → Nat → Bool) : Prop :=
  ∃ v, exec i s = .next (putWave s v) ∧ Past w v t ∧ v.nextOp = w.nextOp ∧ v.feeds = (popFeeds w feeds).feeds
    ∧ (∀ r l, l < 32 → rdElem v r l = els r l) ∧ ∀ n l, l < 32 → (Tab.get 0 v.masks n).getLsbD l = masks n l

/-- The feeds that an L-format word reads have the vectors it pops, or have ended, and none of those faults (R175). -/
def FeedsReady (w : Wave) (x : LWord) : Prop := feedReady w (feedsOf x) = true ∧ feedFault w (feedsOf x) = none

/-- A variable-latency lane word has issued over the state `t`: its operation, as given, is the wave's one outstanding one, the
L-stream goes on behind it, stopping at a stop mark or the strip's end (R164, R165), and nothing else changes but the feeds
popped. -/
def Issued (i : Instr) (s t : State) (w : Wave) (p : Strip) (stop : Bool) (feeds : List Nat) (o : LaneOp) : Prop :=
  ∃ v, exec i s = .next (putWave t v) ∧ v.ops = [o] ∧ v.headOff = w.headOff + 1 ∧ v.nextOp = w.nextOp + 1
    ∧ v.lstop = (stop || decide (p.len ≤ w.headOff + 1)) ∧ v.feeds = (popFeeds w feeds).feeds
    ∧ v = { w with ops := v.ops, headOff := v.headOff, nextOp := v.nextOp, lstop := v.lstop, feeds := v.feeds,
                   spin := v.spin, demoted := v.demoted, age := v.age }

/-- A lane word whose results are known at issue, over the state `t`: with an active lane its operation, as given, is issued; with none the
operation has settled at once, and the L-stream has gone past the word with no register and no mask changed (R214). -/
def IssuedDone (i : Instr) (s t : State) (w : Wave) (p : Strip) (stop : Bool) (feeds : List Nat) (o : LaneOp) : Prop :=
  (o.active ≠ 0 → Issued i s t w p stop feeds o)
  ∧ (o.active = 0 → ∃ v, exec i s = .next (putWave t v) ∧ Past w v p ∧ v.nextOp = w.nextOp + 1 ∧ v.feeds = (popFeeds w feeds).feeds
      ∧ v.vregs = w.vregs ∧ v.masks = w.masks)

/-- The performer `p` takes the operation `o` through the lanes given, from `s` to `u`, with the register writes `ws`; none
faults, misses or waits. -/
def LanesGo (p : Performer) (o : LaneOp) : List Nat → State → State → List RegWrite → Prop
  | [], s, u, ws => u = s ∧ ws = []
  | l :: rest, s, u, ws => ∃ t a b, p o l s = (t, .ok a)
      ∧ LanesGo p { o with done := o.done ||| maskOf [l], res := o.res ++ a } rest t u b ∧ ws = a ++ b

/-- The operation that the wave `w` of `s` issues for a word of its head strip. -/
def opFor (s : State) (w : Wave) (t : Strip) (i : Instr) (act : Word) (addrs : Map DWord) (data : Map Word) : LaneOp :=
  { newOp w t i act addrs data with stamp := s.stamp }

/-- The wave with its one operation just issued: a store, an atomic or a `RED` has ended a spin (R169). -/
def started (s : State) (w : Wave) (o : LaneOp) : Wave :=
  let v := match laneAcc o.word with
    | .write | .update | .comm => spinReset s w
    | _ => w
  { v with nextOp := w.nextOp + 1, ops := [o] }

/-- The word `i` issues the operation `o` over `s`, which it has made of `s0`. A release whose core has halo data to push waits for the
push with no lane performed (R287). Otherwise, where the performer takes every active lane, ascending, from there to `u`, the word
answers over `u`, its operation as `out` gives it from the register writes. -/
def Performs (p : Performer) (i : Instr) (s0 s : State) (w : Wave) (t : Strip) (stop : Bool) (o : LaneOp) (out : List RegWrite → LaneOp) :
    Prop :=
  let v := started s w o
  ∀ u0 held, pushStep (putWave (nextStamp s) v) w.core (lanePushFirst i) = (u0, held) →
    (held = true → Issued i s0 u0 w t stop [] o)
    ∧ ∀ u ws, held = false → LanesGo p o (lanesOf o.active) u0 u ws → waveAt u w.core w.slot = some v →
        Issued i s0 u w t stop [] (out ws)

/-- The operation with every active lane done and the register writes `ws`. -/
def allDone (o : LaneOp) (ws : List RegWrite) : LaneOp := { o with done := o.active, res := ws }

/-! ## Queues -/

/-- A queue event: the queue's registers become `y`, and no other queue and nothing else changes. -/
def QueueBecomes (i : Instr) (s : State) (q : Nat) (y : Queue) : Prop :=
  ∃ t, exec i s = .next t ∧ queueOf t q = y ∧ (∀ p, p ≠ q → queueOf t p = queueOf s p) ∧ t = { s with queues := t.queues }

/-- The packet processor has the packet `n` at the head of the queue `q`, which dispatches (R119). -/
structure AtHead (s : State) (q n : Nat) : Prop where
  goes : dispatches s q = true
  more : (queueOf s q).head ≠ (queueOf s q).tail
  packet : headPacket s q = .ok n

/-- The packet at a queue's head passes: it starts and completes, over the state `t` that its own effect has made. Head goes past
it; with irq set the context's vector is raised (R119, R121). -/
def Passes (i : Instr) (s t : State) (q n : Nat) : Prop :=
  ∃ u, exec i s = .next u ∧ (queueOf u q).head = (queueOf t q).head + 1
    ∧ (queueOf u q).started = (queueOf t q).started.filter (fun p => p.idx != (queueOf t q).head)
    ∧ ((queueOf u q).st = (queueOf t q).st ∨ (queueOf t q).st = .active ∧ (queueOf u q).st = .idle)
    ∧ (∀ p, p ≠ q → queueOf u p = queueOf t p)
    ∧ (bit n 9 = false → (∀ p ∈ (queueOf t q).started, p.idx ≠ (queueOf t q).head) → u = { t with queues := u.queues })
    ∧ (bit n 9 = true → u = { t with queues := u.queues, msix := u.msix } ∧ ∃ v, u.msix = ((queueOf t q).ctxId, v) :: t.msix)

/-! ## Engine operations -/

/-- The record `r` of the operation `o` in slot `op` is posted over the state `t`: the wave's event queue has it, and the operation's
slot and locks are free; or, where the queue has no place, the operation keeps its slot with the record (R321, R324). -/
def Posts (i : Instr) (s t : State) (core op : Nat) (o : EngOp) (r : BitVec 256) : Prop :=
  ∃ u, exec i s = .next u ∧ u.mem = t.mem ∧ u.accs = t.accs ∧ ∀ w, waveOf t o.gid o.wave = some w →
    ((evqOf w o.q).recs.length < (evqOf w o.q).depth →
      Map.find (coreOf u core).ops op = none ∧ (∀ k ∈ (coreOf u core).locks ++ (coreOf u core).overflow, k.op ≠ op)
      ∧ ∃ v, Map.find u.waves (64 * w.core + w.slot) = some v ∧ (evqOf v o.q).recs = (evqOf w o.q).recs ++ [r])
    ∧ ((evqOf w o.q).depth ≤ (evqOf w o.q).recs.length →
      Map.find (coreOf u core).ops op = some { o with st := .waitPlace, final := some r })

/-! ## Coherence -/

/-- Message `k` is `m`, whose sender is not retired; the line's entry is `d`, and its state one of R271's own. -/
structure Reaches (s : State) (k : Nat) (m : Msg) (kind : MsgK) (d : Dir) : Prop where
  msg : s.coh.msgs[k]? = some m
  kind : m.k = kind
  live : m.src ≠ homeId → retiredId s m.src = false
  entry : dirOf s m.line = d
  plain : lineSt s m.line = d.st

/-- The entry of a line of this package with its home copy present (R273). -/
def homed (line : Nat) (d : Dir) : Dir := if line < 2 ^ 52 then { d with home := true } else d

/-- The messages on their way after message `k` has been taken and others have gone out now, behind those that are there already. -/
def msgsAfter (s : State) (k : Nat) (out : List Msg) : List Msg := s.coh.msgs.eraseIdx k ++ out.map (·.at_ s.clock)

/-- The home takes message `k`, at the line `line`: the entry becomes `d`, and the messages `out` go out. A full slice may drop the home copy
of another line; of the others' entries, and beside the protocol's state and the write-grant bits, nothing else changes. -/
def HomeDoes (i : Instr) (s : State) (k line : Nat) (d : Dir) (out : List Msg) : Prop :=
  ∃ u, exec i s = .next u ∧ dirOf u line = d ∧ u.coh.msgs = msgsAfter s k out
    ∧ (∀ l, l ≠ line → { dirOf u l with home := (dirOf s l).home } = dirOf s l) ∧ u.coh.l1 = s.coh.l1 ∧ u = { s with coh := u.coh, vm := u.vm }

/-- An L1 takes message `k` at one of its lines: the line becomes `l` (none: it is gone), and the messages `out` go out. -/
def L1Does (i : Instr) (s : State) (k core line : Nat) (l : Option L1Line) (out : List Msg) : Prop :=
  ∃ u, exec i s = .next u ∧ l1Of u core line = l ∧ u.coh.msgs = msgsAfter s k out
    ∧ (∀ j, j ≠ l1Key core line → Map.find u.coh.l1 j = Map.find s.coh.l1 j) ∧ u.coh.dir = s.coh.dir ∧ u = { s with coh := u.coh }

/-- A fill or a grant completes at an L1: its line is in state `st` and `Unblock` goes to the home; another line of the core may go to make
room. With the write-back buffer full and its place taken, the fill waits (R274). -/
def Fills (i : Instr) (s : State) (k core line : Nat) (l : L1Line) (st : L1St) : Prop :=
  (fillWaits s core line = true → exec i s = .next s)
  ∧ (fillWaits s core line = false → ∃ u, exec i s = .next u ∧ l1Of u core line = some { l with st := st, acksNeed := none, acksGot := 0 }
      ∧ (∃ out, u.coh.msgs = msgsAfter s k (toHome .unblock line core :: out)) ∧ u.coh.dir = s.coh.dir ∧ u = { s with coh := u.coh })

/-- No L1 has a copy of a line: only requests of its own that the home has not taken, and notices whose data has gone, are left. -/
def NoCopy (s : State) (line : Nat) : Prop :=
  ∀ e ∈ s.coh.l1, e.1 % 2 ^ 64 = line → e.2.st = .isD ∨ e.2.st = .imD ∨ e.2.st = .iiN

/-! ## Ports -/

/-- A port event: the port becomes `x`, and the change of its state is logged (R421 code 5); nothing else but the log changes. -/
def PortGoes (i : Instr) (s : State) (p : Nat) (x : Port) : Prop :=
  ∃ u, exec i s = .next u ∧ portOf u p = x ∧ (∀ q, q ≠ p → portOf u q = portOf s q)
    ∧ u.mgmt = (evLog s 5 0 p (portCode x.st)).mgmt ∧ u = { s with link := u.link, mgmt := u.mgmt }

/-- A port's fields become `x`, without a change of its state; nothing else changes. -/
def PortKeeps (i : Instr) (s : State) (p : Nat) (x : Port) : Prop :=
  ∃ u, exec i s = .next u ∧ portOf u p = x ∧ (∀ q, q ≠ p → portOf u q = portOf s q) ∧ u = { s with link := u.link }

/-! ## Management -/

/-- A management command is served on each of its paths: the Rinkan core acts as `out` says on the request's two arguments (status,
data, state after), and answers on the path the request came by, the mailbox's own where the mailbox holds it (R417, R419). -/
def Served (mk : MgmtReq → Instr) (s : State) (cmd : Nat) (out : Nat → Nat → Nat × List Nat × State) : Prop :=
  (∀ r : MgmtReq, r.path < 2 → let o := out r.arg0.toNat r.arg1.toNat
    let t := o.2.2
    exec (mk r) s = .next { t with mgmt := { t.mgmt with lastResp := response r.tag.toNat o.1 o.2.1 } })
  ∧ ∀ r : MgmtReq, r.path = 2 → s.mgmt.go = true → s.boot.st ≠ .recovery → let n := s.mgmt.req.toNat
    n % 256 = cmd → let o := out (n / 2 ^ 32 % 2 ^ 32) (n / 2 ^ 64 % 2 ^ 32)
    let t := o.2.2
    exec (mk r) s = .next { t with mgmt := { t.mgmt with go := false, done := true, resp := response (n / 256 % 256) o.1 o.2.1 } }

/-- An SPDM request on a path: answered with `code` in the states of `ok`, which go on as `goes` says; else with an error that
changes no state (R424; the codes and the order of the states are log 9's). -/
def Spdm (i : Instr) (s : State) (path code : Nat) (ok : SpdmSt → Prop) (goes : SpdmSt → SpdmSt) : Prop :=
  let st := spdmSt s path
  (ok st → ∃ u, exec i s = .next u ∧ spdmSt u path = goes st ∧ u.boot.lastSpdm = some (path, code)
    ∧ (∀ p, p ≠ path → spdmSt u p = spdmSt s p) ∧ u = { s with boot := { s.boot with spdm := u.boot.spdm, lastSpdm := u.boot.lastSpdm } })
  ∧ (¬ ok st → ∃ u, exec i s = .next u ∧ (∀ p, spdmSt u p = spdmSt s p) ∧ u.boot.lastSpdm = some (path, 0x7F))

end Sys2Proof
end

