-- ==== Sys2Proof/Certificates/Slice0/Obligations.lean ====
section
/-! DEFINITION. Certificates/Slice0/Obligations.lean: the statements for the provers. -/

open Sys2Proof Sys2Proof.Machine

/-- R181: sums, differences, products and the bitwise words, over every type, register and width; `s0` takes no write. R181: high
products, quotients, remainders, shifts, lesser and greater; signed for the I types, unsigned for the N types; a zero divisor
gives all ones and leaves the dividend as remainder; the overflowing quotient wraps. -/
def Obligations.ScalarArithmetic : Prop :=
  (∀ (t : SType) (d a b : SReg),
     TwoOperand (.sadd t d a b) t d a b (fun _ x y => x + y)
     ∧ TwoOperand (.ssub t d a b) t d a b (fun _ x y => x - y)
     ∧ TwoOperand (.smul t d a b) t d a b (fun _ x y => x * y)
     ∧ TwoOperand (.sand t d a b) t d a b (fun _ x y => x &&& y)
     ∧ TwoOperand (.sor t d a b) t d a b (fun _ x y => x ||| y)
     ∧ TwoOperand (.sxor t d a b) t d a b (fun _ x y => x ^^^ y)
     ∧ TwoOperand (.sandn t d a b) t d a b (fun _ x y => x &&& ~~~y))
  ∧ (∀ (t : SType) (d a b : SReg) (wide : Bool),
       let signed := t = .i32 ∨ t = .i64
       TwoOperand (.smulh t d a b) t d a b (fun n x y =>
         if signed then BitVec.ofInt n (x.toInt * y.toInt / (2 : Int) ^ n) else BitVec.ofNat n (x.toNat * y.toNat / 2 ^ n))
       ∧ TwoOperand (.sdiv t d a b) t d a b (fun n x y =>
         if y = 0 then BitVec.allOnes n
         else if signed then BitVec.ofInt n (x.toInt.tdiv y.toInt) else BitVec.ofNat n (x.toNat / y.toNat))
       ∧ TwoOperand (.srem t d a b) t d a b (fun n x y =>
         if y = 0 then x else if signed then BitVec.ofInt n (x.toInt.tmod y.toInt) else BitVec.ofNat n (x.toNat % y.toNat))
       ∧ TwoOperand (.sshl t d a b) t d a b (fun n x y => x <<< (y.toNat % n))
       ∧ TwoOperand (.sshr wide d a b) (if wide then .n64 else .n32) d a b (fun n x y => x >>> (y.toNat % n))
       ∧ TwoOperand (.ssar wide d a b) (if wide then .i64 else .i32) d a b (fun n x y => x.sshiftRight (y.toNat % n))
       ∧ TwoOperand (.smin t d a b) t d a b (fun _ x y =>
         if (if signed then x.toInt < y.toInt else x.toNat < y.toNat) then x else y)
       ∧ TwoOperand (.smax t d a b) t d a b (fun _ x y =>
         if (if signed then x.toInt < y.toInt else x.toNat < y.toNat) then y else x))

/-- R181, R27: the forms with a sign-extended immediate of 10 bits, and the shifts by a count of 5 bits, over 32 bits. R183: bit
fields, sign extension, leading zeros, set bits, selection and the long immediate. The width field holds the width less one;
`SLI` goes on 8 bytes further. -/
def Obligations.ScalarImmediatesAndFields : Prop :=
  (∀ (d a : SReg) (i : BitVec 10) (k : BitVec 5),
     OneRegister (.saddImm d a i) d (fun w _ => rdS w a.toNat + i.signExtend 32)
     ∧ OneRegister (.smulImm d a i) d (fun w _ => rdS w a.toNat * i.signExtend 32)
     ∧ OneRegister (.sandImm d a i) d (fun w _ => rdS w a.toNat &&& i.signExtend 32)
     ∧ OneRegister (.sorImm d a i) d (fun w _ => rdS w a.toNat ||| i.signExtend 32)
     ∧ OneRegister (.sxorImm d a i) d (fun w _ => rdS w a.toNat ^^^ i.signExtend 32)
     ∧ OneRegister (.sshlImm d a k) d (fun w _ => rdS w a.toNat <<< k.toNat)
     ∧ OneRegister (.sshrImm d a k) d (fun w _ => rdS w a.toNat >>> k.toNat)
     ∧ OneRegister (.ssarImm d a k) d (fun w _ => (rdS w a.toNat).sshiftRight k.toNat)
     ∧ OneRegister (.sminImm d a i) d (fun w _ => if (rdS w a.toNat).toInt < i.toInt then rdS w a.toNat else i.signExtend 32)
     ∧ OneRegister (.smaxImm d a i) d (fun w _ => if (rdS w a.toNat).toInt < i.toInt then i.signExtend 32 else rdS w a.toNat))
  ∧ (∀ (d a b : SReg) (k o : BitVec 5) (wide : Bool) (imm : Word),
       OneRegister (.sbfx d a k o) d (fun w _ => BitVec.ofNat 32 ((rdS w a.toNat).toNat >>> o.toNat % 2 ^ (k.toNat + 1)))
       ∧ OneRegister (.sext d a k) d (fun w _ => ((rdS w a.toNat).setWidth (k.toNat + 1)).signExtend 32)
       ∧ OneRegister (.sclz d a wide) d (fun w _ =>
           if wide then BitVec.ofNat 32 ((rdP w a.toNat).clz.toNat) else BitVec.ofNat 32 ((rdS w a.toNat).clz.toNat))
       ∧ OneRegister (.spopc d a wide) d (fun w _ =>
           BitVec.ofNat 32 (((List.range 64).filter (fun j =>
             if wide then (rdP w a.toNat).getLsbD j else (rdS w a.toNat).getLsbD j)).length))
       ∧ OneRegister (.ssel d a b .eq) d (fun w f => if f.flags.z then rdS w a.toNat else rdS w b.toNat)
       ∧ OneRegister (.ssel d a b .ne) d (fun w f => if f.flags.z then rdS w b.toNat else rdS w a.toNat)
       ∧ OneRegister (.ssel d a b .lt) d (fun w f => if f.flags.n = f.flags.v then rdS w b.toNat else rdS w a.toNat)
       ∧ OneRegister (.ssel d a b .ltu) d (fun w f => if f.flags.c then rdS w b.toNat else rdS w a.toNat)
       ∧ (∀ s w f, Issues s w f →
           ScalarDone (.sli .w32 d imm) s w f (setReg w d.toNat imm) (rdM w f) f.flags (f.pc + 8)
           ∧ ScalarDone (.sli .i64 d imm) s w f (setPair w d.toNat (imm.signExtend 64)) (rdM w f) f.flags (f.pc + 8)
           ∧ ScalarDone (.sli .n64 d imm) s w f (setPair w d.toNat (imm.setWidth 64)) (rdM w f) f.flags (f.pc + 8)))

/-- R182: the words that write flags, and every bit they write; `SADDC` also writes its sum. Overflow is that of the exact signed
result. -/
def Obligations.ScalarFlags : Prop :=
  ∀ (t : SType) (d a b : SReg) (i : BitVec 10) s w f, Issues s w f →
    let subFlags (n : Nat) (x y : BitVec n) : Flags :=
      { z := decide (x = y), n := (x - y).msb, c := decide (y.toNat ≤ x.toNat), v := decide ((x - y).toInt ≠ x.toInt - y.toInt) }
    let carry : Nat := if f.flags.c then 1 else 0
    let addFlags (n : Nat) (x y : BitVec n) : Flags :=
      { z := decide (x + y + BitVec.ofNat n carry = 0), n := (x + y + BitVec.ofNat n carry).msb,
        c := decide (2 ^ n ≤ x.toNat + y.toNat + carry),
        v := decide ((x + y + BitVec.ofNat n carry).toInt ≠ x.toInt + y.toInt + carry) }
    let testFlags (x y : Word) : Flags := { z := decide (x &&& y = 0), n := (x &&& y).msb, c := false, v := false }
    let flagsOnly (j : Instr) (g : Flags) : Prop := ScalarDone j s w f (rdS w) (rdM w f) g (f.pc + 4)
    flagsOnly (.scmp t a b)
      (if stypeWide t then subFlags 64 (rdP w a.toNat) (rdP w b.toNat) else subFlags 32 (rdS w a.toNat) (rdS w b.toNat))
    ∧ flagsOnly (.scmpImm a i) (subFlags 32 (rdS w a.toNat) (i.signExtend 32))
    ∧ flagsOnly (.stst a b) (testFlags (rdS w a.toNat) (rdS w b.toNat))
    ∧ flagsOnly (.ststImm a i) (testFlags (rdS w a.toNat) (i.signExtend 32))
    ∧ ScalarDone (.saddc t d a b) s w f
        (setTyped (stypeWide t) w d.toNat (rdS w a.toNat + rdS w b.toNat + BitVec.ofNat 32 carry)
          (rdP w a.toNat + rdP w b.toNat + BitVec.ofNat 64 carry))
        (rdM w f)
        (if stypeWide t then addFlags 64 (rdP w a.toNat) (rdP w b.toNat) else addFlags 32 (rdS w a.toNat) (rdS w b.toNat))
        (f.pc + 4)

/-- R187: the mask words. `m0` as a source is the fragment's own mask, and as a destination takes no write. -/
def Obligations.MaskWords : Prop :=
  ∀ (d a b : MReg) (r : SReg) s w f, Issues s w f →
    let m (n : MReg) : Word := rdM w f n.toNat
    let writes (j : Instr) (x : Word) : Prop := ScalarDone j s w f (rdS w) (setMask w f d.toNat x) f.flags (f.pc + 4)
    writes (.mand d a b) (m a &&& m b)
    ∧ writes (.mor d a b) (m a ||| m b)
    ∧ writes (.mxor d a b) (m a ^^^ m b)
    ∧ writes (.mandn d a b) (m a &&& ~~~(m b))
    ∧ writes (.mnot d a) (~~~(m a))
    ∧ writes (.mset d r) (rdS w r.toNat)
    ∧ OneRegister (.mget r a) r (fun w f => rdM w f a.toNat)
    ∧ OneRegister (.mpop r a) r (fun w f => BitVec.ofNat 32 ((List.range 32).filter (rdM w f a.toNat).getLsbD).length)
    ∧ OneRegister (.mfirst r a) r (fun w f => BitVec.ofNat 32 (((List.range 32).find? (rdM w f a.toNat).getLsbD).getD 32))

/-- R28: the conditions of `BC` by their codes, and code 15 reserved. A taken branch goes to the word's own address plus four times
the signed offset (R25), one not taken to the next word. -/
def Obligations.BranchConditions : Prop :=
  (∀ s w f (o : BitVec 22), Issues s w f →
    let z := f.flags.z = true
    let n := f.flags.n = true
    let c := f.flags.c = true
    let v := f.flags.v = true
    let rule (k : Nat) (p : Prop) : Prop := ∃ cc, condOf k = some cc ∧
      encode (.bc cc o) = some (.word (packSB 0x20 (BitVec.ofNat 4 k) o))
      ∧ (p → ScalarDone (.bc cc o) s w f (rdS w) (rdM w f) f.flags (f.pc + 4 * o.signExtend 64))
      ∧ (¬ p → ScalarDone (.bc cc o) s w f (rdS w) (rdM w f) f.flags (f.pc + 4))
    rule 0 True ∧ rule 1 z ∧ rule 2 (¬ z) ∧ rule 3 (n ∧ ¬ v ∨ ¬ n ∧ v) ∧ rule 4 (n ∧ v ∨ ¬ n ∧ ¬ v) ∧ rule 5 (¬ c) ∧ rule 6 c
      ∧ rule 7 (¬ z ∧ (n ∧ v ∨ ¬ n ∧ ¬ v)) ∧ rule 8 (z ∨ (n ∧ ¬ v ∨ ¬ n ∧ v)) ∧ rule 9 (c ∧ ¬ z) ∧ rule 10 (¬ c ∨ z)
      ∧ rule 11 n ∧ rule 12 (¬ n) ∧ rule 13 v ∧ rule 14 (¬ v))
  ∧ condOf 15 = none

/-- R184, R186, R188, R89: branches on a mask, the call with its link pair, the return, the words without effect, the drain with no
strip queued, and the reads of control registers: a 64-bit register fills a pair. -/
def Obligations.ControlWords : Prop :=
  ∀ s w f, Issues s w f →
    let goes (i : Instr) (pc : DWord) : Prop := ScalarDone i s w f (rdS w) (rdM w f) f.flags pc
    (∀ (m : MReg) (o : BitVec 22),
      (rdM w f m.toNat = 0 → goes (.bmz m o) (f.pc + 4 * o.signExtend 64) ∧ goes (.bmnz m o) (f.pc + 4))
      ∧ (rdM w f m.toNat ≠ 0 → goes (.bmz m o) (f.pc + 4) ∧ goes (.bmnz m o) (f.pc + 4 * o.signExtend 64)))
    ∧ (∀ o : BitVec 22,
        ScalarDone (.call o) s w f (setPair w 190 (f.pc + 4)) (rdM w f) f.flags (f.pc + 4 * o.signExtend 64))
    ∧ (∀ a : SReg, (rdP w a.toNat).toNat % 4 = 0 → (rdP w a.toNat).toNat < 2 ^ 57 → goes (.ret a) (rdP w a.toNat))
    ∧ goes .nop (f.pc + 4) ∧ goes .yield (f.pc + 4) ∧ (∀ n, goes (.hint n) (f.pc + 4))
    ∧ (w.strips = [] → goes .ldrain (f.pc + 4))
    ∧ (∀ (d : SReg) (r : BitVec 8) (x : DWord), ctlRead s w r.toNat = some x →
        (r = 0x0E ∨ r = 0x10 ∨ r = 0x12 ∨ r = 0x16 ∨ r = 0x18 →
          ScalarDone (.sget d r) s w f (setPair w d.toNat x) (rdM w f) f.flags (f.pc + 4))
        ∧ (¬ (r = 0x0E ∨ r = 0x10 ∨ r = 0x12 ∨ r = 0x16 ∨ r = 0x18) →
          ScalarDone (.sget d r) s w f (setReg w d.toNat (x.setWidth 32)) (rdM w f) f.flags (f.pc + 4)))

/-- R31, R106, R176, R188, R239, R325: what the control registers read as, with the fields of `CTX`, `FEEDSTAT`, `EVSTAT` and
`TRAYSTAT`; no other number reads, and `SGET` of one raises `ILLEGAL`. R31, R161, R188, R355: `SSET` at S writes the five trap
registers, and `LCBASE` once no strip is queued, with its bits 7 to 0 and 63 to 57 written as 0; nothing else changes but the
pc. At U, and of any register that is not marked, it raises `ILLEGAL`. -/
def Obligations.ControlRegisters : Prop :=
  (∀ s w,
     (∀ r x, (r, x) ∈ [(0x00, w.ident.waveid), (0x01, w.ident.groupx), (0x02, w.ident.groupy), (0x03, w.ident.groupz),
         (0x04, w.ident.gridx), (0x05, w.ident.gridy), (0x06, w.ident.gridz), (0x07, w.ident.groupwaves), (0x08, w.ident.role),
         (0x09, w.ident.team), (0x14, w.treg.cause), (0x1A, w.treg.mask), (0x1B, w.treg.info)] →
       ctlRead s w r = some (x.setWidth 64))
     ∧ ctlRead s w 0x0A = some (BitVec.ofNat 64 w.core)
     ∧ ctlRead s w 0x0B = some (BitVec.ofNat 64 (w.core / 24))
     ∧ (∀ c n, ctxOf s (ctxIdOf s w.gid) = some c → c.slot = some n →
         ctlRead s w 0x0C = some (BitVec.ofNat 64 (ctxIdOf s w.gid + 4096 * n)))
     ∧ (w.priv = .s → ctlRead s w 0x0D = some 1) ∧ (w.priv = .u → ctlRead s w 0x0D = some 0)
     ∧ ctlRead s w 0x0E = some s.clock
     ∧ ctlRead s w 0x10 = some w.ident.karg ∧ ctlRead s w 0x12 = some w.lcbase
     ∧ ctlRead s w 0x16 = some w.treg.pc ∧ ctlRead s w 0x18 = some w.treg.addr
     ∧ ((∀ n, n < 4 → (feedOf w n).buf.length < 16) → ∃ x : DWord, ctlRead s w 0x1C = some x ∧ ∀ n, n < 4 → let f := feedOf w n
         x.toNat / 2 ^ (8 * n) % 16 = f.buf.length ∧ x.getLsbD (8 * n + 4) = f.run ∧ x.getLsbD (8 * n + 5) = f.underflow
         ∧ x.getLsbD (8 * n + 6) = f.buf.any (fun v => v.fault.isSome) ∧ x.getLsbD (8 * n + 7) = false)
     ∧ ((∀ q, q < 4 → (evqOf w q).recs.length < 128) → ∃ x : DWord, ctlRead s w 0x1D = some x ∧ ∀ q, q < 4 →
         x.toNat / 2 ^ (8 * q) % 256 = (evqOf w q).recs.length)
     ∧ (∀ g, groupOf s w.gid = some g →
         let mine (st : TraySt) : Nat :=
           ((coreOf s g.core).trays.filter (fun t => t.2.grid == g.grid)).countP (fun t => t.2.st == st)
         mine .filling < 512 → mine .triggered < 512 → (∀ t, w.tray = some t → t.recs.length ≤ 32 ∧ t.config < 64) →
         ∃ x : DWord, ctlRead s w 0x1E = some x ∧ x.toNat % 512 = mine .filling ∧ x.toNat / 512 % 512 = mine .triggered
           ∧ x.getLsbD 18 = w.tray.isSome ∧ x.toNat / 2 ^ 19 % 64 = ((w.tray.map (·.recs.length)).getD 0)
           ∧ x.toNat / 2 ^ 25 = ((w.tray.map (·.config)).getD 0))
     ∧ (∀ r, ctlRead s w r = none ↔ r = 0x0F ∨ r = 0x11 ∨ r = 0x13 ∨ r = 0x15 ∨ r = 0x17 ∨ r = 0x19 ∨ 0x1F ≤ r)
     ∧ ∀ f c (d : SReg) (r : BitVec 8), AtUser s w f c → ctlRead s w r.toNat = none → TrapTaken (.sget d r) s f c .illegal 1 0 0 f.pc)
  ∧ ((∀ s w f (a : SReg), Issues s w f → w.priv = .s →
       let x := rdS w a.toNat
       let p := rdP w a.toNat
       let writes (r : BitVec 8) (u : Wave) : Prop := ScalarDone (.sset a r) s u f (rdS w) (rdM w f) f.flags (f.pc + 4)
       (w.strips = [] → writes 0x12 { w with lcbase := p &&& 0x01FFFFFFFFFFFF00 })
       ∧ (w.strips ≠ [] → exec (.sset a 0x12) s = .next (putWave s (putFrag w s.cur.b (some { f with wait := .strips }))))
       ∧ writes 0x14 { w with treg := { w.treg with cause := x &&& 0x3FF } }
       ∧ writes 0x16 { w with treg := { w.treg with pc := p } }
       ∧ writes 0x18 { w with treg := { w.treg with addr := p } }
       ∧ writes 0x1A { w with treg := { w.treg with mask := x } }
       ∧ writes 0x1B { w with treg := { w.treg with info := x } }
       ∧ ∀ r : BitVec 8, r ∉ [0x12, 0x14, 0x16, 0x18, 0x1A, 0x1B] → exec (.sset a r) s = illegalS s w f)
     ∧ ∀ s w f c (a : SReg) (r : BitVec 8), AtUser s w f c → TrapTaken (.sset a r) s f c .illegal 1 0 0 f.pc)

/-- R160, R185: a strip is appended behind those queued when the queue of 16 has a place and no queued strip writes, by `VREADL`, a
scalar register it reads (R208). `LRUN` holds its length less one; `LRUNX` takes index and length from two registers. R177, with
no strip queued: `FEEDSET` sets the feed's five parts and clears underflow, and the feed runs when its count is above 0;
`FEEDSTOP` stops it; both discard the vectors read ahead. R264: a fence puts later writes, and with an acquire side later reads,
behind the strips queued before it; at `.fab` or `.sys` it lets the wave's earlier fabric reductions perform first (R100). R249:
`BACKOFF` of no lane clears the count of back-offs. -/
def Obligations.StripsFeedsAndFences : Prop :=
  (∀ s w f, Issues s w f → w.strips.length < 16 →
     (∀ (l : BitVec 18) (n : BitVec 8),
       let t : Strip := { lcidx := l, len := n.toNat + 1, b := s.cur.b }
       stripHeld s w t = false →
         ScalarDone (.lrun l n) s { w with strips := w.strips ++ [t] } f (rdS w) (rdM w f) f.flags (f.pc + 4))
     ∧ (∀ (a b : SReg), (rdS w a.toNat).toNat < 2 ^ 18 → 1 ≤ (rdS w b.toNat).toNat → (rdS w b.toNat).toNat ≤ 256 →
         let t : Strip := { lcidx := (rdS w a.toNat).setWidth 18, len := (rdS w b.toNat).toNat, b := s.cur.b }
         stripHeld s w t = false →
           ScalarDone (.lrunx a b) s { w with strips := w.strips ++ [t] } f (rdS w) (rdM w f) f.flags (f.pc + 4)))
  ∧ (∀ s w f, Issues s w f →
       let leaves (i : Instr) (u : Wave) : Prop := ScalarDone i s u f (rdS w) (rdM w f) f.flags (f.pc + 4)
       (∀ (n : BitVec 2) (a b : SReg) (z : BitVec 2), w.strips = [] →
         leaves (.feedset n a b z) (putFeed w n.toNat
           { nextAddr := rdP w a.toNat, size := z, stride := rdS w b.toNat, remaining := rdS w (b.toNat + 1),
             run := decide (rdS w (b.toNat + 1) ≠ 0), underflow := false, buf := [] })
         ∧ leaves (.feedstop n) (putFeed w n.toNat { feedOf w n.toNat with run := false, buf := [] }))
       ∧ (∀ (c : Scope) (o : Order),
           ScalarDoneAt (.fence c o) s (if (c = .fab ∨ c = .sys) ∧ (o = .rel ∨ o = .ar) then fabDrain s w.core w.slot else s)
             { w with fenceR := (match o with | .acq => w.strips.length | .ar => w.strips.length | _ => w.fenceR),
                      fenceW := w.strips.length } f (rdS w) (rdM w f) f.flags (f.pc + 4))
       ∧ (s.link.merging = [] → fabDrain s w.core w.slot = s)
       ∧ (∀ m : MReg, ownStrips w s.cur.b = false → f.m0 &&& rdM w f m.toNat = 0 → leaves (.backoff m) { w with backoffCount := 0 })
       ∧ (∀ m : MReg, ownStrips w s.cur.b = false → f.m0 &&& rdM w f m.toNat ≠ 0 → f.m0 &&& ~~~ (rdM w f m.toNat) = 0 →
           exec (.backoff m) s = .next (putWave s (putFrag { w with backoffCount := w.backoffCount + 1 } s.cur.b
             (some { f with pc := f.pc + 4, wait := .backoff (f.m0 &&& rdM w f m.toNat) })))))

/-- R171: `SPLIT` by its three cases. With no lane of the mask it goes on; with every lane it branches; else, with the other slot
free and no strip of the fragment queued, the smaller part (the taken one on a tie) is a new fragment in the other slot, both
one deeper (63 at most), with the same flags, and every other field of the wave as it was. R173: the fragments of a wave of two,
both at one depth and with no strips: the first to issue `JOIN` waits with its token; when the second issues it with the same
token they become one, with the union of their lanes, one less deep, in the slot of the member that holds the lowest lane, 4
bytes past that member's word, and the other slot frees. A lone fragment passes. -/
def Obligations.SplitAndJoin : Prop :=
  (∀ s w f (m : MReg) (o : BitVec 22), Issues s w f →
     let t := f.m0 &&& rdM w f m.toNat
     let n := f.m0 &&& ~~~ (rdM w f m.toNat)
     let lanes (x : Word) : Nat := ((List.range 32).filter x.getLsbD).length
     let target : DWord := f.pc + 4 * o.signExtend 64
     (t = 0 → ScalarDone (.split m o) s w f (rdS w) (rdM w f) f.flags (f.pc + 4))
     ∧ (t ≠ 0 → n = 0 → ScalarDone (.split m o) s w f (rdS w) (rdM w f) f.flags target)
     ∧ (t ≠ 0 → n ≠ 0 → ownStrips w s.cur.b = false → fragOf w (!s.cur.b) = none →
         ∃ v this new, exec (.split m o) s = .next (putWave s v) ∧ fragOf v s.cur.b = some this ∧ fragOf v (!s.cur.b) = some new
           ∧ (lanes t ≤ lanes n → this.m0 = n ∧ this.pc = f.pc + 4 ∧ new.m0 = t ∧ new.pc = target)
           ∧ (lanes n < lanes t → this.m0 = t ∧ this.pc = target ∧ new.m0 = n ∧ new.pc = f.pc + 4)
           ∧ this.depth = min (f.depth + 1) 63 ∧ new.depth = min (f.depth + 1) 63 ∧ this.flags = f.flags ∧ new.flags = f.flags
           ∧ v = { w with fragA := v.fragA, fragB := v.fragB, bOlder := v.bOlder }))
  ∧ (∀ s w f (t : BitVec 10), Issues s w f → w.stack = [] → ownStrips w s.cur.b = false →
       (fragOf w (!s.cur.b) = none →
         exec (.join t) s = .next (putWave s (putFrag w s.cur.b
           (some { f with token := t, depth := f.depth - 1, pc := f.pc + 4, wait := .none }))))
       ∧ (∀ g, fragOf w (!s.cur.b) = some g → g.depth = f.depth → g.wait ≠ .join →
           exec (.join t) s = .next (putWave s (putFrag w s.cur.b (some { f with token := t, wait := .join }))))
       ∧ (∀ g, fragOf w (!s.cur.b) = some g → g.depth = f.depth → g.wait = .join → g.token = t → f.m0 &&& g.m0 = 0 →
           f.m0 ≠ 0 → g.m0 ≠ 0 →
           (firstSet f.m0 < firstSet g.m0 →
             exec (.join t) s = .next (putWave s (putFrag (putFrag w (!s.cur.b) none) s.cur.b
               (some { f with m0 := f.m0 ||| g.m0, token := t, depth := f.depth - 1, pc := f.pc + 4, wait := .none }))))
           ∧ (firstSet g.m0 < firstSet f.m0 →
             exec (.join t) s = .next (putWave s (putFrag (putFrag w s.cur.b none) (!s.cur.b)
               (some { g with m0 := f.m0 ||| g.m0, depth := g.depth - 1, pc := g.pc + 4, wait := .none }))))))

/-- R174: `EXIT` is the word 0x98000000. It waits for the fragment's strips; then its slot frees, and the other fragment stays as it
is; when no fragment remains the wave exits (R167): it is gone from its slot and counts no longer in its group, which drains
when it was the last (here with no engine operation, barrier, team, claim or parked word of the group). -/
def Obligations.ExitEnds : Prop :=
  encode .exit = some (.word 0x98000000)
  ∧ ∀ s w f, Issues s w f →
    (ownStrips w s.cur.b = true → exec .exit s = .next (putWave s (putFrag w s.cur.b (some { f with wait := .strips }))))
    ∧ (∀ g, ownStrips w s.cur.b = false → w.stack = [] → fragOf w (!s.cur.b) = some g → g.wait ≠ .join →
        exec .exit s = .next (putWave s (putFrag w s.cur.b none)))
    ∧ (ownStrips w s.cur.b = false → w.stack = [] → fragOf w (!s.cur.b) = none →
        exec .exit s = .next (exitWave (putWave s (putFrag w s.cur.b none)) w.core w.slot)
        ∧ ∀ g, groupOf s w.gid = some g → g.barriers = [] → g.claimQ = [] → teamSizeOf w = 0 → s.vm.claims = [] →
            opsWhere s (fun o => o.gid == w.gid) = [] →
            Answers .exit s (fun t => waveAt t w.core w.slot = none
              ∧ ∃ h, groupOf t w.gid = some h ∧ h.live = g.live - 1 ∧ h.st = if g.live ≤ 1 then .draining else g.st))

/-- R243: the misuses of a barrier take `BARRIER_MISUSE` precisely at the word, with the number and the reason in `TRAPINFO` and its
other bits 0: a number at or past barrier_count, an arrival at an unused barrier, a `BINIT` operand with reserved bits set or a
team count with no team. (A count of 65,535 at most follows for a wave without a team.) -/
def Obligations.BarrierMisuse : Prop :=
  ∀ s w f c g, AtUser s w f c → groupOf s w.gid = some g → ∀ (d a : SReg) (n : BitVec 4),
    let traps (i : Instr) (reason : Nat) : Prop :=
      TrapTaken i s f c .barrierMisuse 1 0 (BitVec.ofNat 32 (n.toNat + 16 * reason)) f.pc
    (g.barrierCount ≤ n.toNat →
      traps (.binit d a n) 1 ∧ traps (.barr d n) 1 ∧ traps (.bwait d a n) 1 ∧ traps (.bsync d n) 1)
    ∧ (n.toNat < g.barrierCount → (barrierOf g n.toNat).inUse = false →
        traps (.barr d n) 2 ∧ traps (.bsync d n) 2)
    ∧ (n.toNat < g.barrierCount →
        ((rdS w a.toNat).toNat / 2 ^ 17 ≠ 0 ∨ ((rdS w a.toNat).getLsbD 16 = true ∧
            (teamSizeOf w = 0 ∨ 65535 < (rdS w a.toNat).toNat % 2 ^ 16 * teamSizeOf w))) →
        traps (.binit d a n) 3)

/-- R241, R244: the barrier words where they complete. `BINIT` starts a barrier, sets it again with no arrival and no waiter, or is
refused, its count being that of its operand or, with the team bit, that many teams; an arrival counts and answers the phase;
the arrival that completes a phase with no waiter advances it; a `BWAIT` whose token is not the phase answers the phase; `BARRX`
to a live handle sends one arrival. R241, R244: a `BWAIT` whose token is the phase, and a `BSYNC` that does not complete its
phase, sleep with the wave's bit among the barrier's waiters; the completing arrival then wakes every waiter of the group: a
sleeping `BSYNC` completes with its phase in its destination (stated where one fragment sleeps and no handler runs), a sleeping
`BWAIT` reads again. -/
def Obligations.BarrierWords : Prop :=
  (∀ s w f g, Issues s w f → groupOf s w.gid = some g → ∀ (d a : SReg) (n : BitVec 4), n.toNat < g.barrierCount →
     let b := barrierOf g n.toNat
     let x := (rdS w a.toNat).toNat
     let count := if (rdS w a.toNat).getLsbD 16 then x % 2 ^ 16 * teamSizeOf w else x % 2 ^ 16
     let valid := x < 2 ^ 17 ∧ ((rdS w a.toNat).getLsbD 16 = true → teamSizeOf w ≠ 0) ∧ count ≤ 65535
     let becomes (b' : Barrier) : State := { s with groups := Map.insert s.groups w.gid (putBarrier g n.toNat b') }
     let answers (i : Instr) (t : State) (x : Word) : Prop :=
       ScalarDoneAt i s t w f (setReg w d.toNat x) (rdM w f) f.flags (f.pc + 4)
     (valid → count ≠ 0 → b.inUse = false →
       answers (.binit d a n) (becomes { b with inUse := true, expected := count, arrived := 0 }) 0)
     ∧ (valid → count = 0 → b.inUse = false → answers (.binit d a n) s 0)
     ∧ (valid → b.inUse = true → b.arrived = 0 → b.waiters = 0 →
         answers (.binit d a n) (becomes { b with inUse := decide (count ≠ 0), expected := count }) 0)
     ∧ (valid → b.inUse = true → (b.arrived ≠ 0 ∨ b.waiters ≠ 0) → answers (.binit d a n) s 1)
     ∧ (b.inUse = true → b.arrived + 1 ≠ b.expected →
         answers (.barr d n) (becomes { b with arrived := b.arrived + 1 }) (b.phase.setWidth 32))
     ∧ (b.inUse = true → b.arrived + 1 = b.expected → b.waiters = 0 →
         answers (.barr d n) (becomes { b with phase := b.phase + 1, arrived := 0 }) (b.phase.setWidth 32)
         ∧ answers (.bsync d n) (becomes { b with phase := b.phase + 1, arrived := 0 }) (b.phase.setWidth 32))
     ∧ (b.phase ≠ (rdS w a.toNat).setWidth 16 → answers (.bwait d a n) s (b.phase.setWidth 32))
     ∧ (∀ gid h, liveHandle s w (rdS w a.toNat) = some (gid, h) → n.toNat < h.barrierCount →
         answers (.barrx d a n) { s with arrivals := s.arrivals ++ [(rdS w a.toNat, n.toNat)] } 0))
  ∧ ((∀ s w f g, Issues s w f → groupOf s w.gid = some g → ∀ (d a : SReg) (n : BitVec 4), n.toNat < g.barrierCount →
       let b := barrierOf g n.toNat
       let asleepWith (i : Instr) (x : Wait) (b' : Barrier) : Prop :=
         Answers i s (fun t => (groupOf t w.gid).map (fun h => barrierOf h n.toNat) = some b'
           ∧ ∃ v, waveAt t s.cur.core s.cur.slot = some v ∧ fragOf v s.cur.b = some { f with wait := x })
       (b.phase = (rdS w a.toNat).setWidth 16 →
         asleepWith (.bwait d a n) (.bwait n.toNat b.phase) { b with waiters := b.waiters ||| 1 <<< w.ident.waveid.toNat })
       ∧ (b.inUse = true → b.arrived + 1 ≠ b.expected →
           asleepWith (.bsync d n) (.bsync n.toNat b.phase d.toNat)
             { b with arrived := b.arrived + 1, waiters := b.waiters ||| 1 <<< w.ident.waveid.toNat }))
     ∧ ∀ s gid n g, groupOf s gid = some g → (barrierOf g n).inUse = true → (barrierOf g n).arrived + 1 = (barrierOf g n).expected →
       (groupOf (arrive s gid n) gid).map (fun h => barrierOf h n)
           = some { barrierOf g n with phase := (barrierOf g n).phase + 1, arrived := 0, waiters := 0 }
       ∧ ∀ k v b f, Map.find s.waves k = some v → v.gid = gid → (barrierOf g n).waiters.getLsbD v.ident.waveid.toNat = true →
           fragOf v b = some f →
           ∃ u, Map.find (arrive s gid n).waves k = some u
             ∧ (∀ p sd, f.wait = .bsync n p sd → fragOf u b = some { f with pc := f.pc + 4, wait := .none }
               ∧ ((∀ r, v.trap ≠ .handling r) → v.stack = [] → fragOf v (!b) = none → ∀ r, rdS u r = setReg v sd (p.setWidth 32) r))
             ∧ (∀ p, f.wait = .bwait n p → fragOf u b = some { f with wait := .none }))

/-- R156, R150: message queues and register pools where the word completes at once. A message goes behind those queued, with the
sender's handle, and the answer is the room left; the head message goes to the receiver's scratch and the answer is its sender's
handle; the counts; registers given to the pool and claimed from it, the answer being the new allocation. -/
def Obligations.MessagesAndRegisterPools : Prop :=
  ∀ s w f g, Issues s w f → groupOf s w.gid = some g → g.sendQ = [] → g.recvQ = [] → g.claimQ = [] → ∀ (d a : SReg),
    let answers (i : Instr) (t : State) (u : Wave) (x : Word) : Prop :=
      ScalarDoneAt i s t u f (setReg w d.toNat x) (rdM w f) f.flags (f.pc + 4)
    let withGroup (gid : Nat) (h : Group) : State := { s with groups := Map.insert s.groups gid h }
    (∀ gid h, let off := (rdS w (a.toNat + 1)).toNat
      off % 128 = 0 → off < g.scratchBytes → liveHandle s w (rdS w a.toNat) = some (gid, h) → groupOf s gid = some h →
      h.sendQ = [] → h.recvQ = [] → h.msgs.length < h.fifoBytes / 128 →
      answers (.mqsend d a)
        (withGroup gid { h with msgs := h.msgs ++ [(groupHandle g, BitVec.ofNat 1024 (ofBytes (readMem g.scratch off 128)))] }) w
        (BitVec.ofNat 32 (h.fifoBytes / 128 - (h.msgs.length + 1))))
    ∧ (∀ tryIt h m rest, let off := (rdS w a.toNat).toNat
        off % 128 = 0 → off < g.scratchBytes → 128 ≤ g.fifoBytes → g.msgs = (h, m) :: rest →
        answers (.mqrecv d a tryIt)
          (withGroup w.gid { g with msgs := rest, scratch := writeMem g.scratch off (toBytes 128 m.toNat) }) w h)
    ∧ answers (.mqcount d false) s w (BitVec.ofNat 32 g.msgs.length)
    ∧ answers (.mqcount d true) s w (if g.fifoBytes < 128 then 0xFFFFFFFF else groupHandle g)
    ∧ (∀ n : BitVec 6, w.strips = [] → 8 * n.toNat < w.valloc →
        let p := poolOf g w.core w.slot
        answers (.vgive d n) (withGroup w.gid { g with pools := Tab.set 0 g.pools p (Tab.get 0 g.pools p + 8 * n.toNat) })
          { w with valloc := w.valloc - 8 * n.toNat, vregs := w.vregs.filter (fun e => decide (e.1 < w.valloc - 8 * n.toNat)) }
          (BitVec.ofNat 32 (w.valloc - 8 * n.toNat)))
    ∧ (∀ n : BitVec 6, w.valloc + 8 * n.toNat ≤ 256 →
        let p := poolOf g w.core w.slot
        8 * n.toNat ≤ Tab.get 0 g.pools p →
        answers (.vclaim d n) (withGroup w.gid { g with pools := Tab.set 0 g.pools p (Tab.get 0 g.pools p - 8 * n.toNat) })
          { w with valloc := w.valloc + 8 * n.toNat, vregs := w.vregs.filter (fun e => decide (e.1 < w.valloc + 8 * n.toNat)) }
          (BitVec.ofNat 32 (w.valloc + 8 * n.toNat)))

/-- R358: the entry of a trap, for every wave, request and fragment. PRIV := S; the queued strips and head_off are set aside and the
handler starts with none, as are the scalar results still to be written; `s1` to `s15` and the flags go to the shadow; `s1` :=
TRAPCAUSE, `s2`, `s3` := sup_data, `s4` to `s15` := 0, flags := 0; the fragment goes on at trap_vector with its `m0`. All other
registers, masks, feeds and event queues stay. Every wave has room for `s1` to `s15`: the scalar bound at S is at least 16. -/
def Obligations.TrapEntry : Prop :=
  ∀ s core slot r w f c, waveAt s core slot = some w → fragOf w r.b = some f → ctxOf s (ctxIdOf s w.gid) = some c →
    ∃ v g, waveAt (enterTrap s core slot r) core slot = some v ∧ fragOf v r.b = some g
      ∧ v.priv = .s
      ∧ v.shadow.strips = w.strips ∧ v.shadow.headOff = w.headOff ∧ v.strips = [] ∧ v.headOff = 0
      ∧ (∀ n, 1 ≤ n → n < 16 → Tab.get 0 v.shadow.regs n = rdS w n) ∧ v.shadow.flags = f.flags
      ∧ v.shadow.late = w.late ∧ v.late = []
      ∧ rdS v 1 = BitVec.ofNat 32 (causeCode r.cause + 64 * r.unit) ∧ rdS v 1 = v.treg.cause
      ∧ rdS v 2 = BitVec.ofNat 32 c.desc.supData ∧ rdS v 3 = BitVec.ofNat 32 (c.desc.supData / 2 ^ 32)
      ∧ (∀ n, 4 ≤ n → n < 16 → rdS v n = 0) ∧ g.flags = Flags.zero
      ∧ g.pc = BitVec.ofNat 64 c.desc.trapVector ∧ g.m0 = f.m0
      ∧ (∀ n, 16 ≤ n → rdS v n = rdS w n) ∧ v.masks = w.masks ∧ v.vregs = w.vregs ∧ v.feeds = w.feeds ∧ v.evqs = w.evqs
      ∧ v.valloc = w.valloc ∧ v.stack = w.stack ∧ fragOf v (!r.b) = fragOf w (!r.b)
      ∧ scalarBound v = max w.sbound 16

/-- R362: `SVC` and `TRAP` at U enter the handler with their code in TRAPINFO and the next word's address in TRAPPC; at S each is a
double fault (R108). R365: `TKILL` is the words 0xE00002C0 and 0xE00002C1; at S it kills the wave's group, or every group of its
grid. -/
def Obligations.ServiceAndKillWords : Prop :=
  (∀ n : BitVec 8,
     encode (.svc n) = some (.word (0xF4000000 + n.setWidth 32)) ∧ encode (.trap n) = some (.word (0xF4000100 + n.setWidth 32))
     ∧ (∀ s w f c, AtUser s w f c →
         TrapTaken (.svc n) s f c .svc 1 0 (n.setWidth 32) (f.pc + 4) ∧ TrapTaken (.trap n) s f c .trap 1 0 (n.setWidth 32) (f.pc + 4))
     ∧ (∀ s w f, Issues s w f → w.priv = .s →
         let u := putFrag w s.cur.b (some { f with wait := .none })
         exec (.svc n) s = .next (doubleFault (putWave s u) u .svc 1 0)
         ∧ exec (.trap n) s = .next (doubleFault (putWave s u) u .trap 1 0)))
  ∧ (encode (.tkill false) = some (.word 0xE00002C0) ∧ encode (.tkill true) = some (.word 0xE00002C1)
     ∧ ∀ s w f, Issues s w f → w.priv = .s →
       exec (.tkill false) s = .next (killGroup s w.gid)
       ∧ ∀ g, groupOf s w.gid = some g → exec (.tkill true) s = .next (killGrid s g.grid))

/-- R107: every word that its entry marks S raises `ILLEGAL` precisely at U; so do a branch target and a length that R184 and R185
refuse, with their own causes. -/
def Obligations.PreciseTraps : Prop :=
  ∀ s w f c, AtUser s w f c → ∀ (d a : SReg),
    let illegal (i : Instr) : Prop := TrapTaken i s f c .illegal 1 0 0 f.pc
    (∀ r, illegal (.sset a r)) ∧ illegal .eret ∧ illegal .eretRetry ∧ illegal .eretSkip
    ∧ (∀ g, illegal (.tkill g)) ∧ illegal (.qpost d a) ∧ (∀ h, illegal (.carve d a h))
    ∧ (∀ x y, illegal (.pgmap d a x y)) ∧ (∀ p, illegal (.pgtake d p)) ∧ (∀ p, illegal (.pgunmap d a p))
    ∧ illegal (.pginv d a) ∧ illegal (.pgharvest d a) ∧ illegal (.pgmigrate d a) ∧ illegal (.lclaim d a)
    ∧ ((rdP w a.toNat).toNat % 4 ≠ 0 → TrapTaken (.ret a) s f c .misalign 1 (rdP w a.toNat) 0 f.pc)
    ∧ ((rdP w a.toNat).toNat % 4 = 0 → 2 ^ 57 ≤ (rdP w a.toNat).toNat → TrapTaken (.ret a) s f c .unmapped 1 (rdP w a.toNat) 0 f.pc)
    ∧ (2 ^ 18 ≤ (rdS w d.toNat).toNat ∨ rdS w a.toNat = 0 ∨ 256 < (rdS w a.toNat).toNat → illegal (.lrunx d a))

/-- R363, R364: the returns from a trap of the S-stream, of `SVC` or `TRAP`, and of the watchdog, by the wave's only handler
fragment with no strip queued and no cause held: `s1` to `s15`, the flags, the strips and PRIV come back, and the fragment goes
on at TRAPPC (`ERET`) or at the TRAPPC of entry (`ERET.retry`); `ERET.skip` passes the word there, 4 bytes or the 8 of `SLI`,
but after `SVC` and `TRAP` acts as retry. -/
def Obligations.TrapReturn : Prop :=
  ∀ s w f r, Issues s w f → w.priv = .s → w.trap = .handling r → f.handler = true →
    (∀ g, fragOf w (!s.cur.b) = some g → g.handler = false) → w.stack = [] → w.strips = [] → w.held = [] →
    w.shadow.ops = [] → w.shadow.wait = .none → s.vm.claims = [] → (r.kind = .scalar ∨ r.kind = .service ∨ r.kind = .watchdog) →
    let returns (i : Instr) (pc : DWord) : Prop := ∃ v g, exec i s = .next (putWave s v)
      ∧ fragOf v s.cur.b = some g ∧ g.pc = pc ∧ g.flags = w.shadow.flags ∧ g.m0 = f.m0 ∧ g.depth = f.depth ∧ g.handler = false
      ∧ fragOf v (!s.cur.b) = fragOf w (!s.cur.b)
      ∧ (∀ n, rdS v n = if n = 0 then 0 else if n < 16 then Tab.get 0 w.shadow.regs n else rdS w n)
      ∧ v = { w with priv := .u, trap := .none, sregs := v.sregs, fragA := v.fragA, fragB := v.fragB, strips := w.shadow.strips,
                     headOff := w.shadow.headOff, lstop := w.shadow.lstop, fenceR := w.shadow.fenceR,
                     fenceW := w.shadow.fenceW, late := w.shadow.late, ops := [], shadow := Shadow.zero }
    returns .eret w.treg.pc ∧ returns .eretRetry w.shadow.pcEntry
    ∧ (r.kind = .service → returns .eretSkip w.shadow.pcEntry)
    ∧ (r.kind ≠ .service → ∀ word, peekCode s { w with priv := .u } w.shadow.pcEntry.toNat 4 = some word →
        returns .eretSkip (w.shadow.pcEntry + if word / 2 ^ 26 = 0x3E then 8 else 4))

/-- R291, R102, R110, R255, R279 to R287: an access of a core to a line of local memory by a leaf that permits it goes on, at the
leaf's address, when its range is not locked, its line is in none of the states A, FOG and MIGR, its line is no halo line of
another core or the access is a read, no pushed data of it is pending, its key is the context's, and it has what its kind needs:
a load or a store the L1's copy with the permission for it, unspoilt; a read or an atomic access at the home no transaction in
progress; a fetch nothing more. (`pickLeaf` is the walk's leaf unless a held translation differs.) Whatever an access comes to,
it changes only marks: the contact sheets, the translations held, the frames' marks, the keys of lines, the caches' lines and
messages and the retry buffers of ports; memory, too, unless an external agent has written or the L2 holds a line of a
non-coherent page. (One made at the home, or one that claims its line, does so once no transaction is in progress.) -/
def Obligations.Accesses : Prop :=
  (∀ s core slot ctx priv va n (k : AccKind) c l, ctxOf s ctx = some c → va < 2 ^ 57 → pickLeaf s core ctx va c = some l →
     let pa := leafPa l va
     let st := lineSt s pa
     let mine (f : L1Line → Bool) : Prop := st = .h ∨ ∃ x, l1Of s core (lineOf pa) = some x ∧ x.bad = false ∧ f x = true
     (priv = .s ∨ bit l.word 7 = false) → (k.reads = true → bit l.word 4 = true) → (k.writes = true → bit l.word 5 = true) →
     (k = .fetch → bit l.word 6 = true) → (bit l.word 8 = false ∨ c.desc.plainOk = true) → pteHome l.word = 0 → pa < 2 ^ 38 →
     s.extBytes = [] → sealBroken s ctx (lineOf pa) l = false → rangeLocked s core ctx va pa n k.writes = false →
     st ≠ .a → (dirOf s (lineOf pa)).fog = false → st ≠ .migr → (st = .h → k.writes = true → haloOwner s pa = some core) →
     haloPending s core (lineOf pa) = false → softErrored s core (lineOf pa) k = false →
     (k = .read → mine (fun x => !(x.st == .isD || x.st == .imD || l1Leaving x.st))) →
     (k = .write → mine (fun x => x.st == .m || x.st == .e)) →
     (k = .pull ∨ k = .update → settledLine s (lineOf pa) = true) →
     ∃ t, access s core slot ctx priv va n k false = (t, .ok pa))
  ∧ (∀ s core slot ctx priv va n k claim t r, access s core slot ctx priv va n k claim = (t, r) →
       (k = .pull ∨ k = .update ∨ claim = true → Settled s) →
       t.cur = s.cur ∧ t.waves = s.waves ∧ t.groups = s.groups ∧ t.grids = s.grids ∧ t.queues = s.queues ∧ t.cores = s.cores
       ∧ t.accs = s.accs ∧ t.partials = s.partials ∧ t.arrivals = s.arrivals ∧ t.mgmt = s.mgmt ∧ t.rinkan = s.rinkan ∧ t.boot = s.boot
       ∧ t.msix = s.msix ∧ t.clock = s.clock ∧ t.free = s.free ∧ t.turns = s.turns ∧ t.coh.haloDirty = s.coh.haloDirty
       ∧ t.vm.pins = s.vm.pins ∧ t.vm.claims = s.vm.claims ∧ t.stamp = s.stamp ∧ t.link.agents = s.link.agents
       ∧ (s.extBytes = [] → s.hostLines = [] → t.mem = s.mem ∧ t.extBytes = [] ∧ t.tamper = s.tamper)
       ∧ (∀ c, (ctxOf t c).map (fun x => (x.st, x.desc, x.slot, x.key, x.halos)) = (ctxOf s c).map (fun x => (x.st, x.desc, x.slot, x.key, x.halos))))

/-- R189: the scalar loads at an aligned address whose access goes on: the destination, or the destination pair, takes the bytes as
a little-endian number; no other register, mask, flag or field of the wave changes but the pc, and nothing else of the state but
what the access itself marks. `SLDK` reads the home's bytes, and its core's constant cache keeps the word (R83). R189, R82,
R286, R290: the scalar stores at an aligned address whose access goes on: the register's, or the pair's, 4 or 8 bytes are
stored, lowest byte first, where the access says; every register, mask and flag, and every other field of the wave but the pc
and the scheduler's counts stay. In coherent memory, at a line that no halo region holds, the bytes at the access's address are
those of the register, and every other byte stays; an H line's owner keeps them to itself, and those of a non-coherent page stay
in the L2: there memory keeps every byte. -/
def Obligations.ScalarLoadsAndStores : Prop :=
  (∀ s w f, Issues s w f → ∀ (d a : SReg) (i : BitVec 10) (c : Scope) (o : Order) t key,
     let acc (va : DWord) (n : Nat) : Prop :=
       va.toNat % n = 0 ∧ access s w.core w.slot (ctxIdOf s w.gid) w.priv va.toNat n .read false = (t, .ok key)
     let value (n : Nat) : Nat := ofBytes (loadBytes t w.core key n)
     let loads (j : Instr) (regs : Nat → Word) : Prop := ScalarDoneAt j s t w f regs (rdM w f) f.flags (f.pc + 4)
     (acc (rdP w a.toNat + i.signExtend 64) 4 → loads (.sld d a i) (setReg w d.toNat (BitVec.ofNat 32 (value 4))))
     ∧ (acc (rdP w a.toNat) 4 → loads (.sldOrdered d a c o false) (setReg w d.toNat (BitVec.ofNat 32 (value 4))))
     ∧ (acc (rdP w a.toNat) 8 → loads (.sldOrdered d a c o true) (setPair w d.toNat (BitVec.ofNat 64 (value 8))))
     ∧ (let va := rdP w a.toNat + i.signExtend 64
        let x : Word := BitVec.ofNat 32 (ofBytes (lookBytes t key 4))
        va.toNat % 4 = 0 → access s w.core w.slot (ctxIdOf s w.gid) w.priv va.toNat 4 .look false = (t, .ok key) →
        konstFind t w.core (ctxIdOf t w.gid) key = none →
        ScalarDoneAt (.sldk d a i) s (konstPut t w.core (ctxIdOf t w.gid) key x) w f (setReg w d.toNat x) (rdM w f) f.flags (f.pc + 4)))
  ∧ ((∀ s w f, Issues s w f → ∀ (d a : SReg) (i : BitVec 10) (c : Scope) (o : Order) t key,
       let acc (va : DWord) (n : Nat) : Prop :=
         va.toNat % n = 0 ∧ access s w.core w.slot (ctxIdOf s w.gid) w.priv va.toNat n .write false = (t, .ok key)
       let stores (j : Instr) (n x : Nat) : Prop :=
         ScalarDoneAt j s (storeBytes t w.core key (toBytes n x)) w f (rdS w) (rdM w f) f.flags (f.pc + 4)
       (acc (rdP w a.toNat + i.signExtend 64) 4 → stores (.sst d a i) 4 (rdS w d.toNat).toNat)
       ∧ (acc (rdP w a.toNat) 4 → stores (.sstOrdered d a c o false) 4 (rdS w d.toNat).toNat)
       ∧ (acc (rdP w a.toNat) 8 → stores (.sstOrdered d a c o true) 8 (rdP w d.toNat).toNat))
     ∧ ∀ t core key n x, let u := storeBytes t core key (toBytes n x)
       (key < 2 ^ 64 → haloOwner t key ≠ some core → u = { t with mem := u.mem }
         ∧ (∀ b, b < n → Tab.get 0 u.mem (key + b) = BitVec.ofNat 8 (x / 256 ^ b))
         ∧ ∀ p, (p < key ∨ key + n ≤ p) → Tab.get 0 u.mem p = Tab.get 0 t.mem p)
       ∧ (key < 2 ^ 64 → haloOwner t key = some core → u = { t with coh := { t.coh with haloDirty := u.coh.haloDirty } })
       ∧ (2 ^ 64 ≤ key → u = { t with hostLines := u.hostLines }))

/-- R189, R190, R184: a misaligned scalar access takes `MISALIGN` at its word with the address in TRAPADDR, for every load and
store, and so do `WAITA`, `WAKE` and the task words at theirs. R190, R291: a scalar load or store whose access faults takes that
fault at its word. -/
def Obligations.ScalarAccessTraps : Prop :=
  (∀ s w f c, AtUser s w f c → ∀ (d a : SReg) (i : BitVec 10) (n : BitVec 6) (sc : Scope) (o : Order),
     let traps (j : Instr) (va : DWord) : Prop := TrapTaken j s f c .misalign 1 va 0 f.pc
     let near := rdP w a.toNat + i.signExtend 64
     let at_ := rdP w a.toNat
     (near.toNat % 4 ≠ 0 → traps (.sld d a i) near ∧ traps (.sst d a i) near ∧ traps (.sldk d a i) near)
     ∧ (at_.toNat % 4 ≠ 0 → traps (.sldOrdered d a sc o false) at_ ∧ traps (.sstOrdered d a sc o false) at_
         ∧ traps (.waita d a sc) at_ ∧ traps (.wake a sc) at_)
     ∧ (at_.toNat % 8 ≠ 0 → traps (.sldOrdered d a sc o true) at_ ∧ traps (.sstOrdered d a sc o true) at_)
     ∧ (at_.toNat % 64 ≠ 0 → traps (.klaunch d a) at_ ∧ traps (.tspawn d a) at_ ∧ traps (.tdec d a) at_ ∧ traps (.tadd d a n) at_))
  ∧ (∀ s w f c, AtUser s w f c → ∀ (d a : SReg) (i : BitVec 10) t cause,
       let va := rdP w a.toNat + i.signExtend 64
       va.toNat % 4 = 0 → cause ≠ .reservedTouch →
       (access s w.core w.slot (ctxIdOf s w.gid) .u va.toNat 4 .read false = (t, .fault cause) →
         TrapTaken (.sld d a i) s f c cause 1 va 0 f.pc)
       ∧ (access s w.core w.slot (ctxIdOf s w.gid) .u va.toNat 4 .look false = (t, .fault cause) →
         TrapTaken (.sldk d a i) s f c cause 1 va 0 f.pc)
       ∧ (access s w.core w.slot (ctxIdOf s w.gid) .u va.toNat 4 .write false = (t, .fault cause) →
         TrapTaken (.sst d a i) s f c cause 1 va 0 f.pc))

/-- R247, R129: `WAITA` goes on, changing no register (and no flag, but in a trap handler, where it clears the flags), when the word
differs from the value it holds; else it sleeps on its line. `WAKE` goes on; every `WAITA` that watches the line returns, when
each lies in the other's scope instance; every other fragment stays. -/
def Obligations.WatchedAddresses : Prop :=
  ∀ s w f, Issues s w f → ∀ (d a : SReg) (sc : Scope) t key,
    let va := rdP w a.toNat
    va.toNat % 4 = 0 → access s w.core w.slot (ctxIdOf s w.gid) w.priv va.toNat 4 .read false = (t, .ok key) →
    let returned (g : Frag) : Frag := { g with flags := if g.handler then Flags.zero else g.flags, pc := g.pc + 4, wait := .none }
    (BitVec.ofNat 32 (ofBytes (loadBytes t w.core key 4)) ≠ rdS w d.toNat →
      ScalarDoneAt (.waita d a sc) s t w f (rdS w) (rdM w f) (returned f).flags (f.pc + 4))
    ∧ (BitVec.ofNat 32 (ofBytes (loadBytes t w.core key 4)) = rdS w d.toNat →
      exec (.waita d a sc) s = .next (putWave t (putFrag w s.cur.b (some { f with wait := .waita (lineOf key) sc }))))
    ∧ Answers (.wake a sc) s (fun u => ∀ k v b g, Map.find s.waves k = some v → k ≠ 64 * w.core + w.slot → fragOf v b = some g →
        ∃ v' g', Map.find u.waves k = some v' ∧ fragOf v' b = some g'
          ∧ (∀ c, g.wait = .waita (lineOf key) c → scopeHas sc w v = true → scopeHas c v w = true → g' = returned g)
          ∧ ((∀ c, g.wait ≠ .waita (lineOf key) c) → g' = g))

/-- R139, R144: the counter words at an aligned record that the access reaches. On a record in `WAITING` (state 1) `TDEC` takes one
from a counter above 1 and `TADD` adds its number, saturating at 2^32 - 1; both answer the counter as found, and on a record in
another state they change nothing. R138, R139, R143: the words that start a task, on a valid record their accesses reach. One
already in hand (state 1 to 3) is refused with 2. `TSPAWN` of a counter above 0 leaves it `WAITING` (state 1) in the wave's
queue and answers 0. `KLAUNCH`, or a `TSPAWN` of counter 0, places it, `QUEUED` (state 2) with counter 0 in the queue's ready
list of its priority, and answers 1 (here into an empty list of an active queue of the context). -/
def Obligations.TaskWords : Prop :=
  (∀ s w f, Issues s w f → ∀ (d a : SReg) (n : BitVec 6) t key,
     (rdP w a.toNat).toNat % 64 = 0 →
     access s w.core w.slot (ctxIdOf s w.gid) w.priv (rdP w a.toNat).toNat 8 .update false = (t, .ok key) →
     let h := readNum t.mem key 8
     let count := h % 2 ^ 32
     let state := h / 2 ^ 32 % 8
     let answers (i : Instr) (u : State) : Prop :=
       ScalarDoneAt i s u w f (setReg w d.toNat (BitVec.ofNat 32 count)) (rdM w f) f.flags (f.pc + 4)
     (state = 1 → 2 ≤ count → answers (.tdec d a) (putNum t key 8 (h - 1)))
     ∧ (state = 1 → answers (.tadd d a n) (putNum t key 8 (h - count + min (count + n.toNat) (2 ^ 32 - 1))))
     ∧ (state ≠ 1 → answers (.tdec d a) t ∧ answers (.tadd d a n) t))
  ∧ (∀ s w f, Issues s w f → ∀ (d a : SReg) t u k0 key,
       let va := (rdP w a.toNat).toNat
       let ctx := ctxIdOf s w.gid
       va % 64 = 0 → access s w.core w.slot ctx w.priv va 64 .read false = (t, .ok k0) →
       taskValid (ofBytes (loadBytes t w.core k0 64)) = true → access t w.core w.slot ctx w.priv va 8 .update false = (u, .ok key) →
       let h := readNum u.mem key 8
       let state := h / 2 ^ 32 % 8
       let q := ((gridOf s w.gid).map (·.queue)).getD 0
       let answers (i : Instr) (v : State) (x : Word) : Prop :=
         ScalarDoneAt i s v w f (setReg w d.toNat x) (rdM w f) f.flags (f.pc + 4)
       (1 ≤ state → state ≤ 3 → answers (.tspawn d a) u 2 ∧ answers (.klaunch d a) u 2)
       ∧ ((state = 0 ∨ 4 ≤ state) → q < 1024 →
           (h % 2 ^ 32 ≠ 0 → ∃ v, answers (.tspawn d a) v 0 ∧ readNum v.mem key 8 % 2 ^ 32 = h % 2 ^ 32
               ∧ readNum v.mem key 8 / 2 ^ 32 % 8 = 1 ∧ readNum v.mem key 8 / 2 ^ 48 % 1024 = q)
           ∧ ((queueOf u q).st = .active → (queueOf u q).ctxId = ctx →
               Map.find (queueOf u q).readyTail (h / 2 ^ 36 % 4) = none →
               ∃ v, answers (.klaunch d a) v 1 ∧ (h % 2 ^ 32 = 0 → answers (.tspawn d a) v 1)
                 ∧ readNum v.mem key 8 % 2 ^ 32 = 0 ∧ readNum v.mem key 8 / 2 ^ 32 % 8 = 2
                 ∧ readNum v.mem key 8 / 2 ^ 48 % 1024 = q
                 ∧ Map.find (queueOf v q).readyHead (h / 2 ^ 36 % 4) = some va)))

/-- R130, R115: `QPOST` at S with room in the fault queue: the record goes, with the queue's tail as its seq, to the slot of that
tail, tail advances by one, the context's vector is raised, and the word answers the tail. With the queue full the fragment
waits, with the record as read. -/
def Obligations.FaultQueuePosts : Prop :=
  ∀ s w f c, Issues s w f → w.priv = .s → ctxOf s (ctxIdOf s w.gid) = some c → ∀ (d a : SReg) s1 s2 s3 k1 hk k3,
    let va := (rdP w a.toNat).toNat
    let ctx := ctxIdOf s w.gid
    va % 64 = 0 → access s w.core w.slot ctx .s va 64 .read false = (s1, .ok k1) →
    access s1 w.core w.slot ctx .s (BitVec.ofNat 64 c.desc.fqBase).toNat 64 .update false = (s2, .ok hk) →
    let tail := ofBytes (loadBytes s2 w.core hk 4)
    let head := ofBytes (loadBytes s2 w.core (hk + 4) 4)
    let r := ofBytes (loadBytes s1 w.core k1 64)
    (2 ^ c.desc.fqOrder ≤ (tail + 2 ^ 32 - head) % 2 ^ 32 →
      exec (.qpost d a) s = .next (putWave s2 (putFrag w s.cur.b (some { f with wait := .fqpost (BitVec.ofNat 512 r) }))))
    ∧ ((tail + 2 ^ 32 - head) % 2 ^ 32 < 2 ^ c.desc.fqOrder →
    access s2 w.core w.slot ctx .s (BitVec.ofNat 64 (ringSlot c.desc.fqBase c.desc.fqOrder tail)).toNat 64 .update false = (s3, .ok k3) →
      ScalarDoneAt (.qpost d a) s
        (raiseMsix (storeBytes (storeBytes s3 w.core k3 (toBytes 64 (putBits r 159 128 tail))) w.core hk (toBytes 4 (tail + 1))) ctx
          c.desc.fqMsix)
        w f (setReg w d.toNat (BitVec.ofNat 32 tail)) (rdM w f) f.flags (f.pc + 4))

/-- R320, R319: a transfer word on a valid descriptor, whose ranges pass the checks and whose pages can be pinned, with a transfer
slot free, is issued there: an operation of its kind in state `ISSUED`, for the wave, its group, its context and its queue, with
the next serial number; its ranges are locked, by table entries and overflow ranges; and the word answers the handle, the slot
and 1,024 times the serial. No other operation of the core, no other core and nothing else changes. (Copies and fills; a gather
or scatter whose index list the accesses reach.) With no slot free, or too few pages that can be pinned, the word waits. R328,
R329, R327: the words of event queues. `EVPOP` and `EVWAIT` take the head record, its eight words going to eight registers from
sd; with none, `EVPOP` answers all ones and `EVWAIT` sleeps. `EVCFG` sets the four depths and answers 0 when they keep the
limits, no queue holds more and no operation of the wave is pending; it answers 1 when they do not keep the limits, else 2, and
changes no depth. `XCANCEL` of a handle that names no operation of the group answers 1; of one in hand that is no drain it posts
a `CANCELLED` record (status 1) to the operation's queue, or keeps it for a place, and answers 0; an operation whose wave is
gone, and its group here, ends without a record. -/
def Obligations.TransferWords : Prop :=
  (∀ s w f, Issues s w f → ∀ (d a : SReg) (q : BitVec 2) t key u idxs,
     let va := rdP w a.toNat
     va.toNat % 64 = 0 →
     access s w.core w.slot (ctxIdOf s w.gid) w.priv va.toNat 64 .read false = (t, .ok key) →
     let r := ofBytes (loadBytes t w.core key 64)
     let issues (i : Instr) (k : EngKind) : Prop :=
       let x := xdesc r
       let c := coreOf u w.core
       let pins := pinPages u w.core (ctxIdOf u w.gid) w.priv [] (xPages k x idxs)
       xValid k r = true → (xIndexed k = true → x.idx % 4 = 0) →
       readIdx t w x.idx (if xIndexed k then x.rows else 0) = (u, .ok idxs) →
       xCheck k x (xRanges k x idxs) (((groupOf u w.gid).map (·.scratchBytes)).getD 0) = none →
       (∀ slot, freeOpSlot c = some slot → pins.isSome = true → ∃ v o,
         ScalarDoneAt i s v w f (setReg w d.toNat (BitVec.ofNat 32 (slot + 1024 * c.serial.toNat))) (rdM w f) f.flags (f.pc + 4)
         ∧ Map.find (coreOf v w.core).ops slot = some o ∧ o.kind = k ∧ o.st = .issued ∧ o.gid = w.gid ∧ o.ctx = ctxIdOf u w.gid
         ∧ o.q = q.toNat ∧ o.wave = w.ident.waveid.toNat ∧ o.priv = w.priv ∧ o.desc = BitVec.ofNat 512 r ∧ o.idxs = idxs
         ∧ o.serial = c.serial ∧ (coreOf v w.core).serial = c.serial + 1
         ∧ (coreOf v w.core).locks ++ (coreOf v w.core).overflow = c.locks ++ (xLocks slot (ctxIdOf u w.gid) w.gid (xRanges k x idxs)).take
             (64 - c.locks.length) ++ (c.overflow ++ (xLocks slot (ctxIdOf u w.gid) w.gid (xRanges k x idxs)).drop (64 - c.locks.length))
         ∧ (∀ j, j ≠ slot → Map.find (coreOf v w.core).ops j = Map.find c.ops j) ∧ (∀ j, j ≠ w.core → coreOf v j = coreOf u j)
         ∧ v = { u with cores := v.cores })
       ∧ (freeOpSlot c = none ∨ pins = none →
         exec i s = .next (putWave u (putFrag w s.cur.b (some { f with wait := .engineSlot }))))
     issues (.xcopy d a q) .copy ∧ issues (.xgather d a q) .gather ∧ issues (.xscatter d a q) .scatter ∧ issues (.xfill d a q) .fill)
  ∧ (∀ s w f, Issues s w f → ∀ (d a : SReg) (q : BitVec 2),
       let e := evqOf w q.toNat
       let x := (rdS w a.toNat).toNat
       let depth (j : Nat) : Nat := x / 2 ^ (8 * j) % 128
       let within : Prop := (rdS w a.toNat) &&& 0x80808080 = 0 ∧ depth 0 + depth 1 + depth 2 + depth 3 ≤ 64
       let free : Prop := (∀ j, j < 4 → (evqOf w j).recs.length ≤ depth j)
         ∧ opsWhere s (fun o => o.gid == w.gid && o.wave == w.ident.waveid.toNat) = []
       let regs (i : Instr) (u : Wave) (y : Nat → Word) : Prop := ScalarDoneAt i s s u f y (rdM w f) f.flags (f.pc + 4)
       (∀ r rest, e.recs = r :: rest →
         let after (n : Nat) : Word :=
           if n = 0 then 0 else if d.toNat ≤ n ∧ n < d.toNat + 8 then (r >>> (32 * (n - d.toNat))).setWidth 32 else rdS w n
         regs (.evpop d q) (putEvq w q.toNat { e with recs := rest }) after
         ∧ regs (.evwait d q) (putEvq w q.toNat { e with recs := rest }) after)
       ∧ (e.recs = [] → regs (.evpop d q) w (setReg w d.toNat 0xFFFFFFFF)
           ∧ exec (.evwait d q) s = .next (putWave s (putFrag w s.cur.b (some { f with wait := .evwait q.toNat }))))
       ∧ (within → free → ∃ u, regs (.evcfg d a) u (setReg w d.toNat 0) ∧ u = { w with evqs := u.evqs }
             ∧ ∀ j, evqOf u j = if j < 4 then { evqOf w j with depth := depth j } else evqOf w j)
       ∧ (¬ within → regs (.evcfg d a) w (setReg w d.toNat 1))
       ∧ (within → ¬ free → regs (.evcfg d a) w (setReg w d.toNat 2))
       ∧ ((∀ o, Map.find (coreOf s w.core).ops (x % 1024) = some o → ¬ (engHandle o (x % 1024) = rdS w a.toNat ∧ o.gid = w.gid)) →
           regs (.xcancel d a) w (setReg w d.toNat 1))
       ∧ (∀ o, Map.find (coreOf s w.core).ops (x % 1024) = some o → engHandle o (x % 1024) = rdS w a.toNat → o.gid = w.gid →
           o.kind ≠ .drain → (∀ v, waveOf s o.gid o.wave = some v → waveAt s v.core v.slot = some v) →
           Answers (.xcancel d a) s (fun t => ∃ v g, waveAt t s.cur.core s.cur.slot = some v ∧ fragOf v s.cur.b = some g
             ∧ (∀ n, rdS v n = setReg w d.toNat 0 n) ∧ g.pc = f.pc + 4 ∧ g.flags = f.flags ∧ g.m0 = f.m0)
           ∧ Posts (.xcancel d a) s s w.core (x % 1024) o (engRecord o (x % 1024) 1 0 0)
           ∧ (waveOf s o.gid o.wave = none → swappedOut s o.gid = false →
             Answers (.xcancel d a) s (fun t => Map.find (coreOf t w.core).ops (x % 1024) = none))))

/-- R309: `PGTAKE` takes the lowest `POOLED` frame for the context, or answers all ones; its put form sends a frame that the context
took to be zeroed. `PGMAP` of a taken frame writes the leaf with its permissions, gives the frame to the context as local memory
and ends the claim of the page; it answers 1 over a leaf, 2 outside the reservation, 3 for a frame not taken, 4 with no level-1
table. -/
def Obligations.PageFrames : Prop :=
  ∀ s w f c, Issues s w f → w.priv = .s → ctxOf s (ctxIdOf s w.gid) = some c → ∀ (d a : SReg),
    let ctx := ctxIdOf s w.gid
    let va := (rdP w a.toNat).toNat
    let n := (rdS w d.toNat).toNat
    (∀ k, lowestIn s .pooled = some k →
        AnswersIn (.pgtake d false) s (setFrame s k (plainFrame .taken ctx)) w f d (BitVec.ofNat 32 k))
    ∧ (lowestIn s .pooled = none → AnswersIn (.pgtake d false) s s w f d 0xFFFFFFFF)
    ∧ (takenBy s n ctx = true → AnswersIn (.pgtake d true) s (setFrame s n (plainFrame .zeroing 0)) w f d 0)
    ∧ (takenBy s n ctx = false → AnswersIn (.pgtake d true) s s w f d 0xFFFFFFFF)
    ∧ (va % 65536 = 0 → ∀ wr x : Bool,
        let map := Instr.pgmap d a wr x
        let e0 := readNum s.mem (c.desc.ptRoot + 8 * bits va 56 43) 8
        let e1 := readNum s.mem (ptePa e0 + 8 * bits va 42 29) 8
        let slot := ptePa e1 + 8 * bits va 28 16
        (inResv c va = false → AnswersIn map s s w f d 2)
        ∧ (inResv c va = true → takenBy s n ctx = false → AnswersIn map s s w f d 3)
        ∧ (inResv c va = true → takenBy s n ctx = true → pteTable e0 = false → AnswersIn map s s w f d 4)
        ∧ (inResv c va = true → takenBy s n ctx = true → pteTable e0 = true → pteLeaf true e1 = true → AnswersIn map s s w f d 1)
        ∧ (w.yieldClaim = [] → Settled s → inResv c va = true → takenBy s n ctx = true → pteTable e0 = true → pteTable e1 = true →
            pteLeaf false (readNum s.mem slot 8) = false →
            ∃ t, AnswersIn map s t w f d 0
              ∧ readNum t.mem slot 8 = 65536 * n + 19 + (if wr then 32 else 0) + (if x then 64 else 0)
              ∧ (∀ b, b < slot ∨ slot + 8 ≤ b → Tab.get 0 t.mem b = Tab.get 0 s.mem b)
              ∧ Map.find t.vm.frames n = some (plainFrame .loc ctx)
              ∧ ∀ k ∈ t.vm.claims, ¬ (k.ctx = ctx ∧ k.vpn = va / 65536)))

/-- R310, R311, R312, R314: with no strip queued and no operation of the context in hand, `PGUNMAP` clears the valid bit of a leaf
and every held translation of the page (answering 1 without a leaf, 2 outside the reservation, 6 for a page with a line in A),
and its freeing form sends a local frame to be zeroed; `PGINV` drops the held translations and table entries of its pages and no
others. `PGHARVEST` of one page answers whether its write-grant bit was set, clears the bit and sets the leaf's d; `PGQUERY`
answers a snapshot of the page. -/
def Obligations.PageMaps : Prop :=
  ∀ s w f c, Issues s w f → ctxOf s (ctxIdOf s w.gid) = some c → ∀ (d a : SReg),
    let ctx := ctxIdOf s w.gid
    let va := (rdP w a.toNat).toNat
    let n := (rdS w d.toNat).toNat
    let quiet := w.strips = [] ∧ opsWhere s (fun o => o.ctx == ctx) = []
    (w.priv = .s → quiet → va % 65536 = 0 → ∀ free : Bool,
      (inResv c va = false → AnswersIn (.pgunmap d a free) s s w f d 2)
      ∧ (inResv c va = true → walk s.mem c.desc.ptRoot va = none → AnswersIn (.pgunmap d a free) s s w f d 1)
      ∧ (∀ slot large, inResv c va = true → walkTo s.mem c.desc.ptRoot va = some (slot, large) →
          let e := readNum s.mem slot 8
          let page := leafKey { word := e, large := large } va / 65536
          pteLeaf large e = true →
          ((pageLines page).any (inA s) = true → AnswersIn (.pgunmap d a free) s s w f d 6)
          ∧ (Settled s → frameOfPage s (slot / 65536) = none → (pageLines page).any (inA s) = false →
          ∃ t, AnswersIn (.pgunmap d a free) s t w f d 0
            ∧ t.mem = writeNum s.mem slot 8 (e - 1)
            ∧ t.vm.tlb = s.vm.tlb.filter (fun k => !(k.ctx == ctx && k.vpn == va / 65536))
            ∧ t.vm.tlb2 = s.vm.tlb2.filter (fun k => !(k.ctx == ctx && k.vpn == va / 65536))
            ∧ (free = true → pteHome e = 0 → page < frameLimit s → Map.find t.vm.frames page = some (plainFrame .zeroing 0))
            ∧ (free = false → t.vm.frames = s.vm.frames))))
    ∧ (w.priv = .s → quiet → n ≤ 65536 → va % 65536 = 0 ∨ n = 0 →
        ∃ t, ScalarDoneAt (.pginv d a) s t w f (rdS w) (rdM w f) f.flags (f.pc + 4)
          ∧ t = { s with vm := { s.vm with tlb := t.vm.tlb, tlb2 := t.vm.tlb2, walks := t.vm.walks } }
          ∧ (∀ k, let stays := k.ctx = ctx → n ≠ 0 ∧ (k.vpn < va / 65536 ∨ va / 65536 + n ≤ k.vpn)
              (k ∈ t.vm.tlb ↔ k ∈ s.vm.tlb ∧ stays) ∧ (k ∈ t.vm.tlb2 ↔ k ∈ s.vm.tlb2 ∧ stays))
          ∧ ∀ k, k ∈ t.vm.walks ↔ k ∈ s.vm.walks ∧ ¬ (k.ctx = ctx ∧ walkMeets (va / 65536) n k = true))
    ∧ (w.priv = .s → 1 ≤ n → n ≤ 4096 → va % 65536 = 0 →
        let r := harvest c.desc.ptRoot n s (va / 65536)
        AnswersIn (.pgharvest d a) s r.1 w f d (BitVec.ofNat 32 r.2))
    ∧ (∀ vpn slot large, walkTo s.mem c.desc.ptRoot (vpn * 65536) = some (slot, large) →
        let e := readNum s.mem slot 8
        let page := leafKey { word := e, large := large } (vpn * 65536) / 65536
        let r := harvest c.desc.ptRoot 1 s vpn
        pteLeaf large e = true →
        (Tab.get false s.vm.wgrant page = false → r = (s, 0))
        ∧ (Tab.get false s.vm.wgrant page = true → Settled s → slot / 65536 ≠ page → r.2 = 1 ∧ Tab.get false r.1.vm.wgrant page = false
            ∧ bit (readNum r.1.mem slot 8) 10 = true ∧ readNum r.1.mem slot 8 % 2 ^ 10 = e % 2 ^ 10))
    ∧ ∃ x : Word, AnswersIn (.pgquery d a) s s w f d x
        ∧ (2 ^ 57 ≤ va ∨ walk s.mem c.desc.ptRoot va = none → x = 0)
        ∧ (∀ l, va < 2 ^ 57 → walk s.mem c.desc.ptRoot va = some l →
            (w.priv = .u → bit l.word 7 = true → x = 0)
            ∧ (w.priv = .s ∨ bit l.word 7 = false →
                x.toNat % 2 = 1 ∧ x.toNat / 2 % 4 = pteHome l.word ∧ x.getLsbD 6 = l.large ∧ x.getLsbD 7 = bit l.word 10
                ∧ x.toNat / 2 ^ 8 = min 255 ((Map.find s.vm.pins (leafKey l va / 65536)).getD 0)))

/-- R313, R302: `PGMIGRATE` over a valid descriptor that its access reaches answers how many pages moved and why it stopped, when no
page has to wait. A page of the pool that moves to a local frame, none of whose lines lies in a halo region or was written by an
external agent, has its bytes there, its leaf names the frame, the frame is the context's, and no held translation of the page
is left. R315, R307: `CSHEET` over a valid request that its access reaches. It declares a sheet in an unused slot while the
context's sheets stay within 2^20 pages, drops one, and writes one (here of at most 64 pages) to memory, clearing its marks. -/
def Obligations.MigrationAndSheets : Prop :=
  ((∀ s w f c, Issues s w f → w.priv = .s → ctxOf s (ctxIdOf s w.gid) = some c → ∀ (d a : SReg) t key u n why,
     let va := rdP w a.toNat
     va.toNat % 32 = 0 → access s w.core w.slot (ctxIdOf s w.gid) .s va.toNat 32 .read false = (t, .ok key) →
     let r := ofBytes (loadBytes t w.core key 32)
     migrValid r = true →
     migratePages c.desc.ptRoot (ctxIdOf s w.gid) (bit r 72) (bits r 70 64) t (bits r 56 16) (bits r 179 144) = some (u, n, why) →
     AnswersIn (.pgmigrate d a) s u w f d (BitVec.ofNat 32 (n + why * 256)))
   ∧ ∀ s root ctx vpn slot k, MemOk s → Map.sorted s.vm.frames = true → walkTo s.mem root (vpn * 65536) = some (slot, false) →
     let e := readNum s.mem slot 8
     let src := ptePa e / 65536
     pteLeaf false e = true → pteHome e = 1 → migrWaits s src = false → lowestIn s .pooled = some k → k < 2 ^ 22 →
     Settled s → slot / 65536 ≠ k → (slot + 7) / 65536 ≠ k → src ≠ k →
     (∀ line ∈ pageLines src, haloOwner s line = none) → (∀ x ∈ s.extBytes, x.1 / 65536 ≠ src) →
     ∃ t, migratePages root ctx false 1 s vpn 0 = some (t, 1, 0)
       ∧ (∀ o, o < 65536 → Tab.get 0 t.mem (65536 * k + o) = Tab.get 0 s.mem (65536 * src + o))
       ∧ readNum t.mem slot 8 = e % 4 + e / 16 % 4096 * 16 + 65536 * k
       ∧ Map.find t.vm.frames k = some (plainFrame .loc ctx)
       ∧ ∀ x ∈ t.vm.tlb ++ t.vm.tlb2, ¬ (x.ctx = ctx ∧ x.vpn = vpn))
  ∧ (∀ s w f, Issues s w f → ∀ (d a : SReg) t key c,
       let va := rdP w a.toNat
       let ctx := ctxIdOf s w.gid
       va.toNat % 32 = 0 → access s w.core w.slot ctx w.priv va.toNat 32 .read false = (t, .ok key) → ctxOf t ctx = some c →
       let r := ofBytes (loadBytes t w.core key 32)
       let slot := bits r 87 85
       let total := c.sheets.foldl (fun n e => n + e.2.pages) (bits r 84 64)
       let sheets (m : Map Sheet) : State := { t with ctxs := Map.insert t.ctxs ctx { c with sheets := m } }
       (sheetValid .decl r = true → Map.find c.sheets slot ≠ none → AnswersIn (.csheet d a .decl) s t w f d 1)
       ∧ (sheetValid .decl r = true → Map.find c.sheets slot = none → 2 ^ 20 < total → AnswersIn (.csheet d a .decl) s t w f d 2)
       ∧ (sheetValid .decl r = true → Map.find c.sheets slot = none → total ≤ 2 ^ 20 →
           AnswersIn (.csheet d a .decl) s
             (sheets (Map.insert c.sheets slot { base := bits r 56 0, pages := bits r 84 64, marks := [] })) w f d 0)
       ∧ (sheetValid .drop r = true → Map.find c.sheets slot = none → AnswersIn (.csheet d a .drop) s t w f d 1)
       ∧ (sheetValid .drop r = true → Map.find c.sheets slot ≠ none →
           AnswersIn (.csheet d a .drop) s (sheets (Map.erase c.sheets slot)) w f d 0)
       ∧ (sheetValid .snapshot r = true → Map.find c.sheets slot = none → AnswersIn (.csheet d a .snapshot) s t w f d 0xFFFFFFFF)
       ∧ (∀ sh u k, sheetValid .snapshot r = true → Map.find c.sheets slot = some sh → 1 ≤ sh.pages → sh.pages ≤ 64 →
           access (sheets (Map.insert c.sheets slot { sh with marks := [] })) w.core w.slot ctx w.priv
             (BitVec.ofNat 64 (bits r 184 128)).toNat (2 * sh.pages) .update false = (u, .ok k) →
           AnswersIn (.csheet d a .snapshot) s (storeBytes u w.core k (sheetBytes sh)) w f d (BitVec.ofNat 32 sh.pages)))

/-- R237, R238, R153, R178: `TRAYFLUSH` with no deposit queued triggers every `FILLING` tray of the grid that it names on the
group's core, and no other, and answers their number; `TRAYCFG` sets an age and answers the one before; `CARVE` of banks that
already have their modes sets the holds and answers 0; `REGROUP` with a wave that may not be its partner answers all ones, and
one whose partner has not come parks (either lets a third wave that waits for this one go on, refused). R178: the second of two
waves to issue `REGROUP` for each other ends both parks. When both have one fragment at depth 0, the same k within both
allocations, at most 32 lanes together, and the donor's engine operations are over, the receiver, of the lesser number, holds
the receiver's lanes then the donor's, packed from lane 0, in its first k vector registers and its masks, goes on at its next
word and answers their number, and the donor exits. -/
def Obligations.TraysBanksAndRegroup : Prop :=
  (∀ s w f g, Issues s w f → groupOf s w.gid = some g → ∀ (d a : SReg),
     let x := (rdS w a.toNat).toNat
     (∀ all : Bool, putsQueued s w = false →
       let hit (t : Tray) : Bool := t.st == .filling && t.grid == g.grid && (all || t.config == bits x 5 0)
       ∃ t, AnswersIn (.trayflush d a all) s t w f d (BitVec.ofNat 32 ((coreOf s g.core).trays.filter (fun e => hit e.2)).length)
         ∧ (∀ k tr, Map.find (coreOf s g.core).trays k = some tr →
             Map.find (coreOf t g.core).trays k = some (if hit tr then { tr with st := .triggered, stamp := s.stamp } else tr))
         ∧ ∀ k, k ≠ g.core → coreOf t k = coreOf s k)
     ∧ (∀ gr, Map.find s.grids g.grid = some gr → bits x 15 6 = 0 → bits x 5 0 < gr.desc.trayCount →
         AnswersIn (.traycfg d a) s
           { s with grids := Map.insert s.grids g.grid { gr with ages := Map.insert gr.ages (bits x 5 0) (bits x 31 16) } } w f d
           (BitVec.ofNat 32 (trayAge gr (bits x 5 0))))
     ∧ (∀ hold : Bool, w.priv = .s → (∀ m l, f.wait ≠ .carve m l) → carving s w.core s.stamp = false → carveBusy (coreOf s w.core) x = false →
         carveChanges (coreOf s w.core) x = [] → 2 ≤ carveCaches (coreOf s w.core) x →
         ∃ t, AnswersIn (.carve d a hold) s t w f d 0
           ∧ ∀ i, i < 16 → (bankOf (coreOf t w.core) i).mode = (bankOf (coreOf s w.core) i).mode
             ∧ (carveMode x i ≠ none → (bankOf (coreOf t w.core) i).hold
                 = (hold && (bankOf (coreOf s w.core) i).mode != .cache)))
     ∧ (bits x 31 16 = 0 → bit x 7 = false → w.strips = [] →
         let p := bits x 6 0
         let me := w.ident.waveid.toNat
         (waveOf s w.gid p = none ∨ p = me ∨ p % 4 ≠ me % 4 ∨ p / 64 ≠ me / 64 → AnswersIn (.regroup d a) s (refuseNamers s w.gid me p) w f d 0xFFFFFFFF)
         ∧ (∀ q, waveOf s w.gid p = some q → p ≠ me → p % 4 = me % 4 → p / 64 = me / 64 → regroupOf q = none →
             exec (.regroup d a) s
               = .next (putWave (refuseNamers s w.gid me p)
                   (putFrag w s.cur.b (some { f with wait := .regroup p (bits x 15 8) d.toNat }))))))
  ∧ ((∀ s w f q kq dq, Issues s w f → ∀ (d a : SReg),
       let x := (rdS w a.toNat).toNat
       let p := bits x 6 0
       let me := w.ident.waveid.toNat
       let parked := putFrag w s.cur.b (some { f with wait := .regroup p (bits x 15 8) d.toNat })
       bits x 31 16 = 0 → bit x 7 = false → w.strips = [] → waveOf s w.gid p = some q → p ≠ me →
       p % 4 = me % 4 → p / 64 = me / 64 → regroupOf q = some (me, kq, dq) →
       exec (.regroup d a) s = .next (regroupBoth (putWave (refuseNamers s w.gid me p) parked) parked q (bits x 15 8) kq d.toNat dq))
     ∧ ∀ s x y k dx dy fx fy, loneFrag x = some fx → loneFrag y = some fy →
       fx.wait = .regroup y.ident.waveid.toNat k dx → fy.wait = .regroup x.ident.waveid.toNat k dy →
       x.ident.waveid.toNat < y.ident.waveid.toNat → k ≤ x.valloc → k ≤ y.valloc →
       let n := popc fx.m0 + popc fy.m0
       n ≤ 32 → engineQuiet s y = true →
       ∃ r, regroupBoth s x y k k dx dy = exitWave (putWave s r) y.core y.slot
         ∧ regroupBoth s y x k k dy dx = exitWave (putWave s r) y.core y.slot
         ∧ r.core = x.core ∧ r.slot = x.slot ∧ rdS r dx = (if dx = 0 then 0 else BitVec.ofNat 32 n)
         ∧ (∀ h ∈ slotFrags r, h.m0 = BitVec.ofNat 32 (2 ^ n - 1) ∧ h.pc = fx.pc + 4 ∧ h.wait = .none)
         ∧ ∀ l p, (regroupSrc x y fx fy)[l]? = some p →
             (∀ j, j < k → laneGet (Tab.get 0 r.vregs j) l = laneGet (Tab.get 0 p.1.vregs j) p.2)
             ∧ ∀ j, 1 ≤ j → j < 16 → (Tab.get 0 r.masks j).getLsbD l = (Tab.get 0 p.1.masks j).getLsbD p.2)

/-- R344, R345, R346, R347: the accumulator words over a valid descriptor that their accesses reach. `ACCOPEN` of writable pages
with a large enough spill area, on a descriptor in `CLOSED`, `DRAINED` or `ABORTED` and lines free of A and H, with no coherence
transaction in progress, enters a new accumulator with no element, its state byte `OPEN`, and answers 0 (1 for another state, 2
for a line in use). `ACCDRAIN` of an open one seals it, starts a drain in a transfer slot and answers its handle; `ACCABORT` of
one without a drain ends it `ABORTED`; `ACCWAIT` answers the state, and sleeps while it is `DRAINING`. A descriptor that is not
open makes the drain answer all ones and the abort 1. -/
def Obligations.AccumulatorWords : Prop :=
  ∀ s w f, Issues s w f → ∀ (d a : SReg) t k0 u key,
    let va := rdP w a.toNat
    let ctx := ctxIdOf s w.gid
    va.toNat % 64 = 0 → access s w.core w.slot ctx w.priv va.toNat 64 .read false = (t, .ok k0) →
    access t w.core w.slot ctx w.priv va.toNat 64 .update false = (u, .ok key) →
    let r := ofBytes (loadBytes t w.core k0 64)
    let st := adState (readNum u.mem key 64)
    adValid r = true →
    (∀ map spill, openPages t w (adBase r / 65536) 1 (spanPages (adBase r) (adBase r + adSize r)) = some map →
      openPages t w (adSpill r / 65536) 0 (adBlocks r) = some spill → 4 * ceilDiv (adSize r) 128 ≤ 65536 * adBlocks r →
      let x := accNew u w va.toNat key r map
      (st ≠ 0 → st ≠ 3 → st ≠ 4 → AnswersIn (.accopen d a) s u w f d 1)
      ∧ ((st = 0 ∨ st = 3 ∨ st = 4) → (accLineKeys x).any (fun k => inA u k || (haloOwner u k).isSome) = true →
          AnswersIn (.accopen d a) s u w f d 2)
      ∧ (∀ n, (st = 0 ∨ st = 3 ∨ st = 4) → (accLineKeys x).any (fun k => inA u k || (haloOwner u k).isSome) = false →
          Map.lowestFree (fun _ => false) 1024 u.accs 0 = some n → Settled u →
          ∃ v, AnswersIn (.accopen d a) s v w f d 0 ∧ v.accs = Map.insert u.accs n x ∧ x.st = .opened ∧ x.elems = []
            ∧ x.base = adBase r ∧ x.rows = adRows r ∧ x.cols = adCols r ∧ readNum v.mem (key + 17) 1 % 8 = 1))
    ∧ (∀ (q : BitVec 2) n x slot pins,
        bytesMeet (adDst r) (adDstBytes r) (adBase r) (adSize r) = false →
        (adHist r = 0 ∨ bytesMeet (adDst r) (adDstBytes r) (adHist r) 128 = false) →
        accByDesc u ctx key = some (n, x) → st = 1 → x.st = .opened → freeOpSlot (coreOf u w.core) = some slot →
        Settled u → pinPages u w.core ctx w.priv [] (drainPages (BitVec.ofNat 512 r)) = some pins →
        ∃ v o, AnswersIn (.accdrain d a q) s v w f d (BitVec.ofNat 32 (slot + 1024 * (coreOf u w.core).serial.toNat))
          ∧ Map.find v.accs n = some { x with st := .draining, parkedLines := 0 }
          ∧ Map.find (coreOf v w.core).ops slot = some o ∧ o.kind = .drain ∧ o.acc = n ∧ o.q = q.toNat ∧ o.gid = w.gid
          ∧ readNum v.mem (x.descPa + 17) 1 % 8 = 2)
    ∧ (∀ n x, accByDesc u ctx key = some (n, x) → Map.find u.accs n = some x →
        opsWhere u (fun o => o.kind == .drain && o.acc == n) = [] → Settled u →
        ∃ v, AnswersIn (.accabort d a) s v w f d 0 ∧ Map.find v.accs n = none ∧ readNum v.mem (x.descPa + 17) 1 % 8 = 4)
    ∧ (accByDesc u ctx key = none → AnswersIn (.accabort d a) s u w f d 1
        ∧ (∀ q, bytesMeet (adDst r) (adDstBytes r) (adBase r) (adSize r) = false →
            (adHist r = 0 ∨ bytesMeet (adDst r) (adDstBytes r) (adHist r) 128 = false) →
            AnswersIn (.accdrain d a q) s u w f d 0xFFFFFFFF))
    ∧ (adState r ≠ 2 → AnswersIn (.accwait d a) s t w f d (BitVec.ofNat 32 (adState r)))
    ∧ (adState r = 2 → exec (.accwait d a) s = .next (putWave t (putFrag w s.cur.b (some { f with wait := .accwait }))))

/-- R351: `MLOOP` by a team's member over a valid descriptor and format block that its accesses reach, its operand spans within the
group's scratch and a transfer slot free, is issued there, joins its team's next operation, and answers its handle. -/
def Obligations.MatrixLoopIssues : Prop :=
  ∀ s w f, Issues s w f → ∀ (d a : SReg) (q : BitVec 2) t k0 u k1 fb slot,
    let va := rdP w a.toNat
    let ctx := ctxIdOf s w.gid
    va.toNat % 64 = 0 → access s w.core w.slot ctx w.priv va.toNat 64 .read false = (t, .ok k0) →
    let r := ofBytes (loadBytes t w.core k0 64)
    let l := loopDesc r
    teamSizeOf w ≠ 0 → loopValid r = true → l.fmt % 32 = 0 →
    access t w.core w.slot ctx w.priv (BitVec.ofNat 64 l.fmt).toNat 32 .read false = (u, .ok k1) →
    fmtOf (ofBytes (loadBytes u w.core k1 32)) = some fb → (mmaRegs fb.aType fb.bType).isSome = true →
    let kk := stepK fb.aType fb.bType
    let sa := loopSpan l.aOff l.aInc l.steps (kk * (ltypeBits fb.aType / 8)) (32 * teamSizeOf w)
    let sb := loopSpan l.bOff l.bInc l.steps (kk * (ltypeBits fb.bType / 8)) (32 * teamSizeOf w)
    let size : Int := (((groupOf u w.gid).map (·.scratchBytes)).getD 0 : Nat)
    0 ≤ sa.1 → 0 ≤ sb.1 → sa.2 ≤ size → sb.2 ≤ size → freeOpSlot (coreOf u w.core) = some slot →
    (teamOf u w.core w.gid (teamIdxOf w)).any (·.dissolved) = false →
    let h := slot + 1024 * (coreOf u w.core).serial.toNat
    ∃ v o tm m, AnswersIn (.mloop d a q) s v w f d (BitVec.ofNat 32 h)
      ∧ Map.find (coreOf v w.core).ops slot = some o ∧ o.kind = .mloop ∧ o.st = .issued ∧ o.q = q.toNat ∧ o.gid = w.gid
      ∧ o.wave = w.ident.waveid.toNat ∧ o.desc = BitVec.ofNat 512 r
      ∧ teamOf v w.core w.gid (teamIdxOf w) = some tm ∧ m ∈ tm.members ∧ m.wave = w.ident.waveid.toNat
      ∧ m.words.getLast? = some (.mloop (BitVec.ofNat 32 h).toNat)
      ∧ v.mem = u.mem

/-- R402: `LYCFG` over a valid layered texture whose pool state keeps its map. `.query` answers the live count of the pool's state;
`.grow` takes one page more when the next is a writable local page and answers the new count, else all ones; `.init` of a header
array of one line clears it, sets the pool's state to as many pages as are ready, none used, and answers that. -/
def Obligations.LayerConfiguration : Prop :=
  ∀ s w f, Issues s w f → ∀ (d a : SReg) t0 k0 c t,
    let va := rdP w a.toNat
    let ctx := ctxIdOf s w.gid
    va.toNat % 64 = 0 → access s w.core w.slot ctx w.priv va.toNat 64 .read false = (t0, .ok k0) → ctxOf t0 ctx = some c →
    layeredOf c.desc (ofBytes (loadBytes t0 w.core k0 64)) = some t →
    let hdr := (BitVec.ofNat 64 t.hdr).toNat
    (∀ u k p, access t0 w.core w.slot ctx w.priv hdr 128 .pull false = (u, .ok k) →
      poolState (ofBytes (loadBytes u w.core k 128)) = some p → AnswersIn (.lycfg d a .query) s u w f d (BitVec.ofNat 32 p.live))
    ∧ (∀ u k, access t0 w.core w.slot ctx w.priv hdr 128 .update false = (u, .ok k) →
        (∀ p, poolState (ofBytes (loadBytes u w.core k 128)) = some p →
        let ready := p.pages < t.maxPages ∧ poolPage u c.desc (t.pool + 65536 * p.pages) = true
        (ready → AnswersIn (.lycfg d a .grow) s (storeNum u w.core k 16 (poolNum { p with pages := p.pages + 1 })) w f d
          (BitVec.ofNat 32 (p.pages + 1)))
        ∧ (¬ ready → AnswersIn (.lycfg d a .grow) s u w f d 0xFFFFFFFF))
        ∧ (∀ v k', 4 * t.width * t.height ≤ 128 → 1 ≤ t.width * t.height →
            access u w.core w.slot ctx w.priv (BitVec.ofNat 64 (t.hdr + 128)).toNat 128 .update false = (v, .ok k') →
            let pages := poolPages v c.desc t.pool t.maxPages
            AnswersIn (.lycfg d a .init) s
              (storeNum (storeNum v w.core k' (4 * t.width * t.height) 0) w.core k 16
                (poolNum { pages := pages, used := 0, freeHead := 0, live := 0 })) w f d (BitVec.ofNat 32 pages)))

/-- R288, R287: `HALODECL` over a valid descriptor whose owners' bytes its accesses reach, with writable pages, lines free of A and
H, no coherence transaction in progress and a region number unused, declares the region and answers its number. `HALOPUSH` with
no strip queued and no replica to wait for writes the core's dirty lines of the region to memory and answers their number, or
all ones for an undeclared region; `HALOEND` with no push in flight writes the region's dirty bytes to memory, drops the region
and every copy of its lines, and answers 0, or all ones for an undeclared one. R284, R265: `LCLAIM` of a FOG line that its
access reaches, with no range locked over it, makes it 128 zero bytes, clears the fog marker, sets its page's write-grant bit
and answers 1, on an H line too; of a line that is not FOG, and not in A or MIGR, it answers 0. `CWB` and `CINV` of fewer than
2^24 bytes, with no strip queued, go on and change no register, and no byte of memory where their lines are in A or coherent,
with no region and no transaction in progress; of one line of a non-coherent page they write the bytes that the K9 has written
to host memory, and `CINV` drops the line. -/
def Obligations.HaloAndLineWords : Prop :=
  (∀ s w f, Issues s w f → ∀ (d a : SReg),
     let ctx := ctxIdOf s w.gid
     let n := (rdS w a.toNat).toNat
     (∀ t k u k' map m, let va := rdP w a.toNat
       va.toNat % 64 = 0 → access s w.core w.slot ctx w.priv va.toNat 64 .read false = (t, .ok k) →
       let r := ofBytes (loadBytes t w.core k 64)
       let tiles := bits r 143 128 * bits r 159 144
       haloValid r = true → 1 ≤ tiles → bits r 248 192 % 128 + tiles ≤ 128 →
       access t w.core w.slot ctx w.priv (BitVec.ofNat 64 (bits r 248 192)).toNat tiles .read false = (u, .ok k') →
       let owners := (loadBytes u w.core k' tiles).map (·.toNat)
       (∀ o ∈ owners, o ≤ 95) → mapPages u w (haloPages (haloOf r owners [])) = some map →
       let h := haloOf r owners map
       let keys := (haloLines h).map (haloKey h)
       (∀ x ∈ keys, inA u x = false ∧ haloOwner u x = none) → Settled u →
       Map.lowestFree (fun _ => false) 16 (((ctxOf u ctx).map (·.halos)).getD []) 0 = some m → ctxOf u ctx ≠ none →
       ∃ v, AnswersIn (.halodecl d a) s v w f d (BitVec.ofNat 32 m) ∧ (ctxOf v ctx).bind (fun c => Map.find c.halos m) = some h
         ∧ v.mem = u.mem)
     ∧ (w.strips = [] → pushing s w.core = false → (∀ k, f.wait ≠ .haloPush k) →
         (haloRegion s w n = none → AnswersIn (.halopush d a) s s w f d 0xFFFFFFFF)
         ∧ (∀ h, haloRegion s w n = some h → (∀ line ∈ haloDirtyLines s w.core, replicaCores s w.core line = []) →
             let lines := (haloDirtyLines s w.core).filter (inHalo h)
             ∃ t, AnswersIn (.halopush d a) s t w f d (BitVec.ofNat 32 lines.length)
               ∧ ∀ line ∈ lines, readMem t.mem line 128 = ownBytes s w.core line 128))
     ∧ (∀ k, w.strips = [] → pushing s w.core = false → f.wait = .haloPush k →
         AnswersIn (.halopush d a) s s w f d (BitVec.ofNat 32 k))
     ∧ (haloRegion s w n = none → AnswersIn (.haloend d a) s s w f d 0xFFFFFFFF)
     ∧ (∀ h, haloRegion s w n = some h → (∀ p ∈ s.coh.pushes, inHalo h p.1 = false) → Map.sorted s.coh.haloDirty = true →
         ∃ t, AnswersIn (.haloend d a) s t w f d 0 ∧ (ctxOf t ctx).bind (fun c => Map.find c.halos n) = none
           ∧ (∀ k, inHalo h k = true → Tab.get 0 t.mem k = (Map.find s.coh.haloDirty k).getD (Tab.get 0 s.mem k)
               ∧ Map.find t.coh.haloDirty k = none)
           ∧ (∀ k, inHalo h k = false → Tab.get 0 t.mem k = Tab.get 0 s.mem k
               ∧ Map.find t.coh.haloDirty k = Map.find s.coh.haloDirty k)
           ∧ ∀ e ∈ t.coh.l1, inHalo h (e.1 % 2 ^ 64) = false))
  ∧ (∀ s w f c, Issues s w f → ctxOf s (ctxIdOf s w.gid) = some c → ∀ (d a : SReg),
       let ctx := ctxIdOf s w.gid
       let va := (rdP w a.toNat).toNat
       let zeroed (t u : State) (key : Nat) : Prop :=
         (∀ b, Tab.get 0 u.mem b = if key ≤ b ∧ b < key + 128 then 0 else Tab.get 0 t.mem b) ∧ (dirOf u key).fog = false
           ∧ (key < 2 ^ 52 → Tab.get false u.vm.wgrant (key / 65536) = true)
       (∀ l, w.priv = .s → va % 128 = 0 → Machine.translate s w.core ctx .s va .write = .ok l →
         let key := leafKey l va
         rangeLocked s w.core ctx va key 128 true = false → lineSt s key ≠ .a → lineSt s key ≠ .migr →
         ((dirOf s key).fog = true → lineSt s key = .h → ∃ t, AnswersIn (.lclaim d a) s t w f d 1 ∧ zeroed s t key)
         ∧ (∀ t k, (dirOf s key).fog = true → lineSt s key ≠ .h →
             access s w.core w.slot ctx .s va 128 .update true = (t, .ok k) → ∃ u, AnswersIn (.lclaim d a) s u w f d 1 ∧ zeroed t u k)
         ∧ (∀ t k, (dirOf s key).fog = false → access s w.core w.slot ctx .s va 128 .look false = (t, .ok k) →
             AnswersIn (.lclaim d a) s t w f d 0))
       ∧ (let n := (rdS w d.toNat).toNat
          let lines := rangeLines s c (rdP w a.toNat).toNat n
          let quiet (i : Instr) (t : State) : Prop := ScalarDoneAt i s t w f (rdS w) (rdM w f) f.flags (f.pc + 4)
          n < 2 ^ 24 → w.strips = [] →
          ((∀ l ∈ lines, inA s l = true ∨ (l < 2 ^ 64 ∧ haloOwner s l = none ∧ settledLine s l = true)) →
            ∃ t u, quiet (.cwb d a) t ∧ quiet (.cinv d a) u ∧ t.mem = s.mem ∧ u.mem = s.mem)
          ∧ (∀ l h, lines = [l] → 2 ^ 64 ≤ l → inA s l = false → settledLine s l = true → Map.find s.hostLines l = some h →
            let wrote (m : List Host.Cell) : Prop := ∀ b, Tab.get 0 m b =
              if l ≤ b ∧ b < l + 128 ∧ h.dirty.getLsbD (b - l) = true then BitVec.ofNat 8 (h.data.toNat / 2 ^ (8 * (b - l)))
              else Tab.get 0 s.mem b
            ∃ t u, quiet (.cwb d a) t ∧ quiet (.cinv d a) u ∧ wrote t.mem ∧ wrote u.mem
              ∧ Map.find t.hostLines l = some { h with dirty := 0 } ∧ Map.find u.hostLines l = none)))

/-- R195, R196, R197, R199, R51, R37: the integer words of class 0 over every type, source and guard: each active lane takes the
exact result, clamped to the type's range with sat, else wrapped; no other element, no mask bit and no scalar register changes.
A P-format word runs both its halves, reading before either writes. -/
def Obligations.LaneIntegerWords : Prop :=
  (∀ s w t f, Streams s w t f → ∀ x : LWord, FeedsReady w x →
    let n := ltypeBits x.ty
    let a (l : Nat) : Nat := srcA s w x.ty x l
    let b (l : Nat) : Nat := srcB s w x.ty x l
    let c (l : Nat) : Nat := srcC s w x.ty x l
    let A (l : Nat) : Int := ival x.ty (a l)
    let B (l : Nat) : Int := ival x.ty (b l)
    let fits (e : Int) : Int := if satOf x then max (intRange x.ty).1 (min (intRange x.ty).2 e) else e
    let off (k : Nat → Nat) (l : Nat) : Nat := k l % 2 ^ 32 % n
    let wd (k k' : Nat → Nat) (l : Nat) : Nat := min (k' l % 2 ^ 32) (n - off k l)
    let m0 (m : Nat) (l : Nat) : Bool := (Tab.get 0 w.masks m).getLsbD l
    let gives (i : Instr) (e : Nat → Int) : Prop :=
      LaneDone i s w t (feedsOf x) (setLanes w x.ty x.vd (activeOf w f x.guard.toNat) e) m0
    gives (.vadd x) (fun l => fits (A l + B l)) ∧ gives (.vsub x) (fun l => fits (A l - B l))
    ∧ gives (.vmul x) (fun l => A l * B l) ∧ gives (.vmulh x) (fun l => A l * B l / 2 ^ n)
    ∧ gives (.vmad x) (fun l => A l * B l + ival x.ty (c l))
    ∧ gives (.vand x) (fun l => (a l &&& b l : Nat)) ∧ gives (.vor x) (fun l => (a l ||| b l : Nat))
    ∧ gives (.vxor x) (fun l => (a l ^^^ b l : Nat))
    ∧ gives (.vandn x) (fun l => (BitVec.ofNat n (a l) &&& ~~~ BitVec.ofNat n (b l)).toInt)
    ∧ gives (.vnot x) (fun l => - (a l : Int) - 1)
    ∧ gives (.vshl x) (fun l => A l * 2 ^ (b l % n)) ∧ gives (.vshr x) (fun l => (a l / 2 ^ (b l % n) : Nat))
    ∧ gives (.vsar x) (fun l => sgn n (a l) / 2 ^ (b l % n))
    ∧ gives (.vrol x) (fun l => ((BitVec.ofNat n (a l)).rotateLeft (b l % n)).toInt)
    ∧ gives (.vmin x) (fun l => min (A l) (B l)) ∧ gives (.vmax x) (fun l => max (A l) (B l))
    ∧ gives (.vabs x) (fun l => fits (if A l < 0 then - A l else A l)) ∧ gives (.vneg x) (fun l => fits (- A l))
    ∧ gives (.vclz x) (fun l => (BitVec.ofNat n (a l)).clz.toNat)
    ∧ gives (.vpopc x) (fun l => ((List.range 64).filter (a l).testBit).length)
    ∧ gives (.vbrev x) (fun l => (BitVec.ofNat n (a l)).reverse.toInt)
    ∧ gives (.vbfx x) (fun l =>
        let field := BitVec.ofNat (wd b c l) (a l / 2 ^ off b l)
        if isSigned x.ty then field.toInt else field.toNat)
    ∧ gives (.vbfi x) (fun l =>
        let old := srcAt s w x.ty (.reg x.vd.toNat) l
        (old : Int) - (old / 2 ^ off b l % 2 ^ wd b c l * 2 ^ off b l : Nat) + (a l % 2 ^ wd b c l * 2 ^ off b l : Nat))
    ∧ gives (.vsel x) (fun l => (if (rdM w f x.vc.toNat).getLsbD l then a l else b l : Nat))
    ∧ gives (.vmov x) (fun l => a l) ∧ gives (.vli x) (fun l => a l)
    ∧ (x.ty = .i32 ∨ x.ty = .n32 → gives (.vidx x) (fun l => a l + l)))
  ∧ ∀ s w t f, Streams s w t f → ∀ x y : PHalf,
    let half (h : PHalf) (l : Nat) : Int :=
      let rd (k : Src) : Nat := srcAt s w h.ty k l
      (pairOp h (rd (.reg h.va.toNat)) (rd (pairB w h)) (rd (.reg h.vd.toNat)) : Nat)
    let first := setLanes w x.ty x.vd (activeOf w f x.guard.toNat) (half x)
    ∃ v, exec (.lanePair x y) s = .next (putWave s v) ∧ Past w v t ∧ v.feeds = w.feeds ∧ v.masks = w.masks
      ∧ ∀ r l, l < 32 → rdElem v r l = (
          if activeOf w f y.guard.toNat l ∧ (r = y.vd.toNat ∨ is64 y.ty = true ∧ r = y.vd.toNat + 1)
          then setLanes w y.ty y.vd (activeOf w f y.guard.toNat) (half y) r l else first r l)

/-- R198, R199, R204, R218, R219: the fixed-latency words that write masks: a comparison's or a class's bit in each active lane,
`BALLOT` whether the lane's value is not 0, `VOTE` one answer for all; the bits of inactive lanes stay. `VADDC` adds with a
carry bit of a mask and writes the carry there; `VSAD` adds the absolute differences of four bytes. -/
def Obligations.LaneComparisons : Prop :=
  ∀ s w t f, Streams s w t f → ∀ x : LWord, FeedsReady w x →
    let act := activeOf w f x.guard.toNat
    let a (l : Nat) : Nat := srcA s w x.ty x l
    let b (l : Nat) : Nat := srcB s w x.ty x l
    let m (l : Nat) : Bool := (rdM w f x.vc.toNat).getLsbD l
    let keep (k : Nat) (l : Nat) : Bool := (Tab.get 0 w.masks k).getLsbD l
    let bitsOf (i : Instr) (p : Nat → Bool) : Prop :=
      LaneDone i s w t (feedsOf x) (fun r l => rdElem w r l) (setMaskBits w x.vd.toNat act p)
    let A (l : Nat) : Int := ival x.ty (a l)
    let B (l : Nat) : Int := ival x.ty (b l)
    (x.vc = 0 → bitsOf (.vcmp x) (fun l => decide (A l = B l))) ∧ (x.vc = 1 → bitsOf (.vcmp x) (fun l => decide (A l ≠ B l)))
    ∧ (x.vc = 2 → bitsOf (.vcmp x) (fun l => decide (A l < B l))) ∧ (x.vc = 3 → bitsOf (.vcmp x) (fun l => decide (A l ≤ B l)))
    ∧ (x.vc = 4 → bitsOf (.vcmp x) (fun l => decide (B l < A l))) ∧ (x.vc = 5 → bitsOf (.vcmp x) (fun l => decide (B l ≤ A l)))
    ∧ bitsOf (.ballot x) (fun l => decide (a l ≠ 0))
    ∧ (∀ p : Bool, (x.mods = 0 → (p = true ↔ ∃ l, act l = true ∧ a l ≠ 0)) → (x.mods = 1 → (p = true ↔ ∀ l, act l = true → a l ≠ 0)) →
        (x.mods = 2 → (p = true ↔ ∀ l k, act l = true → act k = true → a l = a k)) → x.mods ≠ 3 → bitsOf (.vote x) (fun _ => p))
    ∧ (∀ p : Nat → Bool,
        (∀ l, let u := readF x.ty (a l) = .nan ∨ readF x.ty (b l) = .nan
          let c := fCmp (readF x.ty (a l)) (readF x.ty (b l))
          (p l = true ↔
            (x.vc = 0 ∧ ¬ u ∧ c = 0) ∨ (x.vc = 1 ∧ (u ∨ c ≠ 0)) ∨ (x.vc = 2 ∧ ¬ u ∧ c < 0) ∨ (x.vc = 3 ∧ ¬ u ∧ c ≤ 0)
            ∨ (x.vc = 4 ∧ ¬ u ∧ 0 < c) ∨ (x.vc = 5 ∧ ¬ u ∧ 0 ≤ c) ∨ (x.vc = 6 ∧ u) ∨ (x.vc = 7 ∧ ¬ u))) →
        x.vc.toNat < 8 → bitsOf (.fcmp x) p)
    ∧ bitsOf (.fclass x) (fun l => (srcB s w .n32 x l).testBit (fclassBit x.ty (a l)))
    ∧ (x.ty = .i32 ∨ x.ty = .n32 →
        let sum (l : Nat) : Nat := a l + b l + (if m l then 1 else 0)
        LaneDone (.vaddc x) s w t (feedsOf x) (setLanes w .n32 x.vd act (fun l => sum l))
          (setMaskBits w x.vc.toNat act (fun l => decide (2 ^ 32 ≤ sum l))))
    ∧ (x.ty = .i8 ∨ x.ty = .n8 →
        let byte (y i : Nat) : Int := if x.ty = .i8 then (BitVec.ofNat 8 (y / 256 ^ i)).toInt else (y / 256 ^ i % 256 : Nat)
        let d (l i : Nat) : Int := ((byte (srcA s w .n32 x l) i - byte (srcB s w .n32 x l) i).natAbs : Nat)
        LaneDone (.vsad x) s w t (feedsOf x)
          (setLanes w .n32 x.vd act (fun l => srcC s w .n32 x l + d l 0 + d l 1 + d l 2 + d l 3)) keep)

/-- R209 to R228: the fixed-latency floating-point and conversion words: each active lane takes the value the rule computes from its
sources, rounded once by the word's mode; nothing else changes. The modifiers of R212 flip signs of va, and of vb (of vc for
`FFMA`). -/
def Obligations.LaneFloatWords : Prop :=
  ∀ s w t f, Streams s w t f → ∀ x : LWord, FeedsReady w x →
    let rd := readF x.ty
    let a (l : Nat) : Nat := modA s w x l
    let b (l : Nat) : Nat := modB s w x l
    let plain (l : Nat) : Nat := srcA s w x.ty x l
    let round (v : FVal) : Int := (roundF x.ty (rndOf x) (satOf x) v : Nat)
    let m0 (m : Nat) (l : Nat) : Bool := (Tab.get 0 w.masks m).getLsbD l
    let act := activeOf w f x.guard.toNat
    let gives (i : Instr) (e : Nat → Int) : Prop := LaneDone i s w t (feedsOf x) (setLanes w x.ty x.vd act e) m0
    let gives32 (i : Instr) (e : Nat → Int) : Prop := LaneDone i s w t (feedsOf x) (setLanes w .n32 x.vd act e) m0
    gives (.fadd x) (fun l => round (fAdd (rndOf x) (rd (a l)) (rd (b l))))
    ∧ gives (.fsub x) (fun l => round (fAdd (rndOf x) (rd (a l)) (rd (flipIf x.ty true (b l)))))
    ∧ gives (.fmul x) (fun l => round (fMul (rd (a l)) (rd (b l))))
    ∧ gives (.ffma x) (fun l => round (fSum (rndOf x) [fMul (rd (a l)) (rd (srcB s w x.ty x l)), rd (modC s w x l)]))
    ∧ gives (.fmin x) (fun l => (fMinBits x.ty false (a l) (b l) : Nat)) ∧ gives (.fmax x) (fun l => (fMinBits x.ty true (a l) (b l) : Nat))
    ∧ gives (.frnd x) (fun l => match rd (plain l) with
        | .fin n m e => round (.fin n (toUnits { neg := n, m := m, e := e, sticky := false } 0 (rndOf x)) 0)
        | v => round v)
    ∧ gives (.fldexp x) (fun l => (fpScale x.ty (rndOf x) (satOf x) (plain l) (sgn 32 (srcB s w .n32 x l)) : Nat))
    ∧ gives (.fscale x) (fun l =>
        let e := srcB s w .n32 x l % 256
        (if e = 255 then nanBits x.ty else fpScale x.ty (rndOf x) (satOf x) (plain l) ((e : Int) - 127) : Nat))
    ∧ (x.mods.getLsbD 0 = true → gives32 (.ffrexp x) (fun l => (fpExp x.ty (plain l)).toNat))
    ∧ (x.mods.getLsbD 0 = false → gives (.ffrexp x) (fun l => (fpFrac x.ty (plain l) : Nat)))
    ∧ (∀ k i, (i, k) ∈ [(Instr.fdot2 x, 2), (Instr.fdot4 x, 4)] →
        let u := (ty2Of x).getD .f32
        let el (y j : Nat) : FVal := readF u (y / 2 ^ (ltypeBits u * j) % 2 ^ ltypeBits u)
        gives i (fun l => (roundF .f32 (rndOf x) (satOf x) (fSum (rndOf x) (readF .f32 (srcC s w .f32 x l)
          :: (List.range k).map (fun j => fMul (el (srcA s w .n32 x l) j) (el (srcB s w .n32 x l) j)))) : Nat)))
    ∧ gives (.cvt x) (fun l => (convert x.ty ((ty2Of x).getD x.ty) (rndOf x) (satOf x) (srcA s w ((ty2Of x).getD x.ty) x l) : Nat))
    ∧ (∀ u, ty2Of x = some u → x.vd ≠ x.vc →
        let r (l : Nat) : Nat × Nat := convertEf x.ty u (rndOf x) (satOf x) (srcA s w u x l)
        LaneDone (.cvtef x) s w t (feedsOf x) (fun k l =>
          if k = x.vc.toNat then setLanes w .n32 x.vc act (fun l => (r l).2) k l else setLanes w .n32 x.vd act (fun l => (r l).1) k l) m0)
    ∧ (ltypeBits x.ty = 16 → gives32 (.pack x) (fun l => plain l + 2 ^ 16 * srcB s w x.ty x l))
    ∧ (ltypeBits x.ty = 8 → x.mods.toNat < 2 → gives32 (.pack x) (fun l =>
        let old := (rdElem w x.vd.toNat l).toNat
        let half : Int := plain l + 2 ^ 8 * srcB s w x.ty x l
        if x.mods = 0 then (old / 2 ^ 16 * 2 ^ 16 : Nat) + half else (old % 2 ^ 16 : Nat) + 2 ^ 16 * half))
    ∧ gives (.unpack x) (fun l => (srcA s w .n32 x l / 2 ^ (ltypeBits x.ty * x.mods.toNat) : Nat))

/-- R203, R205, R206, R207, R214: the cross-lane words over every guard and source. The operation issued holds the results of its
active lanes, ascending (with no active lane it settles at once and writes nothing): of `SHFL` and `BCAST` the value of the lane
named, of `SHFLX`, `SHFLUP` and `SHFLDN` that of the lane at a distance (out of range: its own, or 0 with `.z`; an inactive
source gives 0 with `.z`); of `SCAN` the combination of the active lanes up to it (before it, with `.x`), of `LRED` of them all;
of `COMPACT` the values of the mask's lanes, packed; of `VREADL` one lane's value for a scalar register; of `VWRITEL` one value
for one lane. R222, R223, R213: the special functions and `FDIV`: the operation issued holds each active lane's result, of the
function and of the quotient correctly rounded (R214: with no active lane it settles at once). R164, R166: when the one
operation of a wave settles with every lane performed, its results are written to its elements and mask bits and it is gone; the
value of a `VREADL` waits for its strip's end (R208); an operation with an answer outstanding stays, and so does one behind
another in its partition's pipe. -/
def Obligations.CrossLaneWords : Prop :=
  (∀ s w t f, Streams s w t f → ∀ x : LWord, FeedsReady w x →
     let act := f.m0 &&& rdM w f x.guard.toNat
     let a (l : Nat) : Nat := srcA s w x.ty x l
     let b (l : Nat) : Nat := srcB s w x.ty x l % 2 ^ 32
     let z := x.mods.getLsbD 0
     let issues (i : Instr) (res : List RegWrite) : Prop :=
       IssuedDone i s (nextStamp s) w t x.stop (feedsOf x) (allDone (opFor s w t i act [] []) res)
     let each (g : Nat → Nat) : List RegWrite := (lanesOf act).flatMap (fun l => elemWrites x.ty x.vd.toNat l (g l))
     let lane (j : Nat) : Nat := if z && !act.getLsbD j then 0 else a j
     let own (l : Nat) : Nat := if z then 0 else a l
     let step := combStep x.vc.toNat x.ty (satOf x)
     let unit := combId x.vc.toNat x.ty
     issues (.shfl x) (each (fun l => lane (b l % 32))) ∧ issues (.bcast x) (each (fun l => lane (b l % 32)))
     ∧ issues (.shflx x) (each (fun l => lane (l ^^^ (b l % 32))))
     ∧ issues (.shflup x) (each (fun l => if b l ≤ l then lane (l - b l) else own l))
     ∧ issues (.shfldn x) (each (fun l => if l + b l ≤ 31 then lane (l + b l) else own l))
     ∧ issues (.scan x) (each (fun l =>
         ((lanesOf act).filter (fun j => if z then decide (j < l) else decide (j ≤ l))).foldl (fun n j => step n (a j)) unit))
     ∧ issues (.lred x) (each (fun _ => (lanesOf act).foldl (fun n j => step n (a j)) unit))
     ∧ issues (.compact x) (each (fun l =>
         ((lanesOf (act &&& rdM w f x.vc.toNat)).map a).getD ((lanesOf act).filter (fun j => decide (j < l))).length 0))
     ∧ issues (.vreadl x) (
         let v := a (b 0 % 32)
         if act = 0 ∨ x.vd = 0 then []
         else if is64 x.ty then [.s x.vd.toNat (BitVec.ofNat 32 v), .s (x.vd.toNat + 1) (BitVec.ofNat 32 (v / 2 ^ 32))]
         else [.s x.vd.toNat (BitVec.ofNat 32 v)])
     ∧ issues (.vwritel x) (if act.getLsbD (b 0 % 32) then elemWrites x.ty x.vd.toNat (b 0 % 32) (a (b 0 % 32)) else []))
  ∧ ((∀ s w t f, Streams s w t f → ∀ x : LWord, FeedsReady w x →
       let act := f.m0 &&& rdM w f x.guard.toNat
       let a (l : Nat) : FVal := readF x.ty (srcA s w x.ty x l)
       let issues (i : Instr) (g : Nat → Nat) : Prop :=
         IssuedDone i s (nextStamp s) w t x.stop (feedsOf x)
           (allDone (opFor s w t i act [] []) ((lanesOf act).flatMap (fun l => elemWrites x.ty x.vd.toNat l (g l))))
       let special (i : Instr) (k : SpecFn) : Prop := issues i (fun l => specEval k x.ty (rndOf x) (satOf x) (a l))
       special (.frcp x) .rcp ∧ special (.frsq x) .rsq ∧ special (.fsqrt x) .sqrt ∧ special (.fexp2 x) .exp2
       ∧ special (.flog2 x) .log2 ∧ special (.fsin x) .sin ∧ special (.fcos x) .cos ∧ special (.ftanh x) .tanh
       ∧ issues (.fdiv x) (fun l => fDiv x.ty (rndOf x) (satOf x) (a l) (readF x.ty (srcB s w x.ty x l))))
     ∧ ∀ s core slot w o, waveAt s core slot = some w → w.ops = [o] → o.settled = false →
       let settle := exec (.laneOpSettle core slot 0) s
       (undone o = 0 → o.pendingAnswers = 0 → o.faults = [] → w.lstop = false → pipeBehind s core slot o = false →
         ((∀ y ∈ o.res, isScalarWrite y = false) → ∃ v, settle = .next (putWave s v)
           ∧ v = { applyWrites w o.res with ops := [], spin := v.spin, demoted := v.demoted, age := v.age })
         ∧ ((∀ y ∈ o.res, isScalarWrite y = true) → settle = .next (putWave s { w with ops := [], late := w.late ++ o.res })))
       ∧ (undone o = 0 → o.pendingAnswers ≠ 0 ∨ pipeBehind s core slot o = true → settle = .next s))

/-- R250, R251, R256, R258 to R263, R348, R349, R375, R376, R389, R390, R400, R379: the lane words of the memory units, over every
guard. Each issues an operation that records each active lane's address and operands; where every active lane performs,
ascending, the operation is done and holds their results, over the state their accesses leave; a release first waits for its
core's halo push (R287). -/
def Obligations.LaneOperationsIssue : Prop :=
  ∀ s w t f, Streams s w t f → ∀ x : LXWord,
    let act := f.m0 &&& rdM w f x.guard.toNat
    let off (l : Nat) : Nat := if x.nov then 0 else (rdElem w x.va.toNat l).toNat * 2 ^ x.scale.toNat
    let virt (l : Nat) : DWord := rdP w x.sbase.toNat + BitVec.ofNat 64 (off l) + x.imm24.signExtend 64
    let scratch (l : Nat) : DWord := BitVec.ofInt 64 ((rdS w x.sbase.toNat).toNat + off l + x.imm24.toInt)
    let fixedAddr (_ : Nat) : DWord := rdP w x.sbase.toNat
    let vb (n j : Nat) (l : Nat) (o : LaneOp) : Prop := ∀ k, k < n → opData o (j + k) l = rdElem w (x.vb.toNat + k) l
    let va (n : Nat) (l : Nat) (o : LaneOp) : Prop := ∀ k, k < n → opData o k l = rdElem w (x.va.toNat + k) l
    let goes (i : Instr) (p : Performer) (addr : Nat → DWord) (data : Nat → LaneOp → Prop) : Prop :=
      ∃ o addrs regs, o = opFor s w t i act addrs regs ∧ (∀ l ∈ lanesOf act, opAddr o l = addr l ∧ data l o)
        ∧ Performs p i s s w t x.stop o (allDone o)
    let none_ (_ : Nat) (_ : LaneOp) : Prop := True
    goes (.ld x) memLane virt none_ ∧ goes (.st x) memLane virt (vb (regsOf x.ty) 0)
    ∧ goes (.atom x) memLane virt (vb (atomRegs x) 0) ∧ goes (.red x) memLane virt (vb (regsOf x.ty) 0)
    ∧ goes (.pref x) memLane virt none_
    ∧ goes (.lds x) memLane scratch none_ ∧ goes (.sts x) memLane scratch (vb (regsOf x.ty) 0)
    ∧ goes (.atoms x) memLane scratch (vb (atomRegs x) 0)
    ∧ goes (.accpeek x) accLane virt none_
    ∧ goes (.trace x) rayLane fixedAddr (va 8) ∧ goes (.traceq x) rayLane fixedAddr (va 8) ∧ goes (.hitget x) rayLane fixedAddr (va 8)
    ∧ goes (.sample x) texLane fixedAddr (va 3) ∧ goes (.samplel x) texLane fixedAddr (va 4)
    ∧ goes (.sampleg x) texLane fixedAddr (fun l o => va 3 l o ∧ vb 4 3 l o)
    ∧ goes (.texld x) texLane fixedAddr (va 3) ∧ goes (.texst x) texLane fixedAddr (fun l o => va 3 l o ∧ vb 4 3 l o)
    ∧ goes (.lyins x) lyLane fixedAddr (fun l o => va 2 l o ∧ vb 4 2 l o) ∧ goes (.lyread x) lyLane fixedAddr (va 2)
    ∧ goes (.lyresolve x) lyLane fixedAddr (fun l o => va 2 l o ∧ vb 4 2 l o) ∧ goes (.lyclear x) lyLane fixedAddr (va 2)
    ∧ (drawOf s w ≠ none → goes (.primemit x) primLane (fun _ => 0) (fun l o => va 9 l o ∧ vb 6 9 l o))
    ∧ (x.aux.toNat < trayCountOf s w → goes (.trayput x) trayLane (fun _ => 0) (fun l o => va 1 l o ∧ vb x.imm24.toNat 1 l o))

/-- R252, R258 to R262, R100, R102: how a lane performs, at its recorded address and operands: a load's result, a store's bytes, the
value before a read-modify-write and the one after it; a `.claim` store is one access to its line, made with the first lane; a
commutative reduction at `.fab` in an enabled window leaves for the switches; a misaligned lane and a faulting access stop with
their cause; scratch offsets outside the group's bytes are `PROTECT`, locked ones `RANGE_LOCKED`. -/
def Obligations.LaneAccessValues : Prop :=
  ∀ s w, waveAt s s.cur.core s.cur.slot = some w → ∀ (o : LaneOp) (l : Nat) (x : LXWord) t key,
    let a := opAddr o l
    let n := ltypeBits x.ty / 8
    let v := opVal o x.ty 0 l
    let acc (k : AccKind) (r : AccRes) : Prop := access s w.core w.slot (ctxIdOf s w.gid) w.priv a.toNat n k false = (t, r)
    let line (r : AccRes) : Prop := access s w.core w.slot (ctxIdOf s w.gid) w.priv (opAddr o 0).toNat 128 .write true = (t, r)
    let merges := x.order = .comm ∧ x.scope = .fab ∧ inWindow t key x.ty = true
    let old := ofBytes (loadBytes t w.core key n)
    let scr (i : Instr) : Prop := o.word = i ∧ a.toNat % n = 0 ∧ a.toNat < 2 ^ 63
    (o.word = .ld x → a.toNat % n = 0 → acc .read (.ok key) → memLane o l s = (t, .ok (elemWrites x.ty x.vd.toNat l old)))
    ∧ (o.word = .st x → x.claim = false → a.toNat % n = 0 → acc .write (.ok key) → memLane o l s = (storeNum t w.core key n v, .ok []))
    ∧ (o.word = .st x → x.claim = true → claimOk o = true → line (.ok key) →
        memLane o 0 s = (storeBytes t w.core key (claimBytes o), .ok [])
        ∧ ∀ k u, k ≠ 0 → o.done.getLsbD 0 = true → u.cur = s.cur → waveAt u s.cur.core s.cur.slot ≠ none → memLane o k u = (u, .ok []))
    ∧ (o.word = .st x → x.claim = true → claimOk o = false → memLane o l s = (s, .fault .misalign a))
    ∧ (o.word = .atom x → a.toNat % n = 0 → acc .update (.ok key) →
        memLane o l s = (storeNum t w.core key n (atomNew x.ty x.aux.toNat old v (opVal o x.ty (regsOf x.ty) l)),
          .ok (elemWrites x.ty x.vd.toNat l old)))
    ∧ (o.word = .red x → a.toNat % n = 0 → acc .update (.ok key) →
        (¬ merges → memLane o l s = (storeNum t w.core key n (atomNew x.ty x.aux.toNat old v 0), .ok []))
        ∧ (merges → memLane o l s = (fabSend t { key := key, ty := x.ty, val := v, waves := [64 * w.core + w.slot] }, .ok [])))
    ∧ (o.word = .ld x ∨ (o.word = .st x ∧ x.claim = false) ∨ o.word = .atom x ∨ o.word = .red x → a.toNat % n ≠ 0 →
        memLane o l s = (s, .fault .misalign a))
    ∧ (∀ c, o.word = .ld x → a.toNat % n = 0 → acc .read (.fault c) → memLane o l s = (t, .fault c a))
    ∧ (∀ c, o.word = .st x → x.claim = false → a.toNat % n = 0 → acc .write (.fault c) → memLane o l s = (t, .fault c a))
    ∧ (∀ c, o.word = .atom x ∨ o.word = .red x → a.toNat % n = 0 → acc .update (.fault c) → memLane o l s = (t, .fault c a))
    ∧ (∀ g, groupOf s w.gid = some g →
        let inside (wr : Bool) : Prop := a.toNat + n ≤ g.scratchBytes ∧ scratchLocked s w.core w.gid a.toNat n wr = false
          ∧ ∀ j, j < n → a.toNat + j ∉ g.bad
        let had := readNum g.scratch a.toNat n
        let puts (y : Nat) : State := { s with groups := Map.insert s.groups w.gid { g with scratch := writeNum g.scratch a.toNat n y } }
        (scr (.lds x) → inside false → memLane o l s = (s, .ok (elemWrites x.ty x.vd.toNat l had)))
        ∧ (scr (.sts x) → inside true → memLane o l s = (puts v, .ok []))
        ∧ (scr (.atoms x) → inside true →
            memLane o l s = (puts (atomNew x.ty x.aux.toNat had v (opVal o x.ty (regsOf x.ty) l)), .ok (elemWrites x.ty x.vd.toNat l had)))
        ∧ (scr (.lds x) ∨ scr (.sts x) ∨ scr (.atoms x) → g.scratchBytes < a.toNat + n → memLane o l s = (s, .fault .protect a))
        ∧ (∀ wr, scr (if wr = true then .sts x else .lds x) → a.toNat + n ≤ g.scratchBytes → scratchLocked s w.core w.gid a.toNat n wr = true →
            memLane o l s = (s, .fault .rangeLocked a))
        ∧ (o.word = .lds x ∨ o.word = .sts x ∨ o.word = .atoms x → a.toNat % n ≠ 0 → memLane o l s = (s, .fault .misalign a)))

/-- R236, R336, R352, R348: `TRAYGET` in a tray wave gives each active lane the words of its record, or zeros. `MMA` of a team's
member, over a format block that its access reaches and that names its types, joins the team's next operation, its own waiting
for one answer. `VMM` over such a block issues an operation like the memory words'. `ACCRED` whose lanes' addresses are reached
sends one partial for each active lane and waits for as many answers. -/
def Obligations.LaneUnitsIssue : Prop :=
  ∀ s w t f, Streams s w t f → ∀ x : LXWord,
    let act := f.m0 &&& rdM w f x.guard.toNat
    (∀ tr, w.tray = some tr →
      IssuedDone (.trayget x) s (nextStamp s) w t x.stop []
        (allDone (opFor s w t (.trayget x) act [] []) ((lanesOf act).flatMap (fun l =>
            [.v x.vd.toNat l (match tr.recs[l]? with | some r => r.key | none => 0),
             .v (x.vd.toNat + 1) l (match tr.recs[l]? with | some r => r.p0 | none => 0),
             .v (x.vd.toNat + 2) l (match tr.recs[l]? with | some r => r.p1 | none => 0),
             .v (x.vd.toNat + 3) l (match tr.recs[l]? with | some r => r.p2 | none => 0)]))))
    ∧ (∀ u key fm, let a := rdP w (x.sbase.toNat + 2)
        teamSizeOf w ≠ 0 → a.toNat % 32 = 0 →
        access s w.core w.slot (ctxIdOf s w.gid) w.priv a.toNat 32 .pull false = (u, .ok key) →
        fmtOf (ofBytes (engBytes u w.core key 32)) = some fm → fm.aType = x.ty → ltypeOf x.aux.toNat = some fm.bType →
        (teamOf u w.core w.gid (teamIdxOf w)).any (·.dissolved) = false →
        ∃ v tm m, Issued (.mma x) s v w t x.stop [] { newOp w t (.mma x) act [] [] with pendingAnswers := 1 }
          ∧ teamOf v w.core w.gid (teamIdxOf w) = some tm ∧ m ∈ tm.members ∧ m.wave = w.ident.waveid.toNat
          ∧ m.words.getLast? = some (.mma w.nextOp x.ty fm.bType (rdP w x.sbase.toNat) a
              (BitVec.ofNat 256 (ofBytes (engBytes u w.core key 32))) (x.imm24.getLsbD 0) act x.va.toNat x.vb.toNat)
          ∧ v.mem = u.mem)
    ∧ (∀ u key fm, let a := rdP w x.sbase.toNat
        a.toNat % 32 = 0 → access s w.core w.slot (ctxIdOf s w.gid) w.priv a.toNat 32 .pull false = (u, .ok key) →
        fmtOf (ofBytes (engBytes u w.core key 32)) = some fm → fm.aType = x.ty → ltypeOf x.aux.toNat = some fm.bType →
        fm.aBlock = 0 → fm.bBlock = 0 → u.link.merging = [] →
        ∃ o addrs regs, o = opFor u w t (.vmm x) act addrs regs
          ∧ (∀ l ∈ lanesOf act, opAddr o l = (if x.nov = true then rdP w (x.sbase.toNat + 2)
              else rdElem w (x.vb.toNat + 1) l ++ rdElem w x.vb.toNat l))
          ∧ capturedFmt o = ofBytes (engBytes u w.core key 32)
          ∧ Performs vmmPerform (.vmm x) s u w t x.stop o (allDone o))
    ∧ (∃ o addrs regs, o = opFor s w t (.accred x) act addrs regs
        ∧ ((∀ p ∈ s.partials, ¬ (p.core = w.core ∧ p.slot = w.slot ∧ p.opId = w.nextOp)) →
          Performs accLane (.accred x) s s w t x.stop o (fun ws => { allDone o ws with pendingAnswers := (lanesOf act).length }))
        ∧ ∀ u ws, LanesGo accLane o (lanesOf act) (putWave (nextStamp s) (started s w o)) u ws →
            u.partials.length = s.partials.length + (lanesOf act).length ∧ ws = [])

/-- R356, R175, R172, R249, R169, R168, R248, R114: the device's events in a wave. A trap waiting to enter does so when no strip is
queued; a running feed with room reads the next vector ahead; a runnable fragment returns from the stack to a free slot, or to
one whose fragment waits at a `JOIN`; a back-off ends; 64 spins demote the wave; a starved wave is marked; a sleeping `WAITA`
reads again, on the stack and behind a trap too; a parked `QPOST` whose queue has room posts the record that it holds and
answers its seq. Nothing else of the wave, and nothing outside it but what an access marks, changes. -/
def Obligations.WaveEvents : Prop :=
  ∀ s core slot w, waveAt s core slot = some w →
    let becomes (i : Instr) (t : State) (v : Wave) : Prop :=
      ∃ u, exec i s = .next u ∧ waveAt u core slot = some v ∧ u = { t with waves := u.waves }
        ∧ ∀ k, k ≠ 64 * core + slot → Map.find u.waves k = Map.find t.waves k
    (∀ r, w.trap = .entering r → w.strips = [] → exec (.trapEntry core slot) s = .next (enterTrap s core slot r))
    ∧ (∀ n t x, let fd := feedOf w n
        n < 4 → fd.run = true → fd.buf.length < 8 → fd.buf.length < fd.remaining.toNat →
        feedLanes s w ((fd.nextAddr + BitVec.ofInt 64 ((fd.buf.length : Int) * fd.stride.toInt)).toNat) (2 ^ fd.size.toNat) 32 0 0
          = (t, .ok x) →
        becomes (.feedVectorArrive core slot n) t
          (putFeed w n { fd with buf := fd.buf ++ [{ data := BitVec.ofNat 2048 x, fault := none }] }))
    ∧ (∀ g, w.stack.find? runnable = some g →
        (w.fragA = none → becomes (.fragmentReturn core slot) s { w with fragA := some g, stack := w.stack.erase g, bOlder := true })
        ∧ (w.fragA ≠ none → w.fragB = none →
            becomes (.fragmentReturn core slot) s { w with fragB := some g, stack := w.stack.erase g, bOlder := false })
        ∧ (∀ old x, w.fragA = some old → w.fragB = some x → old.wait = .join →
            becomes (.fragmentReturn core slot) s { w with fragA := some g, stack := old :: w.stack.erase g, bOlder := true }))
    ∧ (∀ b f m, fragOf w b = some f → f.wait = .backoff m →
        becomes (.backoffExpiry core slot b) s (putFrag w b (some { f with wait := .none })))
    ∧ (64 ≤ w.spin → becomes (.spinDemotion core slot) s { w with demoted := true })
    ∧ becomes (.issueAgePromotion core slot) s { w with starved := true }
    ∧ (∀ b f l c, fragOf w b = some f → f.wait = .waita l c →
        let v : Wave := { putFrag w b (some { f with wait := .none }) with stack := w.stack.map rereads, shadow :=
          { w.shadow with wait := (rereads (sleepFrag w.shadow.wait)).wait } }
        becomes (.waitaReread core slot b) s v ∧ becomes (.waitaPeriodicReread core slot b) s v)
    ∧ (∀ b f r u d a c s2 s3 hk k3, let cur : Issuer := { core := core, slot := slot, b := b }
        fragOf w b = some f → f.wait = .fqpost r → ctxOf s (ctxIdOf s w.gid) = some c →
        fetchScalar { s with cur := cur } w f = (u, .ok (.qpost d a)) → u.cur = cur →
        access u core slot (ctxIdOf u w.gid) w.priv (BitVec.ofNat 64 c.desc.fqBase).toNat 64 .update false = (s2, .ok hk) →
        let tail := ofBytes (loadBytes s2 core hk 4)
        (tail + 2 ^ 32 - ofBytes (loadBytes s2 core (hk + 4) 4)) % 2 ^ 32 < 2 ^ c.desc.fqOrder →
        access s2 core slot (ctxIdOf s2 w.gid) w.priv (BitVec.ofNat 64 (ringSlot c.desc.fqBase c.desc.fqOrder tail)).toNat 64 .update false
          = (s3, .ok k3) →
        ∃ v, exec (.faultQueuePostResume core slot b) s = .next (putWave (raiseMsix
            (storeBytes (storeBytes s3 core k3 (toBytes 64 (putBits r.toNat 159 128 tail))) core hk (toBytes 4 (tail + 1)))
            (ctxIdOf u w.gid) c.desc.fqMsix) v)
          ∧ Moved b w v f f.flags (f.pc + 4) ∧ ∀ n, rdS v n = setReg w d.toNat (BitVec.ofNat 32 tail) n)

/-- R129, R128, R190, R257, R244, R246: the fabric timeout of a `WAITA` at scope `.fab` or `.sys` sets C and goes on in a handler's
fragment, and raises `WATCHDOG` with information 1 in another one at U; a Safelight counter at its threshold starts again, logs
its event and raises `WATCHDOG` in the context's waves; an answered scalar access runs its word, which nothing holds back; a
unit replays the lanes an operation has left; a remote arrival counts at its live target, one for a saved group in its barrier
file in the darkslide, and one whose target is gone is dropped. -/
def Obligations.AnswersAndArrivals : Prop :=
  (∀ s core slot w b f l sc c, waveAt s core slot = some w → fragOf w b = some f → f.wait = .waita l sc →
    ctxOf s (ctxIdOf s w.gid) = some c → c.desc.fabTimeout ≠ 0 → (sc = .fab ∨ sc = .sys) → w.stack.any fabSleeps = false →
    (f.handler = true → ∃ v, exec (.waitaFabTimeout core slot b) s = .next (putWave s v)
      ∧ fragOf v b = some { f with pc := f.pc + 4, flags := { z := false, n := false, c := true, v := false }, wait := .none }
      ∧ v = { w with fragA := v.fragA, fragB := v.fragB, spin := v.spin, demoted := v.demoted, age := v.age })
    ∧ (f.handler = false → w.priv = .u → w.trap = .none → w.strips = [] →
        ∃ t v g, exec (.waitaFabTimeout core slot b) s = .next t ∧ waveAt t core slot = some v ∧ fragOf v b = some g
          ∧ v.priv = .s ∧ v.treg.cause = BitVec.ofNat 32 (causeCode .watchdog + 64) ∧ v.treg.info = 1 ∧ v.treg.pc = f.pc
          ∧ g.handler = true ∧ g.pc = BitVec.ofNat 64 c.desc.trapVector))
  ∧ (∀ s ctx c, ctxOf s ctx = some c →
      let t := { s with ctxs := Map.insert s.ctxs ctx { c with dog := 0 } }
      (safelightLimit c ≤ c.dog →
        exec (.safelightExpiry ctx) s = .next ((ctxWaves t ctx).foldl raiseWatchdog (logError t ctx 6 15 127 0 0 0)))
      ∧ (c.dog < safelightLimit c → exec (.safelightExpiry ctx) s = .next s))
  ∧ (∀ s core slot b w f u j, let cur : Issuer := { core := core, slot := slot, b := b }
      let w' : Wave := { w with starved := false }
      Issues { s with cur := cur } w f → f.wait = .access → fragRuns w f = true → dueFault { s with cur := cur } w b = none →
      fetchScalar { s with cur := cur } w f = (u, .ok j) → (namedUse j).within (scalarBound w) w.valloc = true →
      heldBack u w (useOf j) = false → fenceHolds w j = false → (pushFirst j = true → fenceWaits u w j = false) →
      (∀ v d a i x o z, j ∈ [Instr.sld d a i, .sst d a i, .sldk d a i, .sldOrdered d a x o z, .sstOrdered d a x o z] →
        pushStep u core (pushFirst j) = (v, false) → exec (.scalarAccessAnswered core slot b) s = exec j (putWave v w'))
      ∧ ∀ t key d a i, let va := rdP w a.toNat + i.signExtend 64
        j = .sld d a i → u.cur = cur → va.toNat % 4 = 0 →
        access (putWave u w') core slot (ctxIdOf (putWave u w') w.gid) w.priv va.toNat 4 .read false = (t, .ok key) →
        ∃ v, exec (.scalarAccessAnswered core slot b) s = .next (putWave t v) ∧ Moved b w' v f f.flags (f.pc + 4)
          ∧ ∀ n, rdS v n = setReg w d.toNat (BitVec.ofNat 32 (ofBytes (loadBytes t core key 4))) n)
  ∧ (∀ s core slot w o q u ws, let s' := { s with cur := { core := core, slot := slot, b := o.b } }
      waveAt s core slot = some w → w.ops = [o] → o.settled = false → undone o ≠ 0 → o.faults = [] → (∀ x, o.word ≠ .accred x) →
      s.link.merging = [] → pushStep s' core (lanePushFirst o.word) = (q, false) →
      LanesGo performLane { o with misses := [] } (lanesOf (undone o)) q u ws → waveAt u core slot = some w →
      ∃ t, exec (.unitReplay core slot) s = .next t
        ∧ waveAt t core slot = some { w with ops := [{ o with done := o.done ||| undone o, res := o.res ++ ws, misses := [] }] }
        ∧ t = { u with waves := t.waves })
  ∧ ∀ s k' h n, s.arrivals[k']? = some (h, n) →
      let t := { s with arrivals := s.arrivals.eraseIdx k' }
      let target := s.groups.find? (fun e => groupHandle e.2 == h && groupLive e.2 && e.2.st != .pending)
      (target = none → exec (.barrierRemoteArrival k') s = .next t)
      ∧ ∀ gid g, target = some (gid, g) →
        (g.st ≠ .swapped → exec (.barrierRemoteArrival k') s = .next (arrive t gid n))
        ∧ (∀ q x y k, g.st = .swapped → s.queues.find? (fun e => e.2.slides.groups.any (fun x => x.gid == gid)) = some (q, x) →
            x.slides.groups.find? (fun y => y.gid == gid) = some y → slideKey t q (y.off + 256 + 32 * n + 8) = some k →
            exec (.barrierRemoteArrival k') s = .next (putNum t k 4 ((readNum t.mem k 4 + 1) % 2 ^ 32)))

/-- R2, R117, R118, R419: the host's writes. Enabling a `DISABLED` queue of an operational device makes it `IDLE`, or ends it with
err 2 (no context to serve) or 5 (its darkslide misplaced). Disabling kills what the queue holds. A tail that differs from head
makes an `IDLE` queue `READY`. The ring's place, the class, the context and the darkslide take a write while the queue is
`DISABLED`, and only then; admin takes one of the physical function's. In `RECOVERY` (R422) there are no queues to write. R118,
R122, R123, R125, R126, R127: a waiting queue that may be activated, with no other before it, takes an active slot, its context
taking a resident slot first where it needs one, and goes on at its darkslide's next_packet; a darkslide that fails its check
quarantines the context. A queue that may be pre-empted, or whose slice is over (never in class 0), gives its slot up once its
groups can be saved and no core shades a tile of its draws: its darkslide is valid, with next_packet at its head. A waiting
queue counts as one class higher after 2^28 cycles. -/
def Obligations.QueueEvents : Prop :=
  (∀ s q, q < 1024 → let x := queueOf s q
     (x.st = .disabled → s.boot.st = .operational →
       ((ctxOf s x.ctxId = none ∨ ∃ c, ctxOf s x.ctxId = some c ∧ c.st = .quarantined) →
         QueueBecomes (.queueEnableSet q) s q { x with enable := true, st := .error, err := 2 })
       ∧ ∀ c, ctxOf s x.ctxId = some c → c.st ≠ .quarantined →
         (slideOk s q x c.desc.saveBlocks = true → QueueBecomes (.queueEnableSet q) s q { x with enable := true, st := .idle, err := 0 })
         ∧ (slideOk s q x c.desc.saveBlocks = false →
             QueueBecomes (.queueEnableSet q) s q { x with enable := true, st := .error, err := 5 }))
     ∧ (x.st ≠ .disabled → ∃ t, exec (.queueEnableClear q) s = .next t ∧ (queueOf t q).st = .disabled
         ∧ (queueOf t q).enable = false ∧ (queueOf t q).started = [] ∧ (queueOf t q).slides = Darkslide.none
         ∧ (x.st = .error → (queueOf t q).head = 0 ∧ (queueOf t q).tail = 0)
         ∧ (x.st ≠ .error → workPending s q = true → (queueOf t q).err = 4)
         ∧ t = { killQueue s q with queues := t.queues })
     ∧ (s.boot.st = .recovery → (∀ n, exec (.queueDoorbell q n) s = .next s) ∧ ∀ r v, exec (.registerWrite r v) s = .next s)
     ∧ (s.boot.st ≠ .recovery → (∀ n, ((x.st ≠ .idle ∨ n = x.head) → QueueBecomes (.queueDoorbell q n) s q { x with tail := n })
         ∧ (x.st = .idle → n ≠ x.head → ∃ t, exec (.queueDoorbell q n) s = .next t
             ∧ queueOf t q = { x with tail := n, st := .ready, stamp := s.stamp, promoted := false, readyAt := s.clock }
             ∧ (∀ p, p ≠ q → queueOf t p = queueOf s p) ∧ t = { s with queues := t.queues, stamp := s.stamp + 1 }))
     ∧ ∀ v : BitVec 128,
       (x.st = .disabled →
         QueueBecomes (.registerWrite (.qbase q) v) s q { x with qbase := v.toNat % 2 ^ 57 }
         ∧ QueueBecomes (.registerWrite (.qclass q) v) s q { x with cls := v.toNat % 4 }
         ∧ QueueBecomes (.registerWrite (.qctx q) v) s q { x with ctxId := v.toNat % 4096 }
         ∧ QueueBecomes (.registerWrite (.qsize q) v) s q { x with sizeOrder := v.toNat % 16 }
         ∧ QueueBecomes (.registerWrite (.qsaveOff q) v) s q { x with saveOff := BitVec.ofNat 32 v.toNat }
         ∧ QueueBecomes (.registerWrite (.qsaveLen q) v) s q { x with saveLen := BitVec.ofNat 32 v.toNat })
       ∧ (x.st ≠ .disabled → ∀ r, r ∈ [RegField.qbase q, .qclass q, .qctx q, .qsize q, .qsaveOff q, .qsaveLen q] →
           exec (.registerWrite r v) s = .next s)
       ∧ QueueBecomes (.registerWrite (.qadmin q true) v) s q { x with admin := v.getLsbD 0 }
       ∧ exec (.registerWrite (.qadmin q false) v) s = .next s ∧ exec (.registerWrite .readOnly v) s = .next s))
  ∧ (∀ s q, let x := queueOf s q
       (canActivate s x = true → (∀ e ∈ s.queues, e.1 ≠ q → (canActivate s e.2 && queueBefore e.2 x) = false) →
         ∀ c, ctxOf s x.ctxId = some c →
         let y := { x with st := .active, promoted := false, since := s.clock,
                           slides := if x.slides.groups = [] then Darkslide.none else x.slides,
                           head := if x.slides.valid = true then (headerRead s q x.slides).getD x.head else x.head }
         ((x.slides.valid = false ∨ slideBroken s q = false) → y.head ≠ y.tail →
           ((c.st = .bound ∨ c.st = .running) → QueueBecomes (.queueActivate q) s q y)
           ∧ ((c.st = .created ∨ c.st = .switched) → ∀ n, freeResident s = some n →
               ∃ t, exec (.queueActivate q) s = .next t ∧ queueOf t q = y ∧ ctxOf t x.ctxId = some { c with st := .bound, slot := some n }
                 ∧ t = { s with queues := t.queues, ctxs := t.ctxs }))
         ∧ (x.slides.valid = true → slideBroken s q = true → (c.st = .bound ∨ c.st = .running) →
             exec (.queueActivate q) s
               = .next (quarantine (logError s x.ctxId 4 15 127 0 (c.desc.saveBase + 65536 * x.saveOff.toNat) 0) x.ctxId 4)))
       ∧ ((x.st = .active ∨ x.st = .waiting) → canSave s q = true → drawBusy s q = false →
           let saved (i : Instr) : Prop := ∃ t, exec i s = .next t ∧ (queueOf t q).st = .preempted ∧ (queueOf t q).slides.valid = true
             ∧ (queueOf t q).slides.nextPacket = x.head ∧ (queueOf t q).promoted = false ∧ (queueOf t q).readyAt = s.clock
           (mayPreempt s q = true → saved (.queuePreempt q))
           ∧ (x.cls ≠ 0 → sliceOver s x.cls x.since = true →
               (∃ e ∈ s.queues, e.1 ≠ q ∧ waitsTurn e.2 = true ∧ classOf e.2 = classOf x ∧ sliceOver s x.cls e.2.readyAt = true) →
               saved (.sliceExpiry q)))
       ∧ (x.cls = 0 → exec (.sliceExpiry q) s = .next s)
       ∧ (x.st = .ready → 2 ^ 28 ≤ (s.clock - x.readyAt).toNat → QueueBecomes (.readyAgePromotion q) s q { x with promoted := true }))

/-- R118, R119, R121, R377: the packets at the head of a queue that dispatches. LAUNCH and DRAW start a grid where a slot is free:
the packet is in flight, the grid's groups are to place, and the constant caches hold nothing of its context (R83). SIGNAL, and
BARRIER, once every earlier packet has completed, pass. WAIT passes where the comparison holds, and else the queue waits. A
packet that is malformed, or whose pages fail, ends the queue. R118, R119: the failures that end a queue, at the packet's index:
a malformed packet with err 1, a page that the packet processor cannot reach with err 6. For a page of the pool that is in no
frame the packet waits, and a fill is asked for. -/
def Obligations.Packets : Prop :=
  (∀ s q n, AtHead s q n → let x := queueOf s q
     let starts (i : Instr) (d : KDesc) (draw : Option Draw) : Prop :=
       ∃ t g, exec i s = .next t ∧ Map.find t.grids s.nextGrid = some g ∧ g.src = .packet q x.head.toNat ∧ g.ctx = x.ctxId
         ∧ g.queue = q ∧ g.image = n / 2 ^ 64 % 2 ^ 57 ∧ g.karg = BitVec.ofNat 64 (n / 2 ^ 128 % 2 ^ 57)
         ∧ g.nx = n / 2 ^ 192 % 2 ^ 32 ∧ g.ny = n / 2 ^ 224 % 2 ^ 16 ∧ g.nz = n / 2 ^ 240 % 2 ^ 16 ∧ g.desc = d ∧ g.next = 0
         ∧ g.live = g.nx * g.ny * g.nz ∧ g.doneAddr = n / 2 ^ 256 % 2 ^ 57 ∧ g.doneVal = BitVec.ofNat 64 (n / 2 ^ 320 % 2 ^ 64)
         ∧ g.draw = draw
         ∧ queueOf t q = { x with head := x.head + 1, gridSlots := x.gridSlots + 1,
                                  started := x.started ++ [{ idx := x.head, grid := some s.nextGrid, unbind := none, irq := bit n 9 }] }
         ∧ t = { dropKonst s x.ctxId with queues := t.queues, grids := t.grids, nextGrid := s.nextGrid + 1, stamp := s.stamp + 1 }
     let gridOk (draw : Bool) : Prop := bits n 71 64 = 0 ∧ bits n 258 256 = 0 ∧ bits n 223 192 ≠ 0 ∧ bits n 239 224 ≠ 0
       ∧ bits n 255 240 ≠ 0 ∧ (if draw then bits n 239 224 = 1 ∧ bits n 255 240 = 1 ∧ bits n 440 384 % 64 = 0 else bits n 440 384 = 0)
       ∧ (bit n 8 = false ∨ x.started = []) ∧ x.gridSlots < 8
     let late (i : Instr) : Prop := i = .packetDeferredStart q ∧ x.started = []
     (∀ d i, bits n 7 0 = 1 → gridOk false → readKernel s x.ctxId (bits n 120 64) = .ok d →
       couldFit s (packetGrid s q n d none) = true → (i = .launch q ∨ late i ∧ bit n 8 = true) → starts i d none)
     ∧ (∀ d b i, bits n 7 0 = 2 → gridOk true → readKernel s x.ctxId (bits n 120 64) = .ok d →
         pktRead s x.ctxId (bits n 440 384) 64 = .ok b → pipeOk b d.trayCount = true →
         couldFit s (packetGrid s q n d (some (pipeOf b))) = true → (i = .draw q ∨ late i ∧ bit n 8 = true) → starts i d (some (pipeOf b)))
     ∧ (∀ k i, bits n 7 0 = 3 → signalOk n 1 = true → x.started = [] → devReach s x.ctxId .u (bits n 120 64) .write = .ok k →
         (i = .signalPkt q ∨ late i) →
         (bits n 193 192 = 0 → Passes i s (putNum s k 8 (bits n 191 128)) q n)
         ∧ (bits n 193 192 = 1 → Passes i s (putNum s k 8 ((readNum s.mem k 8 + bits n 191 128) % 2 ^ 64)) q n))
     ∧ (∀ v i, bits n 7 0 = 4 → signalOk n 2 = true → (bit n 8 = false ∨ x.started = []) →
         pktRead s x.ctxId (bits n 120 64) 8 = .ok v → (i = .waitPkt q ∨ late i ∧ bit n 8 = true) →
         (waitMet (bits n 193 192) v (bits n 191 128) = true → Passes i s s q n)
         ∧ (waitMet (bits n 193 192) v (bits n 191 128) = false → QueueBecomes i s q { x with st := .waiting }))
     ∧ (∀ i, bits n 7 0 = 5 → x.started = [] → (i = .barrierPkt q ∨ late i) → Passes i s s q n))
  ∧ (∀ s q, dispatches s q = true → (queueOf s q).head ≠ (queueOf s q).tail →
       ∀ i, i ∈ [Instr.launch q, .draw q, .signalPkt q, .waitPkt q, .barrierPkt q, .ctxopCreate q, .ctxopBind q, .ctxopUnbind q,
         .ctxopUpdate q, .ctxopQuarantine q, .ctxopDestroy q, .packetDeferredStart q] →
       let x := queueOf s q
       (headPacket s q = .error .malformed → QueueBecomes i s q { x with st := .error, err := 1, errIdx := x.head })
       ∧ (headPacket s q = .error .memory → QueueBecomes i s q { x with st := .error, err := 6, errIdx := x.head })
       ∧ (∀ page, headPacket s q = .error (.miss page) → exec i s = .next (batchMiss s packetUnit page x.ctxId)))

/-- R118, R121, R137, R139: a WAIT in progress passes at a read that meets it, and ends its queue with err 3 at its timeout; a
packet's grid that is over writes done_val and completes its packet; the dispatcher takes the first queued task, whose record
becomes `RUNNING` (state 3) with its groups counted. -/
def Obligations.WaitsGridsAndTasks : Prop :=
  (∀ s q n v i, (queueOf s q).st = .waiting → headPacket s q = .ok n → bits n 7 0 = 4 → signalOk n 2 = true →
    (bit n 8 = false ∨ (queueOf s q).started = []) → pktRead s (queueOf s q).ctxId (bits n 120 64) 8 = .ok v →
    (i = .waitReread q ∨ i = .waitPeriodicPoll q ∧ homedOutside s (queueOf s q).ctxId (bits n 120 64) = true) →
    (waitMet (bits n 193 192) v (bits n 191 128) = true → Passes i s (putQueue s q { queueOf s q with st := .active }) q n)
    ∧ (waitMet (bits n 193 192) v (bits n 191 128) = false → QueueBecomes i s q (queueOf s q)))
  ∧ (∀ s q n c, (queueOf s q).st = .waiting → headPacket s q = .ok n → bits n 7 0 = 4 → 4 ≤ bits n 196 194 →
      ctxOf s (queueOf s q).ctxId = some c → c.desc.fabTimeout ≠ 0 →
      QueueBecomes (.waitTimeout q) s q { queueOf s q with st := .error, err := 3, errIdx := (queueOf s q).head })
  ∧ (∀ s gi g q idx, Map.find s.grids gi = some g → g.src = .packet q idx → gridOver s gi g = true → findersDone s g = true →
      s.link.merging = [] → (g.doneAddr ≠ 0 → pktMiss s g.ctx g.doneAddr 8 .write = none) →
      ∃ t, exec (.gridComplete gi) s = .next t ∧ Map.find t.grids gi = none
        ∧ (∀ k, k ≠ gi → Map.find t.grids k = Map.find s.grids k) ∧ (queueOf t q).gridSlots = (queueOf s q).gridSlots - 1
        ∧ (∀ p, p ∈ (queueOf t q).started → p.idx ≠ BitVec.ofNat 32 idx) ∧ (∀ p, p ≠ q → queueOf t p = queueOf s p)
        ∧ (g.doneAddr = 0 → t.mem = s.mem ∧ t = { s with grids := t.grids, queues := t.queues, msix := t.msix })
        ∧ (g.doneAddr ≠ 0 → ∀ k, devKey s g.ctx .u g.doneAddr .write = some k → Settled s → t.mem = writeNum s.mem k 8 g.doneVal.toNat)
        ∧ (g.doneAddr ≠ 0 → devKey s g.ctx .u g.doneAddr .write = none → t.mem = s.mem ∧ (queueOf t q).st = .error
            ∧ (queueOf t q).err = 6))
  ∧ ∀ s q prio va k d, dispatches s q = true → headTask (queueOf s q) = some (prio, va) →
      devReach s (queueOf s q).ctxId .s va .write = .ok k → Settled s → let n := readNum s.mem k 64
      bits n 34 32 = 2 → taskKernel s (queueOf s q).ctxId n = .ok d → couldFit s (taskGrid s q va n d) = true →
      ∃ t g, exec (.taskDispatch q) s = .next t ∧ Map.find t.grids s.nextGrid = some g ∧ g.src = .task q va ∧ g.queue = q ∧ g.desc = d
        ∧ g.ctx = (queueOf s q).ctxId ∧ g.image = bits n 120 64 ∧ g.nx = bits n 223 192 ∧ g.ny = bits n 239 224
        ∧ g.nz = bits n 255 240 ∧ g.live = g.nx * g.ny * g.nz ∧ g.next = 0 ∧ t.nextGrid = s.nextGrid + 1
        ∧ t.mem = writeNum (writeNum s.mem k 8 (putBits (readNum s.mem k 8) 34 32 3)) (k + 48) 4 g.live

/-- R111, R112, R120: the context operations, at the head of an admin queue, neither fenced nor held back by a change in progress.
CREATE makes a free ID's context, with its descriptor and a fresh key; BIND gives a `CREATED` or `SWITCHED` context the lowest
free resident slot, once there is one, and passes on one that has its slot; UNBIND of a resident context starts, and completes
when its queues are saved and its lines written back, the context `SWITCHED`, without slot and without a held translation;
UPDATE replaces the descriptor of a context off the device; QUARANTINE passes; DESTROY frees the ID. A state that does not
permit the operation ends the queue with err 7. -/
def Obligations.ContextOperations : Prop :=
  (∀ s q n, AtHead s q n → bits n 7 0 = 6 → (queueOf s q).admin = true → (bit n 8 = false ∨ (queueOf s q).started = []) →
    let x := queueOf s q
    let op := bits n 71 64
    let id := bits n 83 72
    ctxBusy s id = false →
    let refuses (i : Instr) : Prop := QueueBecomes i s q { x with st := .error, err := 7, errIdx := x.head }
    let late (i : Instr) : Prop := i = .packetDeferredStart q ∧ x.started = [] ∧ bit n 8 = true
    (∀ d i, op = 1 → bits n 184 128 % 256 = 0 → id ≠ 0 → ctxOf s id = none → readCtxDesc s x.ctxId (bits n 184 128) id = .ok d →
      (i = .ctxopCreate q ∨ late i) → ∃ t, Passes i s t q n ∧ t = { s with ctxs := t.ctxs, nextKey := s.nextKey + 1 }
        ∧ ctxOf t id = some { st := .created, desc := d, slot := none, key := s.nextKey, sheets := [], halos := [], unbinding := false, dog := 0 }
        ∧ ∀ k, k ≠ id → ctxOf t k = ctxOf s k)
    ∧ (∀ c i, op = 2 → bits n 184 128 = 0 → ctxOf s id = some c →
        (i = .ctxopBind q ∨ late i ∨ i = .bindRetry q ∧ (freeResident s).isSome = true) →
        ((c.st = .created ∨ c.st = .switched) → ∀ k, freeResident s = some k →
          ∃ t, Passes i s t q n ∧ t = { s with ctxs := t.ctxs } ∧ ctxOf t id = some { c with st := .bound, slot := some k }
            ∧ ∀ m, m ≠ id → ctxOf t m = ctxOf s m)
        ∧ ((c.st = .created ∨ c.st = .switched) → freeResident s = none → exec i s = .next s)
        ∧ ((c.st = .bound ∨ c.st = .running) → Passes i s s q n)
        ∧ (c.st = .quarantined → refuses i))
    ∧ (∀ c i, op = 3 → bits n 184 128 = 0 → ctxOf s id = some c → (i = .ctxopUnbind q ∨ late i) →
        ((c.st = .bound ∨ c.st = .running) → ∃ t, exec i s = .next t ∧ ctxOf t id = some { c with unbinding := true }
          ∧ queueOf t q = { x with head := x.head + 1,
                                   started := x.started ++ [{ idx := x.head, grid := none, unbind := some id, irq := bit n 9 }] }
          ∧ t = { s with ctxs := t.ctxs, queues := t.queues })
        ∧ ((c.st = .created ∨ c.st = .switched) → Passes i s s q n)
        ∧ (c.st = .quarantined → refuses i))
    ∧ (∀ c i, op = 4 → bits n 184 128 % 256 = 0 → ctxOf s id = some c → (i = .ctxopUpdate q ∨ late i) →
        ((c.st = .created ∨ c.st = .switched) → ∀ d, readCtxDesc s x.ctxId (bits n 184 128) id = .ok d →
          slidesWithin s id d.saveBlocks = true →
          ∃ t, Passes i s t q n ∧ t = { s with ctxs := t.ctxs } ∧ ctxOf t id = some { c with desc := d })
        ∧ ((c.st = .bound ∨ c.st = .running ∨ c.st = .quarantined) → refuses i))
    ∧ (∀ i, op = 5 → bits n 184 128 = 0 → (i = .ctxopQuarantine q ∨ late i) → Passes i s (quarantine s id 0) q n)
    ∧ (∀ i, op = 6 → bits n 184 128 = 0 → (i = .ctxopDestroy q ∨ late i) →
        (ctxOf s id = none → Passes i s s q n)
        ∧ (∀ c, ctxOf s id = some c → ∃ t, Passes i s t q n ∧ ctxOf t id = none)))
  ∧ ∀ s ctx, ctxBusy s ctx = true → (ctxActive s ctx).all (canSave s) = true →
      (∀ line ∈ ctxLines s ctx, lineWaits s line = false) → ∃ t, exec (.unbindComplete ctx) s = .next t
      ∧ (∀ c, ctxOf t ctx = some c → c.st = .switched ∧ c.slot = none ∧ c.unbinding = false)
      ∧ (ctxActive s ctx = [] → ∀ c, ctxOf s ctx = some c →
          ctxOf t ctx = some { c with st := .switched, slot := none, unbinding := false })
      ∧ (∀ e ∈ t.vm.tlb ++ t.vm.tlb2, e.ctx ≠ ctx) ∧ ∀ e ∈ t.vm.walks, e.ctx ≠ ctx

/-- R122, R132, R134 to R136, R146, R147, R151, R152: where its queue's turn has come, the next grid of a queue that dispatches
places its next group on the first core of the walk that meets every demand; one that waits for no bank starts its waves at
once, at the kernel's entry with all 32 lanes. The grid's next group follows. A co-resident grid places every group at once or
none. A bank's conversion ends once no group holds it, one from CACHE in ascending number with two other banks in CACHE, and a
group that waited for it alone starts. A draining group retires when its partials have arrived and no push of halo lines that
its cores have written is under way, and gives up its place. R126, R127, R146, R158, R246, R361: a saved group of an active
queue whose record passes its checks comes back to the first core its restore tries that has room, with the scratch that the
darkslide holds and the messages sent to it, and leaves the darkslide; with the last one the darkslide's valid is cleared. One
that fits nowhere waits; a record that fails quarantines the context. -/
def Obligations.GroupsPlacedAndRestored : Prop :=
  ((∀ s gi g, Map.find s.grids gi = some g → headGrid s g.queue = some (gi, g) →
     ((servedFirst s g.queue = true ∨ dispatches s g.queue = false ∨ coWaits s g.queue = true) → exec (.groupPlace gi) s = .next s)
     ∧ (servedFirst s g.queue = false → dispatches s g.queue = true → coWaits s g.queue = false →
       let turned (t : State) : Prop := (queueOf t g.queue) = { queueOf s g.queue with turn := s.stamp }
         ∧ (∀ q, q ≠ g.queue → queueOf t q = queueOf s q) ∧ t.stamp = s.stamp + 1
       ((g.desc.coresident = false ∨ g.next ≠ 0) → ∀ l1 l2 c p, g.next < g.nx * g.ny * g.nz → ringRoom s g = true →
         slideFits s g.queue (kernelSave g.desc) = true → walkCores s g.desc.groupWaves = l1 ++ c :: l2 →
         (∀ k ∈ l1, placeFits s gi g.desc k = none) → placeFits s gi g.desc c = some p →
         ∃ t x, exec (.groupPlace gi) s = .next t ∧ groupOf t s.nextGid = some x ∧ x.grid = gi ∧ x.index = g.next ∧ x.core = c
           ∧ x.gx = g.next % g.nx ∧ x.gy = g.next / g.nx % g.ny ∧ x.gz = g.next / (g.nx * g.ny) ∧ x.waves = g.desc.groupWaves
           ∧ x.slots = takeSlots s c g.desc.groupWaves ∧ x.scratchGran = p.scratch ∧ x.fifoGran = p.fifo
           ∧ t.placeP = c ∧ Map.find t.grids gi = some { g with next := g.next + 1 } ∧ t.nextGid = s.nextGid + 1
           ∧ t.mem = s.mem ∧ turned t
           ∧ (p.toScratch ++ p.toFifo ≠ [] → x.st = .placing)
           ∧ (p.toScratch ++ p.toFifo = [] → x.st = .resident ∧ ∀ k ∈ x.slots, ∃ w f, Map.find t.waves k = some w
               ∧ w.gid = s.nextGid ∧ w.priv = .u ∧ w.sregs = [] ∧ w.vregs = [] ∧ w.valloc = 8 * g.desc.vregBlocks
               ∧ w.fragA = some f ∧ w.fragB = none ∧ f.m0 = 0xFFFFFFFF
               ∧ f.pc = BitVec.ofNat 64 (g.image + g.desc.scodeOffset + g.desc.entryOffset)))
       ∧ (g.desc.coresident = true → g.next = 0 → ∀ u, placeAll s gi = some u → ∃ t, exec (.groupPlace gi) s = .next t
           ∧ t = { u with queues := t.queues, stamp := u.stamp + 1 } ∧ queueOf t g.queue = { queueOf u g.queue with turn := u.stamp }
           ∧ ∀ q, q ≠ g.queue → queueOf t q = queueOf u q)
       ∧ (g.desc.coresident = true → g.next = 0 → placeAll s gi = none → exec (.groupPlace gi) s = .next s)))
   ∧ (∀ s core bank m, let b := bankOf (coreOf s core) bank
       let can := if b.mode = .cache then (leavingCache (coreOf s core)).head? = some bank ∧ 3 ≤ cacheBanks (coreOf s core)
         else ∀ g ∈ granulesOn s core, g.1 ≠ bank
       b.change = some m →
       (can → ∃ t, exec (.bankConversionDone core bank) s = .next t
         ∧ bankOf (coreOf t core) bank = { b with mode := m, change := none }
         ∧ (∀ i, i ≠ bank → bankOf (coreOf t core) i = bankOf (coreOf s core) i) ∧ t.mem = s.mem
         ∧ (b.mode ≠ .cache → t.coh = s.coh)
         ∧ ∀ gid x, groupOf s gid = some x → x.core = core → x.st = .placing → (∀ i ∈ x.wantBanks, i = bank) →
             (Map.find s.grids x.grid).isSome = true → (groupOf t gid).map (·.st) = some .resident)
       ∧ (¬ can → exec (.bankConversionDone core bank) s = .next s))
   ∧ ∀ s gid x, groupOf s gid = some x → x.st = .draining →
       ((∃ p ∈ s.partials, p.gid = gid) → exec (.groupSettled gid) s = .next s)
       ∧ ((∀ p ∈ s.partials, p.gid ≠ gid) → ∀ u, settlePush s x = (u, true) → exec (.groupSettled gid) s = .next u)
       ∧ ((∀ p ∈ s.partials, p.gid ≠ gid) → (settlePush s x).2 = false → ∃ t, exec (.groupSettled gid) s = .next t ∧ ∀ y, groupOf t gid = some y →
           y.st = .retired ∧ y.slots = [] ∧ y.scratchGran = [] ∧ y.fifoGran = [] ∧ y.msgs = [] ∧ y.barriers = [] ∧ y.live = 0))
  ∧ (∀ s gid e q y d, groupOf s gid = some e → groupQueue s e = some q → (queueOf s q).st = .active →
       (queueOf s q).slides.valid = true → (queueOf s q).slides.groups.find? (fun z => z.gid == gid) = some y →
       descOf s e.grid = some d →
       (groupOk s q y = true → (∀ l1 l2 c p, restoreCores s y.group = l1 ++ c :: l2 → (∀ k ∈ l1, restoreFits s y d k = none) →
         restoreFits s y d c = some p → let rest := (queueOf s q).slides.groups.filter (fun z => z.gid != y.gid)
         ∃ t x, exec (.groupRestore gid) s = .next t ∧ groupOf t gid = some x ∧ x.st = .resident ∧ x.core = c
           ∧ x.scratchGran = p.scratch ∧ x.fifoGran = p.fifo ∧ x.scratch = (slideLoad s q y).group.scratch ∧ x.msgs = e.msgs
           ∧ (y.group.fifoBytes = 0 → t.placeP = c) ∧ (y.group.fifoBytes ≠ 0 → t.placeP = s.placeP)
           ∧ (queueOf t q).slides = (if rest = [] then Darkslide.none else { (queueOf s q).slides with groups := rest })
           ∧ (∀ j, j ≠ q → queueOf t j = queueOf s j) ∧ (rest ≠ [] → t.mem = s.mem))
         ∧ ((∀ c ∈ restoreCores s y.group, restoreFits s y d c = none) → exec (.groupRestore gid) s = .next s))
       ∧ (groupOk s q y = false → exec (.groupRestore gid) s = .next (slideFail s q)))

/-- R231, R232, R233, R378, R380, R382: a tray whose deadline has come triggers, and not before; the tray triggered first starts its
wave where a partition has room, with one lane a record, at its configuration's entry, and leaves its table entry. A Finder
whose next segment's group has ended deposits the quads of the primitives before it, all but those of a last one that the next
segment may fuse with, and goes to the next segment, or keeps its place where a quad finds no entry. -/
def Obligations.TraysAndSegments : Prop :=
  (∀ s core k y, Map.find (coreOf s core).trays k = some y →
    (s.clock.toNat < y.deadline → exec (.trayDeadline core k) s = .next s)
    ∧ (y.st = .filling → y.deadline ≤ s.clock.toNat → ∃ t, exec (.trayDeadline core k) s = .next t
      ∧ Map.find (coreOf t core).trays k = some { y with st := .triggered, stamp := s.stamp }
      ∧ t = { s with cores := t.cores, stamp := s.stamp + 1 }))
  ∧ (∀ s core k y g p, firstWaiting s core = some (k, y) → Map.find s.grids y.grid = some g →
      trayPart s core g.desc.vregBlocks = some p → (coreOf s core).dead = false →
      slideFits s g.queue (saveBytes 1 g.desc.vregBlocks 0 0 0) = true → let slot := freeSlot s [] core p
      ∃ t w f x, exec (.trayWaveStart core) s = .next t ∧ Map.find t.waves slot = some w ∧ w.gid = s.nextGid ∧ w.fragA = some f
        ∧ w.tray = some { config := y.config, recs := y.recs, ticket := y.ticket }
        ∧ f.m0 = BitVec.ofNat 32 (2 ^ y.recs.length - 1)
        ∧ f.pc = BitVec.ofNat 64 (g.image + g.desc.scodeOffset + (g.desc.trays[y.config]?.map (·.1)).getD 0)
        ∧ groupOf t s.nextGid = some x ∧ x.isTray = true ∧ x.waves = 1 ∧ x.grid = y.grid ∧ x.core = core
        ∧ Map.find (coreOf t core).trays k = none ∧ t.mem = s.mem ∧ t.queues = s.queues
        ∧ ∀ n, n ≠ slot → Map.find t.waves n = Map.find s.waves n)
  ∧ ∀ s core gi g d, Map.find s.grids gi = some g → g.draw = some d → core < 96 →
      let seg := Tab.get 0 d.next core
      let total := g.nx * g.ny * g.nz
      let last := total ≤ seg + 1
      seg < total →
      (segReady s gi seg g = none → exec (.finderSegmentStart core gi) s = .next s)
      ∧ (segReady s gi seg g = some true → segPrims s g d seg = none → exec (.finderSegmentStart core gi) s = .next s)
      ∧ ∀ whole used l, segReady s gi seg g = some whole → segInput s g d core seg whole = some (used, l) →
        let r := pairQuads d core used l
        let n := Tab.get 0 d.pos core
        ∀ t k go, quadsDeposit s core gi d.pixelTray ((r.1 ++ (if last then lastQuads d core r.2 else [])).drop n) n = (t, k, go) →
          ∃ u x, exec (.finderSegmentStart core gi) s = .next u ∧ Map.find u.grids gi = some { g with draw := some x } ∧ u.mem = s.mem
            ∧ u.cores = t.cores
            ∧ (go = false → x = { d with pos := Tab.set 0 d.pos core k })
            ∧ (go = true → Tab.get 0 x.next core = seg + 1 ∧ Tab.get 0 x.pos core = 0
                ∧ Map.find x.carry core = (if last then none else r.2.map (fun p => (p.1.raw, p.1.order, p.2)))
                ∧ (∀ c, c ≠ core → Tab.get 0 x.next c = Tab.get 0 d.next c ∧ Tab.get 0 x.pos c = Tab.get 0 d.pos c
                    ∧ Map.find x.carry c = Map.find d.carry c)
                ∧ x = { d with next := x.next, pos := x.pos, carry := x.carry })

/-- R102, R303, R321 to R324: the life of a transfer. Its pages are translated and pinned; it runs once no earlier lock conflicts;
having moved its bytes it posts its record and frees its slot and locks, or keeps the slot until its wave's queue has a place.
It stops at a page that faults, and parks at one that is not in the page cache. A fault parks it; a fragment asleep takes the
trap when it wakes. R338 to R341, R345, R348: a partial that its accumulator accepts, and whose line has a place, is added to
its element at the home, and counts as performed; one that finds no open accumulator faults its lane with `ACC_BUSY`. A drain
that has written its target ends its accumulator `DRAINED` (state 3), and posts its record. -/
def Obligations.TransfersAndPartials : Prop :=
  (∀ s core op o, opAt s core op = some o →
     (∀ t pinned bad, o.st = .issued → o.kind ≠ .mloop → pinPages s o.core o.ctx o.priv o.pinned (opPages o) = some (t, pinned, bad) →
       ∃ u p, exec (.transferTranslationEnd core op) s = .next u ∧ Map.find (coreOf u core).ops op = some p
         ∧ u = { t with cores := u.cores }
         ∧ ((bad = none ∨ o.kind = .drain) → p = { o with st := .translated, pinned := pinned, failPage := none, failCause := none })
         ∧ ∀ va c, bad = some (va, c) → o.kind ≠ .drain →
             p = { o with st := .translated, pinned := pinned, failPage := some va, failCause := some c })
     ∧ (o.st = .translated →
         (lockedOut (coreOf s core) op = true → exec (.transferLocksClear core op) s = .next s)
         ∧ (lockedOut (coreOf s core) op = false → ∃ u, exec (.transferLocksClear core op) s = .next u
             ∧ Map.find (coreOf u core).ops op = some { o with st := .running } ∧ u = { s with cores := u.cores }))
     ∧ (engRuns s o = true → o.kind ≠ .mloop → o.kind ≠ .drain → ∀ t p e,
         engMove (engFuel o) s { o with st := .running, missPage := none } = (t, p, e) →
         (e = .over → Posts (.transferComplete core op) s (putOp t core op p) core op p (engRecord p op 0 0 0))
         ∧ (∀ va c, e = .fault va c → ∃ u, exec (.transferComplete core op) s = .next u ∧ u = { t with cores := u.cores }
             ∧ Map.find (coreOf u core).ops op = some { p with failPage := some va, failCause := some c })
         ∧ (∀ pg, e = .miss pg → ∃ u, exec (.transferComplete core op) s = .next u
             ∧ Map.find (coreOf u core).ops op = some { p with st := .parked, missPage := some pg })
         ∧ (∀ va c, e = .fault va c → exec (.engineFaultTaken core op) s = .next (engFault t core op p va c)))
     ∧ (engRuns s o = true → (o.kind = .mloop ∨ o.kind = .drain) → ∀ va c, o.failPage = some va → o.failCause = some c →
         exec (.engineFaultTaken core op) s = .next (engFault s core op o va c))
     ∧ (∀ va c w f, o.orphan = false → waveOf s o.gid o.wave = some w → fragOf w (trapSlot w o.b) = some f → asleep f = true →
         let u := engFault s core op o va c
         Map.find (coreOf u core).ops op = some { o with st := .parked, failPage := some va, failCause := some c, parkedAt := s.stamp }
         ∧ u.waves = s.waves ∧ u = { s with cores := u.cores, stamp := s.stamp + 1 })
     ∧ ∀ r, o.st = .waitPlace → o.final = some r → ∀ w, waveOf s o.gid o.wave = some w →
         (evqOf w o.q).recs.length < (evqOf w o.q).depth → Posts (.eventRecordPostResume core op) s s core op o r)
  ∧ ((∀ s k p, s.partials[k]? = some p → let s' := { s with partials := s.partials.eraseIdx k }
       (∀ key a t, accAt s' p.ctx p.va = some (key, a) → accAccepts a.form p.ty = true → (p.va - a.base) % accElemBytes a.form = 0 →
         accPlace s' key a (p.va / 128) = some t → ∀ b, Map.find t.accs key = some b → let i := (p.va - a.base) / accElemBytes a.form
         ∃ u, exec (.partialArrive k) s = .next u ∧ u.partials = s.partials.eraseIdx k ∧ u.mem = s.mem
           ∧ (let e := Tab.set AccElem.zero b.elems i (accApply b (Tab.get AccElem.zero b.elems i) p.ty p.bits)
              Map.find u.accs key = some { b with elems := e })
           ∧ (∀ n, n ≠ key → Map.find u.accs n = Map.find t.accs n)
           ∧ ∀ w, Map.find s.waves (64 * p.core + p.slot) = some w → w.gid = p.gid →
               Map.find u.waves (64 * p.core + p.slot) = some { w with ops := w.ops.map (fun o =>
                 if o.id = p.opId then { o with pendingAnswers := o.pendingAnswers - 1 } else o) })
       ∧ (accAt s' p.ctx p.va = none → ∃ u, exec (.partialArrive k) s = .next u ∧ u = { s' with waves := u.waves }
           ∧ ∀ w, Map.find s.waves (64 * p.core + p.slot) = some w → w.gid = p.gid →
               ∃ v, Map.find u.waves (64 * p.core + p.slot) = some v ∧ (w.trap = .none → v.trap = .pending)
                 ∧ ∀ o ∈ w.ops, o.id = p.opId →
                     let faults := o.faults ++ [(p.lane, Cause.accBusy, BitVec.ofNat 64 p.va)]
                     { o with pendingAnswers := o.pendingAnswers - 1, done := o.done &&& ~~~(maskOf [p.lane]), faults := faults } ∈ v.ops))
     ∧ ∀ s core op o a t p b, opAt s core op = some o → Map.find s.accs o.acc = some a → o.kind = .drain → engRuns s o = true →
         o.failCause = none →
         drainMove (a.rows * a.cols + 3) s a { o with st := .running, missPage := none } = (t, p, .over) → Map.find t.accs o.acc = some b →
         let u := accEnd (putOp t core op p) o.acc .drained
         Posts (.drainComplete core op) s u core op p (engRecord p op 0 0 0) ∧ Map.find u.accs o.acc = none
           ∧ readNum u.mem (b.descPa + 17) 1 % 8 = 3)

/-- R331, R334, R336, R351: a team whose members all have their next word runs it. An `MMA` whose step forms is counted in the
staging state, and every member's word is done; a loop goes through its steps, and at its end every member's word is done. -/
def Obligations.TeamOperations : Prop :=
  (∀ s core gid n t m w tile fa fmt id ta tb act va vb f s2 t2, teamOf s core gid n = some t → t.dissolved = false → t.stop = .none →
    teamReady t = true → swappedOut s gid = false → member0 t = some m →
    headOf m = some (.mma id ta tb tile fa fmt false act va vb) → waveOf s gid m.wave = some w →
    (∀ x ∈ t.members, ∀ h, headOf x ≠ some (.mloop h)) → fmtOf fmt.toNat = some f → flushFirst t tile fa (f.aType == .f64) = false →
    (let p := stageFor s core t tile fa fmt (f.aType == .f64)
     matrixStep (scaleRead w) p.1 p.2 f 0 (regSupply p.1 p.2 f) = (s2, .ok t2)) →
    t2.steps < 256 → t2.unsent = [] →
    ∃ u, exec (.teamOpStart core gid n) s = .next u ∧ (t2.steps = t.steps + 1)
      ∧ teamOf u core gid n = some (popHeads { t2 with stop := .none, waiting := [], skipped := false }))
  ∧ (∀ s core gid n t m h slot o f u t1 p, teamOf s core gid n = some t → t.dissolved = false → t.stop = .none →
      teamReady t = true → swappedOut s gid = false → member0 t = some m → headOf m = some (.mloop h) →
      leadLoop s core h = some (slot, o) → o.st = .issued → lockedOut (coreOf s core) slot = false → fmtOf o.fmt.toNat = some f →
      let d := loopDesc o.desc.toNat
      loopGo (3 * d.steps + 16) (settleHeads s t) core t { o with st := .running, missPage := none } d f = (u, t1, p, .over) →
      ∃ v, exec (.teamOpStart core gid n) s = .next v ∧ Map.find (coreOf v core).ops slot = some p
        ∧ teamOf v core t1.gid t1.team = some t1)
  ∧ ∀ s core op o t f u t1 p, opAt s core op = some o → teamOfLoop s core op o = some t → o.kind = .mloop → engRuns s o = true →
      o.failCause = none → fmtOf o.fmt.toNat = some f → let d := loopDesc o.desc.toNat
      loopGo (3 * d.steps + 16) s core t { o with st := .running, missPage := none } d f = (u, t1, p, .over) →
      ∃ v, exec (.mloopComplete core op) s = .next v ∧ teamOf v core t1.gid t1.team = some (popHeads { t1 with stop := .none })

/-- R294 to R299: the frames. A batch that closes empties the Loupe; each of its pages starts its fill in a frame that was FREE, a
single one in the lowest, or, with none FREE, waits for the next eviction; and with frames enough no frame in use changes. A
fill that completes over an active link makes its frame `CLEAN` and lets the waves that wait for the page go on; one that cannot
reach the pool frees its frame and marks those waves. With fewer than 64 frames FREE or on their way there, the clock's victim
becomes `EVICTING`, and it is FREE once its lines are released. A FREE frame goes to zeroing while the device-local pool is
below its target, and from there, its bytes 0, to the pool. -/
def Obligations.PoolFrames : Prop :=
  (∀ s, let pages := s.vm.batch.getD []
      let fill (e : Nat × Nat) : Frame := { st := .filling, page := e.1, ctx := e.2, clock := true, dirty := 0, released := 0 }
      (∃ u, exec .loupeBatchClose s = .next u ∧ u.vm.batch = none ∧ u.vm.touches = [] ∧ u.vm.foreseen = [])
      ∧ (s.vm.starved = [] → Map.sorted s.vm.frames = true → 64 + pages.length + 32 ≤ framesComing s →
          (s.vm.frames.length + pages.length + 32 ≤ frameLimit s) → ∃ u, exec .loupeBatchClose s = .next u ∧ u = { s with vm := u.vm }
            ∧ (∀ e ∈ pages, ∃ k, Map.find s.vm.frames k = none ∧ Map.find u.vm.frames k = some (fill e))
            ∧ (∀ e, pages = [e] → ∀ f, freeFrame s = some f → Map.find u.vm.frames f = some (fill e))
            ∧ ∀ k fr, Map.find s.vm.frames k = some fr → Map.find u.vm.frames k = some fr)
      ∧ (s.vm.starved = [] → freeFrame s = none → ∃ u, exec .loupeBatchClose s = .next u ∧ u.vm.frames = s.vm.frames
          ∧ ∀ e, e ∈ u.vm.starved ↔ e ∈ pages))
  ∧ (∀ s f fr, Map.find s.vm.frames f = some fr →
      (fr.st = .filling → (cxlUp s = false → exec (.frameFillComplete f) s = .next s)
        ∧ (cxlUp s = true → ∃ u, exec (.frameFillComplete f) s = .next u
          ∧ u = { s with vm := u.vm, waves := u.waves } ∧ Map.find u.vm.frames f = some { fr with st := .clean }
          ∧ (∀ k, k ≠ f → Map.find u.vm.frames k = Map.find s.vm.frames k)
          ∧ ∀ k w b g, Map.find s.waves k = some w → w.yieldOn = [fr.page] → w.yieldClaim = [] → fragOf w b = some g →
              g.wait = .pageMiss fr.page → ∃ v, Map.find u.waves k = some v ∧ v.yieldOn = []
                ∧ fragOf v b = some { g with wait := .none }))
      ∧ (fr.st = .filling → s.vm.starved = [] → (∀ p ∈ opsWhere s (fun o => o.st == .parked && o.missPage == some fr.page), False) →
          ∃ u, exec (.fillPoolUnreachable f) s = .next u ∧ u = { s with vm := u.vm, waves := u.waves }
            ∧ Map.find u.vm.frames f = none ∧ (∀ k, k ≠ f → Map.find u.vm.frames k = Map.find s.vm.frames k)
            ∧ ∀ k w, Map.find s.waves k = some w → fr.page ∈ w.yieldOn →
                ∃ v, Map.find u.waves k = some v ∧ fr.page ∈ v.poison ∧ fr.page ∉ v.yieldOn)
      ∧ (fr.st = .evicting → s.vm.starved = [] → ∃ u, exec (.evictionComplete f) s = .next u ∧ Map.find u.vm.frames f = none
          ∧ u.vm.hand = s.vm.hand ∧ u.vm.poolTarget = s.vm.poolTarget
          ∧ ((∀ line ∈ pageLines fr.page, haloOwner s line = none) → s.coh.pushes = [] → s.coh.haloDirty = [] → u.mem = s.mem))
      ∧ (fr.st = .zeroing → ∃ u, exec (.zeroingDone f) s = .next u
          ∧ u = { s with vm := u.vm, mem := u.mem, coh := u.coh, sealed := u.sealed, tamper := u.tamper, extBytes := u.extBytes }
          ∧ u.coh = { s.coh with dir := u.coh.dir } ∧ u.vm = { s.vm with frames := u.vm.frames }
          ∧ Map.find u.vm.frames f = some (plainFrame .pooled 0)
          ∧ (∀ k, k ≠ f → Map.find u.vm.frames k = Map.find s.vm.frames k)
          ∧ (∀ line, dirOf u line = if line ∈ pageLines f then { dirOf s line with fog := false } else dirOf s line)
          ∧ ∀ a, Tab.get 0 u.mem a = if a / 65536 = f then 0 else Tab.get 0 s.mem a))
  ∧ (∀ s, (64 ≤ framesComing s → exec .enlargerEvict s = .next s)
      ∧ (framesComing s < 64 → ∀ t f fr, let l := s.vm.frames.map (·.1)
        let round := l.filter (fun f => decide (s.vm.hand ≤ f)) ++ l.filter (fun f => decide (f < s.vm.hand))
        (sweep s (round ++ round) = (t, some f) → Map.find t.vm.frames f = some fr → ∃ u n, exec .enlargerEvict s = .next u ∧ n < 512
          ∧ Map.find u.vm.frames f = some { fr with st := .evicting, released := n } ∧ u.vm.hand = f + 1)
        ∧ (sweep s (round ++ round) = (t, none) → exec .enlargerEvict s = .next t)
        ∧ ∀ l1 l2, round = l1 ++ f :: l2 → Map.find s.vm.frames f = some fr → (fr.st = .clean ∨ fr.st = .dirty) → fr.clock = false →
            clockPasses s fr.page = false → (∀ p ∈ l1, ∃ x, Map.find s.vm.frames p = some x ∧ x.st ≠ .clean ∧ x.st ≠ .dirty) →
            sweep s (round ++ round) = (s, some f)))
  ∧ ∀ s f, let can := frameStOf s f = none ∧ f < frameLimit s ∧ (s.vm.frames.filter (fun e => e.2.st == .pooled)).length < s.vm.poolTarget
      (can → ∃ u, exec (.poolFrameMove f) s = .next u ∧ Map.find u.vm.frames f = some (plainFrame .zeroing 0)
        ∧ u = { s with vm := { s.vm with frames := u.vm.frames } } ∧ ∀ k, k ≠ f → Map.find u.vm.frames k = Map.find s.vm.frames k)
      ∧ (¬ can → exec (.poolFrameMove f) s = .next s)

/-- R272, R273: a request at its home. `GetS` makes the requester owner of an idle line with `DataE`, a sharer with `Data`, or goes
forward to the owner. `GetM` and `Upg` invalidate the other sharers, whose acknowledgements the grant counts, or go forward to
the owner. A busy line makes the request wait, or, with the buffer full, sends it back; with the transaction table full a
request stays in its channel. R273, R276, R283, R287: notices and answers at a home where no request waits for the line. A
notice of a stable owner brings back its data (of a clean one only frees the line), a sharer's removes it, one that comes while
the line is busy is kept until the transaction's end, and one of a core that holds nothing is stale. `Unblock` ends a grant; a
forwarded read ends with its owner's answer too. Returned data ends a write-back, with the notice bit as a notice and its data
in one. A message of a retired ID is dropped. -/
def Obligations.HomeMessages : Prop :=
  (∀ s k m d, let r := m.reqr
     let line := m.line
     let busy := d.st = .sD ∨ d.st = .mA ∨ d.st = .wD
     let x := homed line d
     let free := sliceBusy s (homeSlice line) < 256
     m.dst = homeId → d.owner < 128 → d.ext = [] →
     (Reaches s k m .getS d → free →
       (d.st = .i → HomeDoes (.homeGets k) s k line { x with st := .mA, owner := r, sharers := 0, grantE := true, gotUnblock := false }
         [fromHome .dataE line r r 0])
       ∧ (d.st = .s → HomeDoes (.homeGets k) s k line { x with sharers := d.sharers ||| sharerBit r } [fromHome .data line r r 0])
       ∧ ((d.st = .e ∨ d.st = .m ∨ d.st = .o) → d.owner ≠ r → HomeDoes (.homeGets k) s k line
           { x with st := .sD, reqr := r, gotUnblock := false, gotOwn := false, gotClean := false }
           [fromHome .fwdGetS line d.owner r 0]))
     ∧ (∀ i, (Reaches s k m .getM d ∧ i = .homeGetm k ∨ Reaches s k m .upg d ∧ i = .homeUpg k) → free →
         let l := otherSharers d.sharers r
         let invs := l.map (fun c => fromHome .inv line c r 0)
         let taken : Dir := { x with st := .mA, owner := r, sharers := 0, grantE := false, gotUnblock := false }
         (d.st = .i → HomeDoes i s k line taken [fromHome .dataM line r r 0])
         ∧ (d.st = .s → HomeDoes i s k line taken
             (invs ++ [fromHome (if m.k = .upg ∧ d.sharers.getLsbD r then .grant else .dataM) line r r l.length]))
         ∧ ((d.st = .e ∨ d.st = .m) → d.owner ≠ r →
             HomeDoes i s k line { taken with sharers := d.sharers, gotUnblock := false } [fromHome .fwdGetM line d.owner r 0])
         ∧ (d.st = .o → d.owner = r → HomeDoes i s k line taken (invs ++ [fromHome .grant line r r l.length]))
         ∧ (d.st = .o → d.owner ≠ r → HomeDoes i s k line taken (invs ++ [fromHome .fwdGetM line d.owner r l.length])))
     ∧ ∀ i, (Reaches s k m .getS d ∧ i = .homeGets k ∨ Reaches s k m .getM d ∧ i = .homeGetm k
           ∨ Reaches s k m .upg d ∧ i = .homeUpg k) →
         let here := s.coh.waitBuf.filter (fun y => homeSlice y.line == homeSlice line)
         (busy → here.length < 64 → ∃ u, exec i s = .next u ∧ u.coh.waitBuf = s.coh.waitBuf ++ [m] ∧ dirOf u line = d
           ∧ u.coh.msgs = s.coh.msgs.eraseIdx k)
         ∧ (busy → 64 ≤ here.length → HomeDoes i s k line d [fromHome .retry line m.src m.src 0])
         ∧ (¬ busy → d.st ≠ .migr → ¬ free → exec i s = .next s))
  ∧ (∀ s k m d, m.dst = homeId → (∀ x ∈ s.coh.waitBuf, x.line ≠ m.line) → let line := m.line
       let busy := d.st = .sD ∨ d.st = .mA ∨ d.st = .wD
       let owned := d.st = .e ∨ d.st = .m ∨ d.st = .o
       let owns := d.owner = m.src ∧ (owned ∨ busy)
       let held := m.src < 96 ∧ d.sharers.getLsbD m.src = true
       let v := d.sharers &&& ~~~(sharerBit m.src)
       let left : Dir := { d with sharers := v, st := if d.st = .s ∧ v = 0 then .i else d.st }
       let ack (stale : Bool) : Msg := { fromHome .noticeAck line m.src m.src 0 with stale := stale }
       let granted : Dir := { d with st := if d.grantE then .e else .m, grantE := false, gotUnblock := false }
       (∀ i, (Reaches s k m .putE d ∧ i = .homePute k ∨ Reaches s k m .putM d ∧ i = .homePutm k ∨ Reaches s k m .putO d ∧ i = .homePuto k) →
         (d.owner = m.src → d.st = .e → m.k = .putE → HomeDoes i s k line { d with st := .i, owner := 0, notice := none } [ack false])
         ∧ (d.owner = m.src → (d.st = .m ∨ d.st = .o ∨ d.st = .e ∧ m.k ≠ .putE) →
             HomeDoes i s k line { d with st := .wD, notice := none } [fromHome .pullWB line m.src m.src 0])
         ∧ (d.owner = m.src → busy → HomeDoes i s k line { d with notice := some m.k } [])
         ∧ (¬ owns → held → HomeDoes i s k line left [ack false]) ∧ (¬ owns → ¬ held → HomeDoes i s k line d [ack true]))
       ∧ (Reaches s k m .putS d → ¬ (owns ∧ busy) →
           (held → HomeDoes (.homePuts k) s k line left [ack false]) ∧ (¬ held → HomeDoes (.homePuts k) s k line d [ack true]))
       ∧ (Reaches s k m .putS d → owns → busy → HomeDoes (.homePuts k) s k line { d with notice := some .putS } [])
       ∧ (Reaches s k m .unblock d → d.wb = false →
           (d.st = .mA → d.notice = none → HomeDoes (.homeUnblock k) s k line granted [])
           ∧ (d.st = .mA → ∀ n, d.notice = some n →
               (d.grantE = true → n = .putE → HomeDoes (.homeUnblock k) s k line { granted with st := .i, owner := 0, notice := none }
                 [{ fromHome .noticeAck line d.owner d.owner 0 with stale := false }])
               ∧ ((d.grantE = false ∨ n ≠ .putE) → HomeDoes (.homeUnblock k) s k line { granted with st := .wD, notice := none }
                 [fromHome .pullWB line d.owner d.owner 0]))
           ∧ (d.st = .sD → d.gotOwn = false → d.gotClean = false → HomeDoes (.homeUnblock k) s k line { d with gotUnblock := true } []))
       ∧ (Reaches s k m .ownAck d → d.notice = none → d.wb = false → d.st = .sD →
           (d.gotUnblock = false → HomeDoes (.homeOwnack k) s k line { d with gotOwn := true } [])
           ∧ (d.gotUnblock = true → HomeDoes (.homeOwnack k) s k line { d with st := .o, sharers := d.sharers ||| sharerBit d.reqr,
                                                                               gotUnblock := false, gotOwn := false, gotClean := false } []))
       ∧ (Reaches s k m .cleanAck d → d.notice = none → d.wb = false → d.st = .sD →
           (d.gotUnblock = false → HomeDoes (.homeCleanack k) s k line { d with gotClean := true } [])
           ∧ (d.gotUnblock = true → d.gotOwn = false → HomeDoes (.homeCleanack k) s k line
               { d with st := .s, sharers := d.sharers ||| sharerBit d.reqr ||| sharerBit d.owner, owner := 0, home := true,
                        gotUnblock := false, gotOwn := false, gotClean := false } []))
       ∧ (Reaches s k m .wbData d →
           ((d.st = .wD ∨ m.notice = true ∧ owned) → d.owner = m.src → frameOfPage s (line / 65536) = none →
             ∃ u, exec (.homeWbdata k) s = .next u ∧ u.coh.msgs = msgsAfter s k [fromHome .wbAck line m.src m.src 0]
               ∧ dirOf u line = homed line { d with st := if v = 0 then .i else .s, owner := 0, sharers := v, notice := none, wb := false }
               ∧ u.mem = s.mem ∧ u.coh.l1 = s.coh.l1 ∧ u.tamper = s.tamper.filter (fun x => x != line))
           ∧ (m.notice = true → (d.st = .sD ∨ d.st = .mA) → d.owner = m.src → HomeDoes (.homeWbdata k) s k line { d with wb := true } [])
           ∧ (¬ owns → HomeDoes (.homeWbdata k) s k line d [fromHome .wbAck line m.src m.src 0]))
       ∧ (Reaches s k m .hAck d → (∃ p ∈ s.coh.pushes, p.2.1 = m.reqr ∧ p.1 ≠ line ∧ p.2.2.1 ≠ 0) →
           ∃ u, exec (.homeHack k) s = .next u ∧ u.coh.pushes = s.coh.pushes.map (fun p =>
             if p.1 = line ∧ p.2.1 = m.reqr then (p.1, p.2.1, p.2.2.1 - 1, p.2.2.2) else p))
       ∧ ∀ i, s.coh.msgs[k]? = some m → m.src ≠ homeId → retiredId s m.src = true →
           (m.k = .getS ∧ i = .homeGets k ∨ m.k = .getM ∧ i = .homeGetm k ∨ m.k = .upg ∧ i = .homeUpg k ∨ m.k = .putS ∧ i = .homePuts k
             ∨ m.k = .putE ∧ i = .homePute k ∨ m.k = .putM ∧ i = .homePutm k ∨ m.k = .putO ∧ i = .homePuto k
             ∨ m.k = .unblock ∧ i = .homeUnblock k ∨ m.k = .ownAck ∧ i = .homeOwnack k ∨ m.k = .cleanAck ∧ i = .homeCleanack k
             ∨ m.k = .wbData ∧ i = .homeWbdata k ∨ m.k = .hAck ∧ i = .homeHack k) →
           exec i s = .next (dropMsg { s with coh := { s.coh with msgs := s.coh.msgs.eraseIdx k } } m.src))

/-- R274, R276, R287, R429: a message at an L1 that has the line. Data and a write grant fill a waiting line, the grant once its
acknowledgements are in; a forward takes the line's data to the requester, and waits while the line itself waits; an owner whose
upgrade is out still answers forwards, and an invalidation is answered though a request is out, unless `Data` is on its way (the
model's reading, log 16); write-backs and notices end as the home answers; a push is held until its commit. A core with no copy
answers an invalidation and a push too. R104, R110, R281, R283, R406, R407, R425: the world outside the package. A core that
leaves a forward unanswered for 2^20 cycles dies. A snoop of a line that can answer gives up every copy, and one that cannot
waits, until a conflict answer lets it go first; the answer of the last external holder lets a waiting grant go. A read of a
local line leaves its owner one of several and counts the agent, a write leaves no copy and changes its bytes alone, an
ownership request makes the agent the owner, which an eviction ends. What a retired agent sends is dropped. A line that has
failed its check quarantines the context that fetched it. -/
def Obligations.L1AndExternalMessages : Prop :=
  (∀ s k m l, s.coh.msgs[k]? = some m → m.dst ≠ homeId →
     let c := m.dst
     let line := m.line
     let reply (x : MsgK) : Msg :=
       { k := x, line := line, src := c, dst := m.reqr, reqr := m.reqr, acks := m.acks, stale := false, notice := false, sent := 0 }
     (l1Of s c line = some l →
       (m.k = .data → l.st = .isD → Fills (.l1Data k) s k c line l .s)
       ∧ (m.k = .dataE → l.st = .isD → Fills (.l1Datae k) s k c line l .e)
       ∧ (∀ i, (m.k = .dataM ∧ i = .l1Datam k ∨ m.k = .grant ∧ i = .l1Grant k) →
           (l.st = .isD → Fills i s k c line l .m)
           ∧ ((l.st = .imD ∨ l.st = .smA ∨ l.st = .omA) → (m.acks = l.acksGot → Fills i s k c line l .m)
               ∧ (m.acks ≠ l.acksGot → fillWaits s c line = false → L1Does i s k c line (some { l with acksNeed := some m.acks }) [])))
       ∧ (m.k = .invAck → (l.st = .imD ∨ l.st = .smA ∨ l.st = .omA) →
           (l.acksNeed = some (l.acksGot + 1) → Fills (.l1Invack k) s k c line l .m)
           ∧ (l.acksNeed ≠ some (l.acksGot + 1) → fillWaits s c line = false → L1Does (.l1Invack k) s k c line (some { l with acksGot := l.acksGot + 1 }) []))
       ∧ (m.k = .inv → (l.st = .s → L1Does (.l1Inv k) s k c line none [reply .invAck])
           ∧ (l.st = .smA → L1Does (.l1Inv k) s k c line (some { l with st := .imD }) [reply .invAck])
           ∧ ((l.st = .imD ∨ l.st = .isD ∧ dataComing s c line = false) → L1Does (.l1Inv k) s k c line (some l) [reply .invAck])
           ∧ (l.st = .isD → dataComing s c line = true → exec (.l1Inv k) s = .next s))
       ∧ (m.k = .fwdGetS →
           (l.st = .e → L1Does (.l1Fwdgets k) s k c line (some { l with st := .s }) [reply .data, toHome .cleanAck line c])
           ∧ ((l.st = .m ∨ l.st = .o) → L1Does (.l1Fwdgets k) s k c line (some { l with st := .o }) [reply .data, toHome .ownAck line c])
           ∧ (l.st = .omA → L1Does (.l1Fwdgets k) s k c line (some l) [reply .data, toHome .ownAck line c])
           ∧ ((l.st = .eiN ∨ l.st = .miN) →
               L1Does (.l1Fwdgets k) s k c line (some { l with st := .miN }) [reply .data, toHome .ownAck line c])
           ∧ ((l.st = .isD ∨ l.st = .imD ∨ l.st = .smA) → exec (.l1Fwdgets k) s = .next s))
       ∧ (m.k = .fwdGetM →
           ((l.st = .e ∨ l.st = .m ∨ l.st = .o ∨ (l.st = .miN ∨ l.st = .eiN) ∧ l.heldAck = true) →
             L1Does (.l1Fwdgetm k) s k c line none [reply .dataM])
           ∧ ((l.st = .miN ∨ l.st = .eiN) → l.heldAck = false →
               L1Does (.l1Fwdgetm k) s k c line (some { l with st := .iiN }) [reply .dataM])
           ∧ (l.st = .omA → L1Does (.l1Fwdgetm k) s k c line (some { l with st := .imD }) [reply .dataM])
           ∧ ((l.st = .isD ∨ l.st = .imD ∨ l.st = .smA) → exec (.l1Fwdgetm k) s = .next s))
       ∧ (m.k = .pullWB → l.st = .miN → L1Does (.l1Pullwb k) s k c line none [toHome .wbData line c])
       ∧ (m.k = .noticeAck →
           ((l.st = .miN ∨ l.st = .eiN) → (m.stale = true → L1Does (.l1Noticeack k) s k c line (some { l with heldAck := true }) [])
             ∧ (m.stale = false → L1Does (.l1Noticeack k) s k c line none []))
           ∧ (l.st = .iiN → L1Does (.l1Noticeack k) s k c line none []))
       ∧ (m.k = .wbAck → ((l.st = .eiN ∨ l.st = .miN ∨ l.st = .iiN) → l.wbSent = true → L1Does (.l1Wback k) s k c line none [])
           ∧ (l.wbSent = false → L1Does (.l1Wback k) s k c line (some l) []))
       ∧ (m.k = .hPush → L1Does (.l1Hpush k) s k c line (some { l with pend := true }) [{ toHome .hAck line c with reqr := m.reqr }])
       ∧ (m.k = .hCommit → L1Does (.l1Hcommit k) s k c line (some { l with pend := false }) [])
       ∧ ∀ x, m.k = .retry → (l.st = .isD ∧ x = .getS ∨ l.st = .imD ∧ x = .getM ∨ (l.st = .smA ∨ l.st = .omA) ∧ x = .upg) →
           ∃ u, exec (.l1Retry k) s = .next u ∧ u.coh.retries = s.coh.retries ++ [toHome x line c]
             ∧ u.coh.msgs = s.coh.msgs.eraseIdx k ∧ u = { s with coh := u.coh })
     ∧ (l1Of s c line = none → (m.k = .inv → L1Does (.l1Inv k) s k c line none [reply .invAck])
         ∧ (m.k = .hPush → L1Does (.l1Hpush k) s k c line none [{ toHome .hAck line c with reqr := m.reqr }]))
     ∧ ∀ j x, s.coh.retries[j]? = some x → ∃ u, exec (.requestResend j) s = .next u ∧ u.coh.msgs = s.coh.msgs ++ [x.at_ s.clock]
         ∧ u.coh.retries = s.coh.retries.eraseIdx j ∧ u = { s with coh := u.coh })
  ∧ ((∀ s core, core < 96 →
       let late (m : Msg) : Prop := m.dst = core ∧ (m.k = .fwdGetS ∨ m.k = .fwdGetM ∨ m.k = .inv ∨ m.k = .pullWB ∨ m.k = .hPush)
         ∧ 2 ^ 20 ≤ (s.clock - m.sent).toNat
       ((∃ m ∈ s.coh.msgs, late m) → exec (.forwardTimeout core) s = .next (coreDead s core 2))
       ∧ ((∀ m ∈ s.coh.msgs, ¬ late m) → exec (.forwardTimeout core) s = .next s))
     ∧ (∀ s pa agent, let line := lineOf pa
         let d := dirOf s line
         (retiredAgent s agent = true → exec (.birspReceive pa agent) s = .next (dropMsg s agent))
         ∧ (retiredAgent s agent = false → agent ∈ d.biWait →
           (∀ r data acks, d.biWait.filter (· != agent) = [] → d.biGrant = some (r, data, acks) →
             ∃ u, exec (.birspReceive pa agent) s = .next u
               ∧ dirOf u line = homed line { d with biWait := [], biGrant := none, gotOwn := false }
               ∧ u.coh.msgs = s.coh.msgs
                   ++ [(fromHome (if d.grantE then .dataE else if data then .dataM else .grant) line r r acks).at_ s.clock])
           ∧ (d.biWait.filter (· != agent) ≠ [] →
               ∃ u, exec (.birspReceive pa agent) s = .next u ∧ dirOf u line = { d with biWait := d.biWait.filter (· != agent) }
                 ∧ u.coh.msgs = s.coh.msgs)))
     ∧ (∀ s pa inv i, let line := lineOf pa
         (s.coh.snoops = [] ∧ snoopReady s line = true ∧ i = .bisnpReceive pa inv
           ∨ s.coh.snoops = [(line, inv)] ∧ i = .biconflictReceive pa true) →
         (lineSt s line = .s ∨ lineSt s line = .e ∨ lineSt s line = .m ∨ lineSt s line = .o ∨ lineSt s line = .i) →
         settledLine s line = true →
         ∃ u, exec i s = .next u ∧ dirOf u line = { Dir.init with home := !inv } ∧ NoCopy u line ∧ u.coh.snoops = [] ∧ u.mem = s.mem)
     ∧ (∀ s pa inv, s.coh.snoops = [] → snoopReady s (lineOf pa) = false →
         ∃ u, exec (.bisnpReceive pa inv) s = .next u ∧ u = { s with coh := { s.coh with snoops := [(lineOf pa, inv)] } })
     ∧ (∀ s pa, exec (.biconflictReceive pa false) s = .next s)
     ∧ (∀ s pa, let line := lineOf pa
         let t := { s with coh := { s.coh with failing := s.coh.failing.filter (fun e => e.2.1 != line) } }
         ((∀ e ∈ s.coh.failing, e.2.1 ≠ line) → exec (.memoryLineReturn pa) s = .next s)
         ∧ ∀ c va, s.coh.failing.filter (fun e => e.2.1 == line) = [(c, line, va)] →
             exec (.memoryLineReturn pa) s = .next (integrityFail t c va))
     ∧ (∀ s agent req, retiredAgent s agent = true → exec (.externalRequest agent req) s = .next (dropMsg s agent))
     ∧ ∀ s agent pa, peerLostAgent s agent = false → servable s pa = true → let line := lineOf pa
         let d := dirOf s line
         lineSt s line = d.st → settledLine s line = true →
         let joins (x : Dir) : Dir :=
           { x with home := true, ext := if agent ∈ d.ext ∨ 4 ≤ d.ext.length then d.ext else d.ext ++ [agent] }
         ((d.st = .s ∨ d.st = .i ∨ d.st = .o) → ∃ u, exec (.externalRequest agent (.read pa)) s = .next u ∧ u.mem = s.mem
             ∧ u.coh.l1 = s.coh.l1 ∧ dirOf u line = joins d)
         ∧ (∀ l, d.owner < 96 → l1Of s d.owner line = some l → (d.st = .e ∨ d.st = .m) →
             (l.st = .e → d.st = .e → ∃ u, exec (.externalRequest agent (.read pa)) s = .next u ∧ u.mem = s.mem
               ∧ l1Of u d.owner line = some { l with st := .s }
               ∧ dirOf u line = joins { d with st := .s, owner := 0, sharers := sharerBit d.owner })
             ∧ (l.st = .m → ∃ u, exec (.externalRequest agent (.read pa)) s = .next u ∧ u.mem = s.mem
               ∧ l1Of u d.owner line = some { l with st := .o } ∧ dirOf u line = joins { d with st := .o }))
         ∧ (∃ u, exec (.externalRequest agent (.getM pa)) s = .next u ∧ u.mem = s.mem
             ∧ dirOf u line = { Dir.init with st := .m, owner := agent } ∧ NoCopy u line)
         ∧ (∀ bs : List Byte, pa % 128 + bs.length ≤ 128 → ∃ u, exec (.externalRequest agent (.write pa bs)) s = .next u
             ∧ (∀ a, Tab.get 0 u.mem a = if pa ≤ a ∧ a < pa + bs.length then bs.getD (a - pa) 0 else Tab.get 0 s.mem a)
             ∧ NoCopy u line)
         ∧ (d.st = .m → d.owner = agent → ∃ u, exec (.externalRequest agent (.evict pa)) s = .next u
             ∧ dirOf u line = { d with st := .i, owner := 0 } ∧ u.coh.l1 = s.coh.l1 ∧ u.mem = s.mem)
         ∧ (d.owner ≠ agent → ∃ u, exec (.externalRequest agent (.evict pa)) s = .next u
             ∧ dirOf u line = { d with ext := d.ext.filter (· != agent) } ∧ u.coh.l1 = s.coh.l1 ∧ u.mem = s.mem))

/-- R405, R409, R410, R416, R421: the states of a port. Training ends `UP` with 8 lanes, `DEGRADED` with 4, else `FENCED`, as at its
timeout; a lost lane and 8 resends train a running port again; a fence holds until a reset, with no live agent routed through
it, makes the port `DOWN`; a CXL port goes `DOWN` with its link. Each change is logged; in any other state nothing changes. In
`RECOVERY` there are no links to train (R422). R268, R405, R408, R409, R411, R415, R426: what passes over the ports. A good flit
in sequence is taken, with its acknowledgement and credits, and another asks for a resend; the key of a link changes as
announced, that of a CXL port's stream as a session orders. A decoder that breaks its map is refused and logged. A fresh agent
takes the next ID, but not in `RECOVERY` (R422); one that is lost stays lost, and no held translation names a lost peer. -/
def Obligations.PortsLinksAndAgents : Prop :=
  (∀ s p, p < 12 → let x := portOf s p
     let to' (st : PortSt) : Port := { x with st := st, resends := 0, retry := if st = .fenced then [] else x.retry }
     (x.st = .down → s.boot.st ≠ .recovery → PortGoes (.portEnable p) s p (to' .training))
     ∧ (s.boot.st = .recovery → exec (.portEnable p) s = .next s) ∧ (x.st ≠ .down → exec (.portEnable p) s = .next s)
     ∧ (x.st = .training → (∀ n, PortGoes (.portTrainingEnd p n) s p (to' (if 8 ≤ n then .up else if 4 ≤ n then .degraded else .fenced)))
         ∧ PortGoes (.portTrainingTimeout p) s p (to' .fenced))
     ∧ (x.st ≠ .training → (∀ n, exec (.portTrainingEnd p n) s = .next s) ∧ exec (.portTrainingTimeout p) s = .next s)
     ∧ ((x.st = .up ∨ x.st = .degraded) → PortGoes (.portLaneLost p) s p (to' .training)
         ∧ (8 ≤ x.resends → PortGoes (.portResendLimit p) s p (to' .training))
         ∧ (x.resends < 8 → exec (.portResendLimit p) s = .next s)
         ∧ (p < 4 → PortGoes (.cxlPortDown p) s p (to' .down)))
     ∧ (x.st ≠ .up → x.st ≠ .degraded → exec (.portLaneLost p) s = .next s ∧ exec (.portResendLimit p) s = .next s
         ∧ exec (.cxlPortDown p) s = .next s)
     ∧ (x.st ≠ .fenced → PortGoes (.portFence p) s p (to' .fenced) ∧ exec (.portReset p) s = .next s)
     ∧ (x.st = .fenced → exec (.portFence p) s = .next s
         ∧ ((∀ e ∈ s.link.agents, e.2.live = true → agentPort e.2 ≠ p) → PortGoes (.portReset p) s p (to' .down))
         ∧ ((∃ e ∈ s.link.agents, e.2.live = true ∧ agentPort e.2 = p) → exec (.portReset p) s = .next s)))
  ∧ ((∀ s p f, 4 ≤ p → p < 12 → let x := portOf s p
       ((x.st = .up ∨ x.st = .degraded) →
         ((f.good = false ∨ f.seq ≠ x.rxNext) → PortKeeps (.glinorFlitReceive p f) s p { x with sendNak := true })
         ∧ (f.good = true → f.seq = x.rxNext → (f.ty ≠ 1 ∨ retiredId s f.agent.toNat = false) →
             ∃ y, PortKeeps (.glinorFlitReceive p f) s p y ∧ y.st = x.st ∧ y.rxNext = x.rxNext + 1 ∧ y.sendNak = false
               ∧ y.retry = x.retry.filter (fun g => !decide ((f.ack - g.seq).toNat < 2048))
               ∧ Tab.get 0 y.credits f.cls.toNat = Tab.get 0 x.credits f.cls.toNat + f.credits.toNat
               ∧ (f.ty = 2 → f.cls = 6 → y.nextKey = some (x.keyPhase + 1)))
         ∧ ∀ k, x.nextKey = some k → PortKeeps (.linkKeyChange p) s p { x with keyPhase := k, nextKey := none }))
     ∧ (∀ s p, p < 4 → Map.find s.boot.spdm p = some .session → let x := portOf s p
         PortKeeps (.ideKmRequest p .keyProg) s p { x with ide := 1 }
         ∧ (x.ide ≠ 0 → PortKeeps (.ideKmRequest p .keySetGo) s p { x with ide := 2 })
         ∧ (x.ide = 2 → PortKeeps (.ideKmRequest p .keySetStop) s p { x with ide := 1 }))
     ∧ (∀ s k en (base size : BitVec 23), k < 8 → let d : Decoder := { enable := en, base := base, size := size }
         let bad := en = true ∧ (base.toNat < 2 ^ 11 ∨ size = 0 ∨ ∃ e ∈ s.link.decoders, e.1 ≠ k ∧ e.2.enable = true ∧ decodersMeet e.2 d = true)
         (bad → exec (.poolDecoderWrite k en base size) s = .next (evLog s 3 0 k 0))
         ∧ (¬ bad → ∃ u, exec (.poolDecoderWrite k en base size) s = .next u ∧ Map.find u.link.decoders k = some d
             ∧ (∀ j, j ≠ k → Map.find u.link.decoders j = Map.find s.link.decoders j) ∧ u = { s with link := u.link }))
     ∧ (∀ s kind route, s.boot.st ≠ .recovery → s.link.nextAgent < 4096 → route % 16 < 12 → ∃ u, exec (.agentJoin kind route) s = .next u
         ∧ Map.find u.link.agents s.link.nextAgent = some { kind := kind, route := route, live := true }
         ∧ u.link.nextAgent = s.link.nextAgent + 1 ∧ (∀ j, j ≠ s.link.nextAgent → Map.find u.link.agents j = Map.find s.link.agents j)
         ∧ u = { s with link := u.link })
     ∧ ∀ s id cause a, Map.find s.link.agents id = some a →
         (a.live = false → exec (.peerLost id cause) s = .next s ∧ exec (.completionTimeout id) s = .next s)
         ∧ (a.live = true → ∃ u v, exec (.peerLost id cause) s = .next u ∧ exec (.completionTimeout id) s = .next v
             ∧ peerLostAgent u id = true ∧ peerLostAgent v id = true
             ∧ (a.kind = .peer → (∀ e ∈ u.vm.tlb ++ u.vm.tlb2, tlbPeer e id = false) ∧ ∀ e ∈ v.vm.tlb ++ v.vm.tlb2, tlbPeer e id = false)))

/-- R417 to R420, R295: the management commands on the mailbox and the MCTP paths: information, the pool's target up to the frames
that are not reserved, the log's indices, up to 4 of its records, its head, the sensors (free readings), a power limit from 600
to 2,400 W, and the ports' states. A bad argument is answered with status 2, and changes nothing. The words of an answer are log
9's. R424 (its order of states and its codes being those of log 9): the SPDM responder on a path. `GET_VERSION` starts anew;
capabilities, then algorithms, follow; with these agreed the identity, the challenge and the measurements are answered, and a
key exchange and its finish open a session, until it ends. -/
def Obligations.ManagementAndSpdm : Prop :=
  (∀ s, Served .getInfo s 1 (fun _ _ => (0, [s.boot.running, bootCode s.boot.st, s.vm.reserved, s.vm.poolTarget, pooledFrames s,
       (s.ctxs.filter (fun e => e.2.slot.isSome)).length], s))
     ∧ Served .setPoolTarget s 2 (fun a _ => if a ≤ frameLimit s then (0, [a], { s with vm := { s.vm with poolTarget := a } })
         else (2, [], s))
     ∧ Served .getLogState s 3 (fun _ _ => (0, [s.mgmt.logTail.toNat, s.mgmt.logHead.toNat, s.mgmt.logLost.toNat], s))
     ∧ Served .readLog s 4 (fun a b =>
         if 1 ≤ b ∧ b ≤ 4 ∧ (BitVec.ofNat 32 a - s.mgmt.logHead).toNat + b ≤ (s.mgmt.logTail - s.mgmt.logHead).toNat then
           (0, (List.range b).flatMap (fun i => logRecord s (a + i)), s)
         else (2, [], s))
     ∧ Served .setLogHead s 5 (fun a _ =>
         if (BitVec.ofNat 32 a - s.mgmt.logHead).toNat ≤ (s.mgmt.logTail - s.mgmt.logHead).toNat then
           (0, [], { s with mgmt := { s.mgmt with logHead := BitVec.ofNat 32 a } })
         else (2, [], s))
     ∧ Served .getSensors s 6 (fun _ _ => (0, (List.range 6).map (fun i => (Config.sensor (freeIdx s i)).toNat) ++ [s.mgmt.freqMHz], s))
     ∧ Served .setPowerLimit s 7 (fun a _ => if 600 ≤ a ∧ a ≤ 2400 then (0, [], { s with mgmt := { s.mgmt with powerLimit := a } })
         else (2, [], s))
     ∧ Served .getPorts s 8 (fun _ _ => (0, (List.range 12).map (fun p => portCode (portOf s p).st), s)))
  ∧ (∀ s path, path < 5 →
       let agreed (st : SpdmSt) : Prop := st = .negotiated ∨ st = .exchanged ∨ st = .session
       Spdm (.spdmGetVersion path) s path 0x04 (fun _ => True) (fun _ => .versioned)
       ∧ Spdm (.spdmGetCapabilities path) s path 0x61 (fun st => st = .versioned) (fun _ => .capable)
       ∧ Spdm (.spdmNegotiateAlgorithms path) s path 0x63 (fun st => st = .capable) (fun _ => .negotiated)
       ∧ Spdm (.spdmGetDigests path) s path 0x01 agreed id ∧ Spdm (.spdmGetCertificate path) s path 0x02 agreed id
       ∧ Spdm (.spdmChallenge path) s path 0x03 agreed id ∧ Spdm (.spdmGetMeasurements path) s path 0x60 agreed id
       ∧ Spdm (.spdmKeyExchange path) s path 0x64 (fun st => st = .negotiated) (fun _ => .exchanged)
       ∧ Spdm (.spdmFinish path) s path 0x65 (fun st => st = .exchanged) (fun _ => .session)
       ∧ Spdm (.spdmEndSession path) s path 0x6C (fun st => st = .session) (fun _ => .negotiated))

/-- R2, R19, R276, R419, R421, R422, R428: the mailbox and the boot. A request is written, and go takes what is written to it; done
is cleared; in `RECOVERY` the mailbox is not offered. A reset keeps the flash and the fuses, and of memory what is not the
device's own, and starts the first of the two images whose checks pass and whose version the fuses admit, else recovery.
Start-up ends once no eviction is in flight, and leaves the device operational. The clock takes a multiple of 100 MHz from 1,200
to 3,300, logged (that one change may move by several steps is the model's choice, log 16). R116, R255, R276, R281, R339: soft
errors and the write-back mode. One in an L1's tags kills the core; one in a line that is held dirty makes the line FOG, and
takes no other line's entry, and one in a clean line is found at its next access; one in scratch marks its byte; one in a latent
line faults the accumulator; a corrected one is logged (where its detail holds unit and bank is the model's choice, log 16). The
mode changes once no eviction is in flight. -/
def Obligations.BootModeAndSoftErrors : Prop :=
  ((∀ s (v : BitVec 128), s.boot.st ≠ .recovery → exec (.registerWrite .mailboxReq v) s = .next { s with mgmt := { s.mgmt with req := v } }
     ∧ exec (.registerWrite .mailboxGo v) s = .next { s with mgmt := { s.mgmt with go := v.getLsbD 0 } }
     ∧ exec .mailboxDoneClear s = .next { s with mgmt := { s.mgmt with done := false } })
   ∧ (∀ s v, s.boot.st = .recovery → exec (.registerWrite .mailboxReq v) s = .next s ∧ exec (.registerWrite .mailboxGo v) s = .next s
       ∧ exec .mailboxDoneClear s = .next s)
   ∧ (∀ s, ∃ u, exec .deviceReset s = .next u ∧ u.boot.flash = s.boot.flash ∧ u.ctxs = [] ∧ u.queues = [] ∧ u.waves = []
       ∧ u.groups = [] ∧ u.grids = [] ∧ u.accs = [] ∧ u.cores = [] ∧ u.mem = s.mem.filter (fun c => decide (2 ^ 38 ≤ c.1))
       ∧ (∀ a, imageOk s 0 = true → Map.find s.boot.flash 0 = some a →
           u.boot.st = .firmware ∧ u.boot.running = a.secVersion ∧ u.boot.fuseVersion = max s.boot.fuseVersion a.secVersion)
       ∧ (∀ a, imageOk s 0 = false → imageOk s 1 = true → Map.find s.boot.flash 1 = some a →
           u.boot.st = .firmware ∧ u.boot.running = a.secVersion ∧ u.boot.fuseVersion = max s.boot.fuseVersion a.secVersion)
       ∧ (imageOk s 0 = false → imageOk s 1 = false → u.boot.st = .recovery ∧ u.boot.fuseVersion = s.boot.fuseVersion))
   ∧ (∀ s, (s.boot.st = .firmware → evicting s = true → exec .startUpComplete s = .next s)
       ∧ (s.boot.st = .firmware → evicting s = false → ∃ u, exec .startUpComplete s = .next u ∧ u.boot = { s.boot with st := .operational }
         ∧ u.coh.wbMode = false ∧ u = { s with boot := u.boot, coh := u.coh, mgmt := u.mgmt })
       ∧ (s.boot.st ≠ .firmware → exec .startUpComplete s = .next s))
   ∧ (∀ s slot img, slot < 2 →
       ((s.boot.st = .operational ∨ s.boot.st = .recovery) → ∃ u, exec (.flashImageWrite slot img) s = .next u
         ∧ Map.find u.boot.flash slot = some img ∧ (∀ k, k ≠ slot → Map.find u.boot.flash k = Map.find s.boot.flash k)
         ∧ u = { s with boot := { s.boot with flash := u.boot.flash } }))
   ∧ ∀ s mhz, mhz % 100 = 0 → 1200 ≤ mhz → mhz ≤ 3300 → mhz ≠ s.mgmt.freqMHz → ∃ u, exec (.frequencyChange mhz) s = .next u
       ∧ u.mgmt.freqMHz = mhz ∧ u.mgmt.logTail = s.mgmt.logTail + 1
       ∧ Map.find u.mgmt.log (s.mgmt.logTail.toNat % 4096) = some { code := 1, agent := 0, time := s.clock, a := BitVec.ofNat 32 mhz,
                                                                    b := BitVec.ofNat 32 s.mgmt.freqMHz }
       ∧ u = { s with mgmt := u.mgmt })
  ∧ ((∀ s core, core < 96 → exec (.uncorrectableSoftError (.l1Tags core)) s = .next (coreDead s core 1))
     ∧ (∀ s core line, haloOwner s line = none →
         (holdsDirty s core line = true → ∃ u, exec (.uncorrectableSoftError (.l1Line core line)) s = .next u
           ∧ dirOf u line = { Dir.init with fog := true } ∧ (∀ k, k ≠ line → dirOf u k = dirOf s k)
           ∧ (∀ e ∈ u.coh.l1, e.1 % 2 ^ 64 ≠ line) ∧ u = { s with coh := u.coh })
         ∧ (holdsDirty s core line = false →
             (∀ l, l1Of s core line = some l → (l.st = .s ∨ l.st = .e) → ∃ u, exec (.uncorrectableSoftError (.l1Line core line)) s = .next u
               ∧ l1Of u core line = some { l with bad := true } ∧ u = { s with coh := { s.coh with l1 := u.coh.l1 } })
             ∧ ((l1Of s core line = none ∨ ∃ l, l1Of s core line = some l ∧ l.st ≠ .s ∧ l.st ≠ .e) →
                 exec (.uncorrectableSoftError (.l1Line core line)) s = .next s)))
     ∧ (∀ s gid off g, groupOf s gid = some g → off < g.scratchBytes → off ∉ g.bad →
         ∃ u, exec (.uncorrectableSoftError (.scratch gid off)) s = .next u ∧ groupOf u gid = some { g with bad := g.bad ++ [off] }
           ∧ (∀ k, k ≠ gid → groupOf u k = groupOf s k) ∧ u = { s with groups := u.groups })
     ∧ (∀ s line,
         ((∀ e ∈ s.accs, accHas e.2 line = false) → exec (.uncorrectableSoftError (.latent line)) s = .next s)
         ∧ ∀ k a, s.accs.find? (fun e => (e.2.st == .opened || e.2.st == .draining) && accHas e.2 line) = some (k, a) →
             exec (.uncorrectableSoftError (.latent line)) s = .next (accBreak s k .softError))
     ∧ (∀ s ctx core unit bank, exec (.correctableSoftError ctx core unit bank) s = .next (logError s ctx 5 unit core 0 0 (unit + 16 * bank)))
     ∧ ∀ s on, (evicting s = true → exec (.modeChange on) s = .next s)
         ∧ (evicting s = false → ∃ u, exec (.modeChange on) s = .next u ∧ u.coh.wbMode = on
             ∧ u = { s with coh := { s.coh with wbMode := on }, mgmt := u.mgmt } ∧ (s.coh.wbMode = on → u = s)))

/-- R24, R25, R32, R48, R160, R168: a step runs the decoded word. Where the next turn is a fragment's, and the bytes at its pc
decode to `i` (four of them, and four more for `SLI`), the step is the meaning of `i` over the state that the fetch leaves, with
time gone on; so for a strip's twelve bytes at L-code base + 12 * (lcidx + offset). The word must lie in its wave's bounds (R41)
and not be held back. A device event's turn is its meaning. -/
def Obligations.StepRunsDecoded : Prop :=
  (∀ s core slot b rest w f t key l2 i u v, s.turns = .s core slot b :: rest →
    let s1 := { nextTime { s with turns := rest } with cur := { core := core, slot := slot, b := b } }
    Issues s1 w f → fragRuns w f = true → f.wait ≠ .waitaOut → f.wait ≠ .dogOut → dueFault s1 w b = none → f.pc.toNat % 4 = 0 →
    access s1 w.core w.slot (ctxIdOf s1 w.gid) w.priv f.pc.toNat 4 .fetch false = (t, .ok key) →
    (numOf (lookBytes t key 4) / 2 ^ 26 ≠ 0x3E ∧ u = t ∧ l2 = []
      ∨ numOf (lookBytes t key 4) / 2 ^ 26 = 0x3E ∧ fetchParts t w (f.pc.toNat + 4) 1 = (u, .ok l2)) →
    decodeScalarBytes (lookBytes t key 4 ++ l2) = .ok i →
    (namedUse i).within (scalarBound w) w.valloc = true → heldBack u w (useOf i) = false → fenceHolds w i = false →
    (pushFirst i && fenceWaits u w i) = false → pushStep u core (pushFirst i) = (v, false) →
    step s = exec i (putWave v { w with starved := false }))
  ∧ (∀ s core slot rest w p ps u l i v, s.turns = .l core slot :: rest →
      let s0 := nextTime { s with turns := rest }
      let s1 := { s0 with cur := { core := core, slot := slot, b := p.b } }
      waveAt s0 core slot = some w → w.strips = p :: ps → laneRuns w = true →
      fetchParts s1 w (laneAddr w p w.headOff) 3 = (u, .ok l) → decodeLaneBytes l = .ok i →
      (useOf i).within (scalarBound w) w.valloc = true → (meets (useOf i).vw (mmaReads w) || laneHeld w i) = false →
      pipeFull u w i = false → finderFull u core i = false → recordsFull w i = false → pushStep u core (lanePushFirst i) = (v, false) →
      step s = exec i (putWave v { w with starved := false }))
  ∧ ∀ s i rest, s.turns = .ev i :: rest → isEvent i = true → step s = exec i (nextTime { s with turns := rest })

/-- R24 to R40: words written out from the encodings, one of each format and major family, decode to the words they stand for; a
reserved major, a nonzero reserved field, an odd pair and a register past `s191` do not. -/
def Obligations.WordsDecode : Prop :=
  decodeScalar 0x00282832 0 = .ok (.sadd .i64 10 10 12) ∧ decodeScalar 0x40141BFD 0 = .ok (.saddImm 5 6 0x3FD)
  ∧ decodeScalar 0x80BFFFFB 0 = .ok (.bc .ne 0x3FFFFB) ∧ decodeScalar 0xC0302010 0 = .ok (.sld 12 8 16)
  ∧ decodeScalar 0xF4000005 0 = .ok (.svc 5) ∧ decodeScalar 0xF8040000 0x12345678 = .ok (.sli .w32 1 0x12345678)
  ∧ decodeLane 0x08030202_83000A00_00000000#96 = .ok (.fadd { guard := 3, stop := false, vd := 4, va := 5, vb := 6, vc := 0, ty := .f32, mods := 0, selC := .reg, selB := .reg, selA := .reg, imm := 0 })
  ∧ decodeScalar 0xFC000000 0 = .error .reservedCode ∧ decodeScalar 0x9C000000 0 = .error .reservedCode
  ∧ decodeScalar 0x98000402 0 = .error .reservedField ∧ decodeScalar 0x002C2832 0 = .error .badOperand ∧ decodeScalar 0x03200404 0 = .error .badOperand
  ∧ decodeScalar 0x40141800#32 0 = .ok (.saddImm 5 6 0)

/-- R1, R2, R19, R110, R117, R118, R135, R151, R276, R420, R422, R423: the machine at reset. The boot ROM is about to run; no
context, queue, grid, group, wave or accumulator is there; every queue's registers are 0, and it is `DISABLED`; the banks are
`CACHE` and unheld; the logs are empty, the measurements cleared, the clock 0 and write-back-and-answer mode on. Memory reads 0
throughout, which is the model's choice (log 1), as are the clock's rate, the power limit and the reserved frames (log 12). -/
def Obligations.ResetState : Prop :=
  let s := State.reset
  MemOk s ∧ (∀ a, Tab.get 0 s.mem a = (0 : Byte)) ∧ s.boot.st = .rom ∧ s.boot.measure = [] ∧ s.clock = 0 ∧ s.coh.wbMode = true
  ∧ s.waves = [] ∧ s.groups = [] ∧ s.grids = [] ∧ s.ctxs = [] ∧ s.accs = [] ∧ s.placeP = 0
  ∧ (∀ q, let x := queueOf s q
      x.st = .disabled ∧ x.enable = false ∧ x.qbase = 0 ∧ x.cls = 0 ∧ x.admin = false ∧ x.ctxId = 0 ∧ x.sizeOrder = 0 ∧ x.head = 0
      ∧ x.tail = 0 ∧ x.saveOff = 0 ∧ x.saveLen = 0 ∧ x.err = 0 ∧ x.errIdx = 0)
  ∧ (∀ c i, (bankOf (coreOf s c) i).mode = .cache ∧ (bankOf (coreOf s c) i).hold = false)
  ∧ s.mgmt.go = false ∧ s.mgmt.done = false ∧ s.mgmt.req = 0 ∧ s.mgmt.logTail = 0 ∧ s.mgmt.logHead = 0 ∧ s.mgmt.logLost = 0
  ∧ s.mgmt.freqMHz = 3300 ∧ s.mgmt.powerLimit = 2400 ∧ s.vm.reserved = 1024

/-- R24 to R40: for every instruction that keeps R40, the decoder reads back exactly it from the word, the two words or the lane
word that the encodings give it, with every operand, mode bit and modifier at every value they admit; only `SLI` takes the word
behind it. -/
def Obligations.EncodedWordsDecode : Prop :=
  ∀ i, wellFormed i = true →
    (∀ w, encode i = some (.word w) → ∀ next, decodeScalar w next = .ok i)
    ∧ (∀ w n, encode i = some (.long w n) → decodeScalar w n = .ok i)
    ∧ (∀ w, encode i = some (.lane w) → decodeLane w = .ok i)

/-- R40: the decoder accepts no word but an instruction's own: what it reads keeps R40, and its encoding is the word read, so that
no reserved code, no reserved field and no field its form does not use passes. -/
def Obligations.DecodedWordsAreExact : Prop :=
  (∀ w next i, decodeScalar w next = .ok i → wellFormed i = true ∧ (encode i = some (.word w) ∨ encode i = some (.long w next)))
  ∧ ∀ w i, decodeLane w = .ok i → wellFormed i = true ∧ encode i = some (.lane w)
end

