-- ==== Sys2Proof/Laws/Decode.lean ====
section
/-! SUPPORT. Laws/Decode.lean: the fields of packed words read back (R24, R32, R36, R37). -/

namespace Sys2Proof.Laws

open Sys2Proof Machine

theorem toNat_append {n m : Nat} (x : BitVec n) (y : BitVec m) : (x ++ y).toNat = x.toNat * 2 ^ m + y.toNat := by
  rw [BitVec.toNat_append, Nat.shiftLeft_eq, Nat.mul_comm]
  exact (Nat.two_pow_add_eq_or_of_lt y.isLt x.toNat).symm

theorem toNat_extract {n : Nat} (x : BitVec n) (s l : Nat) : (x.extractLsb' s l).toNat = x.toNat / 2 ^ s % 2 ^ l := by
  simp [BitVec.extractLsb'_toNat, Nat.shiftRight_eq_div_pow]

theorem extract_hi {n m : Nat} (x : BitVec n) (y : BitVec m) : (x ++ y).extractLsb' m n = x := by
  apply BitVec.eq_of_toNat_eq
  rw [toNat_extract, toNat_append, Nat.add_comm, Nat.add_mul_div_right _ _ (by positivity), Nat.div_eq_of_lt y.isLt, Nat.zero_add,
    Nat.mod_eq_of_lt x.isLt]

theorem extract_lo {n m : Nat} (x : BitVec n) (y : BitVec m) : (x ++ y).extractLsb' 0 m = y := by
  apply BitVec.eq_of_toNat_eq; rw [toNat_extract, toNat_append]; simp

theorem getLsb_div {n : Nat} (x : BitVec n) (i : Nat) : x.getLsbD i = decide (x.toNat / 2 ^ i % 2 = 1) := by
  rw [← BitVec.testBit_toNat, Nat.testBit_eq_decide_div_mod_eq]

/-- A bit that was packed from a Bool. -/
theorem bit_of {n i : Nat} {x : BitVec n} {b : Bool} (h : x.toNat / 2 ^ i % 2 = (b1 b).toNat) : x.getLsbD i = b := by
  rw [getLsb_div, h]; cases b <;> rfl

/-! ## Scalar words -/

theorem packS_toNat (m : BitVec 6) (d a : BitVec 8) (f : BitVec 10) :
    (packS m d a f).toNat = m.toNat * 2 ^ 26 + d.toNat * 2 ^ 18 + a.toNat * 2 ^ 10 + f.toNat := by
  have h : (packS m d a f).toNat = (m ++ d ++ a ++ f).toNat := rfl
  rw [h, toNat_append, toNat_append, toNat_append]; omega

@[simp] theorem sMaj_packS (m : BitVec 6) (d a : BitVec 8) (f : BitVec 10) : sMaj (packS m d a f) = m := by
  apply BitVec.eq_of_toNat_eq; rw [sMaj, toNat_extract, packS_toNat]
  have := m.isLt; have := d.isLt; have := a.isLt; have := f.isLt; omega

@[simp] theorem sD_packS (m : BitVec 6) (d a : BitVec 8) (f : BitVec 10) : sD (packS m d a f) = d := by
  apply BitVec.eq_of_toNat_eq; rw [sD, toNat_extract, packS_toNat]
  have := m.isLt; have := d.isLt; have := a.isLt; have := f.isLt; omega

@[simp] theorem sA_packS (m : BitVec 6) (d a : BitVec 8) (f : BitVec 10) : sA (packS m d a f) = a := by
  apply BitVec.eq_of_toNat_eq; rw [sA, toNat_extract, packS_toNat]
  have := m.isLt; have := d.isLt; have := a.isLt; have := f.isLt; omega

@[simp] theorem sF_packS (m : BitVec 6) (d a : BitVec 8) (f : BitVec 10) : sF (packS m d a f) = f := by
  apply BitVec.eq_of_toNat_eq; rw [sF, toNat_extract, packS_toNat]
  have := m.isLt; have := d.isLt; have := a.isLt; have := f.isLt; omega

theorem packSB_toNat (m : BitVec 6) (c : BitVec 4) (o : BitVec 22) :
    (packSB m c o).toNat = m.toNat * 2 ^ 26 + c.toNat * 2 ^ 22 + o.toNat := by
  have h : (packSB m c o).toNat = (m ++ c ++ o).toNat := rfl
  rw [h, toNat_append, toNat_append]; omega

@[simp] theorem sMaj_packSB (m : BitVec 6) (c : BitVec 4) (o : BitVec 22) : sMaj (packSB m c o) = m := by
  apply BitVec.eq_of_toNat_eq; rw [sMaj, toNat_extract, packSB_toNat]
  have := m.isLt; have := c.isLt; have := o.isLt; omega

@[simp] theorem cond_packSB (m : BitVec 6) (c : BitVec 4) (o : BitVec 22) : (packSB m c o).extractLsb' 22 4 = c := by
  apply BitVec.eq_of_toNat_eq; rw [toNat_extract, packSB_toNat]
  have := m.isLt; have := c.isLt; have := o.isLt; omega

@[simp] theorem off_packSB (m : BitVec 6) (c : BitVec 4) (o : BitVec 22) : (packSB m c o).extractLsb' 0 22 = o := by
  apply BitVec.eq_of_toNat_eq; rw [toNat_extract, packSB_toNat]
  have := m.isLt; have := c.isLt; have := o.isLt; omega

/-! ## Lane words -/

theorem packL_toNat (op : BitVec 10) (w : LWord) : (packL op w).toNat =
    (((((((((((op.toNat * 2 ^ 4 + w.guard.toNat) * 2 ^ 1 + (b1 w.stop).toNat) * 2 ^ 8 + w.vd.toNat) * 2 ^ 8 + w.va.toNat) * 2 ^ 8
      + w.vb.toNat) * 2 ^ 8 + w.vc.toNat) * 2 ^ 7 + (ltypeCode w.ty).toNat) * 2 ^ 2 + w.mods.toNat) * 2 ^ 2 + (selCode w.selC).toNat)
      * 2 ^ 2 + (selCode w.selB).toNat) * 2 ^ 2 + (selCode w.selA).toNat) * 2 ^ 32 + w.imm.toNat := by
  have h : (packL op w).toNat = ((0 : BitVec 2) ++ op ++ w.guard ++ b1 w.stop ++ w.vd ++ w.va ++ w.vb ++ w.vc ++ ltypeCode w.ty
    ++ w.mods ++ selCode w.selC ++ selCode w.selB ++ selCode w.selA ++ w.imm).toNat := rfl
  simp only [h, toNat_append]; simp

/-- A field of an L-format word, as a quotient and remainder. -/
theorem packL_bounds (op : BitVec 10) (w : LWord) : op.toNat < 2 ^ 10 ∧ w.guard.toNat < 2 ^ 4 ∧ (b1 w.stop).toNat < 2 ^ 1
    ∧ w.vd.toNat < 2 ^ 8 ∧ w.va.toNat < 2 ^ 8 ∧ w.vb.toNat < 2 ^ 8 ∧ w.vc.toNat < 2 ^ 8 ∧ (ltypeCode w.ty).toNat < 2 ^ 7
    ∧ w.mods.toNat < 2 ^ 2 ∧ (selCode w.selC).toNat < 2 ^ 2 ∧ (selCode w.selB).toNat < 2 ^ 2 ∧ (selCode w.selA).toNat < 2 ^ 2
    ∧ w.imm.toNat < 2 ^ 32 :=
  ⟨op.isLt, w.guard.isLt, (b1 w.stop).isLt, w.vd.isLt, w.va.isLt, w.vb.isLt, w.vc.isLt, (ltypeCode w.ty).isLt, w.mods.isLt,
    (selCode w.selC).isLt, (selCode w.selB).isLt, (selCode w.selA).isLt, w.imm.isLt⟩

theorem fieldsL_packL (op : BitVec 10) (w : LWord) : fieldsL (packL op w) w.ty = w := by
  have hb := packL_bounds op w
  have e := packL_toNat op w
  have f0 : (packL op w).extractLsb' 80 4 = w.guard := BitVec.eq_of_toNat_eq (by rw [toNat_extract, e]; omega)
  have f1 : (packL op w).getLsbD 79 = w.stop := bit_of (by rw [e]; omega)
  have f2 : (packL op w).extractLsb' 71 8 = w.vd := BitVec.eq_of_toNat_eq (by rw [toNat_extract, e]; omega)
  have f3 : (packL op w).extractLsb' 63 8 = w.va := BitVec.eq_of_toNat_eq (by rw [toNat_extract, e]; omega)
  have f4 : (packL op w).extractLsb' 55 8 = w.vb := BitVec.eq_of_toNat_eq (by rw [toNat_extract, e]; omega)
  have f5 : (packL op w).extractLsb' 47 8 = w.vc := BitVec.eq_of_toNat_eq (by rw [toNat_extract, e]; omega)
  have f6 : (packL op w).extractLsb' 38 2 = w.mods := BitVec.eq_of_toNat_eq (by rw [toNat_extract, e]; omega)
  have f7 : ((packL op w).extractLsb' 36 2) = selCode w.selC := BitVec.eq_of_toNat_eq (by rw [toNat_extract, e]; omega)
  have f8 : ((packL op w).extractLsb' 34 2) = selCode w.selB := BitVec.eq_of_toNat_eq (by rw [toNat_extract, e]; omega)
  have f9 : ((packL op w).extractLsb' 32 2) = selCode w.selA := BitVec.eq_of_toNat_eq (by rw [toNat_extract, e]; omega)
  have fi : ((packL op w).extractLsb' 0 32) = w.imm := BitVec.eq_of_toNat_eq (by rw [toNat_extract, e]; omega)
  have hsel : ∀ s : Sel, selOf (selCode s).toNat = s := by intro s; cases s <;> rfl
  simp only [fieldsL, f0, f1, f2, f3, f4, f5, f6, f7, f8, f9, fi, hsel]

@[simp] theorem ltypeOf_code (t : LType) : ltypeOf (ltypeCode t).toNat = some t := by cases t <;> rfl
@[simp] theorem scopeOf_code (c : Scope) : scopeOf (scopeCode c).toNat = some c := by cases c <;> rfl
@[simp] theorem lorderOf_code (o : LOrder) : lorderOf (lorderCode o).toNat = some o := by cases o <;> rfl

/-- An L-format word's fields come back. -/
theorem parseL_packL (op : BitVec 10) (w : LWord) : parseL (packL op w) = lOf op.toNat w := by
  have hb := packL_bounds op w
  have e := packL_toNat op w
  have h0 : ((packL op w).extractLsb' 94 2).toNat = 0 := by rw [toNat_extract, e]; omega
  have h1 : (packL op w).extractLsb' 84 10 = op := BitVec.eq_of_toNat_eq (by rw [toNat_extract, e]; omega)
  have h2 : (packL op w).extractLsb' 40 7 = ltypeCode w.ty := BitVec.eq_of_toNat_eq (by rw [toNat_extract, e]; omega)
  simp only [parseL, h0, h1, h2, ltypeOf_code, Option.bind_some, fieldsL_packL]

theorem packLX_toNat (op : BitVec 10) (w : LXWord) : (packLX op w).toNat =
    (((((((((((((2 * 2 ^ 10 + op.toNat) * 2 ^ 4 + w.guard.toNat) * 2 ^ 1 + (b1 w.stop).toNat) * 2 ^ 8 + w.vd.toNat) * 2 ^ 8 + w.va.toNat)
      * 2 ^ 8 + w.vb.toNat) * 2 ^ 8 + w.sbase.toNat) * 2 ^ 7 + (ltypeCode w.ty).toNat) * 2 ^ 3 + (scopeCode w.scope).toNat) * 2 ^ 3
      + (lorderCode w.order).toNat) * 2 ^ 2 + w.scale.toNat) * 2 ^ 1 + (b1 w.claim).toNat) * 2 ^ 1 + (b1 w.nov).toNat) * 2 ^ 30
      + w.aux.toNat * 2 ^ 24 + w.imm24.toNat := by
  have h : (packLX op w).toNat = ((2 : BitVec 2) ++ op ++ w.guard ++ b1 w.stop ++ w.vd ++ w.va ++ w.vb ++ w.sbase ++ ltypeCode w.ty
    ++ scopeCode w.scope ++ lorderCode w.order ++ w.scale ++ b1 w.claim ++ b1 w.nov ++ w.aux ++ w.imm24).toNat := rfl
  simp only [h, toNat_append]
  simp only [show ((2 : BitVec 2).toNat) = 2 from rfl]
  ring

theorem packLX_bounds (op : BitVec 10) (w : LXWord) : op.toNat < 2 ^ 10 ∧ w.guard.toNat < 2 ^ 4 ∧ (b1 w.stop).toNat < 2 ^ 1
    ∧ w.vd.toNat < 2 ^ 8 ∧ w.va.toNat < 2 ^ 8 ∧ w.vb.toNat < 2 ^ 8 ∧ w.sbase.toNat < 2 ^ 8 ∧ (ltypeCode w.ty).toNat < 2 ^ 7
    ∧ (scopeCode w.scope).toNat < 2 ^ 3 ∧ (lorderCode w.order).toNat < 2 ^ 3 ∧ w.scale.toNat < 2 ^ 2 ∧ (b1 w.claim).toNat < 2 ^ 1
    ∧ (b1 w.nov).toNat < 2 ^ 1 ∧ w.aux.toNat < 2 ^ 6 ∧ w.imm24.toNat < 2 ^ 24 :=
  ⟨op.isLt, w.guard.isLt, (b1 w.stop).isLt, w.vd.isLt, w.va.isLt, w.vb.isLt, w.sbase.isLt, (ltypeCode w.ty).isLt, (scopeCode w.scope).isLt,
    (lorderCode w.order).isLt, w.scale.isLt, (b1 w.claim).isLt, (b1 w.nov).isLt, w.aux.isLt, w.imm24.isLt⟩

theorem fieldsLX_packLX (op : BitVec 10) (w : LXWord) : fieldsLX (packLX op w) w.ty w.scope w.order = w := by
  have hb := packLX_bounds op w
  have e := packLX_toNat op w
  have f0 : (packLX op w).extractLsb' 80 4 = w.guard := BitVec.eq_of_toNat_eq (by rw [toNat_extract, e]; omega)
  have f1 : (packLX op w).getLsbD 79 = w.stop := bit_of (by rw [e]; omega)
  have f2 : (packLX op w).extractLsb' 71 8 = w.vd := BitVec.eq_of_toNat_eq (by rw [toNat_extract, e]; omega)
  have f3 : (packLX op w).extractLsb' 63 8 = w.va := BitVec.eq_of_toNat_eq (by rw [toNat_extract, e]; omega)
  have f4 : (packLX op w).extractLsb' 55 8 = w.vb := BitVec.eq_of_toNat_eq (by rw [toNat_extract, e]; omega)
  have f5 : (packLX op w).extractLsb' 47 8 = w.sbase := BitVec.eq_of_toNat_eq (by rw [toNat_extract, e]; omega)
  have f6 : (packLX op w).extractLsb' 32 2 = w.scale := BitVec.eq_of_toNat_eq (by rw [toNat_extract, e]; omega)
  have f7 : (packLX op w).getLsbD 31 = w.claim := bit_of (by rw [e]; omega)
  have f8 : (packLX op w).getLsbD 30 = w.nov := bit_of (by rw [e]; omega)
  have f9 : (packLX op w).extractLsb' 24 6 = w.aux := BitVec.eq_of_toNat_eq (by rw [toNat_extract, e]; omega)
  have fi : (packLX op w).extractLsb' 0 24 = w.imm24 := BitVec.eq_of_toNat_eq (by rw [toNat_extract, e]; omega)
  simp only [fieldsLX, f0, f1, f2, f3, f4, f5, f6, f7, f8, f9, fi]

/-- An LX-format word's fields come back. -/
theorem parseL_packLX (op : BitVec 10) (w : LXWord) : parseL (packLX op w) = lxOf op.toNat w := by
  have hb := packLX_bounds op w
  have e := packLX_toNat op w
  have h0 : ((packLX op w).extractLsb' 94 2).toNat = 2 := by rw [toNat_extract, e]; omega
  have h1 : (packLX op w).extractLsb' 84 10 = op := BitVec.eq_of_toNat_eq (by rw [toNat_extract, e]; omega)
  have h2 : (packLX op w).extractLsb' 40 7 = ltypeCode w.ty := BitVec.eq_of_toNat_eq (by rw [toNat_extract, e]; omega)
  have h3 : (packLX op w).extractLsb' 37 3 = scopeCode w.scope := BitVec.eq_of_toNat_eq (by rw [toNat_extract, e]; omega)
  have h4 : (packLX op w).extractLsb' 34 3 = lorderCode w.order := BitVec.eq_of_toNat_eq (by rw [toNat_extract, e]; omega)
  simp only [parseL, h0, h1, h2, h3, h4, ltypeOf_code, scopeOf_code, lorderOf_code, fieldsLX_packLX]

/-! ## Halves of a pair -/

theorem packHalf_toNat (h : PHalf) : (packHalf h).toNat =
    ((((((((popCode h.op).toNat * 2 ^ 3 + h.guard.toNat) * 2 ^ 1 + (b1 h.stop).toNat) * 2 ^ 8 + h.vd.toNat) * 2 ^ 8 + h.va.toNat) * 2 ^ 8
      + h.vb.toNat) * 2 ^ 4 + (ltypeCode h.ty).toNat % 2 ^ 4) * 2 ^ 2 + (pselCode h.sel).toNat) * 2 ^ 6 + h.flags.toNat * 2 ^ 4 := by
  have e : (packHalf h).toNat = (popCode h.op ++ h.guard ++ b1 h.stop ++ h.vd ++ h.va ++ h.vb ++ (ltypeCode h.ty).extractLsb' 0 4
    ++ pselCode h.sel ++ h.flags ++ (0 : BitVec 4)).toNat := rfl
  simp only [e, toNat_append, toNat_extract]
  simp only [show ((0 : BitVec 4).toNat) = 0 from rfl, Nat.pow_zero, Nat.div_one]
  ring

@[simp] theorem popOf_code (o : POp) : popOf (popCode o).toNat = some o := by cases o <;> rfl
@[simp] theorem pselOf_code (s : PSel) : pselOf (pselCode s).toNat = some s := by cases s <;> rfl

/-- A legal half's fields come back. -/
theorem fieldsHalf_packHalf (h : PHalf) (ok : halfOk h = true) : fieldsHalf (packHalf h) = some h := by
  have b1' := (popCode h.op).isLt
  have b2 := h.guard.isLt
  have b3 := (b1 h.stop).isLt
  have b4 := h.vd.isLt
  have b5 := h.va.isLt
  have b6 := h.vb.isLt
  have b7 := (pselCode h.sel).isLt
  have b8 := h.flags.isLt
  have b9 : (ltypeCode h.ty).toNat < 2 ^ 4 := by
    unfold halfOk at ok
    cases ht : h.ty <;> rw [ht] at ok <;> first | decide | (exfalso; revert ok; cases popFloat h.op <;> simp)
  have e := packHalf_toNat h
  have f0 : (packHalf h).extractLsb' 40 7 = popCode h.op := BitVec.eq_of_toNat_eq (by rw [toNat_extract, e]; omega)
  have f1 : (packHalf h).extractLsb' 37 3 = h.guard := BitVec.eq_of_toNat_eq (by rw [toNat_extract, e]; omega)
  have f2 : (packHalf h).getLsbD 36 = h.stop := bit_of (by rw [e]; omega)
  have f3 : (packHalf h).extractLsb' 28 8 = h.vd := BitVec.eq_of_toNat_eq (by rw [toNat_extract, e]; omega)
  have f4 : (packHalf h).extractLsb' 20 8 = h.va := BitVec.eq_of_toNat_eq (by rw [toNat_extract, e]; omega)
  have f5 : (packHalf h).extractLsb' 12 8 = h.vb := BitVec.eq_of_toNat_eq (by rw [toNat_extract, e]; omega)
  have f6 : ((packHalf h).extractLsb' 8 4).toNat = (ltypeCode h.ty).toNat := by rw [toNat_extract, e]; omega
  have f7 : (packHalf h).extractLsb' 6 2 = pselCode h.sel := BitVec.eq_of_toNat_eq (by rw [toNat_extract, e]; omega)
  have f8 : (packHalf h).extractLsb' 4 2 = h.flags := BitVec.eq_of_toNat_eq (by rw [toNat_extract, e]; omega)
  simp only [fieldsHalf, f0, f1, f2, f3, f4, f5, f6, f7, f8, popOf_code, ltypeOf_code, pselOf_code]

/-- A P-format word's halves come back. -/
theorem parseL_packP (x y : PHalf) (hx : halfOk x = true) (hy : halfOk y = true) : parseL (packP x y) = some (.lanePair x y) := by
  have e : (packP x y).toNat = (2 ^ 47 + (packHalf x).toNat) * 2 ^ 47 + (packHalf y).toNat := by
    have e' : (packP x y).toNat = ((1 : BitVec 2) ++ packHalf x ++ packHalf y).toNat := rfl
    simp only [e', toNat_append]; simp
  have h1 := (packHalf x).isLt
  have h2 := (packHalf y).isLt
  have f0 : ((packP x y).extractLsb' 94 2).toNat = 1 := by rw [toNat_extract, e]; omega
  have f1 : (packP x y).extractLsb' 47 47 = packHalf x := BitVec.eq_of_toNat_eq (by rw [toNat_extract, e]; omega)
  have f2 : (packP x y).extractLsb' 0 47 = packHalf y := BitVec.eq_of_toNat_eq (by rw [toNat_extract, e]; omega)
  simp only [parseL, f0, f1, f2, fieldsHalf_packHalf x hx, fieldsHalf_packHalf y hy]

end Sys2Proof.Laws
end

