-- ==== Sys2Proof/Laws/Exec.lean ====
section
/-! SUPPORT. Laws/Exec.lean: each arm of `exec`, so that no proof unfolds the dispatch. -/

namespace Sys2Proof.Machine

@[simp] theorem exec_sadd (t d a b) (s : State) : exec (.sadd t d a b) s = execSadd t d a b s := rfl
@[simp] theorem exec_ssub (t d a b) (s : State) : exec (.ssub t d a b) s = execSsub t d a b s := rfl
@[simp] theorem exec_smul (t d a b) (s : State) : exec (.smul t d a b) s = execSmul t d a b s := rfl
@[simp] theorem exec_smulh (t d a b) (s : State) : exec (.smulh t d a b) s = execSmulh t d a b s := rfl
@[simp] theorem exec_sdiv (t d a b) (s : State) : exec (.sdiv t d a b) s = execSdiv t d a b s := rfl
@[simp] theorem exec_srem (t d a b) (s : State) : exec (.srem t d a b) s = execSrem t d a b s := rfl
@[simp] theorem exec_sand (t d a b) (s : State) : exec (.sand t d a b) s = execSand t d a b s := rfl
@[simp] theorem exec_sor (t d a b) (s : State) : exec (.sor t d a b) s = execSor t d a b s := rfl
@[simp] theorem exec_sxor (t d a b) (s : State) : exec (.sxor t d a b) s = execSxor t d a b s := rfl
@[simp] theorem exec_sandn (t d a b) (s : State) : exec (.sandn t d a b) s = execSandn t d a b s := rfl
@[simp] theorem exec_sshl (t d a b) (s : State) : exec (.sshl t d a b) s = execSshl t d a b s := rfl
@[simp] theorem exec_sshr (wide d a b) (s : State) : exec (.sshr wide d a b) s = execSshr wide d a b s := rfl
@[simp] theorem exec_ssar (wide d a b) (s : State) : exec (.ssar wide d a b) s = execSsar wide d a b s := rfl
@[simp] theorem exec_smin (t d a b) (s : State) : exec (.smin t d a b) s = execSmin t d a b s := rfl
@[simp] theorem exec_smax (t d a b) (s : State) : exec (.smax t d a b) s = execSmax t d a b s := rfl
@[simp] theorem exec_scmp (t a b) (s : State) : exec (.scmp t a b) s = execScmp t a b s := rfl
@[simp] theorem exec_saddc (t d a b) (s : State) : exec (.saddc t d a b) s = execSaddc t d a b s := rfl
@[simp] theorem exec_saddImm (d a i_) (s : State) : exec (.saddImm d a i_) s = execSaddImm d a i_ s := rfl
@[simp] theorem exec_smulImm (d a i_) (s : State) : exec (.smulImm d a i_) s = execSmulImm d a i_ s := rfl
@[simp] theorem exec_sandImm (d a i_) (s : State) : exec (.sandImm d a i_) s = execSandImm d a i_ s := rfl
@[simp] theorem exec_sorImm (d a i_) (s : State) : exec (.sorImm d a i_) s = execSorImm d a i_ s := rfl
@[simp] theorem exec_sxorImm (d a i_) (s : State) : exec (.sxorImm d a i_) s = execSxorImm d a i_ s := rfl
@[simp] theorem exec_sshlImm (d a i_) (s : State) : exec (.sshlImm d a i_) s = execSshlImm d a i_ s := rfl
@[simp] theorem exec_sshrImm (d a i_) (s : State) : exec (.sshrImm d a i_) s = execSshrImm d a i_ s := rfl
@[simp] theorem exec_ssarImm (d a i_) (s : State) : exec (.ssarImm d a i_) s = execSsarImm d a i_ s := rfl
@[simp] theorem exec_sminImm (d a i_) (s : State) : exec (.sminImm d a i_) s = execSminImm d a i_ s := rfl
@[simp] theorem exec_smaxImm (d a i_) (s : State) : exec (.smaxImm d a i_) s = execSmaxImm d a i_ s := rfl
@[simp] theorem exec_scmpImm (a i_) (s : State) : exec (.scmpImm a i_) s = execScmpImm a i_ s := rfl
@[simp] theorem exec_ststImm (a i_) (s : State) : exec (.ststImm a i_) s = execStstImm a i_ s := rfl
@[simp] theorem exec_sbfx (d a w o) (s : State) : exec (.sbfx d a w o) s = execSbfx d a w o s := rfl
@[simp] theorem exec_sext (d a b) (s : State) : exec (.sext d a b) s = execSext d a b s := rfl
@[simp] theorem exec_sclz (d a wide) (s : State) : exec (.sclz d a wide) s = execSclz d a wide s := rfl
@[simp] theorem exec_spopc (d a wide) (s : State) : exec (.spopc d a wide) s = execSpopc d a wide s := rfl
@[simp] theorem exec_stst (a b) (s : State) : exec (.stst a b) s = execStst a b s := rfl
@[simp] theorem exec_ssel (d a b c) (s : State) : exec (.ssel d a b c) s = execSsel d a b c s := rfl
@[simp] theorem exec_sli (f d imm) (s : State) : exec (.sli f d imm) s = execSli f d imm s := rfl
@[simp] theorem exec_bc (c o) (s : State) : exec (.bc c o) s = execBc c o s := rfl
@[simp] theorem exec_bmz (m o) (s : State) : exec (.bmz m o) s = execBmz m o s := rfl
@[simp] theorem exec_bmnz (m o) (s : State) : exec (.bmnz m o) s = execBmnz m o s := rfl
@[simp] theorem exec_call (o) (s : State) : exec (.call o) s = execCall o s := rfl
@[simp] theorem exec_split (m o) (s : State) : exec (.split m o) s = execSplit m o s := rfl
@[simp] theorem exec_join (t) (s : State) : exec (.join t) s = execJoin t s := rfl
@[simp] theorem exec_exit (s : State) : exec .exit s = execExit s := rfl
@[simp] theorem exec_yield (s : State) : exec .yield s = execYield s := rfl
@[simp] theorem exec_nop (s : State) : exec .nop s = execNop s := rfl
@[simp] theorem exec_ret (a) (s : State) : exec (.ret a) s = execRet a s := rfl
@[simp] theorem exec_ldrain (s : State) : exec .ldrain s = execLdrain s := rfl
@[simp] theorem exec_regroup (d a) (s : State) : exec (.regroup d a) s = execRegroup d a s := rfl
@[simp] theorem exec_hint (n) (s : State) : exec (.hint n) s = execHint n s := rfl
@[simp] theorem exec_lrun (l n) (s : State) : exec (.lrun l n) s = execLrun l n s := rfl
@[simp] theorem exec_lrunx (a b) (s : State) : exec (.lrunx a b) s = execLrunx a b s := rfl
@[simp] theorem exec_feedset (f a b z) (s : State) : exec (.feedset f a b z) s = execFeedset f a b z s := rfl
@[simp] theorem exec_feedstop (f) (s : State) : exec (.feedstop f) s = execFeedstop f s := rfl
@[simp] theorem exec_mand (d a b) (s : State) : exec (.mand d a b) s = execMand d a b s := rfl
@[simp] theorem exec_mor (d a b) (s : State) : exec (.mor d a b) s = execMor d a b s := rfl
@[simp] theorem exec_mxor (d a b) (s : State) : exec (.mxor d a b) s = execMxor d a b s := rfl
@[simp] theorem exec_mandn (d a b) (s : State) : exec (.mandn d a b) s = execMandn d a b s := rfl
@[simp] theorem exec_mnot (d a) (s : State) : exec (.mnot d a) s = execMnot d a s := rfl
@[simp] theorem exec_mset (d a) (s : State) : exec (.mset d a) s = execMset d a s := rfl
@[simp] theorem exec_mget (d a) (s : State) : exec (.mget d a) s = execMget d a s := rfl
@[simp] theorem exec_mpop (d a) (s : State) : exec (.mpop d a) s = execMpop d a s := rfl
@[simp] theorem exec_mfirst (d a) (s : State) : exec (.mfirst d a) s = execMfirst d a s := rfl
@[simp] theorem exec_sld (d a i_) (s : State) : exec (.sld d a i_) s = execSld d a i_ s := rfl
@[simp] theorem exec_sst (d a i_) (s : State) : exec (.sst d a i_) s = execSst d a i_ s := rfl
@[simp] theorem exec_sldk (d a i_) (s : State) : exec (.sldk d a i_) s = execSldk d a i_ s := rfl
@[simp] theorem exec_sldOrdered (d a s_ o wide) (s : State) : exec (.sldOrdered d a s_ o wide) s = execSldOrdered d a s_ o wide s := rfl
@[simp] theorem exec_sstOrdered (d a s_ o wide) (s : State) : exec (.sstOrdered d a s_ o wide) s = execSstOrdered d a s_ o wide s := rfl
@[simp] theorem exec_binit (d a n) (s : State) : exec (.binit d a n) s = execBinit d a n s := rfl
@[simp] theorem exec_barr (d n) (s : State) : exec (.barr d n) s = execBarr d n s := rfl
@[simp] theorem exec_bwait (d a n) (s : State) : exec (.bwait d a n) s = execBwait d a n s := rfl
@[simp] theorem exec_bsync (d n) (s : State) : exec (.bsync d n) s = execBsync d n s := rfl
@[simp] theorem exec_barrx (d a n) (s : State) : exec (.barrx d a n) s = execBarrx d a n s := rfl
@[simp] theorem exec_waita (d a s_) (s : State) : exec (.waita d a s_) s = execWaita d a s_ s := rfl
@[simp] theorem exec_wake (a s_) (s : State) : exec (.wake a s_) s = execWake a s_ s := rfl
@[simp] theorem exec_fence (s_ o) (s : State) : exec (.fence s_ o) s = execFence s_ o s := rfl
@[simp] theorem exec_backoff (m) (s : State) : exec (.backoff m) s = execBackoff m s := rfl
@[simp] theorem exec_klaunch (d a) (s : State) : exec (.klaunch d a) s = execKlaunch d a s := rfl
@[simp] theorem exec_tspawn (d a) (s : State) : exec (.tspawn d a) s = execTspawn d a s := rfl
@[simp] theorem exec_tdec (d a) (s : State) : exec (.tdec d a) s = execTdec d a s := rfl
@[simp] theorem exec_tadd (d a n) (s : State) : exec (.tadd d a n) s = execTadd d a n s := rfl
@[simp] theorem exec_vgive (d n) (s : State) : exec (.vgive d n) s = execVgive d n s := rfl
@[simp] theorem exec_vclaim (d n) (s : State) : exec (.vclaim d n) s = execVclaim d n s := rfl
@[simp] theorem exec_carve (d a hold) (s : State) : exec (.carve d a hold) s = execCarve d a hold s := rfl
@[simp] theorem exec_mqsend (d a) (s : State) : exec (.mqsend d a) s = execMqsend d a s := rfl
@[simp] theorem exec_mqrecv (d a tryIt) (s : State) : exec (.mqrecv d a tryIt) s = execMqrecv d a tryIt s := rfl
@[simp] theorem exec_mqcount (d id) (s : State) : exec (.mqcount d id) s = execMqcount d id s := rfl
@[simp] theorem exec_qpost (d a) (s : State) : exec (.qpost d a) s = execQpost d a s := rfl
@[simp] theorem exec_tkill (grid) (s : State) : exec (.tkill grid) s = execTkill grid s := rfl
@[simp] theorem exec_xcopy (d a q) (s : State) : exec (.xcopy d a q) s = execXcopy d a q s := rfl
@[simp] theorem exec_xgather (d a q) (s : State) : exec (.xgather d a q) s = execXgather d a q s := rfl
@[simp] theorem exec_xscatter (d a q) (s : State) : exec (.xscatter d a q) s = execXscatter d a q s := rfl
@[simp] theorem exec_xfill (d a q) (s : State) : exec (.xfill d a q) s = execXfill d a q s := rfl
@[simp] theorem exec_xcancel (d a) (s : State) : exec (.xcancel d a) s = execXcancel d a s := rfl
@[simp] theorem exec_evpop (d q) (s : State) : exec (.evpop d q) s = execEvpop d q s := rfl
@[simp] theorem exec_evwait (d q) (s : State) : exec (.evwait d q) s = execEvwait d q s := rfl
@[simp] theorem exec_evcfg (d a) (s : State) : exec (.evcfg d a) s = execEvcfg d a s := rfl
@[simp] theorem exec_trayflush (d a all) (s : State) : exec (.trayflush d a all) s = execTrayflush d a all s := rfl
@[simp] theorem exec_traycfg (d a) (s : State) : exec (.traycfg d a) s = execTraycfg d a s := rfl
@[simp] theorem exec_lycfg (d a f) (s : State) : exec (.lycfg d a f) s = execLycfg d a f s := rfl
@[simp] theorem exec_mloop (d a q) (s : State) : exec (.mloop d a q) s = execMloop d a q s := rfl
@[simp] theorem exec_accopen (d a) (s : State) : exec (.accopen d a) s = execAccopen d a s := rfl
@[simp] theorem exec_accdrain (d a q) (s : State) : exec (.accdrain d a q) s = execAccdrain d a q s := rfl
@[simp] theorem exec_accabort (d a) (s : State) : exec (.accabort d a) s = execAccabort d a s := rfl
@[simp] theorem exec_accwait (d a) (s : State) : exec (.accwait d a) s = execAccwait d a s := rfl
@[simp] theorem exec_pgmap (d a w x) (s : State) : exec (.pgmap d a w x) s = execPgmap d a w x s := rfl
@[simp] theorem exec_pgtake (d put) (s : State) : exec (.pgtake d put) s = execPgtake d put s := rfl
@[simp] theorem exec_pgunmap (d a free) (s : State) : exec (.pgunmap d a free) s = execPgunmap d a free s := rfl
@[simp] theorem exec_pginv (d a) (s : State) : exec (.pginv d a) s = execPginv d a s := rfl
@[simp] theorem exec_pgharvest (d a) (s : State) : exec (.pgharvest d a) s = execPgharvest d a s := rfl
@[simp] theorem exec_pgmigrate (d a) (s : State) : exec (.pgmigrate d a) s = execPgmigrate d a s := rfl
@[simp] theorem exec_pgquery (d a) (s : State) : exec (.pgquery d a) s = execPgquery d a s := rfl
@[simp] theorem exec_csheet (d a f) (s : State) : exec (.csheet d a f) s = execCsheet d a f s := rfl
@[simp] theorem exec_halodecl (d a) (s : State) : exec (.halodecl d a) s = execHalodecl d a s := rfl
@[simp] theorem exec_halopush (d a) (s : State) : exec (.halopush d a) s = execHalopush d a s := rfl
@[simp] theorem exec_haloend (d a) (s : State) : exec (.haloend d a) s = execHaloend d a s := rfl
@[simp] theorem exec_lclaim (d a) (s : State) : exec (.lclaim d a) s = execLclaim d a s := rfl
@[simp] theorem exec_cwb (d a) (s : State) : exec (.cwb d a) s = execCwb d a s := rfl
@[simp] theorem exec_cinv (d a) (s : State) : exec (.cinv d a) s = execCinv d a s := rfl
@[simp] theorem exec_sget (d r) (s : State) : exec (.sget d r) s = execSget d r s := rfl
@[simp] theorem exec_sset (a r) (s : State) : exec (.sset a r) s = execSset a r s := rfl
@[simp] theorem exec_svc (n) (s : State) : exec (.svc n) s = execSvc n s := rfl
@[simp] theorem exec_trap (n) (s : State) : exec (.trap n) s = execTrap n s := rfl
@[simp] theorem exec_eret (s : State) : exec .eret s = execEret s := rfl
@[simp] theorem exec_eretRetry (s : State) : exec .eretRetry s = execEretRetry s := rfl
@[simp] theorem exec_eretSkip (s : State) : exec .eretSkip s = execEretSkip s := rfl
@[simp] theorem exec_lanePair (x y) (s : State) : exec (.lanePair x y) s = execLanePair x y s := rfl
@[simp] theorem exec_vadd (w) (s : State) : exec (.vadd w) s = execVadd w s := rfl
@[simp] theorem exec_vsub (w) (s : State) : exec (.vsub w) s = execVsub w s := rfl
@[simp] theorem exec_vmul (w) (s : State) : exec (.vmul w) s = execVmul w s := rfl
@[simp] theorem exec_vmulh (w) (s : State) : exec (.vmulh w) s = execVmulh w s := rfl
@[simp] theorem exec_vmad (w) (s : State) : exec (.vmad w) s = execVmad w s := rfl
@[simp] theorem exec_vand (w) (s : State) : exec (.vand w) s = execVand w s := rfl
@[simp] theorem exec_vor (w) (s : State) : exec (.vor w) s = execVor w s := rfl
@[simp] theorem exec_vxor (w) (s : State) : exec (.vxor w) s = execVxor w s := rfl
@[simp] theorem exec_vandn (w) (s : State) : exec (.vandn w) s = execVandn w s := rfl
@[simp] theorem exec_vnot (w) (s : State) : exec (.vnot w) s = execVnot w s := rfl
@[simp] theorem exec_vshl (w) (s : State) : exec (.vshl w) s = execVshl w s := rfl
@[simp] theorem exec_vshr (w) (s : State) : exec (.vshr w) s = execVshr w s := rfl
@[simp] theorem exec_vsar (w) (s : State) : exec (.vsar w) s = execVsar w s := rfl
@[simp] theorem exec_vrol (w) (s : State) : exec (.vrol w) s = execVrol w s := rfl
@[simp] theorem exec_vmin (w) (s : State) : exec (.vmin w) s = execVmin w s := rfl
@[simp] theorem exec_vmax (w) (s : State) : exec (.vmax w) s = execVmax w s := rfl
@[simp] theorem exec_vabs (w) (s : State) : exec (.vabs w) s = execVabs w s := rfl
@[simp] theorem exec_vneg (w) (s : State) : exec (.vneg w) s = execVneg w s := rfl
@[simp] theorem exec_vclz (w) (s : State) : exec (.vclz w) s = execVclz w s := rfl
@[simp] theorem exec_vpopc (w) (s : State) : exec (.vpopc w) s = execVpopc w s := rfl
@[simp] theorem exec_vbrev (w) (s : State) : exec (.vbrev w) s = execVbrev w s := rfl
@[simp] theorem exec_vbfx (w) (s : State) : exec (.vbfx w) s = execVbfx w s := rfl
@[simp] theorem exec_vbfi (w) (s : State) : exec (.vbfi w) s = execVbfi w s := rfl
@[simp] theorem exec_vsel (w) (s : State) : exec (.vsel w) s = execVsel w s := rfl
@[simp] theorem exec_vmov (w) (s : State) : exec (.vmov w) s = execVmov w s := rfl
@[simp] theorem exec_vli (w) (s : State) : exec (.vli w) s = execVli w s := rfl
@[simp] theorem exec_vcmp (w) (s : State) : exec (.vcmp w) s = execVcmp w s := rfl
@[simp] theorem exec_vaddc (w) (s : State) : exec (.vaddc w) s = execVaddc w s := rfl
@[simp] theorem exec_vidx (w) (s : State) : exec (.vidx w) s = execVidx w s := rfl
@[simp] theorem exec_vsad (w) (s : State) : exec (.vsad w) s = execVsad w s := rfl
@[simp] theorem exec_fadd (w) (s : State) : exec (.fadd w) s = execFadd w s := rfl
@[simp] theorem exec_fsub (w) (s : State) : exec (.fsub w) s = execFsub w s := rfl
@[simp] theorem exec_fmul (w) (s : State) : exec (.fmul w) s = execFmul w s := rfl
@[simp] theorem exec_ffma (w) (s : State) : exec (.ffma w) s = execFfma w s := rfl
@[simp] theorem exec_fmin (w) (s : State) : exec (.fmin w) s = execFmin w s := rfl
@[simp] theorem exec_fmax (w) (s : State) : exec (.fmax w) s = execFmax w s := rfl
@[simp] theorem exec_fcmp (w) (s : State) : exec (.fcmp w) s = execFcmp w s := rfl
@[simp] theorem exec_fclass (w) (s : State) : exec (.fclass w) s = execFclass w s := rfl
@[simp] theorem exec_frnd (w) (s : State) : exec (.frnd w) s = execFrnd w s := rfl
@[simp] theorem exec_fldexp (w) (s : State) : exec (.fldexp w) s = execFldexp w s := rfl
@[simp] theorem exec_ffrexp (w) (s : State) : exec (.ffrexp w) s = execFfrexp w s := rfl
@[simp] theorem exec_fdot2 (w) (s : State) : exec (.fdot2 w) s = execFdot2 w s := rfl
@[simp] theorem exec_fdot4 (w) (s : State) : exec (.fdot4 w) s = execFdot4 w s := rfl
@[simp] theorem exec_fscale (w) (s : State) : exec (.fscale w) s = execFscale w s := rfl
@[simp] theorem exec_frcp (w) (s : State) : exec (.frcp w) s = execFrcp w s := rfl
@[simp] theorem exec_frsq (w) (s : State) : exec (.frsq w) s = execFrsq w s := rfl
@[simp] theorem exec_fsqrt (w) (s : State) : exec (.fsqrt w) s = execFsqrt w s := rfl
@[simp] theorem exec_fdiv (w) (s : State) : exec (.fdiv w) s = execFdiv w s := rfl
@[simp] theorem exec_fexp2 (w) (s : State) : exec (.fexp2 w) s = execFexp2 w s := rfl
@[simp] theorem exec_flog2 (w) (s : State) : exec (.flog2 w) s = execFlog2 w s := rfl
@[simp] theorem exec_fsin (w) (s : State) : exec (.fsin w) s = execFsin w s := rfl
@[simp] theorem exec_fcos (w) (s : State) : exec (.fcos w) s = execFcos w s := rfl
@[simp] theorem exec_ftanh (w) (s : State) : exec (.ftanh w) s = execFtanh w s := rfl
@[simp] theorem exec_cvt (w) (s : State) : exec (.cvt w) s = execCvt w s := rfl
@[simp] theorem exec_cvtef (w) (s : State) : exec (.cvtef w) s = execCvtef w s := rfl
@[simp] theorem exec_pack (w) (s : State) : exec (.pack w) s = execPack w s := rfl
@[simp] theorem exec_unpack (w) (s : State) : exec (.unpack w) s = execUnpack w s := rfl
@[simp] theorem exec_shfl (w) (s : State) : exec (.shfl w) s = execShfl w s := rfl
@[simp] theorem exec_shflx (w) (s : State) : exec (.shflx w) s = execShflx w s := rfl
@[simp] theorem exec_shflup (w) (s : State) : exec (.shflup w) s = execShflup w s := rfl
@[simp] theorem exec_shfldn (w) (s : State) : exec (.shfldn w) s = execShfldn w s := rfl
@[simp] theorem exec_bcast (w) (s : State) : exec (.bcast w) s = execBcast w s := rfl
@[simp] theorem exec_ballot (w) (s : State) : exec (.ballot w) s = execBallot w s := rfl
@[simp] theorem exec_vote (w) (s : State) : exec (.vote w) s = execVote w s := rfl
@[simp] theorem exec_scan (w) (s : State) : exec (.scan w) s = execScan w s := rfl
@[simp] theorem exec_lred (w) (s : State) : exec (.lred w) s = execLred w s := rfl
@[simp] theorem exec_compact (w) (s : State) : exec (.compact w) s = execCompact w s := rfl
@[simp] theorem exec_vreadl (w) (s : State) : exec (.vreadl w) s = execVreadl w s := rfl
@[simp] theorem exec_vwritel (w) (s : State) : exec (.vwritel w) s = execVwritel w s := rfl
@[simp] theorem exec_ld (w) (s : State) : exec (.ld w) s = execLd w s := rfl
@[simp] theorem exec_st (w) (s : State) : exec (.st w) s = execSt w s := rfl
@[simp] theorem exec_lds (w) (s : State) : exec (.lds w) s = execLds w s := rfl
@[simp] theorem exec_sts (w) (s : State) : exec (.sts w) s = execSts w s := rfl
@[simp] theorem exec_atom (w) (s : State) : exec (.atom w) s = execAtom w s := rfl
@[simp] theorem exec_atoms (w) (s : State) : exec (.atoms w) s = execAtoms w s := rfl
@[simp] theorem exec_red (w) (s : State) : exec (.red w) s = execRed w s := rfl
@[simp] theorem exec_pref (w) (s : State) : exec (.pref w) s = execPref w s := rfl
@[simp] theorem exec_trace (w) (s : State) : exec (.trace w) s = execTrace w s := rfl
@[simp] theorem exec_traceq (w) (s : State) : exec (.traceq w) s = execTraceq w s := rfl
@[simp] theorem exec_hitget (w) (s : State) : exec (.hitget w) s = execHitget w s := rfl
@[simp] theorem exec_primemit (w) (s : State) : exec (.primemit w) s = execPrimemit w s := rfl
@[simp] theorem exec_sample (w) (s : State) : exec (.sample w) s = execSample w s := rfl
@[simp] theorem exec_samplel (w) (s : State) : exec (.samplel w) s = execSamplel w s := rfl
@[simp] theorem exec_sampleg (w) (s : State) : exec (.sampleg w) s = execSampleg w s := rfl
@[simp] theorem exec_texld (w) (s : State) : exec (.texld w) s = execTexld w s := rfl
@[simp] theorem exec_texst (w) (s : State) : exec (.texst w) s = execTexst w s := rfl
@[simp] theorem exec_lyins (w) (s : State) : exec (.lyins w) s = execLyins w s := rfl
@[simp] theorem exec_lyread (w) (s : State) : exec (.lyread w) s = execLyread w s := rfl
@[simp] theorem exec_lyresolve (w) (s : State) : exec (.lyresolve w) s = execLyresolve w s := rfl
@[simp] theorem exec_lyclear (w) (s : State) : exec (.lyclear w) s = execLyclear w s := rfl
@[simp] theorem exec_mma (w) (s : State) : exec (.mma w) s = execMma w s := rfl
@[simp] theorem exec_vmm (w) (s : State) : exec (.vmm w) s = execVmm w s := rfl
@[simp] theorem exec_accred (w) (s : State) : exec (.accred w) s = execAccred w s := rfl
@[simp] theorem exec_accpeek (w) (s : State) : exec (.accpeek w) s = execAccpeek w s := rfl
@[simp] theorem exec_trayput (w) (s : State) : exec (.trayput w) s = execTrayput w s := rfl
@[simp] theorem exec_trayget (w) (s : State) : exec (.trayget w) s = execTrayget w s := rfl
@[simp] theorem exec_laneOpSettle (core slot k) (s : State) : exec (.laneOpSettle core slot k) s = execLaneOpSettle core slot k s := rfl
@[simp] theorem exec_trapEntry (core slot) (s : State) : exec (.trapEntry core slot) s = execTrapEntry core slot s := rfl
@[simp] theorem exec_feedVectorArrive (core slot f) (s : State) : exec (.feedVectorArrive core slot f) s = execFeedVectorArrive core slot f s := rfl
@[simp] theorem exec_fragmentReturn (core slot) (s : State) : exec (.fragmentReturn core slot) s = execFragmentReturn core slot s := rfl
@[simp] theorem exec_backoffExpiry (core slot b) (s : State) : exec (.backoffExpiry core slot b) s = execBackoffExpiry core slot b s := rfl
@[simp] theorem exec_spinDemotion (core slot) (s : State) : exec (.spinDemotion core slot) s = execSpinDemotion core slot s := rfl
@[simp] theorem exec_issueAgePromotion (core slot) (s : State) : exec (.issueAgePromotion core slot) s = execIssueAgePromotion core slot s := rfl
@[simp] theorem exec_barrierRemoteArrival (k) (s : State) : exec (.barrierRemoteArrival k) s = execBarrierRemoteArrival k s := rfl
@[simp] theorem exec_waitaReread (core slot b) (s : State) : exec (.waitaReread core slot b) s = execWaitaReread core slot b s := rfl
@[simp] theorem exec_waitaPeriodicReread (core slot b) (s : State) : exec (.waitaPeriodicReread core slot b) s = execWaitaPeriodicReread core slot b s := rfl
@[simp] theorem exec_waitaFabTimeout (core slot b) (s : State) : exec (.waitaFabTimeout core slot b) s = execWaitaFabTimeout core slot b s := rfl
@[simp] theorem exec_safelightExpiry (ctx) (s : State) : exec (.safelightExpiry ctx) s = execSafelightExpiry ctx s := rfl
@[simp] theorem exec_faultQueuePostResume (core slot b) (s : State) : exec (.faultQueuePostResume core slot b) s = execFaultQueuePostResume core slot b s := rfl
@[simp] theorem exec_queueEnableSet (q) (s : State) : exec (.queueEnableSet q) s = execQueueEnableSet q s := rfl
@[simp] theorem exec_queueEnableClear (q) (s : State) : exec (.queueEnableClear q) s = execQueueEnableClear q s := rfl
@[simp] theorem exec_queueDoorbell (q tail) (s : State) : exec (.queueDoorbell q tail) s = execQueueDoorbell q tail s := rfl
@[simp] theorem exec_registerWrite (r v) (s : State) : exec (.registerWrite r v) s = execRegisterWrite r v s := rfl
@[simp] theorem exec_mailboxDoneClear (s : State) : exec .mailboxDoneClear s = execMailboxDoneClear s := rfl
@[simp] theorem exec_queueActivate (q) (s : State) : exec (.queueActivate q) s = execQueueActivate q s := rfl
@[simp] theorem exec_queuePreempt (q) (s : State) : exec (.queuePreempt q) s = execQueuePreempt q s := rfl
@[simp] theorem exec_sliceExpiry (q) (s : State) : exec (.sliceExpiry q) s = execSliceExpiry q s := rfl
@[simp] theorem exec_readyAgePromotion (q) (s : State) : exec (.readyAgePromotion q) s = execReadyAgePromotion q s := rfl
@[simp] theorem exec_launch (q) (s : State) : exec (.launch q) s = execLaunch q s := rfl
@[simp] theorem exec_draw (q) (s : State) : exec (.draw q) s = execDraw q s := rfl
@[simp] theorem exec_signalPkt (q) (s : State) : exec (.signalPkt q) s = execSignalPkt q s := rfl
@[simp] theorem exec_waitPkt (q) (s : State) : exec (.waitPkt q) s = execWaitPkt q s := rfl
@[simp] theorem exec_barrierPkt (q) (s : State) : exec (.barrierPkt q) s = execBarrierPkt q s := rfl
@[simp] theorem exec_ctxopCreate (q) (s : State) : exec (.ctxopCreate q) s = execCtxopCreate q s := rfl
@[simp] theorem exec_ctxopBind (q) (s : State) : exec (.ctxopBind q) s = execCtxopBind q s := rfl
@[simp] theorem exec_ctxopUnbind (q) (s : State) : exec (.ctxopUnbind q) s = execCtxopUnbind q s := rfl
@[simp] theorem exec_ctxopUpdate (q) (s : State) : exec (.ctxopUpdate q) s = execCtxopUpdate q s := rfl
@[simp] theorem exec_ctxopQuarantine (q) (s : State) : exec (.ctxopQuarantine q) s = execCtxopQuarantine q s := rfl
@[simp] theorem exec_ctxopDestroy (q) (s : State) : exec (.ctxopDestroy q) s = execCtxopDestroy q s := rfl
@[simp] theorem exec_packetDeferredStart (q) (s : State) : exec (.packetDeferredStart q) s = execPacketDeferredStart q s := rfl
@[simp] theorem exec_waitReread (q) (s : State) : exec (.waitReread q) s = execWaitReread q s := rfl
@[simp] theorem exec_waitPeriodicPoll (q) (s : State) : exec (.waitPeriodicPoll q) s = execWaitPeriodicPoll q s := rfl
@[simp] theorem exec_waitTimeout (q) (s : State) : exec (.waitTimeout q) s = execWaitTimeout q s := rfl
@[simp] theorem exec_bindRetry (q) (s : State) : exec (.bindRetry q) s = execBindRetry q s := rfl
@[simp] theorem exec_unbindComplete (ctx) (s : State) : exec (.unbindComplete ctx) s = execUnbindComplete ctx s := rfl
@[simp] theorem exec_gridComplete (g) (s : State) : exec (.gridComplete g) s = execGridComplete g s := rfl
@[simp] theorem exec_taskDispatch (q) (s : State) : exec (.taskDispatch q) s = execTaskDispatch q s := rfl
@[simp] theorem exec_groupPlace (g) (s : State) : exec (.groupPlace g) s = execGroupPlace g s := rfl
@[simp] theorem exec_bankConversionDone (core bank) (s : State) : exec (.bankConversionDone core bank) s = execBankConversionDone core bank s := rfl
@[simp] theorem exec_groupSettled (gid) (s : State) : exec (.groupSettled gid) s = execGroupSettled gid s := rfl
@[simp] theorem exec_groupRestore (gid) (s : State) : exec (.groupRestore gid) s = execGroupRestore gid s := rfl
@[simp] theorem exec_trayDeadline (core k) (s : State) : exec (.trayDeadline core k) s = execTrayDeadline core k s := rfl
@[simp] theorem exec_trayWaveStart (core) (s : State) : exec (.trayWaveStart core) s = execTrayWaveStart core s := rfl
@[simp] theorem exec_finderSegmentStart (core g) (s : State) : exec (.finderSegmentStart core g) s = execFinderSegmentStart core g s := rfl
@[simp] theorem exec_teamOpStart (core gid team) (s : State) : exec (.teamOpStart core gid team) s = execTeamOpStart core gid team s := rfl
@[simp] theorem exec_partialArrive (k) (s : State) : exec (.partialArrive k) s = execPartialArrive k s := rfl
@[simp] theorem exec_mloopComplete (core op) (s : State) : exec (.mloopComplete core op) s = execMloopComplete core op s := rfl
@[simp] theorem exec_drainComplete (core op) (s : State) : exec (.drainComplete core op) s = execDrainComplete core op s := rfl
@[simp] theorem exec_transferTranslationEnd (core op) (s : State) : exec (.transferTranslationEnd core op) s = execTransferTranslationEnd core op s := rfl
@[simp] theorem exec_transferLocksClear (core op) (s : State) : exec (.transferLocksClear core op) s = execTransferLocksClear core op s := rfl
@[simp] theorem exec_transferComplete (core op) (s : State) : exec (.transferComplete core op) s = execTransferComplete core op s := rfl
@[simp] theorem exec_eventRecordPostResume (core op) (s : State) : exec (.eventRecordPostResume core op) s = execEventRecordPostResume core op s := rfl
@[simp] theorem exec_engineFaultTaken (core op) (s : State) : exec (.engineFaultTaken core op) s = execEngineFaultTaken core op s := rfl
@[simp] theorem exec_loupeBatchClose (s : State) : exec .loupeBatchClose s = execLoupeBatchClose s := rfl
@[simp] theorem exec_frameFillComplete (f) (s : State) : exec (.frameFillComplete f) s = execFrameFillComplete f s := rfl
@[simp] theorem exec_fillPoolUnreachable (f) (s : State) : exec (.fillPoolUnreachable f) s = execFillPoolUnreachable f s := rfl
@[simp] theorem exec_unitReplay (core slot) (s : State) : exec (.unitReplay core slot) s = execUnitReplay core slot s := rfl
@[simp] theorem exec_enlargerEvict (s : State) : exec .enlargerEvict s = execEnlargerEvict s := rfl
@[simp] theorem exec_evictionComplete (f) (s : State) : exec (.evictionComplete f) s = execEvictionComplete f s := rfl
@[simp] theorem exec_poolFrameMove (f) (s : State) : exec (.poolFrameMove f) s = execPoolFrameMove f s := rfl
@[simp] theorem exec_zeroingDone (f) (s : State) : exec (.zeroingDone f) s = execZeroingDone f s := rfl
@[simp] theorem exec_homeGets (k) (s : State) : exec (.homeGets k) s = execHomeGets k s := rfl
@[simp] theorem exec_homeGetm (k) (s : State) : exec (.homeGetm k) s = execHomeGetm k s := rfl
@[simp] theorem exec_homeUpg (k) (s : State) : exec (.homeUpg k) s = execHomeUpg k s := rfl
@[simp] theorem exec_homePuts (k) (s : State) : exec (.homePuts k) s = execHomePuts k s := rfl
@[simp] theorem exec_homePute (k) (s : State) : exec (.homePute k) s = execHomePute k s := rfl
@[simp] theorem exec_homePutm (k) (s : State) : exec (.homePutm k) s = execHomePutm k s := rfl
@[simp] theorem exec_homePuto (k) (s : State) : exec (.homePuto k) s = execHomePuto k s := rfl
@[simp] theorem exec_homeUnblock (k) (s : State) : exec (.homeUnblock k) s = execHomeUnblock k s := rfl
@[simp] theorem exec_homeOwnack (k) (s : State) : exec (.homeOwnack k) s = execHomeOwnack k s := rfl
@[simp] theorem exec_homeCleanack (k) (s : State) : exec (.homeCleanack k) s = execHomeCleanack k s := rfl
@[simp] theorem exec_homeWbdata (k) (s : State) : exec (.homeWbdata k) s = execHomeWbdata k s := rfl
@[simp] theorem exec_homeHack (k) (s : State) : exec (.homeHack k) s = execHomeHack k s := rfl
@[simp] theorem exec_l1Data (k) (s : State) : exec (.l1Data k) s = execL1Data k s := rfl
@[simp] theorem exec_l1Datae (k) (s : State) : exec (.l1Datae k) s = execL1Datae k s := rfl
@[simp] theorem exec_l1Datam (k) (s : State) : exec (.l1Datam k) s = execL1Datam k s := rfl
@[simp] theorem exec_l1Grant (k) (s : State) : exec (.l1Grant k) s = execL1Grant k s := rfl
@[simp] theorem exec_l1Invack (k) (s : State) : exec (.l1Invack k) s = execL1Invack k s := rfl
@[simp] theorem exec_l1Inv (k) (s : State) : exec (.l1Inv k) s = execL1Inv k s := rfl
@[simp] theorem exec_l1Fwdgets (k) (s : State) : exec (.l1Fwdgets k) s = execL1Fwdgets k s := rfl
@[simp] theorem exec_l1Fwdgetm (k) (s : State) : exec (.l1Fwdgetm k) s = execL1Fwdgetm k s := rfl
@[simp] theorem exec_l1Pullwb (k) (s : State) : exec (.l1Pullwb k) s = execL1Pullwb k s := rfl
@[simp] theorem exec_l1Noticeack (k) (s : State) : exec (.l1Noticeack k) s = execL1Noticeack k s := rfl
@[simp] theorem exec_l1Wback (k) (s : State) : exec (.l1Wback k) s = execL1Wback k s := rfl
@[simp] theorem exec_l1Hpush (k) (s : State) : exec (.l1Hpush k) s = execL1Hpush k s := rfl
@[simp] theorem exec_l1Hcommit (k) (s : State) : exec (.l1Hcommit k) s = execL1Hcommit k s := rfl
@[simp] theorem exec_l1Retry (k) (s : State) : exec (.l1Retry k) s = execL1Retry k s := rfl
@[simp] theorem exec_requestResend (k) (s : State) : exec (.requestResend k) s = execRequestResend k s := rfl
@[simp] theorem exec_forwardTimeout (core) (s : State) : exec (.forwardTimeout core) s = execForwardTimeout core s := rfl
@[simp] theorem exec_uncorrectableSoftError (site) (s : State) : exec (.uncorrectableSoftError site) s = execUncorrectableSoftError site s := rfl
@[simp] theorem exec_modeChange (on) (s : State) : exec (.modeChange on) s = execModeChange on s := rfl
@[simp] theorem exec_memoryLineReturn (line) (s : State) : exec (.memoryLineReturn line) s = execMemoryLineReturn line s := rfl
@[simp] theorem exec_bisnpReceive (line inv) (s : State) : exec (.bisnpReceive line inv) s = execBisnpReceive line inv s := rfl
@[simp] theorem exec_externalRequest (agent req) (s : State) : exec (.externalRequest agent req) s = execExternalRequest agent req s := rfl
@[simp] theorem exec_glinorFlitReceive (port f) (s : State) : exec (.glinorFlitReceive port f) s = execGlinorFlitReceive port f s := rfl
@[simp] theorem exec_portEnable (p) (s : State) : exec (.portEnable p) s = execPortEnable p s := rfl
@[simp] theorem exec_portTrainingEnd (p lanes) (s : State) : exec (.portTrainingEnd p lanes) s = execPortTrainingEnd p lanes s := rfl
@[simp] theorem exec_portTrainingTimeout (p) (s : State) : exec (.portTrainingTimeout p) s = execPortTrainingTimeout p s := rfl
@[simp] theorem exec_portResendLimit (p) (s : State) : exec (.portResendLimit p) s = execPortResendLimit p s := rfl
@[simp] theorem exec_portLaneLost (p) (s : State) : exec (.portLaneLost p) s = execPortLaneLost p s := rfl
@[simp] theorem exec_portFence (p) (s : State) : exec (.portFence p) s = execPortFence p s := rfl
@[simp] theorem exec_portReset (p) (s : State) : exec (.portReset p) s = execPortReset p s := rfl
@[simp] theorem exec_cxlPortDown (p) (s : State) : exec (.cxlPortDown p) s = execCxlPortDown p s := rfl
@[simp] theorem exec_poolDecoderWrite (k enable base size) (s : State) : exec (.poolDecoderWrite k enable base size) s = execPoolDecoderWrite k enable base size s := rfl
@[simp] theorem exec_agentJoin (kind route) (s : State) : exec (.agentJoin kind route) s = execAgentJoin kind route s := rfl
@[simp] theorem exec_peerLost (id cause) (s : State) : exec (.peerLost id cause) s = execPeerLost id cause s := rfl
@[simp] theorem exec_completionTimeout (id) (s : State) : exec (.completionTimeout id) s = execCompletionTimeout id s := rfl
@[simp] theorem exec_linkKeyChange (port) (s : State) : exec (.linkKeyChange port) s = execLinkKeyChange port s := rfl
@[simp] theorem exec_getInfo (r) (s : State) : exec (.getInfo r) s = execGetInfo r s := rfl
@[simp] theorem exec_setPoolTarget (r) (s : State) : exec (.setPoolTarget r) s = execSetPoolTarget r s := rfl
@[simp] theorem exec_getLogState (r) (s : State) : exec (.getLogState r) s = execGetLogState r s := rfl
@[simp] theorem exec_readLog (r) (s : State) : exec (.readLog r) s = execReadLog r s := rfl
@[simp] theorem exec_setLogHead (r) (s : State) : exec (.setLogHead r) s = execSetLogHead r s := rfl
@[simp] theorem exec_getSensors (r) (s : State) : exec (.getSensors r) s = execGetSensors r s := rfl
@[simp] theorem exec_setPowerLimit (r) (s : State) : exec (.setPowerLimit r) s = execSetPowerLimit r s := rfl
@[simp] theorem exec_getPorts (r) (s : State) : exec (.getPorts r) s = execGetPorts r s := rfl
@[simp] theorem exec_frequencyChange (mhz) (s : State) : exec (.frequencyChange mhz) s = execFrequencyChange mhz s := rfl
@[simp] theorem exec_deviceReset (s : State) : exec .deviceReset s = execDeviceReset s := rfl
@[simp] theorem exec_startUpComplete (s : State) : exec .startUpComplete s = execStartUpComplete s := rfl
@[simp] theorem exec_flashImageWrite (slot img) (s : State) : exec (.flashImageWrite slot img) s = execFlashImageWrite slot img s := rfl
@[simp] theorem exec_spdmGetVersion (path) (s : State) : exec (.spdmGetVersion path) s = execSpdmGetVersion path s := rfl
@[simp] theorem exec_spdmGetCapabilities (path) (s : State) : exec (.spdmGetCapabilities path) s = execSpdmGetCapabilities path s := rfl
@[simp] theorem exec_spdmNegotiateAlgorithms (path) (s : State) : exec (.spdmNegotiateAlgorithms path) s = execSpdmNegotiateAlgorithms path s := rfl
@[simp] theorem exec_spdmGetDigests (path) (s : State) : exec (.spdmGetDigests path) s = execSpdmGetDigests path s := rfl
@[simp] theorem exec_spdmGetCertificate (path) (s : State) : exec (.spdmGetCertificate path) s = execSpdmGetCertificate path s := rfl
@[simp] theorem exec_spdmChallenge (path) (s : State) : exec (.spdmChallenge path) s = execSpdmChallenge path s := rfl
@[simp] theorem exec_spdmGetMeasurements (path) (s : State) : exec (.spdmGetMeasurements path) s = execSpdmGetMeasurements path s := rfl
@[simp] theorem exec_spdmKeyExchange (path) (s : State) : exec (.spdmKeyExchange path) s = execSpdmKeyExchange path s := rfl
@[simp] theorem exec_spdmFinish (path) (s : State) : exec (.spdmFinish path) s = execSpdmFinish path s := rfl
@[simp] theorem exec_spdmEndSession (path) (s : State) : exec (.spdmEndSession path) s = execSpdmEndSession path s := rfl
@[simp] theorem exec_scalarAccessAnswered (core slot b) (s : State) : exec (.scalarAccessAnswered core slot b) s = execScalarAccessAnswered core slot b s := rfl
@[simp] theorem exec_birspReceive (line agent) (s : State) : exec (.birspReceive line agent) s = execBirspReceive line agent s := rfl
@[simp] theorem exec_biconflictReceive (line ack) (s : State) : exec (.biconflictReceive line ack) s = execBiconflictReceive line ack s := rfl
@[simp] theorem exec_correctableSoftError (ctx core unit bank) (s : State) : exec (.correctableSoftError ctx core unit bank) s = execCorrectableSoftError ctx core unit bank s := rfl
@[simp] theorem exec_ideKmRequest (port m) (s : State) : exec (.ideKmRequest port m) s = execIdeKmRequest port m s := rfl

end Sys2Proof.Machine
end

