-- ==== Sys2Proof/Laws/State.lean ====
section
/-! SUPPORT. Laws/State.lean: each update of the state, field by field: what it writes, and that it leaves every other
field as it was. -/

namespace Sys2Proof.Machine

/-! ## putWave -/

@[simp] theorem putWave_turns (s : State) (w : Wave) : (putWave s w).turns = s.turns := rfl
@[simp] theorem putWave_cur (s : State) (w : Wave) : (putWave s w).cur = s.cur := rfl
@[simp] theorem putWave_free (s : State) (w : Wave) : (putWave s w).free = s.free := rfl
@[simp] theorem putWave_clock (s : State) (w : Wave) : (putWave s w).clock = s.clock := rfl
@[simp] theorem putWave_mem (s : State) (w : Wave) : (putWave s w).mem = s.mem := rfl
@[simp] theorem putWave_extBytes (s : State) (w : Wave) : (putWave s w).extBytes = s.extBytes := rfl
@[simp] theorem putWave_tamper (s : State) (w : Wave) : (putWave s w).tamper = s.tamper := rfl
@[simp] theorem putWave_sealed (s : State) (w : Wave) : (putWave s w).sealed = s.sealed := rfl
@[simp] theorem putWave_hostLines (s : State) (w : Wave) : (putWave s w).hostLines = s.hostLines := rfl
@[simp] theorem putWave_waves (s : State) (w : Wave) : (putWave s w).waves = Map.insert s.waves (64 * w.core + w.slot) w := rfl
@[simp] theorem putWave_groups (s : State) (w : Wave) : (putWave s w).groups = s.groups := rfl
@[simp] theorem putWave_grids (s : State) (w : Wave) : (putWave s w).grids = s.grids := rfl
@[simp] theorem putWave_queues (s : State) (w : Wave) : (putWave s w).queues = s.queues := rfl
@[simp] theorem putWave_ctxs (s : State) (w : Wave) : (putWave s w).ctxs = s.ctxs := rfl
@[simp] theorem putWave_cores (s : State) (w : Wave) : (putWave s w).cores = s.cores := rfl
@[simp] theorem putWave_coh (s : State) (w : Wave) : (putWave s w).coh = s.coh := rfl
@[simp] theorem putWave_vm (s : State) (w : Wave) : (putWave s w).vm = s.vm := rfl
@[simp] theorem putWave_accs (s : State) (w : Wave) : (putWave s w).accs = s.accs := rfl
@[simp] theorem putWave_partials (s : State) (w : Wave) : (putWave s w).partials = s.partials := rfl
@[simp] theorem putWave_arrivals (s : State) (w : Wave) : (putWave s w).arrivals = s.arrivals := rfl
@[simp] theorem putWave_link (s : State) (w : Wave) : (putWave s w).link = s.link := rfl
@[simp] theorem putWave_mgmt (s : State) (w : Wave) : (putWave s w).mgmt = s.mgmt := rfl
@[simp] theorem putWave_rinkan (s : State) (w : Wave) : (putWave s w).rinkan = s.rinkan := rfl
@[simp] theorem putWave_boot (s : State) (w : Wave) : (putWave s w).boot = s.boot := rfl
@[simp] theorem putWave_msix (s : State) (w : Wave) : (putWave s w).msix = s.msix := rfl
@[simp] theorem putWave_placeP (s : State) (w : Wave) : (putWave s w).placeP = s.placeP := rfl
@[simp] theorem putWave_nextGid (s : State) (w : Wave) : (putWave s w).nextGid = s.nextGid := rfl
@[simp] theorem putWave_nextGrid (s : State) (w : Wave) : (putWave s w).nextGrid = s.nextGrid := rfl
@[simp] theorem putWave_nextKey (s : State) (w : Wave) : (putWave s w).nextKey = s.nextKey := rfl
@[simp] theorem putWave_stamp (s : State) (w : Wave) : (putWave s w).stamp = s.stamp := rfl

/-! ## modWave -/

@[simp] theorem modWave_turns (s : State) (core slot : Nat) (g : Wave → Wave) : (modWave s core slot g).turns = s.turns := rfl
@[simp] theorem modWave_cur (s : State) (core slot : Nat) (g : Wave → Wave) : (modWave s core slot g).cur = s.cur := rfl
@[simp] theorem modWave_free (s : State) (core slot : Nat) (g : Wave → Wave) : (modWave s core slot g).free = s.free := rfl
@[simp] theorem modWave_clock (s : State) (core slot : Nat) (g : Wave → Wave) : (modWave s core slot g).clock = s.clock := rfl
@[simp] theorem modWave_mem (s : State) (core slot : Nat) (g : Wave → Wave) : (modWave s core slot g).mem = s.mem := rfl
@[simp] theorem modWave_extBytes (s : State) (core slot : Nat) (g : Wave → Wave) : (modWave s core slot g).extBytes = s.extBytes := rfl
@[simp] theorem modWave_tamper (s : State) (core slot : Nat) (g : Wave → Wave) : (modWave s core slot g).tamper = s.tamper := rfl
@[simp] theorem modWave_sealed (s : State) (core slot : Nat) (g : Wave → Wave) : (modWave s core slot g).sealed = s.sealed := rfl
@[simp] theorem modWave_hostLines (s : State) (core slot : Nat) (g : Wave → Wave) : (modWave s core slot g).hostLines = s.hostLines := rfl
@[simp] theorem modWave_waves (s : State) (core slot : Nat) (g : Wave → Wave) : (modWave s core slot g).waves = Map.modify s.waves (64 * core + slot) g := rfl
@[simp] theorem modWave_groups (s : State) (core slot : Nat) (g : Wave → Wave) : (modWave s core slot g).groups = s.groups := rfl
@[simp] theorem modWave_grids (s : State) (core slot : Nat) (g : Wave → Wave) : (modWave s core slot g).grids = s.grids := rfl
@[simp] theorem modWave_queues (s : State) (core slot : Nat) (g : Wave → Wave) : (modWave s core slot g).queues = s.queues := rfl
@[simp] theorem modWave_ctxs (s : State) (core slot : Nat) (g : Wave → Wave) : (modWave s core slot g).ctxs = s.ctxs := rfl
@[simp] theorem modWave_cores (s : State) (core slot : Nat) (g : Wave → Wave) : (modWave s core slot g).cores = s.cores := rfl
@[simp] theorem modWave_coh (s : State) (core slot : Nat) (g : Wave → Wave) : (modWave s core slot g).coh = s.coh := rfl
@[simp] theorem modWave_vm (s : State) (core slot : Nat) (g : Wave → Wave) : (modWave s core slot g).vm = s.vm := rfl
@[simp] theorem modWave_accs (s : State) (core slot : Nat) (g : Wave → Wave) : (modWave s core slot g).accs = s.accs := rfl
@[simp] theorem modWave_partials (s : State) (core slot : Nat) (g : Wave → Wave) : (modWave s core slot g).partials = s.partials := rfl
@[simp] theorem modWave_arrivals (s : State) (core slot : Nat) (g : Wave → Wave) : (modWave s core slot g).arrivals = s.arrivals := rfl
@[simp] theorem modWave_link (s : State) (core slot : Nat) (g : Wave → Wave) : (modWave s core slot g).link = s.link := rfl
@[simp] theorem modWave_mgmt (s : State) (core slot : Nat) (g : Wave → Wave) : (modWave s core slot g).mgmt = s.mgmt := rfl
@[simp] theorem modWave_rinkan (s : State) (core slot : Nat) (g : Wave → Wave) : (modWave s core slot g).rinkan = s.rinkan := rfl
@[simp] theorem modWave_boot (s : State) (core slot : Nat) (g : Wave → Wave) : (modWave s core slot g).boot = s.boot := rfl
@[simp] theorem modWave_msix (s : State) (core slot : Nat) (g : Wave → Wave) : (modWave s core slot g).msix = s.msix := rfl
@[simp] theorem modWave_placeP (s : State) (core slot : Nat) (g : Wave → Wave) : (modWave s core slot g).placeP = s.placeP := rfl
@[simp] theorem modWave_nextGid (s : State) (core slot : Nat) (g : Wave → Wave) : (modWave s core slot g).nextGid = s.nextGid := rfl
@[simp] theorem modWave_nextGrid (s : State) (core slot : Nat) (g : Wave → Wave) : (modWave s core slot g).nextGrid = s.nextGrid := rfl
@[simp] theorem modWave_nextKey (s : State) (core slot : Nat) (g : Wave → Wave) : (modWave s core slot g).nextKey = s.nextKey := rfl
@[simp] theorem modWave_stamp (s : State) (core slot : Nat) (g : Wave → Wave) : (modWave s core slot g).stamp = s.stamp := rfl

/-! ## mapWaves -/

@[simp] theorem mapWaves_turns (s : State) (g : Wave → Wave) : (mapWaves s g).turns = s.turns := rfl
@[simp] theorem mapWaves_cur (s : State) (g : Wave → Wave) : (mapWaves s g).cur = s.cur := rfl
@[simp] theorem mapWaves_free (s : State) (g : Wave → Wave) : (mapWaves s g).free = s.free := rfl
@[simp] theorem mapWaves_clock (s : State) (g : Wave → Wave) : (mapWaves s g).clock = s.clock := rfl
@[simp] theorem mapWaves_mem (s : State) (g : Wave → Wave) : (mapWaves s g).mem = s.mem := rfl
@[simp] theorem mapWaves_extBytes (s : State) (g : Wave → Wave) : (mapWaves s g).extBytes = s.extBytes := rfl
@[simp] theorem mapWaves_tamper (s : State) (g : Wave → Wave) : (mapWaves s g).tamper = s.tamper := rfl
@[simp] theorem mapWaves_sealed (s : State) (g : Wave → Wave) : (mapWaves s g).sealed = s.sealed := rfl
@[simp] theorem mapWaves_hostLines (s : State) (g : Wave → Wave) : (mapWaves s g).hostLines = s.hostLines := rfl
@[simp] theorem mapWaves_waves (s : State) (g : Wave → Wave) : (mapWaves s g).waves = Map.mapVals s.waves (fun _ w => g w) := rfl
@[simp] theorem mapWaves_groups (s : State) (g : Wave → Wave) : (mapWaves s g).groups = s.groups := rfl
@[simp] theorem mapWaves_grids (s : State) (g : Wave → Wave) : (mapWaves s g).grids = s.grids := rfl
@[simp] theorem mapWaves_queues (s : State) (g : Wave → Wave) : (mapWaves s g).queues = s.queues := rfl
@[simp] theorem mapWaves_ctxs (s : State) (g : Wave → Wave) : (mapWaves s g).ctxs = s.ctxs := rfl
@[simp] theorem mapWaves_cores (s : State) (g : Wave → Wave) : (mapWaves s g).cores = s.cores := rfl
@[simp] theorem mapWaves_coh (s : State) (g : Wave → Wave) : (mapWaves s g).coh = s.coh := rfl
@[simp] theorem mapWaves_vm (s : State) (g : Wave → Wave) : (mapWaves s g).vm = s.vm := rfl
@[simp] theorem mapWaves_accs (s : State) (g : Wave → Wave) : (mapWaves s g).accs = s.accs := rfl
@[simp] theorem mapWaves_partials (s : State) (g : Wave → Wave) : (mapWaves s g).partials = s.partials := rfl
@[simp] theorem mapWaves_arrivals (s : State) (g : Wave → Wave) : (mapWaves s g).arrivals = s.arrivals := rfl
@[simp] theorem mapWaves_link (s : State) (g : Wave → Wave) : (mapWaves s g).link = s.link := rfl
@[simp] theorem mapWaves_mgmt (s : State) (g : Wave → Wave) : (mapWaves s g).mgmt = s.mgmt := rfl
@[simp] theorem mapWaves_rinkan (s : State) (g : Wave → Wave) : (mapWaves s g).rinkan = s.rinkan := rfl
@[simp] theorem mapWaves_boot (s : State) (g : Wave → Wave) : (mapWaves s g).boot = s.boot := rfl
@[simp] theorem mapWaves_msix (s : State) (g : Wave → Wave) : (mapWaves s g).msix = s.msix := rfl
@[simp] theorem mapWaves_placeP (s : State) (g : Wave → Wave) : (mapWaves s g).placeP = s.placeP := rfl
@[simp] theorem mapWaves_nextGid (s : State) (g : Wave → Wave) : (mapWaves s g).nextGid = s.nextGid := rfl
@[simp] theorem mapWaves_nextGrid (s : State) (g : Wave → Wave) : (mapWaves s g).nextGrid = s.nextGrid := rfl
@[simp] theorem mapWaves_nextKey (s : State) (g : Wave → Wave) : (mapWaves s g).nextKey = s.nextKey := rfl
@[simp] theorem mapWaves_stamp (s : State) (g : Wave → Wave) : (mapWaves s g).stamp = s.stamp := rfl

/-! ## putGroup -/

@[simp] theorem putGroup_turns (s : State) (gid : Nat) (g : Group) : (putGroup s gid g).turns = s.turns := rfl
@[simp] theorem putGroup_cur (s : State) (gid : Nat) (g : Group) : (putGroup s gid g).cur = s.cur := rfl
@[simp] theorem putGroup_free (s : State) (gid : Nat) (g : Group) : (putGroup s gid g).free = s.free := rfl
@[simp] theorem putGroup_clock (s : State) (gid : Nat) (g : Group) : (putGroup s gid g).clock = s.clock := rfl
@[simp] theorem putGroup_mem (s : State) (gid : Nat) (g : Group) : (putGroup s gid g).mem = s.mem := rfl
@[simp] theorem putGroup_extBytes (s : State) (gid : Nat) (g : Group) : (putGroup s gid g).extBytes = s.extBytes := rfl
@[simp] theorem putGroup_tamper (s : State) (gid : Nat) (g : Group) : (putGroup s gid g).tamper = s.tamper := rfl
@[simp] theorem putGroup_sealed (s : State) (gid : Nat) (g : Group) : (putGroup s gid g).sealed = s.sealed := rfl
@[simp] theorem putGroup_hostLines (s : State) (gid : Nat) (g : Group) : (putGroup s gid g).hostLines = s.hostLines := rfl
@[simp] theorem putGroup_waves (s : State) (gid : Nat) (g : Group) : (putGroup s gid g).waves = s.waves := rfl
@[simp] theorem putGroup_groups (s : State) (gid : Nat) (g : Group) : (putGroup s gid g).groups = Map.insert s.groups gid g := rfl
@[simp] theorem putGroup_grids (s : State) (gid : Nat) (g : Group) : (putGroup s gid g).grids = s.grids := rfl
@[simp] theorem putGroup_queues (s : State) (gid : Nat) (g : Group) : (putGroup s gid g).queues = s.queues := rfl
@[simp] theorem putGroup_ctxs (s : State) (gid : Nat) (g : Group) : (putGroup s gid g).ctxs = s.ctxs := rfl
@[simp] theorem putGroup_cores (s : State) (gid : Nat) (g : Group) : (putGroup s gid g).cores = s.cores := rfl
@[simp] theorem putGroup_coh (s : State) (gid : Nat) (g : Group) : (putGroup s gid g).coh = s.coh := rfl
@[simp] theorem putGroup_vm (s : State) (gid : Nat) (g : Group) : (putGroup s gid g).vm = s.vm := rfl
@[simp] theorem putGroup_accs (s : State) (gid : Nat) (g : Group) : (putGroup s gid g).accs = s.accs := rfl
@[simp] theorem putGroup_partials (s : State) (gid : Nat) (g : Group) : (putGroup s gid g).partials = s.partials := rfl
@[simp] theorem putGroup_arrivals (s : State) (gid : Nat) (g : Group) : (putGroup s gid g).arrivals = s.arrivals := rfl
@[simp] theorem putGroup_link (s : State) (gid : Nat) (g : Group) : (putGroup s gid g).link = s.link := rfl
@[simp] theorem putGroup_mgmt (s : State) (gid : Nat) (g : Group) : (putGroup s gid g).mgmt = s.mgmt := rfl
@[simp] theorem putGroup_rinkan (s : State) (gid : Nat) (g : Group) : (putGroup s gid g).rinkan = s.rinkan := rfl
@[simp] theorem putGroup_boot (s : State) (gid : Nat) (g : Group) : (putGroup s gid g).boot = s.boot := rfl
@[simp] theorem putGroup_msix (s : State) (gid : Nat) (g : Group) : (putGroup s gid g).msix = s.msix := rfl
@[simp] theorem putGroup_placeP (s : State) (gid : Nat) (g : Group) : (putGroup s gid g).placeP = s.placeP := rfl
@[simp] theorem putGroup_nextGid (s : State) (gid : Nat) (g : Group) : (putGroup s gid g).nextGid = s.nextGid := rfl
@[simp] theorem putGroup_nextGrid (s : State) (gid : Nat) (g : Group) : (putGroup s gid g).nextGrid = s.nextGrid := rfl
@[simp] theorem putGroup_nextKey (s : State) (gid : Nat) (g : Group) : (putGroup s gid g).nextKey = s.nextKey := rfl
@[simp] theorem putGroup_stamp (s : State) (gid : Nat) (g : Group) : (putGroup s gid g).stamp = s.stamp := rfl

/-! ## modGroup -/

@[simp] theorem modGroup_turns (s : State) (gid : Nat) (g : Group → Group) : (modGroup s gid g).turns = s.turns := rfl
@[simp] theorem modGroup_cur (s : State) (gid : Nat) (g : Group → Group) : (modGroup s gid g).cur = s.cur := rfl
@[simp] theorem modGroup_free (s : State) (gid : Nat) (g : Group → Group) : (modGroup s gid g).free = s.free := rfl
@[simp] theorem modGroup_clock (s : State) (gid : Nat) (g : Group → Group) : (modGroup s gid g).clock = s.clock := rfl
@[simp] theorem modGroup_mem (s : State) (gid : Nat) (g : Group → Group) : (modGroup s gid g).mem = s.mem := rfl
@[simp] theorem modGroup_extBytes (s : State) (gid : Nat) (g : Group → Group) : (modGroup s gid g).extBytes = s.extBytes := rfl
@[simp] theorem modGroup_tamper (s : State) (gid : Nat) (g : Group → Group) : (modGroup s gid g).tamper = s.tamper := rfl
@[simp] theorem modGroup_sealed (s : State) (gid : Nat) (g : Group → Group) : (modGroup s gid g).sealed = s.sealed := rfl
@[simp] theorem modGroup_hostLines (s : State) (gid : Nat) (g : Group → Group) : (modGroup s gid g).hostLines = s.hostLines := rfl
@[simp] theorem modGroup_waves (s : State) (gid : Nat) (g : Group → Group) : (modGroup s gid g).waves = s.waves := rfl
@[simp] theorem modGroup_groups (s : State) (gid : Nat) (g : Group → Group) : (modGroup s gid g).groups = Map.modify s.groups gid g := rfl
@[simp] theorem modGroup_grids (s : State) (gid : Nat) (g : Group → Group) : (modGroup s gid g).grids = s.grids := rfl
@[simp] theorem modGroup_queues (s : State) (gid : Nat) (g : Group → Group) : (modGroup s gid g).queues = s.queues := rfl
@[simp] theorem modGroup_ctxs (s : State) (gid : Nat) (g : Group → Group) : (modGroup s gid g).ctxs = s.ctxs := rfl
@[simp] theorem modGroup_cores (s : State) (gid : Nat) (g : Group → Group) : (modGroup s gid g).cores = s.cores := rfl
@[simp] theorem modGroup_coh (s : State) (gid : Nat) (g : Group → Group) : (modGroup s gid g).coh = s.coh := rfl
@[simp] theorem modGroup_vm (s : State) (gid : Nat) (g : Group → Group) : (modGroup s gid g).vm = s.vm := rfl
@[simp] theorem modGroup_accs (s : State) (gid : Nat) (g : Group → Group) : (modGroup s gid g).accs = s.accs := rfl
@[simp] theorem modGroup_partials (s : State) (gid : Nat) (g : Group → Group) : (modGroup s gid g).partials = s.partials := rfl
@[simp] theorem modGroup_arrivals (s : State) (gid : Nat) (g : Group → Group) : (modGroup s gid g).arrivals = s.arrivals := rfl
@[simp] theorem modGroup_link (s : State) (gid : Nat) (g : Group → Group) : (modGroup s gid g).link = s.link := rfl
@[simp] theorem modGroup_mgmt (s : State) (gid : Nat) (g : Group → Group) : (modGroup s gid g).mgmt = s.mgmt := rfl
@[simp] theorem modGroup_rinkan (s : State) (gid : Nat) (g : Group → Group) : (modGroup s gid g).rinkan = s.rinkan := rfl
@[simp] theorem modGroup_boot (s : State) (gid : Nat) (g : Group → Group) : (modGroup s gid g).boot = s.boot := rfl
@[simp] theorem modGroup_msix (s : State) (gid : Nat) (g : Group → Group) : (modGroup s gid g).msix = s.msix := rfl
@[simp] theorem modGroup_placeP (s : State) (gid : Nat) (g : Group → Group) : (modGroup s gid g).placeP = s.placeP := rfl
@[simp] theorem modGroup_nextGid (s : State) (gid : Nat) (g : Group → Group) : (modGroup s gid g).nextGid = s.nextGid := rfl
@[simp] theorem modGroup_nextGrid (s : State) (gid : Nat) (g : Group → Group) : (modGroup s gid g).nextGrid = s.nextGrid := rfl
@[simp] theorem modGroup_nextKey (s : State) (gid : Nat) (g : Group → Group) : (modGroup s gid g).nextKey = s.nextKey := rfl
@[simp] theorem modGroup_stamp (s : State) (gid : Nat) (g : Group → Group) : (modGroup s gid g).stamp = s.stamp := rfl

/-! ## putDraw -/

@[simp] theorem putDraw_turns (s : State) (gi : Nat) (d : Draw) : (putDraw s gi d).turns = s.turns := rfl
@[simp] theorem putDraw_cur (s : State) (gi : Nat) (d : Draw) : (putDraw s gi d).cur = s.cur := rfl
@[simp] theorem putDraw_free (s : State) (gi : Nat) (d : Draw) : (putDraw s gi d).free = s.free := rfl
@[simp] theorem putDraw_clock (s : State) (gi : Nat) (d : Draw) : (putDraw s gi d).clock = s.clock := rfl
@[simp] theorem putDraw_mem (s : State) (gi : Nat) (d : Draw) : (putDraw s gi d).mem = s.mem := rfl
@[simp] theorem putDraw_extBytes (s : State) (gi : Nat) (d : Draw) : (putDraw s gi d).extBytes = s.extBytes := rfl
@[simp] theorem putDraw_tamper (s : State) (gi : Nat) (d : Draw) : (putDraw s gi d).tamper = s.tamper := rfl
@[simp] theorem putDraw_sealed (s : State) (gi : Nat) (d : Draw) : (putDraw s gi d).sealed = s.sealed := rfl
@[simp] theorem putDraw_hostLines (s : State) (gi : Nat) (d : Draw) : (putDraw s gi d).hostLines = s.hostLines := rfl
@[simp] theorem putDraw_waves (s : State) (gi : Nat) (d : Draw) : (putDraw s gi d).waves = s.waves := rfl
@[simp] theorem putDraw_groups (s : State) (gi : Nat) (d : Draw) : (putDraw s gi d).groups = s.groups := rfl
@[simp] theorem putDraw_grids (s : State) (gi : Nat) (d : Draw) : (putDraw s gi d).grids = Map.modify s.grids gi (fun g => { g with draw := some d }) := rfl
@[simp] theorem putDraw_queues (s : State) (gi : Nat) (d : Draw) : (putDraw s gi d).queues = s.queues := rfl
@[simp] theorem putDraw_ctxs (s : State) (gi : Nat) (d : Draw) : (putDraw s gi d).ctxs = s.ctxs := rfl
@[simp] theorem putDraw_cores (s : State) (gi : Nat) (d : Draw) : (putDraw s gi d).cores = s.cores := rfl
@[simp] theorem putDraw_coh (s : State) (gi : Nat) (d : Draw) : (putDraw s gi d).coh = s.coh := rfl
@[simp] theorem putDraw_vm (s : State) (gi : Nat) (d : Draw) : (putDraw s gi d).vm = s.vm := rfl
@[simp] theorem putDraw_accs (s : State) (gi : Nat) (d : Draw) : (putDraw s gi d).accs = s.accs := rfl
@[simp] theorem putDraw_partials (s : State) (gi : Nat) (d : Draw) : (putDraw s gi d).partials = s.partials := rfl
@[simp] theorem putDraw_arrivals (s : State) (gi : Nat) (d : Draw) : (putDraw s gi d).arrivals = s.arrivals := rfl
@[simp] theorem putDraw_link (s : State) (gi : Nat) (d : Draw) : (putDraw s gi d).link = s.link := rfl
@[simp] theorem putDraw_mgmt (s : State) (gi : Nat) (d : Draw) : (putDraw s gi d).mgmt = s.mgmt := rfl
@[simp] theorem putDraw_rinkan (s : State) (gi : Nat) (d : Draw) : (putDraw s gi d).rinkan = s.rinkan := rfl
@[simp] theorem putDraw_boot (s : State) (gi : Nat) (d : Draw) : (putDraw s gi d).boot = s.boot := rfl
@[simp] theorem putDraw_msix (s : State) (gi : Nat) (d : Draw) : (putDraw s gi d).msix = s.msix := rfl
@[simp] theorem putDraw_placeP (s : State) (gi : Nat) (d : Draw) : (putDraw s gi d).placeP = s.placeP := rfl
@[simp] theorem putDraw_nextGid (s : State) (gi : Nat) (d : Draw) : (putDraw s gi d).nextGid = s.nextGid := rfl
@[simp] theorem putDraw_nextGrid (s : State) (gi : Nat) (d : Draw) : (putDraw s gi d).nextGrid = s.nextGrid := rfl
@[simp] theorem putDraw_nextKey (s : State) (gi : Nat) (d : Draw) : (putDraw s gi d).nextKey = s.nextKey := rfl
@[simp] theorem putDraw_stamp (s : State) (gi : Nat) (d : Draw) : (putDraw s gi d).stamp = s.stamp := rfl

/-! ## putQueue -/

@[simp] theorem putQueue_turns (s : State) (q : Nat) (x : Queue) : (putQueue s q x).turns = s.turns := rfl
@[simp] theorem putQueue_cur (s : State) (q : Nat) (x : Queue) : (putQueue s q x).cur = s.cur := rfl
@[simp] theorem putQueue_free (s : State) (q : Nat) (x : Queue) : (putQueue s q x).free = s.free := rfl
@[simp] theorem putQueue_clock (s : State) (q : Nat) (x : Queue) : (putQueue s q x).clock = s.clock := rfl
@[simp] theorem putQueue_mem (s : State) (q : Nat) (x : Queue) : (putQueue s q x).mem = s.mem := rfl
@[simp] theorem putQueue_extBytes (s : State) (q : Nat) (x : Queue) : (putQueue s q x).extBytes = s.extBytes := rfl
@[simp] theorem putQueue_tamper (s : State) (q : Nat) (x : Queue) : (putQueue s q x).tamper = s.tamper := rfl
@[simp] theorem putQueue_sealed (s : State) (q : Nat) (x : Queue) : (putQueue s q x).sealed = s.sealed := rfl
@[simp] theorem putQueue_hostLines (s : State) (q : Nat) (x : Queue) : (putQueue s q x).hostLines = s.hostLines := rfl
@[simp] theorem putQueue_waves (s : State) (q : Nat) (x : Queue) : (putQueue s q x).waves = s.waves := rfl
@[simp] theorem putQueue_groups (s : State) (q : Nat) (x : Queue) : (putQueue s q x).groups = s.groups := rfl
@[simp] theorem putQueue_grids (s : State) (q : Nat) (x : Queue) : (putQueue s q x).grids = s.grids := rfl
@[simp] theorem putQueue_queues (s : State) (q : Nat) (x : Queue) : (putQueue s q x).queues = Tab.set Queue.init s.queues q x := rfl
@[simp] theorem putQueue_ctxs (s : State) (q : Nat) (x : Queue) : (putQueue s q x).ctxs = s.ctxs := rfl
@[simp] theorem putQueue_cores (s : State) (q : Nat) (x : Queue) : (putQueue s q x).cores = s.cores := rfl
@[simp] theorem putQueue_coh (s : State) (q : Nat) (x : Queue) : (putQueue s q x).coh = s.coh := rfl
@[simp] theorem putQueue_vm (s : State) (q : Nat) (x : Queue) : (putQueue s q x).vm = s.vm := rfl
@[simp] theorem putQueue_accs (s : State) (q : Nat) (x : Queue) : (putQueue s q x).accs = s.accs := rfl
@[simp] theorem putQueue_partials (s : State) (q : Nat) (x : Queue) : (putQueue s q x).partials = s.partials := rfl
@[simp] theorem putQueue_arrivals (s : State) (q : Nat) (x : Queue) : (putQueue s q x).arrivals = s.arrivals := rfl
@[simp] theorem putQueue_link (s : State) (q : Nat) (x : Queue) : (putQueue s q x).link = s.link := rfl
@[simp] theorem putQueue_mgmt (s : State) (q : Nat) (x : Queue) : (putQueue s q x).mgmt = s.mgmt := rfl
@[simp] theorem putQueue_rinkan (s : State) (q : Nat) (x : Queue) : (putQueue s q x).rinkan = s.rinkan := rfl
@[simp] theorem putQueue_boot (s : State) (q : Nat) (x : Queue) : (putQueue s q x).boot = s.boot := rfl
@[simp] theorem putQueue_msix (s : State) (q : Nat) (x : Queue) : (putQueue s q x).msix = s.msix := rfl
@[simp] theorem putQueue_placeP (s : State) (q : Nat) (x : Queue) : (putQueue s q x).placeP = s.placeP := rfl
@[simp] theorem putQueue_nextGid (s : State) (q : Nat) (x : Queue) : (putQueue s q x).nextGid = s.nextGid := rfl
@[simp] theorem putQueue_nextGrid (s : State) (q : Nat) (x : Queue) : (putQueue s q x).nextGrid = s.nextGrid := rfl
@[simp] theorem putQueue_nextKey (s : State) (q : Nat) (x : Queue) : (putQueue s q x).nextKey = s.nextKey := rfl
@[simp] theorem putQueue_stamp (s : State) (q : Nat) (x : Queue) : (putQueue s q x).stamp = s.stamp := rfl

/-! ## putCore -/

@[simp] theorem putCore_turns (s : State) (core : Nat) (c : Core) : (putCore s core c).turns = s.turns := rfl
@[simp] theorem putCore_cur (s : State) (core : Nat) (c : Core) : (putCore s core c).cur = s.cur := rfl
@[simp] theorem putCore_free (s : State) (core : Nat) (c : Core) : (putCore s core c).free = s.free := rfl
@[simp] theorem putCore_clock (s : State) (core : Nat) (c : Core) : (putCore s core c).clock = s.clock := rfl
@[simp] theorem putCore_mem (s : State) (core : Nat) (c : Core) : (putCore s core c).mem = s.mem := rfl
@[simp] theorem putCore_extBytes (s : State) (core : Nat) (c : Core) : (putCore s core c).extBytes = s.extBytes := rfl
@[simp] theorem putCore_tamper (s : State) (core : Nat) (c : Core) : (putCore s core c).tamper = s.tamper := rfl
@[simp] theorem putCore_sealed (s : State) (core : Nat) (c : Core) : (putCore s core c).sealed = s.sealed := rfl
@[simp] theorem putCore_hostLines (s : State) (core : Nat) (c : Core) : (putCore s core c).hostLines = s.hostLines := rfl
@[simp] theorem putCore_waves (s : State) (core : Nat) (c : Core) : (putCore s core c).waves = s.waves := rfl
@[simp] theorem putCore_groups (s : State) (core : Nat) (c : Core) : (putCore s core c).groups = s.groups := rfl
@[simp] theorem putCore_grids (s : State) (core : Nat) (c : Core) : (putCore s core c).grids = s.grids := rfl
@[simp] theorem putCore_queues (s : State) (core : Nat) (c : Core) : (putCore s core c).queues = s.queues := rfl
@[simp] theorem putCore_ctxs (s : State) (core : Nat) (c : Core) : (putCore s core c).ctxs = s.ctxs := rfl
@[simp] theorem putCore_cores (s : State) (core : Nat) (c : Core) : (putCore s core c).cores = Tab.set Core.init s.cores core c := rfl
@[simp] theorem putCore_coh (s : State) (core : Nat) (c : Core) : (putCore s core c).coh = s.coh := rfl
@[simp] theorem putCore_vm (s : State) (core : Nat) (c : Core) : (putCore s core c).vm = s.vm := rfl
@[simp] theorem putCore_accs (s : State) (core : Nat) (c : Core) : (putCore s core c).accs = s.accs := rfl
@[simp] theorem putCore_partials (s : State) (core : Nat) (c : Core) : (putCore s core c).partials = s.partials := rfl
@[simp] theorem putCore_arrivals (s : State) (core : Nat) (c : Core) : (putCore s core c).arrivals = s.arrivals := rfl
@[simp] theorem putCore_link (s : State) (core : Nat) (c : Core) : (putCore s core c).link = s.link := rfl
@[simp] theorem putCore_mgmt (s : State) (core : Nat) (c : Core) : (putCore s core c).mgmt = s.mgmt := rfl
@[simp] theorem putCore_rinkan (s : State) (core : Nat) (c : Core) : (putCore s core c).rinkan = s.rinkan := rfl
@[simp] theorem putCore_boot (s : State) (core : Nat) (c : Core) : (putCore s core c).boot = s.boot := rfl
@[simp] theorem putCore_msix (s : State) (core : Nat) (c : Core) : (putCore s core c).msix = s.msix := rfl
@[simp] theorem putCore_placeP (s : State) (core : Nat) (c : Core) : (putCore s core c).placeP = s.placeP := rfl
@[simp] theorem putCore_nextGid (s : State) (core : Nat) (c : Core) : (putCore s core c).nextGid = s.nextGid := rfl
@[simp] theorem putCore_nextGrid (s : State) (core : Nat) (c : Core) : (putCore s core c).nextGrid = s.nextGrid := rfl
@[simp] theorem putCore_nextKey (s : State) (core : Nat) (c : Core) : (putCore s core c).nextKey = s.nextKey := rfl
@[simp] theorem putCore_stamp (s : State) (core : Nat) (c : Core) : (putCore s core c).stamp = s.stamp := rfl

/-! ## modCtx -/

@[simp] theorem modCtx_turns (s : State) (ctx : Nat) (f : Ctx → Ctx) : (modCtx s ctx f).turns = s.turns := rfl
@[simp] theorem modCtx_cur (s : State) (ctx : Nat) (f : Ctx → Ctx) : (modCtx s ctx f).cur = s.cur := rfl
@[simp] theorem modCtx_free (s : State) (ctx : Nat) (f : Ctx → Ctx) : (modCtx s ctx f).free = s.free := rfl
@[simp] theorem modCtx_clock (s : State) (ctx : Nat) (f : Ctx → Ctx) : (modCtx s ctx f).clock = s.clock := rfl
@[simp] theorem modCtx_mem (s : State) (ctx : Nat) (f : Ctx → Ctx) : (modCtx s ctx f).mem = s.mem := rfl
@[simp] theorem modCtx_extBytes (s : State) (ctx : Nat) (f : Ctx → Ctx) : (modCtx s ctx f).extBytes = s.extBytes := rfl
@[simp] theorem modCtx_tamper (s : State) (ctx : Nat) (f : Ctx → Ctx) : (modCtx s ctx f).tamper = s.tamper := rfl
@[simp] theorem modCtx_sealed (s : State) (ctx : Nat) (f : Ctx → Ctx) : (modCtx s ctx f).sealed = s.sealed := rfl
@[simp] theorem modCtx_hostLines (s : State) (ctx : Nat) (f : Ctx → Ctx) : (modCtx s ctx f).hostLines = s.hostLines := rfl
@[simp] theorem modCtx_waves (s : State) (ctx : Nat) (f : Ctx → Ctx) : (modCtx s ctx f).waves = s.waves := rfl
@[simp] theorem modCtx_groups (s : State) (ctx : Nat) (f : Ctx → Ctx) : (modCtx s ctx f).groups = s.groups := rfl
@[simp] theorem modCtx_grids (s : State) (ctx : Nat) (f : Ctx → Ctx) : (modCtx s ctx f).grids = s.grids := rfl
@[simp] theorem modCtx_queues (s : State) (ctx : Nat) (f : Ctx → Ctx) : (modCtx s ctx f).queues = s.queues := rfl
@[simp] theorem modCtx_ctxs (s : State) (ctx : Nat) (f : Ctx → Ctx) : (modCtx s ctx f).ctxs = Map.modify s.ctxs ctx f := rfl
@[simp] theorem modCtx_cores (s : State) (ctx : Nat) (f : Ctx → Ctx) : (modCtx s ctx f).cores = s.cores := rfl
@[simp] theorem modCtx_coh (s : State) (ctx : Nat) (f : Ctx → Ctx) : (modCtx s ctx f).coh = s.coh := rfl
@[simp] theorem modCtx_vm (s : State) (ctx : Nat) (f : Ctx → Ctx) : (modCtx s ctx f).vm = s.vm := rfl
@[simp] theorem modCtx_accs (s : State) (ctx : Nat) (f : Ctx → Ctx) : (modCtx s ctx f).accs = s.accs := rfl
@[simp] theorem modCtx_partials (s : State) (ctx : Nat) (f : Ctx → Ctx) : (modCtx s ctx f).partials = s.partials := rfl
@[simp] theorem modCtx_arrivals (s : State) (ctx : Nat) (f : Ctx → Ctx) : (modCtx s ctx f).arrivals = s.arrivals := rfl
@[simp] theorem modCtx_link (s : State) (ctx : Nat) (f : Ctx → Ctx) : (modCtx s ctx f).link = s.link := rfl
@[simp] theorem modCtx_mgmt (s : State) (ctx : Nat) (f : Ctx → Ctx) : (modCtx s ctx f).mgmt = s.mgmt := rfl
@[simp] theorem modCtx_rinkan (s : State) (ctx : Nat) (f : Ctx → Ctx) : (modCtx s ctx f).rinkan = s.rinkan := rfl
@[simp] theorem modCtx_boot (s : State) (ctx : Nat) (f : Ctx → Ctx) : (modCtx s ctx f).boot = s.boot := rfl
@[simp] theorem modCtx_msix (s : State) (ctx : Nat) (f : Ctx → Ctx) : (modCtx s ctx f).msix = s.msix := rfl
@[simp] theorem modCtx_placeP (s : State) (ctx : Nat) (f : Ctx → Ctx) : (modCtx s ctx f).placeP = s.placeP := rfl
@[simp] theorem modCtx_nextGid (s : State) (ctx : Nat) (f : Ctx → Ctx) : (modCtx s ctx f).nextGid = s.nextGid := rfl
@[simp] theorem modCtx_nextGrid (s : State) (ctx : Nat) (f : Ctx → Ctx) : (modCtx s ctx f).nextGrid = s.nextGrid := rfl
@[simp] theorem modCtx_nextKey (s : State) (ctx : Nat) (f : Ctx → Ctx) : (modCtx s ctx f).nextKey = s.nextKey := rfl
@[simp] theorem modCtx_stamp (s : State) (ctx : Nat) (f : Ctx → Ctx) : (modCtx s ctx f).stamp = s.stamp := rfl

/-! ## setDir -/

@[simp] theorem setDir_turns (s : State) (line : Nat) (d : Dir) : (setDir s line d).turns = s.turns := rfl
@[simp] theorem setDir_cur (s : State) (line : Nat) (d : Dir) : (setDir s line d).cur = s.cur := rfl
@[simp] theorem setDir_free (s : State) (line : Nat) (d : Dir) : (setDir s line d).free = s.free := rfl
@[simp] theorem setDir_clock (s : State) (line : Nat) (d : Dir) : (setDir s line d).clock = s.clock := rfl
@[simp] theorem setDir_mem (s : State) (line : Nat) (d : Dir) : (setDir s line d).mem = s.mem := rfl
@[simp] theorem setDir_extBytes (s : State) (line : Nat) (d : Dir) : (setDir s line d).extBytes = s.extBytes := rfl
@[simp] theorem setDir_tamper (s : State) (line : Nat) (d : Dir) : (setDir s line d).tamper = s.tamper := rfl
@[simp] theorem setDir_sealed (s : State) (line : Nat) (d : Dir) : (setDir s line d).sealed = s.sealed := rfl
@[simp] theorem setDir_hostLines (s : State) (line : Nat) (d : Dir) : (setDir s line d).hostLines = s.hostLines := rfl
@[simp] theorem setDir_waves (s : State) (line : Nat) (d : Dir) : (setDir s line d).waves = s.waves := rfl
@[simp] theorem setDir_groups (s : State) (line : Nat) (d : Dir) : (setDir s line d).groups = s.groups := rfl
@[simp] theorem setDir_grids (s : State) (line : Nat) (d : Dir) : (setDir s line d).grids = s.grids := rfl
@[simp] theorem setDir_queues (s : State) (line : Nat) (d : Dir) : (setDir s line d).queues = s.queues := rfl
@[simp] theorem setDir_ctxs (s : State) (line : Nat) (d : Dir) : (setDir s line d).ctxs = s.ctxs := rfl
@[simp] theorem setDir_cores (s : State) (line : Nat) (d : Dir) : (setDir s line d).cores = s.cores := rfl
@[simp] theorem setDir_coh (s : State) (line : Nat) (d : Dir) : (setDir s line d).coh = { s.coh with dir := Tab.set Dir.init s.coh.dir line d } := rfl
@[simp] theorem setDir_vm (s : State) (line : Nat) (d : Dir) : (setDir s line d).vm = s.vm := rfl
@[simp] theorem setDir_accs (s : State) (line : Nat) (d : Dir) : (setDir s line d).accs = s.accs := rfl
@[simp] theorem setDir_partials (s : State) (line : Nat) (d : Dir) : (setDir s line d).partials = s.partials := rfl
@[simp] theorem setDir_arrivals (s : State) (line : Nat) (d : Dir) : (setDir s line d).arrivals = s.arrivals := rfl
@[simp] theorem setDir_link (s : State) (line : Nat) (d : Dir) : (setDir s line d).link = s.link := rfl
@[simp] theorem setDir_mgmt (s : State) (line : Nat) (d : Dir) : (setDir s line d).mgmt = s.mgmt := rfl
@[simp] theorem setDir_rinkan (s : State) (line : Nat) (d : Dir) : (setDir s line d).rinkan = s.rinkan := rfl
@[simp] theorem setDir_boot (s : State) (line : Nat) (d : Dir) : (setDir s line d).boot = s.boot := rfl
@[simp] theorem setDir_msix (s : State) (line : Nat) (d : Dir) : (setDir s line d).msix = s.msix := rfl
@[simp] theorem setDir_placeP (s : State) (line : Nat) (d : Dir) : (setDir s line d).placeP = s.placeP := rfl
@[simp] theorem setDir_nextGid (s : State) (line : Nat) (d : Dir) : (setDir s line d).nextGid = s.nextGid := rfl
@[simp] theorem setDir_nextGrid (s : State) (line : Nat) (d : Dir) : (setDir s line d).nextGrid = s.nextGrid := rfl
@[simp] theorem setDir_nextKey (s : State) (line : Nat) (d : Dir) : (setDir s line d).nextKey = s.nextKey := rfl
@[simp] theorem setDir_stamp (s : State) (line : Nat) (d : Dir) : (setDir s line d).stamp = s.stamp := rfl

/-! ## setL1 -/

@[simp] theorem setL1_turns (s : State) (core line : Nat) (l : L1Line) : (setL1 s core line l).turns = s.turns := rfl
@[simp] theorem setL1_cur (s : State) (core line : Nat) (l : L1Line) : (setL1 s core line l).cur = s.cur := rfl
@[simp] theorem setL1_free (s : State) (core line : Nat) (l : L1Line) : (setL1 s core line l).free = s.free := rfl
@[simp] theorem setL1_clock (s : State) (core line : Nat) (l : L1Line) : (setL1 s core line l).clock = s.clock := rfl
@[simp] theorem setL1_mem (s : State) (core line : Nat) (l : L1Line) : (setL1 s core line l).mem = s.mem := rfl
@[simp] theorem setL1_extBytes (s : State) (core line : Nat) (l : L1Line) : (setL1 s core line l).extBytes = s.extBytes := rfl
@[simp] theorem setL1_tamper (s : State) (core line : Nat) (l : L1Line) : (setL1 s core line l).tamper = s.tamper := rfl
@[simp] theorem setL1_sealed (s : State) (core line : Nat) (l : L1Line) : (setL1 s core line l).sealed = s.sealed := rfl
@[simp] theorem setL1_hostLines (s : State) (core line : Nat) (l : L1Line) : (setL1 s core line l).hostLines = s.hostLines := rfl
@[simp] theorem setL1_waves (s : State) (core line : Nat) (l : L1Line) : (setL1 s core line l).waves = s.waves := rfl
@[simp] theorem setL1_groups (s : State) (core line : Nat) (l : L1Line) : (setL1 s core line l).groups = s.groups := rfl
@[simp] theorem setL1_grids (s : State) (core line : Nat) (l : L1Line) : (setL1 s core line l).grids = s.grids := rfl
@[simp] theorem setL1_queues (s : State) (core line : Nat) (l : L1Line) : (setL1 s core line l).queues = s.queues := rfl
@[simp] theorem setL1_ctxs (s : State) (core line : Nat) (l : L1Line) : (setL1 s core line l).ctxs = s.ctxs := rfl
@[simp] theorem setL1_cores (s : State) (core line : Nat) (l : L1Line) : (setL1 s core line l).cores = s.cores := rfl
@[simp] theorem setL1_coh (s : State) (core line : Nat) (l : L1Line) : (setL1 s core line l).coh = { s.coh with l1 := Map.insert s.coh.l1 (l1Key core line) l } := rfl
@[simp] theorem setL1_vm (s : State) (core line : Nat) (l : L1Line) : (setL1 s core line l).vm = s.vm := rfl
@[simp] theorem setL1_accs (s : State) (core line : Nat) (l : L1Line) : (setL1 s core line l).accs = s.accs := rfl
@[simp] theorem setL1_partials (s : State) (core line : Nat) (l : L1Line) : (setL1 s core line l).partials = s.partials := rfl
@[simp] theorem setL1_arrivals (s : State) (core line : Nat) (l : L1Line) : (setL1 s core line l).arrivals = s.arrivals := rfl
@[simp] theorem setL1_link (s : State) (core line : Nat) (l : L1Line) : (setL1 s core line l).link = s.link := rfl
@[simp] theorem setL1_mgmt (s : State) (core line : Nat) (l : L1Line) : (setL1 s core line l).mgmt = s.mgmt := rfl
@[simp] theorem setL1_rinkan (s : State) (core line : Nat) (l : L1Line) : (setL1 s core line l).rinkan = s.rinkan := rfl
@[simp] theorem setL1_boot (s : State) (core line : Nat) (l : L1Line) : (setL1 s core line l).boot = s.boot := rfl
@[simp] theorem setL1_msix (s : State) (core line : Nat) (l : L1Line) : (setL1 s core line l).msix = s.msix := rfl
@[simp] theorem setL1_placeP (s : State) (core line : Nat) (l : L1Line) : (setL1 s core line l).placeP = s.placeP := rfl
@[simp] theorem setL1_nextGid (s : State) (core line : Nat) (l : L1Line) : (setL1 s core line l).nextGid = s.nextGid := rfl
@[simp] theorem setL1_nextGrid (s : State) (core line : Nat) (l : L1Line) : (setL1 s core line l).nextGrid = s.nextGrid := rfl
@[simp] theorem setL1_nextKey (s : State) (core line : Nat) (l : L1Line) : (setL1 s core line l).nextKey = s.nextKey := rfl
@[simp] theorem setL1_stamp (s : State) (core line : Nat) (l : L1Line) : (setL1 s core line l).stamp = s.stamp := rfl

/-! ## dropL1Line -/

@[simp] theorem dropL1Line_turns (s : State) (core line : Nat) : (dropL1Line s core line).turns = s.turns := rfl
@[simp] theorem dropL1Line_cur (s : State) (core line : Nat) : (dropL1Line s core line).cur = s.cur := rfl
@[simp] theorem dropL1Line_free (s : State) (core line : Nat) : (dropL1Line s core line).free = s.free := rfl
@[simp] theorem dropL1Line_clock (s : State) (core line : Nat) : (dropL1Line s core line).clock = s.clock := rfl
@[simp] theorem dropL1Line_mem (s : State) (core line : Nat) : (dropL1Line s core line).mem = s.mem := rfl
@[simp] theorem dropL1Line_extBytes (s : State) (core line : Nat) : (dropL1Line s core line).extBytes = s.extBytes := rfl
@[simp] theorem dropL1Line_tamper (s : State) (core line : Nat) : (dropL1Line s core line).tamper = s.tamper := rfl
@[simp] theorem dropL1Line_sealed (s : State) (core line : Nat) : (dropL1Line s core line).sealed = s.sealed := rfl
@[simp] theorem dropL1Line_hostLines (s : State) (core line : Nat) : (dropL1Line s core line).hostLines = s.hostLines := rfl
@[simp] theorem dropL1Line_waves (s : State) (core line : Nat) : (dropL1Line s core line).waves = s.waves := rfl
@[simp] theorem dropL1Line_groups (s : State) (core line : Nat) : (dropL1Line s core line).groups = s.groups := rfl
@[simp] theorem dropL1Line_grids (s : State) (core line : Nat) : (dropL1Line s core line).grids = s.grids := rfl
@[simp] theorem dropL1Line_queues (s : State) (core line : Nat) : (dropL1Line s core line).queues = s.queues := rfl
@[simp] theorem dropL1Line_ctxs (s : State) (core line : Nat) : (dropL1Line s core line).ctxs = s.ctxs := rfl
@[simp] theorem dropL1Line_cores (s : State) (core line : Nat) : (dropL1Line s core line).cores = s.cores := rfl
@[simp] theorem dropL1Line_coh (s : State) (core line : Nat) : (dropL1Line s core line).coh = { s.coh with l1 := Map.erase s.coh.l1 (l1Key core line) } := rfl
@[simp] theorem dropL1Line_vm (s : State) (core line : Nat) : (dropL1Line s core line).vm = s.vm := rfl
@[simp] theorem dropL1Line_accs (s : State) (core line : Nat) : (dropL1Line s core line).accs = s.accs := rfl
@[simp] theorem dropL1Line_partials (s : State) (core line : Nat) : (dropL1Line s core line).partials = s.partials := rfl
@[simp] theorem dropL1Line_arrivals (s : State) (core line : Nat) : (dropL1Line s core line).arrivals = s.arrivals := rfl
@[simp] theorem dropL1Line_link (s : State) (core line : Nat) : (dropL1Line s core line).link = s.link := rfl
@[simp] theorem dropL1Line_mgmt (s : State) (core line : Nat) : (dropL1Line s core line).mgmt = s.mgmt := rfl
@[simp] theorem dropL1Line_rinkan (s : State) (core line : Nat) : (dropL1Line s core line).rinkan = s.rinkan := rfl
@[simp] theorem dropL1Line_boot (s : State) (core line : Nat) : (dropL1Line s core line).boot = s.boot := rfl
@[simp] theorem dropL1Line_msix (s : State) (core line : Nat) : (dropL1Line s core line).msix = s.msix := rfl
@[simp] theorem dropL1Line_placeP (s : State) (core line : Nat) : (dropL1Line s core line).placeP = s.placeP := rfl
@[simp] theorem dropL1Line_nextGid (s : State) (core line : Nat) : (dropL1Line s core line).nextGid = s.nextGid := rfl
@[simp] theorem dropL1Line_nextGrid (s : State) (core line : Nat) : (dropL1Line s core line).nextGrid = s.nextGrid := rfl
@[simp] theorem dropL1Line_nextKey (s : State) (core line : Nat) : (dropL1Line s core line).nextKey = s.nextKey := rfl
@[simp] theorem dropL1Line_stamp (s : State) (core line : Nat) : (dropL1Line s core line).stamp = s.stamp := rfl

/-! ## sendMsg -/

@[simp] theorem sendMsg_turns (s : State) (m : Msg) : (sendMsg s m).turns = s.turns := rfl
@[simp] theorem sendMsg_cur (s : State) (m : Msg) : (sendMsg s m).cur = s.cur := rfl
@[simp] theorem sendMsg_free (s : State) (m : Msg) : (sendMsg s m).free = s.free := rfl
@[simp] theorem sendMsg_clock (s : State) (m : Msg) : (sendMsg s m).clock = s.clock := rfl
@[simp] theorem sendMsg_mem (s : State) (m : Msg) : (sendMsg s m).mem = s.mem := rfl
@[simp] theorem sendMsg_extBytes (s : State) (m : Msg) : (sendMsg s m).extBytes = s.extBytes := rfl
@[simp] theorem sendMsg_tamper (s : State) (m : Msg) : (sendMsg s m).tamper = s.tamper := rfl
@[simp] theorem sendMsg_sealed (s : State) (m : Msg) : (sendMsg s m).sealed = s.sealed := rfl
@[simp] theorem sendMsg_hostLines (s : State) (m : Msg) : (sendMsg s m).hostLines = s.hostLines := rfl
@[simp] theorem sendMsg_waves (s : State) (m : Msg) : (sendMsg s m).waves = s.waves := rfl
@[simp] theorem sendMsg_groups (s : State) (m : Msg) : (sendMsg s m).groups = s.groups := rfl
@[simp] theorem sendMsg_grids (s : State) (m : Msg) : (sendMsg s m).grids = s.grids := rfl
@[simp] theorem sendMsg_queues (s : State) (m : Msg) : (sendMsg s m).queues = s.queues := rfl
@[simp] theorem sendMsg_ctxs (s : State) (m : Msg) : (sendMsg s m).ctxs = s.ctxs := rfl
@[simp] theorem sendMsg_cores (s : State) (m : Msg) : (sendMsg s m).cores = s.cores := rfl
@[simp] theorem sendMsg_coh (s : State) (m : Msg) : (sendMsg s m).coh = { s.coh with msgs := s.coh.msgs ++ [m.at_ s.clock] } := rfl
@[simp] theorem sendMsg_vm (s : State) (m : Msg) : (sendMsg s m).vm = s.vm := rfl
@[simp] theorem sendMsg_accs (s : State) (m : Msg) : (sendMsg s m).accs = s.accs := rfl
@[simp] theorem sendMsg_partials (s : State) (m : Msg) : (sendMsg s m).partials = s.partials := rfl
@[simp] theorem sendMsg_arrivals (s : State) (m : Msg) : (sendMsg s m).arrivals = s.arrivals := rfl
@[simp] theorem sendMsg_link (s : State) (m : Msg) : (sendMsg s m).link = s.link := rfl
@[simp] theorem sendMsg_mgmt (s : State) (m : Msg) : (sendMsg s m).mgmt = s.mgmt := rfl
@[simp] theorem sendMsg_rinkan (s : State) (m : Msg) : (sendMsg s m).rinkan = s.rinkan := rfl
@[simp] theorem sendMsg_boot (s : State) (m : Msg) : (sendMsg s m).boot = s.boot := rfl
@[simp] theorem sendMsg_msix (s : State) (m : Msg) : (sendMsg s m).msix = s.msix := rfl
@[simp] theorem sendMsg_placeP (s : State) (m : Msg) : (sendMsg s m).placeP = s.placeP := rfl
@[simp] theorem sendMsg_nextGid (s : State) (m : Msg) : (sendMsg s m).nextGid = s.nextGid := rfl
@[simp] theorem sendMsg_nextGrid (s : State) (m : Msg) : (sendMsg s m).nextGrid = s.nextGrid := rfl
@[simp] theorem sendMsg_nextKey (s : State) (m : Msg) : (sendMsg s m).nextKey = s.nextKey := rfl
@[simp] theorem sendMsg_stamp (s : State) (m : Msg) : (sendMsg s m).stamp = s.stamp := rfl

/-! ## putPort -/

@[simp] theorem putPort_turns (s : State) (p : Nat) (x : Port) : (putPort s p x).turns = s.turns := rfl
@[simp] theorem putPort_cur (s : State) (p : Nat) (x : Port) : (putPort s p x).cur = s.cur := rfl
@[simp] theorem putPort_free (s : State) (p : Nat) (x : Port) : (putPort s p x).free = s.free := rfl
@[simp] theorem putPort_clock (s : State) (p : Nat) (x : Port) : (putPort s p x).clock = s.clock := rfl
@[simp] theorem putPort_mem (s : State) (p : Nat) (x : Port) : (putPort s p x).mem = s.mem := rfl
@[simp] theorem putPort_extBytes (s : State) (p : Nat) (x : Port) : (putPort s p x).extBytes = s.extBytes := rfl
@[simp] theorem putPort_tamper (s : State) (p : Nat) (x : Port) : (putPort s p x).tamper = s.tamper := rfl
@[simp] theorem putPort_sealed (s : State) (p : Nat) (x : Port) : (putPort s p x).sealed = s.sealed := rfl
@[simp] theorem putPort_hostLines (s : State) (p : Nat) (x : Port) : (putPort s p x).hostLines = s.hostLines := rfl
@[simp] theorem putPort_waves (s : State) (p : Nat) (x : Port) : (putPort s p x).waves = s.waves := rfl
@[simp] theorem putPort_groups (s : State) (p : Nat) (x : Port) : (putPort s p x).groups = s.groups := rfl
@[simp] theorem putPort_grids (s : State) (p : Nat) (x : Port) : (putPort s p x).grids = s.grids := rfl
@[simp] theorem putPort_queues (s : State) (p : Nat) (x : Port) : (putPort s p x).queues = s.queues := rfl
@[simp] theorem putPort_ctxs (s : State) (p : Nat) (x : Port) : (putPort s p x).ctxs = s.ctxs := rfl
@[simp] theorem putPort_cores (s : State) (p : Nat) (x : Port) : (putPort s p x).cores = s.cores := rfl
@[simp] theorem putPort_coh (s : State) (p : Nat) (x : Port) : (putPort s p x).coh = s.coh := rfl
@[simp] theorem putPort_vm (s : State) (p : Nat) (x : Port) : (putPort s p x).vm = s.vm := rfl
@[simp] theorem putPort_accs (s : State) (p : Nat) (x : Port) : (putPort s p x).accs = s.accs := rfl
@[simp] theorem putPort_partials (s : State) (p : Nat) (x : Port) : (putPort s p x).partials = s.partials := rfl
@[simp] theorem putPort_arrivals (s : State) (p : Nat) (x : Port) : (putPort s p x).arrivals = s.arrivals := rfl
@[simp] theorem putPort_link (s : State) (p : Nat) (x : Port) : (putPort s p x).link = { s.link with ports := Tab.set Port.init s.link.ports p x } := rfl
@[simp] theorem putPort_mgmt (s : State) (p : Nat) (x : Port) : (putPort s p x).mgmt = s.mgmt := rfl
@[simp] theorem putPort_rinkan (s : State) (p : Nat) (x : Port) : (putPort s p x).rinkan = s.rinkan := rfl
@[simp] theorem putPort_boot (s : State) (p : Nat) (x : Port) : (putPort s p x).boot = s.boot := rfl
@[simp] theorem putPort_msix (s : State) (p : Nat) (x : Port) : (putPort s p x).msix = s.msix := rfl
@[simp] theorem putPort_placeP (s : State) (p : Nat) (x : Port) : (putPort s p x).placeP = s.placeP := rfl
@[simp] theorem putPort_nextGid (s : State) (p : Nat) (x : Port) : (putPort s p x).nextGid = s.nextGid := rfl
@[simp] theorem putPort_nextGrid (s : State) (p : Nat) (x : Port) : (putPort s p x).nextGrid = s.nextGrid := rfl
@[simp] theorem putPort_nextKey (s : State) (p : Nat) (x : Port) : (putPort s p x).nextKey = s.nextKey := rfl
@[simp] theorem putPort_stamp (s : State) (p : Nat) (x : Port) : (putPort s p x).stamp = s.stamp := rfl

/-! ## setFrame -/

@[simp] theorem setFrame_turns (s : State) (f : Nat) (fr : Frame) : (setFrame s f fr).turns = s.turns := rfl
@[simp] theorem setFrame_cur (s : State) (f : Nat) (fr : Frame) : (setFrame s f fr).cur = s.cur := rfl
@[simp] theorem setFrame_free (s : State) (f : Nat) (fr : Frame) : (setFrame s f fr).free = s.free := rfl
@[simp] theorem setFrame_clock (s : State) (f : Nat) (fr : Frame) : (setFrame s f fr).clock = s.clock := rfl
@[simp] theorem setFrame_mem (s : State) (f : Nat) (fr : Frame) : (setFrame s f fr).mem = s.mem := rfl
@[simp] theorem setFrame_extBytes (s : State) (f : Nat) (fr : Frame) : (setFrame s f fr).extBytes = s.extBytes := rfl
@[simp] theorem setFrame_tamper (s : State) (f : Nat) (fr : Frame) : (setFrame s f fr).tamper = s.tamper := rfl
@[simp] theorem setFrame_sealed (s : State) (f : Nat) (fr : Frame) : (setFrame s f fr).sealed = s.sealed := rfl
@[simp] theorem setFrame_hostLines (s : State) (f : Nat) (fr : Frame) : (setFrame s f fr).hostLines = s.hostLines := rfl
@[simp] theorem setFrame_waves (s : State) (f : Nat) (fr : Frame) : (setFrame s f fr).waves = s.waves := rfl
@[simp] theorem setFrame_groups (s : State) (f : Nat) (fr : Frame) : (setFrame s f fr).groups = s.groups := rfl
@[simp] theorem setFrame_grids (s : State) (f : Nat) (fr : Frame) : (setFrame s f fr).grids = s.grids := rfl
@[simp] theorem setFrame_queues (s : State) (f : Nat) (fr : Frame) : (setFrame s f fr).queues = s.queues := rfl
@[simp] theorem setFrame_ctxs (s : State) (f : Nat) (fr : Frame) : (setFrame s f fr).ctxs = s.ctxs := rfl
@[simp] theorem setFrame_cores (s : State) (f : Nat) (fr : Frame) : (setFrame s f fr).cores = s.cores := rfl
@[simp] theorem setFrame_coh (s : State) (f : Nat) (fr : Frame) : (setFrame s f fr).coh = s.coh := rfl
@[simp] theorem setFrame_vm (s : State) (f : Nat) (fr : Frame) : (setFrame s f fr).vm = { s.vm with frames := Map.insert s.vm.frames f fr } := rfl
@[simp] theorem setFrame_accs (s : State) (f : Nat) (fr : Frame) : (setFrame s f fr).accs = s.accs := rfl
@[simp] theorem setFrame_partials (s : State) (f : Nat) (fr : Frame) : (setFrame s f fr).partials = s.partials := rfl
@[simp] theorem setFrame_arrivals (s : State) (f : Nat) (fr : Frame) : (setFrame s f fr).arrivals = s.arrivals := rfl
@[simp] theorem setFrame_link (s : State) (f : Nat) (fr : Frame) : (setFrame s f fr).link = s.link := rfl
@[simp] theorem setFrame_mgmt (s : State) (f : Nat) (fr : Frame) : (setFrame s f fr).mgmt = s.mgmt := rfl
@[simp] theorem setFrame_rinkan (s : State) (f : Nat) (fr : Frame) : (setFrame s f fr).rinkan = s.rinkan := rfl
@[simp] theorem setFrame_boot (s : State) (f : Nat) (fr : Frame) : (setFrame s f fr).boot = s.boot := rfl
@[simp] theorem setFrame_msix (s : State) (f : Nat) (fr : Frame) : (setFrame s f fr).msix = s.msix := rfl
@[simp] theorem setFrame_placeP (s : State) (f : Nat) (fr : Frame) : (setFrame s f fr).placeP = s.placeP := rfl
@[simp] theorem setFrame_nextGid (s : State) (f : Nat) (fr : Frame) : (setFrame s f fr).nextGid = s.nextGid := rfl
@[simp] theorem setFrame_nextGrid (s : State) (f : Nat) (fr : Frame) : (setFrame s f fr).nextGrid = s.nextGrid := rfl
@[simp] theorem setFrame_nextKey (s : State) (f : Nat) (fr : Frame) : (setFrame s f fr).nextKey = s.nextKey := rfl
@[simp] theorem setFrame_stamp (s : State) (f : Nat) (fr : Frame) : (setFrame s f fr).stamp = s.stamp := rfl

/-! ## dropFrame -/

@[simp] theorem dropFrame_turns (s : State) (f : Nat) : (dropFrame s f).turns = s.turns := rfl
@[simp] theorem dropFrame_cur (s : State) (f : Nat) : (dropFrame s f).cur = s.cur := rfl
@[simp] theorem dropFrame_free (s : State) (f : Nat) : (dropFrame s f).free = s.free := rfl
@[simp] theorem dropFrame_clock (s : State) (f : Nat) : (dropFrame s f).clock = s.clock := rfl
@[simp] theorem dropFrame_mem (s : State) (f : Nat) : (dropFrame s f).mem = s.mem := rfl
@[simp] theorem dropFrame_extBytes (s : State) (f : Nat) : (dropFrame s f).extBytes = s.extBytes := rfl
@[simp] theorem dropFrame_tamper (s : State) (f : Nat) : (dropFrame s f).tamper = s.tamper := rfl
@[simp] theorem dropFrame_sealed (s : State) (f : Nat) : (dropFrame s f).sealed = s.sealed := rfl
@[simp] theorem dropFrame_hostLines (s : State) (f : Nat) : (dropFrame s f).hostLines = s.hostLines := rfl
@[simp] theorem dropFrame_waves (s : State) (f : Nat) : (dropFrame s f).waves = s.waves := rfl
@[simp] theorem dropFrame_groups (s : State) (f : Nat) : (dropFrame s f).groups = s.groups := rfl
@[simp] theorem dropFrame_grids (s : State) (f : Nat) : (dropFrame s f).grids = s.grids := rfl
@[simp] theorem dropFrame_queues (s : State) (f : Nat) : (dropFrame s f).queues = s.queues := rfl
@[simp] theorem dropFrame_ctxs (s : State) (f : Nat) : (dropFrame s f).ctxs = s.ctxs := rfl
@[simp] theorem dropFrame_cores (s : State) (f : Nat) : (dropFrame s f).cores = s.cores := rfl
@[simp] theorem dropFrame_coh (s : State) (f : Nat) : (dropFrame s f).coh = s.coh := rfl
@[simp] theorem dropFrame_vm (s : State) (f : Nat) : (dropFrame s f).vm = { s.vm with frames := Map.erase s.vm.frames f } := rfl
@[simp] theorem dropFrame_accs (s : State) (f : Nat) : (dropFrame s f).accs = s.accs := rfl
@[simp] theorem dropFrame_partials (s : State) (f : Nat) : (dropFrame s f).partials = s.partials := rfl
@[simp] theorem dropFrame_arrivals (s : State) (f : Nat) : (dropFrame s f).arrivals = s.arrivals := rfl
@[simp] theorem dropFrame_link (s : State) (f : Nat) : (dropFrame s f).link = s.link := rfl
@[simp] theorem dropFrame_mgmt (s : State) (f : Nat) : (dropFrame s f).mgmt = s.mgmt := rfl
@[simp] theorem dropFrame_rinkan (s : State) (f : Nat) : (dropFrame s f).rinkan = s.rinkan := rfl
@[simp] theorem dropFrame_boot (s : State) (f : Nat) : (dropFrame s f).boot = s.boot := rfl
@[simp] theorem dropFrame_msix (s : State) (f : Nat) : (dropFrame s f).msix = s.msix := rfl
@[simp] theorem dropFrame_placeP (s : State) (f : Nat) : (dropFrame s f).placeP = s.placeP := rfl
@[simp] theorem dropFrame_nextGid (s : State) (f : Nat) : (dropFrame s f).nextGid = s.nextGid := rfl
@[simp] theorem dropFrame_nextGrid (s : State) (f : Nat) : (dropFrame s f).nextGrid = s.nextGrid := rfl
@[simp] theorem dropFrame_nextKey (s : State) (f : Nat) : (dropFrame s f).nextKey = s.nextKey := rfl
@[simp] theorem dropFrame_stamp (s : State) (f : Nat) : (dropFrame s f).stamp = s.stamp := rfl

/-! ## dropTlb -/

@[simp] theorem dropTlb_turns (s : State) (ctx : Nat) : (dropTlb s ctx).turns = s.turns := rfl
@[simp] theorem dropTlb_cur (s : State) (ctx : Nat) : (dropTlb s ctx).cur = s.cur := rfl
@[simp] theorem dropTlb_free (s : State) (ctx : Nat) : (dropTlb s ctx).free = s.free := rfl
@[simp] theorem dropTlb_clock (s : State) (ctx : Nat) : (dropTlb s ctx).clock = s.clock := rfl
@[simp] theorem dropTlb_mem (s : State) (ctx : Nat) : (dropTlb s ctx).mem = s.mem := rfl
@[simp] theorem dropTlb_extBytes (s : State) (ctx : Nat) : (dropTlb s ctx).extBytes = s.extBytes := rfl
@[simp] theorem dropTlb_tamper (s : State) (ctx : Nat) : (dropTlb s ctx).tamper = s.tamper := rfl
@[simp] theorem dropTlb_sealed (s : State) (ctx : Nat) : (dropTlb s ctx).sealed = s.sealed := rfl
@[simp] theorem dropTlb_hostLines (s : State) (ctx : Nat) : (dropTlb s ctx).hostLines = s.hostLines := rfl
@[simp] theorem dropTlb_waves (s : State) (ctx : Nat) : (dropTlb s ctx).waves = s.waves := rfl
@[simp] theorem dropTlb_groups (s : State) (ctx : Nat) : (dropTlb s ctx).groups = s.groups := rfl
@[simp] theorem dropTlb_grids (s : State) (ctx : Nat) : (dropTlb s ctx).grids = s.grids := rfl
@[simp] theorem dropTlb_queues (s : State) (ctx : Nat) : (dropTlb s ctx).queues = s.queues := rfl
@[simp] theorem dropTlb_ctxs (s : State) (ctx : Nat) : (dropTlb s ctx).ctxs = s.ctxs := rfl
@[simp] theorem dropTlb_cores (s : State) (ctx : Nat) : (dropTlb s ctx).cores = s.cores := rfl
@[simp] theorem dropTlb_coh (s : State) (ctx : Nat) : (dropTlb s ctx).coh = s.coh := rfl
@[simp] theorem dropTlb_vm (s : State) (ctx : Nat) : (dropTlb s ctx).vm = { s.vm with tlb := s.vm.tlb.filter (fun e => e.ctx != ctx), tlb2 := s.vm.tlb2.filter (fun e => e.ctx != ctx), walks := s.vm.walks.filter (fun e => e.ctx != ctx) } := rfl
@[simp] theorem dropTlb_accs (s : State) (ctx : Nat) : (dropTlb s ctx).accs = s.accs := rfl
@[simp] theorem dropTlb_partials (s : State) (ctx : Nat) : (dropTlb s ctx).partials = s.partials := rfl
@[simp] theorem dropTlb_arrivals (s : State) (ctx : Nat) : (dropTlb s ctx).arrivals = s.arrivals := rfl
@[simp] theorem dropTlb_link (s : State) (ctx : Nat) : (dropTlb s ctx).link = s.link := rfl
@[simp] theorem dropTlb_mgmt (s : State) (ctx : Nat) : (dropTlb s ctx).mgmt = s.mgmt := rfl
@[simp] theorem dropTlb_rinkan (s : State) (ctx : Nat) : (dropTlb s ctx).rinkan = s.rinkan := rfl
@[simp] theorem dropTlb_boot (s : State) (ctx : Nat) : (dropTlb s ctx).boot = s.boot := rfl
@[simp] theorem dropTlb_msix (s : State) (ctx : Nat) : (dropTlb s ctx).msix = s.msix := rfl
@[simp] theorem dropTlb_placeP (s : State) (ctx : Nat) : (dropTlb s ctx).placeP = s.placeP := rfl
@[simp] theorem dropTlb_nextGid (s : State) (ctx : Nat) : (dropTlb s ctx).nextGid = s.nextGid := rfl
@[simp] theorem dropTlb_nextGrid (s : State) (ctx : Nat) : (dropTlb s ctx).nextGrid = s.nextGrid := rfl
@[simp] theorem dropTlb_nextKey (s : State) (ctx : Nat) : (dropTlb s ctx).nextKey = s.nextKey := rfl
@[simp] theorem dropTlb_stamp (s : State) (ctx : Nat) : (dropTlb s ctx).stamp = s.stamp := rfl

/-! ## pinPage -/

@[simp] theorem pinPage_turns (s : State) (page : Nat) : (pinPage s page).turns = s.turns := rfl
@[simp] theorem pinPage_cur (s : State) (page : Nat) : (pinPage s page).cur = s.cur := rfl
@[simp] theorem pinPage_free (s : State) (page : Nat) : (pinPage s page).free = s.free := rfl
@[simp] theorem pinPage_clock (s : State) (page : Nat) : (pinPage s page).clock = s.clock := rfl
@[simp] theorem pinPage_mem (s : State) (page : Nat) : (pinPage s page).mem = s.mem := rfl
@[simp] theorem pinPage_extBytes (s : State) (page : Nat) : (pinPage s page).extBytes = s.extBytes := rfl
@[simp] theorem pinPage_tamper (s : State) (page : Nat) : (pinPage s page).tamper = s.tamper := rfl
@[simp] theorem pinPage_sealed (s : State) (page : Nat) : (pinPage s page).sealed = s.sealed := rfl
@[simp] theorem pinPage_hostLines (s : State) (page : Nat) : (pinPage s page).hostLines = s.hostLines := rfl
@[simp] theorem pinPage_waves (s : State) (page : Nat) : (pinPage s page).waves = s.waves := rfl
@[simp] theorem pinPage_groups (s : State) (page : Nat) : (pinPage s page).groups = s.groups := rfl
@[simp] theorem pinPage_grids (s : State) (page : Nat) : (pinPage s page).grids = s.grids := rfl
@[simp] theorem pinPage_queues (s : State) (page : Nat) : (pinPage s page).queues = s.queues := rfl
@[simp] theorem pinPage_ctxs (s : State) (page : Nat) : (pinPage s page).ctxs = s.ctxs := rfl
@[simp] theorem pinPage_cores (s : State) (page : Nat) : (pinPage s page).cores = s.cores := rfl
@[simp] theorem pinPage_coh (s : State) (page : Nat) : (pinPage s page).coh = s.coh := rfl
@[simp] theorem pinPage_vm (s : State) (page : Nat) : (pinPage s page).vm = { s.vm with pins := Map.insert s.vm.pins page ((Map.find s.vm.pins page).getD 0 + 1) } := rfl
@[simp] theorem pinPage_accs (s : State) (page : Nat) : (pinPage s page).accs = s.accs := rfl
@[simp] theorem pinPage_partials (s : State) (page : Nat) : (pinPage s page).partials = s.partials := rfl
@[simp] theorem pinPage_arrivals (s : State) (page : Nat) : (pinPage s page).arrivals = s.arrivals := rfl
@[simp] theorem pinPage_link (s : State) (page : Nat) : (pinPage s page).link = s.link := rfl
@[simp] theorem pinPage_mgmt (s : State) (page : Nat) : (pinPage s page).mgmt = s.mgmt := rfl
@[simp] theorem pinPage_rinkan (s : State) (page : Nat) : (pinPage s page).rinkan = s.rinkan := rfl
@[simp] theorem pinPage_boot (s : State) (page : Nat) : (pinPage s page).boot = s.boot := rfl
@[simp] theorem pinPage_msix (s : State) (page : Nat) : (pinPage s page).msix = s.msix := rfl
@[simp] theorem pinPage_placeP (s : State) (page : Nat) : (pinPage s page).placeP = s.placeP := rfl
@[simp] theorem pinPage_nextGid (s : State) (page : Nat) : (pinPage s page).nextGid = s.nextGid := rfl
@[simp] theorem pinPage_nextGrid (s : State) (page : Nat) : (pinPage s page).nextGrid = s.nextGrid := rfl
@[simp] theorem pinPage_nextKey (s : State) (page : Nat) : (pinPage s page).nextKey = s.nextKey := rfl
@[simp] theorem pinPage_stamp (s : State) (page : Nat) : (pinPage s page).stamp = s.stamp := rfl

/-! ## raiseMsix -/

@[simp] theorem raiseMsix_turns (s : State) (ctx vector : Nat) : (raiseMsix s ctx vector).turns = s.turns := rfl
@[simp] theorem raiseMsix_cur (s : State) (ctx vector : Nat) : (raiseMsix s ctx vector).cur = s.cur := rfl
@[simp] theorem raiseMsix_free (s : State) (ctx vector : Nat) : (raiseMsix s ctx vector).free = s.free := rfl
@[simp] theorem raiseMsix_clock (s : State) (ctx vector : Nat) : (raiseMsix s ctx vector).clock = s.clock := rfl
@[simp] theorem raiseMsix_mem (s : State) (ctx vector : Nat) : (raiseMsix s ctx vector).mem = s.mem := rfl
@[simp] theorem raiseMsix_extBytes (s : State) (ctx vector : Nat) : (raiseMsix s ctx vector).extBytes = s.extBytes := rfl
@[simp] theorem raiseMsix_tamper (s : State) (ctx vector : Nat) : (raiseMsix s ctx vector).tamper = s.tamper := rfl
@[simp] theorem raiseMsix_sealed (s : State) (ctx vector : Nat) : (raiseMsix s ctx vector).sealed = s.sealed := rfl
@[simp] theorem raiseMsix_hostLines (s : State) (ctx vector : Nat) : (raiseMsix s ctx vector).hostLines = s.hostLines := rfl
@[simp] theorem raiseMsix_waves (s : State) (ctx vector : Nat) : (raiseMsix s ctx vector).waves = s.waves := rfl
@[simp] theorem raiseMsix_groups (s : State) (ctx vector : Nat) : (raiseMsix s ctx vector).groups = s.groups := rfl
@[simp] theorem raiseMsix_grids (s : State) (ctx vector : Nat) : (raiseMsix s ctx vector).grids = s.grids := rfl
@[simp] theorem raiseMsix_queues (s : State) (ctx vector : Nat) : (raiseMsix s ctx vector).queues = s.queues := rfl
@[simp] theorem raiseMsix_ctxs (s : State) (ctx vector : Nat) : (raiseMsix s ctx vector).ctxs = s.ctxs := rfl
@[simp] theorem raiseMsix_cores (s : State) (ctx vector : Nat) : (raiseMsix s ctx vector).cores = s.cores := rfl
@[simp] theorem raiseMsix_coh (s : State) (ctx vector : Nat) : (raiseMsix s ctx vector).coh = s.coh := rfl
@[simp] theorem raiseMsix_vm (s : State) (ctx vector : Nat) : (raiseMsix s ctx vector).vm = s.vm := rfl
@[simp] theorem raiseMsix_accs (s : State) (ctx vector : Nat) : (raiseMsix s ctx vector).accs = s.accs := rfl
@[simp] theorem raiseMsix_partials (s : State) (ctx vector : Nat) : (raiseMsix s ctx vector).partials = s.partials := rfl
@[simp] theorem raiseMsix_arrivals (s : State) (ctx vector : Nat) : (raiseMsix s ctx vector).arrivals = s.arrivals := rfl
@[simp] theorem raiseMsix_link (s : State) (ctx vector : Nat) : (raiseMsix s ctx vector).link = s.link := rfl
@[simp] theorem raiseMsix_mgmt (s : State) (ctx vector : Nat) : (raiseMsix s ctx vector).mgmt = s.mgmt := rfl
@[simp] theorem raiseMsix_rinkan (s : State) (ctx vector : Nat) : (raiseMsix s ctx vector).rinkan = s.rinkan := rfl
@[simp] theorem raiseMsix_boot (s : State) (ctx vector : Nat) : (raiseMsix s ctx vector).boot = s.boot := rfl
@[simp] theorem raiseMsix_msix (s : State) (ctx vector : Nat) : (raiseMsix s ctx vector).msix = (ctx, vector) :: s.msix := rfl
@[simp] theorem raiseMsix_placeP (s : State) (ctx vector : Nat) : (raiseMsix s ctx vector).placeP = s.placeP := rfl
@[simp] theorem raiseMsix_nextGid (s : State) (ctx vector : Nat) : (raiseMsix s ctx vector).nextGid = s.nextGid := rfl
@[simp] theorem raiseMsix_nextGrid (s : State) (ctx vector : Nat) : (raiseMsix s ctx vector).nextGrid = s.nextGrid := rfl
@[simp] theorem raiseMsix_nextKey (s : State) (ctx vector : Nat) : (raiseMsix s ctx vector).nextKey = s.nextKey := rfl
@[simp] theorem raiseMsix_stamp (s : State) (ctx vector : Nat) : (raiseMsix s ctx vector).stamp = s.stamp := rfl

/-! ## evLog -/

@[simp] theorem evLog_turns (s : State) (code agent a b : Nat) : (evLog s code agent a b).turns = s.turns := rfl
@[simp] theorem evLog_cur (s : State) (code agent a b : Nat) : (evLog s code agent a b).cur = s.cur := rfl
@[simp] theorem evLog_free (s : State) (code agent a b : Nat) : (evLog s code agent a b).free = s.free := rfl
@[simp] theorem evLog_clock (s : State) (code agent a b : Nat) : (evLog s code agent a b).clock = s.clock := rfl
@[simp] theorem evLog_mem (s : State) (code agent a b : Nat) : (evLog s code agent a b).mem = s.mem := rfl
@[simp] theorem evLog_extBytes (s : State) (code agent a b : Nat) : (evLog s code agent a b).extBytes = s.extBytes := rfl
@[simp] theorem evLog_tamper (s : State) (code agent a b : Nat) : (evLog s code agent a b).tamper = s.tamper := rfl
@[simp] theorem evLog_sealed (s : State) (code agent a b : Nat) : (evLog s code agent a b).sealed = s.sealed := rfl
@[simp] theorem evLog_hostLines (s : State) (code agent a b : Nat) : (evLog s code agent a b).hostLines = s.hostLines := rfl
@[simp] theorem evLog_waves (s : State) (code agent a b : Nat) : (evLog s code agent a b).waves = s.waves := rfl
@[simp] theorem evLog_groups (s : State) (code agent a b : Nat) : (evLog s code agent a b).groups = s.groups := rfl
@[simp] theorem evLog_grids (s : State) (code agent a b : Nat) : (evLog s code agent a b).grids = s.grids := rfl
@[simp] theorem evLog_queues (s : State) (code agent a b : Nat) : (evLog s code agent a b).queues = s.queues := rfl
@[simp] theorem evLog_ctxs (s : State) (code agent a b : Nat) : (evLog s code agent a b).ctxs = s.ctxs := rfl
@[simp] theorem evLog_cores (s : State) (code agent a b : Nat) : (evLog s code agent a b).cores = s.cores := rfl
@[simp] theorem evLog_coh (s : State) (code agent a b : Nat) : (evLog s code agent a b).coh = s.coh := rfl
@[simp] theorem evLog_vm (s : State) (code agent a b : Nat) : (evLog s code agent a b).vm = s.vm := rfl
@[simp] theorem evLog_accs (s : State) (code agent a b : Nat) : (evLog s code agent a b).accs = s.accs := rfl
@[simp] theorem evLog_partials (s : State) (code agent a b : Nat) : (evLog s code agent a b).partials = s.partials := rfl
@[simp] theorem evLog_arrivals (s : State) (code agent a b : Nat) : (evLog s code agent a b).arrivals = s.arrivals := rfl
@[simp] theorem evLog_link (s : State) (code agent a b : Nat) : (evLog s code agent a b).link = s.link := rfl
@[simp] theorem evLog_rinkan (s : State) (code agent a b : Nat) : (evLog s code agent a b).rinkan = s.rinkan := rfl
@[simp] theorem evLog_boot (s : State) (code agent a b : Nat) : (evLog s code agent a b).boot = s.boot := rfl
@[simp] theorem evLog_msix (s : State) (code agent a b : Nat) : (evLog s code agent a b).msix = s.msix := rfl
@[simp] theorem evLog_placeP (s : State) (code agent a b : Nat) : (evLog s code agent a b).placeP = s.placeP := rfl
@[simp] theorem evLog_nextGid (s : State) (code agent a b : Nat) : (evLog s code agent a b).nextGid = s.nextGid := rfl
@[simp] theorem evLog_nextGrid (s : State) (code agent a b : Nat) : (evLog s code agent a b).nextGrid = s.nextGrid := rfl
@[simp] theorem evLog_nextKey (s : State) (code agent a b : Nat) : (evLog s code agent a b).nextKey = s.nextKey := rfl
@[simp] theorem evLog_stamp (s : State) (code agent a b : Nat) : (evLog s code agent a b).stamp = s.stamp := rfl

/-! ## tick -/

@[simp] theorem tick_turns (s : State) : (tick s).turns = s.turns := rfl
@[simp] theorem tick_cur (s : State) : (tick s).cur = s.cur := rfl
@[simp] theorem tick_free (s : State) : (tick s).free = s.free + 1 := rfl
@[simp] theorem tick_clock (s : State) : (tick s).clock = s.clock + 1 + BitVec.ofNat 64 (Config.freeCycles s.free) := rfl
@[simp] theorem tick_mem (s : State) : (tick s).mem = s.mem := rfl
@[simp] theorem tick_extBytes (s : State) : (tick s).extBytes = s.extBytes := rfl
@[simp] theorem tick_tamper (s : State) : (tick s).tamper = s.tamper := rfl
@[simp] theorem tick_sealed (s : State) : (tick s).sealed = s.sealed := rfl
@[simp] theorem tick_hostLines (s : State) : (tick s).hostLines = s.hostLines := rfl
@[simp] theorem tick_waves (s : State) : (tick s).waves = s.waves := rfl
@[simp] theorem tick_groups (s : State) : (tick s).groups = s.groups := rfl
@[simp] theorem tick_grids (s : State) : (tick s).grids = s.grids := rfl
@[simp] theorem tick_queues (s : State) : (tick s).queues = s.queues := rfl
@[simp] theorem tick_ctxs (s : State) : (tick s).ctxs = s.ctxs := rfl
@[simp] theorem tick_cores (s : State) : (tick s).cores = s.cores := rfl
@[simp] theorem tick_coh (s : State) : (tick s).coh = s.coh := rfl
@[simp] theorem tick_vm (s : State) : (tick s).vm = s.vm := rfl
@[simp] theorem tick_accs (s : State) : (tick s).accs = s.accs := rfl
@[simp] theorem tick_partials (s : State) : (tick s).partials = s.partials := rfl
@[simp] theorem tick_arrivals (s : State) : (tick s).arrivals = s.arrivals := rfl
@[simp] theorem tick_link (s : State) : (tick s).link = s.link := rfl
@[simp] theorem tick_mgmt (s : State) : (tick s).mgmt = s.mgmt := rfl
@[simp] theorem tick_rinkan (s : State) : (tick s).rinkan = s.rinkan := rfl
@[simp] theorem tick_boot (s : State) : (tick s).boot = s.boot := rfl
@[simp] theorem tick_msix (s : State) : (tick s).msix = s.msix := rfl
@[simp] theorem tick_placeP (s : State) : (tick s).placeP = s.placeP := rfl
@[simp] theorem tick_nextGid (s : State) : (tick s).nextGid = s.nextGid := rfl
@[simp] theorem tick_nextGrid (s : State) : (tick s).nextGrid = s.nextGrid := rfl
@[simp] theorem tick_nextKey (s : State) : (tick s).nextKey = s.nextKey := rfl
@[simp] theorem tick_stamp (s : State) : (tick s).stamp = s.stamp := rfl

/-! ## grantNote -/

@[simp] theorem grantNote_turns (s : State) (key : Nat) : (grantNote s key).turns = s.turns := by unfold grantNote; split <;> rfl
@[simp] theorem grantNote_cur (s : State) (key : Nat) : (grantNote s key).cur = s.cur := by unfold grantNote; split <;> rfl
@[simp] theorem grantNote_free (s : State) (key : Nat) : (grantNote s key).free = s.free := by unfold grantNote; split <;> rfl
@[simp] theorem grantNote_clock (s : State) (key : Nat) : (grantNote s key).clock = s.clock := by unfold grantNote; split <;> rfl
@[simp] theorem grantNote_mem (s : State) (key : Nat) : (grantNote s key).mem = s.mem := by unfold grantNote; split <;> rfl
@[simp] theorem grantNote_extBytes (s : State) (key : Nat) : (grantNote s key).extBytes = s.extBytes := by unfold grantNote; split <;> rfl
@[simp] theorem grantNote_tamper (s : State) (key : Nat) : (grantNote s key).tamper = s.tamper := by unfold grantNote; split <;> rfl
@[simp] theorem grantNote_sealed (s : State) (key : Nat) : (grantNote s key).sealed = s.sealed := by unfold grantNote; split <;> rfl
@[simp] theorem grantNote_hostLines (s : State) (key : Nat) : (grantNote s key).hostLines = s.hostLines := by unfold grantNote; split <;> rfl
@[simp] theorem grantNote_waves (s : State) (key : Nat) : (grantNote s key).waves = s.waves := by unfold grantNote; split <;> rfl
@[simp] theorem grantNote_groups (s : State) (key : Nat) : (grantNote s key).groups = s.groups := by unfold grantNote; split <;> rfl
@[simp] theorem grantNote_grids (s : State) (key : Nat) : (grantNote s key).grids = s.grids := by unfold grantNote; split <;> rfl
@[simp] theorem grantNote_queues (s : State) (key : Nat) : (grantNote s key).queues = s.queues := by unfold grantNote; split <;> rfl
@[simp] theorem grantNote_ctxs (s : State) (key : Nat) : (grantNote s key).ctxs = s.ctxs := by unfold grantNote; split <;> rfl
@[simp] theorem grantNote_cores (s : State) (key : Nat) : (grantNote s key).cores = s.cores := by unfold grantNote; split <;> rfl
@[simp] theorem grantNote_coh (s : State) (key : Nat) : (grantNote s key).coh = s.coh := by unfold grantNote; split <;> rfl
@[simp] theorem grantNote_accs (s : State) (key : Nat) : (grantNote s key).accs = s.accs := by unfold grantNote; split <;> rfl
@[simp] theorem grantNote_partials (s : State) (key : Nat) : (grantNote s key).partials = s.partials := by unfold grantNote; split <;> rfl
@[simp] theorem grantNote_arrivals (s : State) (key : Nat) : (grantNote s key).arrivals = s.arrivals := by unfold grantNote; split <;> rfl
@[simp] theorem grantNote_link (s : State) (key : Nat) : (grantNote s key).link = s.link := by unfold grantNote; split <;> rfl
@[simp] theorem grantNote_mgmt (s : State) (key : Nat) : (grantNote s key).mgmt = s.mgmt := by unfold grantNote; split <;> rfl
@[simp] theorem grantNote_rinkan (s : State) (key : Nat) : (grantNote s key).rinkan = s.rinkan := by unfold grantNote; split <;> rfl
@[simp] theorem grantNote_boot (s : State) (key : Nat) : (grantNote s key).boot = s.boot := by unfold grantNote; split <;> rfl
@[simp] theorem grantNote_msix (s : State) (key : Nat) : (grantNote s key).msix = s.msix := by unfold grantNote; split <;> rfl
@[simp] theorem grantNote_placeP (s : State) (key : Nat) : (grantNote s key).placeP = s.placeP := by unfold grantNote; split <;> rfl
@[simp] theorem grantNote_nextGid (s : State) (key : Nat) : (grantNote s key).nextGid = s.nextGid := by unfold grantNote; split <;> rfl
@[simp] theorem grantNote_nextGrid (s : State) (key : Nat) : (grantNote s key).nextGrid = s.nextGrid := by unfold grantNote; split <;> rfl
@[simp] theorem grantNote_nextKey (s : State) (key : Nat) : (grantNote s key).nextKey = s.nextKey := by unfold grantNote; split <;> rfl
@[simp] theorem grantNote_stamp (s : State) (key : Nat) : (grantNote s key).stamp = s.stamp := by unfold grantNote; split <;> rfl

end Sys2Proof.Machine
end

