-- ==== Sys2Proof/Laws/Tab.lean ====
section
/-! SUPPORT. Laws/Tab.lean: read after write of sparse tables, and that every operation on them keeps the canonical
form. -/

namespace Sys2Proof.Machine

/-! ## Read after write -/

@[simp] theorem Map.find_nil {α : Type} (x : Nat) : Map.find ([] : Map α) x = none := rfl

@[simp] theorem Map.find_insert_self {α : Type} (m : Map α) (x : Nat) (a : α) : Map.find (Map.insert m x a) x = some a := by
  induction m with
  | nil => simp [Map.insert, Map.find]
  | cons e rest ih =>
    obtain ⟨k, v⟩ := e
    simp only [Map.insert]
    split
    · simp [Map.find]
    · split
      · simp [Map.find]
      · simp [Map.find, *]

theorem Map.find_insert_ne {α : Type} (m : Map α) {x y : Nat} (a : α) (h : y ≠ x) :
    Map.find (Map.insert m x a) y = Map.find m y := by
  induction m with
  | nil => simp [Map.insert, Map.find, h.symm]
  | cons e rest ih =>
    obtain ⟨k, v⟩ := e
    simp only [Map.insert]
    split
    · simp [Map.find, h.symm]
    · split
      · rename_i h1 h2; subst h2; simp [Map.find, h.symm]
      · simp [Map.find, ih]

theorem Map.find_insert {α : Type} (m : Map α) (x y : Nat) (a : α) :
    Map.find (Map.insert m x a) y = if y = x then some a else Map.find m y := by
  split
  · subst y; simp
  · exact Map.find_insert_ne m a ‹_›

@[simp] theorem Map.find_erase_self {α : Type} (m : Map α) (x : Nat) : Map.find (Map.erase m x) x = none := by
  induction m with
  | nil => rfl
  | cons e rest ih =>
    obtain ⟨k, v⟩ := e
    simp only [Map.erase]
    split <;> simp [Map.find, *]

theorem Map.find_erase_ne {α : Type} (m : Map α) {x y : Nat} (h : y ≠ x) : Map.find (Map.erase m x) y = Map.find m y := by
  induction m with
  | nil => rfl
  | cons e rest ih =>
    obtain ⟨k, v⟩ := e
    simp only [Map.erase]
    split
    · subst k; simp [Map.find, h.symm, ih]
    · simp [Map.find, ih]

theorem Map.find_erase {α : Type} (m : Map α) (x y : Nat) :
    Map.find (Map.erase m x) y = if y = x then none else Map.find m y := by
  split
  · subst y; simp
  · exact Map.find_erase_ne m ‹_›

@[simp] theorem Tab.get_nil {α : Type} (d : α) (x : Nat) : Tab.get d [] x = d := rfl

/-- Reading after a write: the value at its key, every other key as before. -/
theorem Tab.get_set {α : Type} [DecidableEq α] (d : α) (m : Map α) (x y : Nat) (v : α) :
    Tab.get d (Tab.set d m x v) y = if y = x then v else Tab.get d m y := by
  unfold Tab.set Tab.get
  split <;> split <;> simp_all [Map.find_insert, Map.find_erase]

@[simp] theorem Tab.get_set_self {α : Type} [DecidableEq α] (d : α) (m : Map α) (x : Nat) (v : α) :
    Tab.get d (Tab.set d m x v) x = v := by simp [Tab.get_set]

theorem Tab.get_set_ne {α : Type} [DecidableEq α] (d : α) (m : Map α) {x y : Nat} (v : α) (h : y ≠ x) :
    Tab.get d (Tab.set d m x v) y = Tab.get d m y := by simp [Tab.get_set, h]

theorem Map.find_modify {α : Type} (m : Map α) (x y : Nat) (f : α → α) :
    Map.find (Map.modify m x f) y = if y = x then (Map.find m x).map f else Map.find m y := by
  unfold Map.modify
  split
  · rename_i v hv
    rw [Map.find_insert]
    split <;> simp [hv]
  · rename_i hv
    split
    · subst y; simp [hv]
    · rfl

/-! ## The canonical form -/

/-- Every key of `m` lies above `k`. -/
def Map.above {α : Type} (k : Nat) (m : Map α) : Prop := ∀ e ∈ m, k < e.1

theorem Map.sorted_cons {α : Type} (e : Nat × α) (m : Map α) :
    Map.sorted (e :: m) = true ↔ Map.above e.1 m ∧ Map.sorted m = true := by
  induction m generalizing e with
  | nil => simp [Map.sorted, Map.above]
  | cons e' rest ih =>
    obtain ⟨k, v⟩ := e
    obtain ⟨k', v'⟩ := e'
    have := ih (k', v')
    simp only [Map.sorted, Bool.and_eq_true, decide_eq_true_eq, Map.above, List.mem_cons, forall_eq_or_imp] at *
    constructor
    · rintro ⟨h1, h2⟩
      exact ⟨⟨h1, fun e he => lt_trans h1 ((this.1 h2).1 e he)⟩, h2⟩
    · rintro ⟨⟨h1, -⟩, h2⟩
      exact ⟨h1, h2⟩

theorem Map.mem_insert {α : Type} {m : Map α} {x : Nat} {a : α} {e : Nat × α} (h : e ∈ Map.insert m x a) :
    e = (x, a) ∨ e ∈ m := by
  induction m with
  | nil => simpa [Map.insert] using h
  | cons e' rest ih =>
    obtain ⟨k, v⟩ := e'
    simp only [Map.insert] at h
    split at h
    · simpa using h
    · split at h
      · simp at h; tauto
      · simp at h
        rcases h with h | h
        · simp [h]
        · rcases ih h with h | h <;> simp [h]

theorem Map.mem_erase {α : Type} {m : Map α} {x : Nat} {e : Nat × α} (h : e ∈ Map.erase m x) : e ∈ m := by
  induction m with
  | nil => simp [Map.erase] at h
  | cons e' rest ih =>
    obtain ⟨k, v⟩ := e'
    simp only [Map.erase] at h
    split at h
    · exact List.mem_cons_of_mem _ (ih h)
    · simp at h
      rcases h with h | h
      · simp [h]
      · exact List.mem_cons_of_mem _ (ih h)

theorem Map.sorted_insert {α : Type} {m : Map α} (h : Map.sorted m = true) (x : Nat) (a : α) :
    Map.sorted (Map.insert m x a) = true := by
  induction m with
  | nil => simp [Map.insert, Map.sorted]
  | cons e rest ih =>
    obtain ⟨k, v⟩ := e
    obtain ⟨h1, h2⟩ := (Map.sorted_cons _ _).1 h
    simp only [Map.insert]
    split
    · rename_i hx
      refine (Map.sorted_cons _ _).2 ⟨?_, h⟩
      intro e he
      rcases List.mem_cons.1 he with rfl | he
      · exact hx
      · exact lt_trans hx (h1 e he)
    · split
      · rename_i hx; subst hx; exact (Map.sorted_cons _ _).2 ⟨h1, h2⟩
      · refine (Map.sorted_cons _ _).2 ⟨?_, ih h2⟩
        intro e he
        rcases Map.mem_insert he with rfl | he
        · show k < x; omega
        · exact h1 e he

theorem Map.sorted_erase {α : Type} {m : Map α} (h : Map.sorted m = true) (x : Nat) : Map.sorted (Map.erase m x) = true := by
  induction m with
  | nil => rfl
  | cons e rest ih =>
    obtain ⟨k, v⟩ := e
    obtain ⟨h1, h2⟩ := (Map.sorted_cons _ _).1 h
    simp only [Map.erase]
    split
    · exact ih h2
    · exact (Map.sorted_cons _ _).2 ⟨fun e he => h1 e (Map.mem_erase he), ih h2⟩

theorem Map.sorted_filter {α : Type} {m : Map α} (h : Map.sorted m = true) (p : Nat × α → Bool) :
    Map.sorted (m.filter p) = true := by
  induction m with
  | nil => rfl
  | cons e rest ih =>
    obtain ⟨h1, h2⟩ := (Map.sorted_cons _ _).1 h
    rw [List.filter_cons]
    split
    · exact (Map.sorted_cons _ _).2 ⟨fun e he => h1 e (List.mem_filter.1 he).1, ih h2⟩
    · exact ih h2

theorem Tab.wf_iff {α : Type} [DecidableEq α] (d : α) (m : Map α) :
    Tab.wf d m = true ↔ Map.sorted m = true ∧ ∀ e ∈ m, e.2 ≠ d := by
  simp [Tab.wf]

theorem Tab.wf_set {α : Type} [DecidableEq α] {d : α} {m : Map α} (h : Tab.wf d m = true) (x : Nat) (v : α) :
    Tab.wf d (Tab.set d m x v) = true := by
  obtain ⟨h1, h2⟩ := (Tab.wf_iff d m).1 h
  unfold Tab.set
  split
  · exact (Tab.wf_iff _ _).2 ⟨Map.sorted_erase h1 x, fun e he => h2 e (Map.mem_erase he)⟩
  · rename_i hv
    refine (Tab.wf_iff _ _).2 ⟨Map.sorted_insert h1 x v, fun e he => ?_⟩
    rcases Map.mem_insert he with rfl | he
    · exact hv
    · exact h2 e he

theorem Tab.wf_filter {α : Type} [DecidableEq α] {d : α} {m : Map α} (h : Tab.wf d m = true) (p : Nat × α → Bool) :
    Tab.wf d (m.filter p) = true := by
  obtain ⟨h1, h2⟩ := (Tab.wf_iff d m).1 h
  exact (Tab.wf_iff _ _).2 ⟨Map.sorted_filter h1 p, fun e he => h2 e (List.mem_filter.1 he).1⟩

/-- Folding writes into a table keeps its form. -/
theorem Tab.wf_foldl {α β : Type} [DecidableEq α] {d : α} (l : List β) (g : Map α → β → Map α)
    (hg : ∀ m b, Tab.wf d m = true → Tab.wf d (g m b) = true) (m : Map α) (h : Tab.wf d m = true) :
    Tab.wf d (l.foldl g m) = true := by
  induction l generalizing m with
  | nil => exact h
  | cons b rest ih => exact ih _ (hg m b h)

/-! ## Memory -/

theorem Memory.wf_nil : Memory.wf [] = true := rfl

theorem Memory.wf_set {m : List Host.Cell} (h : Memory.wf m = true) (a : Nat) (b : Byte) : Memory.wf (Tab.set 0 m a b) = true :=
  Tab.wf_set h a b

theorem Memory.wf_filter {m : List Host.Cell} (h : Memory.wf m = true) (p : Host.Cell → Bool) : Memory.wf (m.filter p) = true :=
  Tab.wf_filter h p

/-- A store keeps the canonical form. -/
theorem Memory.wf_writeMem {m : List Host.Cell} (h : Memory.wf m = true) (a : Nat) (bs : List Byte) :
    Memory.wf (writeMem m a bs) = true := by
  induction bs generalizing m a with
  | nil => exact h
  | cons b rest ih => exact ih (Memory.wf_set h a b) (a + 1)

theorem Memory.wf_writeNum {m : List Host.Cell} (h : Memory.wf m = true) (a n x : Nat) : Memory.wf (writeNum m a n x) = true :=
  Memory.wf_writeMem h a _

/-- Stores of cells keep the canonical form. -/
theorem Memory.wf_cells {m : List Host.Cell} (h : Memory.wf m = true) (l : List Host.Cell) :
    Memory.wf (l.foldl (fun m e => Tab.set 0 m e.1 e.2) m) = true :=
  Tab.wf_foldl l _ (fun _ _ h => Tab.wf_set h _ _) m h

theorem toBytes_length (n x : Nat) : (toBytes n x).length = n := by
  induction n generalizing x with
  | zero => rfl
  | succ k ih => simp [toBytes, ih]

/-- A byte outside a store reads as before. -/
theorem writeMem_outside (m : List Host.Cell) (a : Nat) (bs : List Byte) (x : Nat) (h : x < a ∨ a + bs.length ≤ x) :
    Tab.get 0 (writeMem m a bs) x = Tab.get 0 m x := by
  induction bs generalizing m a with
  | nil => rfl
  | cons b rest ih =>
    simp only [List.length_cons] at h
    simp only [writeMem]
    rw [ih _ _ (by omega), Tab.get_set_ne _ _ _ (by omega)]

/-- A stored byte reads back. -/
theorem writeMem_inside (m : List Host.Cell) (a : Nat) (bs : List Byte) (i : Nat) (h : i < bs.length) :
    Tab.get 0 (writeMem m a bs) (a + i) = bs[i] := by
  induction bs generalizing m a i with
  | nil => simp at h
  | cons b rest ih =>
    simp only [writeMem]
    cases i with
    | zero => rw [writeMem_outside _ _ _ _ (by omega)]; simp
    | succ j =>
      have := ih (Tab.set 0 m a b) (a + 1) j (by simpa using h)
      simpa [Nat.add_assoc, Nat.add_comm 1 j] using this

theorem writeNum_outside (m : List Host.Cell) (a n v x : Nat) (h : x < a ∨ a + n ≤ x) :
    Tab.get 0 (writeNum m a n v) x = Tab.get 0 m x :=
  writeMem_outside m a _ x (by rwa [toBytes_length])

/-- Reading what was just stored gives its bytes. -/
theorem readMem_writeMem (m : List Host.Cell) (a : Nat) (bs : List Byte) : readMem (writeMem m a bs) a bs.length = bs := by
  induction bs generalizing m a with
  | nil => rfl
  | cons b rest ih =>
    simp only [List.length_cons, readMem, writeMem]
    rw [ih, writeMem_outside _ _ _ _ (by omega), Tab.get_set_self]

theorem ofBytes_toBytes (n x : Nat) : ofBytes (toBytes n x) = x % 256 ^ n := by
  induction n generalizing x with
  | zero => simp [toBytes, ofBytes, Nat.mod_one]
  | succ k ih =>
    simp only [toBytes, ofBytes, ih, BitVec.toNat_ofNat]
    rw [Nat.pow_succ (n := 256), Nat.mul_comm (256 ^ k) 256, Nat.mod_mul]

/-- A stored number reads back, over its width. -/
theorem readNum_writeNum (m : List Host.Cell) (a n x : Nat) : readNum (writeNum m a n x) a n = x % 256 ^ n := by
  have := readMem_writeMem m a (toBytes n x)
  rw [toBytes_length] at this
  simp [readNum, writeNum, this, ofBytes_toBytes]

end Sys2Proof.Machine
end

