-- ==== Sys2Proof/Laws/Wave.lean ====
section
/-! SUPPORT. Laws/Wave.lean: a wave's registers, masks and fragments after a write, and what a finished scalar word
answers. -/

namespace Sys2Proof.Machine

/-! ## Registers and masks -/

theorem rdS_zero (w : Wave) : rdS w 0 = 0 := rfl

theorem rdS_wrS (w : Wave) (d n : Nat) (x : Word) :
    rdS (wrS w d x) n = if n = 0 then 0 else if n = d then x else rdS w n := by
  unfold rdS wrS
  by_cases hn : n = 0
  · simp [hn]
  · by_cases hd : d = 0
    · simp [hn, hd]
    · simp [hn, hd, Tab.get_set]

theorem rdS_wrP (w : Wave) (d n : Nat) (x : DWord) : rdS (wrP w d x) n = setPair w d x n := by
  unfold wrP setPair
  rw [rdS_wrS, rdS_wrS]
  by_cases hn : n = 0
  · simp [hn]
  · by_cases h1 : n = d
    · subst h1; simp [hn]
    · by_cases h2 : n = d + 1 <;> simp [hn, h1, h2]

/-- Only the scalar registers of a wave differ. -/
theorem wrS_eq (w : Wave) (d : Nat) (x : Word) : wrS w d x = { w with sregs := (wrS w d x).sregs } := by
  unfold wrS; split <;> rfl

theorem wrP_eq (w : Wave) (d : Nat) (x : DWord) : wrP w d x = { w with sregs := (wrP w d x).sregs } := by
  unfold wrP; rw [wrS_eq, wrS_eq w]

theorem wrM_eq (w : Wave) (d : Nat) (x : Word) : wrM w d x = { w with masks := (wrM w d x).masks } := by
  unfold wrM; split <;> rfl

theorem rdM_wrM (w : Wave) (f : Frag) (d n : Nat) (x : Word) : rdM (wrM w d x) f n = setMask w f d x n := by
  unfold wrM setMask
  by_cases hn : n = 0
  · subst hn; simp [rdM]
  · by_cases hd : d = 0
    · subst hd; simp [hn]
    · by_cases h : n = d <;> simp [rdM, hn, hd, h, Tab.get_set]

/-- A register write keeps the masks. -/
theorem rdM_wrS (w : Wave) (f : Frag) (d n : Nat) (x : Word) : rdM (wrS w d x) f n = rdM w f n := by
  rw [wrS_eq]; rfl

theorem rdM_wrP (w : Wave) (f : Frag) (d n : Nat) (x : DWord) : rdM (wrP w d x) f n = rdM w f n := by
  rw [wrP_eq]; rfl

/-- A mask write keeps the registers. -/
theorem rdS_wrM (w : Wave) (d n : Nat) (x : Word) : rdS (wrM w d x) n = rdS w n := by
  rw [wrM_eq]; rfl

/-! ## Fragments -/

@[simp] theorem fragOf_putFrag (w : Wave) (b : Bool) (f : Option Frag) : fragOf (putFrag w b f) b = f := by
  cases b <;> rfl

@[simp] theorem fragOf_putFrag_other (w : Wave) (b : Bool) (f : Option Frag) : fragOf (putFrag w b f) (!b) = fragOf w (!b) := by
  cases b <;> rfl

theorem putFrag_eq (w : Wave) (b : Bool) (f : Option Frag) :
    putFrag w b f = { w with fragA := (putFrag w b f).fragA, fragB := (putFrag w b f).fragB } := by
  cases b <;> rfl

/-! ## The wave table -/

theorem waveAt_place {s : State} {core slot : Nat} {w : Wave} (h : waveAt s core slot = some w) : w.core = core ∧ w.slot = slot := by
  unfold waveAt at h
  cases hw : Map.find s.waves (64 * core + slot) with
  | none => simp [hw] at h
  | some v => rw [hw, Option.map_some, Option.some.injEq] at h; subst h; exact ⟨rfl, rfl⟩

/-- The issuing wave stands in the issuing slot. -/
theorem issues_place {s : State} {w : Wave} {f : Frag} (h : Issues s w f) : w.core = s.cur.core ∧ w.slot = s.cur.slot :=
  waveAt_place h.1

theorem waveAt_putWave (s : State) (w : Wave) : waveAt (putWave s w) w.core w.slot = some w := by
  simp [waveAt, putWave]

/-- A wave put twice counts once. -/
theorem Map.insert_insert {α : Type} (m : Map α) (x : Nat) (a b : α) : Map.insert (Map.insert m x a) x b = Map.insert m x b := by
  induction m with
  | nil => simp [Map.insert]
  | cons e rest ih =>
    obtain ⟨k, v⟩ := e
    simp only [Map.insert]
    split
    · simp [Map.insert]
    · split
      · simp [Map.insert]
      · simp [Map.insert, *]

theorem putWave_putWave (s : State) (w v : Wave) (hc : v.core = w.core) (hs : v.slot = w.slot) :
    putWave (putWave s w) v = putWave s v := by
  simp [putWave, hc, hs, Map.insert_insert]

/-! ## The end of a scalar word -/

/-- A settled wave is put, with its spin count, demotion and age perhaps reset (R169). -/
theorem settleWave_eq (s : State) (w : Wave) (b : Bool) :
    settleWave s w b = putWave s w ∨ settleWave s w b = putWave s (spinReset s w) := by
  unfold settleWave
  split
  · split
    · exact .inr rfl
    · exact .inl rfl
  · exact .inl rfl

/-- What a scalar word answers when it moves its fragment to `pc` after changing its wave's registers and masks. -/
theorem goTo_spec (s : State) (w v : Wave) (f g : Frag) (pc : DWord)
    (hg : g = { f with flags := g.flags })
    (hother : fragOf v (!s.cur.b) = fragOf w (!s.cur.b))
    (hv : v = { w with sregs := v.sregs, masks := v.masks, fragA := v.fragA, fragB := v.fragB, spin := v.spin, demoted := v.demoted,
                       age := v.age }) :
    ∃ u, goTo s v g pc = .next (putWave s u) ∧ Moved s.cur.b w u f g.flags pc ∧ (∀ n, rdS u n = rdS v n) ∧
      ∀ n, rdM u f n = rdM v f n := by
  unfold goTo
  generalize hp : putFrag v s.cur.b (some { g with pc := pc, wait := .none }) = p
  have hA : Moved s.cur.b w p f g.flags pc := by
    subst hp
    refine ⟨?_, ?_, ?_⟩
    · rw [fragOf_putFrag, hg]
    · rw [fragOf_putFrag_other, hother]
    · rw [hv]; cases s.cur.b <;> rfl
  have hS : ∀ n, rdS p n = rdS v n := by intro n; subst hp; cases s.cur.b <;> rfl
  have hM : ∀ n, rdM p f n = rdM v f n := by intro n; subst hp; cases s.cur.b <;> rfl
  rcases settleWave_eq s p s.cur.b with h | h
  · exact ⟨p, by rw [h], hA, hS, hM⟩
  · refine ⟨spinReset s p, by rw [h], ⟨hA.frag, hA.other, ?_⟩, hS, hM⟩
    have := hA.frame
    unfold spinReset
    rw [this]

/-- A scalar word that is done, from the registers and masks it leaves. -/
theorem done_scalarDone {i : Instr} {s : State} {w v : Wave} {f g : Frag} {pc : DWord} {regs masks : Nat → Word} {flags : Flags}
    (h : exec i s = goTo s v g pc)
    (hg : g = { f with flags := flags })
    (hother : fragOf v (!s.cur.b) = fragOf w (!s.cur.b))
    (hv : v = { w with sregs := v.sregs, masks := v.masks, fragA := v.fragA, fragB := v.fragB, spin := v.spin, demoted := v.demoted,
                       age := v.age })
    (hr : ∀ n, rdS v n = regs n) (hm : ∀ n, rdM v f n = masks n) : ScalarDone i s w f regs masks flags pc := by
  have hf : g.flags = flags := by rw [hg]
  obtain ⟨u, h1, h2, h3, h4⟩ := goTo_spec s w v f g pc (by rw [hg]) hother hv
  exact ⟨u, by rw [h, h1], hf ▸ h2, fun n => by rw [h3, hr], fun n => by rw [h4, hm]⟩

/-- `onFrag` at an issuing fragment. -/
theorem onFrag_issues {s : State} {w : Wave} {f : Frag} (h : Issues s w f) (k : Wave → Frag → Out) : onFrag s k = k w f := by
  unfold onFrag
  rw [h.1]
  simp only
  rw [h.2]

/-- A word that changes registers and masks only. -/
theorem doneWith_scalarDone {i : Instr} {s : State} {w : Wave} {f : Frag} {regs masks : Nat → Word} (g : Wave → Frag → Wave)
    (hI : Issues s w f) (h : exec i s = doneWith s g)
    (hv : g w f = { w with sregs := (g w f).sregs, masks := (g w f).masks })
    (hr : ∀ n, rdS (g w f) n = regs n) (hm : ∀ n, rdM (g w f) f n = masks n) :
    ScalarDone i s w f regs masks f.flags (f.pc + 4) := by
  refine done_scalarDone (v := g w f) (g := f) ?_ rfl ?_ ?_ hr hm
  · rw [h, doneWith, onFrag_issues hI]; rfl
  · rw [hv]; cases s.cur.b <;> rfl
  · rw [hv]

/-- A word that writes one scalar register. -/
theorem doneWith_reg {i : Instr} {s : State} {w : Wave} {f : Frag} (d : Nat) (x : Wave → Frag → Word)
    (hI : Issues s w f) (h : exec i s = doneWith s (fun w f => wrS w d (x w f))) :
    ScalarDone i s w f (setReg w d (x w f)) (rdM w f) f.flags (f.pc + 4) :=
  doneWith_scalarDone _ hI h (by rw [wrS_eq]) (fun n => rdS_wrS w d n _) (fun n => rdM_wrS w f d n _)

/-- A word that writes a register pair. -/
theorem doneWith_pair {i : Instr} {s : State} {w : Wave} {f : Frag} (d : Nat) (x : Wave → Frag → DWord)
    (hI : Issues s w f) (h : exec i s = doneWith s (fun w f => wrP w d (x w f))) :
    ScalarDone i s w f (setPair w d (x w f)) (rdM w f) f.flags (f.pc + 4) :=
  doneWith_scalarDone _ hI h (by rw [wrP_eq]) (fun n => rdS_wrP w d n _) (fun n => rdM_wrP w f d n _)

/-- A word that writes one mask. -/
theorem doneWith_mask {i : Instr} {s : State} {w : Wave} {f : Frag} (d : Nat) (x : Wave → Frag → Word)
    (hI : Issues s w f) (h : exec i s = doneWith s (fun w f => wrM w d (x w f))) :
    ScalarDone i s w f (rdS w) (setMask w f d (x w f)) f.flags (f.pc + 4) :=
  doneWith_scalarDone _ hI h (by rw [wrM_eq]) (fun n => rdS_wrM w d n _) (fun n => rdM_wrM w f d n _)

/-- A two-operand word (R181). -/
theorem aluRR_scalarDone {i : Instr} {s : State} {w : Wave} {f : Frag} {t : SType} {d a b : SReg}
    (op : (n : Nat) → BitVec n → BitVec n → BitVec n) (hI : Issues s w f) (h : exec i s = aluRR t d a b op s) :
    ScalarDone i s w f
      (setTyped (stypeWide t) w d.toNat (op 32 (rdS w a.toNat) (rdS w b.toNat)) (op 64 (rdP w a.toNat) (rdP w b.toNat)))
      (rdM w f) f.flags (f.pc + 4) := by
  unfold aluRR at h
  cases ht : stypeWide t
  · simp only [ht, Bool.false_eq_true, if_false] at h
    exact doneWith_reg d.toNat (fun w _ => op 32 (rdS w a.toNat) (rdS w b.toNat)) hI h
  · simp only [ht, if_true] at h
    exact doneWith_pair d.toNat (fun w _ => op 64 (rdP w a.toNat) (rdP w b.toNat)) hI h

end Sys2Proof.Machine
end

