-- ==== Sys2Proof/Laws/Lane.lean ====
section
/-! SUPPORT. Laws/Lane.lean: what going past a lane word leaves of the wave. -/

namespace Sys2Proof.Machine

theorem mapFrags_wait {w v : Wave} {g : Frag → Frag} (hg : ∀ f, { g f with wait := .none } = { f with wait := Wait.none })
    (h : v = mapFrags w g) (b : Bool) :
    (fragOf v b).map (fun g => { g with wait := .none }) = (fragOf w b).map (fun g => { g with wait := .none }) := by
  subst h
  cases b <;> simp [fragOf, mapFrags, Option.map_map, Function.comp_def, hg]

theorem wakeStrips_frags (w : Wave) (b : Bool) :
    (fragOf (wakeStrips w) b).map (fun g => { g with wait := .none }) = (fragOf w b).map (fun g => { g with wait := .none }) := by
  apply mapFrags_wait (h := rfl)
  intro f
  dsimp only
  split <;> rfl


/-- With no reduction between cores and windows, what stands before a fence has performed. -/
theorem fabDrain_none {s : State} (h : s.link.merging = []) (core slot : Nat) : fabDrain s core slot = s := by
  simp [fabDrain, h]

/-- The L-stream of a wave with no operation outstanding, and no reduction on its way, goes past a word. -/
theorem laneDone_past {s : State} {w : Wave} {t : Strip} (stop : Bool) (vr : Map VReg) (mk : Map Word) (fd : Map Feed) (sp : Nat) (dm : Bool)
    (ag : Nat) (hh : w.strips.head? = some t) (hops : w.ops = []) (hlate : w.late = []) (hl : w.lstop = false)
    (htrap : ∀ r, w.trap ≠ .entering r) (hm : s.link.merging = []) :
    ∃ u, laneDone (putWave s { w with vregs := vr, masks := mk, feeds := fd, spin := sp, demoted := dm, age := ag }) w.core w.slot stop
        = putWave s u ∧ Past w u t ∧ u.nextOp = w.nextOp ∧ u.feeds = fd ∧ u.vregs = vr ∧ u.masks = mk := by
  obtain ⟨rest, hs⟩ : ∃ rest, w.strips = t :: rest := by
    cases hw : w.strips with
    | nil => simp [hw] at hh
    | cons a r => simp [hw] at hh; exact ⟨r, by rw [hh]⟩
  have hat : ∀ x : Wave, x.core = w.core → x.slot = w.slot → waveAt (putWave s x) w.core w.slot = some x := by
    intro x h1 h2; have := waveAt_putWave s x; rwa [h1, h2] at this
  have hpp : ∀ x y : Wave, y.core = x.core → y.slot = x.slot → putWave (putWave s x) y = putWave s y :=
    fun x y h1 h2 => putWave_putWave s x y h1 h2
  have facts : ∀ x : Wave, x = { w with vregs := vr, masks := mk, feeds := fd, spin := sp, demoted := dm, age := ag } →
      x.core = w.core ∧ x.slot = w.slot ∧ x.strips = t :: rest ∧ x.headOff = w.headOff ∧ x.lstop = false ∧ x.ops = [] ∧ x.late = []
        ∧ x.trap = w.trap ∧ x.feeds = fd ∧ x.vregs = vr ∧ x.masks = mk ∧ ∀ b, fragOf x b = fragOf w b := by
    rintro x rfl; exact ⟨rfl, rfl, hs, rfl, hl, hops, hlate, rfl, rfl, rfl, rfl, fun b => by cases b <;> rfl⟩
  generalize hx : ({ w with vregs := vr, masks := mk, feeds := fd, spin := sp, demoted := dm, age := ag } : Wave) = x
  obtain ⟨c1, c2, c3, c4, c5, c6, c7, c8, c9, c10, c11, c12⟩ := facts x hx.symm
  unfold laneDone
  rw [hat x c1 c2]
  simp only [c3, c4, c5, Bool.false_or]
  generalize hL : (stop || decide (t.len ≤ w.headOff + 1)) = L
  generalize hy : ({ x with strips := t :: rest, headOff := w.headOff + 1, lstop := L } : Wave) = y
  have d : y.core = x.core ∧ y.slot = x.slot ∧ y.lstop = L ∧ y.ops = [] ∧ y.strips = t :: rest ∧ y.headOff = w.headOff + 1
      ∧ y.late = [] ∧ y.trap = w.trap := by
    subst hy; exact ⟨rfl, rfl, rfl, c6, rfl, rfl, c7, c8⟩
  obtain ⟨d1, d2, d3, d4, d5, d6, d7, d8⟩ := d
  rw [hpp x y d1 d2]
  unfold lstopCheck
  rw [hat y (d1.trans c1) (d2.trans c2)]
  simp only [d3, d4, d5, d6, d7, List.any_nil, Bool.or_false]
  by_cases hlast : t.len ≤ w.headOff + 1
  · have : L = true := by rw [← hL]; simp [hlast]
    subst this
    simp only [Bool.not_true, Bool.false_eq_true, if_false, hlast, if_true, applyWrites, List.foldl_nil]
    simp only [spinIf, bne_self_eq_false, Bool.or_self, Bool.false_eq_true, if_false]
    rw [fabDrain_none (by rw [putWave_link]; exact hm), ite_self]
    generalize hwk : wakeStrips _ = wk
    have e : wk.core = y.core ∧ wk.slot = y.slot ∧ wk.trap = w.trap := by subst hwk; exact ⟨rfl, rfl, d8⟩
    rw [hpp y wk e.1 e.2.1]
    have hte : tryEnter (putWave s wk) w.core w.slot = putWave s wk := by
      unfold tryEnter
      rw [hat wk (e.1.trans (d1.trans c1)) (e.2.1.trans (d2.trans c2))]
      simp only [e.2.2]
    rw [hte]
    subst hwk
    refine ⟨_, rfl, ⟨fun h => absurd hlast (by omega), fun _ => ⟨by simp [wakeStrips, mapFrags, hs], rfl⟩, fun b => ?_, ?_⟩, ?_, ?_, ?_, ?_⟩
    · rw [wakeStrips_frags]; subst hy; rw [← c12 b]; cases b <;> rfl
    · subst hy hx; simp [wakeStrips, mapFrags, hops, hlate, hl]
    all_goals (subst hy hx; rfl)
  · cases L
    · simp only [Bool.not_false, if_true]
      refine ⟨_, rfl, ⟨fun _ => ⟨by rw [d5, hs], d6⟩, fun h => absurd h hlast, fun b => ?_, ?_⟩, ?_, ?_, ?_, ?_⟩
      · subst hy; rw [← c12 b]; cases b <;> rfl
      · subst hy hx; simp [hl]
      all_goals (subst hy hx; rfl)
    · simp only [Bool.not_true, Bool.false_eq_true, if_false, hlast]
      generalize hz : ({ y with strips := t :: rest, headOff := w.headOff + 1, lstop := false, ops := [], late := [] } : Wave) = z
      rw [hpp y z (by subst hz; rfl) (by subst hz; rfl)]
      subst hz
      refine ⟨_, rfl, ⟨fun _ => ⟨by dsimp only; rw [hs], by dsimp only⟩, fun h => absurd h hlast, fun b => ?_, ?_⟩, ?_, ?_, ?_, ?_⟩
      · subst hy; rw [← c12 b]; cases b <;> rfl
      · subst hy hx; simp [hl, hops, hlate]
      all_goals (subst hy hx; rfl)

end Sys2Proof.Machine
end

