-- ==== Sys2Proof/Laws/Memory.lean ====
section
/-! SUPPORT. Laws/Memory.lean: every operation that writes memory keeps its canonical form, what the others leave of it, and what a
store leaves as it was. -/

namespace Sys2Proof.Machine

theorem reset_mem_wf : Memory.wf State.reset.mem = true := rfl

theorem foldl_mem {β : Type} (l : List β) (g : State → β → State) (hg : ∀ s b, (g s b).mem = s.mem) (s : State) :
    (l.foldl g s).mem = s.mem := by
  induction l generalizing s with
  | nil => rfl
  | cons b rest ih => exact (ih _).trans (hg s b)

theorem foldl_wf {β : Type} (l : List β) (g : State → β → State)
    (hg : ∀ s b, Memory.wf s.mem = true → Memory.wf (g s b).mem = true) (s : State) (h : Memory.wf s.mem = true) :
    Memory.wf (l.foldl g s).mem = true := by
  induction l generalizing s with
  | nil => exact h
  | cons b rest ih => exact ih _ (hg s b h)

/-! ## The coherence protocol moves no byte, but for a push that commits (R272 to R276, R287) -/

@[simp] theorem frameDirty_mem (s : State) (line : Nat) : (frameDirty s line).mem = s.mem := by
  unfold frameDirty; split
  · split <;> rfl
  · rfl

@[simp] theorem homePut_mem (s : State) (line : Nat) : (homePut s line).mem = s.mem := by
  unfold homePut; dsimp only; split
  · rfl
  · split
    · rfl
    · split <;> rfl

@[simp] theorem noCopy_mem (s : State) (line r : Nat) : (noCopy s line r).mem = s.mem := rfl

@[simp] theorem sendInvs_mem (s : State) (line reqr : Nat) (l : List Nat) : (sendInvs s line reqr l).mem = s.mem :=
  foldl_mem l (fun t c => sendMsg t (fromHome .inv line c reqr 0)) (fun _ _ => rfl) s

@[simp] theorem grantWrite_mem (s : State) (line r : Nat) (data : Bool) (acks : Nat) (d : Dir) :
    (grantWrite s line r data acks d).mem = s.mem := by
  unfold grantWrite; dsimp only; split <;> simp

@[simp] theorem homeTake_mem (s : State) (m : Msg) : (homeTake s m).mem = s.mem := by
  unfold homeTake
  dsimp only
  split
  · simp
  · split
    · simp
    · split
      · split
        · simp
        · simp
        all_goals first | (split <;> simp) | simp
      · split
        · simp
        · simp
        all_goals first | (split <;> simp) | simp

@[simp] theorem serveWaiting_mem (fuel : Nat) (s : State) (line : Nat) : (serveWaiting fuel s line).mem = s.mem := by
  induction fuel generalizing s with
  | zero => rfl
  | succ n ih =>
    unfold serveWaiting
    split
    · rfl
    · split
      · rfl
      · simp [ih]

@[simp] theorem serveLine_mem (s : State) (line : Nat) : (serveLine s line).mem = s.mem := serveWaiting_mem _ s line

@[simp] theorem wroteBack_mem (s : State) (line owner : Nat) (d : Dir) : (wroteBack s line owner d).mem = s.mem := by
  unfold wroteBack; simp

@[simp] theorem ackNotice_mem (s : State) (line src : Nat) (stale : Bool) : (ackNotice s line src stale).mem = s.mem := rfl

@[simp] theorem ownerNotice_mem (s : State) (line : Nat) (k : MsgK) (d : Dir) : (ownerNotice s line k d).mem = s.mem := by
  unfold ownerNotice; split <;> simp

@[simp] theorem leaveBusy_mem (s : State) (line : Nat) (d : Dir) : (leaveBusy s line d).mem = s.mem := by
  unfold leaveBusy; split
  · simp
  · split <;> simp

@[simp] theorem settleSD_mem (s : State) (line : Nat) (d : Dir) : (settleSD s line d).mem = s.mem := by
  unfold settleSD; dsimp only; split
  · simp
  · split
    · split <;> simp
    · simp

@[simp] theorem homeNotice_mem (s : State) (m : Msg) : (homeNotice s m).mem = s.mem := by
  unfold homeNotice; dsimp only; split
  · simp
  · split
    · simp
    · split <;> simp

@[simp] theorem homeUnblock_mem (s : State) (m : Msg) : (homeUnblock s m).mem = s.mem := by
  unfold homeUnblock; dsimp only; split <;> simp

@[simp] theorem homeOwnAck_mem (s : State) (m : Msg) : (homeOwnAck s m).mem = s.mem := by
  unfold homeOwnAck; dsimp only; split
  · rfl
  · split <;> simp

@[simp] theorem homeWbData_mem (s : State) (m : Msg) : (homeWbData s m).mem = s.mem := by
  unfold homeWbData; dsimp only; split
  · simp
  · split
    · simp
    · split <;> simp

theorem homeRequest_mem {s t : State} {m : Msg} (h : homeRequest s m = some t) : t.mem = s.mem := by
  unfold homeRequest at h
  split at h
  · split at h <;> (injection h with h; subst h; simp)
  · split at h
    · cases h
    · injection h with h; subst h; simp

@[simp] theorem dropMsg_mem (s : State) (id : Nat) : (dropMsg s id).mem = s.mem := by
  unfold dropMsg; dsimp only; split <;> simp

@[simp] theorem evictL1_mem (s : State) (core line : Nat) (l : L1Line) : (evictL1 s core line l).mem = s.mem := by
  unfold evictL1; split
  · rfl
  · dsimp only; split <;> simp

@[simp] theorem fillL1_mem (ev : Bool) (s : State) (core line : Nat) (l : L1Line) (st : L1St) : (fillL1 ev s core line l st).mem = s.mem := by
  unfold fillL1; dsimp only; split <;> simp

@[simp] theorem checkAcks_mem (ev : Bool) (s : State) (core line : Nat) (l : L1Line) : (checkAcks ev s core line l).mem = s.mem := by
  unfold checkAcks; split <;> simp

@[simp] theorem l1Grant_mem (ev : Bool) (s : State) (m : Msg) (l : L1Line) : (l1Grant ev s m l).mem = s.mem := by
  unfold l1Grant; split <;> simp

@[simp] theorem l1FwdGetS_mem (s : State) (m : Msg) (l : L1Line) : (l1FwdGetS s m l).mem = s.mem := rfl

@[simp] theorem l1FwdGetM_mem (s : State) (m : Msg) (l : L1Line) : (l1FwdGetM s m l).mem = s.mem := by
  unfold l1FwdGetM; dsimp only; split
  · simp
  · split <;> simp
  · split <;> simp
  · simp

@[simp] theorem l1NoticeAck_mem (s : State) (m : Msg) (l : L1Line) : (l1NoticeAck s m l).mem = s.mem := by
  unfold l1NoticeAck; split
  · split <;> simp
  · split <;> simp

theorem atL1_mem {ev : Bool} {s t : State} {m : Msg} (h : atL1 ev s m = some t) : t.mem = s.mem := by
  unfold atL1 at h
  dsimp only at h
  split at h
  · split at h <;> (injection h with h; subst h; simp)
  · split at h
    all_goals first
      | (split at h
         · cases h
         · injection h with h; subst h; simp)
      | (split at h
         · injection h with h; subst h; simp
         · cases h)
      | (injection h with h; subst h; first | (simp; done) | (split <;> simp))
      | (split at h
         all_goals first
           | (injection h with h; subst h; simp)
           | cases h
           | (split at h
              · cases h
              · injection h with h; subst h; simp))

theorem commitPush_wf {s : State} (h : Memory.wf s.mem = true) (core : Nat) : Memory.wf (commitPush s core).mem = true :=
  Tab.wf_foldl _ _ (fun _ _ h => Memory.wf_writeMem h _ _) _ h

theorem startPush_wf {s : State} (h : Memory.wf s.mem = true) (core : Nat) (lines : List Nat) :
    Memory.wf (startPush s core lines).mem = true := by
  unfold startPush
  dsimp only
  split
  · apply commitPush_wf; exact h
  · exact h

theorem pushStep_wf {s : State} (h : Memory.wf s.mem = true) (core : Nat) (first : Bool) :
    Memory.wf (pushStep s core first).1.mem = true := by
  unfold pushStep
  split
  · dsimp only
    split
    · exact h
    · exact startPush_wf h _ _
  · exact h

theorem homeHAck_wf {s : State} (h : Memory.wf s.mem = true) (m : Msg) : Memory.wf (homeHAck s m).mem = true := by
  unfold homeHAck
  dsimp only
  split
  · apply commitPush_wf; exact h
  · exact h

theorem atHome_wf {s t : State} {m : Msg} (h : Memory.wf s.mem = true) (ht : atHome s m = some t) : Memory.wf t.mem = true := by
  unfold atHome at ht
  split at ht
  all_goals first
    | (rw [homeRequest_mem ht]; exact h)
    | (injection ht with ht; subst ht; first | exact h | (simp; exact h) | exact homeHAck_wf h _)

theorem deliver_wf {ev : Bool} {s t : State} {k : Nat} (h : Memory.wf s.mem = true) (ht : deliver ev s k = some t) :
    Memory.wf t.mem = true := by
  unfold deliver at ht
  dsimp only at ht
  split at ht
  · cases ht
  · split at ht
    · split at ht
      · injection ht with ht; subst ht; simp; exact h
      · exact atHome_wf (by exact h) ht
    · rw [atL1_mem ht]; exact h

theorem quiesce_wf (fuel : Nat) {s : State} (h : Memory.wf s.mem = true) (line : Nat) : Memory.wf (quiesce fuel s line).mem = true := by
  induction fuel generalizing s with
  | zero => exact h
  | succ n ih =>
    unfold quiesce
    dsimp only
    split
    · exact h
    · rename_i t ht
      obtain ⟨k, -, hk⟩ := List.exists_of_findSome?_eq_some ht
      split at hk
      · exact ih (deliver_wf h hk)
      · cases hk

theorem settleLine_wf {s : State} (h : Memory.wf s.mem = true) (line : Nat) : Memory.wf (settleLine s line).mem = true := by
  unfold settleLine
  split
  · exact h
  · exact quiesce_wf _ h line

/-- A line with no transaction in progress is settled as it stands. -/
theorem settleLine_eq {s : State} {line : Nat} (h : settledLine s line = true) : settleLine s line = s := by
  unfold settleLine; rw [if_pos h]

theorem recallLine_wf {s : State} (h : Memory.wf s.mem = true) (line : Nat) : Memory.wf (recallLine s line).mem = true := by
  unfold recallLine
  dsimp only
  split
  · exact settleLine_wf h line
  · split
    · simpa [dropCopies] using settleLine_wf h line
    · exact settleLine_wf h line

theorem recallLines_wf {s : State} (h : Memory.wf s.mem = true) (lines : List Nat) : Memory.wf (recallLines s lines).mem = true :=
  foldl_wf _ _ (fun _ _ h => recallLine_wf h _) s h

theorem homeWrite_wf {s : State} (h : Memory.wf s.mem = true) (line : Nat) : Memory.wf (homeWrite s line).mem = true := by
  unfold homeWrite
  simp
  exact recallLine_wf h line

theorem collectHalo_wf {s : State} (h : Memory.wf s.mem = true) (line : Nat) : Memory.wf (collectHalo s line).mem = true :=
  Memory.wf_cells h _

theorem endHalo_wf {s : State} (h : Memory.wf s.mem = true) (ctx n : Nat) (x : Halo) : Memory.wf (endHalo s ctx n x).mem = true :=
  Memory.wf_cells h _

/-! ## Stores -/

theorem putNum_mem (s : State) (key n x : Nat) :
    (putNum s key n x).mem = writeNum (if 2 ^ 64 ≤ key then s else homeWrite s (lineOf key)).mem key n x := rfl

theorem putNum_wf {s : State} (h : Memory.wf s.mem = true) (key n x : Nat) : Memory.wf (putNum s key n x).mem = true := by
  rw [putNum_mem]
  split
  · exact Memory.wf_writeNum h _ _ _
  · exact Memory.wf_writeNum (homeWrite_wf h _) _ _ _

/-- A device's store reads back. -/
theorem putNum_read (s : State) (key n x : Nat) : readNum (putNum s key n x).mem key n = x % 256 ^ n :=
  readNum_writeNum _ _ _ _

/-- A device's store leaves every byte outside it as its home finds it. -/
theorem putNum_outside (s : State) (key n x a : Nat) (h : a < key ∨ key + n ≤ a) :
    Tab.get 0 (putNum s key n x).mem a = Tab.get 0 (if 2 ^ 64 ≤ key then s else homeWrite s (lineOf key)).mem a := by
  rw [putNum_mem]; exact writeNum_outside _ _ _ _ _ h

theorem storeBytes_wf {s : State} (h : Memory.wf s.mem = true) (core key : Nat) (bs : List Byte) :
    Memory.wf (storeBytes s core key bs).mem = true := by
  unfold storeBytes
  split
  · exact h
  · split
    · exact h
    · exact Memory.wf_writeMem h key bs

/-- A core's store leaves every byte outside it as it was. -/
theorem storeBytes_outside (s : State) (core key : Nat) (bs : List Byte) (a : Nat) (h : a < key ∨ key + bs.length ≤ a) :
    Tab.get 0 (storeBytes s core key bs).mem a = Tab.get 0 s.mem a := by
  unfold storeBytes
  split
  · rfl
  · split
    · rfl
    · exact writeMem_outside _ _ _ _ h

theorem storeHome_wf {s : State} (h : Memory.wf s.mem = true) (key : Nat) (bs : List Byte) : Memory.wf (storeHome s key bs).mem = true :=
  Memory.wf_writeMem h key bs

/-- A store at device scope leaves every byte outside it as it was. -/
theorem storeHome_outside (s : State) (key : Nat) (bs : List Byte) (a : Nat) (h : a < key ∨ key + bs.length ≤ a) :
    Tab.get 0 (storeHome s key bs).mem a = Tab.get 0 s.mem a :=
  writeMem_outside _ _ _ _ h

theorem reclaim_wf {s : State} (h : Memory.wf s.mem = true) (key : Nat) : Memory.wf (reclaim s key).mem = true := by
  refine storeHome_wf ?_ key _
  simp
  exact h

theorem extWrite_wf {s : State} (h : Memory.wf s.mem = true) (pa : Nat) (bs : List Byte) : Memory.wf (extWrite s pa bs).mem = true :=
  Memory.wf_writeMem h pa bs

theorem extTouch_wf {s : State} (h : Memory.wf s.mem = true) (line : Nat) (plain : Bool) : Memory.wf (extTouch s line plain).mem = true := by
  unfold extTouch
  dsimp only
  split
  · exact h
  · split
    · exact h
    · exact Memory.wf_cells h _

theorem hostWriteBack_wf {s : State} (h : Memory.wf s.mem = true) (line : Nat) : Memory.wf (hostWriteBack s line).mem = true := by
  unfold hostWriteBack
  split
  · exact h
  · refine Tab.wf_foldl _ _ (fun _ _ h => ?_) _ h
    split
    · exact Memory.wf_set h _ _
    · exact h

theorem hostFill_wf {s : State} (h : Memory.wf s.mem = true) (line : Nat) : Memory.wf (hostFill s line).mem = true := by
  unfold hostFill hostDrop
  dsimp only
  split
  all_goals (split <;> first | exact h | exact hostWriteBack_wf h line)

/-! ## Pages and resets -/

theorem afterReset_wf {s : State} (h : Memory.wf s.mem = true) : Memory.wf (afterReset s).mem = true := Tab.wf_filter h _

theorem copyPage_wf {m : List Host.Cell} (h : Memory.wf m = true) (src dst : Nat) : Memory.wf (copyPage m src dst) = true :=
  Tab.wf_foldl _ _ (fun _ _ h => Tab.wf_set h _ _) _ (Tab.wf_filter h _)

theorem zeroPage_wf {m : List Host.Cell} (h : Memory.wf m = true) (page : Nat) : Memory.wf (zeroPage m page) = true :=
  Tab.wf_filter h _

end Sys2Proof.Machine
end

