-- ==== Sys2Proof/Laws/PerInstr.lean ====
section
/-! SUPPORT. Laws/PerInstr.lean: family RoundTrip: the fields of each instruction's own word, read back, name the instruction (R24 to
R40); one lemma per constructor. A device event has no word. -/

open Sys2Proof Sys2Proof.Machine Sys2Proof.Laws

-- one lemma at a time: many proofs in flight at once would need more threads than the memory limit leaves room for
set_option Elab.async false
set_option linter.unusedSimpArgs false

namespace Sys2Proof.Laws

/-- Reading the fields of an instruction's own word gives the instruction. -/
def RoundTrip.Statement (i : Instr) : Prop :=
  wellFormed i = true →
    match encode i with
    | some (.word w) => ∀ next, parseS w next = some i
    | some (.long w n) => parseS w n = some i
    | some (.lane w) => parseL w = some i
    | none => True

/-! ## Fields of appended words (R24 to R31) -/

@[simp] theorem fld_b (x : BitVec 8) (y : BitVec 2) : (x ++ y : BitVec 10).extractLsb' 2 8 = x := extract_hi x y
@[simp] theorem fld_t (x : BitVec 8) (y : BitVec 2) : (x ++ y : BitVec 10).extractLsb' 0 2 = y := extract_lo x y
@[simp] theorem fld_w (x : BitVec 5) (y : BitVec 5) : (x ++ y : BitVec 10).extractLsb' 5 5 = x := extract_hi x y
@[simp] theorem fld_o (x : BitVec 5) (y : BitVec 5) : (x ++ y : BitVec 10).extractLsb' 0 5 = y := extract_lo x y
@[simp] theorem fld_m (x : BitVec 4) (y : BitVec 4) : (x ++ y : BitVec 8).extractLsb' 0 4 = y := extract_lo x y
@[simp] theorem fld_k (x : BitVec 2) (y : BitVec 8) : (x ++ y : BitVec 10).extractLsb' 8 2 = x := extract_hi x y
@[simp] theorem fld_n (x : BitVec 2) (y : BitVec 8) : (x ++ y : BitVec 10).extractLsb' 0 8 = y := extract_lo x y
@[simp] theorem fld_c (x : BitVec 4) (y : BitVec 6) : (x ++ y : BitVec 10).extractLsb' 6 4 = x := extract_hi x y
@[simp] theorem fld_e (x : BitVec 4) (y : BitVec 6) : (x ++ y : BitVec 10).extractLsb' 0 6 = y := extract_lo x y
@[simp] theorem fld_q (x : BitVec 4) (y : BitVec 2) : (x ++ y : BitVec 6).extractLsb' 0 2 = y := extract_lo x y
@[simp] theorem fld_f (x : BitVec 6) (y : BitVec 2) : (x ++ y : BitVec 8).extractLsb' 0 2 = y := extract_lo x y
@[simp] theorem fld_r (x : BitVec 8) (y : BitVec 2) : (x ++ y : BitVec 10).extractLsb' 0 2 = y := extract_lo x y
@[simp] theorem fld_s (x : BitVec 3) (y : BitVec 7) : (x ++ y : BitVec 10).extractLsb' 7 3 = x := extract_hi x y
@[simp] theorem fld_bit (x : BitVec 5) (b : Bool) : (x ++ b1 b : BitVec 6).getLsbD 0 = b := by
  apply bit_of; rw [toNat_append]; cases b <;> simp [b1]
@[simp] theorem fld_wr (x : BitVec 4) (b c : Bool) : (x ++ b1 b ++ b1 c : BitVec 6).getLsbD 0 = c := by
  apply bit_of; rw [toNat_append]; cases c <;> simp [b1]
@[simp] theorem fld_ex (x : BitVec 4) (b c : Bool) : (x ++ b1 b ++ b1 c : BitVec 6).getLsbD 1 = b := by
  apply bit_of; rw [toNat_append, toNat_append]; cases b <;> cases c <;> simp [b1] <;> omega
@[simp] theorem fld_wide (x : BitVec 2) (b : Bool) : (x ++ (0 : BitVec 7) ++ b1 b : BitVec 10).getLsbD 0 = b := by
  apply bit_of; rw [toNat_append, toNat_append]; cases b <;> simp [b1]
@[simp] theorem fld_minor (x : BitVec 2) (b : Bool) : (x ++ (0 : BitVec 7) ++ b1 b : BitVec 10).extractLsb' 8 2 = x := by
  apply BitVec.eq_of_toNat_eq; rw [toNat_extract, toNat_append, toNat_append]; have := (b1 b).isLt; simp; omega
@[simp] theorem bar_k (x : BitVec 3) (y : BitVec 4) (z : BitVec 3) : (x ++ y ++ z : BitVec 10).extractLsb' 7 3 = x := by
  apply BitVec.eq_of_toNat_eq; rw [toNat_extract, toNat_append, toNat_append]; omega
@[simp] theorem bar_n (x : BitVec 3) (y : BitVec 4) (z : BitVec 3) : (x ++ y ++ z : BitVec 10).extractLsb' 3 4 = y := by
  apply BitVec.eq_of_toNat_eq; rw [toNat_extract, toNat_append, toNat_append]; omega
@[simp] theorem fen_k (k : BitVec 2) (x : BitVec 3) (y : BitVec 2) (z : BitVec 3) : (k ++ x ++ y ++ z : BitVec 10).extractLsb' 8 2 = k := by
  apply BitVec.eq_of_toNat_eq; rw [toNat_extract, toNat_append, toNat_append, toNat_append]; omega
@[simp] theorem fen_s (k : BitVec 2) (x : BitVec 3) (y : BitVec 2) (z : BitVec 3) : (k ++ x ++ y ++ z : BitVec 10).extractLsb' 5 3 = x := by
  apply BitVec.eq_of_toNat_eq; rw [toNat_extract, toNat_append, toNat_append, toNat_append]; omega
@[simp] theorem fen_o (k : BitVec 2) (x : BitVec 3) (y : BitVec 2) (z : BitVec 3) : (k ++ x ++ y ++ z : BitVec 10).extractLsb' 3 2 = y := by
  apply BitVec.eq_of_toNat_eq; rw [toNat_extract, toNat_append, toNat_append, toNat_append]; omega
theorem ord_s (k : BitVec 1) (x : BitVec 3) (y : BitVec 2) (b : Bool) (z : BitVec 3) :
    (k ++ x ++ y ++ b1 b ++ z : BitVec 10).extractLsb' 6 3 = x := by
  apply BitVec.eq_of_toNat_eq
  rw [toNat_extract, toNat_append, toNat_append, toNat_append, toNat_append]; have := (b1 b).isLt; omega
theorem ord_o (k : BitVec 1) (x : BitVec 3) (y : BitVec 2) (b : Bool) (z : BitVec 3) :
    (k ++ x ++ y ++ b1 b ++ z : BitVec 10).extractLsb' 4 2 = y := by
  apply BitVec.eq_of_toNat_eq
  rw [toNat_extract, toNat_append, toNat_append, toNat_append, toNat_append]; have := (b1 b).isLt; omega
theorem ord_w (k : BitVec 1) (x : BitVec 3) (y : BitVec 2) (b : Bool) (z : BitVec 3) :
    (k ++ x ++ y ++ b1 b ++ z : BitVec 10).getLsbD 3 = b := by
  apply bit_of; rw [toNat_append, toNat_append, toNat_append, toNat_append]; cases b <;> simp [b1] <;> omega
theorem ord_k (k : Bool) (x : BitVec 3) (y : BitVec 2) (b : Bool) (z : BitVec 3) :
    (b1 k ++ x ++ y ++ b1 b ++ z : BitVec 10).getLsbD 9 = k := by
  apply bit_of; rw [toNat_append, toNat_append, toNat_append, toNat_append]; have := (b1 b).isLt; cases k <;> simp [b1] <;> omega
@[simp] theorem stypeOf_code (t : SType) : stypeOf (stypeCode t).toNat = t := by cases t <;> rfl
@[simp] theorem selCondOf_code (c : SelCond) : selCondOf (selCondCode c).toNat = c := by cases c <;> rfl
@[simp] theorem condOf_code (c : Cond) : condOf (condCode c).toNat = some c := by cases c <;> rfl
@[simp] theorem orderOf_code (c : Order) : Machine.orderOf (orderCode c).toNat = c := by cases c <;> rfl

/-! ## Scalar words -/

theorem RoundTrip.sadd : ∀ t d a b, RoundTrip.Statement (.sadd t d a b) := by
  intro t d a b _ n
  simp [-BitVec.extractLsb'_toNat, parseS, packSR, packCmd, cmd38, cmd39, cmd3A, cmd3B, ctl26, ctl3D, m8]
theorem RoundTrip.ssub : ∀ t d a b, RoundTrip.Statement (.ssub t d a b) := by
  intro t d a b _ n
  simp [-BitVec.extractLsb'_toNat, parseS, packSR, packCmd, cmd38, cmd39, cmd3A, cmd3B, ctl26, ctl3D, m8]
theorem RoundTrip.smul : ∀ t d a b, RoundTrip.Statement (.smul t d a b) := by
  intro t d a b _ n
  simp [-BitVec.extractLsb'_toNat, parseS, packSR, packCmd, cmd38, cmd39, cmd3A, cmd3B, ctl26, ctl3D, m8]
theorem RoundTrip.smulh : ∀ t d a b, RoundTrip.Statement (.smulh t d a b) := by
  intro t d a b _ n
  simp [-BitVec.extractLsb'_toNat, parseS, packSR, packCmd, cmd38, cmd39, cmd3A, cmd3B, ctl26, ctl3D, m8]
theorem RoundTrip.sdiv : ∀ t d a b, RoundTrip.Statement (.sdiv t d a b) := by
  intro t d a b _ n
  simp [-BitVec.extractLsb'_toNat, parseS, packSR, packCmd, cmd38, cmd39, cmd3A, cmd3B, ctl26, ctl3D, m8]
theorem RoundTrip.srem : ∀ t d a b, RoundTrip.Statement (.srem t d a b) := by
  intro t d a b _ n
  simp [-BitVec.extractLsb'_toNat, parseS, packSR, packCmd, cmd38, cmd39, cmd3A, cmd3B, ctl26, ctl3D, m8]
theorem RoundTrip.sand : ∀ t d a b, RoundTrip.Statement (.sand t d a b) := by
  intro t d a b _ n
  simp [-BitVec.extractLsb'_toNat, parseS, packSR, packCmd, cmd38, cmd39, cmd3A, cmd3B, ctl26, ctl3D, m8]
theorem RoundTrip.sor : ∀ t d a b, RoundTrip.Statement (.sor t d a b) := by
  intro t d a b _ n
  simp [-BitVec.extractLsb'_toNat, parseS, packSR, packCmd, cmd38, cmd39, cmd3A, cmd3B, ctl26, ctl3D, m8]
theorem RoundTrip.sxor : ∀ t d a b, RoundTrip.Statement (.sxor t d a b) := by
  intro t d a b _ n
  simp [-BitVec.extractLsb'_toNat, parseS, packSR, packCmd, cmd38, cmd39, cmd3A, cmd3B, ctl26, ctl3D, m8]
theorem RoundTrip.sandn : ∀ t d a b, RoundTrip.Statement (.sandn t d a b) := by
  intro t d a b _ n
  simp [-BitVec.extractLsb'_toNat, parseS, packSR, packCmd, cmd38, cmd39, cmd3A, cmd3B, ctl26, ctl3D, m8]
theorem RoundTrip.sshl : ∀ t d a b, RoundTrip.Statement (.sshl t d a b) := by
  intro t d a b _ n
  simp [-BitVec.extractLsb'_toNat, parseS, packSR, packCmd, cmd38, cmd39, cmd3A, cmd3B, ctl26, ctl3D, m8]
theorem RoundTrip.sshr : ∀ wide d a b, RoundTrip.Statement (.sshr wide d a b) := by
  intro wide d a b _ n
  simp [-BitVec.extractLsb'_toNat, parseS, packSR, packCmd, cmd38, cmd39, cmd3A, cmd3B, ctl26, ctl3D, m8]
  cases wide <;> rfl
theorem RoundTrip.ssar : ∀ wide d a b, RoundTrip.Statement (.ssar wide d a b) := by
  intro wide d a b _ n
  simp [-BitVec.extractLsb'_toNat, parseS, packSR, packCmd, cmd38, cmd39, cmd3A, cmd3B, ctl26, ctl3D, m8]
  cases wide <;> rfl
theorem RoundTrip.smin : ∀ t d a b, RoundTrip.Statement (.smin t d a b) := by
  intro t d a b _ n
  simp [-BitVec.extractLsb'_toNat, parseS, packSR, packCmd, cmd38, cmd39, cmd3A, cmd3B, ctl26, ctl3D, m8]
theorem RoundTrip.smax : ∀ t d a b, RoundTrip.Statement (.smax t d a b) := by
  intro t d a b _ n
  simp [-BitVec.extractLsb'_toNat, parseS, packSR, packCmd, cmd38, cmd39, cmd3A, cmd3B, ctl26, ctl3D, m8]
theorem RoundTrip.scmp : ∀ t a b, RoundTrip.Statement (.scmp t a b) := by
  intro t a b _ n
  simp [-BitVec.extractLsb'_toNat, parseS, packSR, packCmd, cmd38, cmd39, cmd3A, cmd3B, ctl26, ctl3D, m8]
theorem RoundTrip.saddc : ∀ t d a b, RoundTrip.Statement (.saddc t d a b) := by
  intro t d a b _ n
  simp [-BitVec.extractLsb'_toNat, parseS, packSR, packCmd, cmd38, cmd39, cmd3A, cmd3B, ctl26, ctl3D, m8]
theorem RoundTrip.saddImm : ∀ d a i, RoundTrip.Statement (.saddImm d a i) := by
  intro d a i _ n
  simp [-BitVec.extractLsb'_toNat, parseS, packSR, packCmd, cmd38, cmd39, cmd3A, cmd3B, ctl26, ctl3D, m8]
theorem RoundTrip.smulImm : ∀ d a i, RoundTrip.Statement (.smulImm d a i) := by
  intro d a i _ n
  simp [-BitVec.extractLsb'_toNat, parseS, packSR, packCmd, cmd38, cmd39, cmd3A, cmd3B, ctl26, ctl3D, m8]
theorem RoundTrip.sandImm : ∀ d a i, RoundTrip.Statement (.sandImm d a i) := by
  intro d a i _ n
  simp [-BitVec.extractLsb'_toNat, parseS, packSR, packCmd, cmd38, cmd39, cmd3A, cmd3B, ctl26, ctl3D, m8]
theorem RoundTrip.sorImm : ∀ d a i, RoundTrip.Statement (.sorImm d a i) := by
  intro d a i _ n
  simp [-BitVec.extractLsb'_toNat, parseS, packSR, packCmd, cmd38, cmd39, cmd3A, cmd3B, ctl26, ctl3D, m8]
theorem RoundTrip.sxorImm : ∀ d a i, RoundTrip.Statement (.sxorImm d a i) := by
  intro d a i _ n
  simp [-BitVec.extractLsb'_toNat, parseS, packSR, packCmd, cmd38, cmd39, cmd3A, cmd3B, ctl26, ctl3D, m8]
theorem RoundTrip.sshlImm : ∀ d a i, RoundTrip.Statement (.sshlImm d a i) := by
  intro d a i _ n
  simp [-BitVec.extractLsb'_toNat, parseS, packSR, packCmd, cmd38, cmd39, cmd3A, cmd3B, ctl26, ctl3D, m8]
theorem RoundTrip.sshrImm : ∀ d a i, RoundTrip.Statement (.sshrImm d a i) := by
  intro d a i _ n
  simp [-BitVec.extractLsb'_toNat, parseS, packSR, packCmd, cmd38, cmd39, cmd3A, cmd3B, ctl26, ctl3D, m8]
theorem RoundTrip.ssarImm : ∀ d a i, RoundTrip.Statement (.ssarImm d a i) := by
  intro d a i _ n
  simp [-BitVec.extractLsb'_toNat, parseS, packSR, packCmd, cmd38, cmd39, cmd3A, cmd3B, ctl26, ctl3D, m8]
theorem RoundTrip.sminImm : ∀ d a i, RoundTrip.Statement (.sminImm d a i) := by
  intro d a i _ n
  simp [-BitVec.extractLsb'_toNat, parseS, packSR, packCmd, cmd38, cmd39, cmd3A, cmd3B, ctl26, ctl3D, m8]
theorem RoundTrip.smaxImm : ∀ d a i, RoundTrip.Statement (.smaxImm d a i) := by
  intro d a i _ n
  simp [-BitVec.extractLsb'_toNat, parseS, packSR, packCmd, cmd38, cmd39, cmd3A, cmd3B, ctl26, ctl3D, m8]
theorem RoundTrip.scmpImm : ∀ a i, RoundTrip.Statement (.scmpImm a i) := by
  intro a i _ n
  simp [-BitVec.extractLsb'_toNat, parseS, packSR, packCmd, cmd38, cmd39, cmd3A, cmd3B, ctl26, ctl3D, m8]
theorem RoundTrip.ststImm : ∀ a i, RoundTrip.Statement (.ststImm a i) := by
  intro a i _ n
  simp [-BitVec.extractLsb'_toNat, parseS, packSR, packCmd, cmd38, cmd39, cmd3A, cmd3B, ctl26, ctl3D, m8]
theorem RoundTrip.sbfx : ∀ d a w o, RoundTrip.Statement (.sbfx d a w o) := by
  intro d a w o _ n
  simp [-BitVec.extractLsb'_toNat, parseS, packSR, packCmd, cmd38, cmd39, cmd3A, cmd3B, ctl26, ctl3D, m8]
theorem RoundTrip.sext : ∀ d a b, RoundTrip.Statement (.sext d a b) := by
  intro d a b _ n
  simp [-BitVec.extractLsb'_toNat, parseS, packSR, packCmd, cmd38, cmd39, cmd3A, cmd3B, ctl26, ctl3D, m8]
theorem RoundTrip.sclz : ∀ d a wide, RoundTrip.Statement (.sclz d a wide) := by
  intro d a wide _ n
  cases wide <;> simp [-BitVec.extractLsb'_toNat, parseS, b1, sMaj_packS, sD_packS, sA_packS, sF_packS]
theorem RoundTrip.spopc : ∀ d a wide, RoundTrip.Statement (.spopc d a wide) := by
  intro d a wide _ n
  cases wide <;> simp [-BitVec.extractLsb'_toNat, parseS, b1, sMaj_packS, sD_packS, sA_packS, sF_packS]
theorem RoundTrip.stst : ∀ a b, RoundTrip.Statement (.stst a b) := by
  intro a b _ n
  simp [-BitVec.extractLsb'_toNat, parseS, packSR, packCmd, cmd38, cmd39, cmd3A, cmd3B, ctl26, ctl3D, m8]
theorem RoundTrip.ssel : ∀ d a b c, RoundTrip.Statement (.ssel d a b c) := by
  intro d a b c _ n
  simp [-BitVec.extractLsb'_toNat, parseS, packSR, packCmd, cmd38, cmd39, cmd3A, cmd3B, ctl26, ctl3D, m8]
theorem RoundTrip.sli : ∀ f d imm, RoundTrip.Statement (.sli f d imm) := by
  intro f d imm _
  show parseS (packS 0x3E d 0 (sliCode f)) imm = some (.sli f d imm)
  cases f <;> simp [parseS, sliCode, sMaj_packS, sD_packS, sF_packS]
theorem RoundTrip.bc : ∀ c o, RoundTrip.Statement (.bc c o) := by
  intro c o _ n
  simp [-BitVec.extractLsb'_toNat, parseS, packSR, packCmd, cmd38, cmd39, cmd3A, cmd3B, ctl26, ctl3D, m8]
theorem RoundTrip.bmz : ∀ m o, RoundTrip.Statement (.bmz m o) := by
  intro m o _ n
  simp [-BitVec.extractLsb'_toNat, parseS, packSR, packCmd, cmd38, cmd39, cmd3A, cmd3B, ctl26, ctl3D, m8]
theorem RoundTrip.bmnz : ∀ m o, RoundTrip.Statement (.bmnz m o) := by
  intro m o _ n
  simp [-BitVec.extractLsb'_toNat, parseS, packSR, packCmd, cmd38, cmd39, cmd3A, cmd3B, ctl26, ctl3D, m8]
theorem RoundTrip.call : ∀ o, RoundTrip.Statement (.call o) := by
  intro o _ n
  simp [-BitVec.extractLsb'_toNat, parseS, packSR, packCmd, cmd38, cmd39, cmd3A, cmd3B, ctl26, ctl3D, m8]
theorem RoundTrip.split : ∀ m o, RoundTrip.Statement (.split m o) := by
  intro m o _ n
  simp [-BitVec.extractLsb'_toNat, parseS, packSR, packCmd, cmd38, cmd39, cmd3A, cmd3B, ctl26, ctl3D, m8]
theorem RoundTrip.join : ∀ t, RoundTrip.Statement (.join t) := by
  intro t _ n
  simp [-BitVec.extractLsb'_toNat, parseS, packSR, packCmd, cmd38, cmd39, cmd3A, cmd3B, ctl26, ctl3D, m8]
theorem RoundTrip.exit : RoundTrip.Statement (.exit) := by
  intro _ n
  simp [-BitVec.extractLsb'_toNat, parseS, packSR, packCmd, cmd38, cmd39, cmd3A, cmd3B, ctl26, ctl3D, m8]
theorem RoundTrip.yield : RoundTrip.Statement (.yield) := by
  intro _ n
  simp [-BitVec.extractLsb'_toNat, parseS, packSR, packCmd, cmd38, cmd39, cmd3A, cmd3B, ctl26, ctl3D, m8]
theorem RoundTrip.nop : RoundTrip.Statement (.nop) := by
  intro _ n
  simp [-BitVec.extractLsb'_toNat, parseS, packSR, packCmd, cmd38, cmd39, cmd3A, cmd3B, ctl26, ctl3D, m8]
theorem RoundTrip.ret : ∀ a, RoundTrip.Statement (.ret a) := by
  intro a _ n
  simp [-BitVec.extractLsb'_toNat, parseS, packSR, packCmd, cmd38, cmd39, cmd3A, cmd3B, ctl26, ctl3D, m8]
theorem RoundTrip.ldrain : RoundTrip.Statement (.ldrain) := by
  intro _ n
  simp [-BitVec.extractLsb'_toNat, parseS, packSR, packCmd, cmd38, cmd39, cmd3A, cmd3B, ctl26, ctl3D, m8]
theorem RoundTrip.regroup : ∀ d a, RoundTrip.Statement (.regroup d a) := by
  intro d a _ n
  simp [-BitVec.extractLsb'_toNat, parseS, packSR, packCmd, cmd38, cmd39, cmd3A, cmd3B, ctl26, ctl3D, m8]
theorem RoundTrip.hint : ∀ n, RoundTrip.Statement (.hint n) := by
  intro n _ n
  simp [-BitVec.extractLsb'_toNat, parseS, packSR, packCmd, cmd38, cmd39, cmd3A, cmd3B, ctl26, ctl3D, m8]
theorem RoundTrip.lrun : ∀ l n, RoundTrip.Statement (.lrun l n) := by
  intro l k _ n
  have h0 : ((0x28 : BitVec 6) ++ l ++ k : BitVec 32).toNat = 0x28 * 2 ^ 26 + l.toNat * 2 ^ 8 + k.toNat := by
    rw [toNat_append, toNat_append]; simp; omega
  have h1 : sMaj ((0x28 : BitVec 6) ++ l ++ k) = 0x28 := by
    apply BitVec.eq_of_toNat_eq; rw [sMaj, toNat_extract, h0]; have := l.isLt; have := k.isLt; simp; omega
  have h2 : ((0x28 : BitVec 6) ++ l ++ k : BitVec 32).extractLsb' 8 18 = l := by
    apply BitVec.eq_of_toNat_eq; rw [toNat_extract, h0]; have := l.isLt; have := k.isLt; omega
  have h3 : ((0x28 : BitVec 6) ++ l ++ k : BitVec 32).extractLsb' 0 8 = k := by
    apply BitVec.eq_of_toNat_eq; rw [toNat_extract, h0]; have := k.isLt; omega
  show parseS _ n = _
  simp only [parseS, h1, h2, h3]; rfl
theorem RoundTrip.lrunx : ∀ a b, RoundTrip.Statement (.lrunx a b) := by
  intro a b _ n
  simp [-BitVec.extractLsb'_toNat, parseS, packSR, packCmd, cmd38, cmd39, cmd3A, cmd3B, ctl26, ctl3D, m8]
theorem RoundTrip.feedset : ∀ f a b z, RoundTrip.Statement (.feedset f a b z) := by
  intro f a b z _ n
  simp [-BitVec.extractLsb'_toNat, parseS, packSR, packCmd, cmd38, cmd39, cmd3A, cmd3B, ctl26, ctl3D, m8]
theorem RoundTrip.feedstop : ∀ f, RoundTrip.Statement (.feedstop f) := by
  intro f _ n
  simp [-BitVec.extractLsb'_toNat, parseS, packSR, packCmd, cmd38, cmd39, cmd3A, cmd3B, ctl26, ctl3D, m8]
theorem RoundTrip.mand : ∀ d a b, RoundTrip.Statement (.mand d a b) := by
  intro d a b _ n
  simp [-BitVec.extractLsb'_toNat, parseS, packSR, packCmd, cmd38, cmd39, cmd3A, cmd3B, ctl26, ctl3D, m8]
theorem RoundTrip.mor : ∀ d a b, RoundTrip.Statement (.mor d a b) := by
  intro d a b _ n
  simp [-BitVec.extractLsb'_toNat, parseS, packSR, packCmd, cmd38, cmd39, cmd3A, cmd3B, ctl26, ctl3D, m8]
theorem RoundTrip.mxor : ∀ d a b, RoundTrip.Statement (.mxor d a b) := by
  intro d a b _ n
  simp [-BitVec.extractLsb'_toNat, parseS, packSR, packCmd, cmd38, cmd39, cmd3A, cmd3B, ctl26, ctl3D, m8]
theorem RoundTrip.mandn : ∀ d a b, RoundTrip.Statement (.mandn d a b) := by
  intro d a b _ n
  simp [-BitVec.extractLsb'_toNat, parseS, packSR, packCmd, cmd38, cmd39, cmd3A, cmd3B, ctl26, ctl3D, m8]
theorem RoundTrip.mnot : ∀ d a, RoundTrip.Statement (.mnot d a) := by
  intro d a _ n
  simp [-BitVec.extractLsb'_toNat, parseS, packSR, packCmd, cmd38, cmd39, cmd3A, cmd3B, ctl26, ctl3D, m8]
theorem RoundTrip.mset : ∀ d a, RoundTrip.Statement (.mset d a) := by
  intro d a _ n
  simp [-BitVec.extractLsb'_toNat, parseS, packSR, packCmd, cmd38, cmd39, cmd3A, cmd3B, ctl26, ctl3D, m8]
theorem RoundTrip.mget : ∀ d a, RoundTrip.Statement (.mget d a) := by
  intro d a _ n
  simp [-BitVec.extractLsb'_toNat, parseS, packSR, packCmd, cmd38, cmd39, cmd3A, cmd3B, ctl26, ctl3D, m8]
theorem RoundTrip.mpop : ∀ d a, RoundTrip.Statement (.mpop d a) := by
  intro d a _ n
  simp [-BitVec.extractLsb'_toNat, parseS, packSR, packCmd, cmd38, cmd39, cmd3A, cmd3B, ctl26, ctl3D, m8]
theorem RoundTrip.mfirst : ∀ d a, RoundTrip.Statement (.mfirst d a) := by
  intro d a _ n
  simp [-BitVec.extractLsb'_toNat, parseS, packSR, packCmd, cmd38, cmd39, cmd3A, cmd3B, ctl26, ctl3D, m8]
theorem RoundTrip.sld : ∀ d a i, RoundTrip.Statement (.sld d a i) := by
  intro d a i _ n
  simp [-BitVec.extractLsb'_toNat, parseS, packSR, packCmd, cmd38, cmd39, cmd3A, cmd3B, ctl26, ctl3D, m8]
theorem RoundTrip.sst : ∀ d a i, RoundTrip.Statement (.sst d a i) := by
  intro d a i _ n
  simp [-BitVec.extractLsb'_toNat, parseS, packSR, packCmd, cmd38, cmd39, cmd3A, cmd3B, ctl26, ctl3D, m8]
theorem RoundTrip.sldk : ∀ d a i, RoundTrip.Statement (.sldk d a i) := by
  intro d a i _ n
  simp [-BitVec.extractLsb'_toNat, parseS, packSR, packCmd, cmd38, cmd39, cmd3A, cmd3B, ctl26, ctl3D, m8]
theorem RoundTrip.sldOrdered : ∀ d a s o wide, RoundTrip.Statement (.sldOrdered d a s o wide) := by
  intro d a s o wide _ n
  have hs := ord_s (b1 false) (scopeCode s) (orderCode o) wide 0
  have ho := ord_o (b1 false) (scopeCode s) (orderCode o) wide 0
  have hw := ord_w (b1 false) (scopeCode s) (orderCode o) wide 0
  have hk := ord_k false (scopeCode s) (orderCode o) wide 0
  show parseS (packS 0x33 d a (b1 false ++ scopeCode s ++ orderCode o ++ b1 wide ++ (0 : BitVec 3))) n = some (.sldOrdered d a s o wide)
  simp only [parseS, sMaj_packS, sD_packS, sA_packS, sF_packS, hs, ho, hw, hk, scopeOf_code, orderOf_code]
  rfl
theorem RoundTrip.sstOrdered : ∀ d a s o wide, RoundTrip.Statement (.sstOrdered d a s o wide) := by
  intro d a s o wide _ n
  have hs := ord_s (b1 true) (scopeCode s) (orderCode o) wide 0
  have ho := ord_o (b1 true) (scopeCode s) (orderCode o) wide 0
  have hw := ord_w (b1 true) (scopeCode s) (orderCode o) wide 0
  have hk := ord_k true (scopeCode s) (orderCode o) wide 0
  show parseS (packS 0x33 d a (b1 true ++ scopeCode s ++ orderCode o ++ b1 wide ++ (0 : BitVec 3))) n = some (.sstOrdered d a s o wide)
  simp only [parseS, sMaj_packS, sD_packS, sA_packS, sF_packS, hs, ho, hw, hk, scopeOf_code, orderOf_code]
  rfl
theorem RoundTrip.binit : ∀ d a n, RoundTrip.Statement (.binit d a n) := by
  intro d a n _ n
  simp [-BitVec.extractLsb'_toNat, parseS, packSR, packCmd, cmd38, cmd39, cmd3A, cmd3B, ctl26, ctl3D, m8]
theorem RoundTrip.barr : ∀ d n, RoundTrip.Statement (.barr d n) := by
  intro d n _ n
  simp [-BitVec.extractLsb'_toNat, parseS, packSR, packCmd, cmd38, cmd39, cmd3A, cmd3B, ctl26, ctl3D, m8]
theorem RoundTrip.bwait : ∀ d a n, RoundTrip.Statement (.bwait d a n) := by
  intro d a n _ n
  simp [-BitVec.extractLsb'_toNat, parseS, packSR, packCmd, cmd38, cmd39, cmd3A, cmd3B, ctl26, ctl3D, m8]
theorem RoundTrip.bsync : ∀ d n, RoundTrip.Statement (.bsync d n) := by
  intro d n _ n
  simp [-BitVec.extractLsb'_toNat, parseS, packSR, packCmd, cmd38, cmd39, cmd3A, cmd3B, ctl26, ctl3D, m8]
theorem RoundTrip.barrx : ∀ d a n, RoundTrip.Statement (.barrx d a n) := by
  intro d a n _ n
  simp [-BitVec.extractLsb'_toNat, parseS, packSR, packCmd, cmd38, cmd39, cmd3A, cmd3B, ctl26, ctl3D, m8]
theorem RoundTrip.waita : ∀ d a s, RoundTrip.Statement (.waita d a s) := by
  intro d a s _ n
  simp [-BitVec.extractLsb'_toNat, parseS, packSR, packCmd, cmd38, cmd39, cmd3A, cmd3B, ctl26, ctl3D, m8]
theorem RoundTrip.wake : ∀ a s, RoundTrip.Statement (.wake a s) := by
  intro a s _ n
  simp [-BitVec.extractLsb'_toNat, parseS, packSR, packCmd, cmd38, cmd39, cmd3A, cmd3B, ctl26, ctl3D, m8]
theorem RoundTrip.fence : ∀ s o, RoundTrip.Statement (.fence s o) := by
  intro s o _ n
  simp [-BitVec.extractLsb'_toNat, parseS, packSR, packCmd, cmd38, cmd39, cmd3A, cmd3B, ctl26, ctl3D, m8]
theorem RoundTrip.backoff : ∀ m, RoundTrip.Statement (.backoff m) := by
  intro m _ n
  simp [-BitVec.extractLsb'_toNat, parseS, packSR, packCmd, cmd38, cmd39, cmd3A, cmd3B, ctl26, ctl3D, m8]
theorem RoundTrip.klaunch : ∀ d a, RoundTrip.Statement (.klaunch d a) := by
  intro d a _ n
  simp [-BitVec.extractLsb'_toNat, parseS, packSR, packCmd, cmd38, cmd39, cmd3A, cmd3B, ctl26, ctl3D, m8]
theorem RoundTrip.tspawn : ∀ d a, RoundTrip.Statement (.tspawn d a) := by
  intro d a _ n
  simp [-BitVec.extractLsb'_toNat, parseS, packSR, packCmd, cmd38, cmd39, cmd3A, cmd3B, ctl26, ctl3D, m8]
theorem RoundTrip.tdec : ∀ d a, RoundTrip.Statement (.tdec d a) := by
  intro d a _ n
  simp [-BitVec.extractLsb'_toNat, parseS, packSR, packCmd, cmd38, cmd39, cmd3A, cmd3B, ctl26, ctl3D, m8]
theorem RoundTrip.tadd : ∀ d a n, RoundTrip.Statement (.tadd d a n) := by
  intro d a n _ n
  simp [-BitVec.extractLsb'_toNat, parseS, packSR, packCmd, cmd38, cmd39, cmd3A, cmd3B, ctl26, ctl3D, m8]
theorem RoundTrip.vgive : ∀ d n, RoundTrip.Statement (.vgive d n) := by
  intro d n _ n
  simp [-BitVec.extractLsb'_toNat, parseS, packSR, packCmd, cmd38, cmd39, cmd3A, cmd3B, ctl26, ctl3D, m8]
theorem RoundTrip.vclaim : ∀ d n, RoundTrip.Statement (.vclaim d n) := by
  intro d n _ n
  simp [-BitVec.extractLsb'_toNat, parseS, packSR, packCmd, cmd38, cmd39, cmd3A, cmd3B, ctl26, ctl3D, m8]
theorem RoundTrip.carve : ∀ d a hold, RoundTrip.Statement (.carve d a hold) := by
  intro d a hold _ n
  simp [-BitVec.extractLsb'_toNat, parseS, packSR, packCmd, cmd38, cmd39, cmd3A, cmd3B, ctl26, ctl3D, m8]
  cases hold <;> rfl
theorem RoundTrip.mqsend : ∀ d a, RoundTrip.Statement (.mqsend d a) := by
  intro d a _ n
  simp [-BitVec.extractLsb'_toNat, parseS, packSR, packCmd, cmd38, cmd39, cmd3A, cmd3B, ctl26, ctl3D, m8]
theorem RoundTrip.mqrecv : ∀ d a tryIt, RoundTrip.Statement (.mqrecv d a tryIt) := by
  intro d a tryIt _ n
  simp [-BitVec.extractLsb'_toNat, parseS, packSR, packCmd, cmd38, cmd39, cmd3A, cmd3B, ctl26, ctl3D, m8]
  cases tryIt <;> rfl
theorem RoundTrip.mqcount : ∀ d id, RoundTrip.Statement (.mqcount d id) := by
  intro d id _ n
  simp [-BitVec.extractLsb'_toNat, parseS, packSR, packCmd, cmd38, cmd39, cmd3A, cmd3B, ctl26, ctl3D, m8]
  cases id <;> rfl
theorem RoundTrip.qpost : ∀ d a, RoundTrip.Statement (.qpost d a) := by
  intro d a _ n
  simp [-BitVec.extractLsb'_toNat, parseS, packSR, packCmd, cmd38, cmd39, cmd3A, cmd3B, ctl26, ctl3D, m8]
theorem RoundTrip.tkill : ∀ grid, RoundTrip.Statement (.tkill grid) := by
  intro grid _ n
  simp [-BitVec.extractLsb'_toNat, parseS, packSR, packCmd, cmd38, cmd39, cmd3A, cmd3B, ctl26, ctl3D, m8]
  cases grid <;> rfl
theorem RoundTrip.xcopy : ∀ d a q, RoundTrip.Statement (.xcopy d a q) := by
  intro d a q _ n
  simp [-BitVec.extractLsb'_toNat, parseS, packSR, packCmd, cmd38, cmd39, cmd3A, cmd3B, ctl26, ctl3D, m8]
theorem RoundTrip.xgather : ∀ d a q, RoundTrip.Statement (.xgather d a q) := by
  intro d a q _ n
  simp [-BitVec.extractLsb'_toNat, parseS, packSR, packCmd, cmd38, cmd39, cmd3A, cmd3B, ctl26, ctl3D, m8]
theorem RoundTrip.xscatter : ∀ d a q, RoundTrip.Statement (.xscatter d a q) := by
  intro d a q _ n
  simp [-BitVec.extractLsb'_toNat, parseS, packSR, packCmd, cmd38, cmd39, cmd3A, cmd3B, ctl26, ctl3D, m8]
theorem RoundTrip.xfill : ∀ d a q, RoundTrip.Statement (.xfill d a q) := by
  intro d a q _ n
  simp [-BitVec.extractLsb'_toNat, parseS, packSR, packCmd, cmd38, cmd39, cmd3A, cmd3B, ctl26, ctl3D, m8]
theorem RoundTrip.xcancel : ∀ d a, RoundTrip.Statement (.xcancel d a) := by
  intro d a _ n
  simp [-BitVec.extractLsb'_toNat, parseS, packSR, packCmd, cmd38, cmd39, cmd3A, cmd3B, ctl26, ctl3D, m8]
theorem RoundTrip.evpop : ∀ d q, RoundTrip.Statement (.evpop d q) := by
  intro d q _ n
  simp [-BitVec.extractLsb'_toNat, parseS, packSR, packCmd, cmd38, cmd39, cmd3A, cmd3B, ctl26, ctl3D, m8]
theorem RoundTrip.evwait : ∀ d q, RoundTrip.Statement (.evwait d q) := by
  intro d q _ n
  simp [-BitVec.extractLsb'_toNat, parseS, packSR, packCmd, cmd38, cmd39, cmd3A, cmd3B, ctl26, ctl3D, m8]
theorem RoundTrip.evcfg : ∀ d a, RoundTrip.Statement (.evcfg d a) := by
  intro d a _ n
  simp [-BitVec.extractLsb'_toNat, parseS, packSR, packCmd, cmd38, cmd39, cmd3A, cmd3B, ctl26, ctl3D, m8]
theorem RoundTrip.trayflush : ∀ d a all, RoundTrip.Statement (.trayflush d a all) := by
  intro d a all _ n
  simp [-BitVec.extractLsb'_toNat, parseS, packSR, packCmd, cmd38, cmd39, cmd3A, cmd3B, ctl26, ctl3D, m8]
  cases all <;> rfl
theorem RoundTrip.traycfg : ∀ d a, RoundTrip.Statement (.traycfg d a) := by
  intro d a _ n
  simp [-BitVec.extractLsb'_toNat, parseS, packSR, packCmd, cmd38, cmd39, cmd3A, cmd3B, ctl26, ctl3D, m8]
theorem RoundTrip.lycfg : ∀ d a f, RoundTrip.Statement (.lycfg d a f) := by
  intro d a f _ n
  simp [-BitVec.extractLsb'_toNat, parseS, packSR, packCmd, cmd38, cmd39, cmd3A, cmd3B, ctl26, ctl3D, m8]
  cases f <;> rfl
theorem RoundTrip.mloop : ∀ d a q, RoundTrip.Statement (.mloop d a q) := by
  intro d a q _ n
  simp [-BitVec.extractLsb'_toNat, parseS, packSR, packCmd, cmd38, cmd39, cmd3A, cmd3B, ctl26, ctl3D, m8]
theorem RoundTrip.accopen : ∀ d a, RoundTrip.Statement (.accopen d a) := by
  intro d a _ n
  simp [-BitVec.extractLsb'_toNat, parseS, packSR, packCmd, cmd38, cmd39, cmd3A, cmd3B, ctl26, ctl3D, m8]
theorem RoundTrip.accdrain : ∀ d a q, RoundTrip.Statement (.accdrain d a q) := by
  intro d a q _ n
  simp [-BitVec.extractLsb'_toNat, parseS, packSR, packCmd, cmd38, cmd39, cmd3A, cmd3B, ctl26, ctl3D, m8]
theorem RoundTrip.accabort : ∀ d a, RoundTrip.Statement (.accabort d a) := by
  intro d a _ n
  simp [-BitVec.extractLsb'_toNat, parseS, packSR, packCmd, cmd38, cmd39, cmd3A, cmd3B, ctl26, ctl3D, m8]
theorem RoundTrip.accwait : ∀ d a, RoundTrip.Statement (.accwait d a) := by
  intro d a _ n
  simp [-BitVec.extractLsb'_toNat, parseS, packSR, packCmd, cmd38, cmd39, cmd3A, cmd3B, ctl26, ctl3D, m8]
theorem RoundTrip.pgmap : ∀ d a w x, RoundTrip.Statement (.pgmap d a w x) := by
  intro d a w x _ n
  simp [-BitVec.extractLsb'_toNat, parseS, packSR, packCmd, cmd38, cmd39, cmd3A, cmd3B, ctl26, ctl3D, m8]
  cases w <;> cases x <;> exact ⟨rfl, rfl⟩
theorem RoundTrip.pgtake : ∀ d put, RoundTrip.Statement (.pgtake d put) := by
  intro d put _ n
  simp [-BitVec.extractLsb'_toNat, parseS, packSR, packCmd, cmd38, cmd39, cmd3A, cmd3B, ctl26, ctl3D, m8]
  cases put <;> rfl
theorem RoundTrip.pgunmap : ∀ d a free, RoundTrip.Statement (.pgunmap d a free) := by
  intro d a free _ n
  simp [-BitVec.extractLsb'_toNat, parseS, packSR, packCmd, cmd38, cmd39, cmd3A, cmd3B, ctl26, ctl3D, m8]
  cases free <;> rfl
theorem RoundTrip.pginv : ∀ d a, RoundTrip.Statement (.pginv d a) := by
  intro d a _ n
  simp [-BitVec.extractLsb'_toNat, parseS, packSR, packCmd, cmd38, cmd39, cmd3A, cmd3B, ctl26, ctl3D, m8]
theorem RoundTrip.pgharvest : ∀ d a, RoundTrip.Statement (.pgharvest d a) := by
  intro d a _ n
  simp [-BitVec.extractLsb'_toNat, parseS, packSR, packCmd, cmd38, cmd39, cmd3A, cmd3B, ctl26, ctl3D, m8]
theorem RoundTrip.pgmigrate : ∀ d a, RoundTrip.Statement (.pgmigrate d a) := by
  intro d a _ n
  simp [-BitVec.extractLsb'_toNat, parseS, packSR, packCmd, cmd38, cmd39, cmd3A, cmd3B, ctl26, ctl3D, m8]
theorem RoundTrip.pgquery : ∀ d a, RoundTrip.Statement (.pgquery d a) := by
  intro d a _ n
  simp [-BitVec.extractLsb'_toNat, parseS, packSR, packCmd, cmd38, cmd39, cmd3A, cmd3B, ctl26, ctl3D, m8]
theorem RoundTrip.csheet : ∀ d a f, RoundTrip.Statement (.csheet d a f) := by
  intro d a f _ n
  simp [-BitVec.extractLsb'_toNat, parseS, packSR, packCmd, cmd38, cmd39, cmd3A, cmd3B, ctl26, ctl3D, m8]
  cases f <;> rfl
theorem RoundTrip.halodecl : ∀ d a, RoundTrip.Statement (.halodecl d a) := by
  intro d a _ n
  simp [-BitVec.extractLsb'_toNat, parseS, packSR, packCmd, cmd38, cmd39, cmd3A, cmd3B, ctl26, ctl3D, m8]
theorem RoundTrip.halopush : ∀ d a, RoundTrip.Statement (.halopush d a) := by
  intro d a _ n
  simp [-BitVec.extractLsb'_toNat, parseS, packSR, packCmd, cmd38, cmd39, cmd3A, cmd3B, ctl26, ctl3D, m8]
theorem RoundTrip.haloend : ∀ d a, RoundTrip.Statement (.haloend d a) := by
  intro d a _ n
  simp [-BitVec.extractLsb'_toNat, parseS, packSR, packCmd, cmd38, cmd39, cmd3A, cmd3B, ctl26, ctl3D, m8]
theorem RoundTrip.lclaim : ∀ d a, RoundTrip.Statement (.lclaim d a) := by
  intro d a _ n
  simp [-BitVec.extractLsb'_toNat, parseS, packSR, packCmd, cmd38, cmd39, cmd3A, cmd3B, ctl26, ctl3D, m8]
theorem RoundTrip.cwb : ∀ d a, RoundTrip.Statement (.cwb d a) := by
  intro d a _ n
  simp [-BitVec.extractLsb'_toNat, parseS, packSR, packCmd, cmd38, cmd39, cmd3A, cmd3B, ctl26, ctl3D, m8]
theorem RoundTrip.cinv : ∀ d a, RoundTrip.Statement (.cinv d a) := by
  intro d a _ n
  simp [-BitVec.extractLsb'_toNat, parseS, packSR, packCmd, cmd38, cmd39, cmd3A, cmd3B, ctl26, ctl3D, m8]
theorem RoundTrip.sget : ∀ d r, RoundTrip.Statement (.sget d r) := by
  intro d r _ n
  simp [-BitVec.extractLsb'_toNat, parseS, packSR, packCmd, cmd38, cmd39, cmd3A, cmd3B, ctl26, ctl3D, m8]
theorem RoundTrip.sset : ∀ a r, RoundTrip.Statement (.sset a r) := by
  intro a r _ n
  simp [-BitVec.extractLsb'_toNat, parseS, packSR, packCmd, cmd38, cmd39, cmd3A, cmd3B, ctl26, ctl3D, m8]
theorem RoundTrip.svc : ∀ n, RoundTrip.Statement (.svc n) := by
  intro n _ n
  simp [-BitVec.extractLsb'_toNat, parseS, packSR, packCmd, cmd38, cmd39, cmd3A, cmd3B, ctl26, ctl3D, m8]
theorem RoundTrip.trap : ∀ n, RoundTrip.Statement (.trap n) := by
  intro n _ n
  simp [-BitVec.extractLsb'_toNat, parseS, packSR, packCmd, cmd38, cmd39, cmd3A, cmd3B, ctl26, ctl3D, m8]
theorem RoundTrip.eret : RoundTrip.Statement (.eret) := by
  intro _ n
  simp [-BitVec.extractLsb'_toNat, parseS, packSR, packCmd, cmd38, cmd39, cmd3A, cmd3B, ctl26, ctl3D, m8]
theorem RoundTrip.eretRetry : RoundTrip.Statement (.eretRetry) := by
  intro _ n
  simp [-BitVec.extractLsb'_toNat, parseS, packSR, packCmd, cmd38, cmd39, cmd3A, cmd3B, ctl26, ctl3D, m8]
theorem RoundTrip.eretSkip : RoundTrip.Statement (.eretSkip) := by
  intro _ n
  simp [-BitVec.extractLsb'_toNat, parseS, packSR, packCmd, cmd38, cmd39, cmd3A, cmd3B, ctl26, ctl3D, m8]
theorem RoundTrip.lanePair : ∀ x y, RoundTrip.Statement (.lanePair x y) := by
  intro x y h
  have hh : (halfOk x && halfOk y) = true := by
    simp only [wellFormed, legal, Bool.and_eq_true] at h; simpa [lView, lxView, scalarOk] using h.2
  simp only [Bool.and_eq_true] at hh
  exact parseL_packP x y hh.1 hh.2
theorem RoundTrip.vadd : ∀ w, RoundTrip.Statement (.vadd w) := fun w _ => parseL_packL _ w
theorem RoundTrip.vsub : ∀ w, RoundTrip.Statement (.vsub w) := fun w _ => parseL_packL _ w
theorem RoundTrip.vmul : ∀ w, RoundTrip.Statement (.vmul w) := fun w _ => parseL_packL _ w
theorem RoundTrip.vmulh : ∀ w, RoundTrip.Statement (.vmulh w) := fun w _ => parseL_packL _ w
theorem RoundTrip.vmad : ∀ w, RoundTrip.Statement (.vmad w) := fun w _ => parseL_packL _ w
theorem RoundTrip.vand : ∀ w, RoundTrip.Statement (.vand w) := fun w _ => parseL_packL _ w
theorem RoundTrip.vor : ∀ w, RoundTrip.Statement (.vor w) := fun w _ => parseL_packL _ w
theorem RoundTrip.vxor : ∀ w, RoundTrip.Statement (.vxor w) := fun w _ => parseL_packL _ w
theorem RoundTrip.vandn : ∀ w, RoundTrip.Statement (.vandn w) := fun w _ => parseL_packL _ w
theorem RoundTrip.vnot : ∀ w, RoundTrip.Statement (.vnot w) := fun w _ => parseL_packL _ w
theorem RoundTrip.vshl : ∀ w, RoundTrip.Statement (.vshl w) := fun w _ => parseL_packL _ w
theorem RoundTrip.vshr : ∀ w, RoundTrip.Statement (.vshr w) := fun w _ => parseL_packL _ w
theorem RoundTrip.vsar : ∀ w, RoundTrip.Statement (.vsar w) := fun w _ => parseL_packL _ w
theorem RoundTrip.vrol : ∀ w, RoundTrip.Statement (.vrol w) := fun w _ => parseL_packL _ w
theorem RoundTrip.vmin : ∀ w, RoundTrip.Statement (.vmin w) := fun w _ => parseL_packL _ w
theorem RoundTrip.vmax : ∀ w, RoundTrip.Statement (.vmax w) := fun w _ => parseL_packL _ w
theorem RoundTrip.vabs : ∀ w, RoundTrip.Statement (.vabs w) := fun w _ => parseL_packL _ w
theorem RoundTrip.vneg : ∀ w, RoundTrip.Statement (.vneg w) := fun w _ => parseL_packL _ w
theorem RoundTrip.vclz : ∀ w, RoundTrip.Statement (.vclz w) := fun w _ => parseL_packL _ w
theorem RoundTrip.vpopc : ∀ w, RoundTrip.Statement (.vpopc w) := fun w _ => parseL_packL _ w
theorem RoundTrip.vbrev : ∀ w, RoundTrip.Statement (.vbrev w) := fun w _ => parseL_packL _ w
theorem RoundTrip.vbfx : ∀ w, RoundTrip.Statement (.vbfx w) := fun w _ => parseL_packL _ w
theorem RoundTrip.vbfi : ∀ w, RoundTrip.Statement (.vbfi w) := fun w _ => parseL_packL _ w
theorem RoundTrip.vsel : ∀ w, RoundTrip.Statement (.vsel w) := fun w _ => parseL_packL _ w
theorem RoundTrip.vmov : ∀ w, RoundTrip.Statement (.vmov w) := fun w _ => parseL_packL _ w
theorem RoundTrip.vli : ∀ w, RoundTrip.Statement (.vli w) := fun w _ => parseL_packL _ w
theorem RoundTrip.vcmp : ∀ w, RoundTrip.Statement (.vcmp w) := fun w _ => parseL_packL _ w
theorem RoundTrip.vaddc : ∀ w, RoundTrip.Statement (.vaddc w) := fun w _ => parseL_packL _ w
theorem RoundTrip.vidx : ∀ w, RoundTrip.Statement (.vidx w) := fun w _ => parseL_packL _ w
theorem RoundTrip.vsad : ∀ w, RoundTrip.Statement (.vsad w) := fun w _ => parseL_packL _ w
theorem RoundTrip.fadd : ∀ w, RoundTrip.Statement (.fadd w) := fun w _ => parseL_packL _ w
theorem RoundTrip.fsub : ∀ w, RoundTrip.Statement (.fsub w) := fun w _ => parseL_packL _ w
theorem RoundTrip.fmul : ∀ w, RoundTrip.Statement (.fmul w) := fun w _ => parseL_packL _ w
theorem RoundTrip.ffma : ∀ w, RoundTrip.Statement (.ffma w) := fun w _ => parseL_packL _ w
theorem RoundTrip.fmin : ∀ w, RoundTrip.Statement (.fmin w) := fun w _ => parseL_packL _ w
theorem RoundTrip.fmax : ∀ w, RoundTrip.Statement (.fmax w) := fun w _ => parseL_packL _ w
theorem RoundTrip.fcmp : ∀ w, RoundTrip.Statement (.fcmp w) := fun w _ => parseL_packL _ w
theorem RoundTrip.fclass : ∀ w, RoundTrip.Statement (.fclass w) := fun w _ => parseL_packL _ w
theorem RoundTrip.frnd : ∀ w, RoundTrip.Statement (.frnd w) := fun w _ => parseL_packL _ w
theorem RoundTrip.fldexp : ∀ w, RoundTrip.Statement (.fldexp w) := fun w _ => parseL_packL _ w
theorem RoundTrip.ffrexp : ∀ w, RoundTrip.Statement (.ffrexp w) := fun w _ => parseL_packL _ w
theorem RoundTrip.fdot2 : ∀ w, RoundTrip.Statement (.fdot2 w) := fun w _ => parseL_packL _ w
theorem RoundTrip.fdot4 : ∀ w, RoundTrip.Statement (.fdot4 w) := fun w _ => parseL_packL _ w
theorem RoundTrip.fscale : ∀ w, RoundTrip.Statement (.fscale w) := fun w _ => parseL_packL _ w
theorem RoundTrip.frcp : ∀ w, RoundTrip.Statement (.frcp w) := fun w _ => parseL_packL _ w
theorem RoundTrip.frsq : ∀ w, RoundTrip.Statement (.frsq w) := fun w _ => parseL_packL _ w
theorem RoundTrip.fsqrt : ∀ w, RoundTrip.Statement (.fsqrt w) := fun w _ => parseL_packL _ w
theorem RoundTrip.fdiv : ∀ w, RoundTrip.Statement (.fdiv w) := fun w _ => parseL_packL _ w
theorem RoundTrip.fexp2 : ∀ w, RoundTrip.Statement (.fexp2 w) := fun w _ => parseL_packL _ w
theorem RoundTrip.flog2 : ∀ w, RoundTrip.Statement (.flog2 w) := fun w _ => parseL_packL _ w
theorem RoundTrip.fsin : ∀ w, RoundTrip.Statement (.fsin w) := fun w _ => parseL_packL _ w
theorem RoundTrip.fcos : ∀ w, RoundTrip.Statement (.fcos w) := fun w _ => parseL_packL _ w
theorem RoundTrip.ftanh : ∀ w, RoundTrip.Statement (.ftanh w) := fun w _ => parseL_packL _ w
theorem RoundTrip.cvt : ∀ w, RoundTrip.Statement (.cvt w) := fun w _ => parseL_packL _ w
theorem RoundTrip.cvtef : ∀ w, RoundTrip.Statement (.cvtef w) := fun w _ => parseL_packL _ w
theorem RoundTrip.pack : ∀ w, RoundTrip.Statement (.pack w) := fun w _ => parseL_packL _ w
theorem RoundTrip.unpack : ∀ w, RoundTrip.Statement (.unpack w) := fun w _ => parseL_packL _ w
theorem RoundTrip.shfl : ∀ w, RoundTrip.Statement (.shfl w) := fun w _ => parseL_packL _ w
theorem RoundTrip.shflx : ∀ w, RoundTrip.Statement (.shflx w) := fun w _ => parseL_packL _ w
theorem RoundTrip.shflup : ∀ w, RoundTrip.Statement (.shflup w) := fun w _ => parseL_packL _ w
theorem RoundTrip.shfldn : ∀ w, RoundTrip.Statement (.shfldn w) := fun w _ => parseL_packL _ w
theorem RoundTrip.bcast : ∀ w, RoundTrip.Statement (.bcast w) := fun w _ => parseL_packL _ w
theorem RoundTrip.ballot : ∀ w, RoundTrip.Statement (.ballot w) := fun w _ => parseL_packL _ w
theorem RoundTrip.vote : ∀ w, RoundTrip.Statement (.vote w) := fun w _ => parseL_packL _ w
theorem RoundTrip.scan : ∀ w, RoundTrip.Statement (.scan w) := fun w _ => parseL_packL _ w
theorem RoundTrip.lred : ∀ w, RoundTrip.Statement (.lred w) := fun w _ => parseL_packL _ w
theorem RoundTrip.compact : ∀ w, RoundTrip.Statement (.compact w) := fun w _ => parseL_packL _ w
theorem RoundTrip.vreadl : ∀ w, RoundTrip.Statement (.vreadl w) := fun w _ => parseL_packL _ w
theorem RoundTrip.vwritel : ∀ w, RoundTrip.Statement (.vwritel w) := fun w _ => parseL_packL _ w
theorem RoundTrip.ld : ∀ w, RoundTrip.Statement (.ld w) := fun w _ => parseL_packLX _ w
theorem RoundTrip.st : ∀ w, RoundTrip.Statement (.st w) := fun w _ => parseL_packLX _ w
theorem RoundTrip.lds : ∀ w, RoundTrip.Statement (.lds w) := fun w _ => parseL_packLX _ w
theorem RoundTrip.sts : ∀ w, RoundTrip.Statement (.sts w) := fun w _ => parseL_packLX _ w
theorem RoundTrip.atom : ∀ w, RoundTrip.Statement (.atom w) := fun w _ => parseL_packLX _ w
theorem RoundTrip.atoms : ∀ w, RoundTrip.Statement (.atoms w) := fun w _ => parseL_packLX _ w
theorem RoundTrip.red : ∀ w, RoundTrip.Statement (.red w) := fun w _ => parseL_packLX _ w
theorem RoundTrip.pref : ∀ w, RoundTrip.Statement (.pref w) := fun w _ => parseL_packLX _ w
theorem RoundTrip.trace : ∀ w, RoundTrip.Statement (.trace w) := fun w _ => parseL_packLX _ w
theorem RoundTrip.traceq : ∀ w, RoundTrip.Statement (.traceq w) := fun w _ => parseL_packLX _ w
theorem RoundTrip.hitget : ∀ w, RoundTrip.Statement (.hitget w) := fun w _ => parseL_packLX _ w
theorem RoundTrip.primemit : ∀ w, RoundTrip.Statement (.primemit w) := fun w _ => parseL_packLX _ w
theorem RoundTrip.sample : ∀ w, RoundTrip.Statement (.sample w) := fun w _ => parseL_packLX _ w
theorem RoundTrip.samplel : ∀ w, RoundTrip.Statement (.samplel w) := fun w _ => parseL_packLX _ w
theorem RoundTrip.sampleg : ∀ w, RoundTrip.Statement (.sampleg w) := fun w _ => parseL_packLX _ w
theorem RoundTrip.texld : ∀ w, RoundTrip.Statement (.texld w) := fun w _ => parseL_packLX _ w
theorem RoundTrip.texst : ∀ w, RoundTrip.Statement (.texst w) := fun w _ => parseL_packLX _ w
theorem RoundTrip.lyins : ∀ w, RoundTrip.Statement (.lyins w) := fun w _ => parseL_packLX _ w
theorem RoundTrip.lyread : ∀ w, RoundTrip.Statement (.lyread w) := fun w _ => parseL_packLX _ w
theorem RoundTrip.lyresolve : ∀ w, RoundTrip.Statement (.lyresolve w) := fun w _ => parseL_packLX _ w
theorem RoundTrip.lyclear : ∀ w, RoundTrip.Statement (.lyclear w) := fun w _ => parseL_packLX _ w
theorem RoundTrip.mma : ∀ w, RoundTrip.Statement (.mma w) := fun w _ => parseL_packLX _ w
theorem RoundTrip.vmm : ∀ w, RoundTrip.Statement (.vmm w) := fun w _ => parseL_packLX _ w
theorem RoundTrip.accred : ∀ w, RoundTrip.Statement (.accred w) := fun w _ => parseL_packLX _ w
theorem RoundTrip.accpeek : ∀ w, RoundTrip.Statement (.accpeek w) := fun w _ => parseL_packLX _ w
theorem RoundTrip.trayput : ∀ w, RoundTrip.Statement (.trayput w) := fun w _ => parseL_packLX _ w
theorem RoundTrip.trayget : ∀ w, RoundTrip.Statement (.trayget w) := fun w _ => parseL_packLX _ w
theorem RoundTrip.laneOpSettle : ∀ core slot k, RoundTrip.Statement (.laneOpSettle core slot k) := by intro core slot k _; trivial
theorem RoundTrip.trapEntry : ∀ core slot, RoundTrip.Statement (.trapEntry core slot) := by intro core slot _; trivial
theorem RoundTrip.feedVectorArrive : ∀ core slot f, RoundTrip.Statement (.feedVectorArrive core slot f) := by intro core slot f _; trivial
theorem RoundTrip.fragmentReturn : ∀ core slot, RoundTrip.Statement (.fragmentReturn core slot) := by intro core slot _; trivial
theorem RoundTrip.backoffExpiry : ∀ core slot b, RoundTrip.Statement (.backoffExpiry core slot b) := by intro core slot b _; trivial
theorem RoundTrip.spinDemotion : ∀ core slot, RoundTrip.Statement (.spinDemotion core slot) := by intro core slot _; trivial
theorem RoundTrip.issueAgePromotion : ∀ core slot, RoundTrip.Statement (.issueAgePromotion core slot) := by intro core slot _; trivial
theorem RoundTrip.barrierRemoteArrival : ∀ k, RoundTrip.Statement (.barrierRemoteArrival k) := by intro k _; trivial
theorem RoundTrip.waitaReread : ∀ core slot b, RoundTrip.Statement (.waitaReread core slot b) := by intro core slot b _; trivial
theorem RoundTrip.waitaPeriodicReread : ∀ core slot b, RoundTrip.Statement (.waitaPeriodicReread core slot b) := by intro core slot b _; trivial
theorem RoundTrip.waitaFabTimeout : ∀ core slot b, RoundTrip.Statement (.waitaFabTimeout core slot b) := by intro core slot b _; trivial
theorem RoundTrip.safelightExpiry : ∀ ctx, RoundTrip.Statement (.safelightExpiry ctx) := by intro ctx _; trivial
theorem RoundTrip.faultQueuePostResume : ∀ core slot b, RoundTrip.Statement (.faultQueuePostResume core slot b) := by intro core slot b _; trivial
theorem RoundTrip.queueEnableSet : ∀ q, RoundTrip.Statement (.queueEnableSet q) := by intro q _; trivial
theorem RoundTrip.queueEnableClear : ∀ q, RoundTrip.Statement (.queueEnableClear q) := by intro q _; trivial
theorem RoundTrip.queueDoorbell : ∀ q tail, RoundTrip.Statement (.queueDoorbell q tail) := by intro q tail _; trivial
theorem RoundTrip.registerWrite : ∀ r v, RoundTrip.Statement (.registerWrite r v) := by intro r v _; trivial
theorem RoundTrip.mailboxDoneClear : RoundTrip.Statement (.mailboxDoneClear) := fun _ => trivial
theorem RoundTrip.queueActivate : ∀ q, RoundTrip.Statement (.queueActivate q) := by intro q _; trivial
theorem RoundTrip.queuePreempt : ∀ q, RoundTrip.Statement (.queuePreempt q) := by intro q _; trivial
theorem RoundTrip.sliceExpiry : ∀ q, RoundTrip.Statement (.sliceExpiry q) := by intro q _; trivial
theorem RoundTrip.readyAgePromotion : ∀ q, RoundTrip.Statement (.readyAgePromotion q) := by intro q _; trivial
theorem RoundTrip.launch : ∀ q, RoundTrip.Statement (.launch q) := by intro q _; trivial
theorem RoundTrip.draw : ∀ q, RoundTrip.Statement (.draw q) := by intro q _; trivial
theorem RoundTrip.signalPkt : ∀ q, RoundTrip.Statement (.signalPkt q) := by intro q _; trivial
theorem RoundTrip.waitPkt : ∀ q, RoundTrip.Statement (.waitPkt q) := by intro q _; trivial
theorem RoundTrip.barrierPkt : ∀ q, RoundTrip.Statement (.barrierPkt q) := by intro q _; trivial
theorem RoundTrip.ctxopCreate : ∀ q, RoundTrip.Statement (.ctxopCreate q) := by intro q _; trivial
theorem RoundTrip.ctxopBind : ∀ q, RoundTrip.Statement (.ctxopBind q) := by intro q _; trivial
theorem RoundTrip.ctxopUnbind : ∀ q, RoundTrip.Statement (.ctxopUnbind q) := by intro q _; trivial
theorem RoundTrip.ctxopUpdate : ∀ q, RoundTrip.Statement (.ctxopUpdate q) := by intro q _; trivial
theorem RoundTrip.ctxopQuarantine : ∀ q, RoundTrip.Statement (.ctxopQuarantine q) := by intro q _; trivial
theorem RoundTrip.ctxopDestroy : ∀ q, RoundTrip.Statement (.ctxopDestroy q) := by intro q _; trivial
theorem RoundTrip.packetDeferredStart : ∀ q, RoundTrip.Statement (.packetDeferredStart q) := by intro q _; trivial
theorem RoundTrip.waitReread : ∀ q, RoundTrip.Statement (.waitReread q) := by intro q _; trivial
theorem RoundTrip.waitPeriodicPoll : ∀ q, RoundTrip.Statement (.waitPeriodicPoll q) := by intro q _; trivial
theorem RoundTrip.waitTimeout : ∀ q, RoundTrip.Statement (.waitTimeout q) := by intro q _; trivial
theorem RoundTrip.bindRetry : ∀ q, RoundTrip.Statement (.bindRetry q) := by intro q _; trivial
theorem RoundTrip.unbindComplete : ∀ ctx, RoundTrip.Statement (.unbindComplete ctx) := by intro ctx _; trivial
theorem RoundTrip.gridComplete : ∀ g, RoundTrip.Statement (.gridComplete g) := by intro g _; trivial
theorem RoundTrip.taskDispatch : ∀ q, RoundTrip.Statement (.taskDispatch q) := by intro q _; trivial
theorem RoundTrip.groupPlace : ∀ g, RoundTrip.Statement (.groupPlace g) := by intro g _; trivial
theorem RoundTrip.bankConversionDone : ∀ core bank, RoundTrip.Statement (.bankConversionDone core bank) := by intro core bank _; trivial
theorem RoundTrip.groupSettled : ∀ gid, RoundTrip.Statement (.groupSettled gid) := by intro gid _; trivial
theorem RoundTrip.groupRestore : ∀ gid, RoundTrip.Statement (.groupRestore gid) := by intro gid _; trivial
theorem RoundTrip.trayDeadline : ∀ core k, RoundTrip.Statement (.trayDeadline core k) := by intro core k _; trivial
theorem RoundTrip.trayWaveStart : ∀ core, RoundTrip.Statement (.trayWaveStart core) := by intro core _; trivial
theorem RoundTrip.finderSegmentStart : ∀ core g, RoundTrip.Statement (.finderSegmentStart core g) := by intro core g _; trivial
theorem RoundTrip.teamOpStart : ∀ core gid team, RoundTrip.Statement (.teamOpStart core gid team) := by intro core gid team _; trivial
theorem RoundTrip.partialArrive : ∀ k, RoundTrip.Statement (.partialArrive k) := by intro k _; trivial
theorem RoundTrip.mloopComplete : ∀ core op, RoundTrip.Statement (.mloopComplete core op) := by intro core op _; trivial
theorem RoundTrip.drainComplete : ∀ core op, RoundTrip.Statement (.drainComplete core op) := by intro core op _; trivial
theorem RoundTrip.transferTranslationEnd : ∀ core op, RoundTrip.Statement (.transferTranslationEnd core op) := by intro core op _; trivial
theorem RoundTrip.transferLocksClear : ∀ core op, RoundTrip.Statement (.transferLocksClear core op) := by intro core op _; trivial
theorem RoundTrip.transferComplete : ∀ core op, RoundTrip.Statement (.transferComplete core op) := by intro core op _; trivial
theorem RoundTrip.eventRecordPostResume : ∀ core op, RoundTrip.Statement (.eventRecordPostResume core op) := by intro core op _; trivial
theorem RoundTrip.engineFaultTaken : ∀ core op, RoundTrip.Statement (.engineFaultTaken core op) := by intro core op _; trivial
theorem RoundTrip.loupeBatchClose : RoundTrip.Statement (.loupeBatchClose) := fun _ => trivial
theorem RoundTrip.frameFillComplete : ∀ f, RoundTrip.Statement (.frameFillComplete f) := by intro f _; trivial
theorem RoundTrip.fillPoolUnreachable : ∀ f, RoundTrip.Statement (.fillPoolUnreachable f) := by intro f _; trivial
theorem RoundTrip.unitReplay : ∀ core slot, RoundTrip.Statement (.unitReplay core slot) := by intro core slot _; trivial
theorem RoundTrip.enlargerEvict : RoundTrip.Statement (.enlargerEvict) := fun _ => trivial
theorem RoundTrip.evictionComplete : ∀ f, RoundTrip.Statement (.evictionComplete f) := by intro f _; trivial
theorem RoundTrip.poolFrameMove : ∀ f, RoundTrip.Statement (.poolFrameMove f) := by intro f _; trivial
theorem RoundTrip.zeroingDone : ∀ f, RoundTrip.Statement (.zeroingDone f) := by intro f _; trivial
theorem RoundTrip.homeGets : ∀ k, RoundTrip.Statement (.homeGets k) := by intro k _; trivial
theorem RoundTrip.homeGetm : ∀ k, RoundTrip.Statement (.homeGetm k) := by intro k _; trivial
theorem RoundTrip.homeUpg : ∀ k, RoundTrip.Statement (.homeUpg k) := by intro k _; trivial
theorem RoundTrip.homePuts : ∀ k, RoundTrip.Statement (.homePuts k) := by intro k _; trivial
theorem RoundTrip.homePute : ∀ k, RoundTrip.Statement (.homePute k) := by intro k _; trivial
theorem RoundTrip.homePutm : ∀ k, RoundTrip.Statement (.homePutm k) := by intro k _; trivial
theorem RoundTrip.homePuto : ∀ k, RoundTrip.Statement (.homePuto k) := by intro k _; trivial
theorem RoundTrip.homeUnblock : ∀ k, RoundTrip.Statement (.homeUnblock k) := by intro k _; trivial
theorem RoundTrip.homeOwnack : ∀ k, RoundTrip.Statement (.homeOwnack k) := by intro k _; trivial
theorem RoundTrip.homeCleanack : ∀ k, RoundTrip.Statement (.homeCleanack k) := by intro k _; trivial
theorem RoundTrip.homeWbdata : ∀ k, RoundTrip.Statement (.homeWbdata k) := by intro k _; trivial
theorem RoundTrip.homeHack : ∀ k, RoundTrip.Statement (.homeHack k) := by intro k _; trivial
theorem RoundTrip.l1Data : ∀ k, RoundTrip.Statement (.l1Data k) := by intro k _; trivial
theorem RoundTrip.l1Datae : ∀ k, RoundTrip.Statement (.l1Datae k) := by intro k _; trivial
theorem RoundTrip.l1Datam : ∀ k, RoundTrip.Statement (.l1Datam k) := by intro k _; trivial
theorem RoundTrip.l1Grant : ∀ k, RoundTrip.Statement (.l1Grant k) := by intro k _; trivial
theorem RoundTrip.l1Invack : ∀ k, RoundTrip.Statement (.l1Invack k) := by intro k _; trivial
theorem RoundTrip.l1Inv : ∀ k, RoundTrip.Statement (.l1Inv k) := by intro k _; trivial
theorem RoundTrip.l1Fwdgets : ∀ k, RoundTrip.Statement (.l1Fwdgets k) := by intro k _; trivial
theorem RoundTrip.l1Fwdgetm : ∀ k, RoundTrip.Statement (.l1Fwdgetm k) := by intro k _; trivial
theorem RoundTrip.l1Pullwb : ∀ k, RoundTrip.Statement (.l1Pullwb k) := by intro k _; trivial
theorem RoundTrip.l1Noticeack : ∀ k, RoundTrip.Statement (.l1Noticeack k) := by intro k _; trivial
theorem RoundTrip.l1Wback : ∀ k, RoundTrip.Statement (.l1Wback k) := by intro k _; trivial
theorem RoundTrip.l1Hpush : ∀ k, RoundTrip.Statement (.l1Hpush k) := by intro k _; trivial
theorem RoundTrip.l1Hcommit : ∀ k, RoundTrip.Statement (.l1Hcommit k) := by intro k _; trivial
theorem RoundTrip.l1Retry : ∀ k, RoundTrip.Statement (.l1Retry k) := by intro k _; trivial
theorem RoundTrip.requestResend : ∀ k, RoundTrip.Statement (.requestResend k) := by intro k _; trivial
theorem RoundTrip.forwardTimeout : ∀ core, RoundTrip.Statement (.forwardTimeout core) := by intro core _; trivial
theorem RoundTrip.uncorrectableSoftError : ∀ site, RoundTrip.Statement (.uncorrectableSoftError site) := by intro site _; trivial
theorem RoundTrip.modeChange : ∀ on, RoundTrip.Statement (.modeChange on) := by intro on _; trivial
theorem RoundTrip.memoryLineReturn : ∀ line, RoundTrip.Statement (.memoryLineReturn line) := by intro line _; trivial
theorem RoundTrip.bisnpReceive : ∀ line inv, RoundTrip.Statement (.bisnpReceive line inv) := by intro line inv _; trivial
theorem RoundTrip.externalRequest : ∀ agent req, RoundTrip.Statement (.externalRequest agent req) := by intro agent req _; trivial
theorem RoundTrip.glinorFlitReceive : ∀ port f, RoundTrip.Statement (.glinorFlitReceive port f) := by intro port f _; trivial
theorem RoundTrip.portEnable : ∀ p, RoundTrip.Statement (.portEnable p) := by intro p _; trivial
theorem RoundTrip.portTrainingEnd : ∀ p lanes, RoundTrip.Statement (.portTrainingEnd p lanes) := by intro p lanes _; trivial
theorem RoundTrip.portTrainingTimeout : ∀ p, RoundTrip.Statement (.portTrainingTimeout p) := by intro p _; trivial
theorem RoundTrip.portResendLimit : ∀ p, RoundTrip.Statement (.portResendLimit p) := by intro p _; trivial
theorem RoundTrip.portLaneLost : ∀ p, RoundTrip.Statement (.portLaneLost p) := by intro p _; trivial
theorem RoundTrip.portFence : ∀ p, RoundTrip.Statement (.portFence p) := by intro p _; trivial
theorem RoundTrip.portReset : ∀ p, RoundTrip.Statement (.portReset p) := by intro p _; trivial
theorem RoundTrip.cxlPortDown : ∀ p, RoundTrip.Statement (.cxlPortDown p) := by intro p _; trivial
theorem RoundTrip.poolDecoderWrite : ∀ k enable base size, RoundTrip.Statement (.poolDecoderWrite k enable base size) := by intro k enable base size _; trivial
theorem RoundTrip.agentJoin : ∀ kind route, RoundTrip.Statement (.agentJoin kind route) := by intro kind route _; trivial
theorem RoundTrip.peerLost : ∀ id cause, RoundTrip.Statement (.peerLost id cause) := by intro id cause _; trivial
theorem RoundTrip.completionTimeout : ∀ id, RoundTrip.Statement (.completionTimeout id) := by intro id _; trivial
theorem RoundTrip.linkKeyChange : ∀ port, RoundTrip.Statement (.linkKeyChange port) := by intro port _; trivial
theorem RoundTrip.getInfo : ∀ r, RoundTrip.Statement (.getInfo r) := by intro r _; trivial
theorem RoundTrip.setPoolTarget : ∀ r, RoundTrip.Statement (.setPoolTarget r) := by intro r _; trivial
theorem RoundTrip.getLogState : ∀ r, RoundTrip.Statement (.getLogState r) := by intro r _; trivial
theorem RoundTrip.readLog : ∀ r, RoundTrip.Statement (.readLog r) := by intro r _; trivial
theorem RoundTrip.setLogHead : ∀ r, RoundTrip.Statement (.setLogHead r) := by intro r _; trivial
theorem RoundTrip.getSensors : ∀ r, RoundTrip.Statement (.getSensors r) := by intro r _; trivial
theorem RoundTrip.setPowerLimit : ∀ r, RoundTrip.Statement (.setPowerLimit r) := by intro r _; trivial
theorem RoundTrip.getPorts : ∀ r, RoundTrip.Statement (.getPorts r) := by intro r _; trivial
theorem RoundTrip.frequencyChange : ∀ mhz, RoundTrip.Statement (.frequencyChange mhz) := by intro mhz _; trivial
theorem RoundTrip.deviceReset : RoundTrip.Statement (.deviceReset) := fun _ => trivial
theorem RoundTrip.startUpComplete : RoundTrip.Statement (.startUpComplete) := fun _ => trivial
theorem RoundTrip.flashImageWrite : ∀ slot img, RoundTrip.Statement (.flashImageWrite slot img) := by intro slot img _; trivial
theorem RoundTrip.spdmGetVersion : ∀ path, RoundTrip.Statement (.spdmGetVersion path) := by intro path _; trivial
theorem RoundTrip.spdmGetCapabilities : ∀ path, RoundTrip.Statement (.spdmGetCapabilities path) := by intro path _; trivial
theorem RoundTrip.spdmNegotiateAlgorithms : ∀ path, RoundTrip.Statement (.spdmNegotiateAlgorithms path) := by intro path _; trivial
theorem RoundTrip.spdmGetDigests : ∀ path, RoundTrip.Statement (.spdmGetDigests path) := by intro path _; trivial
theorem RoundTrip.spdmGetCertificate : ∀ path, RoundTrip.Statement (.spdmGetCertificate path) := by intro path _; trivial
theorem RoundTrip.spdmChallenge : ∀ path, RoundTrip.Statement (.spdmChallenge path) := by intro path _; trivial
theorem RoundTrip.spdmGetMeasurements : ∀ path, RoundTrip.Statement (.spdmGetMeasurements path) := by intro path _; trivial
theorem RoundTrip.spdmKeyExchange : ∀ path, RoundTrip.Statement (.spdmKeyExchange path) := by intro path _; trivial
theorem RoundTrip.spdmFinish : ∀ path, RoundTrip.Statement (.spdmFinish path) := by intro path _; trivial
theorem RoundTrip.spdmEndSession : ∀ path, RoundTrip.Statement (.spdmEndSession path) := by intro path _; trivial
theorem RoundTrip.scalarAccessAnswered : ∀ core slot b, RoundTrip.Statement (.scalarAccessAnswered core slot b) := by intro core slot b _; trivial
theorem RoundTrip.birspReceive : ∀ line agent, RoundTrip.Statement (.birspReceive line agent) := by intro line agent _; trivial
theorem RoundTrip.biconflictReceive : ∀ line ack, RoundTrip.Statement (.biconflictReceive line ack) := by intro line ack _; trivial
theorem RoundTrip.correctableSoftError : ∀ ctx core unit bank, RoundTrip.Statement (.correctableSoftError ctx core unit bank) := by intro ctx core unit bank _; trivial
theorem RoundTrip.ideKmRequest : ∀ port m, RoundTrip.Statement (.ideKmRequest port m) := by intro port m _; trivial

end Sys2Proof.Laws
end

