-- ==== Sys2Proof/Tests/Slice0.lean ====
section
/-! SUPPORT. Tests/Slice0.lean: for every statement with hypotheses a state and operands that meet them; ill-formed terms that
WellFormed refuses; words written out from the spec's encodings; a few steps. Expected values come from the spec's text. -/

set_option Elab.async false

namespace Sys2Proof.Tests

open Sys2Proof Sys2Proof.Machine

/-! ## Small states for the witnesses -/

/-- A machine whose wave 0 of core 0, in context 1, issues a word of slot A at U; the first 512 MiB map onto local memory. -/
def wS : State := { placeWord State.reset 32 0x98000002 with cur := { core := 0, slot := 0, b := false }, turns := [] }
/-- Its wave. -/
def wW : Wave := placeWave false
/-- The same machine with another wave in its place. -/
def withWave (w : Wave) : State := { wS with waves := [(0, w)] }
/-- The wave with another fragment. -/
def withFrag (f : Frag) : Wave := { wW with fragA := some f }
/-- The wave with scalar registers. -/
def withRegs (l : List (Nat × Word)) : Wave := l.foldl (fun w e => wrS w e.1 e.2) wW
/-- The wave at S. -/
def wSup : Wave := { wW with priv := .s }
/-- A machine with a number in memory. -/
def withMem (s : State) (a n x : Nat) : State := { s with mem := writeNum s.mem a n x }
/-- A machine with lines in the L1 of core 0, which owns them. -/
def holding (s : State) (lines : List Nat) : State :=
  lines.foldl (fun s n => setL1 (setDir s n { Dir.init with st := .m, owner := 0 }) 0 n (L1Line.at .m)) s
theorem mem_of_find {α : Type} {m : Map α} {k : Nat} {x : α} (h : Map.find m k = some x) : (k, x) ∈ m := by
  induction m with
  | nil => cases h
  | cons e l ih =>
    obtain ⟨n, y⟩ := e
    unfold Map.find at h
    split at h
    · rename_i he; cases h; subst he; exact .head _
    · exact .tail _ (ih h)
/-- A machine with no message under way and every listed line stable is settled. -/
theorem settled_of {s : State} (hm : s.coh.msgs = []) (hd : s.coh.dir.all (fun e => dirStable e.2) = true) : Settled s := by
  intro line
  have : dirStable (dirOf s line) = true := by
    unfold dirOf
    cases h : Map.find s.coh.dir line with
    | none => rfl
    | some d => exact (List.all_eq_true.1 hd) _ (mem_of_find h)
  simp [settledLine, this, hm]
/-- A machine with another group in its place. -/
def withGroup (s : State) (g : Group) : State := { s with groups := [(0, g)] }
/-- A machine with another context in its place. -/
def withCtx (s : State) (c : Ctx) : State := { s with ctxs := [(1, c)] }

theorem ok_of {α β : Type} (p : α × β) (b : β) (h : p.2 = b) : p = (p.1, b) := by rw [← h]
theorem some_of {α β : Type} (o : Option (α × β)) (b : β) (h : o.map (·.2) = some b) : ∃ a, o = some (a, b) := by
  cases o with
  | none => cases h
  | some p => exact ⟨p.1, by rw [← Option.some.inj h]⟩

/-! ## Scalar words -/

/-- ScalarArithmetic, ScalarImmediatesAndFields, ScalarFlags, MaskWords and every clause whose only premise is that a fragment issues: a wave at U and one at S. -/
theorem wit_issues : Issues wS wW placeFrag ∧ Issues (withWave wSup) wSup placeFrag := ⟨⟨rfl, rfl⟩, ⟨rfl, rfl⟩⟩

/-- BranchConditions: a fragment with any flags. -/
theorem wit_BranchConditions (g : Flags) :
    Issues (withWave (withFrag { placeFrag with flags := g })) (withFrag { placeFrag with flags := g }) { placeFrag with flags := g } :=
  ⟨rfl, rfl⟩

/-- ControlWords: `m0` is not empty and m1 is; a target at the last aligned address below 2^57; no strip is queued. -/
theorem wit_ControlWords : let w := withRegs [(6, 0xFFFFFFFC), (7, 0x01FFFFFF)]
    Issues (withWave w) w placeFrag ∧ rdM w placeFrag 0 ≠ 0 ∧ rdM w placeFrag 1 = 0 ∧ (rdP w 6).toNat = 2 ^ 57 - 4 ∧ w.strips = []
    ∧ (ctlRead wS w 0x0E).isSome = true ∧ (ctlRead wS w 0x0A).isSome = true :=
  ⟨⟨rfl, rfl⟩, by decide, by decide, by decide, rfl, by decide, by decide⟩

/-- ControlRegisters, reads: a wave at S and one at U of a resident context; feeds and event queues below their bounds, as all are; a
core with a tray of the wave's grid in each state; a number that reads at each end of the list, and one past it that does not. -/
theorem wit_ControlRegisters :
    (wSup.priv = .s ∧ wW.priv = .u ∧ ctxOf wS (ctxIdOf wS wW.gid) = some placeCtx ∧ placeCtx.slot = some 0)
    ∧ (∀ n, n < 4 → (feedOf wW n).buf.length < 16 ∧ (evqOf wW n).recs.length < 128)
    ∧ (∃ g, groupOf wS wW.gid = some g ∧ ((coreOf wS g.core).trays.filter (fun t => t.2.grid == g.grid)).countP (fun t => t.2.st == .filling) < 512
        ∧ ∀ t, wW.tray = some t → t.recs.length ≤ 32 ∧ t.config < 64)
    ∧ (AtUser wS wW placeFrag placeCtx ∧ ctlRead wS wW (0x1E#8).toNat ≠ none ∧ ctlRead wS wW (0x1F#8).toNat = none) :=
  ⟨⟨rfl, rfl, rfl, rfl⟩, fun n _ => ⟨by show 0 < 16; decide, by show 0 < 128; decide⟩,
   ⟨_, rfl, by decide, fun t h => by cases h⟩, ⟨⟨rfl, rfl⟩, rfl, .inl rfl, rfl, rfl⟩, by decide, by decide⟩

/-- ControlRegisters, writes: a wave at S with no strip queued, and with one; a register that is written and the next, which is not. -/
theorem wit_ControlRegisterWrites : Issues (withWave wSup) wSup placeFrag ∧ wSup.priv = .s ∧ wSup.strips = []
    ∧ (let w := { wSup with strips := [{ lcidx := 0, len := 1, b := false }] }
       Issues (withWave w) w placeFrag ∧ w.strips ≠ [])
    ∧ (0x1C#8) ∉ [0x12, 0x14, 0x16, 0x18, 0x1A, 0x1B#8] := ⟨⟨rfl, rfl⟩, rfl, rfl, ⟨⟨rfl, rfl⟩, by simp⟩, by decide⟩

/-- A wave with 15 strips queued, so that one place is left, and registers naming the last strip of 256 words. -/
def wStrips : Wave :=
  { withRegs [(4, 0x3FFFF), (5, 256)] with strips := List.replicate 15 { lcidx := 0, len := 1, b := false } }

/-- StripsFeedsAndFences: one place is left in the queue, the longest strip of the highest index; and no strip, a `BACKOFF` of no
lane and one of every lane. -/
theorem wit_StripsFeedsAndFences :
    (Issues (withWave wStrips) wStrips placeFrag ∧ wStrips.strips.length = 15
      ∧ (rdS wStrips 4).toNat = 2 ^ 18 - 1 ∧ (rdS wStrips 5).toNat = 256
      ∧ stripHeld (withWave wStrips) wStrips { lcidx := 0, len := 1, b := false } = false
      ∧ stripHeld (withWave wStrips) wStrips { lcidx := 0x3FFFF, len := 256, b := false } = false)
    ∧ wW.strips = [] ∧ ownStrips wW false = false ∧ placeFrag.m0 &&& rdM wW placeFrag 1 = 0
    ∧ placeFrag.m0 &&& rdM wW placeFrag 0 ≠ 0 ∧ placeFrag.m0 &&& ~~~ (rdM wW placeFrag 0) = 0 :=
  ⟨⟨⟨rfl, rfl⟩, by decide, by decide, by decide, by decide +kernel, by decide +kernel⟩, by decide⟩

/-- A wave of two fragments with 16 lanes each, at one depth, slot B's waiting at `JOIN 5`. -/
def wTwo (m n : Word) : Wave :=
  { wW with fragA := some { placeFrag with m0 := m, depth := 1 },
            fragB := some { placeFrag with m0 := n, depth := 1, token := 5, wait := .join } }

/-- SplitAndJoin: none, all and half of the lanes taken; one fragment, two of which the other waits or does not, and either one
holding the lowest lane. -/
theorem wit_SplitAndJoin :
    (placeFrag.m0 &&& rdM wW placeFrag 1 = 0 ∧ placeFrag.m0 &&& rdM wW placeFrag 0 ≠ 0 ∧ placeFrag.m0 &&& ~~~ (rdM wW placeFrag 0) = 0)
    ∧ (let w := { wW with masks := [(2, 0xFFFF)] }
       Issues (withWave w) w placeFrag ∧ placeFrag.m0 &&& rdM w placeFrag 2 ≠ 0 ∧ placeFrag.m0 &&& ~~~ (rdM w placeFrag 2) ≠ 0
        ∧ ownStrips w false = false ∧ fragOf w true = none ∧ w.stack = [])
    ∧ (∀ p ∈ [((0xFFFF : Word), (0xFFFF0000 : Word)), (0xFFFF0000, 0xFFFF)], let w := wTwo p.1 p.2
       ∃ f g, Issues (withWave w) w f ∧ w.stack = [] ∧ ownStrips w false = false ∧ fragOf w true = some g ∧ g.depth = f.depth
        ∧ g.wait = .join ∧ g.token = 5 ∧ f.m0 &&& g.m0 = 0 ∧ f.m0 ≠ 0 ∧ g.m0 ≠ 0 ∧ firstSet f.m0 ≠ firstSet g.m0) := by
  refine ⟨by decide, ⟨⟨rfl, rfl⟩, by decide, by decide, by decide, rfl, rfl⟩, ?_⟩
  intro p hp
  simp only [List.mem_cons, List.not_mem_nil, or_false] at hp
  rcases hp with rfl | rfl <;> exact ⟨_, _, ⟨rfl, rfl⟩, rfl, by decide, rfl, rfl, rfl, rfl, by decide⟩

/-- ExitEnds: a strip of the fragment queued; another fragment that does not wait at a join; and none, in a group without engine
operation, barrier, team, claim or parked word. -/
theorem wit_ExitEnds :
    (let w := { wW with strips := [{ lcidx := 0, len := 1, b := false }] }
     Issues (withWave w) w placeFrag ∧ ownStrips w false = true)
    ∧ (let w := { wW with fragB := some placeFrag }
       Issues (withWave w) w placeFrag ∧ ownStrips w false = false ∧ w.stack = [] ∧ fragOf w true = some placeFrag)
    ∧ ∃ g, ownStrips wW false = false ∧ wW.stack = [] ∧ fragOf wW true = none ∧ groupOf wS wW.gid = some g ∧ g.barriers = []
        ∧ g.claimQ = [] ∧ teamSizeOf wW = 0 ∧ wS.vm.claims = [] ∧ opsWhere wS (fun o => o.gid == wW.gid) = [] :=
  ⟨⟨⟨rfl, rfl⟩, by decide⟩, ⟨⟨rfl, rfl⟩, by decide, rfl, rfl⟩, _, by decide, rfl, rfl, rfl, rfl, rfl, by decide, rfl, by decide⟩

/-! ## Barriers, messages and register pools -/

/-- The small machine's wave issues at U in its context. -/
theorem wit_atUser : AtUser wS wW placeFrag placeCtx := ⟨⟨rfl, rfl⟩, rfl, .inl rfl, rfl, rfl⟩

/-- A wave of a team of two with an operand in `s4`. -/
def wTeam (x : Word) : Wave := { withRegs [(4, x)] with ident := { wW.ident with team := 2 } }

/-- BarrierMisuse: the number just past barrier_count; a barrier not in use below it; an operand with bit 17 set, one with the team
bit and no team, and one whose count passes 65,535 (32,768 teams of two). -/
theorem wit_BarrierMisuse :
    (∃ g, AtUser (withGroup wS { placeGroup with barrierCount := 15 }) wW placeFrag placeCtx
      ∧ groupOf (withGroup wS { placeGroup with barrierCount := 15 }) wW.gid = some g ∧ g.barrierCount ≤ (15#4).toNat)
    ∧ (∃ g, AtUser wS wW placeFrag placeCtx ∧ groupOf wS wW.gid = some g ∧ (15#4).toNat < g.barrierCount
      ∧ (barrierOf g 15).inUse = false)
    ∧ (let w := withRegs [(4, 0x20000), (5, 0x10001)]
       AtUser (withWave w) w placeFrag placeCtx ∧ (rdS w 4).toNat / 2 ^ 17 ≠ 0 ∧ (rdS w 5).toNat / 2 ^ 17 = 0
        ∧ (rdS w 5).getLsbD 16 = true ∧ teamSizeOf w = 0)
    ∧ (let w := wTeam 0x18000
       AtUser (withWave w) w placeFrag placeCtx ∧ (rdS w 4).getLsbD 16 = true ∧ 65535 < (rdS w 4).toNat % 2 ^ 16 * teamSizeOf w) :=
  ⟨⟨_, ⟨⟨rfl, rfl⟩, rfl, .inl rfl, rfl, rfl⟩, rfl, by decide⟩,
   ⟨_, wit_atUser, rfl, by decide, by decide⟩,
   ⟨⟨⟨rfl, rfl⟩, rfl, .inl rfl, rfl, rfl⟩, by decide⟩,
   ⟨⟨⟨rfl, rfl⟩, rfl, .inl rfl, rfl, rfl⟩, by decide, by decide⟩⟩

/-- A group whose barrier 15 is in use, with a FIFO and two messages' room. -/
def wBar (expected arrived : Nat) (waiters : BitVec 128) : Group :=
  { placeGroup with barriers := [(15, { inUse := true, expected := expected, arrived := arrived, phase := 7, waiters := waiters, remote := 0 })],
                    scratchBytes := 256, fifoBytes := 256 }

/-- BarrierWords: operands of no wave, of the most waves, and of one team of two; a barrier not in use; in use and empty, with an
arrival and with a waiter; one arrival short and more; a token that is the phase (7) and one that is not; and the group's own
live handle. -/
theorem wit_BarrierWords :
    (let w := withRegs [(4, 0xFFFF), (5, 7)]
     Issues (withWave w) w placeFrag ∧ groupOf (withWave w) w.gid = some placeGroup ∧ (15#4).toNat < placeGroup.barrierCount
      ∧ (barrierOf placeGroup 15).inUse = false ∧ (rdS w 4).toNat < 2 ^ 17 ∧ (rdS w 4).getLsbD 16 = false
      ∧ (rdS w 4).toNat % 2 ^ 16 = 65535 ∧ (rdS w 6).toNat % 2 ^ 16 = 0)
    ∧ (let w := wTeam 0x10001
       Issues (withWave w) w placeFrag ∧ (rdS w 4).toNat < 2 ^ 17 ∧ (rdS w 4).getLsbD 16 = true ∧ teamSizeOf w ≠ 0
        ∧ (rdS w 4).toNat % 2 ^ 16 * teamSizeOf w = 2)
    ∧ (∀ e a v, let g := wBar e a v
       groupOf (withGroup wS g) 0 = some g ∧ Issues (withGroup wS g) wW placeFrag ∧ (barrierOf g 15).inUse = true
        ∧ (barrierOf g 15).arrived = a ∧ (barrierOf g 15).expected = e ∧ (barrierOf g 15).waiters = v
        ∧ (barrierOf g 15).phase = 7 ∧ (rdS wW 4).setWidth 16 ≠ (barrierOf g 15).phase)
    ∧ (let w := withRegs [(5, 7)]
       (rdS w 5).setWidth 16 = (barrierOf (wBar 1 0 0) 15).phase ∧ (rdS w 4).setWidth 16 ≠ (barrierOf (wBar 1 0 0) 15).phase)
    ∧ ∃ h, liveHandle (withGroup wS (wBar 1 0 0)) wW (rdS wW 4) = some (0, h) ∧ (15#4).toNat < h.barrierCount :=
  ⟨⟨⟨rfl, rfl⟩, rfl, by decide⟩,
   ⟨⟨rfl, rfl⟩, by decide⟩,
   fun e a v => ⟨rfl, ⟨rfl, rfl⟩, rfl, rfl, rfl, rfl, rfl, by show (0 : BitVec 16) ≠ 7; decide⟩,
   ⟨by decide, by decide⟩, _, rfl, by decide⟩

/-- BarrierWords, its last clause: the completing arrival finds wave 0's one fragment asleep in `BSYNC`, or in `BWAIT`, and no
handler. -/
theorem wit_barrierWakes : ∀ x ∈ [Wait.bsync 15 7 9, .bwait 15 7], let w := withFrag { placeFrag with wait := x }
    let s := withGroup (withWave w) (wBar 2 1 1)
    ∃ g f, groupOf s 0 = some g ∧ (barrierOf g 15).inUse = true ∧ (barrierOf g 15).arrived + 1 = (barrierOf g 15).expected
      ∧ Map.find s.waves 0 = some w ∧ w.gid = 0 ∧ (barrierOf g 15).waiters.getLsbD w.ident.waveid.toNat = true
      ∧ fragOf w false = some f ∧ f.wait = x ∧ w.stack = [] ∧ fragOf w true = none ∧ ∀ r, w.trap ≠ .handling r := by
  intro x _
  exact ⟨_, _, rfl, rfl, rfl, rfl, rfl, by show (1 : BitVec 128).getLsbD 0 = true; decide, rfl, rfl, rfl, rfl, fun r h => by cases h⟩

/-- MessagesAndRegisterPools: queues with no one parked; the last line of scratch; room for a second message and a message to take;
all but 8 registers given; and the last 8 of the 256 claimed from a pool that has them. -/
theorem wit_MessagesAndRegisterPools :
    (let w := withRegs [(5, 128)]
     let g := { wBar 1 0 0 with msgs := [(9, 0)] }
     let s := withGroup (withWave w) g
     Issues s w placeFrag ∧ groupOf s w.gid = some g ∧ g.sendQ = [] ∧ g.recvQ = [] ∧ g.claimQ = [] ∧ 128 ≤ g.fifoBytes
      ∧ (rdS w 5).toNat % 128 = 0 ∧ (rdS w 5).toNat + 128 = g.scratchBytes ∧ liveHandle s w (rdS w 4) = some (0, g)
      ∧ g.msgs.length + 1 = g.fifoBytes / 128 ∧ g.msgs = (9, 0) :: [] ∧ w.strips = [] ∧ 8 * (31#6).toNat < w.valloc)
    ∧ (let w := { wW with valloc := 248 }
       let g := { placeGroup with pools := [(0, 8)] }
       Issues (withGroup (withWave w) g) w placeFrag ∧ w.valloc + 8 * (1#6).toNat = 256
        ∧ 8 * (1#6).toNat = Tab.get 0 g.pools (poolOf g w.core w.slot)) :=
  ⟨⟨⟨rfl, rfl⟩, rfl, rfl, rfl, rfl, by decide, by decide, by decide, rfl, by decide, rfl, rfl, by decide⟩,
   ⟨⟨rfl, rfl⟩, by decide, by decide⟩⟩

/-! ## Traps -/

/-- TrapEntry: any request of the small machine's wave. -/
theorem wit_TrapEntry : waveAt wS 0 0 = some wW ∧ fragOf wW false = some placeFrag ∧ ctxOf wS (ctxIdOf wS wW.gid) = some placeCtx :=
  ⟨rfl, rfl, rfl⟩

/-- ServiceAndKillWords, PreciseTraps: a target one past an aligned address, and the first one at 2^57; lengths and an index past
their limits. -/
theorem wit_PreciseTraps :
    (let w := withRegs [(4, 2), (6, 0), (7, 0x02000000), (8, 0x40000), (9, 257)]
     AtUser (withWave w) w placeFrag placeCtx ∧ (rdP w 4).toNat % 4 ≠ 0 ∧ (rdP w 6).toNat % 4 = 0 ∧ (rdP w 6).toNat = 2 ^ 57
      ∧ (rdS w 8).toNat = 2 ^ 18 ∧ rdS w 10 = 0 ∧ 256 < (rdS w 9).toNat)
    ∧ groupOf (withWave wSup) wSup.gid = some placeGroup ∧ wSup.priv = .s :=
  ⟨⟨⟨⟨rfl, rfl⟩, rfl, .inl rfl, rfl, rfl⟩, by decide⟩, rfl, rfl⟩

/-- A request of a trap of a kind. -/
def wReq (k : TrapKind) : TrapReq :=
  { kind := k, cause := .misalign, unit := 1, mask := 0, addr := 0, info := 0, pc := 0x20000, b := false }
/-- A wave whose only fragment handles a trap. -/
def wHandler (k : TrapKind) : Wave :=
  { wSup with trap := .handling (wReq k), fragA := some { placeFrag with handler := true },
              shadow := { Shadow.zero with pcEntry := 0x20000, regs := [(3, 5)] } }

/-- TrapReturn: the handler of each of the three kinds, with a readable word at the pc of entry. -/
theorem wit_TrapReturn : ∀ k ∈ [TrapKind.scalar, .service, .watchdog], ∃ f, let w := wHandler k
    Issues (withWave w) w f ∧ w.priv = .s ∧ w.trap = .handling (wReq k) ∧ f.handler = true ∧ (∀ g, fragOf w true = some g → g.handler = false) ∧ w.stack = []
      ∧ w.strips = [] ∧ w.held = [] ∧ w.shadow.ops = [] ∧ w.shadow.wait = .none ∧ (withWave w).vm.claims = []
      ∧ ((wReq k).kind = .scalar ∨ (wReq k).kind = .service ∨ (wReq k).kind = .watchdog)
      ∧ (peekCode (withWave w) { w with priv := .u } w.shadow.pcEntry.toNat 4).isSome = true := by
  intro k hk
  simp only [List.mem_cons, List.not_mem_nil, or_false] at hk
  rcases hk with rfl | rfl | rfl <;>
    exact ⟨_, ⟨rfl, rfl⟩, rfl, rfl, rfl, fun g h => (by cases h), rfl, rfl, rfl, rfl, rfl, rfl, by decide, by decide⟩

/-! ## Scalar accesses -/

/-- Accesses: a read, a write and an atomic access of the last word of the mapped range, by a leaf that permits each, its line in core
0's L1; and the machine after reset is settled. -/
theorem wit_Accesses : (∃ c l, let s := holding wS [0x1FFFFF80]
    ctxOf s 1 = some c ∧ 0x1FFFFFFC < 2 ^ 57 ∧ pickLeaf s 0 1 0x1FFFFFFC c = some l ∧ bit l.word 7 = false
    ∧ bit l.word 4 = true ∧ bit l.word 5 = true ∧ bit l.word 6 = true ∧ bit l.word 8 = false ∧ pteHome l.word = 0
    ∧ leafPa l 0x1FFFFFFC = 0x1FFFFFFC ∧ s.extBytes = [] ∧ sealBroken s 1 0x1FFFFF80 l = false
    ∧ rangeLocked s 0 1 0x1FFFFFFC 0x1FFFFFFC 4 true = false ∧ lineSt s 0x1FFFFFFC = .m ∧ (dirOf s 0x1FFFFF80).fog = false
    ∧ haloPending s 0 0x1FFFFF80 = false ∧ softErrored s 0 0x1FFFFF80 .read = false ∧ softErrored s 0 0x1FFFFF80 .write = false
    ∧ l1Of s 0 0x1FFFFF80 = some (L1Line.at .m) ∧ settledLine s 0x1FFFFF80 = true)
    ∧ Settled State.reset ∧ State.reset.hostLines = [] :=
  ⟨⟨_, _, rfl, by decide, rfl, by decide⟩, fun line => rfl, rfl⟩

/-- A wave whose pair `s4` names the last double word of the mapped range, `s6` an unmapped address, `s8` one past a word. -/
def wAddr : Wave := withRegs [(4, 0x1FFFFFF8), (6, 0x20000000), (8, 0x1001), (10, 0x1004)]
/-- The machine with it, and the lines it accesses. -/
def wAddrS : State := holding (withWave wAddr) [0x1FFFFF80, 0x1FFFFD80]

/-- ScalarLoadsAndStores: both widths at the pair, 4 bytes at the pair and the least immediate, outside every halo region, not held
in the constant cache; and a line whose owner core 0 is. -/
theorem wit_ScalarLoadsAndStores :
    Issues wAddrS wAddr placeFrag
    ∧ (∀ k ∈ [AccKind.read, .write], ∀ n ∈ [4, 8], (rdP wAddr 4).toNat % n = 0
      ∧ ∃ t, access wAddrS 0 0 1 .u (rdP wAddr 4).toNat n k false = (t, .ok 0x1FFFFFF8) ∧ haloOwner t 0x1FFFFFF8 = none)
    ∧ (∀ k ∈ [AccKind.read, .look, .write], (rdP wAddr 4 + (0x200 : BitVec 10).signExtend 64).toNat = 0x1FFFFDF8
      ∧ ∃ t, access wAddrS 0 0 1 .u 0x1FFFFDF8 4 k false = (t, .ok 0x1FFFFDF8) ∧ konstFind t 0 1 0x1FFFFDF8 = none)
    ∧ haloOwner (setDir wS 0x20000 { Dir.init with st := .h }) 0x20000 = none
    ∧ haloOwner (withCtx (setDir wS 0x20000 { Dir.init with st := .h }) { placeCtx with halos := [(0,
        { base := 0x20000, pitch := 128, tw := 128, th := 1, tilesX := 1, tilesY := 1, hx := 0, hy := 0, owners := [0], map := [(2, 2)] })] }) 0x20000 = some 0 := by
  refine ⟨⟨rfl, rfl⟩, ?_, ?_, by decide, by decide⟩
  · intro k hk n hn
    simp only [List.mem_cons, List.not_mem_nil, or_false] at hk hn
    rcases hk with rfl | rfl <;> rcases hn with rfl | rfl <;> exact ⟨by decide, _, ok_of _ _ (by decide +kernel), by decide⟩
  · intro k hk
    simp only [List.mem_cons, List.not_mem_nil, or_false] at hk
    rcases hk with rfl | rfl | rfl <;> exact ⟨by decide, _, ok_of _ _ (by decide +kernel), by decide⟩

/-- ScalarAccessTraps: addresses one past, and 4 past, those that each width asks for; and an unmapped one. -/
theorem wit_ScalarAccessTraps :
    AtUser (withWave wAddr) wAddr placeFrag placeCtx
    ∧ (rdP wAddr 8 + (0 : BitVec 10).signExtend 64).toNat % 4 ≠ 0 ∧ (rdP wAddr 8).toNat % 4 ≠ 0 ∧ (rdP wAddr 10).toNat % 8 ≠ 0
    ∧ (rdP wAddr 10).toNat % 64 ≠ 0
    ∧ (rdP wAddr 6 + (0 : BitVec 10).signExtend 64).toNat % 4 = 0 ∧ Cause.unmapped ≠ .reservedTouch
    ∧ ∀ k ∈ [AccKind.read, .look, .write], ∃ t,
        access (withWave wAddr) 0 0 1 .u (rdP wAddr 6 + (0 : BitVec 10).signExtend 64).toNat 4 k false = (t, .fault .unmapped) := by
  refine ⟨⟨⟨rfl, rfl⟩, rfl, .inl rfl, rfl, rfl⟩, by decide, by decide, by decide, by decide, by decide, by decide, ?_⟩
  intro k hk
  simp only [List.mem_cons, List.not_mem_nil, or_false] at hk
  rcases hk with rfl | rfl | rfl <;> exact ⟨_, ok_of _ _ (by decide +kernel)⟩

/-- WatchedAddresses: a word that differs from the register and one that equals it (memory reads 0); and a second wave that watches
the line, and one that watches another. -/
theorem wit_WatchedAddresses : let w := withRegs [(4, 0x1000), (6, 1)]
    let s := holding (withWave w) [0x1000]
    Issues s w placeFrag ∧ (rdP w 4).toNat % 4 = 0
    ∧ (∃ t, access s 0 0 1 .u (rdP w 4).toNat 4 .read false = (t, .ok 0x1000)
      ∧ BitVec.ofNat 32 (ofBytes (loadBytes t 0 0x1000 4)) ≠ rdS w 6 ∧ BitVec.ofNat 32 (ofBytes (loadBytes t 0 0x1000 4)) = rdS w 2)
    ∧ ∀ line ∈ [0x1000, 0x1080], let v := { wW with slot := 1, fragA := some { placeFrag with wait := .waita line .group } }
       let s := { wS with waves := [(0, w), (1, v)] }
       ∃ g, Map.find s.waves 1 = some v ∧ fragOf v false = some g ∧ g.wait = .waita line .group ∧ scopeHas .dev w v = true
        ∧ scopeHas .group v w = true :=
  ⟨⟨rfl, rfl⟩, by decide, ⟨_, ok_of _ _ (by decide +kernel), by decide, by decide⟩,
   fun _ _ => ⟨_, rfl, rfl, rfl, by show scopeHas .dev wW wW = true; decide, by show scopeHas .group wW wW = true; decide⟩⟩

/-! ## Tasks, transfers and event queues -/

/-- A wave whose pair `s4` names a descriptor at 0x1000. -/
def wDesc : Wave := withRegs [(4, 0x1000)]
/-- A machine with a descriptor there, its line in core 0's L1. -/
def withDesc (w : Wave) (n x : Nat) : State := holding (withMem (withWave w) 0x1000 n x) [0x1000]
/-- A task record of one group, with a counter and a state. -/
def wTask (count state : Nat) : Nat := count + state * 2 ^ 32 + 2 ^ 192 + 2 ^ 224 + 2 ^ 240

/-- TaskWords: counters 2 and full of a record in `WAITING`, and one in state 0; and the four cases of the words that start a task. -/
theorem wit_TaskWords :
    (∀ p ∈ [(2, 1), (2 ^ 32 - 1, 1), (2, 0)], let s := withDesc wDesc 64 (wTask p.1 p.2)
      Issues s wDesc placeFrag ∧ (rdP wDesc 4).toNat % 64 = 0
      ∧ ∃ t, access s 0 0 1 .u (rdP wDesc 4).toNat 8 .update false = (t, .ok 0x1000)
        ∧ readNum t.mem 0x1000 8 % 2 ^ 32 = p.1 ∧ readNum t.mem 0x1000 8 / 2 ^ 32 % 8 = p.2)
    ∧ ∀ p ∈ [(0, 0), (1, 0), (0, 4), (0, 1), (0, 3)], let s := withDesc wDesc 64 (wTask p.1 p.2)
      ∃ t u, access s 0 0 1 .u (rdP wDesc 4).toNat 64 .read false = (t, .ok 0x1000)
        ∧ taskValid (ofBytes (loadBytes t 0 0x1000 64)) = true ∧ access t 0 0 1 .u (rdP wDesc 4).toNat 8 .update false = (u, .ok 0x1000)
        ∧ readNum u.mem 0x1000 8 % 2 ^ 32 = p.1 ∧ readNum u.mem 0x1000 8 / 2 ^ 32 % 8 = p.2
        ∧ (queueOf u 0).st = .active ∧ (queueOf u 0).ctxId = 1 ∧ Map.find (queueOf u 0).readyTail 0 = none := by
  constructor <;> intro p hp <;> simp only [List.mem_cons, List.not_mem_nil, or_false] at hp
  · rcases hp with rfl | rfl | rfl <;> exact ⟨⟨rfl, rfl⟩, by decide, _, ok_of _ _ (by decide +kernel), by decide +kernel, by decide +kernel⟩
  · rcases hp with rfl | rfl | rfl | rfl | rfl <;>
      exact ⟨_, _, ok_of _ _ (by decide +kernel), by decide +kernel, ok_of _ _ (by decide +kernel), by decide +kernel⟩

/-- FaultQueuePosts: a fault queue of one record, empty and full. -/
theorem wit_FaultQueuePosts : ∀ tail ∈ [0, 1], let w := { wDesc with priv := .s }
    let s := withMem (withDesc w 64 0) 0x50000 4 tail
    Issues s w placeFrag ∧ w.priv = .s ∧ ctxOf s (ctxIdOf s w.gid) = some placeCtx
    ∧ ∃ s1 s2 s3, access s 0 0 1 .s (rdP w 4).toNat 64 .read false = (s1, .ok 0x1000)
      ∧ access s1 0 0 1 .s (BitVec.ofNat 64 placeCtx.desc.fqBase).toNat 64 .update false = (s2, .ok 0x50000)
      ∧ (ofBytes (loadBytes s2 0 0x50000 4) + 2 ^ 32 - ofBytes (loadBytes s2 0 (0x50000 + 4) 4)) % 2 ^ 32 = tail
      ∧ 2 ^ placeCtx.desc.fqOrder = 1
      ∧ access s2 0 0 1 .s (BitVec.ofNat 64 (ringSlot placeCtx.desc.fqBase placeCtx.desc.fqOrder tail)).toNat 64 .update false
        = (s3, .ok (0x50000 + 64)) := by
  intro tail h
  simp only [List.mem_cons, List.not_mem_nil, or_false] at h
  rcases h with rfl | rfl <;> exact ⟨⟨rfl, rfl⟩, rfl, rfl, _, _, _, ok_of _ _ (by decide +kernel), ok_of _ _ (by decide +kernel), by decide +kernel,
    by decide, ok_of _ _ (by decide +kernel)⟩

/-- A transfer descriptor of one row of 64 bytes, from 0x2000 to 0x4000, with an index list at 0x6000 or none. -/
def wXfer (src idx : Nat) : Nat := src + 0x4000 * 2 ^ 64 + 64 * 2 ^ 128 + 2 ^ 160 + idx * 2 ^ 320

/-- TransferWords: each of the four words over a valid descriptor, with a transfer slot free. -/
theorem wit_TransferWords : ∀ p ∈ [(EngKind.copy, 0x2000, 0), (.gather, 0x2000, 0x6000), (.scatter, 0x2000, 0x6000), (.fill, 0, 0)],
    let s := holding (withDesc wDesc 64 (wXfer p.2.1 p.2.2)) [0x6000]
    Issues s wDesc placeFrag ∧ (rdP wDesc 4).toNat % 64 = 0
    ∧ ∃ t u idxs, access s 0 0 1 .u (rdP wDesc 4).toNat 64 .read false = (t, .ok 0x1000)
      ∧ (let r := ofBytes (loadBytes t 0 0x1000 64)
         xValid p.1 r = true ∧ (xIndexed p.1 = true → (xdesc r).idx % 4 = 0)
          ∧ readIdx t wDesc (xdesc r).idx (if xIndexed p.1 then (xdesc r).rows else 0) = (u, .ok idxs)
          ∧ xCheck p.1 (xdesc r) (xRanges p.1 (xdesc r) idxs) (((groupOf u 0).map (·.scratchBytes)).getD 0) = none
          ∧ freeOpSlot (coreOf u 0) = some 0 ∧ (pinPages u 0 1 .u [] (xPages p.1 (xdesc r) idxs)).isSome = true) := by
  intro p hp
  simp only [List.mem_cons, List.not_mem_nil, or_false] at hp
  rcases hp with rfl | rfl | rfl | rfl <;> refine ⟨⟨rfl, rfl⟩, by decide, ?_⟩
  · exact ⟨_, _, [], ok_of _ _ (by decide +kernel), by decide +kernel, by decide +kernel, rfl, by decide +kernel⟩
  · exact ⟨_, _, [0], ok_of _ _ (by decide +kernel), by decide +kernel, by decide +kernel, ok_of _ _ (by decide +kernel), by decide +kernel⟩
  · exact ⟨_, _, [0], ok_of _ _ (by decide +kernel), by decide +kernel, by decide +kernel, ok_of _ _ (by decide +kernel), by decide +kernel⟩
  · exact ⟨_, _, [], ok_of _ _ (by decide +kernel), by decide +kernel, by decide +kernel, rfl, by decide +kernel⟩

/-- An engine operation in slot 5 of core 0, of the small machine's group and some wave of it. -/
def wOp (k : EngKind) (wave : Nat) : EngOp :=
  { serial := 1, kind := k, st := .issued, ctx := 1, gid := 0, wave := wave, core := 0, slot := 0, b := false, q := 0, priv := .u,
    desc := BitVec.ofNat 512 (wXfer 0x2000 0), descAddr := 0x1000, fmt := 0, idxs := [], elem := 0, byte := 0, written := 0, pinned := [],
    failPage := none, failCause := none, missPage := none, parkedAt := 0, orphan := false, final := none, team := 0, acc := 0, hist := [] }
/-- A machine with that operation in hand. -/
def withOp (s : State) (o : EngOp) : State := { s with cores := [(0, { Core.init with ops := [(5, o)] })] }

/-- TransferWords, event queues: a record in queue 1 and none in queue 0; depths that sum to 64 and to 65, and a reserved bit; no
operation of the wave; a handle that names one of an exited wave of the group, and one that names none. -/
theorem wit_eventQueues :
    (let w := { withRegs [(4, 0x10100F11), (5, 0x10101011), (6, 0x80000000), (7, 0x405)] with evqs := [(1, { depth := 15, recs := [3] })] }
     Issues (withWave w) w placeFrag ∧ (evqOf w 1).recs = 3 :: [] ∧ (evqOf w 0).recs = []
      ∧ rdS w 4 &&& 0x80808080 = 0
      ∧ (rdS w 4).toNat % 128 + (rdS w 4).toNat / 2 ^ 8 % 128 + (rdS w 4).toNat / 2 ^ 16 % 128 + (rdS w 4).toNat / 2 ^ 24 % 128 = 64
      ∧ (∀ j, j < 4 → (evqOf w j).recs.length ≤ (rdS w 4).toNat / 2 ^ (8 * j) % 128)
      ∧ opsWhere (withWave w) (fun o => o.gid == w.gid && o.wave == w.ident.waveid.toNat) = []
      ∧ (rdS w 5).toNat % 128 + (rdS w 5).toNat / 2 ^ 8 % 128 + (rdS w 5).toNat / 2 ^ 16 % 128 + (rdS w 5).toNat / 2 ^ 24 % 128 = 65
      ∧ rdS w 6 &&& 0x80808080 ≠ 0 ∧ Map.find (coreOf (withWave w) 0).ops ((rdS w 7).toNat % 1024) = none)
    ∧ (let w := withRegs [(7, 0x405)]
       let s := withOp (withWave w) (wOp .copy 3)
       Issues s w placeFrag ∧ ∃ o, Map.find (coreOf s 0).ops ((rdS w 7).toNat % 1024) = some o
        ∧ engHandle o ((rdS w 7).toNat % 1024) = rdS w 7 ∧ o.gid = w.gid ∧ o.kind ≠ .drain ∧ waveOf s o.gid o.wave = none
        ∧ swappedOut s o.gid = false)
    ∧ (waveOf (withOp wS (wOp .copy 0)) 0 0 = some wW ∧ waveAt (withOp wS (wOp .copy 0)) wW.core wW.slot = some wW)
    ∧ freeOpSlot { Core.init with ops := (List.range 1024).map (fun i => (i, wOp .copy 0)) } = none :=
  ⟨⟨⟨rfl, rfl⟩, rfl, rfl, by decide⟩,
   ⟨⟨rfl, rfl⟩, _, rfl, by decide, rfl, by decide⟩, ⟨by decide, rfl⟩, by decide +kernel⟩

/-! ## Pages -/

/-- A machine whose first 512 MiB are mapped by 64 KiB leaves: those listed. -/
def wFine (s : State) (leaves : List (Nat × Nat)) : State :=
  let m := writeNum s.mem (rootPa + 0x20000) 8 (rootPa + 0x30000 + 1)
  { s with mem := leaves.foldl (fun m e => writeNum m (rootPa + 0x30000 + 8 * e.1) 8 e.2) m }
/-- The context with the whole address space reserved. -/
def wResv : Ctx := { placeCtx with desc := { placeDesc with resvLimit := 2 ^ 57 } }
/-- A machine at S with frame 5 taken by the context and frame 7 `POOLED`. -/
def wFrames (w : Wave) (c : Ctx) : State :=
  let s := withCtx (withWave { w with priv := .s }) c
  { s with vm := { s.vm with frames := [(5, plainFrame .taken 1), (7, plainFrame .pooled 0)] } }

/-- PageFrames: a `POOLED` frame and none; a frame taken and one not; a page outside the reservation (the context has none), one
without a level-1 table, under a 512 MiB leaf, and free below a level-2 table. -/
theorem wit_PageFrames : let w := { withRegs [(4, 0x30000), (6, 0), (7, 0x800), (8, 5), (9, 6)] with priv := .s }
    let s := wFrames w wResv
    (Issues s w placeFrag ∧ w.priv = .s ∧ ctxOf s (ctxIdOf s w.gid) = some wResv ∧ lowestIn s .pooled = some 7 ∧ lowestIn wS .pooled = none
      ∧ takenBy s (rdS w 8).toNat 1 = true ∧ takenBy s (rdS w 9).toNat 1 = false ∧ (rdP w 4).toNat % 65536 = 0
      ∧ (rdP w 6).toNat % 65536 = 0 ∧ inResv placeCtx (rdP w 4).toNat = false ∧ inResv wResv (rdP w 4).toNat = true
      ∧ pteTable (readNum s.mem (rootPa + 8 * bits (rdP w 6).toNat 56 43) 8) = false)
    ∧ (let e0 := readNum s.mem (rootPa + 8 * bits (rdP w 4).toNat 56 43) 8
       pteTable e0 = true ∧ pteLeaf true (readNum s.mem (ptePa e0 + 8 * bits (rdP w 4).toNat 42 29) 8) = true)
    ∧ (let t := wFine s []
       let e0 := readNum t.mem (rootPa + 8 * bits (rdP w 4).toNat 56 43) 8
       let e1 := readNum t.mem (ptePa e0 + 8 * bits (rdP w 4).toNat 42 29) 8
       pteTable e0 = true ∧ pteTable e1 = true ∧ pteLeaf false (readNum t.mem (ptePa e1 + 8 * bits (rdP w 4).toNat 28 16) 8) = false
        ∧ w.yieldClaim = [])
    ∧ Settled s ∧ Settled (wFine s []) :=
  ⟨⟨⟨rfl, rfl⟩, rfl, rfl, by decide +kernel⟩,
   by decide +kernel, by decide +kernel, fun _ => rfl, fun _ => rfl⟩

/-- PageMaps: nothing queued or in hand; a page outside the reservation; one with no leaf, with a 512 MiB leaf and with a 64 KiB one
of no accumulator's line; `PGINV` of no page and of 65,536; `PGHARVEST` of one and of 4,096; a page whose write-grant bit is set,
and one whose is not; `PGQUERY` past 2^57, without a leaf, of a leaf of S alone and of one open to U. -/
theorem wit_PageMaps : let w := { withRegs [(4, 0x30000), (6, 0), (7, 0x02000000), (8, 65536), (10, 0x10000)] with priv := .s }
    let s := wFine (wFrames w wResv) [(1, 0x100F3), (3, 0x30073)]
    (Issues s w placeFrag ∧ w.priv = .s ∧ ctxOf s (ctxIdOf s w.gid) = some wResv ∧ w.strips = [] ∧ opsWhere s (fun o => o.ctx == 1) = [] ∧ Settled s
      ∧ (rdP w 4).toNat % 65536 = 0 ∧ inResv placeCtx (rdP w 4).toNat = false ∧ inResv wResv (rdP w 4).toNat = true
      ∧ walk s.mem rootPa 0x20000 = none ∧ walkTo s.mem rootPa (rdP w 4).toNat = some (rootPa + 0x30000 + 24, false)
      ∧ pteLeaf false (readNum s.mem (rootPa + 0x30000 + 24) 8) = true
      ∧ walkTo (wFrames w wResv).mem rootPa (rdP w 4).toNat = some (rootPa + 0x20000, true)
      ∧ (pageLines 3).any (inA s) = false
      ∧ frameOfPage s ((rootPa + 0x30000 + 24) / 65536) = none ∧ 3 < frameLimit s ∧ (rdS w 1).toNat = 0 ∧ (rdS w 8).toNat = 65536)
    ∧ (Tab.get false s.vm.wgrant 3 = false ∧ Tab.get false ({ s.vm with wgrant := [(3, true)] } : Vm).wgrant 3 = true)
    ∧ (rdP w 6).toNat = 2 ^ 57 ∧ ((walk s.mem rootPa 0x10000).map (fun l => bit l.word 7)) = some true
    ∧ ((walk s.mem rootPa 0x30000).map (fun l => bit l.word 7)) = some false :=
  ⟨⟨⟨rfl, rfl⟩, rfl, rfl, rfl, rfl, fun _ => rfl, by decide +kernel⟩,
   ⟨by decide +kernel, by decide +kernel⟩, by decide +kernel⟩

/-- MigrationAndSheets: a descriptor of one page, 3, which is of the pool and moves to the `POOLED` frame 7. -/
theorem wit_PageMigration : let w := { wDesc with priv := .s }
    let s := withMem (wFine (wFrames w wResv) [(0, 0x73), (3, 0x90077)]) 0x1000 32 (0x30000 + 2 ^ 64)
    (let s := holding s [0x1000]
     Issues s w placeFrag ∧ w.priv = .s ∧ ctxOf s (ctxIdOf s w.gid) = some wResv ∧ (rdP w 4).toNat % 32 = 0
      ∧ ∃ t, access s 0 0 1 .s (rdP w 4).toNat 32 .read false = (t, .ok 0x1000)
        ∧ migrValid (ofBytes (loadBytes t 0 0x1000 32)) = true
        ∧ ∃ u, migratePages rootPa 1 false 1 t 3 0 = some (u, 1, 0))
    ∧ Settled s ∧ MemOk s ∧ Map.sorted s.vm.frames = true ∧ walkTo s.mem rootPa (3 * 65536) = some (rootPa + 0x30000 + 24, false)
    ∧ (let e := readNum s.mem (rootPa + 0x30000 + 24) 8
       pteLeaf false e = true ∧ pteHome e = 1 ∧ migrWaits s (ptePa e / 65536) = false ∧ ptePa e / 65536 ≠ 7)
    ∧ lowestIn s .pooled = some 7 ∧ (rootPa + 0x30000 + 24) / 65536 ≠ 7 ∧ (rootPa + 0x30000 + 31) / 65536 ≠ 7
    ∧ (pageLines 9).all (fun l => (haloOwner s l).isNone) = true ∧ s.extBytes = [] ∧ 7 < 2 ^ 22 := by
  refine ⟨⟨⟨rfl, rfl⟩, rfl, rfl, by decide +kernel, ?_⟩, fun _ => rfl, by unfold MemOk; decide +kernel, by decide +kernel⟩
  exact ⟨_, ok_of _ _ (by decide +kernel), by decide +kernel, some_of _ _ (by decide +kernel)⟩

/-- A contact-sheet request of slot 3: a base of 0x10000, pages, and memory at 0x4000 to write it to. -/
def wSheetReq (pages dst : Nat) : Nat := 0x10000 + pages * 2 ^ 64 + 3 * 2 ^ 85 + dst * 2 ^ 128
/-- A context with sheets. -/
def wSheets (l : Map Sheet) : Ctx := { placeCtx with sheets := l }

/-- MigrationAndSheets, the sheets: a free slot with 2^20 pages in all, with one more, and a slot in use; a drop and a snapshot of
a slot in use and of a free one; and 64 pages to write. -/
theorem wit_ContactSheets :
    (∀ p ∈ [(SheetForm.decl, 2 ^ 20, 0), (.drop, 1, 0), (.snapshot, 64, 0x4000)], let s := withDesc wDesc 32 (wSheetReq p.2.1 p.2.2)
      Issues s wDesc placeFrag ∧ (rdP wDesc 4).toNat % 32 = 0
      ∧ ∃ t, access s 0 0 1 .u (rdP wDesc 4).toNat 32 .read false = (t, .ok 0x1000)
        ∧ (let r := ofBytes (loadBytes t 0 0x1000 32)
           sheetValid p.1 r = true ∧ bits r 87 85 = 3 ∧ bits r 84 64 = (if p.2.1 = 2 ^ 20 then 2 ^ 20 else p.2.1)))
    ∧ (∃ c d, ctxOf (withCtx (withDesc wDesc 32 0) (wSheets [(2, { base := 0, pages := 1, marks := [] })])) 1 = some c
      ∧ Map.find c.sheets 3 = none ∧ 2 ^ 20 < c.sheets.foldl (fun n e => n + e.2.pages) (2 ^ 20)
      ∧ ctxOf (withDesc wDesc 32 0) 1 = some d ∧ Map.find d.sheets 3 = none ∧ d.sheets.foldl (fun n e => n + e.2.pages) (2 ^ 20) ≤ 2 ^ 20)
    ∧ ∃ c sh, ctxOf (withCtx (withDesc wDesc 32 0) (wSheets [(3, { base := 0, pages := 64, marks := [(1, 7)] })])) 1 = some c
      ∧ Map.find c.sheets 3 = some sh ∧ 1 ≤ sh.pages ∧ sh.pages ≤ 64
      ∧ ∃ u, access (withCtx (withDesc wDesc 32 (wSheetReq 64 0x4000)) (wSheets [(3, { sh with marks := [] })])) 0 0 1 .u
          (BitVec.ofNat 64 0x4000).toNat (2 * sh.pages) .update false = (u, .ok 0x4000) := by
  refine ⟨?_, ⟨_, _, rfl, by decide, by decide, rfl, by decide, by decide⟩, _, _, rfl, rfl, by decide, by decide, _, ok_of _ _ (by decide +kernel)⟩
  intro p hp
  simp only [List.mem_cons, List.not_mem_nil, or_false] at hp
  rcases hp with rfl | rfl | rfl <;> exact ⟨⟨rfl, rfl⟩, by decide, _, ok_of _ _ (by decide +kernel), by decide +kernel⟩

/-! ## Trays, banks, regrouping -/

/-- A tray entry of the small machine's grid. -/
def wTray (st : TraySt) (config : Nat) : Tray :=
  { st := st, grid := 0, config := config, key := 0, recs := [{ key := 1, p0 := 2, p1 := 3, p2 := 4 }], deadline := 5, stamp := 0,
    gx := 0, gy := 0, gz := 0, ticket := none }
/-- Core 0 with 14 banks `SCRATCH` and two trays of different configurations. -/
def wCore : Core :=
  { Core.init with banks := (List.range 14).map (fun i => (i, { mode := .scratch, hold := false, change := none })),
                   trays := [(0, wTray .filling 0), (1, wTray .filling 1), (2, wTray .triggered 0)] }
/-- Wave 4 of the group, and the small machine with it. -/
def wPartner : Wave := { wW with slot := 4, ident := { wW.ident with waveid := 4 } }
/-- The small machine with a wave, that partner, core 0 as above and a grid with one tray configuration. -/
def wTwoWaves (w q : Wave) : State :=
  { wS with waves := [(0, w), (4, q)], cores := [(0, wCore)], grids := [(0, { placeGrid with desc := { placeKernel with trayCount := 1 } })] }

theorem no_carve (n : Nat) (l : List Nat) : placeFrag.wait ≠ .carve n l := fun h => by cases h

/-- TraysBanksAndRegroup: a configuration and all; an age for the last configuration; no bank to change and two left to the cache;
a partner that is missing, the wave itself, of another partition, and one that has not come. -/
theorem wit_TraysBanksAndRegroup : let w := withRegs [(4, 0x00640000), (5, 4), (6, 1), (7, 0x2004)]
    let s := wTwoWaves w wPartner
    (Issues s w placeFrag ∧ groupOf s w.gid = some placeGroup ∧ putsQueued s w = false
      ∧ (∃ gr, Map.find s.grids placeGroup.grid = some gr ∧ bits (rdS w 4).toNat 15 6 = 0 ∧ bits (rdS w 4).toNat 5 0 + 1 = gr.desc.trayCount))
    ∧ (let v := { w with priv := .s }
       Issues (wTwoWaves v wPartner) v placeFrag ∧ v.priv = .s ∧ (∀ m l, placeFrag.wait ≠ .carve m l) ∧ carving (wTwoWaves v wPartner) 0 0 = false ∧ carveBusy (coreOf s 0) (rdS v 1).toNat = false
        ∧ carveChanges (coreOf s 0) (rdS v 1).toNat = [] ∧ carveCaches (coreOf s 0) (rdS v 1).toNat = 2)
    ∧ bits (rdS w 5).toNat 31 16 = 0 ∧ bit (rdS w 5).toNat 7 = false ∧ w.strips = []
    ∧ waveOf (withWave w) w.gid 4 = none ∧ w.ident.waveid.toNat = 0 ∧ bits (rdS w 6).toNat 6 0 % 4 ≠ 0
    ∧ waveOf s w.gid 4 = some wPartner ∧ regroupOf wPartner = none :=
  ⟨⟨⟨rfl, rfl⟩, rfl, by decide +kernel, _, rfl, by decide, by decide⟩,
   ⟨⟨rfl, rfl⟩, rfl, no_carve, by decide +kernel⟩,
   by decide, by decide, rfl, by decide, by decide, by decide, by decide +kernel, by decide⟩

/-- TraysBanksAndRegroup, its last part: two waves of 16 lanes each park for each other. -/
theorem wit_RegroupFuses : let x := { withRegs [(7, 0x2004)] with fragA := some { placeFrag with m0 := 0xFFFF } }
    let q := { wPartner with fragA := some { placeFrag with m0 := 0xFFFF0000, wait := .regroup 0 32 9 } }
    (Issues (wTwoWaves x q) x { placeFrag with m0 := 0xFFFF } ∧ bits (rdS x 7).toNat 31 16 = 0 ∧ bit (rdS x 7).toNat 7 = false
      ∧ x.strips = [] ∧ bits (rdS x 7).toNat 6 0 = 4 ∧ waveOf (wTwoWaves x q) x.gid 4 = some q ∧ regroupOf q = some (0, 32, 9))
    ∧ (let y := { x with fragA := some { placeFrag with m0 := 0xFFFF, wait := .regroup 4 32 8 } }
       ∃ fx fy, loneFrag y = some fx ∧ loneFrag q = some fy ∧ fx.wait = .regroup q.ident.waveid.toNat 32 8
        ∧ fy.wait = .regroup y.ident.waveid.toNat 32 9 ∧ y.ident.waveid.toNat < q.ident.waveid.toNat ∧ 32 ≤ y.valloc ∧ 32 ≤ q.valloc
        ∧ popc fx.m0 + popc fy.m0 = 32 ∧ engineQuiet (wTwoWaves y q) q = true) :=
  ⟨⟨⟨rfl, rfl⟩, by decide, by decide, rfl, by decide, by decide +kernel, by decide⟩,
   _, _, rfl, rfl, rfl, rfl, by decide⟩

/-! ## Accumulators, matrix loops, layers, halos and lines -/

/-- An accumulator's descriptor: 32 by 32 of 8 bytes at 0x100000, drained as F32 to 0x200000, with one spill block at 0x300000. -/
def wAd (state : Nat) : Nat :=
  let lo := 0x100000 + 32 * 2 ^ 64 + 32 * 2 ^ 80 + (ltypeCode .f32).toNat * 2 ^ 120 + state * 2 ^ 136
  lo + 0x200000 * 2 ^ 256 + 128 * 2 ^ 160 * 2 ^ 160 + 2 ^ 176 * 2 ^ 176 + 0x300000 * 2 ^ 192 * 2 ^ 192
/-- Its entry in the table. -/
def wAcc (st : AccSt) : Acc := { accNew wS wW 0x1000 0x1000 (wAd 1) [(16, 16)] with st := st }
/-- A machine with the descriptor in a state and, where it is open, its entry. -/
def wAccS (state : Nat) (l : List (Nat × Acc)) : State := { withDesc wDesc 64 (wAd state) with accs := l }

/-- AccumulatorWords: descriptors in `CLOSED` with free lines, `CLOSED` with lines of another accumulator, and `OPEN`; and for the
drain and the abort, one that is open, and none; a state that is not `DRAINING`, and one that is. -/
theorem wit_AccumulatorWords :
    (∀ p ∈ [(0, []), (0, [(0, wAcc .opened)]), (1, [(0, wAcc .opened)]), (2, [])], let s := wAccS p.1 p.2
      Issues s wDesc placeFrag ∧ (rdP wDesc 4).toNat % 64 = 0
      ∧ ∃ t u, access s 0 0 1 .u (rdP wDesc 4).toNat 64 .read false = (t, .ok 0x1000)
        ∧ access t 0 0 1 .u (rdP wDesc 4).toNat 64 .update false = (u, .ok 0x1000)
        ∧ (let r := ofBytes (loadBytes t 0 0x1000 64)
           adValid r = true ∧ adState r = p.1 ∧ adState (readNum u.mem 0x1000 64) = p.1
            ∧ openPages t wDesc (adBase r / 65536) 1 (spanPages (adBase r) (adBase r + adSize r)) = some [(16, 16)]
            ∧ openPages t wDesc (adSpill r / 65536) 0 (adBlocks r) = some [(48, 48)]
            ∧ 4 * ceilDiv (adSize r) 128 ≤ 65536 * adBlocks r
            ∧ (accLineKeys (accNew u wDesc 0x1000 0x1000 r [(16, 16)])).any (fun k => inA u k || (haloOwner u k).isSome) = !p.2.isEmpty
            ∧ bytesMeet (adDst r) (adDstBytes r) (adBase r) (adSize r) = false ∧ adHist r = 0
            ∧ (accByDesc u 1 0x1000).isSome = !p.2.isEmpty)
        ∧ Settled u ∧ (Map.lowestFree (fun _ => false) 1024 u.accs 0).isSome = true ∧ freeOpSlot (coreOf u 0) = some 0
        ∧ (pinPages u 0 1 .u [] (drainPages (BitVec.ofNat 512 (wAd p.1)))).isSome = true
        ∧ opsWhere u (fun o => o.kind == .drain && o.acc == 0) = []) := by
  intro p hp
  simp only [List.mem_cons, List.not_mem_nil, or_false] at hp
  rcases hp with rfl | rfl | rfl | rfl <;>
    exact ⟨⟨rfl, rfl⟩, by decide, _, _, ok_of _ _ (by decide +kernel), ok_of _ _ (by decide +kernel), by decide +kernel,
      settled_of (by decide +kernel) (by decide +kernel), by decide +kernel⟩

/-- PageMaps: page 16 holds a line of an open accumulator. -/
theorem wit_PageWithALine : (pageLines 16).any (inA { wS with accs := [(0, wAcc .opened)] }) = true := by decide +kernel

/-- A loop's descriptor: one step over scratch from 0, a tile at 0x8000 and a format block at 0x2000. -/
def wLoop : Nat := 2 ^ 128 + 0x8000 * 2 ^ 192 + 0x2000 * 2 ^ 256
/-- A format block of F16 by F16 to F32. -/
def wFmt : Nat :=
  (ltypeCode .f16).toNat * 2 ^ 192 + (ltypeCode .f16).toNat * 2 ^ 208 + (ltypeCode .f32).toNat * 2 ^ 224
/-- A wave of a team of one. -/
def wMember : Wave := { wDesc with ident := { wW.ident with team := 1 } }
/-- The machine with both, in a group with scratch. -/
def wLoopS : State :=
  let s := withMem (withDesc wMember 64 wLoop) 0x2000 32 wFmt
  withGroup (holding s [0x2000]) { placeGroup with scratchBytes := 8192 }

/-- MatrixLoopIssues: a valid loop of a team's member. -/
theorem wit_MatrixLoopIssues :
    Issues wLoopS wMember placeFrag ∧ (rdP wMember 4).toNat % 64 = 0 ∧ teamSizeOf wMember ≠ 0
    ∧ ∃ t u, access wLoopS 0 0 1 .u (rdP wMember 4).toNat 64 .read false = (t, .ok 0x1000)
      ∧ (let l := loopDesc (ofBytes (loadBytes t 0 0x1000 64))
         loopValid (ofBytes (loadBytes t 0 0x1000 64)) = true ∧ l.fmt % 32 = 0 ∧ (BitVec.ofNat 64 l.fmt).toNat = 0x2000
          ∧ (loopSpan l.aOff l.aInc l.steps (stepK .f16 .f16 * 2) 32).1 = 0 ∧ (loopSpan l.aOff l.aInc l.steps (stepK .f16 .f16 * 2) 32).2 ≤ 8192)
      ∧ access t 0 0 1 .u 0x2000 32 .read false = (u, .ok 0x2000)
      ∧ ((fmtOf (ofBytes (loadBytes u 0 0x2000 32))).map (fun f => (f.aType, f.bType, (mmaRegs f.aType f.bType).isSome)))
          = some (.f16, .f16, true)
      ∧ (groupOf u 0).map (·.scratchBytes) = some 8192 ∧ freeOpSlot (coreOf u 0) = some 0
      ∧ (teamOf u 0 wMember.gid (teamIdxOf wMember)).any (·.dissolved) = false :=
  ⟨⟨rfl, rfl⟩, by decide, by decide, _, _, ok_of _ _ (by decide +kernel), by decide +kernel, ok_of _ _ (by decide +kernel),
    by decide +kernel⟩

/-- A layered texture of 32 by 1, with up to two pages at 0x20000, its header at 0x10000; the whole space reserved. -/
def wLay : Nat := 0x10000 + 0x20000 * 2 ^ 64 + 31 * 2 ^ 128 + 2 * 2 ^ 176
/-- The machine with it. -/
def wLayS (leaves : List (Nat × Nat)) : State :=
  withCtx (withMem (wFine (withDesc wDesc 64 wLay) ([(0, 0x73), (1, 0x10073)] ++ leaves)) 0x10000 16 0) wResv

/-- LayerConfiguration: a pool of which the next page is mapped, and one of which none is. -/
theorem wit_LayerConfiguration : ∀ p ∈ [([(2, 0x20073)], true), ([], false)], let s := wLayS p.1
    Issues s wDesc placeFrag ∧ (rdP wDesc 4).toNat % 64 = 0
    ∧ ∃ t u v, access s 0 0 1 .u (rdP wDesc 4).toNat 64 .read false = (t, .ok 0x1000) ∧ ctxOf t 1 = some wResv
      ∧ ((layeredOf wResv.desc (ofBytes (loadBytes t 0 0x1000 64))).map (fun t => (t.hdr, t.pool, t.width, t.height, t.maxPages)))
          = some (0x10000, 0x20000, 32, 1, 2)
      ∧ access t 0 0 1 .u (BitVec.ofNat 64 0x10000).toNat 128 .pull false = (u, .ok 0x10000)
      ∧ poolState (ofBytes (loadBytes u 0 0x10000 128)) = some { pages := 0, used := 0, freeHead := 0, live := 0 }
      ∧ access t 0 0 1 .u (BitVec.ofNat 64 0x10000).toNat 128 .update false = (v, .ok 0x10000)
      ∧ poolState (ofBytes (loadBytes v 0 0x10000 128)) = some { pages := 0, used := 0, freeHead := 0, live := 0 }
      ∧ poolPage v wResv.desc 0x20000 = p.2
      ∧ ∃ x, access v 0 0 1 .u (BitVec.ofNat 64 (0x10000 + 128)).toNat 128 .update false = (x, .ok 0x10080) := by
  intro p hp
  simp only [List.mem_cons, List.not_mem_nil, or_false] at hp
  rcases hp with rfl | rfl <;>
    exact ⟨⟨rfl, rfl⟩, by decide, _, _, _, ok_of _ _ (by decide +kernel), by decide +kernel, by decide +kernel, ok_of _ _ (by decide +kernel),
      by decide +kernel, ok_of _ _ (by decide +kernel), by decide +kernel, by decide +kernel, _, ok_of _ _ (by decide +kernel)⟩

/-- A halo region of one line at 0x20000, owned as the byte at 0x3000 says. -/
def wHaloR : Nat := 0x20000 + 128 * 2 ^ 64 + 2 ^ 96 + 2 ^ 104 + 2 ^ 128 + 2 ^ 144 + 0x3000 * 2 ^ 192
/-- The region in the table. -/
def wHalo : Halo := haloOf wHaloR [0] [(2, 2)]
/-- A machine in which the region is declared as number 0 and a byte of it is dirty. -/
def wHaloS (w : Wave) : State :=
  let s := withCtx (withWave w) { placeCtx with halos := [(0, wHalo)] }
  { s with coh := { s.coh with haloDirty := [(0x20005, 9)] } }

/-- HaloAndLineWords: a region to declare; none of number 0 and one that is declared, with a dirty line that no other core holds;
a push that is over; and no push in flight. -/
theorem wit_HaloRegions :
    (let s := holding (withDesc wDesc 64 wHaloR) [0x3000]
     Issues s wDesc placeFrag ∧ (rdP wDesc 4).toNat % 64 = 0
      ∧ ∃ t u, access s 0 0 1 .u (rdP wDesc 4).toNat 64 .read false = (t, .ok 0x1000)
        ∧ (let r := ofBytes (loadBytes t 0 0x1000 64)
           haloValid r = true ∧ bits r 143 128 * bits r 159 144 = 1 ∧ bits r 248 192 % 128 + 1 ≤ 128)
        ∧ access t 0 0 1 .u (BitVec.ofNat 64 0x3000).toNat 1 .read false = (u, .ok 0x3000)
        ∧ (loadBytes u 0 0x3000 1).map (·.toNat) = [0] ∧ Settled u ∧ mapPages u wDesc (haloPages (haloOf wHaloR [0] [])) = some [(2, 2)]
        ∧ (∀ x ∈ (haloLines wHalo).map (haloKey wHalo), inA u x = false ∧ haloOwner u x = none)
        ∧ Map.lowestFree (fun _ => false) 16 (((ctxOf u 1).map (·.halos)).getD []) 0 = some 0 ∧ ctxOf u 1 ≠ none)
    ∧ (wW.strips = [] ∧ pushing wS 0 = false ∧ haloRegion wS wW (rdS wW 4).toNat = none)
    ∧ (let s := wHaloS wW
       Issues s wW placeFrag ∧ wW.strips = [] ∧ pushing s 0 = false ∧ haloRegion s wW (rdS wW 4).toNat = some wHalo
        ∧ haloDirtyLines s 0 = [0x20000] ∧ replicaCores s 0 0x20000 = [] ∧ s.coh.pushes = [] ∧ Map.sorted s.coh.haloDirty = true)
    ∧ (let f := { placeFrag with wait := .haloPush 1 }
       Issues (wHaloS (withFrag f)) (withFrag f) f ∧ pushing (wHaloS (withFrag f)) 0 = false) :=
  ⟨⟨⟨rfl, rfl⟩, by decide, _, _, ok_of _ _ (by decide +kernel), by decide +kernel, ok_of _ _ (by decide +kernel), by decide +kernel,
      settled_of (by decide +kernel) (by decide +kernel), by decide +kernel⟩,
   ⟨rfl, by decide, by decide⟩,
   ⟨⟨rfl, rfl⟩, rfl, by decide, by decide, by decide +kernel, by decide, rfl, by decide⟩, ⟨⟨rfl, rfl⟩, by decide⟩⟩

theorem no_push (k : Nat) : placeFrag.wait ≠ .haloPush k := fun h => by cases h

/-- HaloAndLineWords, the lines: a FOG line in I, one in H and a line that is not FOG, which S may write; a range of no byte, one of
the most bytes, and one of coherent lines; and a line of a non-coherent page that the K9 has written. -/
theorem wit_LineWords : let w := { withRegs [(4, 0x20000), (6, 0xFFFFFF)] with priv := .s }
    let s := withWave w
    let fog := setDir s 0x20000 { Dir.init with fog := true }
    let foggedH := withCtx fog { placeCtx with halos := [(0, wHalo)] }
    (∀ t ∈ [fog, foggedH, s], Issues t w placeFrag ∧ w.priv = .s ∧ (rdP w 4).toNat % 128 = 0
      ∧ (∃ l, Machine.translate t 0 1 .s (rdP w 4).toNat .write = .ok l ∧ leafKey l (rdP w 4).toNat = 0x20000)
      ∧ rangeLocked t 0 1 (rdP w 4).toNat 0x20000 128 true = false)
    ∧ (dirOf fog 0x20000).fog = true ∧ lineSt fog 0x20000 = .fog ∧ (dirOf foggedH 0x20000).fog = true ∧ lineSt foggedH 0x20000 = .h
    ∧ (dirOf s 0x20000).fog = false ∧ lineSt s 0x20000 = .i
    ∧ (∃ t, access fog 0 0 1 .s (rdP w 4).toNat 128 .update true = (t, .ok 0x20000))
    ∧ (∃ t, access s 0 0 1 .s (rdP w 4).toNat 128 .look false = (t, .ok 0x20000))
    ∧ (rdS w 6).toNat + 1 = 2 ^ 24 ∧ w.strips = [] ∧ rangeLines s placeCtx (rdP w 4).toNat 0 = []
    ∧ (∀ l ∈ rangeLines s placeCtx (rdP w 4).toNat 256, l < 2 ^ 64 ∧ haloOwner s l = none ∧ settledLine s l = true) := by
  refine ⟨?_, by decide, by decide, by decide, by decide, by decide, by decide, ⟨_, ok_of _ _ (by decide +kernel)⟩,
    ⟨_, ok_of _ _ (by decide +kernel)⟩, by decide +kernel, rfl, by decide, by decide +kernel⟩
  intro t h
  simp only [List.mem_cons, List.not_mem_nil, or_false] at h
  rcases h with rfl | rfl | rfl <;> exact ⟨⟨rfl, rfl⟩, rfl, by decide, ⟨_, rfl, by decide⟩, by decide⟩

/-- HaloAndLineWords, the last clause: page 1 is host memory that is not coherent, and the K9 has written byte 3 of its first line. -/
theorem wit_HostLines : let w := { withRegs [(4, 0x10000), (6, 1)] with priv := .s }
    let s := { wFine (withWave w) [(0, 0x73), (1, 0x5007F)] with hostLines := [(memKey 3 0 0x50000, { data := 5 <<< 24, dirty := 8 })] }
    Issues s w placeFrag ∧ ctxOf s (ctxIdOf s w.gid) = some placeCtx ∧ w.strips = [] ∧ (rdS w 6).toNat < 2 ^ 24
    ∧ rangeLines s placeCtx (rdP w 4).toNat (rdS w 6).toNat = [memKey 3 0 0x50000] ∧ 2 ^ 64 ≤ memKey 3 0 0x50000
    ∧ inA s (memKey 3 0 0x50000) = false ∧ settledLine s (memKey 3 0 0x50000) = true
    ∧ Map.find s.hostLines (memKey 3 0 0x50000) = some { data := 5 <<< 24, dirty := 8 } :=
  ⟨⟨rfl, rfl⟩, rfl, rfl, by decide, by decide +kernel, by decide, by decide, by decide, rfl⟩

/-! ## Lane words -/

/-- A wave whose strip of two words runs in all lanes. -/
def wLane : Wave := { wW with strips := [{ lcidx := 0, len := 2, b := false }] }
/-- An L-format word of a type, of registers v1, v2, v3 and v4. -/
def wL (ty : LType) : LWord :=
  { guard := 0, stop := false, vd := 1, va := 2, vb := 3, vc := 4, ty := ty, selA := .reg, selB := .reg, selC := .reg, mods := 0, imm := 0 }

/-- LaneIntegerWords and every clause about a lane word: a wave that runs the first of a strip's two words, and the last of one; with no feed, and
with one that has its vector. -/
theorem wit_streams :
    Streams (withWave wLane) wLane { lcidx := 0, len := 2, b := false } placeFrag
    ∧ (let w := { wLane with headOff := 1 }
       Streams (withWave w) w { lcidx := 0, len := 2, b := false } placeFrag)
    ∧ (∀ t, FeedsReady wLane (wL t))
    ∧ (let x := { wL .i32 with selA := .feed, va := 2 }
       let fd : Feed := { nextAddr := 0x1000, size := 2, stride := 128, remaining := 1, run := true, underflow := false, buf := [{ data := 7, fault := none }] }
       let w := { wLane with feeds := [(2, fd)] }
       Streams (withWave w) w { lcidx := 0, len := 2, b := false } placeFrag ∧ FeedsReady w x ∧ feedsOf x = [2]) := by
  refine ⟨⟨rfl, rfl, rfl, rfl, rfl, rfl, fun r h => (by cases h), rfl⟩, ⟨rfl, rfl, rfl, rfl, rfl, rfl, fun r h => (by cases h), rfl⟩, ?_,
    ⟨rfl, rfl, rfl, rfl, rfl, rfl, fun r h => (by cases h), rfl⟩, ⟨by decide +kernel, by decide +kernel⟩, by decide⟩
  intro t
  exact ⟨rfl, rfl⟩

/-- LaneComparisons: the bits that `VOTE` and `FCMP` answer exist for every mode and predicate; every other premise is a value of a
field. -/
theorem wit_LaneComparisons (s : State) (w : Wave) (f : Frag) (x : LWord) :
    (∃ p : Bool, p = true ↔ ∃ l, activeOf w f x.guard.toNat l = true ∧ srcA s w x.ty x l ≠ 0)
    ∧ (∃ p : Bool, p = true ↔ ∀ l, activeOf w f x.guard.toNat l = true → srcA s w x.ty x l ≠ 0)
    ∧ ∃ p : Nat → Bool, ∀ l, p l = true ↔ fCmp (readF x.ty (srcA s w x.ty x l)) (readF x.ty (srcB s w x.ty x l)) = 0 := by
  classical
  exact ⟨⟨_, decide_eq_true_iff⟩, ⟨_, decide_eq_true_iff⟩, ⟨fun l => decide _, fun l => decide_eq_true_iff⟩⟩

/-- LaneFloatWords: the types and modifiers its clauses name. -/
theorem wit_LaneFloatWords : ty2Of { wL .f32 with imm := 0x20 } ≠ none ∧ (wL .f32).vd ≠ (wL .f32).vc ∧ ltypeBits .f16 = 16
    ∧ ltypeBits .f8e4 = 8 := by decide

/-! ## Lane operations -/

/-- An LX-format word of a type, of registers v1, v2, v3 and the pair `s4`, over the address alone, in the lanes of m1. -/
def wX (ty : LType) : LXWord :=
  { guard := 1, stop := false, vd := 8, va := 16, vb := 24, sbase := 4, ty := ty, scope := .dev, order := .rlx, scale := 0, claim := false,
    nov := true, aux := 0, imm24 := 0 }
/-- A wave whose m1 holds lane 31, with the pair `s4` naming 0x1000 and 8 in that lane of v16. -/
def wLaneX : Wave :=
  { withRegs [(4, 0x1000)] with strips := [{ lcidx := 0, len := 2, b := false }], masks := [(1, 0x80000000)], vregs := [(16, laneSet 0 31 8)] }
/-- The small machine with it, in a group with scratch, whose kernel has a tray configuration and whose grid draws. -/
def wLaneS : State :=
  let d : Draw := { primBuf := 0x100000, segSize := 1, ringOrder := 1, width := 32, height := 32, cull := 0, merge := false, pixelTray := 0, cosMin := 0,
                    depthBound := 0, emitted := [], carry := [], next := [], pos := [] }
  let s := withGroup (withWave wLaneX) { placeGroup with scratchBytes := 0x2000 }
  let c : Core := { Core.init with trays := [(0, { wTray .filling 0 with key := 8 })] }
  let g : Grid := { placeGrid with desc := { placeKernel with trayCount := 1 }, draw := some d }
  holding { s with grids := [(0, g)], accs := [(0, wAcc .opened)], cores := [(0, c)] } [0x1000]
/-- Its operation for a word, at one address, with its operands. -/
def wLaneOp (i : Instr) (a : DWord) : LaneOp := opFor wLaneS wLaneX { lcidx := 0, len := 2, b := false } i 0x80000000 [(31, a)] [(dataKey 0 31, 8)]
/-- The wave once that operation is issued. -/
def wLaneV (i : Instr) (a : DWord) : Wave := started wLaneS wLaneX (wLaneOp i a)
/-- The machine then, with the push that a release starts, and whether the lanes wait for it. -/
def wLaneU (i : Instr) (a : DWord) : State × Bool := pushStep (putWave (nextStamp wLaneS) (wLaneV i a)) 0 (lanePushFirst i)
/-- A lane performs. -/
def goesOk : LaneRes → Bool
  | .ok _ => true
  | _ => false

theorem lane_one (p : Performer) (o : LaneOp) (s : State) (h : goesOk (p o 31 s).2 = true) :
    ∃ ws, LanesGo p o [31] s (p o 31 s).1 ws := by
  cases hr : (p o 31 s).2 with
  | ok ws => exact ⟨ws, _, ws, [], by rw [← hr], ⟨rfl, rfl⟩, (List.append_nil ws).symm⟩
  | _ => rw [hr] at h; cases h

/-- LaneOperationsIssue: lane 31 of each word goes, and leaves the wave as it is. -/
theorem wit_LaneOperationsIssue :
    (Streams wLaneS wLaneX { lcidx := 0, len := 2, b := false } placeFrag ∧ lanesOf (placeFrag.m0 &&& rdM wLaneX placeFrag (wX .f32).guard.toNat) = [31]
      ∧ rdElem wLaneX 16 31 = 8 ∧ drawOf wLaneS wLaneX ≠ none ∧ (wX .f32).aux.toNat < trayCountOf wLaneS wLaneX)
    ∧ ∀ p ∈ [(Instr.ld (wX .i64), memLane, 0x1000), (.st (wX .i8), memLane, 0x1000), (.atom (wX .i32), memLane, 0x1000),
        (.red (wX .i32), memLane, 0x1000), (.pref (wX .i32), memLane, 0x1000), (.lds (wX .i32), memLane, 0x1000),
        (.sts (wX .i32), memLane, 0x1000), (.atoms (wX .i32), memLane, 0x1000), (.accpeek (wX .f32), accLane, 0x100000),
        (.trace (wX .f32), rayLane, 0x1000), (.traceq (wX .f32), rayLane, 0x1000), (.hitget (wX .f32), rayLane, 0x1000),
        (.sample (wX .f32), texLane, 0x1000), (.samplel (wX .f32), texLane, 0x1000), (.sampleg (wX .f32), texLane, 0x1000),
        (.texld (wX .f32), texLane, 0x1000), (.texst (wX .f32), texLane, 0x1000), (.lyins (wX .f32), lyLane, 0x1000),
        (.lyread (wX .f32), lyLane, 0x1000), (.lyresolve (wX .f32), lyLane, 0x1000), (.lyclear (wX .f32), lyLane, 0x1000),
        (.primemit (wX .f32), primLane, 0), (.trayput (wX .f32), trayLane, 0)],
      ∃ u0 u ws, wLaneU p.1 p.2.2 = (u0, false) ∧ LanesGo p.2.1 (wLaneOp p.1 p.2.2) [31] u0 u ws
        ∧ waveAt u 0 0 = some (wLaneV p.1 p.2.2) := by
  refine ⟨⟨⟨rfl, rfl, rfl, rfl, rfl, rfl, fun r h => (by cases h), rfl⟩, by decide +kernel, by decide +kernel, by decide, by decide⟩, ?_⟩
  have go (q : Performer) (o : LaneOp) (x : State × Bool) (v : Wave) (hx : x.2 = false) (h : goesOk (q o 31 x.1).2 = true)
      (hv : waveAt (q o 31 x.1).1 0 0 = some v) :
      ∃ u0 u ws, x = (u0, false) ∧ LanesGo q o [31] u0 u ws ∧ waveAt u 0 0 = some v :=
    ⟨_, _, (lane_one q o x.1 h).choose, ok_of x false hx, (lane_one q o x.1 h).choose_spec, hv⟩
  repeat' first | exact fun _ h => absurd h List.not_mem_nil | refine List.forall_mem_cons.2 ⟨go _ _ _ _ ?_ ?_ ?_, ?_⟩ | decide +kernel

/-- LaneOperationsIssue, a release that waits: core 0 has a push of one line under way. -/
theorem wit_releaseHeld : let i : Instr := .st { wX .i32 with order := .rel }
    let s := { wLaneS with coh := { wLaneS.coh with pushes := [(0x20000, 0, 1, 0)] } }
    (pushStep (putWave (nextStamp s) (started s wLaneX (wLaneOp i 0x1000))) 0 (lanePushFirst i)).2 = true := by decide +kernel

/-- A wave whose operation has performed every lane, waiting for no answer, and for one. -/
def wSettle (n : Nat) (res : List RegWrite) : Wave :=
  { wLaneX with ops := [{ wLaneOp (.ld (wX .i32)) 0x1000 with done := 0x80000000, pendingAnswers := n, res := res }] }
/-- A special function's operation of the wave, and one before it of the wave in slot 4. -/
def wPiped (stamp : Nat) : LaneOp :=
  { wLaneOp (.frcp (wL .f32)) 0 with done := 0x80000000, stamp := stamp, res := [.v 8 31 5] }

/-- CrossLaneWords, its last part: operations that can settle, one of a vector result and one of a scalar's; one whose answer is
outstanding; and one behind another in its partition's pipe. -/
theorem wit_LateResults :
    (∀ n ∈ [0, 1], ∀ r ∈ [RegWrite.v 8 31 5, .s 9 5], ∃ o, let w := wSettle n [r]
      waveAt (withWave w) 0 0 = some w ∧ w.ops = [o] ∧ o.settled = false ∧ undone o = 0 ∧ o.pendingAnswers = n ∧ o.faults = []
        ∧ w.lstop = false ∧ pipeBehind (withWave w) 0 0 o = false ∧ ∀ y ∈ o.res, isScalarWrite y = isScalarWrite r)
    ∧ (let w := { wLaneX with ops := [wPiped 5] }
       let s := { wS with waves := [(0, w), (4, { wLaneX with slot := 4, ops := [wPiped 4] })] }
       undone (wPiped 5) = 0 ∧ pipeBehind s 0 0 (wPiped 5) = true) := by
  refine ⟨?_, by decide +kernel, by decide +kernel⟩
  intro n _ r _
  exact ⟨_, rfl, rfl, rfl, (by show undone (wLaneOp (.ld (wX .i32)) 0x1000 |> fun o => { o with done := 0x80000000 }) = 0; decide), rfl, rfl, rfl, rfl,
    fun y hy => by rw [List.mem_singleton.1 hy]⟩

/-- Every lane of a `.claim` store of the line at 0x1000, and one whose lanes do not cover it. -/
def wClaim (base : Nat) : LaneOp :=
  { wLaneOp (.st { wX .n32 with claim := true }) 0 with
    active := 0xFFFFFFFF, addrs := (List.range 32).map (fun l => (l, BitVec.ofNat 64 (base + 4 * l))) }
/-- A range of the group's scratch that an operation writes. -/
def wScrLock : Lock := { op := 0, ctx := 1, scr := some 0, lo := 0x1000, hi := 0x1010, rw := true }
/-- A window for F32 sums over page 1 of the peer of route 0x50, which is agent 200. -/
def wWindows (s : State) : State :=
  { s with link := { s.link with
      agents := [(200, { kind := .peer, route := 0x50, live := true })],
      windows := [(0, { enable := true, base := 0x10000, pages := 1, home := 5, ty := .f32 })] } }

/-- LaneAccessValues: an aligned access that goes on, one that faults, one that is misaligned; a `.claim` store over its whole line,
and one that is not; an element of a window, and one of none; a scratch offset at the last word of the group's bytes, one past it,
and one that an operation has locked. -/
theorem wit_LaneAccessValues :
    waveAt wLaneS wLaneS.cur.core wLaneS.cur.slot = some wLaneX
    ∧ (∀ i ∈ [Instr.ld (wX .i32), .st (wX .i32), .atom (wX .i32), .red (wX .i32)], (wLaneOp i 0x1000).word = i)
    ∧ (opAddr (wLaneOp (.ld (wX .i32)) 0x1000) 31).toNat % (ltypeBits (wX .i32).ty / 8) = 0 ∧ (wX .i32).claim = false
    ∧ (∀ k ∈ [AccKind.read, .write, .update], ∃ t u, access wLaneS 0 0 1 .u 0x1000 4 k false = (t, .ok 0x1000)
        ∧ access wLaneS 0 0 1 .u 0x20000000 4 k false = (u, .fault .unmapped))
    ∧ (opAddr (wLaneOp (.ld (wX .i32)) 0x1001) 31).toNat % (ltypeBits (wX .i32).ty / 8) ≠ 0
    ∧ (claimOk (wClaim 0x1000) = true ∧ claimOk (wClaim 0x1004) = false
      ∧ ∃ t, access wLaneS 0 0 1 .u (opAddr (wClaim 0x1000) 0).toNat 128 .write true = (t, .ok 0x1000))
    ∧ (inWindow (wWindows wS) (200 * 2 ^ 52 + 0x1FFFC) .f32 = true ∧ inWindow (wWindows wS) (200 * 2 ^ 52 + 0x20000) .f32 = false)
    ∧ ∃ g, groupOf wLaneS wLaneX.gid = some g ∧ (0x1FFC#64).toNat + 4 ≤ g.scratchBytes ∧ (∀ j, j < 4 → (0x1FFC#64).toNat + j ∉ g.bad)
        ∧ scratchLocked wLaneS 0 0 0x1FFC 4 true = false ∧ (0x1FFC#64).toNat < 2 ^ 63 ∧ g.scratchBytes < (0x2000#64).toNat + 4
        ∧ (0x2000#64).toNat < 2 ^ 63
        ∧ ∀ wr, scratchLocked { wLaneS with cores := [(0, { Core.init with locks := [wScrLock] })] } 0 0 0x100C 4 wr = true := by
  refine ⟨rfl, ?_, by decide +kernel, rfl, ?_, by decide +kernel, ⟨by decide +kernel, by decide +kernel, _, ok_of _ _ (by decide +kernel)⟩,
    ⟨by decide +kernel, by decide +kernel⟩, _, rfl, by decide, ?_, by decide⟩
  · intro i _; rfl
  · intro k hk
    simp only [List.mem_cons, List.not_mem_nil, or_false] at hk
    rcases hk with rfl | rfl | rfl <;> exact ⟨_, _, ok_of _ _ (by decide +kernel), ok_of _ _ (by decide +kernel)⟩
  · intro j _; exact List.not_mem_nil

/-- A wave of a team of one, with a format block at 0x2000 in the pairs `s4` and `s6`. -/
def wMma : Wave := { withRegs [(4, 0x2000), (6, 0x2000)] with
  strips := [{ lcidx := 0, len := 2, b := false }], masks := [(1, 0x80000000)], ident := { wW.ident with team := 1 } }
/-- The machine with it and the block. -/
def wMmaS : State := withMem (withWave wMma) 0x2000 32 wFmt
/-- An LX-format word of F16 by F16. -/
def wXf : LXWord := { wX .f16 with aux := (ltypeCode .f16).setWidth 6 }
/-- The operation of `VMM` at the pointer 0x2000, with the block recorded. -/
def wVmmOp : LaneOp :=
  { opFor wMmaS wMma { lcidx := 0, len := 2, b := false } (.vmm wXf) 0x80000000 [(31, 0x2000)] [] with
    data := (List.range 8).foldl (fun m j => Tab.set 0 m (fmtKey j) (BitVec.ofNat 32 (wFmt / 2 ^ (32 * j)))) [] }
/-- The wave with it. -/
def wVmmV : Wave := started wMmaS wMma wVmmOp
/-- The same for an `ACCRED` of lane 31 at 0x100000. -/
def wRedV : Wave := wLaneV (.accred (wX .f32)) 0x100000

/-- LaneUnitsIssue: a tray wave; a team's member over a format block that names the word's types, aligned; a lane of `VMM` that
goes; and a lane of `ACCRED` that sends its partial, where none of the operation is in flight. -/
theorem wit_LaneUnitsIssue :
    (let w := { wLaneX with tray := some { config := 0, recs := [], ticket := none } }
     Streams (withWave w) w { lcidx := 0, len := 2, b := false } placeFrag)
    ∧ (Streams wMmaS wMma { lcidx := 0, len := 2, b := false } placeFrag ∧ teamSizeOf wMma ≠ 0 ∧ (rdP wMma 6).toNat % 32 = 0
      ∧ (rdP wMma 4).toNat % 32 = 0 ∧ ∃ u, access wMmaS 0 0 1 .u (0x2000#64).toNat 32 .pull false = (u, .ok 0x2000)
        ∧ (fmtOf (ofBytes (engBytes u 0 0x2000 32))).map (fun f => (f.aType, some f.bType, f.aBlock, f.bBlock))
            = some (wXf.ty, ltypeOf wXf.aux.toNat, 0, 0)
        ∧ (teamOf u 0 wMma.gid (teamIdxOf wMma)).any (·.dissolved) = false ∧ u.link.merging = [])
    ∧ (let s := putWave (nextStamp wMmaS) wVmmV
       ∃ y ws, LanesGo vmmPerform wVmmOp [31] s y ws ∧ waveAt y 0 0 = some wVmmV ∧ (capturedFmt wVmmOp = wFmt))
    ∧ (let s := (wLaneU (.accred (wX .f32)) 0x100000).1
       ∃ u ws, LanesGo accLane (wLaneOp (.accred (wX .f32)) 0x100000) [31] s u ws ∧ waveAt u 0 0 = some wRedV ∧ wLaneS.partials = []) := by
  refine ⟨⟨rfl, rfl, rfl, rfl, rfl, rfl, fun r h => (by cases h), rfl⟩,
    ⟨⟨rfl, rfl, rfl, rfl, rfl, rfl, fun r h => (by cases h), rfl⟩, by decide, by decide, by decide, _, ok_of _ _ (by decide +kernel),
      by decide +kernel⟩,
    ⟨_, (lane_one _ _ _ (by decide +kernel)).choose, (lane_one _ _ _ (by decide +kernel)).choose_spec, by decide +kernel, by decide +kernel⟩,
    _, (lane_one _ _ _ (by decide +kernel)).choose, (lane_one _ _ _ (by decide +kernel)).choose_spec, by decide +kernel, rfl⟩

/-! ## Events of a wave -/

/-- A wave with a running feed of one vector to come. -/
def wFeed : Wave :=
  { wW with feeds := [(3, { nextAddr := 0x1000, size := 2, stride := 128, remaining := 1, run := true, underflow := false, buf := [] })] }
/-- A wave at S whose `QPOST s5, s4` holds a record. -/
def wPost : Wave := { withRegs [(4, 0x1000)] with priv := .s, fragA := some { placeFrag with wait := .fqpost 7 } }

/-- WaveEvents: each event's own wave. -/
theorem wit_WaveEvents :
    (waveAt (withWave { wW with trap := .entering (wReq .scalar) }) 0 0 = some { wW with trap := .entering (wReq .scalar) } ∧ wW.strips = [])
    ∧ (let fd := feedOf wFeed 3
       fd.run = true ∧ fd.buf.length < 8 ∧ fd.buf.length + 1 = fd.remaining.toNat
        ∧ ∃ t, feedLanes (holding (withWave wFeed) [0x1000]) wFeed
            ((fd.nextAddr + BitVec.ofInt 64 ((fd.buf.length : Int) * fd.stride.toInt)).toNat) (2 ^ fd.size.toNat) 32 0 0 = (t, .ok 0))
    ∧ (∀ w ∈ [{ wW with fragA := none, stack := [placeFrag] }, { wW with stack := [placeFrag] }],
        waveAt (withWave w) 0 0 = some w ∧ w.stack.find? runnable = some placeFrag ∧ (w.fragA = none ∨ w.fragA ≠ none ∧ w.fragB = none))
    ∧ (let w := { wTwo 1 2 with fragA := some { placeFrag with wait := .join }, stack := [placeFrag] }
       w.stack.find? runnable = some placeFrag ∧ w.fragA.map (·.wait) = some .join ∧ w.fragB.isSome = true)
    ∧ (∀ x ∈ [Wait.backoff 1, .waita 0x1000 .dev], ∃ f, fragOf (withFrag { placeFrag with wait := x }) false = some f ∧ f.wait = x)
    ∧ 64 ≤ ({ wW with spin := 64 } : Wave).spin
    ∧ (let s := withMem (withWave wPost) codeVa 4 0xE0141280
       ∃ f u s2 s3, fragOf wPost false = some f ∧ f.wait = .fqpost 7 ∧ ctxOf s (ctxIdOf s wPost.gid) = some placeCtx
        ∧ fetchScalar s wPost f = (u, .ok (.qpost 5 4)) ∧ u.cur = s.cur
        ∧ access u 0 0 1 .s (BitVec.ofNat 64 placeCtx.desc.fqBase).toNat 64 .update false = (s2, .ok 0x50000)
        ∧ (0 + 2 ^ 32 - ofBytes (loadBytes s2 0 (0x50000 + 4) 4)) % 2 ^ 32 < 2 ^ placeCtx.desc.fqOrder
        ∧ ofBytes (loadBytes s2 0 0x50000 4) = 0
        ∧ access s2 0 0 1 .s (BitVec.ofNat 64 (ringSlot placeCtx.desc.fqBase placeCtx.desc.fqOrder 0)).toNat 64 .update false
            = (s3, .ok 0x50040)) := by
  refine ⟨⟨rfl, rfl⟩, ⟨by decide, by decide, by decide, _, ok_of _ _ (by decide +kernel)⟩, ?_, by decide, ?_, by decide,
    _, _, _, _, rfl, rfl, rfl, ok_of _ _ (by decide +kernel), by decide +kernel, ok_of _ _ (by decide +kernel), by decide +kernel,
    by decide +kernel, ok_of _ _ (by decide +kernel)⟩
  · intro w hw
    simp only [List.mem_cons, List.not_mem_nil, or_false] at hw
    rcases hw with rfl | rfl
    · exact ⟨rfl, by decide, .inl rfl⟩
    · exact ⟨rfl, by decide, .inr ⟨by simp [wW, placeWave], rfl⟩⟩
  · intro x _
    exact ⟨_, rfl, rfl⟩

/-- A context whose `WAITA` has a timeout. -/
def wTimed : Ctx := { placeCtx with desc := { placeDesc with fabTimeout := 1 } }
/-- A saved group with its queue's darkslide. -/
def wSlides : State :=
  let g : Group := { placeGroup with st := .swapped }
  { withGroup wS g with
    queues := [(0, { Queue.init with st := .waiting, enable := true, ctxId := 1, slides :=
      { valid := true, nextPacket := 0, bytes := 4096, groups := [{ gid := 0, group := g, waves := [], trays := [], off := 4096, bytes := 256, recs := [] }] } })] }

/-- AnswersAndArrivals: a `WAITA` at `.sys` in a handler and at U; a Safelight counter at its threshold and one below; an `SLD` whose
answer comes; a lane to replay; and a remote arrival for a live group, for a saved one and for none. -/
theorem wit_AnswersAndArrivals :
    (∀ h ∈ [true, false], let f := { placeFrag with wait := .waita 0x1000 .sys, handler := h }
      let w := withFrag f
      let s := withCtx (withWave w) wTimed
      waveAt s 0 0 = some w ∧ fragOf w false = some f ∧ ctxOf s (ctxIdOf s w.gid) = some wTimed ∧ wTimed.desc.fabTimeout ≠ 0
        ∧ w.stack.any fabSleeps = false ∧ f.handler = h ∧ w.priv = .u ∧ w.trap = .none ∧ w.strips = [])
    ∧ (safelightLimit { placeCtx with dog := 2 ^ 24 } = 2 ^ 24 ∧ placeCtx.dog < safelightLimit placeCtx)
    ∧ (let f := { placeFrag with wait := .access }
       let w := { withRegs [(4, 0x1000)] with fragA := some f }
       let s := withMem (holding (withWave w) [0x1000]) codeVa 4 0xC0241000
       Issues s w f ∧ fragRuns w f = true ∧ dueFault s w false = none
        ∧ ∃ u v, fetchScalar s w f = (u, .ok (.sld 9 4 0)) ∧ u.cur = s.cur
          ∧ (namedUse (.sld 9 4 0)).within (scalarBound w) w.valloc = true ∧ heldBack u w (useOf (.sld 9 4 0)) = false
          ∧ fenceHolds w (.sld 9 4 0) = false ∧ pushFirst (.sld 9 4 0) = false
          ∧ pushStep u 0 (pushFirst (.sld 9 4 0)) = (v, false)
          ∧ ∃ t, access (putWave u { w with starved := false }) 0 0 1 .u (0x1000#64).toNat 4 .read false = (t, .ok 0x1000))
    ∧ (let o := wLaneOp (.ld (wX .i32)) 0x1000
       let w := { wLaneX with ops := [o] }
       let s := putWave wLaneS w
       o.settled = false ∧ lanesOf (undone o) = [31] ∧ o.faults = [] ∧ s.link.merging = []
        ∧ ∃ q u ws, pushStep s 0 (lanePushFirst o.word) = (q, false)
          ∧ LanesGo performLane { o with misses := [] } [31] q u ws ∧ waveAt u 0 0 = some w)
    ∧ (∀ st ∈ [GroupSt.resident, .swapped, .retired], let g := { placeGroup with st := st }
      let s := { withGroup wS g with arrivals := [(groupHandle g, 15)] }
      s.arrivals[0]? = some (groupHandle g, 15)
        ∧ (s.groups.find? (fun e => groupHandle e.2 == groupHandle g && groupLive e.2 && e.2.st != .pending)).isSome = (st != .retired))
    ∧ ∃ q x y, wSlides.queues.find? (fun e => e.2.slides.groups.any (fun x => x.gid == 0)) = some (q, x)
      ∧ x.slides.groups.find? (fun y => y.gid == 0) = some y ∧ (slideKey wSlides q (y.off + 256 + 32 * 15 + 8)).isSome = true := by
  refine ⟨?_, ⟨by decide, by decide⟩,
    ⟨⟨rfl, rfl⟩, by decide, by decide, _, _, ok_of _ _ (by decide +kernel), by decide +kernel, by decide +kernel, by decide +kernel, by decide,
      by decide, ok_of _ _ (by decide +kernel), _, ok_of _ _ (by decide +kernel)⟩,
    ⟨rfl, by decide +kernel, rfl, rfl, _, _, (lane_one _ _ _ (by decide +kernel)).choose, ok_of _ _ (by decide +kernel),
      (lane_one _ _ _ (by decide +kernel)).choose_spec, by decide +kernel⟩, ?_, _, _, _, rfl, rfl, by decide +kernel⟩
  · intro h _
    exact ⟨rfl, rfl, rfl, by decide, rfl, rfl, rfl, rfl, rfl⟩
  · intro st hst
    simp only [List.mem_cons, List.not_mem_nil, or_false] at hst
    rcases hst with rfl | rfl | rfl <;> exact ⟨rfl, by decide +kernel⟩

/-! ## Queues and packets -/

/-- A queue of context 1 in a state, with a ring of four packets at 0x80000 and one packet in it. -/
def wQueue (st : QueueSt) : Queue := { Queue.init with st := st, enable := true, ctxId := 1, qbase := 0x80000, sizeOrder := 2, tail := 1, saveLen := 1 }
/-- The small machine, operational, with that queue. -/
def withQueue (x : Queue) : State := { wS with queues := [(0, x)], grids := [], groups := [], waves := [], boot := { wS.boot with st := .operational } }
/-- The same, with a packet in the ring. -/
def withPkt (x : Queue) (n : Nat) : State := withMem (withQueue x) 0x80000 64 n

/-- QueueEvents, the host's writes: a queue `DISABLED` without a context, with a quarantined one, with its darkslide in place, and with it misplaced;
one with work, and one in `ERROR`; a tail that differs from head and one that does not; queue 1023, the last. -/
theorem wit_HostQueueWrites :
    ((queueOf wS 1023).st = .disabled ∧ ctxOf wS (queueOf wS 1023).ctxId = none)
    ∧ (let s := withQueue (wQueue .disabled)
       (queueOf s 0).st = .disabled ∧ s.boot.st = .operational ∧ (∃ c, ctxOf s 1 = some c ∧ c.st ≠ .quarantined)
        ∧ slideOk s 0 (wQueue .disabled) 1 = true ∧ slideOk s 0 { wQueue .disabled with saveLen := 0 } 1 = false
        ∧ slideOk s 0 { wQueue .disabled with saveOff := 1 } 1 = false
        ∧ ∃ c, ctxOf (withCtx s { placeCtx with st := .quarantined }) 1 = some c ∧ c.st = .quarantined)
    ∧ (let s := withQueue (wQueue .active)
       (queueOf s 0).st ≠ .disabled ∧ (queueOf s 0).st ≠ .error ∧ workPending s 0 = true)
    ∧ (queueOf (withQueue (wQueue .error)) 0).st = .error
    ∧ (let s := withQueue { wQueue .idle with tail := 0 }
       (queueOf s 0).st = .idle ∧ (0 : Word) = (queueOf s 0).head ∧ (0xFFFFFFFF : Word) ≠ (queueOf s 0).head ∧ s.boot.st ≠ .recovery
        ∧ ({ s with boot := { s.boot with st := .recovery } } : State).boot.st = .recovery) :=
  ⟨⟨rfl, rfl⟩, ⟨rfl, rfl, ⟨_, rfl, by decide⟩, by decide +kernel, by decide +kernel, by decide +kernel, _, rfl, rfl⟩,
   ⟨by decide, by decide, by decide +kernel⟩, rfl, rfl, rfl, by decide, by decide, rfl⟩

/-- A darkslide with no group, and the machine that holds its header. -/
def wSlide : Darkslide := { Darkslide.none with valid := true, nextPacket := 5, bytes := 4096 }
/-- A queue that was pre-empted, with that darkslide. -/
def wSlideS : State := withMem (withQueue { wQueue .preempted with slides := wSlide }) 0x70000 128 (slideHeader wSlide)

/-- QueueEvents, the slots: a queue with a packet whose context runs, or is `CREATED`; one whose stored darkslide holds its header; one
whose darkslide an agent has written; one that may be saved while a queue of a higher class waits; one whose slice is over while
another of its class has waited as long; one of class 0; and one that has waited 2^28 cycles. -/
theorem wit_QueueSlots :
    (∀ st ∈ [CtxSt.running, .created], let s := withCtx (withQueue (wQueue .ready)) { placeCtx with st := st, slot := none }
      canActivate s (queueOf s 0) = true ∧ (∀ e ∈ s.queues, e.1 ≠ 0 → (canActivate s e.2 && queueBefore e.2 (queueOf s 0)) = false)
        ∧ (∃ c, ctxOf s 1 = some c ∧ c.st = st) ∧ (queueOf s 0).slides.valid = false ∧ (queueOf s 0).head ≠ (queueOf s 0).tail
        ∧ freeResident s = some 0)
    ∧ (canActivate wSlideS (queueOf wSlideS 0) = true ∧ slideBroken wSlideS 0 = false
        ∧ headerRead wSlideS 0 (queueOf wSlideS 0).slides = some 5 ∧ (queueOf wSlideS 0).tail ≠ 5)
    ∧ (let s := { wSlideS with extBytes := [(0x70008, 0)] }
       canActivate s (queueOf s 0) = true ∧ (queueOf s 0).slides.valid = true ∧ slideBroken s 0 = true ∧ ∃ c, ctxOf s 1 = some c ∧ c.st = .running)
    ∧ (∀ st ∈ [QueueSt.active, .waiting], let s := { withQueue (wQueue st) with
          groups := [(0, placeGroup)], grids := [(0, placeGrid)], queues := [(0, { wQueue st with cls := 1 }), (1, wQueue .ready)] }
       (queueOf s 0).st = st ∧ canSave s 0 = true ∧ drawBusy s 0 = false ∧ mayPreempt s 0 = true)
    ∧ (let s := { wS with queues := [(0, { wQueue .active with cls := 3 }), (1, { wQueue .ready with cls := 3 })], clock := 2 ^ 40 }
       (queueOf s 0).st = .active ∧ (queueOf s 0).cls ≠ 0 ∧ sliceOver s 3 (queueOf s 0).since = true
        ∧ (∃ e ∈ s.queues, e.1 ≠ 0 ∧ waitsTurn e.2 = true ∧ classOf e.2 = classOf (queueOf s 0) ∧ sliceOver s 3 e.2.readyAt = true)
        ∧ canSave s 0 = true ∧ drawBusy s 0 = false ∧ (queueOf s 1).st = .ready ∧ 2 ^ 28 ≤ (s.clock - (queueOf s 1).readyAt).toNat)
    ∧ (wQueue .active).cls = 0 := by
  refine ⟨?_, ⟨by decide +kernel, by decide +kernel, by decide +kernel, by decide⟩, ⟨by decide +kernel, rfl, by decide +kernel, _, rfl, rfl⟩, ?_,
    ⟨rfl, by decide, by decide, ⟨_, .tail _ (.head _), by decide⟩, by decide, by decide, rfl, by decide⟩, rfl⟩
  · intro st h
    simp only [List.mem_cons, List.not_mem_nil, or_false] at h
    rcases h with rfl | rfl <;> exact ⟨by decide +kernel, by decide +kernel, ⟨_, rfl, rfl⟩, rfl, by decide, by decide +kernel⟩
  · intro st h
    simp only [List.mem_cons, List.not_mem_nil, or_false] at h
    rcases h with rfl | rfl <;> exact ⟨rfl, by decide +kernel⟩

/-- A kernel of one wave with one tray configuration: code at 256, constants at 512. -/
def wKern : Nat :=
  0x4B394B44 + 2 ^ 32 + 256 * 2 ^ 64 + 4 * 2 ^ 96 + 256 * 2 ^ 128 + 512 * 2 ^ 192 + 32 * 2 ^ 224 + 512 * 2 ^ 256 + 2 ^ 352 + 2 ^ 360
    + 2 ^ 368 + 2 ^ 448
/-- A packet of a type over the image at 0x30000, of one group, with a pipeline block at 0x90000 if it draws. -/
def wLaunch (ty : Nat) : Nat := ty + 0x30000 * 2 ^ 64 + 2 ^ 192 + 2 ^ 224 + 2 ^ 240 + (if ty = 2 then 0x90000 * 2 ^ 192 * 2 ^ 192 else 0)
/-- A packet of a type that names the address 0x4000, with a value, an operation and a scope. -/
def wPkt (ty v op scope : Nat) : Nat := ty + 0x4000 * 2 ^ 64 + v * 2 ^ 128 + op * 2 ^ 192 + scope * 2 ^ 194
/-- An active queue with a packet, the kernel, and a pipeline block with a ring of two segments. -/
def wPktS (n : Nat) : State := withMem (withMem (withMem (withPkt (wQueue .active) n) 0x30000 256 wKern) 0x90000 64 (2 ^ 72)) 0x4000 8 5

/-- Packets, those that start: one packet of each type at the head; SIGNAL and WAIT with each operation at the first and the last scope, a WAIT
that is met and one that is not. -/
theorem wit_PacketsStart :
    (AtHead (wPktS (wLaunch 1)) 0 (wLaunch 1) ∧ (readKernel (wPktS (wLaunch 1)) 1 (bits (wLaunch 1) 120 64)).isOk = true
      ∧ (∀ d, d.coresident = false → couldFit (wPktS (wLaunch 1)) (packetGrid (wPktS (wLaunch 1)) 0 (wLaunch 1) d none) = true)
      ∧ bits (wLaunch 1) 71 64 = 0 ∧ bits (wLaunch 1) 258 256 = 0 ∧ bits (wLaunch 1) 223 192 ≠ 0 ∧ bits (wLaunch 1) 239 224 ≠ 0
      ∧ bits (wLaunch 1) 255 240 ≠ 0 ∧ bits (wLaunch 1) 440 384 = 0 ∧ bit (wLaunch 1) 8 = false ∧ bits (wLaunch 1) 7 0 = 1)
    ∧ (AtHead (wPktS (wLaunch 2)) 0 (wLaunch 2) ∧ bits (wLaunch 2) 440 384 % 64 = 0 ∧ bits (wLaunch 2) 239 224 = 1
      ∧ bits (wLaunch 2) 255 240 = 1 ∧ pktRead (wPktS (wLaunch 2)) 1 (bits (wLaunch 2) 440 384) 64 = .ok (2 ^ 72) ∧ pipeOk (2 ^ 72) 1 = true)
    ∧ (∀ op ∈ [0, 1], ∀ sc ∈ [3, 5], let n := wPkt 3 9 op sc
       AtHead (wPktS n) 0 n ∧ bits n 7 0 = 3 ∧ signalOk n 1 = true ∧ bits n 193 192 = op
        ∧ devReach (wPktS n) 1 .u (bits n 120 64) .write = .ok 0x4000 ∧ (queueOf (wPktS n) 0).started = [])
    ∧ (∀ op ∈ [0, 1, 2], ∀ v ∈ [5, 6], let n := wPkt 4 v op 3
       AtHead (wPktS n) 0 n ∧ bits n 7 0 = 4 ∧ signalOk n 2 = true ∧ bits n 193 192 = op ∧ pktRead (wPktS n) 1 (bits n 120 64) 8 = .ok 5
        ∧ waitMet op 5 v = (if op = 2 then v == 6 else v == 5))
    ∧ AtHead (wPktS 5) 0 5 := by
  refine ⟨⟨⟨by decide +kernel, by decide, by decide +kernel⟩, by decide +kernel, ?_, by decide +kernel⟩, ⟨⟨by decide +kernel, by decide, by decide +kernel⟩, by decide +kernel⟩, ?_, ?_,
    by decide +kernel, by decide, by decide +kernel⟩
  · intro d h
    simp [couldFit, packetGrid, h]
  · intro op ho sc hs
    simp only [List.mem_cons, List.not_mem_nil, or_false] at ho hs
    rcases ho with rfl | rfl <;> rcases hs with rfl | rfl <;>
      exact ⟨⟨by decide +kernel, by decide, by decide +kernel⟩, by decide, by decide, by decide, by decide +kernel, rfl⟩
  · intro op ho v hv
    simp only [List.mem_cons, List.not_mem_nil, or_false] at ho hv
    rcases ho with rfl | rfl | rfl <;> rcases hv with rfl | rfl <;>
      exact ⟨⟨by decide +kernel, by decide, by decide +kernel⟩, by decide, by decide, by decide, by decide +kernel, by decide⟩

/-- Packets, those that fail: a packet of type 0, and a ring that no page holds; and one in a page of the pool that has not come. -/
theorem wit_PacketFailures :
    (let s := wPktS 0
     dispatches s 0 = true ∧ (queueOf s 0).head ≠ (queueOf s 0).tail ∧ headPacket s 0 = .error .malformed)
    ∧ (let s := withQueue { wQueue .active with qbase := 2 ^ 29 }
       dispatches s 0 = true ∧ (queueOf s 0).head ≠ (queueOf s 0).tail ∧ headPacket s 0 = .error .memory)
    ∧ (let s := wFine (wPktS (wLaunch 1)) [(8, 0x80077)]
       dispatches s 0 = true ∧ (queueOf s 0).head ≠ (queueOf s 0).tail ∧ headPacket s 0 = .error (.miss 8)) :=
  ⟨⟨by decide +kernel, by decide, by decide +kernel⟩, ⟨by decide +kernel, by decide, by decide +kernel⟩, by decide +kernel, by decide, by decide +kernel⟩

/-- A machine with a live peer of agent 0. -/
def withPeer (s : State) : State := { s with link := { s.link with agents := [(0, { kind := .peer, route := 4, live := true })] } }
/-- A waiting queue with a packet, whose watched address 2^29 lies in pages homed at a peer. -/
def wWaitS (n : Nat) : State :=
  withPeer (withCtx (withMem (withPkt (wQueue .waiting) n) (0x10000000 + 0x20000 + 8) 8 (0x73 + 2 * 4 + 2 ^ 29)) { placeCtx with desc := { placeDesc with fabTimeout := 1 } })
/-- A `WAIT` at `.fab` for 2^29 to reach 0, and to reach 1. -/
def wWait (v : Nat) : Nat := 4 + 2 ^ 29 * 2 ^ 64 + v * 2 ^ 128 + 4 * 2 ^ 194

/-- A grid of queue 0 that is over, with an address to write or none. -/
def wOver (a : Nat) : State :=
  let g : Grid := { placeGrid with live := 0, doneAddr := a, doneVal := 9 }
  let p : Pkt := { idx := 0, grid := some 0, unbind := none, irq := false }
  { withQueue { wQueue .active with head := 1, gridSlots := 1, started := [p] } with grids := [(0, g)] }

/-- A queue with a task at 0x4000 of one group over the image at 0x30000. -/
def wTaskS : State :=
  withMem (withMem (withQueue { wQueue .active with tail := 0, readyHead := [(0, 0x4000)], readyTail := [(0, 0x4000)] }) 0x30000 256 wKern) 0x4000 64
    (wTask 0 2 + 0x30000 * 2 ^ 64)

theorem ok_bool {ε α : Type} {e : Except ε α} {p : α → Bool} (h : (match e with | .ok d => p d | .error _ => false) = true) :
    ∃ d, e = .ok d ∧ p d = true := by
  cases e with
  | error _ => cases h
  | ok d => exact ⟨d, rfl, h⟩

/-- WaitsGridsAndTasks: a waiting queue whose condition is met and one where it is not; a grid that is over, with no address, one it
may write and one it may not; a queued task whose kernel could start. -/
theorem wit_WaitsGridsAndTasks :
    (∀ v ∈ [0, 1], let s := wWaitS (wWait v)
      (queueOf s 0).st = .waiting ∧ headPacket s 0 = .ok (wWait v) ∧ bits (wWait v) 7 0 = 4 ∧ signalOk (wWait v) 2 = true
        ∧ bit (wWait v) 8 = false ∧ pktRead s 1 (bits (wWait v) 120 64) 8 = .ok 0 ∧ homedOutside s 1 (bits (wWait v) 120 64) = true
        ∧ waitMet (bits (wWait v) 193 192) 0 v = (v == 0) ∧ 4 ≤ bits (wWait v) 196 194 ∧ ∃ c, ctxOf s 1 = some c ∧ c.desc.fabTimeout ≠ 0)
    ∧ (∀ p ∈ [(0, none), (0x4000, some 0x4000), (2 ^ 29, none)], let s := wOver p.1
       ∃ g, Map.find s.grids 0 = some g ∧ g.src = .packet 0 0 ∧ gridOver s 0 g = true ∧ findersDone s g = true ∧ g.doneAddr = p.1
        ∧ s.link.merging = [] ∧ Settled s ∧ (p.1 ≠ 0 → pktMiss s g.ctx g.doneAddr 8 .write = none ∧ devKey s g.ctx .u g.doneAddr .write = p.2))
    ∧ dispatches wTaskS 0 = true ∧ headTask (queueOf wTaskS 0) = some (0, 0x4000) ∧ devReach wTaskS 1 .s 0x4000 .write = .ok 0x4000 ∧ Settled wTaskS
    ∧ bits (readNum wTaskS.mem 0x4000 64) 34 32 = 2
    ∧ ∃ d, taskKernel wTaskS 1 (readNum wTaskS.mem 0x4000 64) = .ok d
        ∧ couldFit wTaskS (taskGrid wTaskS 0 0x4000 (readNum wTaskS.mem 0x4000 64) d) = true := by
  refine ⟨?_, ?_, by decide +kernel, by decide +kernel, by decide +kernel, fun _ => rfl, by decide +kernel, ok_bool (by decide +kernel)⟩
  · intro v hv
    simp only [List.mem_cons, List.not_mem_nil, or_false] at hv
    rcases hv with rfl | rfl <;>
      exact ⟨rfl, by decide +kernel, by decide, by decide, by decide, by decide +kernel, by decide +kernel, by decide, by decide, _, rfl, by decide⟩
  · intro p hp
    simp only [List.mem_cons, List.not_mem_nil, or_false] at hp
    rcases hp with rfl | rfl | rfl <;> exact ⟨_, rfl, rfl, by decide +kernel, rfl, rfl, rfl, fun _ => rfl, fun h => by first | decide +kernel | exact absurd rfl h⟩

/-! ## Context operations -/

/-- A context operation on ID 1 or another, with an address. -/
def wOpPkt (op id va : Nat) : Nat := 6 + op * 2 ^ 64 + id * 2 ^ 72 + va * 2 ^ 128
/-- A context descriptor of an ID: rings of order 4, a page table, one block of darkslide. -/
def wCdesc (id : Nat) : Nat := id + 4 * 2 ^ 48 + 4 * 2 ^ 52 + 0x10000000 * 2 ^ 64 + 2 ^ 192 * 2 ^ 256
/-- An admin queue of context 1 with that packet, and another context, of ID 2, in a state and a slot, with its descriptor. -/
def wAdmin (n id : Nat) (st : CtxSt) (slot : Option Nat) : State :=
  let s := withMem (withPkt { wQueue .active with admin := true } n) 0x4000 256 (wCdesc id)
  { s with ctxs := [(1, placeCtx), (2, { placeCtx with st := st, slot := slot })] }

/-- ContextOperations: CREATE of the last ID; BIND, UNBIND and UPDATE in every state, BIND with and without a free slot; QUARANTINE;
DESTROY of a context and of a free ID; and a context being unbound, with and without a queue to save. -/
theorem wit_ContextOperations :
    (let n := wOpPkt 1 4095 0x4000
     let s := wAdmin n 4095 .created none
     AtHead s 0 n ∧ bits n 7 0 = 6 ∧ (queueOf s 0).admin = true ∧ bit n 8 = false ∧ ctxBusy s 4095 = false ∧ bits n 71 64 = 1
      ∧ bits n 184 128 % 256 = 0 ∧ bits n 83 72 = 4095 ∧ ctxOf s 4095 = none ∧ (readCtxDesc s 1 (bits n 184 128) 4095).isOk = true)
    ∧ (∀ op ∈ [2, 3, 5, 6], ∀ p ∈ [(CtxSt.created, none), (.switched, none), (.bound, some 1), (.running, some 1), (.quarantined, none)],
        let n := wOpPkt op 2 0
        let s := wAdmin n 2 p.1 p.2
        AtHead s 0 n ∧ bits n 7 0 = 6 ∧ (queueOf s 0).admin = true ∧ ctxBusy s 2 = false ∧ bits n 71 64 = op ∧ bits n 184 128 = 0
          ∧ (∃ c, ctxOf s 2 = some c ∧ c.st = p.1) ∧ freeResident s = some (if p.2 = none then 1 else 2))
    ∧ (let n := wOpPkt 2 2 0
       let s := { wAdmin n 2 .created none with
                  ctxs := (List.range 65).map (fun k => (k + 1, { placeCtx with st := if k = 1 then .created else .bound, slot := if k = 1 then none else some (k - min k 1) })) }
       AtHead s 0 n ∧ freeResident s = none ∧ ∃ c, ctxOf s 2 = some c ∧ c.st = .created)
    ∧ (∀ st ∈ [CtxSt.created, .switched, .bound, .running, .quarantined], let n := wOpPkt 4 2 0x4000
        let s := wAdmin n 2 st none
        AtHead s 0 n ∧ bits n 71 64 = 4 ∧ (∃ c, ctxOf s 2 = some c ∧ c.st = st)
          ∧ ∃ d, readCtxDesc s 1 (bits n 184 128) 2 = .ok d ∧ slidesWithin s 2 d.saveBlocks = true)
    ∧ (let n := wOpPkt 6 3 0
       let s := wAdmin n 3 .created none
       AtHead s 0 n ∧ ctxOf s 3 = none)
    ∧ ∀ x ∈ [wQueue .ready, wQueue .active], let s := withCtx (withQueue x) { placeCtx with unbinding := true }
      ctxBusy s 1 = true ∧ (ctxActive s 1).all (canSave s) = true ∧ (∀ line ∈ ctxLines s 1, lineWaits s line = false)
        ∧ (ctxActive s 1).length = if x.st = .active then 1 else 0 := by
  refine ⟨⟨⟨by decide +kernel, by decide, by decide +kernel⟩, by decide, rfl, by decide, by decide +kernel, by decide, by decide, by decide, rfl,
    by decide +kernel⟩, ?_, ⟨⟨by decide +kernel, by decide, by decide +kernel⟩, by decide +kernel, _, rfl, rfl⟩, ?_,
    ⟨⟨by decide +kernel, by decide, by decide +kernel⟩, rfl⟩, ?_⟩
  · intro op ho p hp
    simp only [List.mem_cons, List.not_mem_nil, or_false] at ho hp
    rcases ho with rfl | rfl | rfl | rfl <;> rcases hp with rfl | rfl | rfl | rfl | rfl <;>
      exact ⟨⟨by decide +kernel, by decide, by decide +kernel⟩, by decide, rfl, by decide +kernel, by decide, by decide, ⟨_, rfl, rfl⟩,
        by decide +kernel⟩
  · intro st h
    simp only [List.mem_cons, List.not_mem_nil, or_false] at h
    rcases h with rfl | rfl | rfl | rfl | rfl <;>
      exact ⟨⟨by decide +kernel, by decide, by decide +kernel⟩, by decide, ⟨_, rfl, rfl⟩, ctxDescOf (wCdesc 2), by decide +kernel,
        by decide +kernel⟩
  · intro x h
    simp only [List.mem_cons, List.not_mem_nil, or_false] at h
    rcases h with rfl | rfl <;> decide +kernel

/-! ## Groups, trays and segments -/

/-- A kernel of one wave, of eight registers, a barrier, bytes of scratch and of FIFO, and a tray configuration. -/
def wDescr (scratch fifo : Nat) : KDesc :=
  { placeKernel with vregBlocks := 1, barrierCount := 1, scratchBytes := scratch, fifoBytes := fifo, trayCount := 1, trays := [(0, 7)] }
/-- A grid of one group of it, in an active queue with room in its darkslide; nothing is placed. -/
def wPlaceS (d : KDesc) : State :=
  { withQueue { wQueue .active with saveLen := 4 } with grids := [(0, { placeGrid with next := 0, desc := d })] }
/-- The walk's first core. -/
def wFits (s : State) (d : KDesc) : Bool := (placeFits s 0 d 1).isSome

/-- The group waits for banks, or for none. -/
def wWaits (s : State) (d : KDesc) : Option Bool := (placeFits s 0 d 1).map (fun p => (p.toScratch ++ p.toFifo).isEmpty)

/-- GroupsPlacedAndRestored, placing and retiring: a group that waits for no bank and one that waits; a co-resident grid that can be placed and one that
cannot; a bank that is converted at once, with the group that waits for it, and one that a group still holds; a draining group with
a partial on its way and without. -/
theorem wit_GroupsPlacedAndRetired :
    (∀ p ∈ [(0, true), (4096, false)], let s := wPlaceS (wDescr p.1 0)
      ∃ g l2, Map.find s.grids 0 = some g ∧ g.desc = wDescr p.1 0 ∧ dispatches s g.queue = true ∧ (headGrid s g.queue).map (·.1) = some 0
        ∧ servedFirst s g.queue = false ∧ coWaits s g.queue = false ∧ g.desc.coresident = false ∧ g.next < g.nx * g.ny * g.nz ∧ ringRoom s g = true
        ∧ slideFits s g.queue (kernelSave g.desc) = true ∧ walkCores s g.desc.groupWaves = [] ++ 1 :: l2
        ∧ wFits s g.desc = true ∧ wWaits s g.desc = some p.2)
    ∧ (∀ p ∈ [(1, true), (7000, false)], let s0 := wPlaceS { wDescr 0 0 with coresident := true }
      let s := { s0 with grids := [(0, { placeGrid with next := 0, desc := { wDescr 0 0 with coresident := true }, nx := p.1 })] }
      dispatches s 0 = true ∧ (headGrid s 0).map (·.1) = some 0 ∧ servedFirst s 0 = false ∧ coWaits s 0 = false ∧ (placeAll s 0).isSome = p.2)
    ∧ (let s := wPlaceS (wDescr 0 0)
       let t := { s with queues := [(0, { wQueue .active with saveLen := 4, turn := 5, cls := 1 }), (1, { wQueue .active with saveLen := 4 })],
                         grids := [(0, { placeGrid with next := 0, desc := wDescr 0 0 }), (1, { placeGrid with queue := 1, next := 0, desc := wDescr 0 0, src := .packet 1 0 })] }
       (headGrid t 0).map (·.1) = some 0 ∧ servedFirst t 0 = true)
    ∧ (let b : Bank := { mode := .cache, hold := false, change := some .scratch }
       let x := { placeGroup with st := .placing, wantBanks := [5], scratchGran := [(5, 0)] }
       let s := { withGroup wS x with cores := [(0, { Core.init with banks := [(5, b)] })] }
       (bankOf (coreOf s 0) 5).change = some .scratch ∧ (bankOf (coreOf s 0) 5).mode = .cache
        ∧ (leavingCache (coreOf s 0)).head? = some 5 ∧ 3 ≤ cacheBanks (coreOf s 0) ∧ groupOf s 0 = some x
        ∧ (∀ i ∈ x.wantBanks, i = 5) ∧ (Map.find s.grids x.grid).isSome = true)
    ∧ (let b : Bank := { mode := .cache, hold := false, change := some .fifo }
       let s := { wS with cores := [(0, { Core.init with banks := [(4, b), (5, b)] })] }
       (bankOf (coreOf s 0) 5).change = some .fifo ∧ (bankOf (coreOf s 0) 5).mode = .cache
        ∧ (leavingCache (coreOf s 0)).head? ≠ some 5)
    ∧ (let b : Bank := { mode := .scratch, hold := false, change := some .cache }
       (bankOf (coreOf { wS with cores := [(0, { Core.init with banks := [(5, b)] })] } 0) 5).change = some .cache
        ∧ ∀ g ∈ granulesOn { wS with cores := [(0, { Core.init with banks := [(5, b)] })] } 0, g.1 ≠ 5)
    ∧ (let b : Bank := { mode := .scratch, hold := false, change := some .cache }
       let x := { placeGroup with scratchGran := [(5, 0)] }
       let s := { withGroup wS x with cores := [(0, { Core.init with banks := [(5, b)] })] }
       (bankOf (coreOf s 0) 5).change = some .cache ∧ (bankOf (coreOf s 0) 5).mode ≠ .cache ∧ ∃ g ∈ granulesOn s 0, g.1 = 5)
    ∧ (let s := withGroup wS { placeGroup with st := .draining }
       let p : Partial := { ctx := 1, va := 0x100000, ty := .f32, bits := 0, gid := 0, core := 0, slot := 0, opId := 0, lane := 0 }
       groupOf s 0 = some { placeGroup with st := .draining } ∧ s.partials = [] ∧ (∃ q ∈ { s with partials := [p] }.partials, q.gid = 0)
        ∧ (settlePush s { placeGroup with st := .draining }).2 = false
        ∧ (let h := haloOf (0x20000 + 128 * 2 ^ 64 + 2 ^ 96 + 2 ^ 104 + 2 ^ 128 + 2 ^ 144) [0] [(2, 2)]
           let rep : L1Line := { st := .s, acksNeed := none, acksGot := 0, heldAck := false, pend := false, wbSent := false, bad := false }
           let u := withCtx s { placeCtx with halos := [(0, h)] }
           (settlePush { u with coh := { u.coh with haloDirty := [(0x20005, 9)], l1 := [(2 ^ 64 + 0x20000, rep)] } }
             { placeGroup with st := .draining }).2 = true)) := by
  refine ⟨?_, ?_, ⟨by decide +kernel, by decide +kernel⟩, ⟨rfl, rfl, by decide, by decide, rfl, by decide, rfl⟩, ⟨rfl, rfl, by decide⟩,
    ⟨rfl, by decide +kernel⟩, ⟨rfl, by decide, (5, 0), by decide +kernel, rfl⟩, rfl, rfl, ⟨_, .head _, rfl⟩, by decide +kernel, by decide +kernel⟩
  · intro p h
    simp only [List.mem_cons, List.not_mem_nil, or_false] at h
    rcases h with rfl | rfl <;>
      exact ⟨_, _, rfl, rfl, by decide +kernel, by decide +kernel, by decide +kernel, by decide +kernel, rfl, by decide, by decide, by decide +kernel, rfl,
        by decide +kernel, by decide +kernel⟩
  · intro p h
    simp only [List.mem_cons, List.not_mem_nil, or_false] at h
    rcases h with rfl | rfl <;> decide +kernel

/-- A group of one wave with or without a FIFO, saved in the darkslide of its queue, which is active again; what its record says that is not 0, by
R158 and R179: one wave, the FIFO's bytes, the L-code base, and fragment A, which runs with all 32 lanes. -/
def wSavedS (fifo : Nat) : State :=
  let g : Group := { placeGroup with fifoBytes := fifo, barrierCount := 1, trayCount := 1 }
  let y : Saved := { gid := 0, group := g, waves := [{ saveWave wW with valloc := 8 }], trays := [], off := 4096, bytes := 2816, recs := [] }
  let d : Darkslide := { valid := true, nextPacket := 0, bytes := 6912, groups := [y] }
  let s := withMem (withMem (withMem (withMem (wPlaceS (wDescr 0 fifo)) 0x71008 1 1) 0x71014 4 fifo) 0x71300 4 0x20000) 0x71640 16
    (1 + 0xFFFFFFFF * 2 ^ 32 + 0x8000 * 2 ^ 64)
  { s with queues := [(0, { wQueue .active with saveLen := 4, slides := d })], groups := [(0, { g with st := .swapped, slots := [] })] }
/-- What its darkslide holds of it. -/
def wSlot (s : State) : Option Saved := (queueOf s 0).slides.groups.find? (fun z => z.gid == 0)

/-- GroupsPlacedAndRestored, restoring: a group without FIFO, which goes to the walk's first core, one with a FIFO, which goes back to its own,
and that one where its core has no slot left; and a record whose header is not the group's. -/
theorem wit_GroupRestored :
    (∀ p ∈ [(0, 1), (4096, 0)], let s := wSavedS p.1
      ∃ e y d l2 c, groupOf s 0 = some e ∧ groupQueue s e = some 0 ∧ (queueOf s 0).st = .active ∧ (queueOf s 0).slides.valid = true
        ∧ wSlot s = some y ∧ descOf s e.grid = some d ∧ groupOk s 0 y = true
        ∧ restoreCores s y.group = [] ++ c :: l2 ∧ c = p.2 ∧ (restoreFits s y d c).isSome = true)
    ∧ (let s := { wSavedS 4096 with cores := [(0, { Core.init with dead := true })] }
       ∃ y d, wSlot s = some y ∧ descOf s 0 = some d ∧ groupOk s 0 y = true ∧ ∀ c ∈ restoreCores s y.group, restoreFits s y d c = none)
    ∧ ∃ y, wSlot (wSavedS 0) = some y ∧ groupOk (withMem (wSavedS 0) 0x71008 1 2) 0 y = false := by
  refine ⟨?_, ⟨(wSlot _).get (by decide +kernel), (descOf _ 0).get (by decide +kernel), (Option.some_get _).symm, (Option.some_get _).symm, by decide +kernel, by decide +kernel⟩,
    (wSlot _).get (by decide +kernel), (Option.some_get _).symm, by decide +kernel⟩
  intro p h
  simp only [List.mem_cons, List.not_mem_nil, or_false] at h
  rcases h with rfl | rfl <;>
    exact ⟨_, _, _, _, _, rfl, rfl, rfl, rfl, rfl, rfl, by decide +kernel, rfl, rfl, by decide +kernel⟩

/-- A triangle that covers quads of the first tile: (0, 0), (8, 0), (0, 8). -/
def wTri : Nat := 0x41000000 * 2 ^ 96 + 0x41000000 * 2 ^ 224
/-- A DRAW grid of two segments, the first with records, whose groups are in a state, over a core with tray entries in use, before its segment `k`. -/
def wDrawS (st : GroupSt) (n used k : Nat) : State :=
  let d : Draw := { primBuf := 0x100000, segSize := 1, ringOrder := 1, width := 32, height := 32, cull := 0, merge := false, pixelTray := 0, cosMin := 0,
                    depthBound := 0, emitted := [(0, n)], next := if k = 0 then [] else [(0, k)], pos := [],
                    carry := if k = 0 then [] else [(0, (wTri, 0, []))] }
  let t : Tray := { wTray .filling 0 with grid := 1, key := 9, recs := [], deadline := 0 }
  let s := withMem (wPlaceS (wDescr 0 0)) 0x100000 64 wTri
  { s with grids := [(0, { placeGrid with desc := wDescr 0 0, draw := some d, nx := 2 })],
           groups := [(0, { placeGroup with st := st }), (1, { placeGroup with st := st, index := 1 })],
           cores := [(0, { Core.init with trays := (List.range used).map (fun j => (j, t)) })] }

/-- What the Finder of core 0 has before it, how many quads it deposits, and whether each finds an entry. -/
def wDeposits (s : State) (whole : Bool) : Option (Nat × Nat × Bool) :=
  (Map.find s.grids 0).bind (fun g => g.draw.bind (fun d =>
    let seg := Tab.get 0 d.next 0
    (segInput s g d 0 seg whole).map (fun i =>
      let r := pairQuads d 0 i.1 i.2
      let n := Tab.get 0 d.pos 0
      let t := quadsDeposit s 0 0 d.pixelTray ((r.1 ++ (if g.nx * g.ny * g.nz ≤ seg + 1 then lastQuads d 0 r.2 else [])).drop n) n
      (i.2.length, t.2.1, t.2.2))))

/-- TraysAndSegments: a filling tray before and at its deadline; one that is triggered, with a partition that has room; a killed group, one that
has not ended, and one that has retired, in the first segment and in the last one, where the quads find entries or do not; and a segment that
cannot be read. -/
theorem wit_TraysAndSegments :
    (∃ y, Map.find (coreOf (wDrawS .resident 0 1 0) 0).trays 0 = some y ∧ y.st = .filling ∧ y.deadline ≤ (wDrawS .resident 0 1 0).clock.toNat)
    ∧ (∃ y, Map.find [(0, { wTray .filling 0 with deadline := 2 ^ 63 })] 0 = some y ∧ (0 : BitVec 64).toNat < y.deadline)
    ∧ (let y := { wTray .triggered 0 with recs := List.replicate 32 { key := 8, p0 := 1, p1 := 2, p2 := 3 } }
       let s := { wPlaceS (wDescr 0 0) with cores := [(0, { Core.init with trays := [(255, y)] })] }
       firstWaiting s 0 = some (255, y) ∧ (Map.find s.grids y.grid).isSome = true ∧ trayPart s 0 1 = some 0 ∧ (coreOf s 0).dead = false
        ∧ slideFits s 0 (saveBytes 1 1 0 0 0) = true)
    ∧ (∀ p ∈ [(GroupSt.killed, some false), (.resident, none), (.retired, some true)], let s := wDrawS p.1 1 0 0
       ∃ g d, Map.find s.grids 0 = some g ∧ g.draw = some d ∧ Tab.get 0 d.next 0 < g.nx * g.ny * g.nz ∧ segReady s 0 0 g = p.2)
    ∧ (let s := wDrawS .retired 1 0 0
       ∃ g d, Map.find s.grids 0 = some g ∧ g.draw = some d ∧ segReady s 0 0 g = some true
        ∧ segPrims s g { d with primBuf := 2 ^ 56 } 0 = none)
    ∧ wDeposits (wDrawS .retired 1 0 0) true = some (1, 0, true) ∧ wDeposits (wDrawS .killed 1 0 0) false = some (0, 0, true)
    ∧ (wDeposits (wDrawS .retired 1 0 1) true).map (fun r => (decide (0 < r.2.1), r.2.2)) = some (true, true)
    ∧ (wDeposits (wDrawS .retired 1 256 1) true).map (fun r => (r.2.1, r.2.2)) = some (0, false) := by
  refine ⟨⟨_, rfl, rfl, by decide⟩, ⟨_, rfl, by decide⟩, ⟨by decide +kernel, rfl, by decide +kernel, rfl, by decide +kernel⟩, ?_,
    ⟨_, _, rfl, rfl, by decide +kernel, by decide +kernel⟩, by decide +kernel⟩
  intro p h
  simp only [List.mem_cons, List.not_mem_nil, or_false] at h
  rcases h with rfl | rfl | rfl <;> exact ⟨_, _, rfl, rfl, by decide, by decide +kernel⟩

/-! ## Engine operations, partials and teams -/

/-- The small machine with a copy of wave 0 in a state. -/
def wRunS (o : EngOp) : State := withOp wS { o with wave := 0 }
/-- The copy, over a descriptor that reads from 0x2000, an unmapped page or a page that is not in the page cache. -/
def wCopy (st : EngSt) (src : Nat) : EngOp := { wOp .copy 0 with st := st, desc := BitVec.ofNat 512 (wXfer src 0) }
/-- How it ends. -/
def wEnds (s : State) (o : EngOp) : Nat := match (engMove (engFuel o) s { o with st := .running, missPage := none }).2.2 with
  | .over => 0 | .fault _ _ => 1 | .miss _ => 2 | _ => 3
/-- A page table in which page 2 is homed in the pool. -/
def wPoolS (s : State) : State := wFine s [(0, 0x73), (1, 0x10073), (2, 0x20077), (4, 0x40073)]

/-- TransfersAndPartials, a transfer: pages that translate and one that does not; locks that are free and one that is not; a run to the end, to a fault
and to a page that is not in the cache; a drain that has met a failing page; a wave asleep; a record whose queue has a place. -/
theorem wit_TransferLife :
    (∀ p ∈ [(0x2000, true), (0x20000000, false)], let o := wCopy .issued p.1
      opAt (wRunS o) 0 5 = some o ∧ ((pinPages (wRunS o) o.core o.ctx o.priv o.pinned (opPages o)).map (fun r => r.2.2.isNone)) = some p.2)
    ∧ (∀ p ∈ [([], false), ([{ op := 4, ctx := 1, scr := none, lo := 0x2000, hi := 0x2001, rw := true }], true)], let o := wCopy .translated 0x2000
      let k : Lock := { op := 5, ctx := 1, scr := none, lo := 0x2000, hi := 0x2040, rw := false }
      let s := { wRunS o with cores := [(0, { Core.init with ops := [(5, o)], locks := p.1 ++ [k] })] }
      opAt s 0 5 = some o ∧ lockedOut (coreOf s 0) 5 = p.2)
    ∧ (∀ p ∈ [(0x2000, 0), (0x20000000, 1), (0x20000, 2)], let o := wCopy .running p.1
      let s := wPoolS (wRunS o)
      opAt s 0 5 = some o ∧ engRuns s o = true ∧ wEnds s o = p.2)
    ∧ (let o := { wOp .drain 0 with st := .running, failPage := some 0x20000000, failCause := some .unmapped }
       opAt (wRunS o) 0 5 = some o ∧ engRuns (wRunS o) o = true)
    ∧ (let f := { placeFrag with wait := .evwait 0 }
       let o := wCopy .running 0x2000
       let s := withOp (withWave (withFrag f)) o
       opAt s 0 5 = some o ∧ o.orphan = false ∧ waveOf s o.gid o.wave = some (withFrag f)
        ∧ fragOf (withFrag f) (trapSlot (withFrag f) o.b) = some f ∧ asleep f = true)
    ∧ (let o := { wCopy .waitPlace 0x2000 with final := some 7 }
       opAt (wRunS o) 0 5 = some o ∧ waveOf (wRunS o) o.gid o.wave = some wW ∧ (evqOf wW o.q).recs.length < (evqOf wW o.q).depth) := by
  refine ⟨?_, ?_, ?_, ⟨rfl, by decide +kernel⟩, ⟨rfl, rfl, rfl, rfl, by decide⟩, rfl, rfl, by decide⟩
  · intro p h
    simp only [List.mem_cons, List.not_mem_nil, or_false] at h
    rcases h with rfl | rfl <;> exact ⟨rfl, by decide +kernel⟩
  · intro p h
    simp only [List.mem_cons, List.not_mem_nil, or_false] at h
    rcases h with rfl | rfl <;> exact ⟨rfl, by decide +kernel⟩
  · intro p h
    simp only [List.mem_cons, List.not_mem_nil, or_false] at h
    rcases h with rfl | rfl | rfl <;> decide +kernel

/-- A partial of one F32 for the address given. -/
def wPart (va : Nat) : Partial := { ctx := 1, va := va, ty := .f32, bits := 0x3F800000, gid := 0, core := 0, slot := 0, opId := 0, lane := 31 }
/-- A machine with it on its way, from the one operation of its wave, and an open accumulator. -/
def wPartS (va : Nat) : State :=
  { withWave { wLaneX with ops := [{ wLaneOp (.accred (wX .f32)) (BitVec.ofNat 64 va) with done := 0x80000000, pendingAnswers := 1 }] } with
    partials := [wPart va], accs := [(0, wAcc .opened)] }
/-- A drain of that accumulator that has its last element to write. -/
def wDrainOp : EngOp := { wOp .drain 0 with st := .running, elem := 1023, desc := BitVec.ofNat 512 (wAd 2) }

/-- It ends. -/
def wDrains (s : State) (a : Acc) : Bool :=
  match drainMove (a.rows * a.cols + 3) s a { wDrainOp with st := .running, missPage := none } with
  | (t, _, .over) => (Map.find t.accs wDrainOp.acc).isSome
  | _ => false

/-- TransfersAndPartials, partials and drains: a partial for the last element of an accumulator, one for the byte behind it, and a drain about to end. -/
theorem wit_AccumulatorEvents :
    (let s := wPartS 0x101FF8
     s.partials[0]? = some (wPart 0x101FF8) ∧ ∃ a t b, accAt { s with partials := [] } 1 0x101FF8 = some (0, a)
      ∧ accAccepts a.form .f32 = true ∧ (0x101FF8 - a.base) % accElemBytes a.form = 0
      ∧ accPlace { s with partials := [] } 0 a (0x101FF8 / 128) = some t ∧ Map.find t.accs 0 = some b
      ∧ ∃ w, Map.find s.waves 0 = some w ∧ w.gid = 0)
    ∧ accAt { wPartS 0x102000 with partials := [] } 1 0x102000 = none
    ∧ (let s := { withOp wS wDrainOp with accs := [(0, wAcc .draining)] }
       opAt s 0 5 = some wDrainOp ∧ ∃ a, Map.find s.accs wDrainOp.acc = some a ∧ engRuns s wDrainOp = true ∧ wDrainOp.failCause = none
        ∧ wDrains s a = true) := by
  exact ⟨⟨rfl, _, _, _, rfl, by decide, by decide, Option.some_get (by decide +kernel) |>.symm, Option.some_get (by decide +kernel) |>.symm, _, rfl, rfl⟩,
    by decide +kernel, rfl, _, rfl, by decide +kernel, rfl, by decide +kernel⟩

/-- A team of one, with its word: an `MMA`, or a loop. -/
def wTeam1 (x : TeamWord) : Team := { teamInit 0 0 1 with members := [{ wave := 0, core := 0, slot := 0, words := [x] }] }
/-- Its `MMA`, at a tile at 0x8000. -/
def wMmaWord : TeamWord := .mma 0 .f16 .f16 0x8000 0x2000 (BitVec.ofNat 256 wFmt) false 0xFFFFFFFF 2 3
/-- A loop that has formed its steps, in slot 5. -/
def wLoopOp (st : EngSt) : EngOp :=
  { wOp .mloop 0 with st := st, desc := BitVec.ofNat 512 wLoop, fmt := BitVec.ofNat 256 wFmt, elem := 1 }
/-- A machine with a team and an operation. -/
def wTeamS (t : Team) (o : EngOp) : State := { wS with cores := [(0, { Core.init with ops := [(5, o)], teams := [t] })] }
/-- The loop's handle. -/
def wLoopH : Nat := (engHandle (wLoopOp .issued) 5).toNat

/-- A loop ends. -/
def wLoopOver (s : State) (t : Team) (o : EngOp) (f : Fmt) : Bool :=
  match (loopGo (3 * (loopDesc o.desc.toNat).steps + 16) s 0 t { o with st := .running, missPage := none } (loopDesc o.desc.toNat) f).2.2.2 with
  | .over => true | _ => false
/-- A step forms. -/
def wForms (s : State) (t : Team) (f : Fmt) : Bool :=
  let p := stageFor s 0 t 0x8000 0x2000 (BitVec.ofNat 256 wFmt) (f.aType == .f64)
  match (matrixStep (scaleRead wW) p.1 p.2 f 0 (regSupply p.1 p.2 f)).2 with
  | .ok t2 => decide (t2.steps < 256) && t2.unsent == [] | .error _ => false

/-- TeamOperations: a team's `MMA` whose step forms, and a loop whose steps are formed, before and after it is taken up. -/
theorem wit_TeamOperations :
    (let t := wTeam1 wMmaWord
     let s := wTeamS t (wLoopOp .issued)
     teamOf s 0 0 0 = some t ∧ t.dissolved = false ∧ t.stop = .none ∧ teamReady t = true ∧ swappedOut s 0 = false
      ∧ (∃ m, member0 t = some m ∧ headOf m = some wMmaWord ∧ waveOf s 0 m.wave = some wW)
      ∧ (∀ x ∈ t.members, (headOf x).map (fun y => match y with | .mloop _ => true | _ => false) = some false)
      ∧ ∃ f, fmtOf (BitVec.ofNat 256 wFmt).toNat = some f ∧ flushFirst t 0x8000 0x2000 (f.aType == .f64) = false ∧ wForms s t f = true)
    ∧ ∀ st ∈ [EngSt.issued, .running], let t := wTeam1 (.mloop wLoopH)
      let s := wTeamS t (wLoopOp st)
      teamOf s 0 0 0 = some t ∧ t.dissolved = false ∧ t.stop = .none ∧ teamReady t = true ∧ (member0 t).bind headOf = some (.mloop wLoopH)
        ∧ leadLoop s 0 wLoopH = some (5, wLoopOp st) ∧ lockedOut (coreOf s 0) 5 = false ∧ opAt s 0 5 = some (wLoopOp st)
        ∧ teamOfLoop s 0 5 (wLoopOp st) = some t ∧ (st = .running → engRuns s (wLoopOp st) = true) ∧ (wLoopOp st).failCause = none
        ∧ ∃ f, fmtOf (wLoopOp st).fmt.toNat = some f ∧ wLoopOver s t (wLoopOp st) f = true := by
  refine ⟨⟨rfl, rfl, rfl, by decide +kernel, by decide, ⟨_, rfl, rfl, rfl⟩, by decide +kernel, _,
    Option.some_get (by decide +kernel) |>.symm, by decide +kernel, by decide +kernel⟩, ?_⟩
  intro st h
  simp only [List.mem_cons, List.not_mem_nil, or_false] at h
  rcases h with rfl | rfl <;>
    exact ⟨rfl, rfl, rfl, by decide +kernel, by decide +kernel, by decide +kernel, by decide +kernel, rfl, by decide +kernel,
      (by decide +kernel), rfl, _, Option.some_get (by decide +kernel) |>.symm, by decide +kernel⟩

/-! ## Frames -/

/-- A frame in a state, of the pool page 2^22 and context 1. -/
def wFrame (st : FrameSt) : Frame := { st := st, page := 0x400000, ctx := 1, clock := false, dirty := 0, released := 0 }
/-- A machine with a frame 0 in a state, a running CXL port with a key, and a wave that waits for its page. -/
def wFrameS (st : FrameSt) : State :=
  let w := { withFrag { placeFrag with wait := .pageMiss 0x400000 } with yieldOn := [0x400000] }
  let s := withWave w
  { s with vm := { s.vm with frames := [(0, wFrame st)], poolTarget := 1 }, link := { s.link with ports := [(3, { Port.init with st := .up, ide := 2 })] } }
/-- A machine of two frames that are not reserved, one filling and one with a page. -/
def wTwoS (last : Frame) : State := { wS with vm := { wS.vm with frames := [(0, wFrame .filling), (1, last)], reserved := 2 ^ 22 - 2 } }
/-- Frames in the clock's order. -/
def wRound (s : State) : List Nat :=
  let l := s.vm.frames.map (·.1)
  l.filter (fun f => decide (s.vm.hand ≤ f)) ++ l.filter (fun f => decide (f < s.vm.hand))

/-- PoolFrames: an empty batch; one of one page and one of two with frames enough; one that finds none; a frame in each state whose event comes, with
the wave that waits, over a link that is up and one that is not; frames enough for no eviction; a clock with a victim, behind a frame that is none, and
one without; a free frame below the pool's target, and one in use. -/
theorem wit_PoolFrames :
    (wS.vm.batch = none
      ∧ (∀ l ∈ [[(0x400000, 1)], [(0x400000, 1), (0x400001, 1)]], let s := { wS with vm := { wS.vm with batch := some l } }
         s.vm.batch.getD [] = l ∧ s.vm.starved = [] ∧ Map.sorted s.vm.frames = true ∧ 64 + l.length + 32 ≤ framesComing s
          ∧ s.vm.frames.length + l.length + 32 ≤ frameLimit s ∧ freeFrame s = some 0)
      ∧ (let s := { wS with vm := { wS.vm with batch := some [(0x400000, 1)], reserved := 2 ^ 22 } }
         s.vm.batch = some [(0x400000, 1)] ∧ s.vm.starved = [] ∧ freeFrame s = none))
    ∧ (∀ st ∈ [FrameSt.filling, .evicting, .zeroing], Map.find (wFrameS st).vm.frames 0 = some (wFrame st) ∧ (wFrameS st).vm.starved = [])
    ∧ ((wFrameS .evicting).coh.pushes = [] ∧ (wFrameS .evicting).coh.haloDirty = []
        ∧ (wFrameS .evicting).ctxs.all (fun c => c.2.halos.isEmpty) = true)
    ∧ (let s := wFrameS .filling
       cxlUp s = true ∧ cxlUp wS = false ∧ opsWhere s (fun o => o.st == .parked && o.missPage == some 0x400000) = []
        ∧ ∃ w g, Map.find s.waves 0 = some w ∧ w.yieldOn = [0x400000] ∧ w.yieldClaim = [] ∧ fragOf w false = some g ∧ g.wait = .pageMiss 0x400000)
    ∧ 64 ≤ framesComing wS
    ∧ (let s := wTwoS { wFrame .clean with page := 0x400001 }
       framesComing s < 64 ∧ wRound s = [0] ++ 1 :: [] ∧ (∀ p ∈ [0], ∃ x, Map.find s.vm.frames p = some x ∧ x.st ≠ .clean ∧ x.st ≠ .dirty)
        ∧ (∃ x, Map.find s.vm.frames 1 = some x ∧ x.st = .clean ∧ x.clock = false ∧ clockPasses s x.page = false)
        ∧ (sweep s (wRound s ++ wRound s)).2 = some 1 ∧ (Map.find (sweep s (wRound s ++ wRound s)).1.vm.frames 1).isSome = true)
    ∧ (let s := wTwoS (wFrame .filling)
       framesComing s < 64 ∧ (sweep s (wRound s ++ wRound s)).2 = none)
    ∧ (let s := wFrameS .clean
       frameStOf s 1 = none ∧ 1 < frameLimit s ∧ (s.vm.frames.filter (fun e => e.2.st == .pooled)).length < s.vm.poolTarget
        ∧ frameStOf s 0 ≠ none) := by
  refine ⟨⟨rfl, ?_, rfl, rfl, by decide +kernel⟩, fun st _ => ⟨rfl, rfl⟩, ⟨rfl, rfl, rfl⟩,
    ⟨by decide +kernel, by decide +kernel, by decide +kernel, _, _, rfl, rfl, rfl, rfl, rfl⟩, by decide +kernel,
    ⟨by decide +kernel, by decide +kernel, ?_, ⟨_, rfl, rfl, rfl, by decide +kernel⟩, by decide +kernel, by decide +kernel⟩,
    ⟨by decide +kernel, by decide +kernel⟩, rfl, by decide +kernel⟩
  · intro l h
    simp only [List.mem_cons, List.not_mem_nil, or_false] at h
    rcases h with rfl | rfl <;> exact ⟨rfl, rfl, rfl, by decide +kernel⟩
  · intro p h
    simp only [List.mem_cons, List.not_mem_nil, or_false] at h
    subst h
    exact ⟨_, rfl, by decide, by decide⟩

/-! ## The home's directory and the caches -/

/-- A machine with one message and one entry, of the line 0x4000. -/
def wHome (m : Msg) (d : Dir) : State := { wS with coh := { wS.coh with dir := Tab.set Dir.init [] 0x4000 d, msgs := [m] } }
/-- An entry in a state, with core 5 its owner, where the state has one, and cores 0 and 95 its sharers. -/
def wDir (st : DirSt) : Dir :=
  { Dir.init with st := st, owner := if st = .i ∨ st = .s then 0 else 5, sharers := if st = .s ∨ st = .o then 1 + 2 ^ 95 else 0 }
/-- A request of a core. -/
def wToHome (k : MsgK) (core : Nat) : Msg := toHome k 0x4000 core
/-- Such a message reaches its home. -/
theorem reaches (k : MsgK) (core : Nat) (d : Dir) (hl : retiredId (wHome (wToHome k core) d) core = false) (he : dirOf (wHome (wToHome k core) d) 0x4000 = d) (hp : lineSt (wHome (wToHome k core) d) 0x4000 = d.st) :
    Reaches (wHome (wToHome k core) d) 0 (wToHome k core) k d :=
  ⟨rfl, rfl, fun _ => hl, he, hp⟩

/-- HomeMessages, requests: each request at an entry in each state, of core 95, a sharer, and of core 5, the owner; a waiting buffer with a place
and one without. -/
theorem wit_HomeRequests :
    (∀ k ∈ [MsgK.getS, .getM, .upg], ∀ st ∈ [DirSt.i, .s, .e, .m, .o, .sD, .mA, .wD], ∀ c ∈ [5, 95], let m := wToHome k c
      let d := wDir st
      let s := wHome m d
      Reaches s 0 m k d ∧ m.dst = homeId ∧ d.owner < 128 ∧ d.ext = []
        ∧ (s.coh.waitBuf.filter (fun x => homeSlice x.line == homeSlice m.line)).length < 64 ∧ sliceBusy s (homeSlice m.line) < 256)
    ∧ (let m := wToHome .getM 95
       64 ≤ ((List.replicate 64 m).filter (fun x => homeSlice x.line == homeSlice m.line)).length) := by
  refine ⟨?_, by decide +kernel⟩
  intro k hk st hs c hc
  refine ⟨reaches k c (wDir st) ?_ ?_ ?_, rfl, ?_, rfl, Nat.zero_lt_succ _, ?_⟩ <;>
    simp only [List.mem_cons, List.not_mem_nil, or_false] at hk hs hc <;>
    rcases hk with rfl | rfl | rfl <;> rcases hs with rfl | rfl | rfl | rfl | rfl | rfl | rfl | rfl <;> rcases hc with rfl | rfl <;>
    decide +kernel

/-- HomeMessages, notices and answers: a notice of each kind, of the owner, of a sharer and of a core that holds nothing, at an entry in each
state; each answer at an entry that waits for it, alone and behind the other; returned data; a push of which another is open; and a
message of a core that is dead. -/
theorem wit_HomeNoticesAndAnswers :
    (∀ k ∈ [MsgK.putS, .putE, .putM, .putO, .wbData, .unblock, .ownAck, .cleanAck], ∀ st ∈ [DirSt.s, .e, .m, .o, .sD, .mA, .wD],
      ∀ c ∈ [0, 5, 7, 95], let m := wToHome k c
      Reaches (wHome m (wDir st)) 0 m k (wDir st) ∧ m.dst = homeId ∧ (wHome m (wDir st)).coh.waitBuf = [])
    ∧ (∀ p ∈ [(false, false), (true, false), (false, true)], ∀ k ∈ [MsgK.unblock, .ownAck, .cleanAck], let m := wToHome k 5
       let d := { wDir .sD with gotUnblock := p.1, gotOwn := p.2 }
       Reaches (wHome m d) 0 m k d ∧ d.notice = none ∧ d.wb = false)
    ∧ (∀ p ∈ [(true, MsgK.putE), (true, .putM), (false, .putE)], let d := { wDir .mA with grantE := p.1, notice := some p.2 }
       Reaches (wHome (wToHome .unblock 5) d) 0 (wToHome .unblock 5) .unblock d ∧ d.wb = false)
    ∧ (∀ st ∈ [DirSt.e, .m, .o, .sD, .mA], let m := { wToHome .wbData 5 with notice := true }
       (wHome m (wDir st)).coh.msgs[0]? = some m ∧ retiredId (wHome m (wDir st)) 5 = false ∧ (wDir st).owner = m.src)
    ∧ (let m := wToHome .hAck 3
       let s0 := wHome m (wDir .i)
       let s := { s0 with coh := { s0.coh with pushes := [(0x4000, 3, 1, 0), (0x4080, 3, 1, 0)] } }
       Reaches s 0 m .hAck (wDir .i) ∧ ∃ p ∈ s.coh.pushes, p.2.1 = m.reqr ∧ p.1 ≠ m.line ∧ p.2.2.1 ≠ 0)
    ∧ (let m := wToHome .putM 5
       let s := { wHome m (wDir .m) with cores := [(5, { Core.init with dead := true })] }
       s.coh.msgs[0]? = some m ∧ m.src ≠ homeId ∧ retiredId s m.src = true)
    ∧ frameOfPage (wHome (wToHome .wbData 5) (wDir .wD)) 0 = none := by
  refine ⟨?_, ?_, ?_, ?_, ⟨⟨rfl, rfl, fun _ => by decide +kernel, rfl, by decide +kernel⟩, _, .tail _ (.head _), rfl, by decide, by decide⟩,
    ⟨rfl, by decide, by decide +kernel⟩, by decide +kernel⟩
  · intro k hk st hs c hc
    refine ⟨reaches k c (wDir st) ?_ ?_ ?_, rfl, rfl⟩ <;>
      simp only [List.mem_cons, List.not_mem_nil, or_false] at hk hs hc <;>
      rcases hk with rfl | rfl | rfl | rfl | rfl | rfl | rfl | rfl <;> rcases hs with rfl | rfl | rfl | rfl | rfl | rfl | rfl <;>
      rcases hc with rfl | rfl | rfl | rfl <;> decide +kernel
  · intro p hp k hk
    refine ⟨reaches k 5 _ ?_ ?_ ?_, rfl, rfl⟩ <;>
      simp only [List.mem_cons, List.not_mem_nil, or_false] at hp hk <;>
      rcases hp with rfl | rfl | rfl <;> rcases hk with rfl | rfl | rfl <;> decide +kernel
  · intro p hp
    refine ⟨reaches .unblock 5 _ ?_ ?_ ?_, rfl⟩ <;>
      simp only [List.mem_cons, List.not_mem_nil, or_false] at hp <;>
      rcases hp with rfl | rfl | rfl <;> decide +kernel
  · intro st hs
    simp only [List.mem_cons, List.not_mem_nil, or_false] at hs
    rcases hs with rfl | rfl | rfl | rfl | rfl <;> exact ⟨rfl, by decide +kernel, by decide⟩

/-- A message from the home, or from core 3, to core 5 for core 95, at the line 0x4000. -/
def wToL1 (k : MsgK) (acks : Nat) (stale : Bool) : Msg :=
  { k := k, line := 0x4000, src := if k = .invAck then 3 else homeId, dst := 5, reqr := 95, acks := acks, stale := stale, notice := false, sent := 0 }
/-- A machine with it, and core 5's line. -/
def wL1 (m : Msg) (l : Option L1Line) : State :=
  { wS with coh := { wS.coh with msgs := [m], l1 := match l with
                                                   | some x => [(l1Key 5 0x4000, x)]
                                                   | none => [] } }
/-- An L1 line in a state. -/
def wLineIn (st : L1St) : L1Line := { st := st, acksNeed := none, acksGot := 0, heldAck := false, pend := false, wbSent := false, bad := false }

/-- L1AndExternalMessages, at the L1: each message at a line in each state, with acknowledgements that are in and that are not, and at a core without the
line; and a request to send again. -/
theorem wit_L1Messages :
    (∀ k ∈ [MsgK.data, .dataE, .dataM, .grant, .invAck, .inv, .fwdGetS, .fwdGetM, .pullWB, .noticeAck, .wbAck, .hPush, .hCommit, .retry],
      ∀ st ∈ [L1St.s, .e, .o, .m, .isD, .imD, .smA, .omA, .eiN, .miN, .iiN], ∀ n ∈ [0, 2], ∀ b ∈ [false, true], ∀ c ∈ [false, true], ∀ w ∈ [false, true],
      let m := wToL1 k n b
      let l := { wLineIn st with acksNeed := some (n / 2), heldAck := c, wbSent := w }
      let s := wL1 m (some l)
      s.coh.msgs[0]? = some m ∧ m.k = k ∧ m.dst ≠ homeId ∧ (m.src ≠ homeId → retiredId s m.src = false)
        ∧ l1Of s m.dst m.line = some l ∧ l.st = st)
    ∧ (∀ st ∈ [L1St.imD, .smA, .omA], fillWaits (wL1 (wToL1 .grant 2 false) (some (wLineIn st))) 5 0x4000 = false)
    ∧ (let m := wToL1 .inv 0 false
       let s := wL1 m none
       s.coh.msgs[0]? = some m ∧ l1Of s m.dst m.line = none)
    ∧ (let x := wToHome .getS 5
       let s := { wS with coh := { wS.coh with retries := [x] } }
       s.coh.retries[0]? = some x)
    ∧ (let s := wL1 (wToL1 .inv 0 false) (some (wLineIn .isD))
       dataComing s 5 0x4000 = false
        ∧ dataComing { s with coh := { s.coh with msgs := s.coh.msgs ++ [wToL1 .data 0 false] } } 5 0x4000 = true) := by
  refine ⟨?_, fun st _ => Bool.and_eq_false_iff.2 (.inr (by cases st <;> decide +kernel)), ⟨rfl, rfl⟩, rfl, rfl, rfl⟩
  intro k _ st _ n _ b _ c _ w _
  exact ⟨rfl, rfl, Nat.ne_of_beq_eq_false rfl, fun h => by cases k <;> first | rfl | exact absurd rfl h, by simp [l1Of, wL1, wToL1, Map.find], rfl⟩

/-- A machine with an entry and core 5's line, and a live agent, 200. -/
def wExt (d : Dir) (l : List (Nat × L1Line)) : State :=
  let s := { wS with coh := { wS.coh with dir := Tab.set Dir.init [] 0x4000 d, l1 := l } }
  { s with link := { s.link with agents := [(200, { kind := .peer, route := 4, live := true })] } }
/-- A machine with a fetch of a line that fails its check under way. -/
def wFails (l : List (Nat × Nat × Nat)) : State := { wS with coh := { wS.coh with failing := l } }
/-- The same machine with agent 200 lost. -/
def wLost (s : State) : State := { s with link := { s.link with agents := [(200, { kind := .peer, route := 4, live := false })] } }

/-- L1AndExternalMessages, from outside: a core with a forward unanswered for 2^20 cycles, one with a later one, and one with none; an answer of a
retired agent, the last answer that a grant waits for and one before it; a snoop of a line in each stable state, and one that waits; a
line with no failing fetch and with one; a read, an ownership request, a write and an eviction of a line in each stable state; and of a
retired agent. -/
theorem wit_ExternalCoherence :
    (∀ p ∈ [(2 ^ 20, true), (2 ^ 20 - 1, false)], let s := { wL1 (wToL1 .inv 0 false) none with clock := p.1 }
      (s.coh.msgs.any (fun m => decide (m.dst = 5 ∧ m.k = .inv ∧ 2 ^ 20 ≤ (s.clock - m.sent).toNat)) = p.2) ∧ ∀ m ∈ s.coh.msgs, m.dst ≠ 6)
    ∧ (∀ p ∈ [([200], true), ([200, 201], false)], let d : Dir := { wDir .mA with biWait := p.1, biGrant := some (5, true, 0) }
       let s := wExt d []
       retiredAgent s 200 = false ∧ retiredAgent (wLost s) 200 = true ∧ 200 ∈ (dirOf s (lineOf 0x4008)).biWait
        ∧ ((dirOf s (lineOf 0x4008)).biWait.filter (· != 200)).isEmpty = p.2 ∧ (dirOf s (lineOf 0x4008)).biGrant = some (5, true, 0))
    ∧ (∀ st ∈ [DirSt.s, .e, .m, .o, .i], let s := wExt (wDir st) []
       s.coh.snoops = [] ∧ lineSt s (lineOf 0x4008) = st ∧ settledLine s (lineOf 0x4008) = true ∧ snoopReady s (lineOf 0x4008) = true
        ∧ ({ s with coh := { s.coh with snoops := [(lineOf 0x4008, true)] } } : State).coh.snoops = [(lineOf 0x4008, true)])
    ∧ snoopReady (wExt (wDir .mA) []) (lineOf 0x4008) = false
    ∧ ((∀ e ∈ (wFails [(1, 0x4000, 0x4010)]).coh.failing, e.2.1 ≠ lineOf 0x4088)
        ∧ (wFails [(1, 0x4000, 0x4010), (1, 0x4080, 0x4080)]).coh.failing.filter (fun e => e.2.1 == lineOf 0x4008) = [(1, 0x4000, 0x4010)])
    ∧ (∀ p ∈ [(DirSt.s, []), (.i, []), (.e, [(l1Key 5 0x4000, wLineIn .e)]), (.m, [(l1Key 5 0x4000, wLineIn .m)]), (.o, [(l1Key 5 0x4000, wLineIn .o)])],
       let s := wExt (wDir p.1) p.2
       let d := dirOf s (lineOf 0x4008)
       peerLostAgent s 200 = false ∧ servable s 0x4008 = true ∧ lineSt s (lineOf 0x4008) = d.st ∧ d.st = p.1 ∧ settledLine s (lineOf 0x4008) = true
        ∧ d.owner < 96 ∧ (l1Of s d.owner (lineOf 0x4008)).isSome = !p.2.isEmpty ∧ 0x4008 % 128 + (List.replicate 120 (7 : Byte)).length ≤ 128
        ∧ d.owner ≠ 200)
    ∧ (let d : Dir := { wDir .m with owner := 200 }
       let s := wExt d []
       (dirOf s (lineOf 0x4008)).st = .m ∧ (dirOf s (lineOf 0x4008)).owner = 200 ∧ lineSt s (lineOf 0x4008) = .m
        ∧ servable s 0x4008 = true ∧ settledLine s (lineOf 0x4008) = true ∧ peerLostAgent s 200 = false) := by
  refine ⟨?_, ?_, ?_, by decide +kernel, ⟨by decide, rfl⟩, ?_, by decide +kernel⟩
  · intro p h
    simp only [List.mem_cons, List.not_mem_nil, or_false] at h
    rcases h with rfl | rfl <;> exact ⟨by decide +kernel, by decide +kernel⟩
  · intro p h
    simp only [List.mem_cons, List.not_mem_nil, or_false] at h
    rcases h with rfl | rfl <;> decide +kernel
  · intro st h
    simp only [List.mem_cons, List.not_mem_nil, or_false] at h
    rcases h with rfl | rfl | rfl | rfl | rfl <;> decide +kernel
  · intro p h
    simp only [List.mem_cons, List.not_mem_nil, or_false] at h
    rcases h with rfl | rfl | rfl | rfl | rfl <;> decide +kernel

/-! ## Ports and agents -/

/-- A machine with port 4 in a state. -/
def wPort (p : Nat) (st : PortSt) (resends : Nat) : State :=
  { wS with link := { wS.link with ports := [(p, { Port.init with st := st, resends := resends, nextKey := some 1, ide := 2 })] } }

/-- PortsLinksAndAgents, ports: the first and the last port in each state, with 7 and with 8 resends, and with an agent routed through it or not. -/
theorem wit_PortStates :
    (∀ p ∈ [0, 11], ∀ st ∈ [PortSt.down, .training, .up, .degraded, .fenced], ∀ n ∈ [7, 8], let s := wPort p st n
      p < 12 ∧ (portOf s p).st = st ∧ (portOf s p).resends = n ∧ s.boot.st ≠ .recovery ∧ ∀ e ∈ s.link.agents, e.2.live = true → agentPort e.2 ≠ p)
    ∧ (let s0 := wPort 4 .fenced 0
       let s := { s0 with link := { s0.link with agents := [(200, { kind := .peer, route := 4, live := true })] } }
       (portOf s 4).st = .fenced ∧ ∃ e ∈ s.link.agents, e.2.live = true ∧ agentPort e.2 = 4)
    ∧ (let s := { wPort 4 .down 0 with boot := { wS.boot with st := .recovery } }
       s.boot.st = .recovery ∧ (portOf s 4).st = .down) := by
  refine ⟨?_, ⟨by decide, _, .head _, rfl, rfl⟩, rfl, rfl⟩
  intro p hp st hs n hn
  refine ⟨?_, ?_, ?_, ?_, fun e h => absurd h List.not_mem_nil⟩ <;> simp only [List.mem_cons, List.not_mem_nil, or_false] at hp hs hn <;>
    rcases hp with rfl | rfl <;> rcases hs with rfl | rfl | rfl | rfl | rfl <;> rcases hn with rfl | rfl <;> decide

/-- PortsLinksAndAgents, links and agents: a running Glinor port, a flit in sequence and one that is not; a CXL port of a session in each of its keys' states;
decoders that keep the map, that lie too low, of no size and that meet another; a place for an agent; agents live and lost. -/
theorem wit_LinksAndAgents :
    (∀ p ∈ [4, 11], ∀ st ∈ [PortSt.up, .degraded], (portOf (wPort p st 0) p).st = st ∧ (portOf (wPort p st 0) p).nextKey = some 1
      ∧ (portOf (wPort p st 0) p).rxNext = 0)
    ∧ (let f : Flit := { ty := 2, cls := 6, seq := 0, ack := 0, nak := false, credits := 3, agent := 0, good := true }
       f.good = true ∧ f.seq = (portOf (wPort 4 .up 0) 4).rxNext ∧ (f.ty ≠ 1 ∨ retiredId (wPort 4 .up 0) f.agent.toNat = false)
        ∧ { f with seq := 1 }.seq ≠ (portOf (wPort 4 .up 0) 4).rxNext)
    ∧ (let s := { wPort 3 .up 0 with boot := { wS.boot with spdm := [(3, .session)] } }
       Map.find s.boot.spdm 3 = some .session ∧ (portOf s 3).ide = 2)
    ∧ (let e : Decoder := { enable := true, base := 2 ^ 12, size := 1 }
       let s := { wS with link := { wS.link with decoders := [(7, e)] } }
       (∀ x ∈ s.link.decoders, x.1 ≠ 0 → x.2.enable = true → decodersMeet x.2 { enable := true, base := 2 ^ 11, size := 2 ^ 11 } = false)
        ∧ ¬ (2 ^ 11 : BitVec 23).toNat < 2 ^ 11 ∧ (2 ^ 11 - 1 : BitVec 23).toNat < 2 ^ 11
        ∧ ∃ x ∈ s.link.decoders, x.1 ≠ 0 ∧ x.2.enable = true ∧ decodersMeet x.2 { enable := true, base := 2 ^ 11, size := 2 ^ 11 + 1 } = true)
    ∧ (wS.link.nextAgent < 4096 ∧ wS.boot.st ≠ .recovery ∧ (27 + 16 : Nat) % 16 < 12)
    ∧ ∀ b ∈ [true, false], let s := { wS with link := { wS.link with agents := [(200, { kind := .peer, route := 4, live := b })] } }
      ∃ a, Map.find s.link.agents 200 = some a ∧ a.live = b ∧ a.kind = .peer := by
  refine ⟨?_, by decide, ⟨rfl, rfl⟩, ⟨by decide, by decide, by decide, _, .head _, by decide, rfl, by decide⟩, by decide, fun b _ => ⟨_, rfl, rfl, rfl⟩⟩
  intro p hp st hs
  simp only [List.mem_cons, List.not_mem_nil, or_false] at hp hs
  rcases hp with rfl | rfl <;> rcases hs with rfl | rfl <;> decide

/-! ## Management, boot and soft errors -/

/-- ManagementAndSpdm, commands: a request on an MCTP path, and the mailbox's, with arguments that are right and wrong. -/
theorem wit_ManagementRequests :
    (∀ p ∈ [0, 1], ({ path := p, tag := 7, arg0 := 1, arg1 := 1, arg2 := 0 } : MgmtReq).path < 2)
    ∧ (∀ cmd, 1 ≤ cmd → cmd ≤ 8 → let s := { wS with mgmt := { wS.mgmt with go := true, req := BitVec.ofNat 128 (cmd + 600 * 2 ^ 32) } }
       s.mgmt.go = true ∧ s.boot.st ≠ .recovery ∧ s.mgmt.req.toNat % 256 = cmd ∧ s.mgmt.req.toNat / 2 ^ 32 % 2 ^ 32 = 600)
    ∧ (600 ≤ frameLimit wS ∧ ¬ 2 ^ 22 ≤ frameLimit wS) := by
  refine ⟨?_, ?_, by decide, by decide⟩
  · intro p h
    simp only [List.mem_cons, List.not_mem_nil, or_false] at h
    rcases h with rfl | rfl <;> decide
  · intro cmd h1 h8
    have : cmd = 1 ∨ cmd = 2 ∨ cmd = 3 ∨ cmd = 4 ∨ cmd = 5 ∨ cmd = 6 ∨ cmd = 7 ∨ cmd = 8 := by omega
    rcases this with rfl | rfl | rfl | rfl | rfl | rfl | rfl | rfl <;> exact ⟨rfl, by decide⟩

/-- A machine in a boot state with an image in each slot whose check passes or fails. -/
def wBoot (st : BootSt) (a b : Bool) : State :=
  let img (ok : Bool) (v : Nat) : FwImage := { ecdsaOk := ok, lmsOk := true, secVersion := v }
  { wS with boot := { wS.boot with st := st, flash := [(0, img a 3), (1, img b 2)], fuseVersion := 2 } }

/-- BootModeAndSoftErrors, the boot: an image to start in slot 0, in slot 1 alone, and in none; each boot state; a change of frequency at both ends. -/
theorem wit_MailboxAndBoot :
    (∀ p ∈ [(true, true), (false, true), (false, false)], let s := wBoot .operational p.1 p.2
      imageOk s 0 = p.1 ∧ imageOk s 1 = p.2 ∧ (∃ a, Map.find s.boot.flash 0 = some a) ∧ ∃ b, Map.find s.boot.flash 1 = some b)
    ∧ (∀ st ∈ [BootSt.firmware, .operational, .recovery], (wBoot st true true).boot.st = st ∧ evicting (wBoot st true true) = false)
    ∧ (let s := { wExt (wDir .m) [(l1Key 5 0x4000, wLineIn .miN)] with boot := { wS.boot with st := .firmware } }
       s.boot.st = .firmware ∧ evicting s = true)
    ∧ (1200 % 100 = 0 ∧ 1200 ≠ wS.mgmt.freqMHz)
    ∧ (let s := { wS with mgmt := { wS.mgmt with freqMHz := 1200 } }
       3300 % 100 = 0 ∧ 3300 ≠ s.mgmt.freqMHz) := by
  refine ⟨?_, fun st _ => ⟨rfl, rfl⟩, ⟨rfl, by decide +kernel⟩, by decide, by decide⟩
  intro p h
  simp only [List.mem_cons, List.not_mem_nil, or_false] at h
  rcases h with rfl | rfl | rfl <;> exact ⟨rfl, rfl, ⟨_, rfl⟩, _, rfl⟩

/-- BootModeAndSoftErrors, errors and the mode: a line that a core holds dirty and one that none does; a scratch byte; a line of an open accumulator and one of
none; an eviction in flight and none. -/
theorem wit_SoftErrorsAndMode :
    (∀ p ∈ [(L1St.m, true), (.s, false)], let s := wExt (wDir .m) [(l1Key 5 0x4000, wLineIn p.1)]
      haloOwner s 0x4000 = none ∧ holdsDirty s 5 0x4000 = p.2 ∧ l1Of s 5 0x4000 = some (wLineIn p.1))
    ∧ l1Of wS 5 0x4000 = none ∧ (holdsDirty wS 5 0x4000 = false ∧ haloOwner wS 0x4000 = none)
    ∧ (let s := withGroup wS { placeGroup with scratchBytes := 8 }
       ∃ g, groupOf s 0 = some g ∧ 7 < g.scratchBytes ∧ 7 ∉ g.bad)
    ∧ (let s := { wS with accs := [(0, wAcc .opened)] }
       s.accs.find? (fun e => (e.2.st == .opened || e.2.st == .draining) && accHas e.2 0x101F80) = some (0, wAcc .opened)
        ∧ ∀ e ∈ s.accs, accHas e.2 0x102000 = false)
    ∧ evicting (wExt (wDir .m) [(l1Key 5 0x4000, wLineIn .miN)]) = true ∧ evicting wS = false := by
  refine ⟨?_, rfl, by decide +kernel, ⟨_, rfl, by decide, List.not_mem_nil⟩, ⟨by decide +kernel, ?_⟩, by decide +kernel, by decide +kernel⟩
  · intro p h
    simp only [List.mem_cons, List.not_mem_nil, or_false] at h
    rcases h with rfl | rfl <;> exact ⟨by decide +kernel, by decide +kernel, rfl⟩
  · intro e h
    rcases List.mem_singleton.1 h with rfl
    decide +kernel

/-- ManagementAndSpdm, SPDM: a path in each state. -/
theorem wit_SpdmRequests : ∀ st ∈ [SpdmSt.start, .versioned, .capable, .negotiated, .exchanged, .session],
    spdmSt { wS with boot := { wS.boot with spdm := [(4, st)] } } 4 = st := fun _ _ => rfl

/-! ## Steps and encodings -/

/-- A machine whose next turn runs the word given, with the second word of an `SLI` behind it. -/
def wNext (nbits w : Nat) : State := State.reset.withFetchWord nbits w

/-- The checks of a scalar turn over the state a fetch leaves. -/
def wScalarRuns (nbits w : Nat) : Bool :=
  let s := wNext nbits w
  let s1 := { nextTime { s with turns := [] } with cur := { core := 0, slot := 0, b := false } }
  let (t, r) := access s1 wW.core wW.slot (ctxIdOf s1 wW.gid) wW.priv placeFrag.pc.toNat 4 .fetch false
  match r with
  | .ok key =>
    let long := decide (numOf (lookBytes t key 4) / 2 ^ 26 = 0x3E)
    let (u, l) := if long then fetchParts t wW (placeFrag.pc.toNat + 4) 1 else (t, .ok [])
    (match l with
     | .ok l2 => (match decodeScalarBytes (lookBytes t key 4 ++ l2) with
       | .ok i => long == decide (nbits = 64) && (namedUse i).within (scalarBound wW) wW.valloc && !heldBack u wW (useOf i) && !fenceHolds wW i
           && !(pushFirst i && fenceWaits u wW i) && !(pushStep u 0 (pushFirst i)).2
       | .error _ => false)
     | .error _ => false)
  | _ => false
/-- The checks of a lane turn. -/
def wLaneRuns (w : Nat) : Bool :=
  let s := wNext 96 w
  let v := placeWave true
  let s1 := { nextTime { s with turns := [] } with cur := { core := 0, slot := 0, b := false } }
  match fetchParts s1 v (laneAddr v { lcidx := 0, len := 1, b := false } v.headOff) 3 with
  | (u, .ok l) => (match decodeLaneBytes l with
    | .ok i => (useOf i).within (scalarBound v) v.valloc && !(meets (useOf i).vw (mmaReads v) || laneHeld v i) && !recordsFull v i
        && !pipeFull u v i && !finderFull u 0 i && !(pushStep u 0 (lanePushFirst i)).2
    | .error _ => false)
  | (_, .error _) => false

/-- StepRunsDecoded: a turn of a fragment at a word, at `SLI` and its second word, a turn of a lane word, and a device event's. -/
theorem wit_StepRunsDecoded :
    (∀ p ∈ [(32, 0x40141BFD), (64, 0x12345678F81C0000)], (wNext p.1 p.2).turns = .s 0 0 false :: []
      ∧ (let s1 := { nextTime { wNext p.1 p.2 with turns := [] } with cur := { core := 0, slot := 0, b := false } }
         Issues s1 wW placeFrag ∧ fragRuns wW placeFrag = true ∧ placeFrag.wait ≠ .waitaOut ∧ placeFrag.wait ≠ .dogOut ∧ dueFault s1 wW false = none ∧ placeFrag.pc.toNat % 4 = 0)
      ∧ wScalarRuns p.1 p.2 = true)
    ∧ ((wNext 96 0x0803020283000A0000000000).turns = .l 0 0 :: [] ∧ waveAt (wNext 96 0x0803020283000A0000000000) 0 0 = some (placeWave true)
      ∧ (placeWave true).strips = { lcidx := 0, len := 1, b := false } :: [] ∧ laneRuns (placeWave true) = true
      ∧ wLaneRuns 0x0803020283000A0000000000 = true)
    ∧ ({ State.reset with turns := [.ev .mailboxDoneClear] }.turns = .ev .mailboxDoneClear :: [] ∧ isEvent .mailboxDoneClear = true) := by
  refine ⟨?_, ⟨rfl, rfl, rfl, by decide +kernel, by decide +kernel⟩, rfl, by decide⟩
  intro p h
  simp only [List.mem_cons, List.not_mem_nil, or_false] at h
  rcases h with rfl | rfl <;>
    exact ⟨rfl, ⟨⟨rfl, rfl⟩, by decide +kernel, by decide, by decide, by decide +kernel, by decide⟩, by decide +kernel⟩

/-- EncodedWordsDecode and DecodedWordsAreExact: a word of each form that keeps R40 and has an encoding, which decodes. -/
theorem wit_EncodedWordsDecode :
    (wellFormed (.saddImm 5 6 0x3FD) = true ∧ encode (.saddImm 5 6 0x3FD) = some (.word 0x40141BFD)
      ∧ decodeScalar 0x40141BFD 0 = .ok (.saddImm 5 6 0x3FD))
    ∧ (wellFormed (.sli .w32 7 0x12345678) = true ∧ encode (.sli .w32 7 0x12345678) = some (.long 0xF81C0000 0x12345678)
      ∧ decodeScalar 0xF81C0000 0x12345678 = .ok (.sli .w32 7 0x12345678))
    ∧ (let x : LWord := { wL .f32 with guard := 3, vd := 4, va := 5, vb := 6, vc := 0 }
       wellFormed (.fadd x) = true ∧ encode (.fadd x) = some (.lane 0x0803020283000A0000000000)
        ∧ decodeLane 0x0803020283000A0000000000 = .ok (.fadd x)) := by
  exact ⟨by decide, by decide, by decide⟩

/-! ## Ill-formed terms (R40) -/

/-- Scalar words: a register past `s191`, a pair that is odd, one past `s191`; m0 as a destination; an order, a scope, a count and a
register block out of range; a field that a form does not use. -/
theorem test_illFormed_scalar : ∀ i ∈ [Instr.saddImm 192 6 0, .sadd .i64 11 10 12, .sadd .i64 10 13 12, .ret 192, .mand 0 1 2, .mset 0 5,
      .sldOrdered 12 8 .dev .rel false, .sstOrdered 12 8 .dev .acq false, .waita 9 20 .wave, .wake 20 .clus, .tadd 4 6 0, .vgive 4 0,
      .vgive 4 32, .vclaim 4 0, .evpop 4 0, .evpop 192 0, .evwait 188 0, .trayflush 4 5 true],
    wellFormed i = false := by decide +kernel

/-- An F32 word with a field changed. -/
def iL (f : LWord → LWord) : Instr := .fadd (f { wL .f32 with vc := 0 })

/-- L-format words: a type, a modifier, a source that the entry does not have, a scalar past `s191`, a feed past f3, an immediate with a
field; an odd pair of a 64-bit type; rounding and bits behind it; saturation, rounding and a second type where there is none; a
mask as a destination or a source, a predicate and a uniform operand out of range; the conditions of single entries. -/
theorem test_illFormed_lane : wellFormed (iL id) = true ∧ ∀ i ∈ [
      iL (fun x => { x with ty := .i32 }), iL (fun x => { x with vc := 1 }), iL (fun x => { x with selC := .scalar }),
      iL (fun x => { x with selA := .scalar, va := 192 }), iL (fun x => { x with selB := .feed, vb := 4 }), iL (fun x => { x with selB := .imm }),
      iL (fun x => { x with ty := .f64, vd := 1, va := 2, vb := 4 }), iL (fun x => { x with ty := .f64, vd := 2, va := 3, vb := 4 }),
      iL (fun x => { x with imm := 5 }), iL (fun x => { x with imm := 0x200 }), iL (fun x => { x with imm := 0x10 }),
      .vadd { wL .i32 with vc := 0, mods := 1 }, .vadd { wL .i32 with vc := 0, imm := 1 }, .vmulh { wL .i32 with vc := 0, imm := 8 },
      .vcmp { wL .i32 with vd := 0, vc := 0 }, .vcmp { wL .i32 with vd := 16, vc := 0 }, .vcmp { wL .i32 with vc := 6 },
      .vsel { wL .i32 with vc := 16 }, .vli { wL .i32 with vb := 0, vc := 0 }, .vaddc { wL .i32 with vc := 0 },
      .vreadl { wL .i32 with vd := 192, selB := .imm, vb := 0, vc := 0 }, .vreadl { wL .i32 with vc := 0 }, .fdot2 { wL .f32 with imm := 0 },
      .cvt { wL .f32 with vb := 0, vc := 0, selA := .imm, va := 0 }, .cvtef { wL .f16 with vb := 0, vc := 1, imm := 0x90 }],
    wellFormed i = false := by decide +kernel

/-- Pairs: an integer half of a float type, one with a sign, a move with a second source, a scalar past `s191`. -/
theorem test_illFormed_pair :
    let h : PHalf := { op := .vadd, guard := 0, stop := false, vd := 1, va := 2, vb := 3, ty := .i32, sel := .reg, flags := 0 }
    wellFormed (.lanePair h h) = true ∧ ∀ x ∈ [{ h with ty := .f32 }, { h with flags := 1 }, { h with op := .vmov },
      { h with sel := .scalar, vb := 192 }, { h with op := .fadd, ty := .i32 }], wellFormed (.lanePair h x) = false := by decide +kernel

/-- A load with a field changed. -/
def iX (f : LXWord → LXWord) : Instr := .ld (f { wX .i32 with nov := false, vb := 0 })

/-- LX-format words: the type E8, a vector offset that is not used, an odd base pair and one past `s191`, an order, a scope, a claim and an
operation out of range, a register that a form does not use, an odd pair; and the fields of the units' words. -/
theorem test_illFormed_extended : wellFormed (iX id) = true ∧ ∀ i ∈ [
      iX (fun x => { x with ty := .e8 }), iX (fun x => { x with nov := true }), iX (fun x => { x with sbase := 5 }), iX (fun x => { x with sbase := 192 }),
      iX (fun x => { x with order := .rel }), iX (fun x => { x with vb := 1 }), iX (fun x => { x with claim := true }), iX (fun x => { x with aux := 1 }),
      iX (fun x => { x with ty := .i64, vd := 1 }), .st { wX .i32 with va := 0, vd := 1 }, .st { wX .i64 with va := 0, vd := 0, claim := true },
      .lds { wX .i32 with va := 0, vb := 0 }, .atom { wX .f32 with va := 0, aux := 3 }, .red { wX .i32 with va := 0, vd := 0, aux := 6 },
      .pref { wX .i32 with va := 0, vd := 0, vb := 0 }, .sample { wX .i32 with vb := 0, nov := false, scope := .wave },
      .hitget { wX .f32 with vb := 0, nov := false, scope := .wave, sbase := 0, imm24 := 4 },
      .mma { wX .f16 with vd := 0, nov := false, scope := .wave, aux := 0 }, .vmm { wX .f16 with scope := .wave, vb := 0, imm24 := 0 },
      .trayput { wX .n32 with vd := 0, nov := false, scope := .wave, sbase := 0, imm24 := 4 }],
    wellFormed i = false := by decide +kernel

/-! ## Words written out from the encodings (R24 to R37) -/

/-- R25 to R31: a word of each scalar family. -/
theorem test_decode_scalar : ∀ p ∈ [(0x00282832, Instr.sadd .i64 10 10 12), (0x40141BFD, .saddImm 5 6 0x3FD), (0x701014F0, .sbfx 4 5 7 16),
      (0x7C04080E, .ssel 1 2 3 .lt), (0x80BFFFFB, .bc .ne 0x3FFFFB), (0xB004080C, .mand 1 2 3), (0xB4240C03, .mpop 9 3), (0xF4000005, .svc 5),
      (0xD00C3A28, .barrx 3 14 5), (0xD0081008, .binit 2 4 1), (0xD0140098, .barr 5 3), (0xD0181518, .bwait 6 5 3), (0xD01C0190, .bsync 7 2),
      (0xD4245180, .waita 9 20 .dev), (0xC0302010, .sld 12 8 16), (0xC8182000, .sldk 6 8 0), (0x98000000, .exit)],
    decodeScalar (BitVec.ofNat 32 p.1) 0 = .ok p.2 := by decide +kernel

/-- R27: `SLI` with its second word, in the order that memory holds them. -/
theorem test_decode_sli : decodeTableWord 64 0x12345678F81C0000 = some (.sli .w32 7 0x12345678) := by decide +kernel

/-! ## Steps -/

/-- A scalar register after the word's step. -/
def stepReg (nbits w : Nat) (regs : List (Nat × Word)) (r : Nat) : Option Word :=
  let s := wNext nbits w
  match step { s with waves := s.waves.map (fun e => (e.1, regs.foldl (fun v x => wrS v x.1 x.2) e.2)) } with
  | .next t => (waveAt t 0 0).map (fun v => rdS v r)
  | _ => none

/-- R182: -3 is added to 2. -/
theorem test_sadd_imm : stepReg 32 0x40141BFD [(6, 2)] 5 = some 0xFFFFFFFF := by decide +kernel
/-- R181: a 64-bit sum carries into the pair's upper register. -/
theorem test_sadd_wide : stepReg 32 0x00282832 [(10, 0xFFFFFFFF), (12, 1)] 11 = some 1 := by decide +kernel
/-- R27: `SLI` writes its second word. -/
theorem test_sli : stepReg 64 0x12345678F81C0000 [] 7 = some 0x12345678 := by decide +kernel

/-- R215: 1.5 + 2.25 in lane 31 of a lane word's step. -/
theorem test_fadd :
    (let s := wNext 96 0x0803020283000A0000000000
     let lane (x : Word) : VReg := laneSet 0 31 x
     match step { s with waves := s.waves.map (fun e => (e.1, { e.2 with vregs := [(5, lane 0x3FC00000), (6, lane 0x40100000)], masks := [(3, 0x80000000)] })) } with
     | .next t => (waveAt t 0 0).map (fun v => rdElem v 4 31)
     | _ => none) = some 0x40700000 := by decide +kernel

end Sys2Proof.Tests
end

section
/-! PROOFS. Queue registers and slots (R2, R117, R118, R122, R123, R125 to R127, R419). -/

namespace Sys2Proof.Machine

/-! ## The table of queues -/

@[simp] theorem queueOf_putQueue_self (s : State) (q : Nat) (x : Queue) : queueOf (putQueue s q x) q = x :=
  Tab.get_set_self _ _ _ _

theorem queueOf_putQueue_ne (s : State) {p q : Nat} (x : Queue) (h : p ≠ q) : queueOf (putQueue s q x) p = queueOf s p :=
  Tab.get_set_ne _ _ _ h

/-- A step that writes one queue's registers, and nothing else, is a queue event. -/
theorem queueBecomes_of_put {i : Instr} {s : State} {q : Nat} {x : Queue} (h : exec i s = .next (putQueue s q x)) :
    QueueBecomes i s q x :=
  ⟨_, h, queueOf_putQueue_self s q x, fun _ hp => queueOf_putQueue_ne s x hp, rfl⟩

/-- A queue with work left at its head does not become `IDLE`. -/
theorem queueIdle_of_work {s : State} {q : Nat} (h : (queueOf s q).head ≠ (queueOf s q).tail) : queueIdle s q = s := by
  simp [queueIdle, h]

/-! ## The enable bit (R118) -/

section Enable

variable {s : State} {q : Nat} (hq : q < 1024) (hd : (queueOf s q).st = .disabled) (hb : s.boot.st = .operational)
include hq hd hb

theorem exec_queueEnableSet_unserved
    (hc : ctxOf s (queueOf s q).ctxId = none ∨ ∃ c, ctxOf s (queueOf s q).ctxId = some c ∧ c.st = .quarantined) :
    exec (.queueEnableSet q) s = .next (putQueue s q { queueOf s q with enable := true, st := .error, err := 2 }) := by
  obtain hc | ⟨c, hc, hst⟩ := hc
  · simp [execQueueEnableSet, hq, hd, hb, hc]
  · simp [execQueueEnableSet, hq, hd, hb, hc, hst]

theorem exec_queueEnableSet_placed {c : Ctx} (hc : ctxOf s (queueOf s q).ctxId = some c) (hst : c.st ≠ .quarantined)
    (hs : slideOk s q (queueOf s q) c.desc.saveBlocks = true) :
    exec (.queueEnableSet q) s = .next (putQueue s q { queueOf s q with enable := true, st := .idle, err := 0 }) := by
  simp [execQueueEnableSet, hq, hd, hb, hc, hst, hs]

theorem exec_queueEnableSet_misplaced {c : Ctx} (hc : ctxOf s (queueOf s q).ctxId = some c) (hst : c.st ≠ .quarantined)
    (hs : slideOk s q (queueOf s q) c.desc.saveBlocks = false) :
    exec (.queueEnableSet q) s = .next (putQueue s q { queueOf s q with enable := true, st := .error, err := 5 }) := by
  simp [execQueueEnableSet, hq, hd, hb, hc, hst, hs]

end Enable

/-- A killed queue has no packet in flight. -/
@[simp] theorem killQueue_started (s : State) (q : Nat) : (queueOf (killQueue s q) q).started = [] := by
  simp [killQueue]

/-- A killed queue's darkslide is discarded. -/
@[simp] theorem killQueue_slides (s : State) (q : Nat) : (queueOf (killQueue s q) q).slides = Darkslide.none := by
  simp [killQueue]

theorem exec_queueEnableClear_error {s : State} {q : Nat} (h : (queueOf s q).st = .error) :
    exec (.queueEnableClear q) s = .next (putQueue (killQueue s q) q
      { queueOf (killQueue s q) q with enable := false, st := .disabled, head := 0, tail := 0 }) := by
  simp [execQueueEnableClear, h]

theorem exec_queueEnableClear_live {s : State} {q : Nat} (hd : (queueOf s q).st ≠ .disabled) (he : (queueOf s q).st ≠ .error) :
    exec (.queueEnableClear q) s = .next (putQueue (killQueue s q) q
      { queueOf (killQueue s q) q with
          enable := false, st := .disabled, err := if workPending s q = true then 4 else (queueOf (killQueue s q) q).err }) := by
  cases hw : workPending s q <;> simp [execQueueEnableClear, hd, he, hw]

/-- Clearing enable kills what the queue holds and leaves it `DISABLED`. -/
theorem queueEnableClear_disables {s : State} {q : Nat} (hd : (queueOf s q).st ≠ .disabled) :
    ∃ t, exec (.queueEnableClear q) s = .next t ∧ (queueOf t q).st = .disabled
      ∧ (queueOf t q).enable = false ∧ (queueOf t q).started = [] ∧ (queueOf t q).slides = Darkslide.none
      ∧ ((queueOf s q).st = .error → (queueOf t q).head = 0 ∧ (queueOf t q).tail = 0)
      ∧ ((queueOf s q).st ≠ .error → workPending s q = true → (queueOf t q).err = 4)
      ∧ t = { killQueue s q with queues := t.queues } := by
  by_cases he : (queueOf s q).st = .error
  · exact ⟨_, exec_queueEnableClear_error he, by simp, by simp, by simp, by simp, by simp, fun h => absurd he h, rfl⟩
  · exact ⟨_, exec_queueEnableClear_live hd he, by simp, by simp, by simp, by simp, fun h => absurd h he,
      fun _ hw => by simp [hw], rfl⟩

/-! ## The doorbell and the other registers (R117, R118, R419) -/

theorem exec_queueDoorbell_recovery {s : State} (q : Nat) (n : Word) (h : s.boot.st = .recovery) :
    exec (.queueDoorbell q n) s = .next s := by
  simp [execQueueDoorbell, h]

theorem exec_registerWrite_recovery {s : State} (r : RegField) (v : BitVec 128) (h : s.boot.st = .recovery) :
    exec (.registerWrite r v) s = .next s := by
  simp [execRegisterWrite, h]

theorem exec_registerWrite_offered {s : State} (r : RegField) (v : BitVec 128) (h : s.boot.st ≠ .recovery) :
    exec (.registerWrite r v) s = writeReg r v s := by
  simp [execRegisterWrite, h]

section Doorbell

variable {s : State} {q : Nat} {n : Word} (hq : q < 1024) (hb : s.boot.st ≠ .recovery)
include hq hb

theorem exec_queueDoorbell_tail (h : (queueOf s q).st ≠ .idle ∨ n = (queueOf s q).head) :
    exec (.queueDoorbell q n) s = .next (putQueue s q { queueOf s q with tail := n }) := by
  have hidle : ¬((queueOf s q).st = .idle ∧ n ≠ (queueOf s q).head) := by tauto
  simp [execQueueDoorbell, hq, hb, hidle]

theorem exec_queueDoorbell_ready (hi : (queueOf s q).st = .idle) (hn : n ≠ (queueOf s q).head) :
    exec (.queueDoorbell q n) s = .next (queueReady (putQueue s q { queueOf s q with tail := n }) q) := by
  simp [execQueueDoorbell, hq, hb, hi, hn]

end Doorbell

theorem queueOf_queueReady_ne (s : State) {p q : Nat} (h : p ≠ q) : queueOf (queueReady s q) p = queueOf s p :=
  queueOf_putQueue_ne _ _ h

/-- A tail that differs from head makes an `IDLE` queue `READY`, last in the order of its class. -/
theorem queueDoorbell_readies {s : State} {q : Nat} {n : Word} (hq : q < 1024) (hb : s.boot.st ≠ .recovery)
    (hi : (queueOf s q).st = .idle) (hn : n ≠ (queueOf s q).head) :
    ∃ t, exec (.queueDoorbell q n) s = .next t
      ∧ queueOf t q = { queueOf s q with tail := n, st := .ready, stamp := s.stamp, promoted := false, readyAt := s.clock }
      ∧ (∀ p, p ≠ q → queueOf t p = queueOf s p) ∧ t = { s with queues := t.queues, stamp := s.stamp + 1 } := by
  refine ⟨_, exec_queueDoorbell_ready hq hb hi hn, by simp [queueReady], fun p hp => ?_, rfl⟩
  rw [queueOf_queueReady_ne _ hp, queueOf_putQueue_ne _ _ hp]

/-- A locked field takes a write while the queue is `DISABLED`. -/
theorem lockedField_disabled {s : State} {q : Nat} (hq : q < 1024) (hd : (queueOf s q).st = .disabled) (f : Queue → Queue) :
    lockedField s q f = putQueue s q (f (queueOf s q)) := by
  simp [lockedField, hq, hd]

/-- A locked field takes no write in any other state. -/
theorem lockedField_enabled {s : State} {q : Nat} (hd : (queueOf s q).st ≠ .disabled) (f : Queue → Queue) :
    lockedField s q f = s := by
  simp [lockedField, hd]

/-- Bit 0 of what is written. -/
theorem bit_toNat_zero {n : Nat} (v : BitVec n) : bit v.toNat 0 = v.getLsbD 0 := by
  rw [Laws.getLsb_div]; rfl

section Registers

variable {s : State} {q : Nat} (v : BitVec 128) (hq : q < 1024) (hb : s.boot.st ≠ .recovery)
include hq hb

/-- Each locked field takes the low bits of what is written while its queue is `DISABLED`. -/
theorem registerWrite_disabled (hd : (queueOf s q).st = .disabled) :
    let x := queueOf s q
    QueueBecomes (.registerWrite (.qbase q) v) s q { x with qbase := v.toNat % 2 ^ 57 }
    ∧ QueueBecomes (.registerWrite (.qclass q) v) s q { x with cls := v.toNat % 4 }
    ∧ QueueBecomes (.registerWrite (.qctx q) v) s q { x with ctxId := v.toNat % 4096 }
    ∧ QueueBecomes (.registerWrite (.qsize q) v) s q { x with sizeOrder := v.toNat % 16 }
    ∧ QueueBecomes (.registerWrite (.qsaveOff q) v) s q { x with saveOff := BitVec.ofNat 32 v.toNat }
    ∧ QueueBecomes (.registerWrite (.qsaveLen q) v) s q { x with saveLen := BitVec.ofNat 32 v.toNat } := by
  have locked {r : RegField} (f : Queue → Queue) (h : writeReg r v s = .next (lockedField s q f)) :
      QueueBecomes (.registerWrite r v) s q (f (queueOf s q)) :=
    queueBecomes_of_put (by rw [exec_registerWrite_offered r v hb, h, lockedField_disabled hq hd])
  exact ⟨locked (fun x => { x with qbase := v.toNat % 2 ^ 57 }) rfl, locked (fun x => { x with cls := v.toNat % 4 }) rfl,
    locked (fun x => { x with ctxId := v.toNat % 4096 }) rfl, locked (fun x => { x with sizeOrder := v.toNat % 16 }) rfl,
    locked (fun x => { x with saveOff := BitVec.ofNat 32 v.toNat }) rfl, locked (fun x => { x with saveLen := BitVec.ofNat 32 v.toNat }) rfl⟩

theorem registerWrite_admin : QueueBecomes (.registerWrite (.qadmin q true) v) s q { queueOf s q with admin := v.getLsbD 0 } :=
  queueBecomes_of_put (by rw [exec_registerWrite_offered _ v hb]; simp [writeReg, hq, bit_toNat_zero])

end Registers

theorem exec_registerWrite_locked {s : State} {q : Nat} (v : BitVec 128) (hb : s.boot.st ≠ .recovery)
    (hd : (queueOf s q).st ≠ .disabled) {r : RegField}
    (hr : r ∈ [RegField.qbase q, .qclass q, .qctx q, .qsize q, .qsaveOff q, .qsaveLen q]) :
    exec (.registerWrite r v) s = .next s := by
  rw [exec_registerWrite_offered r v hb]
  simp only [List.mem_cons, List.not_mem_nil, or_false] at hr
  rcases hr with rfl | rfl | rfl | rfl | rfl | rfl <;> simp only [writeReg, lockedField_enabled hd]

/-! ## Taking an active slot (R118, R122, R127) -/

/-- A queue's registers once it has taken an active slot: it goes on at its darkslide's next_packet. -/
def resumedQueue (s : State) (q : Nat) : Queue :=
  let x := queueOf s q
  { x with st := .active, promoted := false, since := s.clock,
           slides := if x.slides.groups = [] then Darkslide.none else x.slides,
           head := if x.slides.valid = true then (headerRead s q x.slides).getD x.head else x.head }

/-- The queue may be activated, and no other that may comes before it (R122). -/
structure FirstInLine (s : State) (q : Nat) : Prop where
  can : canActivate s (queueOf s q) = true
  first : ∀ e ∈ s.queues, e.1 ≠ q → (canActivate s e.2 && queueBefore e.2 (queueOf s q)) = false

theorem FirstInLine.none_before {s : State} {q : Nat} (h : FirstInLine s q) :
    s.queues.any (fun e => e.1 != q && canActivate s e.2 && queueBefore e.2 (queueOf s q)) = false := by
  rw [List.any_eq_false]
  intro e he hcontra
  simp only [Bool.and_assoc, Bool.and_eq_true (e.1 != q), bne_iff_ne] at hcontra
  exact absurd hcontra.2 (by simp [h.first e he hcontra.1])

section Activate

variable {s : State} {q : Nat} {c : Ctx} (hf : FirstInLine s q) (hc : ctxOf s (queueOf s q).ctxId = some c)
include hf hc

/-- A darkslide that is in order, of a queue with work, and a context that holds a resident slot. -/
theorem exec_queueActivate_resident (hok : (queueOf s q).slides.valid = false ∨ slideBroken s q = false)
    (hw : (resumedQueue s q).head ≠ (resumedQueue s q).tail) (hst : c.st = .bound ∨ c.st = .running) :
    exec (.queueActivate q) s = .next (putQueue s q (resumedQueue s q)) := by
  have hgood : ¬((queueOf s q).slides.valid = true ∧ slideBroken s q = true) := by
    rcases hok with h | h <;> simp [h]
  have hidle : queueIdle (putQueue s q (resumedQueue s q)) q = putQueue s q (resumedQueue s q) :=
    queueIdle_of_work (by simpa using hw)
  rcases hst with hst | hst <;>
    simpa [execQueueActivate, hf.can, hf.none_before, hc, hst, hgood, resumedQueue] using hidle

/-- As above, of a context that takes the lowest free resident slot first (R118). -/
theorem exec_queueActivate_binds (hok : (queueOf s q).slides.valid = false ∨ slideBroken s q = false)
    (hw : (resumedQueue s q).head ≠ (resumedQueue s q).tail) (hst : c.st = .created ∨ c.st = .switched) {n : Nat}
    (hn : freeResident s = some n) :
    exec (.queueActivate q) s = .next (putQueue
      { s with ctxs := Map.insert s.ctxs (queueOf s q).ctxId { c with st := .bound, slot := some n } } q (resumedQueue s q)) := by
  have hgood : ¬((queueOf s q).slides.valid = true ∧ slideBroken s q = true) := by
    rcases hok with h | h <;> simp [h]
  have hbind : bindCtx s (queueOf s q).ctxId
      = some { s with ctxs := Map.insert s.ctxs (queueOf s q).ctxId { c with st := .bound, slot := some n } } := by
    simp [bindCtx, hc, hn]
  have hidle (t : State) : queueIdle (putQueue t q (resumedQueue s q)) q = putQueue t q (resumedQueue s q) :=
    queueIdle_of_work (by simpa using hw)
  rcases hst with hst | hst <;>
    simpa [execQueueActivate, hf.can, hf.none_before, hc, hst, hgood, hbind, resumedQueue] using hidle _

/-- A darkslide that fails its check quarantines the context (R127). -/
theorem exec_queueActivate_broken (hv : (queueOf s q).slides.valid = true) (hbad : slideBroken s q = true)
    (hst : c.st = .bound ∨ c.st = .running) :
    exec (.queueActivate q) s = .next (quarantine (logError s (queueOf s q).ctxId 4 15 127 0
      (c.desc.saveBase + 65536 * (queueOf s q).saveOff.toNat) 0) (queueOf s q).ctxId 4) := by
  rcases hst with hst | hst <;> simp [execQueueActivate, hf.can, hf.none_before, hc, hst, hv, hbad, slideFail]

end Activate

/-! ## Giving a slot up (R123, R125, R126) -/

/-- A save leaves a valid darkslide that names the first packet not yet started. -/
theorem slideSave_slides (s : State) (q : Nat) (next : Word) (l : List Saved) :
    (queueOf (slideSave s q next l) q).slides.valid = true ∧ (queueOf (slideSave s q next l) q).slides.nextPacket = next := by
  simp [slideSave]

/-- A pre-empted queue waits for its turn, its darkslide valid with next_packet at its head. -/
theorem preemptQueue_saved (s : State) (q : Nat) :
    let y := queueOf (preemptQueue s q) q
    y.st = .preempted ∧ y.slides.valid = true ∧ y.slides.nextPacket = (queueOf s q).head ∧ y.promoted = false
      ∧ y.readyAt = s.clock := by
  simp [preemptQueue, slideSave_slides]

section GiveUp

variable {s : State} {q : Nat} (hst : (queueOf s q).st = .active ∨ (queueOf s q).st = .waiting) (hsave : canSave s q = true)
  (hdraw : drawBusy s q = false)
include hst hsave hdraw

theorem exec_queuePreempt_allowed (hmay : mayPreempt s q = true) : exec (.queuePreempt q) s = .next (preemptQueue s q) := by
  simp [execQueuePreempt, hst, hsave, hdraw, hmay]

theorem exec_sliceExpiry_due (hcls : (queueOf s q).cls ≠ 0) (hover : sliceOver s (queueOf s q).cls (queueOf s q).since = true)
    (hother : ∃ e ∈ s.queues, e.1 ≠ q ∧ waitsTurn e.2 = true ∧ classOf e.2 = classOf (queueOf s q)
      ∧ sliceOver s (queueOf s q).cls e.2.readyAt = true) :
    exec (.sliceExpiry q) s = .next (preemptQueue s q) := by
  have hany : s.queues.any (fun e => e.1 != q && waitsTurn e.2 && classOf e.2 == classOf (queueOf s q)
      && sliceOver s (queueOf s q).cls e.2.readyAt) = true := by
    obtain ⟨e, he, hne, hwait, hclass, hlong⟩ := hother
    exact List.any_eq_true.2 ⟨e, he, by simp [hne, hwait, hclass, hlong]⟩
  simp only [exec_sliceExpiry, execSliceExpiry, hany]
  simp [hst, hsave, hdraw, hcls, hover]

end GiveUp

/-- Class 0 has no slice. -/
theorem exec_sliceExpiry_class_zero {s : State} {q : Nat} (h : (queueOf s q).cls = 0) : exec (.sliceExpiry q) s = .next s := by
  simp [execSliceExpiry, h]

theorem exec_readyAgePromotion_aged {s : State} {q : Nat} (hst : (queueOf s q).st = .ready)
    (hage : 2 ^ 28 ≤ (s.clock - (queueOf s q).readyAt).toNat) :
    exec (.readyAgePromotion q) s = .next (putQueue s q { queueOf s q with promoted := true }) := by
  simp only [exec_readyAgePromotion, execReadyAgePromotion]
  rw [if_pos ⟨hst, hage⟩]

/-- Settles O42: every clause is what one event's equation above says of the queue's registers. -/
theorem queueEvents : Obligations.QueueEvents := by
  unfold Obligations.QueueEvents
  refine ⟨fun s q hq => ⟨fun hd hb => ⟨fun hc => ?_, fun c hc hst => ⟨fun hs => ?_, fun hs => ?_⟩⟩, queueEnableClear_disables,
    fun hb => ⟨fun n => ?_, fun r v => ?_⟩, fun hb => ⟨fun n => ⟨fun h => ?_, queueDoorbell_readies hq hb⟩, fun v => ?_⟩⟩,
    fun s q => ⟨fun hcan hfirst c hc => ⟨fun hok hw => ⟨fun hst => ?_, fun hst n hn => ?_⟩, fun hv hbad hst => ?_⟩,
      fun hst hsave hdraw => ⟨fun hmay => ?_, fun hcls hover hother => ?_⟩, exec_sliceExpiry_class_zero, fun hst hage => ?_⟩⟩
  · exact queueBecomes_of_put (exec_queueEnableSet_unserved hq hd hb hc)
  · exact queueBecomes_of_put (exec_queueEnableSet_placed hq hd hb hc hst hs)
  · exact queueBecomes_of_put (exec_queueEnableSet_misplaced hq hd hb hc hst hs)
  · exact exec_queueDoorbell_recovery q n hb
  · exact exec_registerWrite_recovery r v hb
  · exact queueBecomes_of_put (exec_queueDoorbell_tail hq hb h)
  · exact ⟨registerWrite_disabled v hq hb, fun hd r hr => exec_registerWrite_locked v hb hd hr, registerWrite_admin v hq hb,
      exec_registerWrite_offered _ v hb, exec_registerWrite_offered _ v hb⟩
  · exact queueBecomes_of_put (exec_queueActivate_resident ⟨hcan, hfirst⟩ hc hok hw hst)
  · exact ⟨_, exec_queueActivate_binds ⟨hcan, hfirst⟩ hc hok hw hst hn, queueOf_putQueue_self _ _ _, Map.find_insert_self _ _ _, rfl⟩
  · exact exec_queueActivate_broken ⟨hcan, hfirst⟩ hc hv hbad hst
  · exact ⟨_, exec_queuePreempt_allowed hst hsave hdraw hmay, preemptQueue_saved s q⟩
  · exact ⟨_, exec_sliceExpiry_due hst hsave hdraw hcls hover hother, preemptQueue_saved s q⟩
  · exact queueBecomes_of_put (exec_readyAgePromotion_aged hst hage)

end Sys2Proof.Machine
end

section
/-! PROOFS. The mailbox, reset and boot, soft errors and the write-back mode (R2, R19, R116, R255, R276, R281, R339, R419, R421, R422,
R428), and the machine at reset. -/

namespace Sys2Proof.Machine

/-! ## The mailbox (R419) -/

section Mailbox

variable {s : State} (v : BitVec 128) (hb : s.boot.st ≠ .recovery)
include hb

theorem exec_registerWrite_mailboxReq :
    exec (.registerWrite .mailboxReq v) s = .next { s with mgmt := { s.mgmt with req := v } } :=
  exec_registerWrite_offered .mailboxReq v hb

theorem exec_registerWrite_mailboxGo :
    exec (.registerWrite .mailboxGo v) s = .next { s with mgmt := { s.mgmt with go := v.getLsbD 0 } } := by
  rw [exec_registerWrite_offered .mailboxGo v hb]; simp [writeReg, writeGo, bit_toNat_zero]

theorem exec_mailboxDoneClear_offered : exec .mailboxDoneClear s = .next { s with mgmt := { s.mgmt with done := false } } := by
  simp [execMailboxDoneClear, hb]

end Mailbox

theorem exec_mailboxDoneClear_recovery {s : State} (h : s.boot.st = .recovery) : exec .mailboxDoneClear s = .next s := by
  simp [execMailboxDoneClear, h]

/-! ## Reset and boot (R422, R428) -/

/-- The boot ROM judges the images that were there before the reset. -/
@[simp] theorem imageOk_afterReset (s : State) (slot : Nat) : imageOk (afterReset s) slot = imageOk s slot := rfl

/-- An accepted slot changes the boot state and the log, and nothing else. -/
theorem acceptSlot_frame (s : State) (slot : Nat) (i : FwImage) :
    acceptSlot s slot i = { s with boot := (acceptSlot s slot i).boot, mgmt := (acceptSlot s slot i).mgmt } := rfl

theorem bootCheck_slot0 {s : State} {a : FwImage} (h : imageOk s 0 = true) (ha : Map.find s.boot.flash 0 = some a) :
    bootCheck s = acceptSlot s 0 a := by
  simp [bootCheck, h, ha]

theorem bootCheck_slot1 {s : State} {a : FwImage} (h0 : imageOk s 0 = false) (h : imageOk s 1 = true)
    (ha : Map.find s.boot.flash 1 = some a) : bootCheck s = acceptSlot s 1 a := by
  simp [bootCheck, h0, h, ha]

theorem bootCheck_recovery {s : State} (h0 : imageOk s 0 = false) (h1 : imageOk s 1 = false) :
    bootCheck s = evLog { s with boot := { s.boot with st := .recovery } } 7 0 2 (rejectByte s 0 + 256 * rejectByte s 1) := by
  simp [bootCheck, h0, h1]

/-- An image that the boot ROM accepts is in flash. -/
theorem exists_image_of_imageOk {s : State} {slot : Nat} (h : imageOk s slot = true) : ∃ a, Map.find s.boot.flash slot = some a := by
  unfold imageOk at h
  split at h
  · exact ⟨_, ‹_›⟩
  · cases h

/-- The boot ROM's check keeps the flash, and changes nothing but the boot state and the log. -/
theorem bootCheck_frame (s : State) :
    (bootCheck s).boot.flash = s.boot.flash
      ∧ bootCheck s = { s with boot := (bootCheck s).boot, mgmt := (bootCheck s).mgmt } := by
  cases h0 : imageOk s 0 with
  | true =>
    obtain ⟨a, ha⟩ := exists_image_of_imageOk h0
    rw [bootCheck_slot0 h0 ha]
    exact ⟨rfl, acceptSlot_frame s 0 a⟩
  | false =>
    cases h1 : imageOk s 1 with
    | true =>
      obtain ⟨a, ha⟩ := exists_image_of_imageOk h1
      rw [bootCheck_slot1 h0 h1 ha]
      exact ⟨rfl, acceptSlot_frame s 1 a⟩
    | false =>
      rw [bootCheck_recovery h0 h1]
      exact ⟨rfl, rfl⟩

/-- What a reset keeps and what it clears, and the image that it starts. -/
theorem deviceReset_boots (s : State) :
    ∃ u, exec .deviceReset s = .next u ∧ u.boot.flash = s.boot.flash ∧ u.ctxs = [] ∧ u.queues = [] ∧ u.waves = []
      ∧ u.groups = [] ∧ u.grids = [] ∧ u.accs = [] ∧ u.cores = [] ∧ u.mem = s.mem.filter (fun c => decide (2 ^ 38 ≤ c.1))
      ∧ (∀ a, imageOk s 0 = true → Map.find s.boot.flash 0 = some a →
          u.boot.st = .firmware ∧ u.boot.running = a.secVersion ∧ u.boot.fuseVersion = max s.boot.fuseVersion a.secVersion)
      ∧ (∀ a, imageOk s 0 = false → imageOk s 1 = true → Map.find s.boot.flash 1 = some a →
          u.boot.st = .firmware ∧ u.boot.running = a.secVersion ∧ u.boot.fuseVersion = max s.boot.fuseVersion a.secVersion)
      ∧ (imageOk s 0 = false → imageOk s 1 = false → u.boot.st = .recovery ∧ u.boot.fuseVersion = s.boot.fuseVersion) := by
  obtain ⟨hflash, hframe⟩ := bootCheck_frame (afterReset s)
  refine ⟨bootCheck (afterReset s), rfl, hflash, ?_, ?_, ?_, ?_, ?_, ?_, ?_, ?_, fun a h0 ha => ?_, fun a h0 h1 ha => ?_, fun h0 h1 => ?_⟩
  iterate 8 (rw [hframe]; rfl)
  · rw [bootCheck_slot0 (s := afterReset s) h0 ha]; exact ⟨rfl, rfl, rfl⟩
  · rw [bootCheck_slot1 (s := afterReset s) h0 h1 ha]; exact ⟨rfl, rfl, rfl⟩
  · rw [bootCheck_recovery (s := afterReset s) h0 h1]; exact ⟨rfl, rfl⟩

/-- Setting the mode sets it, and beside it only the log changes, and that only where the mode does. -/
theorem setWbMode_spec (s : State) (on : Bool) :
    (setWbMode s on).coh.wbMode = on
      ∧ setWbMode s on = { s with coh := { s.coh with wbMode := on }, mgmt := (setWbMode s on).mgmt }
      ∧ (s.coh.wbMode = on → setWbMode s on = s) := by
  unfold setWbMode
  split
  next h => subst h; exact ⟨rfl, rfl, fun _ => rfl⟩
  next h => exact ⟨rfl, rfl, fun h' => absurd h' h⟩

theorem exec_startUpComplete_done {s : State} (h : s.boot.st = .firmware) (he : evicting s = false) :
    exec .startUpComplete s = .next (setWbMode { s with boot := { s.boot with st := .operational } } false) := by
  simp [execStartUpComplete, h, he]

theorem exec_startUpComplete_not_yet {s : State} (h : s.boot.st ≠ .firmware ∨ evicting s = true) :
    exec .startUpComplete s = .next s := by
  rcases h with h | h <;> simp [execStartUpComplete, h]

/-- Start-up leaves the device operational, and write-back-and-answer mode off. -/
theorem startUpComplete_operational {s : State} (h : s.boot.st = .firmware) (he : evicting s = false) :
    ∃ u, exec .startUpComplete s = .next u ∧ u.boot = { s.boot with st := .operational } ∧ u.coh.wbMode = false
      ∧ u = { s with boot := u.boot, coh := u.coh, mgmt := u.mgmt } := by
  obtain ⟨hmode, hframe, -⟩ := setWbMode_spec { s with boot := { s.boot with st := .operational } } false
  refine ⟨_, exec_startUpComplete_done h he, ?_, hmode, ?_⟩
  · rw [hframe]
  · rw [hframe]

theorem exec_flashImageWrite_taken {s : State} {slot : Nat} (img : FwImage) (hs : slot < 2)
    (hb : s.boot.st = .operational ∨ s.boot.st = .recovery) :
    exec (.flashImageWrite slot img) s = .next { s with boot := { s.boot with flash := Map.insert s.boot.flash slot img } } := by
  simp [execFlashImageWrite, hs, hb]

theorem exec_frequencyChange_taken {s : State} {mhz : Nat} (h100 : mhz % 100 = 0) (hlo : 1200 ≤ mhz) (hhi : mhz ≤ 3300)
    (hne : mhz ≠ s.mgmt.freqMHz) :
    exec (.frequencyChange mhz) s = .next (evLog { s with mgmt := { s.mgmt with freqMHz := mhz } } 1 0 mhz s.mgmt.freqMHz) := by
  simp [execFrequencyChange, h100, hlo, hhi, hne]

/-- The record that `evLog` writes. -/
theorem evLog_find (s : State) (code agent a b : Nat) :
    Map.find (evLog s code agent a b).mgmt.log (s.mgmt.logTail.toNat % 4096)
      = some { code := code, agent := agent, time := s.clock, a := BitVec.ofNat 32 a, b := BitVec.ofNat 32 b } :=
  Map.find_insert_self _ _ _

/-! ## Soft errors (R116, R255, R281, R339) -/

theorem dirOf_setDir_self (s : State) (line : Nat) (d : Dir) : dirOf (setDir s line d) line = d :=
  Tab.get_set_self _ _ _ _

theorem dirOf_setDir_ne (s : State) {k line : Nat} (d : Dir) (h : k ≠ line) : dirOf (setDir s line d) k = dirOf s k :=
  Tab.get_set_ne _ _ _ h

theorem exec_softError_l1Tags {s : State} {core : Nat} (h : core < 96) :
    exec (.uncorrectableSoftError (.l1Tags core)) s = .next (coreDead s core 1) := by
  simp [execUncorrectableSoftError, h]

section L1Line

variable {s : State} {core line : Nat} (hh : haloOwner s line = none)
include hh

theorem exec_softError_dirty (hd : holdsDirty s core line = true) :
    exec (.uncorrectableSoftError (.l1Line core line)) s = .next (fogLine (dropL1 s line (fun _ => false)) line) := by
  simp [execUncorrectableSoftError, hh, hd]

theorem exec_softError_clean (hd : holdsDirty s core line = false) {l : L1Line} (hl : l1Of s core line = some l)
    (hst : l.st = .s ∨ l.st = .e) :
    exec (.uncorrectableSoftError (.l1Line core line)) s = .next (setL1 s core line { l with bad := true }) := by
  simp [execUncorrectableSoftError, hh, hd, hl, hst]

theorem exec_softError_noCopy (hd : holdsDirty s core line = false)
    (hl : l1Of s core line = none ∨ ∃ l, l1Of s core line = some l ∧ l.st ≠ .s ∧ l.st ≠ .e) :
    exec (.uncorrectableSoftError (.l1Line core line)) s = .next s := by
  obtain hl | ⟨l, hl, hs, he⟩ := hl
  · simp [execUncorrectableSoftError, hh, hd, hl]
  · simp [execUncorrectableSoftError, hh, hd, hl, hs, he]

/-- A line held dirty becomes FOG, no L1 keeps a copy, and no other line's entry changes. -/
theorem softError_dirty_fogs (hd : holdsDirty s core line = true) :
    ∃ u, exec (.uncorrectableSoftError (.l1Line core line)) s = .next u
      ∧ dirOf u line = { Dir.init with fog := true } ∧ (∀ k, k ≠ line → dirOf u k = dirOf s k)
      ∧ (∀ e ∈ u.coh.l1, e.1 % 2 ^ 64 ≠ line) ∧ u = { s with coh := u.coh } := by
  refine ⟨_, exec_softError_dirty hh hd, dirOf_setDir_self _ _ _, fun k hk => dirOf_setDir_ne _ _ hk, fun e he => ?_, rfl⟩
  simpa using (List.mem_filter.1 he).2

end L1Line

/-- An error in a byte of scratch marks it. -/
theorem softError_scratch_marks {s : State} {gid off : Nat} {g : Group} (hg : groupOf s gid = some g) (ho : off < g.scratchBytes)
    (hn : off ∉ g.bad) :
    ∃ u, exec (.uncorrectableSoftError (.scratch gid off)) s = .next u ∧ groupOf u gid = some { g with bad := g.bad ++ [off] }
      ∧ (∀ k, k ≠ gid → groupOf u k = groupOf s k) ∧ u = { s with groups := u.groups } := by
  have hfind : Map.find s.groups gid = some g := hg
  refine ⟨_, rfl, ?_, fun k hk => ?_, rfl⟩
  · simp [groupOf, Map.find_modify, hfind, ho, hn]
  · simp [groupOf, Map.find_modify, hk]

theorem exec_softError_latent_none {s : State} {line : Nat} (h : ∀ e ∈ s.accs, accHas e.2 line = false) :
    exec (.uncorrectableSoftError (.latent line)) s = .next s := by
  have hfind : s.accs.find? (fun e => (e.2.st == .opened || e.2.st == .draining) && accHas e.2 line) = none :=
    List.find?_eq_none.2 fun e he => by simp [h e he]
  simp only [exec_uncorrectableSoftError, execUncorrectableSoftError, hfind]

theorem exec_softError_latent_acc {s : State} {line k : Nat} {a : Acc}
    (h : s.accs.find? (fun e => (e.2.st == .opened || e.2.st == .draining) && accHas e.2 line) = some (k, a)) :
    exec (.uncorrectableSoftError (.latent line)) s = .next (accBreak s k .softError) := by
  simp only [exec_uncorrectableSoftError, execUncorrectableSoftError, h]

/-! ## The write-back mode (R276) -/

theorem exec_modeChange_evicting {s : State} (on : Bool) (h : evicting s = true) : exec (.modeChange on) s = .next s := by
  simp [execModeChange, h]

theorem exec_modeChange_quiet {s : State} (on : Bool) (h : evicting s = false) :
    exec (.modeChange on) s = .next (setWbMode s on) := by
  simp [execModeChange, h]

/-- Settles O55: the boot's clauses, then those of the soft errors and of the mode. -/
theorem bootModeAndSoftErrors : Obligations.BootModeAndSoftErrors := by
  unfold Obligations.BootModeAndSoftErrors
  refine ⟨⟨fun s v hb => ?mailbox, fun s v hb => ?noMailbox, deviceReset_boots, fun s => ?startUp, fun s slot img hs hb => ?flash,
    fun s mhz h100 hlo hhi hne => ?clock⟩, fun s core => exec_softError_l1Tags, fun s core line hh => ?line,
    fun s gid off g => softError_scratch_marks, fun s line => ⟨exec_softError_latent_none, fun k a => exec_softError_latent_acc⟩,
    fun s ctx core unit bank => rfl, fun s on => ⟨exec_modeChange_evicting on, fun he => ?mode⟩⟩
  case mailbox => exact ⟨exec_registerWrite_mailboxReq v hb, exec_registerWrite_mailboxGo v hb, exec_mailboxDoneClear_offered hb⟩
  case noMailbox => exact ⟨exec_registerWrite_recovery _ v hb, exec_registerWrite_recovery _ v hb, exec_mailboxDoneClear_recovery hb⟩
  case startUp =>
    exact ⟨fun _ he => exec_startUpComplete_not_yet (.inr he), startUpComplete_operational,
      fun h => exec_startUpComplete_not_yet (.inl h)⟩
  case flash =>
    exact ⟨_, exec_flashImageWrite_taken img hs hb, Map.find_insert_self _ _ _, fun k hk => Map.find_insert_ne _ _ hk, rfl⟩
  case clock => exact ⟨_, exec_frequencyChange_taken h100 hlo hhi hne, rfl, rfl, evLog_find _ _ _ _ _, rfl⟩
  case line =>
    refine ⟨softError_dirty_fogs hh, fun hd => ⟨fun l hl hst => ?_, exec_softError_noCopy hh hd⟩⟩
    exact ⟨_, exec_softError_clean hh hd hl hst, Map.find_insert_self _ _ _, rfl⟩
  case mode =>
    obtain ⟨hmode, hframe, hsame⟩ := setWbMode_spec s on
    exact ⟨_, exec_modeChange_quiet on he, hmode, hframe, hsame⟩

/-! ## The machine at reset (R1, R2, R19, R117, R151) -/

/-- A queue that the table does not list has its registers at reset. -/
theorem queueOf_reset (q : Nat) : queueOf State.reset q = Queue.init := Tab.get_nil _ q

/-- A bank that the table does not list is as at reset. -/
theorem bankOf_reset (c i : Nat) : bankOf (coreOf State.reset c) i = Bank.init := Tab.get_nil _ i

/-- Settles O58: each field as `State.reset` gives it; queues, banks and bytes that no table lists read as their defaults. -/
theorem resetState : Obligations.ResetState := by
  refine ⟨reset_mem_wf, Tab.get_nil 0, rfl, rfl, rfl, rfl, rfl, rfl, rfl, rfl, rfl, rfl, fun q => ?queue, fun c i => ?bank,
    rfl, rfl, rfl, rfl, rfl, rfl, rfl, rfl, rfl⟩
  case queue => rw [queueOf_reset]; exact ⟨rfl, rfl, rfl, rfl, rfl, rfl, rfl, rfl, rfl, rfl, rfl, rfl, rfl⟩
  case bank => rw [bankOf_reset]; exact ⟨rfl, rfl⟩

end Sys2Proof.Machine
end

section
/-! PROOFS. Words and their decoder (R24 to R40). -/

namespace Sys2Proof.Laws

open Sys2Proof Machine

/-! ## What the decoder accepts (R40) -/

namespace RoundTrip

/-- An instruction's own word, read field by field, names the instruction: one lemma for each constructor. -/
theorem holds (i : Instr) : Statement i :=
  Instr.casesOn (motive := Statement) i
    sadd ssub smul smulh sdiv srem sand sor sxor sandn sshl sshr ssar smin smax scmp saddc saddImm smulImm sandImm
    sorImm sxorImm sshlImm sshrImm ssarImm sminImm smaxImm scmpImm ststImm sbfx sext sclz spopc stst ssel sli bc bmz
    bmnz call split join exit yield nop ret ldrain regroup hint lrun lrunx feedset feedstop mand mor mxor mandn mnot
    mset mget mpop mfirst sld sst sldk sldOrdered sstOrdered binit barr bwait bsync barrx waita wake fence backoff
    klaunch tspawn tdec tadd vgive vclaim carve mqsend mqrecv mqcount qpost tkill xcopy xgather xscatter xfill
    xcancel evpop evwait evcfg trayflush traycfg lycfg mloop accopen accdrain accabort accwait pgmap pgtake pgunmap
    pginv pgharvest pgmigrate pgquery csheet halodecl halopush haloend lclaim cwb cinv sget sset svc trap eret
    eretRetry eretSkip lanePair vadd vsub vmul vmulh vmad vand vor vxor vandn vnot vshl vshr vsar vrol vmin vmax vabs
    vneg vclz vpopc vbrev vbfx vbfi vsel vmov vli vcmp vaddc vidx vsad fadd fsub fmul ffma fmin fmax fcmp fclass frnd
    fldexp ffrexp fdot2 fdot4 fscale frcp frsq fsqrt fdiv fexp2 flog2 fsin fcos ftanh cvt cvtef pack unpack shfl
    shflx shflup shfldn bcast ballot vote scan lred compact vreadl vwritel ld st lds sts atom atoms red pref trace
    traceq hitget primemit sample samplel sampleg texld texst lyins lyread lyresolve lyclear mma vmm accred accpeek
    trayput trayget laneOpSettle trapEntry feedVectorArrive fragmentReturn backoffExpiry spinDemotion
    issueAgePromotion barrierRemoteArrival waitaReread waitaPeriodicReread waitaFabTimeout safelightExpiry
    faultQueuePostResume queueEnableSet queueEnableClear queueDoorbell registerWrite mailboxDoneClear queueActivate
    queuePreempt sliceExpiry readyAgePromotion launch draw signalPkt waitPkt barrierPkt ctxopCreate ctxopBind
    ctxopUnbind ctxopUpdate ctxopQuarantine ctxopDestroy packetDeferredStart waitReread waitPeriodicPoll waitTimeout
    bindRetry unbindComplete gridComplete taskDispatch groupPlace bankConversionDone groupSettled groupRestore
    trayDeadline trayWaveStart finderSegmentStart teamOpStart partialArrive mloopComplete drainComplete
    transferTranslationEnd transferLocksClear transferComplete eventRecordPostResume engineFaultTaken loupeBatchClose
    frameFillComplete fillPoolUnreachable unitReplay enlargerEvict evictionComplete poolFrameMove zeroingDone
    homeGets homeGetm homeUpg homePuts homePute homePutm homePuto homeUnblock homeOwnack homeCleanack homeWbdata
    homeHack l1Data l1Datae l1Datam l1Grant l1Invack l1Inv l1Fwdgets l1Fwdgetm l1Pullwb l1Noticeack l1Wback l1Hpush
    l1Hcommit l1Retry requestResend forwardTimeout uncorrectableSoftError modeChange memoryLineReturn bisnpReceive
    externalRequest glinorFlitReceive portEnable portTrainingEnd portTrainingTimeout portResendLimit portLaneLost
    portFence portReset cxlPortDown poolDecoderWrite agentJoin peerLost completionTimeout linkKeyChange getInfo
    setPoolTarget getLogState readLog setLogHead getSensors setPowerLimit getPorts frequencyChange deviceReset
    startUpComplete flashImageWrite spdmGetVersion spdmGetCapabilities spdmNegotiateAlgorithms spdmGetDigests
    spdmGetCertificate spdmChallenge spdmGetMeasurements spdmKeyExchange spdmFinish spdmEndSession
    scalarAccessAnswered birspReceive biconflictReceive correctableSoftError ideKmRequest

end RoundTrip

/-- A candidate is accepted when it is there, keeps R40, and its own words are those read. -/
theorem accept_eq_ok {c : Option Instr} {same : Option Code → Bool} {i : Instr} :
    accept c same = .ok i ↔ c = some i ∧ same (encode i) = true ∧ wellFormed i = true := by
  cases c with
  | none => simp [accept]
  | some j =>
    simp only [accept, Option.some.injEq]
    split_ifs with hs hw
    · exact ⟨fun h => by cases h; exact ⟨rfl, hs, hw⟩, fun ⟨h, _⟩ => by rw [h]⟩
    · exact ⟨nofun, fun ⟨h, _, hi⟩ => absurd (h ▸ hi) hw⟩
    · exact ⟨nofun, fun ⟨h, hi, _⟩ => absurd (h ▸ hi) hs⟩

theorem decodeScalar_eq_ok {w n : BitVec 32} {i : Instr} : decodeScalar w n = .ok i ↔
    parseS w n = some i ∧ (encode i = some (.word w) ∨ encode i = some (.long w n)) ∧ wellFormed i = true := by
  rw [decodeScalar, accept_eq_ok]
  refine and_congr_right fun _ => and_congr_left fun _ => ?_
  rcases encode i with _ | ⟨x⟩ | ⟨x, y⟩ | ⟨x⟩ <;> simp

theorem decodeLane_eq_ok {w : BitVec 96} {i : Instr} :
    decodeLane w = .ok i ↔ parseL w = some i ∧ encode i = some (.lane w) ∧ wellFormed i = true := by
  rw [decodeLane, accept_eq_ok]
  refine and_congr_right fun _ => and_congr_left fun _ => ?_
  rcases encode i with _ | ⟨x⟩ | ⟨x, y⟩ | ⟨x⟩ <;> simp

/-- Settles O59: the fields of an instruction's own word name it again, and the decoder accepts what its own word names. -/
theorem encodedWordsDecode : Obligations.EncodedWordsDecode := by
  intro i hw
  have hr := RoundTrip.holds i hw
  refine ⟨fun w he next => ?_, fun w n he => ?_, fun w he => ?_⟩ <;> rw [he] at hr
  · exact decodeScalar_eq_ok.2 ⟨hr next, .inl he, hw⟩
  · exact decodeScalar_eq_ok.2 ⟨hr, .inr he, hw⟩
  · exact decodeLane_eq_ok.2 ⟨hr, he, hw⟩

/-- Settles O60: a candidate is accepted only when it keeps R40 and its own encoding is the word read. -/
theorem decodedWordsAreExact : Obligations.DecodedWordsAreExact := by
  refine ⟨fun w next i h => ?_, fun w i h => ?_⟩
  · obtain ⟨-, he, hw⟩ := decodeScalar_eq_ok.1 h
    exact ⟨hw, he⟩
  · obtain ⟨-, he, hw⟩ := decodeLane_eq_ok.1 h
    exact ⟨hw, he⟩

/-- Settles O57: each word is accepted or refused as the decoder evaluates. -/
theorem wordsDecode : Obligations.WordsDecode := by
  unfold Obligations.WordsDecode
  decide

end Sys2Proof.Laws
end

section
/-! PROOFS. The model's bit helpers as bit vectors and lists of bits (R51, R183, R195). -/

namespace Sys2Proof.Machine

/-- The model's two's complement reading is that of the bit vector. -/
theorem sgn_eq_toInt (n x : Nat) : sgn n x = (BitVec.ofNat n x).toInt := by
  unfold sgn
  cases n with
  | zero => simp [BitVec.eq_nil (BitVec.ofNat 0 x)]
  | succ k =>
    have h : 2 ^ (k + 1) = 2 * 2 ^ k := by rw [Nat.pow_succ, Nat.mul_comm]
    simp only [BitVec.toInt_eq_toNat_cond, BitVec.toNat_ofNat, Nat.add_one_sub_one, Nat.succ_ne_zero, if_false]
    generalize x % 2 ^ (k + 1) = y
    rw [h]
    split_ifs <;> omega

/-- The model's low bits of an integer are those of the bit vector. -/
theorem low_eq_toNat (n : Nat) (x : Int) : low n x = (BitVec.ofInt n x).toNat := by
  simp [low]

/-- The model's count of set bits counts the bits that are set. -/
theorem popcount_eq (n x : Nat) : popcount n x = ((List.range n).filter x.testBit).length := by
  induction n generalizing x with
  | zero => rfl
  | succ n ih =>
    have hs : x.testBit ∘ Nat.succ = (x / 2).testBit := by funext i; simp [Nat.testBit_succ]
    rw [popcount, ih, List.range_succ_eq_map, List.filter_cons, List.filter_map, hs]
    by_cases h : x % 2 = 1 <;> simp [Nat.testBit_zero, h] <;> omega

/-- The length of a nonzero bit vector's number, by its leading zeros. -/
theorem clz_toNat {n : Nat} (x : BitVec n) (hn : 0 < n) : clz n x.toNat = x.clz.toNat := by
  have hle : x.clz.toNat ≤ n := by
    have := BitVec.clz_le (x := x)
    rwa [BitVec.le_def, BitVec.natCast_eq_ofNat, BitVec.toNat_ofNat, Nat.mod_eq_of_lt Nat.lt_two_pow_self] at this
  unfold clz bitLen
  rw [Nat.mod_eq_of_lt x.isLt]
  split_ifs with h0
  · have hz : x = 0#n := BitVec.eq_of_toNat_eq (by simpa using h0)
    rw [BitVec.clz_eq_iff_eq_zero.2 hz]
    simp [Nat.mod_eq_of_lt Nat.lt_two_pow_self]
  · have hz : x ≠ 0#n := fun h => h0 (by simp [h])
    have hlow := BitVec.two_pow_sub_clz_le_toNat_of_ne_zero hn hz
    have hhigh := BitVec.toNat_lt_two_pow_sub_clz (x := x)
    have hlt : n - 1 - x.clz.toNat + 1 = n - x.clz.toNat := by
      have := BitVec.clz_lt_iff_ne_zero.2 hz
      rw [BitVec.lt_def, BitVec.natCast_eq_ofNat, BitVec.toNat_ofNat, Nat.mod_eq_of_lt Nat.lt_two_pow_self] at this
      omega
    have hlog : Nat.log2 x.toNat = n - 1 - x.clz.toNat := (Nat.log2_eq_iff h0).2 ⟨hlow, by rwa [hlt]⟩
    omega

theorem bitrev_lt (n x : Nat) : bitrev n x < 2 ^ n := by
  induction n generalizing x with
  | zero => simp [bitrev]
  | succ n ih =>
    have := ih (x / 2)
    have h2 : x % 2 ≤ 1 := by omega
    calc bitrev (n + 1) x = x % 2 * 2 ^ n + bitrev n (x / 2) := rfl
      _ < 1 * 2 ^ n + 2 ^ n := Nat.add_lt_add_of_le_of_lt (Nat.mul_le_mul_right _ h2) this
      _ = 2 ^ (n + 1) := by rw [Nat.pow_succ]; omega

theorem testBit_bitrev (n x i : Nat) : (bitrev n x).testBit i = (decide (i < n) && x.testBit (n - 1 - i)) := by
  induction n generalizing x with
  | zero => simp [bitrev]
  | succ n ih =>
    rw [bitrev, Nat.mul_comm, Nat.testBit_two_pow_mul_add _ (bitrev_lt n _)]
    rcases Nat.lt_trichotomy i n with h | h | h
    · have e : n + 1 - 1 - i = (n - 1 - i) + 1 := by omega
      rw [if_pos h, ih, e, Nat.testBit_succ]
      simp [h, Nat.lt_succ_of_lt h]
    · subst h
      simp [Nat.testBit_zero]
    · have h1 : ¬ i < n := by omega
      have h2 : ¬ i < n + 1 := by omega
      have h3 : i - n ≠ 0 := by omega
      rw [if_neg h1]
      obtain ⟨k, hk⟩ := Nat.exists_eq_succ_of_ne_zero h3
      rw [hk, Nat.testBit_succ]
      simp [h2, Nat.div_eq_of_lt (Nat.mod_lt x Nat.two_pos)]

/-- The model's reversal of a bit vector's number is the reversed bit vector's. -/
theorem bitrev_toNat {n : Nat} (x : BitVec n) : bitrev n x.toNat = x.reverse.toNat := by
  apply Nat.eq_of_testBit_eq
  intro i
  rw [testBit_bitrev, BitVec.testBit_toNat, BitVec.testBit_toNat, BitVec.getLsbD_reverse, BitVec.getMsbD]

end Sys2Proof.Machine
end

section
/-! PROOFS. Scalar words with an immediate, bit fields, counts, selection and `SLI` (R181, R183); the conditions of `BC` (R28). -/

namespace Sys2Proof.Machine

/-! ## Words that write one register -/

/-- A word that writes one register of its wave, by the register's value as the claim gives it. -/
theorem oneRegister_of_doneWith {i : Instr} {d : SReg} {x y : Wave → Frag → Word}
    (h : ∀ s, exec i s = doneWith s (fun w f => wrS w d.toNat (y w f))) (hxy : ∀ w f, y w f = x w f) : OneRegister i d x :=
  fun _ w f hI => hxy w f ▸ doneWith_reg d.toNat y hI (h _)

/-- The lesser of a register and a signed immediate, as signed numbers (R27). -/
theorem minMax_lesser (x : Word) (i : BitVec 10) :
    minMax true false 32 x (i.signExtend 32) = if x.toInt < i.toInt then x else i.signExtend 32 := by
  simp [minMax, BitVec.toInt_signExtend_of_le]

/-- The greater of a register and a signed immediate, as signed numbers (R27). -/
theorem minMax_greater (x : Word) (i : BitVec 10) :
    minMax true true 32 x (i.signExtend 32) = if x.toInt < i.toInt then i.signExtend 32 else x := by
  by_cases h : x.toInt < i.toInt <;> simp [minMax, BitVec.toInt_signExtend_of_le, h]

/-- The sign extension of the low bits of a register (R183). -/
theorem ofInt_sgn (n : Nat) (x : Word) : BitVec.ofInt 32 (sgn n x.toNat) = (x.setWidth n).signExtend 32 := by
  rw [sgn_eq_toInt, BitVec.ofNat_toNat, BitVec.signExtend]

/-- The leading zeros of a register or a pair (R183). -/
theorem clz_rdWide (w : Wave) (wide : Bool) (a : SReg) : clz (if wide then 64 else 32) (rdWide w wide a)
    = if wide then (rdP w a.toNat).clz.toNat else (rdS w a.toNat).clz.toNat := by
  cases wide <;> simp [rdWide, clz_toNat]

/-- The set bits of a register or a pair (R183). -/
theorem popcount_rdWide (w : Wave) (wide : Bool) (a : SReg) : popcount 64 (rdWide w wide a)
    = ((List.range 64).filter (fun j => if wide then (rdP w a.toNat).getLsbD j else (rdS w a.toNat).getLsbD j)).length := by
  rw [popcount_eq]
  cases wide <;> simp only [rdWide, if_true, Bool.false_eq_true, if_false] <;>
    exact congrArg (fun p => ((List.range 64).filter p).length) (funext fun j => BitVec.testBit_toNat _)

/-- `SLI` in each form: a register or a pair, and 8 bytes on (R25, R183). -/
theorem sli_scalarDone {s : State} {w : Wave} {f : Frag} (hI : Issues s w f) (d : SReg) (imm : Word) :
    ScalarDone (.sli .w32 d imm) s w f (setReg w d.toNat imm) (rdM w f) f.flags (f.pc + 8)
    ∧ ScalarDone (.sli .i64 d imm) s w f (setPair w d.toNat (imm.signExtend 64)) (rdM w f) f.flags (f.pc + 8)
    ∧ ScalarDone (.sli .n64 d imm) s w f (setPair w d.toNat (imm.setWidth 64)) (rdM w f) f.flags (f.pc + 8) := by
  have hreg : ScalarDone (.sli .w32 d imm) s w f (setReg w d.toNat imm) (rdM w f) f.flags (f.pc + 8) := by
    refine done_scalarDone (v := wrS w d.toNat imm) (g := f) (by rw [exec_sli, execSli, onFrag_issues hI]) rfl ?_ ?_
      (fun n => rdS_wrS w _ n _) (fun n => rdM_wrS w f _ n _)
    · rw [wrS_eq]; cases s.cur.b <;> rfl
    · rw [wrS_eq]
  have hpair : ∀ (form : SliForm) (x : DWord), exec (.sli form d imm) s = goTo s (wrP w d.toNat x) f (f.pc + 8) →
      ScalarDone (.sli form d imm) s w f (setPair w d.toNat x) (rdM w f) f.flags (f.pc + 8) := by
    intro form x h
    refine done_scalarDone (v := wrP w d.toNat x) (g := f) h rfl ?_ ?_ (fun n => rdS_wrP w _ n _) (fun n => rdM_wrP w f _ n _)
    · rw [wrP_eq]; cases s.cur.b <;> rfl
    · rw [wrP_eq]
  exact ⟨hreg, hpair .i64 _ (by rw [exec_sli, execSli, onFrag_issues hI]), hpair .n64 _ (by rw [exec_sli, execSli, onFrag_issues hI])⟩

/-- Settles O2: each word writes one register; its value is the claim's by the equation of its bit helper. -/
theorem scalarImmediatesAndFields : Obligations.ScalarImmediatesAndFields := by
  refine ⟨fun d a i k => ⟨?_, ?_, ?_, ?_, ?_, ?_, ?_, ?_, ?lesser, ?greater⟩,
    fun d a b k o wide imm => ⟨?field, ?sext, ?zeros, ?count, ?eq, ?ne, ?lt, ?ltu, fun s w f hI => sli_scalarDone hI d imm⟩⟩
  case lesser => exact oneRegister_of_doneWith (fun _ => rfl) fun w f => minMax_lesser _ i
  case greater => exact oneRegister_of_doneWith (fun _ => rfl) fun w f => minMax_greater _ i
  case field => exact oneRegister_of_doneWith (fun _ => rfl) fun w f => by rw [Nat.shiftRight_eq_div_pow]
  case sext => exact oneRegister_of_doneWith (fun _ => rfl) fun w f => ofInt_sgn _ _
  case zeros => exact oneRegister_of_doneWith (fun _ => rfl) fun w f => by rw [clz_rdWide, apply_ite (BitVec.ofNat 32)]
  case count => exact oneRegister_of_doneWith (fun _ => rfl) fun w f => by rw [popcount_rdWide]
  case eq => exact oneRegister_of_doneWith (fun _ => rfl) fun w f => rfl
  case ne => exact oneRegister_of_doneWith (fun _ => rfl) fun w f => by cases h : f.flags.z <;> simp [selHolds, h]
  case lt => exact oneRegister_of_doneWith (fun _ => rfl) fun w f => by simp [selHolds]
  case ltu => exact oneRegister_of_doneWith (fun _ => rfl) fun w f => by cases h : f.flags.c <;> simp [selHolds, h]
  all_goals exact oneRegister_of_doneWith (fun _ => rfl) fun w f => rfl

/-! ## Branches on the flags (R28, R184) -/

/-- A branch whose condition holds goes to its target; a lower one advances the spin count only. -/
theorem branchIf_taken {i : Instr} {s : State} {w : Wave} {f : Frag} {p : Wave → Frag → Bool} {o : BitVec 22} (hI : Issues s w f)
    (h : exec i s = branchIf s p o) (hp : p w f = true) :
    ScalarDone i s w f (rdS w) (rdM w f) f.flags (f.pc + 4 * o.signExtend 64) := by
  rw [branchIf, onFrag_issues hI, if_pos hp, branchTo] at h
  refine done_scalarDone h rfl ?_ ?_ (fun n => ?_) (fun n => ?_)
  all_goals split_ifs <;> rfl

/-- A branch whose condition does not hold goes on to the next word. -/
theorem branchIf_untaken {i : Instr} {s : State} {w : Wave} {f : Frag} {p : Wave → Frag → Bool} {o : BitVec 22} (hI : Issues s w f)
    (h : exec i s = branchIf s p o) (hp : p w f = false) : ScalarDone i s w f (rdS w) (rdM w f) f.flags (f.pc + 4) := by
  rw [branchIf, onFrag_issues hI, hp] at h
  exact done_scalarDone h rfl rfl rfl (fun _ => rfl) (fun _ => rfl)

/-- `BC` by the code of its condition, which holds where `p` does. -/
theorem bc_byCode {s : State} {w : Wave} {f : Frag} (hI : Issues s w f) (o : BitVec 22) {k : Nat} {p : Prop} (c : Cond)
    (hk : condOf k = some c) (hc : condCode c = BitVec.ofNat 4 k) (hp : condHolds c f.flags = true ↔ p) :
    ∃ cc, condOf k = some cc ∧ encode (.bc cc o) = some (.word (packSB 0x20 (BitVec.ofNat 4 k) o))
      ∧ (p → ScalarDone (.bc cc o) s w f (rdS w) (rdM w f) f.flags (f.pc + 4 * o.signExtend 64))
      ∧ (¬ p → ScalarDone (.bc cc o) s w f (rdS w) (rdM w f) f.flags (f.pc + 4)) :=
  ⟨c, hk, by rw [← hc]; rfl, fun h => branchIf_taken hI (exec_bc c o s) (hp.2 h),
    fun h => branchIf_untaken hI (exec_bc c o s) (Bool.eq_false_iff.2 fun hh => h (hp.1 hh))⟩

/-- Settles O5: for each code the condition it names holds as R28's table says. -/
theorem branchConditions : Obligations.BranchConditions := by
  refine ⟨fun s w f o hI => ?_, rfl⟩
  refine ⟨bc_byCode hI o .al rfl rfl ?_, bc_byCode hI o .eq rfl rfl ?_, bc_byCode hI o .ne rfl rfl ?_, bc_byCode hI o .lt rfl rfl ?_,
    bc_byCode hI o .ge rfl rfl ?_, bc_byCode hI o .ltu rfl rfl ?_, bc_byCode hI o .geu rfl rfl ?_, bc_byCode hI o .gt rfl rfl ?_,
    bc_byCode hI o .le rfl rfl ?_, bc_byCode hI o .gtu rfl rfl ?_, bc_byCode hI o .leu rfl rfl ?_, bc_byCode hI o .mi rfl rfl ?_,
    bc_byCode hI o .pl rfl rfl ?_, bc_byCode hI o .vs rfl rfl ?_, bc_byCode hI o .vc rfl rfl ?_⟩
  all_goals
    obtain ⟨z, n, c, v⟩ := f.flags
    revert z n c v
    decide

end Sys2Proof.Machine
end

section
/-! PROOFS. What a scalar word that traps at U answers (R107, R355 to R358). -/

namespace Sys2Proof.Machine

/-! ## A wave with another fragment -/

@[simp] theorem putFrag_core (w : Wave) (b : Bool) (f : Option Frag) : (putFrag w b f).core = w.core := by cases b <;> rfl
@[simp] theorem putFrag_slot (w : Wave) (b : Bool) (f : Option Frag) : (putFrag w b f).slot = w.slot := by cases b <;> rfl
@[simp] theorem putFrag_gid (w : Wave) (b : Bool) (f : Option Frag) : (putFrag w b f).gid = w.gid := by cases b <;> rfl
@[simp] theorem putFrag_priv (w : Wave) (b : Bool) (f : Option Frag) : (putFrag w b f).priv = w.priv := by cases b <;> rfl
@[simp] theorem putFrag_trap (w : Wave) (b : Bool) (f : Option Frag) : (putFrag w b f).trap = w.trap := by cases b <;> rfl
@[simp] theorem putFrag_treg (w : Wave) (b : Bool) (f : Option Frag) : (putFrag w b f).treg = w.treg := by cases b <;> rfl
@[simp] theorem putFrag_strips (w : Wave) (b : Bool) (f : Option Frag) : (putFrag w b f).strips = w.strips := by cases b <;> rfl

/-! ## Entry (R355, R357, R358) -/

/-- The fragment in the handler, and what stands in its wave's trap registers. -/
theorem handlerWave_spec (d : CtxDesc) (w : Wave) (r : TrapReq) (b : Bool) (f : Frag) : let v := handlerWave d w r b f
    v.core = w.core ∧ v.slot = w.slot ∧ v.priv = .s ∧ v.treg = trapRegs r (entryPc r f)
    ∧ fragOf v b = some { f with pc := BitVec.ofNat 64 d.trapVector, flags := Flags.zero, handler := true, wait := .none } := by
  simp [handlerWave]

/-- A trap of a fragment in a slot enters, whatever else of the state the entry parks. -/
theorem enterTrap_spec {s : State} {core slot : Nat} {r : TrapReq} {w : Wave} {f : Frag} {c : Ctx} (hw : waveAt s core slot = some w)
    (hf : fragOf w r.b = some f) (hc : ctxOf s (ctxIdOf s w.gid) = some c) :
    ∃ t, enterTrap s core slot r = putWave t (handlerWave c.desc w r r.b f) := by
  have hb : trapSlot w r.b = r.b := by simp [trapSlot, hf]
  unfold enterTrap
  simp only [hw, hb, hf, hc]
  exact ⟨_, rfl⟩

/-- A trap raised at U with none in hand and no strip queued enters at once. -/
theorem raiseTrap_enters {s : State} {w : Wave} {r : TrapReq} (hw : waveAt s w.core w.slot = some w) (hp : w.priv = .u)
    (ht : w.trap = .none ∨ w.trap = .pending) (hs : w.strips = []) :
    raiseTrap s w.core w.slot r = enterTrap (putWave s { w with trap := .entering r }) w.core w.slot r := by
  have hat : waveAt (putWave s { w with trap := .entering r }) w.core w.slot = some { w with trap := .entering r } :=
    waveAt_putWave s { w with trap := .entering r }
  have htry : tryEnter (putWave s { w with trap := .entering r }) w.core w.slot
      = enterTrap (putWave s { w with trap := .entering r }) w.core w.slot r := by
    unfold tryEnter
    rw [hat]
    simp [hs]
  rw [← htry]
  unfold raiseTrap
  rw [hw]
  rcases ht with ht | ht <;> simp [hp, ht]

/-- A scalar word of a fragment at U that raises a trap takes it. -/
theorem trapAt_taken {i : Instr} {s : State} {w : Wave} {f : Frag} {c : Ctx} {k : TrapKind} {cause : Cause} {addr : DWord} {info : Nat}
    (hU : AtUser s w f c) (h : exec i s = trapAt s w f k cause addr info) :
    TrapTaken i s f c cause 1 addr (BitVec.ofNat 32 info) (if k = .service then f.pc + 4 else f.pc) := by
  obtain ⟨hI, hp, ht, hs, hc⟩ := hU
  obtain ⟨hcore, hslot⟩ := issues_place hI
  generalize hv : putFrag w s.cur.b (some { f with wait := .none }) = v
  generalize hr : ({ kind := k, cause := cause, unit := 1, mask := f.m0, addr := addr, info := BitVec.ofNat 32 info, pc := f.pc, b := s.cur.b } : TrapReq) = r
  have hvc : v.core = w.core := by rw [← hv, putFrag_core]
  have hvs : v.slot = w.slot := by rw [← hv, putFrag_slot]
  have hb : r.b = s.cur.b := by rw [← hr]
  have hfrag : fragOf { v with trap := .entering r } r.b = some { f with wait := .none } := by
    rw [← hr, ← hv]; exact fragOf_putFrag w s.cur.b _
  have henters := raiseTrap_enters (r := r) (waveAt_putWave s v) (by rw [← hv, putFrag_priv, hp]) (by rw [← hv, putFrag_trap]; exact ht)
    (by rw [← hv, putFrag_strips, hs])
  have hctx : ctxOf (putWave (putWave s v) { v with trap := .entering r })
      (ctxIdOf (putWave (putWave s v) { v with trap := .entering r }) v.gid) = some c := by
    rw [← hv, putFrag_gid]; exact hc
  obtain ⟨t, henter⟩ := enterTrap_spec (waveAt_putWave (putWave s v) { v with trap := .entering r }) hfrag hctx
  obtain ⟨h1, h2, hpriv, htreg, hg⟩ := handlerWave_spec c.desc { v with trap := .entering r } r r.b { f with wait := .none }
  generalize handlerWave c.desc { v with trap := .entering r } r r.b { f with wait := .none } = u at henter h1 h2 hpriv htreg hg
  rw [hb] at hg
  have hplace : waveAt (putWave t u) s.cur.core s.cur.slot = some u := by
    have := waveAt_putWave t u
    rwa [h1, h2, hvc, hvs, hcore, hslot] at this
  refine ⟨putWave t u, ?_, u, _, hplace, hpriv, ?_, hg, rfl, rfl, rfl⟩
  · rw [h, trapAt, hv, hr, ← hvc, ← hvs, henters, henter]
  · rw [htreg, ← hr]; simp [trapRegs, entryPc]

/-- A word that raises `ILLEGAL` at U (R107, R184). -/
theorem illegalS_taken {i : Instr} {s : State} {w : Wave} {f : Frag} {c : Ctx} (hU : AtUser s w f c) (h : exec i s = illegalS s w f) :
    TrapTaken i s f c .illegal 1 0 0 f.pc :=
  trapAt_taken hU h

end Sys2Proof.Machine
end

section
/-! PROOFS. Control registers (R31, R106, R176, R188, R239, R325, R355). -/

namespace Sys2Proof.Machine

/-! ## Fields of a status word -/

/-- A number of four bytes, lowest first. -/
def fourBytes (g : Nat → Nat) : Nat := (List.range 4).foldl (fun x n => x + 2 ^ (8 * n) * g n) 0

/-- A register that holds four bytes gives each of them back. -/
theorem byte_fourBytes {g : Nat → Nat} (hg : ∀ n, n < 4 → g n < 256) (n : Nat) (hn : n < 4) :
    (BitVec.ofNat 64 (fourBytes g)).toNat / 2 ^ (8 * n) % 256 = g n := by
  have h0 := hg 0 (by omega)
  have h1 := hg 1 (by omega)
  have h2 := hg 2 (by omega)
  have h3 := hg 3 (by omega)
  have hx : fourBytes g = g 0 + 2 ^ 8 * g 1 + 2 ^ 16 * g 2 + 2 ^ 24 * g 3 := by simp [fourBytes, List.range_succ]
  rw [BitVec.toNat_ofNat, hx]
  interval_cases n <;> omega

/-- A bit of a byte of a register is that bit of the byte. -/
theorem getLsbD_byte (x : DWord) (n i : Nat) (hi : i < 8) : x.getLsbD (8 * n + i) = (x.toNat / 2 ^ (8 * n) % 256).testBit i := by
  rw [← BitVec.testBit_toNat, show (256 : Nat) = 2 ^ 8 from rfl, Nat.testBit_mod_two_pow, Nat.testBit_div_two_pow]
  simp [hi, Nat.add_comm]

/-- The byte of a feed in `FEEDSTAT` (R176): vectors buffered, running, underflow, a faulting vector. -/
def feedByte (f : Feed) : Nat :=
  f.buf.length + (if f.run then 16 else 0) + (if f.underflow then 32 else 0) + (if f.buf.any (fun v => v.fault.isSome) then 64 else 0)

theorem feedStat_eq (w : Wave) : feedStat w = fourBytes (fun n => feedByte (feedOf w n)) := rfl
theorem evStat_eq (w : Wave) : evStat w = fourBytes (fun q => (evqOf w q).recs.length) := rfl

theorem feedByte_fields {f : Feed} (h : f.buf.length < 16) : feedByte f < 256 ∧ feedByte f % 16 = f.buf.length
    ∧ (feedByte f).testBit 4 = f.run ∧ (feedByte f).testBit 5 = f.underflow
    ∧ (feedByte f).testBit 6 = f.buf.any (fun v => v.fault.isSome) ∧ (feedByte f).testBit 7 = false := by
  unfold feedByte
  generalize f.buf.any _ = e
  generalize f.buf.length = n at h ⊢
  interval_cases n <;> cases f.run <;> cases f.underflow <;> cases e <;> decide

/-- `FEEDSTAT` with no feed's buffer overfull (R176). -/
theorem feedStat_fields {w : Wave} (h : ∀ n, n < 4 → (feedOf w n).buf.length < 16) (n : Nat) (hn : n < 4) :
    let x := BitVec.ofNat 64 (feedStat w)
    let f := feedOf w n
    x.toNat / 2 ^ (8 * n) % 16 = f.buf.length ∧ x.getLsbD (8 * n + 4) = f.run ∧ x.getLsbD (8 * n + 5) = f.underflow
      ∧ x.getLsbD (8 * n + 6) = f.buf.any (fun v => v.fault.isSome) ∧ x.getLsbD (8 * n + 7) = false := by
  have hx : (BitVec.ofNat 64 (feedStat w)).toNat / 2 ^ (8 * n) % 256 = feedByte (feedOf w n) := by
    rw [feedStat_eq]; exact byte_fourBytes (fun n hn => (feedByte_fields (h n hn)).1) n hn
  obtain ⟨-, hlen, hrun, hunder, hfault, hzero⟩ := feedByte_fields (h n hn)
  refine ⟨?_, ?_, ?_, ?_, ?_⟩
  · rw [← hlen, ← hx]; omega
  all_goals rw [getLsbD_byte _ _ _ (by omega), hx]; assumption

/-- `EVSTAT` with no queue past 127 records (R325). -/
theorem evStat_fields {w : Wave} (h : ∀ q, q < 4 → (evqOf w q).recs.length < 128) (q : Nat) (hq : q < 4) :
    (BitVec.ofNat 64 (evStat w)).toNat / 2 ^ (8 * q) % 256 = (evqOf w q).recs.length := by
  rw [evStat_eq]
  exact byte_fourBytes (fun n hn => Nat.lt_trans (h n hn) (by omega)) q hq

/-- `TRAYSTAT` with its counts and the wave's own tray in range (R239). -/
theorem trayStat_fields {s : State} {w : Wave} {g : Group} (hg : groupOf s w.gid = some g) :
    let mine (st : TraySt) : Nat := ((coreOf s g.core).trays.filter (fun t => t.2.grid == g.grid)).countP (fun t => t.2.st == st)
    mine .filling < 512 → mine .triggered < 512 → (∀ t, w.tray = some t → t.recs.length ≤ 32 ∧ t.config < 64) →
    let x := BitVec.ofNat 64 (trayStat s w)
    x.toNat % 512 = mine .filling ∧ x.toNat / 512 % 512 = mine .triggered ∧ x.getLsbD 18 = w.tray.isSome
      ∧ x.toNat / 2 ^ 19 % 64 = ((w.tray.map (·.recs.length)).getD 0) ∧ x.toNat / 2 ^ 25 = ((w.tray.map (·.config)).getD 0) := by
  intro mine hfill htrig ht
  have hx : trayStat s w = mine .filling + 2 ^ 9 * mine .triggered
      + match w.tray with
        | some t => 2 ^ 18 + 2 ^ 19 * t.recs.length + 2 ^ 25 * t.config
        | none => 0 := by
    simp only [trayStat, hg, Option.map_some, Option.getD_some, mine, List.countP_eq_length_filter] <;> rfl
  rw [hx]
  generalize mine .filling = a at hfill
  generalize mine .triggered = b at htrig
  cases hw : w.tray with
  | none =>
    simp only [BitVec.toNat_ofNat, Laws.getLsb_div, Option.isSome_none, Option.map_none, Option.getD_none, decide_eq_false_iff_not]
    omega
  | some t =>
    obtain ⟨hn, hk⟩ := ht t hw
    simp only [BitVec.toNat_ofNat, Laws.getLsb_div, Option.isSome_some, Option.map_some, Option.getD_some, decide_eq_true_eq]
    omega

/-! ## Reads (R31, R188) -/

/-- The numbers that name no control register (R31). -/
theorem ctlRead_eq_none (s : State) (w : Wave) (r : Nat) : ctlRead s w r = none
    ↔ r = 0x0F ∨ r = 0x11 ∨ r = 0x13 ∨ r = 0x15 ∨ r = 0x17 ∨ r = 0x19 ∨ 0x1F ≤ r := by
  unfold ctlRead
  split
  case h_26 =>
    simp only [true_iff, imp_false] at *
    omega
  all_goals simp

/-- `SGET` of a number that names no register raises `ILLEGAL`. -/
theorem exec_sget_unlisted {s : State} {w : Wave} {f : Frag} {r : BitVec 8} (hI : Issues s w f) (d : SReg)
    (hr : ctlRead s w r.toNat = none) : exec (.sget d r) s = illegalS s w f := by
  rw [exec_sget, execSget, onFrag_issues hI, hr]

/-! ## Writes (R31, R161, R188, R355) -/

/-- The bits of a strip base that `LCBASE` holds: 56 to 8. -/
theorem lcbase_bits (p : DWord) : BitVec.ofNat 64 (p.toNat % 2 ^ 57 / 256 * 256) = p &&& 0x01FFFFFFFFFFFF00 := by
  apply BitVec.eq_of_getLsbD_eq
  intro i hi
  have hmask : (0x01FFFFFFFFFFFF00 : DWord).getLsbD i = (decide (8 ≤ i) && decide (i < 57)) := by
    interval_cases i <;> rfl
  rw [BitVec.getLsbD_and, hmask, ← BitVec.testBit_toNat, BitVec.toNat_ofNat, Nat.testBit_mod_two_pow, show (256 : Nat) = 2 ^ 8 from rfl,
    Nat.testBit_mul_two_pow, Nat.testBit_div_two_pow, Nat.testBit_mod_two_pow, BitVec.testBit_toNat]
  by_cases h8 : 8 ≤ i
  · simp [hi, h8, Bool.and_comm]
  · simp [h8]

/-- A write of a strip base or of trap registers, after which the next word follows. -/
theorem sset_writes {s : State} {w : Wave} {f : Frag} {a : SReg} {r : BitVec 8} {u : Wave} (hu : ∃ b t, u = { w with lcbase := b, treg := t })
    (h : exec (.sset a r) s = done s u f) : ScalarDone (.sset a r) s u f (rdS w) (rdM w f) f.flags (f.pc + 4) := by
  obtain ⟨b, t, rfl⟩ := hu
  exact done_scalarDone h rfl rfl rfl (fun _ => rfl) (fun _ => rfl)

/-- The numbers of the registers that `SSET` writes (R31). -/
def ssetRegs : List (BitVec 8) := [0x12, 0x14, 0x16, 0x18, 0x1A, 0x1B]

/-- `SSET` at S by its register. -/
theorem exec_sset_supervisor {s : State} {w : Wave} {f : Frag} (hI : Issues s w f) (hp : w.priv = .s) (a : SReg) :
    (w.strips = [] → exec (.sset a 0x12) s = done s { w with lcbase := rdP w a.toNat &&& 0x01FFFFFFFFFFFF00 } f)
    ∧ (w.strips ≠ [] → exec (.sset a 0x12) s = blocked s w f .strips)
    ∧ exec (.sset a 0x14) s = done s { w with treg := { w.treg with cause := rdS w a.toNat &&& 0x3FF } } f
    ∧ exec (.sset a 0x16) s = done s { w with treg := { w.treg with pc := rdP w a.toNat } } f
    ∧ exec (.sset a 0x18) s = done s { w with treg := { w.treg with addr := rdP w a.toNat } } f
    ∧ exec (.sset a 0x1A) s = done s { w with treg := { w.treg with mask := rdS w a.toNat } } f
    ∧ exec (.sset a 0x1B) s = done s { w with treg := { w.treg with info := rdS w a.toNat } } f
    ∧ ∀ r, r ∉ ssetRegs → exec (.sset a r) s = illegalS s w f := by
  refine ⟨fun hs => ?_, fun hs => ?_, ?_, ?_, ?_, ?_, ?_, fun r hr => ?_⟩
  case refine_1 =>
    rw [exec_sset, execSset, onFrag_issues hI, ← lcbase_bits]
    simp [hp, hs]
  case refine_8 =>
    have hne : ∀ k ∈ ssetRegs, r.toNat ≠ k.toNat := fun k hk h => hr (BitVec.eq_of_toNat_eq h ▸ hk)
    simp [ssetRegs] at hne
    rw [exec_sset, execSset, onFrag_issues hI]
    simp only [hp]
    split
    · rfl
    · split
      case h_7 => rfl
      all_goals omega
  all_goals
    rw [exec_sset, execSset, onFrag_issues hI]
    simp [*]

/-- `SSET` at U raises `ILLEGAL`. -/
theorem exec_sset_user {s : State} {w : Wave} {f : Frag} (hI : Issues s w f) (hp : w.priv = .u) (a : SReg) (r : BitVec 8) :
    exec (.sset a r) s = illegalS s w f := by
  rw [exec_sset, execSset, onFrag_issues hI]
  simp [hp]

/-- Settles O7: the status words by their fields, the other reads by their numbers, and `SSET` by its register. -/
theorem controlRegisters : Obligations.ControlRegisters := by
  refine ⟨fun s w => ⟨fun r x h => ?list, rfl, rfl, fun c n hc hn => ?ctx, fun hp => ?atS, fun hp => ?atU, rfl, rfl, rfl, rfl, rfl,
      fun h => ⟨_, rfl, fun n hn => feedStat_fields h n hn⟩, fun h => ⟨_, rfl, fun q hq => evStat_fields h q hq⟩,
      fun g hg hf ht hr => ⟨_, rfl, trayStat_fields hg hf ht hr⟩, ctlRead_eq_none s w,
      fun f c d r hU hr => illegalS_taken hU (exec_sget_unlisted hU.1 d hr)⟩,
    fun s w f a hI hp => ?writes, fun s w f c a r hU => illegalS_taken hU (exec_sset_user hU.1 hU.2.1 a r)⟩
  case list =>
    simp only [List.mem_cons, Prod.mk.injEq, List.not_mem_nil, or_false] at h
    rcases h with ⟨rfl, rfl⟩ | ⟨rfl, rfl⟩ | ⟨rfl, rfl⟩ | ⟨rfl, rfl⟩ | ⟨rfl, rfl⟩ | ⟨rfl, rfl⟩ | ⟨rfl, rfl⟩ | ⟨rfl, rfl⟩ | ⟨rfl, rfl⟩
      | ⟨rfl, rfl⟩ | ⟨rfl, rfl⟩ | ⟨rfl, rfl⟩ | ⟨rfl, rfl⟩ <;> rfl
  case ctx => simp [ctlRead, ctxReg, hc, hn]
  case atS => simp [ctlRead, hp]
  case atU => simp [ctlRead, hp]
  case writes =>
    obtain ⟨hbase, hheld, hcause, hpc, haddr, hmask, hinfo, hother⟩ := exec_sset_supervisor hI hp a
    exact ⟨fun hs => sset_writes ⟨_, _, rfl⟩ (hbase hs), hheld, sset_writes ⟨_, _, rfl⟩ hcause, sset_writes ⟨_, _, rfl⟩ hpc,
      sset_writes ⟨_, _, rfl⟩ haddr, sset_writes ⟨_, _, rfl⟩ hmask, sset_writes ⟨_, _, rfl⟩ hinfo, hother⟩

end Sys2Proof.Machine
end

section
/-! PROOFS. A lane turn starts no halo push (R287): a word that is refused as it runs leaves its core's halo data where it was. -/

namespace Sys2Proof.Machine

/-! ## A `TRAYPUT` of a kernel without trays, over a core with a dirty halo line -/

namespace RefusedRelease

/-- `TRAYPUT` of one payload register to configuration 0: a release, whose core pushes its halo lines first (R234, R287). -/
def put : LXWord :=
  { guard := 0, stop := false, vd := 0, va := 1, vb := 2, sbase := 0, ty := .n32, scope := .wave, order := .rlx, scale := 0,
    claim := false, nov := false, aux := 0, imm24 := 1 }

/-- The bytes of the word. -/
def code : List Byte := [0x01, 0x00, 0x00, 0x00, 0x00, 0x07, 0x00, 0x81, 0x00, 0x00, 0x80, 0xB0]

/-- A halo region of one line, behind the code, which core 0 owns and of which no other core holds a replica. -/
def region : Halo :=
  { base := 0x20080, pitch := 128, tw := 1, th := 1, tilesX := 1, tilesY := 1, hx := 0, hy := 0, owners := [0], map := [(2, 2)] }

/-- The machine that runs the word next, with an unpushed byte of that line. -/
def start : State :=
  let s := State.reset.withFetchWord 96 (numOf code)
  { s with ctxs := [(1, { placeCtx with halos := [(0, region)] })], coh := { s.coh with haloDirty := [(0x20085, 9)] } }

/-- Its state at the turn. -/
def atTurn : State := nextTime { start with turns := [] }

/-- The strip that holds the word. -/
def strip : Strip := { lcidx := 0, len := 1, b := false }

/-- The fetch of the word. -/
def fetch : State × Except FetchRes (List Byte) :=
  fetchParts { atTurn with cur := { core := 0, slot := 0, b := false } } (placeWave true) (laneAddr (placeWave true) strip 0) 3

/-- The push that goes before a release. -/
def pushed : State × Bool := pushStep fetch.1 0 true

/-- The unpushed halo bytes after an outcome. -/
def unpushed (o : Out) : List Host.Cell :=
  match o with
  | .next t => t.coh.haloDirty
  | _ => []

theorem fetch_eq : fetch = (fetch.1, .ok code) := Prod.ext rfl (by decide +kernel)

/-- No replica has to answer: the push commits as it starts. -/
theorem pushed_eq : pushed = (pushed.1, false) := Prod.ext rfl (by decide +kernel)

/-- The step refuses the word, and pushes nothing. -/
theorem unpushed_step : unpushed (step start) = [(0x20085, 9)] := by decide +kernel

/-- Run over the state that the push has made, the word leaves nothing to push. -/
theorem unpushed_after : unpushed (exec (.trayput put) (putWave pushed.1 { placeWave true with starved := false })) = [] := by
  decide +kernel

end RefusedRelease

open RefusedRelease in
/-- Refutes O56: a lane turn does not start its core's push. A `TRAYPUT` to a configuration that its kernel does not have raises
`ILLEGAL` with the halo byte unpushed, where the meaning over the pushed state has it pushed. -/
theorem not_stepRunsDecoded : ¬ Obligations.StepRunsDecoded := by
  rintro ⟨-, hlane, -⟩
  have hstep := hlane start 0 0 [] (placeWave true) strip [] fetch.1 code (.trayput put) pushed.1 rfl rfl rfl (by decide) fetch_eq
    (by decide +kernel) (by decide +kernel) (by decide +kernel) (by decide +kernel) (by decide +kernel) (by decide +kernel) pushed_eq
  have hsame := unpushed_step.symm.trans ((congrArg unpushed hstep).trans unpushed_after)
  cases hsame

end Sys2Proof.Machine
end

section
/-! PROOFS. Fixed-latency lane words: operands as they stand, results lane by lane, and the L-stream going past (R5, R164 to R166). -/

namespace Sys2Proof.Machine

/-! ## Elements of a vector register (R14) -/

theorem getLsbD_laneGet (v : VReg) (l i : Nat) : (laneGet v l).getLsbD i = (decide (i < 32) && v.getLsbD (32 * l + i)) := by
  simp [laneGet, Nat.add_comm]

theorem laneGet_laneSet (v : VReg) {l m : Nat} (x : Word) (hl : l < 32) (hm : m < 32) :
    laneGet (laneSet v l x) m = if m = l then x else laneGet v m := by
  apply BitVec.eq_of_getLsbD_eq
  intro i hi
  have hmask : (0xFFFFFFFF : VReg) = BitVec.setWidth 1024 (BitVec.allOnes 32) := by decide +kernel
  have hin : 32 * m + i < 1024 := by omega
  rw [getLsbD_laneGet, laneSet, hmask]
  simp only [BitVec.getLsbD_or, BitVec.getLsbD_and, BitVec.getLsbD_not, BitVec.getLsbD_shiftLeft, BitVec.getLsbD_setWidth,
    BitVec.getLsbD_allOnes]
  by_cases h : m = l
  · subst h
    have hsub : 32 * m + i - 32 * m = i := by omega
    simp [hi, hin, hsub, show i < 1024 by omega]
  · rw [if_neg h, getLsbD_laneGet]
    rcases Nat.lt_or_gt_of_ne h with hlt | hgt
    · have : 32 * m + i < 32 * l := by omega
      simp [hi, hin, this]
    · have h1 : ¬ 32 * m + i < 32 * l := by omega
      have h2 : ¬ 32 * m + i - 32 * l < 32 := by omega
      have h3 : x.getLsbD (32 * m + i - 32 * l) = false := BitVec.getLsbD_of_ge _ _ (by omega)
      simp [hi, hin, h1, h2, h3]

theorem rdElem_wrElem (w : Wave) {l m : Nat} (r q : Nat) (x : Word) (hl : l < 32) (hm : m < 32) :
    rdElem (wrElem w r l x) q m = if q = r ∧ m = l then x else rdElem w q m := by
  unfold rdElem wrElem
  dsimp only
  rw [Tab.get_set]
  by_cases hq : q = r
  · simp only [hq, if_true, true_and, laneGet_laneSet _ _ hl hm]
  · simp only [hq, if_false, false_and]

/-! ## Results of a type (R51, R53) -/

/-- Word `k` of the register write of a result's bits. -/
def resultWord (t : LType) (x k : Nat) : Word :=
  if is64 t then BitVec.ofNat 32 (x / 2 ^ (32 * k))
  else if isSigned t then BitVec.ofInt 32 (sgn (ltypeBits t) x)
  else BitVec.ofNat 32 (x % 2 ^ ltypeBits t)

theorem elemWrites_eq (t : LType) (r l x : Nat) : elemWrites t r l x
    = if is64 t then [.v r l (resultWord t x 0), .v (r + 1) l (resultWord t x 1)] else [.v r l (resultWord t x 0)] := by
  unfold elemWrites resultWord
  cases h : is64 t <;> cases isSigned t <;> simp

/-- An element after a result's writes in one lane. -/
theorem rdElem_elemWrites (w : Wave) (t : LType) (r x q : Nat) {l m : Nat} (hl : l < 32) (hm : m < 32) :
    rdElem (applyWrites w (elemWrites t r l x)) q m
      = if m = l ∧ q = r then resultWord t x 0
        else if m = l ∧ is64 t = true ∧ q = r + 1 then resultWord t x 1 else rdElem w q m := by
  rw [elemWrites_eq]
  cases is64 t
  · simp only [Bool.false_eq_true, if_false, applyWrites, List.foldl_cons, List.foldl_nil, applyWrite, rdElem_wrElem _ _ _ _ hl hm,
      false_and, and_false]
    exact if_congr and_comm rfl rfl
  · simp only [if_true, applyWrites, List.foldl_cons, List.foldl_nil, applyWrite, rdElem_wrElem _ _ _ _ hl hm, true_and]
    by_cases h1 : m = l <;> by_cases h2 : q = r <;> simp [h1, h2]

/-- The elements after results go to register `vd`, or a pair, in some lanes. -/
theorem rdElem_perLane (t : LType) (vd : Nat) (x : Nat → Nat) (ls : List Nat) (hls : ∀ l ∈ ls, l < 32) (w : Wave) (q : Nat) {m : Nat}
    (hm : m < 32) : rdElem (applyWrites w (ls.flatMap (fun l => elemWrites t vd l (x l)))) q m
      = if m ∈ ls ∧ q = vd then resultWord t (x m) 0
        else if m ∈ ls ∧ is64 t = true ∧ q = vd + 1 then resultWord t (x m) 1 else rdElem w q m := by
  induction ls generalizing w with
  | nil => simp [applyWrites]
  | cons l ls ih =>
    have hl : l < 32 := hls l (by simp)
    have happ : applyWrites w ((l :: ls).flatMap (fun l => elemWrites t vd l (x l)))
        = applyWrites (applyWrites w (elemWrites t vd l (x l))) (ls.flatMap (fun l => elemWrites t vd l (x l))) := by
      simp [applyWrites, List.foldl_append]
    rw [happ, ih (fun k hk => hls k (by simp [hk])), rdElem_elemWrites _ _ _ _ _ hl hm]
    by_cases h1 : m = l
    · subst h1
      by_cases h2 : q = vd <;> by_cases h3 : is64 t = true ∧ q = vd + 1 <;> simp [h2, h3]
    · simp [h1]

/-- The words of a result depend on its bits alone: those of any integer equal to them modulo the type's range. -/
theorem resultWord_eq {t : LType} {x k : Nat} {e : Int} (h : (x : Int) ≡ e [ZMOD 2 ^ ltypeBits t]) (hk : k < 2) (hw : k = 0 ∨ is64 t = true) :
    resultWord t x k = laneVal t e k := by
  have hbits : BitVec.ofInt (ltypeBits t) e = BitVec.ofNat (ltypeBits t) x := by
    apply BitVec.eq_of_toNat_eq
    rw [← BitVec.ofInt_natCast, BitVec.toNat_ofInt, BitVec.toNat_ofInt, Nat.cast_pow, Nat.cast_ofNat, h]
  unfold resultWord laneVal
  cases h64 : is64 t
  · simp only [Bool.false_eq_true, if_false, hbits]
    cases isSigned t
    · simp only [Bool.false_eq_true, if_false]
      exact BitVec.eq_of_toNat_eq (by simp)
    · simp only [if_true, BitVec.signExtend, sgn_eq_toInt]
  · have h64' : ltypeBits t = 64 := by simpa [is64] using h64
    rw [h64'] at hbits
    simp only [if_true, hbits]
    apply BitVec.eq_of_toNat_eq
    interval_cases k
    · simp
    · simp [Nat.shiftRight_eq_div_pow]; omega

/-! ## Reads and writes with no operation outstanding (R166) -/

theorem rdV_quiet (s : State) {w : Wave} (h : w.ops = []) (r l : Nat) : rdV s w r l = rdElem w r l := by
  simp [rdV, pendingElem, h]

theorem rdLaneM_quiet (s : State) {w : Wave} (h : w.ops = []) (f : Frag) (n : Nat) : rdLaneM s w f n = rdM w f n := by
  simp [rdLaneM, h]

theorem applyWrite_ops (w : Wave) (x : RegWrite) : (applyWrite w x).ops = w.ops := by
  cases x with
  | v r l v => rfl
  | m n l b => simp only [applyWrite, wrMaskBit]; rw [wrM_eq]
  | s r v => simp only [applyWrite]; rw [wrS_eq]

theorem fixedWrite_quiet (s : State) {w : Wave} (h : w.ops = []) (k : Nat) (x : RegWrite) : fixedWrite s w k x = applyWrite w x := by
  have hw : { w with ops := w.ops.map (fun o => { o with res := o.res.filter (fun y => !sameDest x y) }) } = w := by
    rw [h, List.map_nil, ← h]
  simp only [fixedWrite, h, List.any_nil, Bool.false_and, Bool.false_eq_true, if_false]
  rw [← h, hw]

/-- With no unsettled write in the way the writes are applied in order. -/
theorem fixedWrites_quiet (s : State) {w : Wave} (h : w.ops = []) (ws : List RegWrite) : fixedWrites s w ws = applyWrites w ws := by
  have key : ∀ (ws : List RegWrite) (ks : List Nat) (w : Wave), w.ops = [] → ws.length ≤ ks.length →
      (ws.zip ks).foldl (fun v p => fixedWrite s v p.2 p.1) w = ws.foldl applyWrite w := by
    intro ws
    induction ws with
    | nil => intros; rfl
    | cons x ws ih =>
      intro ks w hw hlen
      cases ks with
      | nil => simp at hlen
      | cons k ks =>
        simp only [List.zip_cons_cons, List.foldl_cons]
        rw [fixedWrite_quiet s hw]
        exact ih ks _ (by rw [applyWrite_ops, hw]) (by simpa using hlen)
  exact key ws _ w h (by simp)

/-- Writes to elements and masks keep every other field. -/
theorem applyWrites_frame (ws : List RegWrite) (hws : ∀ x ∈ ws, isScalarWrite x = false) (w : Wave) :
    applyWrites w ws = { w with vregs := (applyWrites w ws).vregs, masks := (applyWrites w ws).masks } := by
  induction ws generalizing w with
  | nil => rfl
  | cons x ws ih =>
    refine (ih (fun y hy => hws y (by simp [hy])) (applyWrite w x)).trans ?_
    cases x with
    | v r l v => rfl
    | m n l b =>
      obtain ⟨m, hm⟩ : ∃ m, applyWrite w (.m n l b) = { w with masks := m } := ⟨_, wrM_eq _ _ _⟩
      simp only [applyWrites, List.foldl_cons, hm]
    | s r v => simpa [isScalarWrite] using hws (.s r v) (by simp)

theorem applyWrite_feeds (fd : Map Feed) (w : Wave) (x : RegWrite) :
    applyWrite { w with feeds := fd } x = { applyWrite w x with feeds := fd } := by
  cases x with
  | v r l v => rfl
  | m n l b => simp only [applyWrite, wrMaskBit, wrM]; split_ifs <;> rfl
  | s r v => simp only [applyWrite, wrS]; split_ifs <;> rfl

/-- Register writes do not look at the feeds. -/
theorem applyWrites_feeds (fd : Map Feed) (ws : List RegWrite) (w : Wave) :
    applyWrites { w with feeds := fd } ws = { applyWrites w ws with feeds := fd } := by
  induction ws generalizing w with
  | nil => rfl
  | cons x ws ih => exact (congrArg (fun v => applyWrites v ws) (applyWrite_feeds fd w x)).trans (ih (applyWrite w x))

/-- Writes to elements keep the masks. -/
theorem applyWrites_masks (ws : List RegWrite) (hws : ∀ x ∈ ws, ∃ r l v, x = .v r l v) (w : Wave) : (applyWrites w ws).masks = w.masks := by
  induction ws generalizing w with
  | nil => rfl
  | cons x ws ih =>
    obtain ⟨r, l, v, rfl⟩ := hws x (by simp)
    exact ih (fun y hy => hws y (by simp [hy])) _

theorem elemWrites_elements (t : LType) (r l x : Nat) : ∀ y ∈ elemWrites t r l x, ∃ r l v, y = .v r l v := by
  intro y hy
  rw [elemWrites_eq] at hy
  split_ifs at hy <;> simp at hy
  · rcases hy with rfl | rfl <;> exact ⟨_, _, _, rfl⟩
  · exact ⟨_, _, _, hy⟩

/-- The pops of a word from one feed. -/
def popOne (feeds : List Nat) (v : Wave) (f : Nat) : Wave :=
  if feeds.contains f then putFeed v f (popFeed (feedOf v f) (popsOf feeds f)) else v

/-- Popping feeds changes a wave's feeds alone. -/
theorem popFeeds_eq (w : Wave) (feeds : List Nat) : popFeeds w feeds = { w with feeds := (popFeeds w feeds).feeds } := by
  have key : ∀ (l : List Nat) (w : Wave), l.foldl (popOne feeds) w = { w with feeds := (l.foldl (popOne feeds) w).feeds } := by
    intro l
    induction l with
    | nil => intros; rfl
    | cons a l ih =>
      intro w
      refine (ih (popOne feeds w a)).trans ?_
      obtain ⟨m, hm⟩ : ∃ m, popOne feeds w a = { w with feeds := m } := by unfold popOne; split_ifs <;> exact ⟨_, rfl⟩
      simp only [List.foldl_cons, hm]
  exact key _ w

/-! ## Lane words that issue (R5, R160, R175) -/

/-- A lane executes when the fragment's mask and the guard have its bit. -/
theorem mem_lanesOf_active (w : Wave) (f : Frag) (guard l : Nat) :
    l ∈ lanesOf (f.m0 &&& rdM w f guard) ↔ activeOf w f guard l = true := by
  simp [lanesOf, activeOf]

/-- The elements after results go to register `vd`, or a pair, in the active lanes. -/
theorem rdElem_results {w : Wave} {f : Frag} {ty : LType} {vd : BitVec 8} {guard : Nat} {r : Nat → Nat} {e : Nat → Int}
    (he : ∀ l, l < 32 → (r l : Int) ≡ e l [ZMOD 2 ^ ltypeBits ty]) (v : Wave) (q : Nat) {l : Nat} (hl : l < 32) :
    rdElem (applyWrites v ((lanesOf (f.m0 &&& rdM w f guard)).flatMap (fun l => elemWrites ty vd.toNat l (r l)))) q l
      = setLanes v ty vd (activeOf w f guard) e q l := by
  have hls : ∀ l ∈ lanesOf (f.m0 &&& rdM w f guard), l < 32 := fun l h => by simp [lanesOf] at h; exact h.1
  rw [rdElem_perLane _ _ _ _ hls _ _ hl]
  simp only [mem_lanesOf_active]
  unfold setLanes
  by_cases ha : activeOf w f guard l = true
  · rw [resultWord_eq (k := 0) (he l hl) (by omega) (.inl rfl)]
    by_cases h64 : is64 ty = true
    · rw [resultWord_eq (k := 1) (he l hl) (by omega) (.inr h64)]
    · simp [h64]
  · simp [ha]

section Streams

variable {s : State} {w : Wave} {t : Strip} {f : Frag} (hS : Streams s w t f)
include hS

theorem onLane_streams (guard : Nat) (k : Wave → Strip → Frag → Word → Out) :
    onLane s guard k = k w t f (f.m0 &&& rdM w f guard) := by
  obtain ⟨rest, hs⟩ : ∃ rest, w.strips = t :: rest := List.head?_eq_some_iff.1 hS.head
  simp only [onLane, hS.wave, hs, hS.frag, rdLaneM_quiet s hS.ops]

/-- A fixed-latency word with no result in a scalar register: its results are written, and the L-stream is past it. -/
theorem fixedWord_past (feeds : List Nat) (stop : Bool) (ws : List RegWrite) (hws : ∀ x ∈ ws, isScalarWrite x = false) :
    ∃ u, fixedWord s (popFeeds w feeds) stop ws = .next (putWave s u) ∧ Past w u t ∧ u.nextOp = w.nextOp
      ∧ u.feeds = (popFeeds w feeds).feeds ∧ u.vregs = (applyWrites w ws).vregs ∧ u.masks = (applyWrites w ws).masks := by
  generalize hfd : (popFeeds w feeds).feeds = fd
  have hpop : popFeeds w feeds = { w with feeds := fd } := by rw [popFeeds_eq, hfd]
  have hwrites : fixedWrites s (popFeeds w feeds) ws
      = { w with feeds := fd, vregs := (applyWrites w ws).vregs, masks := (applyWrites w ws).masks } := by
    rw [hpop, fixedWrites_quiet s (by exact hS.ops), applyWrites_feeds]
    conv_lhs => rw [applyWrites_frame ws hws]
  have hspin : ∃ sp dm ag, spinIf s (popFeeds w feeds) (fixedWrites s (popFeeds w feeds) ws)
      = { w with vregs := (applyWrites w ws).vregs, masks := (applyWrites w ws).masks, feeds := fd, spin := sp, demoted := dm, age := ag } := by
    rw [hwrites]
    unfold spinIf
    split_ifs <;> exact ⟨_, _, _, rfl⟩
  obtain ⟨sp, dm, ag, hspin⟩ := hspin
  obtain ⟨u, hu, hpast, hnext, hfeeds, hv, hm⟩ := laneDone_past stop (applyWrites w ws).vregs (applyWrites w ws).masks fd sp dm ag
    hS.head hS.ops hS.late hS.lstop hS.trap hS.fab
  refine ⟨u, ?_, hpast, hnext, hfeeds, hv, hm⟩
  rw [fixedWord, hspin, hpop]
  exact congrArg Host.Outcome.next hu

/-- An L-format word of fixed latency whose feeds are ready. -/
theorem laneWord_past {x : LWord} {i : Instr} {g : Wave → Frag → Word → List RegWrite} (hF : FeedsReady w x) (h : exec i s = laneWord x s g)
    (hws : ∀ y ∈ g w f (f.m0 &&& rdM w f x.guard.toNat), isScalarWrite y = false) :
    ∃ u, exec i s = .next (putWave s u) ∧ Past w u t ∧ u.nextOp = w.nextOp ∧ u.feeds = (popFeeds w (feedsOf x)).feeds
      ∧ u.vregs = (applyWrites w (g w f (f.m0 &&& rdM w f x.guard.toNat))).vregs
      ∧ u.masks = (applyWrites w (g w f (f.m0 &&& rdM w f x.guard.toNat))).masks := by
  obtain ⟨hready, hfault⟩ := hF
  have hexec : exec i s = fixedWord s (popFeeds w (feedsOf x)) x.stop (g w f (f.m0 &&& rdM w f x.guard.toNat)) := by
    rw [h, laneWord, onLane_streams hS, withFeeds, hready, hfault]
    simp
  rw [hexec]
  exact fixedWord_past hS _ _ _ hws

/-- An L-format word that gives each active lane a result of its type. -/
theorem perLane_laneDone {x : LWord} {i : Instr} {r : Wave → Frag → Nat → Nat} {e : Nat → Int} (hF : FeedsReady w x)
    (h : exec i s = laneWord x s (fun v f act => perLane x act (r v f)))
    (he : ∀ l, l < 32 → (r w f l : Int) ≡ e l [ZMOD 2 ^ ltypeBits x.ty]) :
    LaneDone i s w t (feedsOf x) (setLanes w x.ty x.vd (activeOf w f x.guard.toNat) e) (fun m l => (Tab.get 0 w.masks m).getLsbD l) := by
  have hel : ∀ y ∈ perLane x (f.m0 &&& rdM w f x.guard.toNat) (r w f), ∃ r l v, y = .v r l v := by
    intro y hy
    obtain ⟨l, -, hy⟩ := List.mem_flatMap.1 hy
    exact elemWrites_elements _ _ _ _ y hy
  obtain ⟨u, hu, hpast, hnext, hfeeds, hv, hm⟩ := laneWord_past hS hF h fun y hy => by obtain ⟨_, _, _, rfl⟩ := hel y hy; rfl
  refine ⟨u, hu, hpast, hnext, hfeeds, fun q l hl => ?_, fun n l _ => by rw [hm, applyWrites_masks _ hel]⟩
  rw [← rdElem_results he w q hl]
  unfold rdElem
  rw [hv]
  rfl

end Streams

end Sys2Proof.Machine
end

section
/-! PROOFS. The integer words of the lanes: each result's bits are those of the exact integer, modulo the type's range (R51, R195 to R199). -/

namespace Sys2Proof.Machine

/-! ## Bits and integers -/

theorem ltypeBits_pos (t : LType) : 0 < ltypeBits t := by cases t <;> decide

theorem toInt_modEq {n : Nat} (x : BitVec n) : x.toInt ≡ x.toNat [ZMOD 2 ^ n] := by
  have h : x.toInt % ((2 ^ n : Nat) : Int) = x.toNat % ((2 ^ n : Nat) : Int) := by
    rw [BitVec.toInt_eq_toNat_bmod, Int.bmod_emod]
  simpa [Int.ModEq] using h

theorem natMod_modEq (n x : Nat) : ((x % 2 ^ n : Nat) : Int) ≡ x [ZMOD 2 ^ n] := by
  push_cast
  exact Int.mod_modEq _ _

theorem sgn_modEq (n x : Nat) : sgn n x ≡ x [ZMOD 2 ^ n] := by
  rw [sgn_eq_toInt]
  refine (toInt_modEq _).trans ?_
  rw [BitVec.toNat_ofNat]
  exact natMod_modEq n x

theorem low_modEq (n : Nat) (z : Int) : (low n z : Int) ≡ z [ZMOD 2 ^ n] := by
  have h : ((2 ^ n : Nat) : Int) ≠ 0 := by positivity
  rw [low, Int.toNat_of_nonneg (Int.emod_nonneg _ h), Nat.cast_pow, Nat.cast_ofNat]
  exact Int.mod_modEq _ _

/-- A source read as an integer of its type keeps its bits. -/
theorem ival_modEq (t : LType) (x : Nat) : ival t x ≡ x [ZMOD 2 ^ ltypeBits t] := by
  unfold ival
  split_ifs
  · exact sgn_modEq _ _
  · exact natMod_modEq _ _

/-- A source is a number of its type's bits. -/
theorem srcAt_lt (s : State) (w : Wave) (t : LType) (k : Src) (l : Nat) : srcAt s w t k l < 2 ^ ltypeBits t := by
  cases k with
  | reg r =>
    simp only [srcAt]
    split_ifs with h
    · have h64 : ltypeBits t = 64 := by simpa [is64] using h
      rw [h64, rdVP]
      have h1 := (rdV s w r l).isLt
      have h2 := (rdV s w (r + 1) l).isLt
      omega
    · exact Nat.mod_lt _ (by positivity)
  | all x => exact Nat.mod_lt _ (by positivity)
  | vec v => exact Nat.mod_lt _ (by positivity)

/-! ## Results (R195 to R197) -/

theorem intRange_le (t : LType) : (intRange t).1 ≤ (intRange t).2 := by cases t <;> decide

/-- With sat a result is clamped between the least and the greatest value of its type. -/
theorem intRes_modEq (t : LType) (sat : Bool) (e : Int) :
    (intRes t sat e : Int) ≡ (if sat then max (intRange t).1 (min (intRange t).2 e) else e) [ZMOD 2 ^ ltypeBits t] := by
  have hclamp : clampI (intRange t).1 (intRange t).2 e = max (intRange t).1 (min (intRange t).2 e) := by
    have hle := intRange_le t
    unfold clampI
    split_ifs <;> omega
  rw [intRes, hclamp]
  exact low_modEq _ _

theorem vMul_modEq (t : LType) (a b : Nat) : (vMul t a b : Int) ≡ ival t a * ival t b [ZMOD 2 ^ ltypeBits t] := by
  refine (natMod_modEq _ _).trans ?_
  push_cast
  exact ((ival_modEq t a).mul (ival_modEq t b)).symm

theorem vMulh_modEq (t : LType) (a b : Nat) :
    (vMulh t a b : Int) ≡ ival t a * ival t b / 2 ^ ltypeBits t [ZMOD 2 ^ ltypeBits t] := by
  simpa [vMulh] using low_modEq (ltypeBits t) (ival t a * ival t b / 2 ^ ltypeBits t)

theorem vMad_modEq (t : LType) (a b c : Nat) :
    (((a * b + c) % 2 ^ ltypeBits t : Nat) : Int) ≡ ival t a * ival t b + ival t c [ZMOD 2 ^ ltypeBits t] := by
  refine (natMod_modEq _ _).trans ?_
  push_cast
  exact (((ival_modEq t a).mul (ival_modEq t b)).add (ival_modEq t c)).symm

theorem vAndn_modEq (t : LType) {a : Nat} (b : Nat) (ha : a < 2 ^ ltypeBits t) :
    (vAndn t a b : Int) ≡ (BitVec.ofNat (ltypeBits t) a &&& ~~~ BitVec.ofNat (ltypeBits t) b).toInt [ZMOD 2 ^ ltypeBits t] := by
  have hbits : vAndn t a b = (BitVec.ofNat (ltypeBits t) a &&& ~~~ BitVec.ofNat (ltypeBits t) b).toNat := by
    rw [BitVec.toNat_and, ← BitVec.xor_allOnes, BitVec.toNat_xor, BitVec.toNat_allOnes, BitVec.toNat_ofNat, BitVec.toNat_ofNat,
      Nat.mod_eq_of_lt ha, Nat.xor_comm]
    rfl
  rw [hbits]
  exact (toInt_modEq _).symm

theorem vNot_modEq (t : LType) {a : Nat} (ha : a < 2 ^ ltypeBits t) :
    ((2 ^ ltypeBits t - 1 - a : Nat) : Int) ≡ - (a : Int) - 1 [ZMOD 2 ^ ltypeBits t] := by
  have hcast : ((2 ^ ltypeBits t - 1 - a : Nat) : Int) = 2 ^ ltypeBits t + (- (a : Int) - 1) := by
    rw [Nat.sub_sub, Nat.cast_sub (by omega)]
    push_cast
    ring
  rw [hcast]
  exact Int.add_modEq_left

theorem vShl_modEq (t : LType) (a b : Nat) : (vShl t a b : Int) ≡ ival t a * 2 ^ (b % ltypeBits t) [ZMOD 2 ^ ltypeBits t] := by
  refine (natMod_modEq _ _).trans ?_
  push_cast
  exact ((ival_modEq t a).mul_right _).symm

theorem vSar_modEq (t : LType) (a b : Nat) :
    (vSar t a b : Int) ≡ sgn (ltypeBits t) a / 2 ^ (b % ltypeBits t) [ZMOD 2 ^ ltypeBits t] := by
  simpa [vSar] using low_modEq (ltypeBits t) (sgn (ltypeBits t) a / 2 ^ (b % ltypeBits t))

/-- A rotation's two parts do not meet, so their sum is the rotated bits. -/
theorem vRol_modEq (t : LType) {a : Nat} (b : Nat) (ha : a < 2 ^ ltypeBits t) :
    (vRol t a b : Int) ≡ ((BitVec.ofNat (ltypeBits t) a).rotateLeft (b % ltypeBits t)).toInt [ZMOD 2 ^ ltypeBits t] := by
  have hbits : vRol t a b = ((BitVec.ofNat (ltypeBits t) a).rotateLeft (b % ltypeBits t)).toNat := by
    have hn := Nat.mod_lt b (ltypeBits_pos t)
    unfold vRol
    generalize ltypeBits t = n at *
    generalize b % n = k at *
    have hsplit : 2 ^ n = 2 ^ k * 2 ^ (n - k) := by rw [← pow_add]; congr 1; omega
    have hlow : a / 2 ^ (n - k) < 2 ^ k := Nat.div_lt_of_lt_mul (by rwa [mul_comm, ← hsplit])
    have hhigh : a * 2 ^ k % 2 ^ n = 2 ^ k * (a % 2 ^ (n - k)) := by rw [hsplit, mul_comm a, Nat.mul_mod_mul_left]
    dsimp only
    rw [BitVec.toNat_rotateLeft, BitVec.toNat_ofNat, Nat.mod_eq_of_lt ha, Nat.mod_eq_of_lt hn, Nat.shiftLeft_eq, Nat.shiftRight_eq_div_pow,
      hhigh, Nat.two_pow_add_eq_or_of_lt hlow]
  rw [hbits]
  exact (toInt_modEq _).symm

theorem vMin_modEq (t : LType) (a b : Nat) : (vMin t false a b : Int) ≡ min (ival t a) (ival t b) [ZMOD 2 ^ ltypeBits t] := by
  rcases lt_or_ge (ival t a) (ival t b) with h | h
  · rw [min_eq_left h.le]
    simpa [vMin, h] using (ival_modEq t a).symm
  · rw [min_eq_right h]
    simpa [vMin, h, not_lt.2 h] using (ival_modEq t b).symm

theorem vMax_modEq (t : LType) (a b : Nat) : (vMin t true a b : Int) ≡ max (ival t a) (ival t b) [ZMOD 2 ^ ltypeBits t] := by
  rcases lt_or_ge (ival t a) (ival t b) with h | h
  · rw [max_eq_right h.le]
    simpa [vMin, h] using (ival_modEq t b).symm
  · rw [max_eq_left h]
    simpa [vMin, h] using (ival_modEq t a).symm

theorem natAbs_eq_ite (z : Int) : (z.natAbs : Int) = if z < 0 then - z else z := by
  split_ifs <;> omega

theorem clz_eq (t : LType) (a : Nat) : clz (ltypeBits t) a = (BitVec.ofNat (ltypeBits t) a).clz.toNat := by
  rw [← clz_toNat _ (ltypeBits_pos t)]
  simp [clz]

theorem bitrev_modEq (t : LType) {a : Nat} (ha : a < 2 ^ ltypeBits t) :
    (bitrev (ltypeBits t) a : Int) ≡ (BitVec.ofNat (ltypeBits t) a).reverse.toInt [ZMOD 2 ^ ltypeBits t] := by
  have hbits : bitrev (ltypeBits t) a = (BitVec.ofNat (ltypeBits t) a).reverse.toNat := by
    rw [← bitrev_toNat, BitVec.toNat_ofNat, Nat.mod_eq_of_lt ha]
  rw [hbits]
  exact (toInt_modEq _).symm

/-- The field of `VBFX`: `wd` bits from bit `off`, with the sign of the type. -/
theorem vBfx_modEq (t : LType) (a b c : Nat) :
    let off := b % 2 ^ 32 % ltypeBits t
    let field := BitVec.ofNat (min (c % 2 ^ 32) (ltypeBits t - off)) (a / 2 ^ off)
    (vBfx t a b c : Int) ≡ (if isSigned t then field.toInt else field.toNat) [ZMOD 2 ^ ltypeBits t] := by
  intro off field
  have hfield : sgn (min (c % 2 ^ 32) (ltypeBits t - off)) (a / 2 ^ off % 2 ^ min (c % 2 ^ 32) (ltypeBits t - off)) = field.toInt := by
    rw [sgn_eq_toInt]
    congr 1
    exact BitVec.eq_of_toNat_eq (by simp [field])
  unfold vBfx
  dsimp only
  split_ifs
  · rw [hfield]
    exact low_modEq _ _
  · simp [field, off]

/-- `VBFI` takes the field out of the old value and puts the source's low bits there. -/
theorem vBfi_cast (t : LType) (old a b c : Nat) :
    let off := b % 2 ^ 32 % ltypeBits t
    let wd := min (c % 2 ^ 32) (ltypeBits t - off)
    (vBfi t old a b c : Int) = (old : Int) - (old / 2 ^ off % 2 ^ wd * 2 ^ off : Nat) + (a % 2 ^ wd * 2 ^ off : Nat) := by
  intro off wd
  have hle : old / 2 ^ off % 2 ^ wd * 2 ^ off ≤ old :=
    (Nat.mul_le_mul_right _ (Nat.mod_le _ _)).trans (Nat.div_mul_le_self _ _)
  unfold vBfi
  rw [Nat.cast_add, Nat.cast_sub hle]

theorem vIdx_modEq {t : LType} (ht : t = .i32 ∨ t = .n32) (a l : Nat) :
    (((a + l) % 2 ^ 32 : Nat) : Int) ≡ (a : Int) + l [ZMOD 2 ^ ltypeBits t] := by
  have hbits : ltypeBits t = 32 := by rcases ht with rfl | rfl <;> rfl
  rw [hbits, ← Nat.cast_add]
  exact natMod_modEq 32 _

/-! ## The words -/

/-- A class 0 word: each active lane takes an integer whose bits are those of the word's function of its sources. -/
theorem intWord_laneDone {s : State} {w : Wave} {t : Strip} {f : Frag} (hS : Streams s w t f) {x : LWord} (hF : FeedsReady w x) {i : Instr}
    {op : Nat → Nat → Nat → Nat} {e : Nat → Int} (h : exec i s = intWord x op s)
    (he : ∀ l, (op (srcA s w x.ty x l) (srcB s w x.ty x l) (srcC s w x.ty x l) : Int) ≡ e l [ZMOD 2 ^ ltypeBits x.ty]) :
    LaneDone i s w t (feedsOf x) (setLanes w x.ty x.vd (activeOf w f x.guard.toNat) e) (fun m l => (Tab.get 0 w.masks m).getLsbD l) :=
  perLane_laneDone hS hF (r := fun v _ l => op (srcA s v x.ty x l) (srcB s v x.ty x l) (srcC s v x.ty x l)) h fun l _ => he l

/-- What a half writes in its active lanes. -/
def halfValue (s : State) (w : Wave) (h : PHalf) (l : Nat) : Nat :=
  pairOp h (srcAt s w h.ty (.reg h.va.toNat) l) (srcAt s w h.ty (pairB w h) l) (srcAt s w h.ty (.reg h.vd.toNat) l)

theorem pairWrites_quiet (s : State) {w : Wave} (hw : w.ops = []) (f : Frag) (h : PHalf) : pairWrites s w f h
    = (lanesOf (f.m0 &&& rdM w f h.guard.toNat)).flatMap (fun l => elemWrites h.ty h.vd.toNat l (halfValue s w h l)) := by
  simp only [pairWrites, rdLaneM_quiet s hw, halfValue]

theorem pairWrites_elements (s : State) (w : Wave) (f : Frag) (h : PHalf) : ∀ y ∈ pairWrites s w f h, ∃ r l v, y = .v r l v := by
  intro y hy
  obtain ⟨l, -, hy⟩ := List.mem_flatMap.1 hy
  exact elemWrites_elements _ _ _ _ y hy

/-- The elements after a half's writes over any wave: its own results in its active lanes. -/
theorem rdElem_pairWrites (s : State) {w : Wave} (hw : w.ops = []) (f : Frag) (h : PHalf) (v : Wave) (q : Nat) {l : Nat} (hl : l < 32) :
    rdElem (applyWrites v (pairWrites s w f h)) q l
      = setLanes v h.ty h.vd (activeOf w f h.guard.toNat) (fun l => (halfValue s w h l : Nat)) q l := by
  rw [pairWrites_quiet s hw]
  exact rdElem_results (fun l _ => Int.ModEq.refl _) v q hl

/-- A P-format word: `Y`'s results stand over `X`'s, which stand over the elements before. -/
theorem lanePair_past {s : State} {w : Wave} {t : Strip} {f : Frag} (hS : Streams s w t f) (x y : PHalf) :
    ∃ v, exec (.lanePair x y) s = .next (putWave s v) ∧ Past w v t ∧ v.feeds = w.feeds ∧ v.masks = w.masks
      ∧ ∀ r l, l < 32 → rdElem v r l = setLanes (applyWrites w (pairWrites s w f x)) y.ty y.vd (activeOf w f y.guard.toNat)
          (fun l => (halfValue s w y l : Nat)) r l := by
  have hel : ∀ z ∈ pairWrites s w f x ++ pairWrites s w f y, ∃ r l v, z = .v r l v := by
    intro z hz
    rcases List.mem_append.1 hz with hz | hz
    · exact pairWrites_elements s w f x z hz
    · exact pairWrites_elements s w f y z hz
  have hnone : popFeeds w [] = w := rfl
  obtain ⟨v, hv, hpast, -, hfeeds, hvregs, hmasks⟩ :=
    fixedWord_past hS [] (x.stop || y.stop) _ fun z hz => by obtain ⟨_, _, _, rfl⟩ := hel z hz; rfl
  rw [hnone] at hv hfeeds
  refine ⟨v, ?_, hpast, hfeeds, by rw [hmasks, applyWrites_masks _ hel], fun r l hl => ?_⟩
  · rw [exec_lanePair, execLanePair, onLane_streams hS]
    exact hv
  · rw [← rdElem_pairWrites s hS.ops f y _ r hl]
    unfold rdElem
    rw [hvregs, applyWrites, List.foldl_append]
    rfl

/-- Results over a wave `v` stand where they go; elsewhere `v`'s elements do. -/
theorem setLanes_over (v w : Wave) (t : LType) (vd : BitVec 8) (act : Nat → Bool) (e : Nat → Int) (r l : Nat) :
    setLanes v t vd act e r l
      = if act l ∧ (r = vd.toNat ∨ is64 t = true ∧ r = vd.toNat + 1) then setLanes w t vd act e r l else rdElem v r l := by
  unfold setLanes
  by_cases ha : act l = true
  · by_cases hr : r = vd.toNat
    · simp [ha, hr]
    · by_cases hp : is64 t = true ∧ r = vd.toNat + 1 <;> simp [ha, hr, hp]
  · simp [ha]

/-- Settles O33: each word's function of its sources has, modulo the type's range, the exact result's bits. -/
theorem laneIntegerWords : Obligations.LaneIntegerWords := by
  unfold Obligations.LaneIntegerWords
  refine ⟨?_, ?_⟩
  · intro s w t f hS x hF
    have ha (l : Nat) : srcA s w x.ty x l < 2 ^ ltypeBits x.ty := srcAt_lt _ _ _ _ _
    exact
      ⟨intWord_laneDone hS hF (exec_vadd x s) fun l => intRes_modEq _ _ _,
       intWord_laneDone hS hF (exec_vsub x s) fun l => intRes_modEq _ _ _,
       intWord_laneDone hS hF (exec_vmul x s) fun l => vMul_modEq _ _ _,
       intWord_laneDone hS hF (exec_vmulh x s) fun l => vMulh_modEq _ _ _,
       intWord_laneDone hS hF (exec_vmad x s) fun l => vMad_modEq _ _ _ _,
       intWord_laneDone hS hF (exec_vand x s) fun l => Int.ModEq.refl _,
       intWord_laneDone hS hF (exec_vor x s) fun l => Int.ModEq.refl _,
       intWord_laneDone hS hF (exec_vxor x s) fun l => Int.ModEq.refl _,
       intWord_laneDone hS hF (exec_vandn x s) fun l => vAndn_modEq _ _ (ha l),
       intWord_laneDone hS hF (exec_vnot x s) fun l => vNot_modEq _ (ha l),
       intWord_laneDone hS hF (exec_vshl x s) fun l => vShl_modEq _ _ _,
       intWord_laneDone hS hF (exec_vshr x s) fun l => Int.ModEq.refl _,
       intWord_laneDone hS hF (exec_vsar x s) fun l => vSar_modEq _ _ _,
       intWord_laneDone hS hF (exec_vrol x s) fun l => vRol_modEq _ _ (ha l),
       intWord_laneDone hS hF (exec_vmin x s) fun l => vMin_modEq _ _ _,
       intWord_laneDone hS hF (exec_vmax x s) fun l => vMax_modEq _ _ _,
       intWord_laneDone hS hF (exec_vabs x s) fun l => natAbs_eq_ite _ ▸ intRes_modEq _ _ _,
       intWord_laneDone hS hF (exec_vneg x s) fun l => intRes_modEq _ _ _,
       intWord_laneDone hS hF (exec_vclz x s) fun l => clz_eq _ _ ▸ Int.ModEq.refl _,
       intWord_laneDone hS hF (exec_vpopc x s) fun l => popcount_eq 64 _ ▸ Int.ModEq.refl _,
       intWord_laneDone hS hF (exec_vbrev x s) fun l => bitrev_modEq _ (ha l),
       intWord_laneDone hS hF (exec_vbfx x s) fun l => vBfx_modEq _ _ _ _,
       perLane_laneDone hS hF (exec_vbfi x s) fun l _ => vBfi_cast _ _ _ _ _ ▸ Int.ModEq.refl _,
       perLane_laneDone hS hF (exec_vsel x s) fun l _ => by rw [rdLaneM_quiet s hS.ops],
       intWord_laneDone hS hF (exec_vmov x s) fun l => Int.ModEq.refl _,
       intWord_laneDone hS hF (exec_vli x s) fun l => Int.ModEq.refl _,
       fun ht => perLane_laneDone hS hF (exec_vidx x s) fun l _ => vIdx_modEq ht _ _⟩
  · intro s w t f hS x y
    obtain ⟨v, hv, hpast, hfeeds, hmasks, hel⟩ := lanePair_past hS x y
    refine ⟨v, hv, hpast, hfeeds, hmasks, fun r l hl => ?_⟩
    rw [hel r l hl, setLanes_over _ w, rdElem_pairWrites s hS.ops f x w r hl]
    rfl

end Sys2Proof.Machine
end

section
/-! PROOFS. What the coherence protocol, an access and a fabric reduction leave of the state (R82, R100, R272 to R276, R287): waves, groups,
queues and cores stay, whatever moves. -/

namespace Sys2Proof.Machine

/-- The part of a state that no step of the protocol and no access writes: the issuer, waves, groups, grids, queues, cores, accumulators and
the counters. The other fields are emptied. -/
def running (s : State) : State :=
  { s with mem := [], extBytes := [], tamper := [], sealed := [], hostLines := [], ctxs := [], coh := State.reset.coh, vm := State.reset.vm,
           link := State.reset.link, mgmt := State.reset.mgmt }

theorem cur_of_running {s t : State} (h : running t = running s) : t.cur = s.cur := by
  simpa [running] using congrArg State.cur h

/-! ## Single writes -/

@[simp] theorem running_mem (s : State) (m : List Host.Cell) : running { s with mem := m } = running s := rfl
@[simp] theorem running_coh (s : State) (c : Coh) : running { s with coh := c } = running s := rfl
@[simp] theorem running_vm (s : State) (v : Vm) : running { s with vm := v } = running s := rfl
@[simp] theorem running_link (s : State) (l : Link) : running { s with link := l } = running s := rfl
@[simp] theorem running_setDir (s : State) (line : Nat) (d : Dir) : running (setDir s line d) = running s := rfl
@[simp] theorem running_sendMsg (s : State) (m : Msg) : running (sendMsg s m) = running s := rfl
@[simp] theorem running_setL1 (s : State) (core line : Nat) (l : L1Line) : running (setL1 s core line l) = running s := rfl
@[simp] theorem running_dropL1Line (s : State) (core line : Nat) : running (dropL1Line s core line) = running s := rfl
@[simp] theorem running_setFrame (s : State) (f : Nat) (fr : Frame) : running (setFrame s f fr) = running s := rfl
@[simp] theorem running_evLog (s : State) (code agent a b : Nat) : running (evLog s code agent a b) = running s := rfl
@[simp] theorem running_noCopy (s : State) (line r : Nat) : running (noCopy s line r) = running s := rfl
@[simp] theorem running_dropCopies (s : State) (line : Nat) : running (dropCopies s line) = running s := rfl
@[simp] theorem running_ackNotice (s : State) (line src : Nat) (stale : Bool) : running (ackNotice s line src stale) = running s := rfl

theorem running_foldl {β : Type} (l : List β) (g : State → β → State) (hg : ∀ s b, running (g s b) = running s) (s : State) :
    running (l.foldl g s) = running s := by
  induction l generalizing s with
  | nil => rfl
  | cons b rest ih => exact (ih _).trans (hg s b)

/-! ## The home (R272, R273, R276, R287) -/

@[simp] theorem running_grantNote (s : State) (key : Nat) : running (grantNote s key) = running s := by
  unfold grantNote; split <;> rfl

@[simp] theorem running_frameDirty (s : State) (line : Nat) : running (frameDirty s line) = running s := by
  unfold frameDirty; split
  · split <;> rfl
  · rfl

@[simp] theorem running_homePut (s : State) (line : Nat) : running (homePut s line) = running s := by
  unfold homePut; dsimp only; split
  · rfl
  · split
    · rfl
    · split <;> rfl

@[simp] theorem running_sendInvs (s : State) (line reqr : Nat) (l : List Nat) : running (sendInvs s line reqr l) = running s :=
  running_foldl l (fun t c => sendMsg t (fromHome .inv line c reqr 0)) (fun _ _ => rfl) s

@[simp] theorem running_grantWrite (s : State) (line r : Nat) (data : Bool) (acks : Nat) (d : Dir) :
    running (grantWrite s line r data acks d) = running s := by
  unfold grantWrite; dsimp only; split <;> simp

@[simp] theorem running_homeTake (s : State) (m : Msg) : running (homeTake s m) = running s := by
  unfold homeTake
  dsimp only
  split
  · simp
  · split
    · simp
    · split
      all_goals
        split <;> try split_ifs
        all_goals simp

@[simp] theorem running_serveWaiting (fuel : Nat) (s : State) (line : Nat) : running (serveWaiting fuel s line) = running s := by
  induction fuel generalizing s with
  | zero => rfl
  | succ n ih =>
    unfold serveWaiting
    split
    · rfl
    · split
      · rfl
      · simp [ih]

@[simp] theorem running_serveLine (s : State) (line : Nat) : running (serveLine s line) = running s := running_serveWaiting _ s line

@[simp] theorem running_wroteBack (s : State) (line owner : Nat) (d : Dir) : running (wroteBack s line owner d) = running s := by
  simp [wroteBack]; rfl

@[simp] theorem running_ownerNotice (s : State) (line : Nat) (k : MsgK) (d : Dir) : running (ownerNotice s line k d) = running s := by
  unfold ownerNotice; split <;> simp

@[simp] theorem running_leaveBusy (s : State) (line : Nat) (d : Dir) : running (leaveBusy s line d) = running s := by
  unfold leaveBusy; split
  · simp
  · split <;> simp

@[simp] theorem running_settleSD (s : State) (line : Nat) (d : Dir) : running (settleSD s line d) = running s := by
  unfold settleSD; dsimp only; split_ifs <;> simp

@[simp] theorem running_homeNotice (s : State) (m : Msg) : running (homeNotice s m) = running s := by
  unfold homeNotice; dsimp only; split_ifs <;> simp

@[simp] theorem running_homeUnblock (s : State) (m : Msg) : running (homeUnblock s m) = running s := by
  unfold homeUnblock; dsimp only; split <;> simp

@[simp] theorem running_homeOwnAck (s : State) (m : Msg) : running (homeOwnAck s m) = running s := by
  unfold homeOwnAck; dsimp only; split_ifs <;> simp

@[simp] theorem running_homeWbData (s : State) (m : Msg) : running (homeWbData s m) = running s := by
  unfold homeWbData; dsimp only; split_ifs <;> simp

theorem running_homeRequest {s t : State} {m : Msg} (h : homeRequest s m = some t) : running t = running s := by
  unfold homeRequest at h
  split_ifs at h <;> (injection h with h; subst h; simp)

@[simp] theorem running_commitPush (s : State) (core : Nat) : running (commitPush s core) = running s :=
  running_foldl _ _ running_frameDirty s

@[simp] theorem running_homeHAck (s : State) (m : Msg) : running (homeHAck s m) = running s := by
  unfold homeHAck; dsimp only; split_ifs <;> simp

theorem running_atHome {s t : State} {m : Msg} (h : atHome s m = some t) : running t = running s := by
  unfold atHome at h
  split at h
  case h_1 | h_2 | h_3 => exact running_homeRequest h
  all_goals (injection h with h; subst h; simp)

/-! ## The L1s (R274 to R276, R429) -/

@[simp] theorem running_evictL1 (s : State) (core line : Nat) (l : L1Line) : running (evictL1 s core line l) = running s := by
  unfold evictL1; split
  · rfl
  · dsimp only; split <;> simp

@[simp] theorem running_fillL1 (ev : Bool) (s : State) (core line : Nat) (l : L1Line) (st : L1St) :
    running (fillL1 ev s core line l st) = running s := by
  unfold fillL1; dsimp only; split <;> simp

@[simp] theorem running_checkAcks (ev : Bool) (s : State) (core line : Nat) (l : L1Line) :
    running (checkAcks ev s core line l) = running s := by
  unfold checkAcks; split <;> simp

@[simp] theorem running_l1Grant (ev : Bool) (s : State) (m : Msg) (l : L1Line) : running (l1Grant ev s m l) = running s := by
  unfold l1Grant; split <;> simp

@[simp] theorem running_l1FwdGetS (s : State) (m : Msg) (l : L1Line) : running (l1FwdGetS s m l) = running s := rfl

@[simp] theorem running_l1FwdGetM (s : State) (m : Msg) (l : L1Line) : running (l1FwdGetM s m l) = running s := by
  unfold l1FwdGetM; dsimp only; split <;> try split_ifs
  all_goals simp

@[simp] theorem running_l1NoticeAck (s : State) (m : Msg) (l : L1Line) : running (l1NoticeAck s m l) = running s := by
  unfold l1NoticeAck; split_ifs <;> simp

theorem running_atL1 {ev : Bool} {s t : State} {m : Msg} (h : atL1 ev s m = some t) : running t = running s := by
  unfold atL1 at h
  dsimp only at h
  split at h
  · split at h <;> (injection h with h; subst h; simp)
  · split at h
    case h_6 =>
      split at h <;> try split_ifs at h
      all_goals (cases h; try simp)
    case h_14 => injection h with h; subst h; split <;> simp
    all_goals (try split_ifs at h) <;> (cases h; try split_ifs) <;> simp

/-! ## Delivery, settling and recalls (R272, R279) -/

@[simp] theorem running_dropMsg (s : State) (id : Nat) : running (dropMsg s id) = running s := by
  unfold dropMsg; dsimp only; split_ifs <;> simp

theorem running_deliver {ev : Bool} {s t : State} {k : Nat} (h : deliver ev s k = some t) : running t = running s := by
  unfold deliver at h
  dsimp only at h
  split at h
  · cases h
  · split_ifs at h
    · injection h with h; subst h; simp
    · exact (running_atHome h).trans (running_coh s _)
    · exact (running_atL1 h).trans (running_coh s _)

@[simp] theorem running_quiesce (fuel : Nat) (s : State) (line : Nat) : running (quiesce fuel s line) = running s := by
  induction fuel generalizing s with
  | zero => rfl
  | succ n ih =>
    unfold quiesce
    dsimp only
    split
    · rfl
    · rename_i t ht
      obtain ⟨k, -, hk⟩ := List.exists_of_findSome?_eq_some ht
      split_ifs at hk
      exact (ih t).trans (running_deliver hk)

@[simp] theorem running_settleLine (s : State) (line : Nat) : running (settleLine s line) = running s := by
  unfold settleLine; split_ifs <;> simp

@[simp] theorem running_recallLine (s : State) (line : Nat) : running (recallLine s line) = running s := by
  unfold recallLine; dsimp only; split_ifs <;> simp

@[simp] theorem running_homeWrite (s : State) (line : Nat) : running (homeWrite s line) = running s := by simp [homeWrite]

@[simp] theorem running_homeRead (s : State) (line : Nat) : running (homeRead s line) = running s := by
  unfold homeRead; dsimp only
  rw [running_homePut]
  split_ifs
  · split <;> try split_ifs
    all_goals simp
  · simp

/-! ## Stores at the home, and reductions on their way (R100, R414) -/

@[simp] theorem running_putNum (s : State) (key n x : Nat) : running (putNum s key n x) = running s := by
  unfold putNum; dsimp only; rw [running_mem]; split_ifs <;> simp

@[simp] theorem running_fabDrain (s : State) (core slot : Nat) : running (fabDrain s core slot) = running s := by
  unfold fabDrain fabArriveAll; split_ifs
  · rfl
  · exact running_foldl _ _ (fun _ _ => running_putNum _ _ _ _) _

/-! ## One access (R255, R270, R286, R290, R301, R408) -/

@[simp] theorem running_sheetNote (s : State) (ctx va : Nat) (touch miss : Bool) : running (sheetNote s ctx va touch miss) = running s := rfl
@[simp] theorem running_tlbPut (s : State) (core ctx va : Nat) (l : Leaf) : running (tlbPut s core ctx va l) = running s := rfl
@[simp] theorem running_sealLine (s : State) (ctx line : Nat) (l : Leaf) : running (sealLine s ctx line l) = running s := rfl

@[simp] theorem running_failFetch (s : State) (ctx line va : Nat) : running (failFetch s ctx line va) = running s := by
  unfold failFetch; split_ifs <;> rfl

@[simp] theorem running_clockNote (s : State) (page : Nat) : running (clockNote s page) = running s := by
  unfold clockNote; split <;> rfl

@[simp] theorem running_localFrame (s : State) (ctx page : Nat) : running (localFrame s ctx page) = running s := by
  unfold localFrame; split <;> rfl

@[simp] theorem running_extTouch (s : State) (line : Nat) (plain : Bool) : running (extTouch s line plain) = running s := by
  unfold extTouch; dsimp only; split_ifs <;> rfl

@[simp] theorem running_linkSend (s : State) (ctx id line : Nat) (wr : Bool) : running (linkSend s ctx id line wr) = running s := by
  unfold linkSend; split_ifs <;> rfl

@[simp] theorem running_hostWriteBack (s : State) (line : Nat) : running (hostWriteBack s line) = running s := by
  unfold hostWriteBack; split <;> rfl

@[simp] theorem running_hostDrop (s : State) (line : Nat) : running (hostDrop s line) = running s := running_hostWriteBack s line

@[simp] theorem running_hostFill (s : State) (line : Nat) : running (hostFill s line) = running s := by
  unfold hostFill; dsimp only
  split_ifs
  · split
    · exact running_hostDrop s line
    · exact running_hostDrop s line
  · split <;> rfl

@[simp] theorem running_dropBad (s : State) (core line : Nat) : running (dropBad s core line) = running s := by
  unfold dropBad; split <;> simp

@[simp] theorem running_haloTouch (s : State) (core key : Nat) : running (haloTouch s core key) = running s := by
  unfold haloTouch; dsimp only; 
  split_ifs
  · split <;> simp
  · split <;> simp
  · rfl

@[simp] theorem running_l1Ask (s : State) (core line : Nat) (wr : Bool) : running (l1Ask s core line wr).1 = running s := by
  unfold l1Ask; dsimp only
  split
  · split <;> simp
  · split <;> simp

@[simp] theorem running_claimLine (s : State) (core line : Nat) : running (claimLine s core line) = running s := by simp [claimLine]

@[simp] theorem running_joinLine (s : State) (core line : Nat) (k : AccKind) (claim : Bool) :
    running (joinLine s core line k claim).1 = running s := by
  cases k <;> simp [joinLine, apply_ite Prod.fst, apply_ite running]

/-- However an access comes out, it leaves what runs as it was. -/
theorem running_access (s : State) (core slot ctx : Nat) (priv : Priv) (va n : Nat) (k : AccKind) (claim : Bool) :
    running (access s core slot ctx priv va n k claim).1 = running s := by
  unfold access
  split
  · split_ifs <;> simp
  · simp
  · simp [apply_ite Prod.fst, apply_ite running]

/-- The issuing place of an access's state is that of the state before it. -/
theorem access_cur {s t : State} {core slot ctx va n : Nat} {priv : Priv} {k : AccKind} {claim : Bool} {r : AccRes}
    (h : access s core slot ctx priv va n k claim = (t, r)) : t.cur = s.cur :=
  cur_of_running (by rw [← running_access s core slot ctx priv va n k claim, h])

end Sys2Proof.Machine
end

section
/-! PROOFS. Branches on masks, calls, returns, words without effect and reads of control registers (R89, R184, R186, R188). -/

namespace Sys2Proof.Machine

/-! ## Words that end over their wave -/

/-- A word that ends with the wave `u` over the state `t`, which its own effect has made of `s`: `u` differs from `w` in registers, masks and
scheduling counts. -/
theorem goTo_scalarDoneAt {i : Instr} {s t : State} {w u : Wave} {f : Frag} {pc : DWord} {regs masks : Nat → Word}
    (h : exec i s = goTo t u f pc) (hcur : t.cur = s.cur)
    (hu : u = { w with sregs := u.sregs, masks := u.masks, spin := u.spin, demoted := u.demoted, age := u.age })
    (hr : ∀ n, rdS u n = regs n) (hm : ∀ n, rdM u f n = masks n) : ScalarDoneAt i s t w f regs masks f.flags pc := by
  have hother : fragOf u (!t.cur.b) = fragOf w (!t.cur.b) := by rw [hu]; cases t.cur.b <;> rfl
  obtain ⟨v, hv, hmoved, hregs, hmasks⟩ := goTo_spec t w u f f pc rfl hother (by rw [hu])
  exact ⟨v, h.trans hv, hcur ▸ hmoved, fun n => (hregs n).trans (hr n), fun n => (hmasks n).trans (hm n)⟩

/-- A word that leaves the wave `u` in place of the issuing one, and goes on to the next word. -/
theorem done_leaves {i : Instr} {s t : State} {u : Wave} {f : Frag} (h : exec i s = done t u f) (hcur : t.cur = s.cur) :
    ScalarDoneAt i s t u f (rdS u) (rdM u f) f.flags (f.pc + 4) :=
  goTo_scalarDoneAt h hcur rfl (fun _ => rfl) (fun _ => rfl)

/-! ## Branches, calls and returns (R184) -/

/-- A branch taken over the wave `u`, which differs from the issuing one in its registers. -/
theorem branchTo_scalarDone {i : Instr} {s : State} {w u : Wave} {f : Frag} {pc : DWord} {regs : Nat → Word}
    (h : exec i s = branchTo s u f pc) (hu : u = { w with sregs := u.sregs }) (hr : ∀ n, rdS u n = regs n) :
    ScalarDone i s w f regs (rdM w f) f.flags pc := by
  have hm (n : Nat) : rdM u f n = rdM w f n := by rw [hu]; rfl
  rw [branchTo] at h
  split_ifs at h
  · exact goTo_scalarDoneAt (u := { u with spin := u.spin + 1 }) h rfl (by rw [hu]) hr hm
  · exact goTo_scalarDoneAt h rfl (by rw [hu]) hr hm

theorem exec_call_frag {s : State} {w : Wave} {f : Frag} (hI : Issues s w f) (o : BitVec 22) :
    exec (.call o) s = branchTo s (wrP w 190 (f.pc + 4)) f (target f o) := by
  rw [exec_call, execCall, onFrag_issues hI]

theorem exec_ret_aligned {s : State} {w : Wave} {f : Frag} {a : SReg} (hI : Issues s w f) (h4 : (rdP w a.toNat).toNat % 4 = 0)
    (hlim : (rdP w a.toNat).toNat < 2 ^ 57) : exec (.ret a) s = branchTo s w f (rdP w a.toNat) := by
  rw [exec_ret, execRet, onFrag_issues hI]
  simp only [h4, ne_eq, not_true_eq_false, if_false, Nat.not_le.2 hlim]

/-! ## Reads of control registers (R31, R188) -/

theorem ctlWide_iff (r : BitVec 8) : ctlWide r = true ↔ r = 0x0E ∨ r = 0x10 ∨ r = 0x12 ∨ r = 0x16 ∨ r = 0x18 := by
  simp [ctlWide, or_assoc]

/-- `SGET` of a listed register: a pair for a 64-bit one. -/
theorem exec_sget_listed {s : State} {w : Wave} {f : Frag} {r : BitVec 8} {x : DWord} (hI : Issues s w f) (d : SReg)
    (hx : ctlRead s w r.toNat = some x) :
    exec (.sget d r) s = done s (if ctlWide r then wrP w d.toNat x else wrS w d.toNat (x.setWidth 32)) f := by
  rw [exec_sget, execSget, onFrag_issues hI, hx]

/-- Settles O6: a branch, a write of a pair or of a register, or no change but the pc. -/
theorem controlWords : Obligations.ControlWords := by
  intro s w f hI goes
  refine ⟨fun m o => ⟨fun hz => ⟨?_, ?_⟩, fun hz => ⟨?_, ?_⟩⟩, fun o => ?call, fun a h4 hlim => ?ret, ?nop, ?yield, fun n => ?hint, fun hs => ?drain,
    fun d r x hx => ⟨fun hr => ?pair, fun hr => ?reg⟩⟩
  · exact branchIf_taken hI (exec_bmz m o s) (beq_iff_eq.2 hz)
  · exact branchIf_untaken hI (exec_bmnz m o s) (bne_eq_false_iff_eq.2 hz)
  · exact branchIf_untaken hI (exec_bmz m o s) (beq_eq_false_iff_ne.2 hz)
  · exact branchIf_taken hI (exec_bmnz m o s) (bne_iff_ne.2 hz)
  case call => exact branchTo_scalarDone (exec_call_frag hI o) (wrP_eq _ _ _) (rdS_wrP w 190 · _)
  case ret => exact branchTo_scalarDone (exec_ret_aligned hI h4 hlim) rfl (fun _ => rfl)
  case nop => exact done_leaves (by rw [exec_nop, execNop, doneWith, onFrag_issues hI]) rfl
  case yield =>
    exact goTo_scalarDoneAt (u := { w with age := s.clock.toNat }) (by rw [exec_yield, execYield, doneWith, onFrag_issues hI]; rfl) rfl rfl
      (fun _ => rfl) (fun _ => rfl)
  case hint => exact done_leaves (by rw [exec_hint, execHint, doneWith, onFrag_issues hI]) rfl
  case drain => exact done_leaves (by rw [exec_ldrain, execLdrain, onFrag_issues hI, if_neg (not_not.2 hs)]) rfl
  case pair =>
    have h := exec_sget_listed hI d hx
    rw [if_pos ((ctlWide_iff r).2 hr)] at h
    exact goTo_scalarDoneAt h rfl (by rw [wrP_eq]) (rdS_wrP w _ · x) (rdM_wrP w f _ · x)
  case reg =>
    have h := exec_sget_listed hI d hx
    rw [if_neg fun hw => hr ((ctlWide_iff r).1 hw)] at h
    exact goTo_scalarDoneAt h rfl (by rw [wrS_eq]) (rdS_wrS w _ · _) (rdM_wrS w f _ · _)

end Sys2Proof.Machine
end

section
/-! PROOFS. Strips, feeds, fences and back-offs (R160, R177, R185, R249, R264). -/

namespace Sys2Proof.Machine

/-! ## Strips (R160, R185) -/

/-- The wave with a strip behind those queued. -/
def queueStrip (w : Wave) (t : Strip) : Wave := { w with strips := w.strips ++ [t] }

/-- A strip for which the queue has a place, and which no earlier one holds back, is appended. -/
theorem enqueue_place {s : State} {w : Wave} {l : BitVec 18} {n : Nat} (f : Frag) (hroom : w.strips.length < 16)
    (hheld : stripHeld s w { lcidx := l, len := n, b := s.cur.b } = false) :
    enqueue s w f l n = done s (queueStrip w { lcidx := l, len := n, b := s.cur.b }) f := by
  simp only [enqueue, Nat.not_le.2 hroom, if_false, hheld, Bool.false_eq_true]
  rfl

theorem exec_lrun_place {s : State} {w : Wave} {f : Frag} (hI : Issues s w f) (hroom : w.strips.length < 16) (l : BitVec 18) (n : BitVec 8)
    (hheld : stripHeld s w { lcidx := l, len := n.toNat + 1, b := s.cur.b } = false) :
    exec (.lrun l n) s = done s (queueStrip w { lcidx := l, len := n.toNat + 1, b := s.cur.b }) f := by
  rw [exec_lrun, execLrun, onFrag_issues hI, enqueue_place f hroom hheld]

theorem exec_lrunx_place {s : State} {w : Wave} {f : Frag} (hI : Issues s w f) (hroom : w.strips.length < 16) {a b : SReg}
    (hidx : (rdS w a.toNat).toNat < 2 ^ 18) (hpos : 1 ≤ (rdS w b.toNat).toNat) (hlen : (rdS w b.toNat).toNat ≤ 256)
    (hheld : stripHeld s w { lcidx := (rdS w a.toNat).setWidth 18, len := (rdS w b.toNat).toNat, b := s.cur.b } = false) :
    exec (.lrunx a b) s
      = done s (queueStrip w { lcidx := (rdS w a.toNat).setWidth 18, len := (rdS w b.toNat).toNat, b := s.cur.b }) f := by
  have hok : ¬(2 ^ 18 ≤ (rdS w a.toNat).toNat ∨ (rdS w b.toNat).toNat = 0 ∨ 256 < (rdS w b.toNat).toNat) := by omega
  rw [exec_lrunx, execLrunx, onFrag_issues hI]
  simp only [hok, if_false]
  exact enqueue_place f hroom hheld

/-! ## Feeds (R177) -/

/-- With no strip queued, a feed's word does not wait. -/
theorem afterPops_idle {s : State} {w : Wave} {f : Frag} (hI : Issues s w f) (hs : w.strips = []) (n : Nat) (g : Wave → Wave) :
    afterPops s n g = done s (g w) f := by
  rw [afterPops, onFrag_issues hI, if_neg fun h => h.1 hs]

/-- The feed that `FEEDSET` starts. -/
def newFeed (addr : DWord) (size : BitVec 2) (stride count : Word) : Feed :=
  { nextAddr := addr, size := size, stride := stride, remaining := count, run := decide (count ≠ 0), underflow := false, buf := [] }

theorem exec_feedset_idle {s : State} {w : Wave} {f : Frag} (hI : Issues s w f) (hs : w.strips = []) (n : BitVec 2) (a b : SReg) (z : BitVec 2) :
    exec (.feedset n a b z) s
      = done s (putFeed w n.toNat (newFeed (rdP w a.toNat) z (rdS w b.toNat) (rdS w (b.toNat + 1)))) f := by
  rw [exec_feedset, execFeedset, afterPops_idle hI hs]
  simp only [newFeed, ne_eq, decide_not]
  rfl

/-! ## Fences (R100, R264) -/

theorem fenceWave_eq (w : Wave) (o : Order) : fenceWave w o
    = { w with fenceR := (match o with | .acq => w.strips.length | .ar => w.strips.length | _ => w.fenceR), fenceW := w.strips.length } := by
  cases o <;> rfl

theorem fenceFab_iff (c : Scope) (o : Order) : fenceFab c o = true ↔ (c = .fab ∨ c = .sys) ∧ (o = .rel ∨ o = .ar) := by
  simp [fenceFab]

theorem exec_fence_frag {s : State} {w : Wave} {f : Frag} (hI : Issues s w f) (c : Scope) (o : Order) : exec (.fence c o) s
    = done (if (c = .fab ∨ c = .sys) ∧ (o = .rel ∨ o = .ar) then fabDrain s w.core w.slot else s) (fenceWave w o) f := by
  rw [exec_fence, execFence, onFrag_issues hI]
  simp only [fenceFab_iff]

/-! ## Back-offs (R249) -/

/-- With the fragment's own strips retired, a `BACKOFF` of no lane clears the count. -/
theorem exec_backoff_none {s : State} {w : Wave} {f : Frag} {m : MReg} (hI : Issues s w f) (hown : ownStrips w s.cur.b = false)
    (hl : f.m0 &&& rdM w f m.toNat = 0) : exec (.backoff m) s = done s { w with backoffCount := 0 } f := by
  rw [exec_backoff, execBackoff, onFrag_issues hI]
  simp only [hown, hl, Bool.false_eq_true, if_false, if_true]

/-- A `BACKOFF` of every lane puts the fragment itself to sleep. -/
theorem exec_backoff_all {s : State} {w : Wave} {f : Frag} {m : MReg} (hI : Issues s w f) (hown : ownStrips w s.cur.b = false)
    (hl : f.m0 &&& rdM w f m.toNat ≠ 0) (hn : f.m0 &&& ~~~(rdM w f m.toNat) = 0) :
    exec (.backoff m) s = .next (putWave s (putFrag { w with backoffCount := w.backoffCount + 1 } s.cur.b
      (some { f with pc := f.pc + 4, wait := .backoff (f.m0 &&& rdM w f m.toNat) }))) := by
  rw [exec_backoff, execBackoff, onFrag_issues hI]
  simp only [hown, hl, hn, Bool.false_eq_true, if_false, if_true]

/-- Settles O8: each word changes one part of its wave, and goes on to the next word. -/
theorem stripsFeedsAndFences : Obligations.StripsFeedsAndFences := by
  refine ⟨fun s w f hI hroom => ⟨fun l n hheld => ?run, fun a b hidx hpos hlen hheld => ?runx⟩,
    fun s w f hI => ⟨fun n a b z hs => ⟨?set, ?stop⟩, fun c o => ?fence, fun hm => fabDrain_none hm _ _, fun m hown hl => ?none,
      fun m hown hl hn => exec_backoff_all hI hown hl hn⟩⟩
  case run => exact done_leaves (exec_lrun_place hI hroom l n hheld) rfl
  case runx => exact done_leaves (exec_lrunx_place hI hroom hidx hpos hlen hheld) rfl
  case set => exact done_leaves (exec_feedset_idle hI hs n a b z) rfl
  case stop => exact done_leaves (by rw [exec_feedstop, execFeedstop, afterPops_idle hI hs]) rfl
  case fence =>
    have hcur : (if (c = .fab ∨ c = .sys) ∧ (o = .rel ∨ o = .ar) then fabDrain s w.core w.slot else s).cur = s.cur := by
      split_ifs
      · exact cur_of_running (running_fabDrain s _ _)
      · rfl
    have h := done_leaves (exec_fence_frag hI c o) hcur
    rw [fenceWave_eq] at h
    exact h
  case none => exact done_leaves (exec_backoff_none hI hown hl) rfl

end Sys2Proof.Machine
end

section
/-! PROOFS. Scalar loads and stores, and where their bytes go (R82, R83, R189, R286, R290). -/

namespace Sys2Proof.Machine

/-! ## Where stored bytes go (R82, R286, R290) -/

/-- Byte `b` of a number as it is stored, lowest first (R1). -/
theorem getElem_toBytes (n x b : Nat) (hb : b < (toBytes n x).length) : (toBytes n x)[b] = BitVec.ofNat 8 (x / 256 ^ b) := by
  induction n generalizing x b with
  | zero => simp [toBytes] at hb
  | succ k ih =>
    cases b with
    | zero => simp [toBytes]
    | succ j =>
      simp only [toBytes, List.getElem_cons_succ]
      rw [ih, Nat.div_div_eq_div_mul, ← Nat.pow_succ']

/-- A store in coherent memory, by a core that owns no halo line there. -/
theorem storeBytes_memory {s : State} {core key : Nat} (bs : List Byte) (hkey : key < 2 ^ 64) (hown : haloOwner s key ≠ some core) :
    storeBytes s core key bs = { s with mem := writeMem s.mem key bs } := by
  rw [storeBytes, if_neg (Nat.not_le.2 hkey), if_neg (by simpa using hown)]

/-- An H line's owner keeps its bytes to itself. -/
theorem storeBytes_owner {s : State} {core key : Nat} (bs : List Byte) (hkey : key < 2 ^ 64) (hown : haloOwner s key = some core) :
    ∃ h, storeBytes s core key bs = { s with coh := { s.coh with haloDirty := h } } := by
  rw [storeBytes, if_neg (Nat.not_le.2 hkey), if_pos (by simpa using hown)]
  exact ⟨_, rfl⟩

/-- The bytes of a non-coherent page stay in the L2. -/
theorem storeBytes_host {s : State} {core key : Nat} (bs : List Byte) (hkey : 2 ^ 64 ≤ key) :
    ∃ l, storeBytes s core key bs = { s with hostLines := l } := by
  rw [storeBytes, if_pos hkey]
  exact ⟨_, rfl⟩

@[simp] theorem storeBytes_cur (s : State) (core key : Nat) (bs : List Byte) : (storeBytes s core key bs).cur = s.cur := by
  unfold storeBytes; split_ifs <;> rfl

/-! ## Loads and stores whose access goes on (R189) -/

theorem sAccess_ok {s t : State} {w : Wave} {va : DWord} {n key : Nat} {k : AccKind} (f : Frag) (yes : State → Nat → Out)
    (h : access s w.core w.slot (ctxIdOf s w.gid) w.priv va.toNat n k false = (t, .ok key)) : sAccess s w f va n k yes = yes t key := by
  rw [sAccess, sAccessAs, h]

/-- The bytes of a scalar access. -/
def accessBytes (wide : Bool) : Nat := if wide then 8 else 4

/-- The registers after a load of a number into a register, or a pair. -/
theorem rdS_wrWidth (w : Wave) (wide : Bool) (d x n : Nat) :
    rdS (wrWidth w wide d x) n = setTyped wide w d (BitVec.ofNat 32 x) (BitVec.ofNat 64 x) n := by
  cases wide
  · exact rdS_wrS w d n _
  · exact rdS_wrP w d n _

theorem wrWidth_eq (w : Wave) (wide : Bool) (d x : Nat) : wrWidth w wide d x = { w with sregs := (wrWidth w wide d x).sregs } := by
  cases wide
  · exact wrS_eq w d _
  · exact wrP_eq w d _

/-- A scalar load at an aligned address whose access goes on. -/
theorem loadS_scalarDone {i : Instr} {s t : State} {w : Wave} {f : Frag} {d : SReg} {wide : Bool} {addr : Wave → DWord} {key : Nat}
    (hI : Issues s w f) (h : exec i s = loadS d wide addr s) (hal : (addr w).toNat % accessBytes wide = 0)
    (hacc : access s w.core w.slot (ctxIdOf s w.gid) w.priv (addr w).toNat (accessBytes wide) .read false = (t, .ok key)) :
    let x := ofBytes (loadBytes t w.core key (accessBytes wide))
    ScalarDoneAt i s t w f (setTyped wide w d.toNat (BitVec.ofNat 32 x) (BitVec.ofNat 64 x)) (rdM w f) f.flags (f.pc + 4) := by
  intro x
  have hex : exec i s = done t (wrWidth w wide d.toNat x) f := by
    rw [h, loadS, onFrag_issues hI]
    exact (if_neg (not_not.2 hal)).trans (sAccess_ok f _ hacc)
  refine goTo_scalarDoneAt hex (access_cur hacc) (by rw [wrWidth_eq]) (rdS_wrWidth w wide d.toNat x) fun n => ?_
  rw [wrWidth_eq]; rfl

/-- The number that a scalar store takes from a register, or a pair. -/
def storeValue (w : Wave) (wide : Bool) (d : SReg) : Nat := if wide then (rdP w d.toNat).toNat else (rdS w d.toNat).toNat

/-- A scalar store at an aligned address whose access goes on. -/
theorem storeS_scalarDone {i : Instr} {s t : State} {w : Wave} {f : Frag} {d : SReg} {wide : Bool} {addr : Wave → DWord} {key : Nat}
    (hI : Issues s w f) (h : exec i s = storeS d wide addr s) (hal : (addr w).toNat % accessBytes wide = 0)
    (hacc : access s w.core w.slot (ctxIdOf s w.gid) w.priv (addr w).toNat (accessBytes wide) .write false = (t, .ok key)) :
    ScalarDoneAt i s (storeBytes t w.core key (toBytes (accessBytes wide) (storeValue w wide d))) w f (rdS w) (rdM w f) f.flags (f.pc + 4) := by
  generalize hu : storeBytes t w.core key (toBytes (accessBytes wide) (storeValue w wide d)) = u
  have hex : exec i s = done u (acted u w) f := by
    rw [h, storeS, onFrag_issues hI, ← hu]
    exact (if_neg (not_not.2 hal)).trans (sAccess_ok f _ hacc)
  have hcur : u.cur = s.cur := by rw [← hu, storeBytes_cur, access_cur hacc]
  exact goTo_scalarDoneAt hex hcur rfl (fun _ => rfl) (fun _ => rfl)

/-- `SLDK` of a word that its core's constant cache does not hold (R83). -/
theorem sldk_scalarDone {s t : State} {w : Wave} {f : Frag} {d a : SReg} {i : BitVec 10} {key : Nat} (hI : Issues s w f)
    (hal : (sAddr w a i).toNat % 4 = 0)
    (hacc : access s w.core w.slot (ctxIdOf s w.gid) w.priv (sAddr w a i).toNat 4 .look false = (t, .ok key))
    (hmiss : konstFind t w.core (ctxIdOf t w.gid) key = none) :
    let x : Word := BitVec.ofNat 32 (ofBytes (lookBytes t key 4))
    ScalarDoneAt (.sldk d a i) s (konstPut t w.core (ctxIdOf t w.gid) key x) w f (setReg w d.toNat x) (rdM w f) f.flags (f.pc + 4) := by
  intro x
  have hex : exec (.sldk d a i) s = done (konstPut t w.core (ctxIdOf t w.gid) key x) (wrS w d.toNat x) f := by
    rw [exec_sldk, execSldk, onFrag_issues hI]
    refine (if_neg (not_not.2 hal)).trans ((sAccess_ok f _ hacc).trans ?_)
    simp only [hmiss]
    rfl
  have hcur : t.cur = s.cur := access_cur hacc
  exact goTo_scalarDoneAt hex hcur (by rw [wrS_eq]) (rdS_wrS w _ · x) (rdM_wrS w f _ · x)

/-- Settles O19: a load or a store is its access, the bytes where they go, and the next word. -/
theorem scalarLoadsAndStores : Obligations.ScalarLoadsAndStores := by
  refine ⟨fun s w f hI d a i c o t key => ⟨?_, ?_, ?_, ?_⟩,
    fun s w f hI d a i c o t key => ⟨?_, ?_, ?_⟩, fun t core key n x =>
      ⟨fun hkey hown => ?memory, fun hkey hown => ?owner, fun hkey => ?host⟩⟩
  · rintro ⟨hal, hacc⟩
    exact loadS_scalarDone (wide := false) hI (exec_sld d a i s) hal hacc
  · rintro ⟨hal, hacc⟩
    exact loadS_scalarDone (wide := false) hI (exec_sldOrdered d a c o false s) hal hacc
  · rintro ⟨hal, hacc⟩
    exact loadS_scalarDone (wide := true) hI (exec_sldOrdered d a c o true s) hal hacc
  · exact fun hal hacc hmiss => sldk_scalarDone hI hal hacc hmiss
  · rintro ⟨hal, hacc⟩
    exact storeS_scalarDone (wide := false) hI (exec_sst d a i s) hal hacc
  · rintro ⟨hal, hacc⟩
    exact storeS_scalarDone (wide := false) hI (exec_sstOrdered d a c o false s) hal hacc
  · rintro ⟨hal, hacc⟩
    exact storeS_scalarDone (wide := true) hI (exec_sstOrdered d a c o true s) hal hacc
  case memory =>
    rw [storeBytes_memory _ hkey hown]
    refine ⟨rfl, fun b hb => ?_, fun p hp => writeMem_outside _ _ _ _ (by rwa [toBytes_length])⟩
    rw [← getElem_toBytes n x b (by rwa [toBytes_length])]
    exact writeMem_inside _ _ _ _ _
  case owner =>
    obtain ⟨h, heq⟩ := storeBytes_owner (toBytes n x) hkey hown
    rw [heq]
  case host =>
    obtain ⟨l, heq⟩ := storeBytes_host (core := core) (toBytes n x) hkey
    rw [heq]

end Sys2Proof.Machine
end

section
/-! PROOFS. How a lane of a class 4 word performs (R100, R102, R252, R258 to R262). -/

namespace Sys2Proof.Machine

/-! ## Accesses of a lane (R252, R255) -/

section Access

variable {s t : State} {w : Wave} {va : DWord} {n : Nat} {k : AccKind} {claim : Bool} (yes : State → Nat → State × LaneRes)

theorem laneAccess_ok {key : Nat} (h : access s w.core w.slot (ctxIdOf s w.gid) w.priv va.toNat n k claim = (t, .ok key)) :
    laneAccess s w va n k claim yes = yes t key := by
  rw [laneAccess, h]

theorem laneAccess_fault {c : Cause} (h : access s w.core w.slot (ctxIdOf s w.gid) w.priv va.toNat n k claim = (t, .fault c)) :
    laneAccess s w va n k claim yes = (t, .fault c va) := by
  rw [laneAccess, h]

theorem alignedAccess_ok {key : Nat} (hal : va.toNat % n = 0)
    (h : access s w.core w.slot (ctxIdOf s w.gid) w.priv va.toNat n k false = (t, .ok key)) : alignedAccess s w va n k yes = yes t key := by
  rw [alignedAccess, if_neg (not_not.2 hal), laneAccess_ok yes h]

theorem alignedAccess_fault {c : Cause} (hal : va.toNat % n = 0)
    (h : access s w.core w.slot (ctxIdOf s w.gid) w.priv va.toNat n k false = (t, .fault c)) :
    alignedAccess s w va n k yes = (t, .fault c va) := by
  rw [alignedAccess, if_neg (not_not.2 hal), laneAccess_fault yes h]

theorem alignedAccess_misaligned (hal : va.toNat % n ≠ 0) : alignedAccess s w va n k yes = (s, .fault .misalign va) := by
  rw [alignedAccess, if_pos hal]

end Access

/-! ## Accesses of scratch (R102, R251, R260) -/

section Scratch

variable {s : State} {w : Wave} {g : Group} {off : DWord} {n : Nat} {wr : Bool} (yes : Group → Nat → State × LaneRes)
  (hg : groupOf s w.gid = some g)
include hg

theorem scratchAccess_misaligned (hal : off.toNat % n ≠ 0) : scratchAccess s w off n wr yes = (s, .fault .misalign off) := by
  simp only [scratchAccess, hg, if_pos hal]

theorem scratchAccess_outside (hal : off.toNat % n = 0) (hout : g.scratchBytes < off.toNat + n) :
    scratchAccess s w off n wr yes = (s, .fault .protect off) := by
  simp only [scratchAccess, hg, if_neg (not_not.2 hal), if_pos (Or.inr hout : off.toInt < 0 ∨ _)]

variable (hal : off.toNat % n = 0) (hpos : off.toNat < 2 ^ 63) (hin : off.toNat + n ≤ g.scratchBytes)
include hal hpos hin

theorem scratchAccess_locked (hlock : scratchLocked s w.core w.gid off.toNat n wr = true) :
    scratchAccess s w off n wr yes = (s, .fault .rangeLocked off) := by
  have hout : ¬(off.toInt < 0 ∨ g.scratchBytes < off.toNat + n) := by
    rw [BitVec.toInt_eq_toNat_cond]; split_ifs <;> omega
  simp only [scratchAccess, hg, if_neg (not_not.2 hal), if_neg hout, hlock, if_true]

theorem scratchAccess_inside (hlock : scratchLocked s w.core w.gid off.toNat n wr = false) (hgood : ∀ j, j < n → off.toNat + j ∉ g.bad) :
    scratchAccess s w off n wr yes = yes g off.toNat := by
  have hout : ¬(off.toInt < 0 ∨ g.scratchBytes < off.toNat + n) := by
    rw [BitVec.toInt_eq_toNat_cond]; split_ifs <;> omega
  have hbad : (List.range n).any (fun j => g.bad.contains (off.toNat + j)) = false := by simpa using hgood
  simp only [scratchAccess, hg, if_neg (not_not.2 hal), if_neg hout, hlock, hbad, Bool.false_eq_true, if_false]

end Scratch

theorem scratchPut_eq {s : State} {gid : Nat} {g : Group} (hg : groupOf s gid = some g) (off n x : Nat) :
    scratchPut s gid off n x = { s with groups := Map.insert s.groups gid { g with scratch := writeNum g.scratch off n x } } := by
  unfold groupOf at hg
  simp only [scratchPut, modGroup, Map.modify, hg]

/-! ## What a lane of each word does (R258 to R262) -/

section Words

variable {s : State} {w : Wave} {o : LaneOp} {l : Nat} {x : LXWord} (hw : waveAt s s.cur.core s.cur.slot = some w)
include hw

theorem memLane_ld (h : o.word = .ld x) : memLane o l s = alignedAccess s w (opAddr o l) (elemSize x.ty) .read (fun t key =>
    (t, .ok (elemWrites x.ty x.vd.toNat l (ofBytes (loadBytes t w.core key (elemSize x.ty)))))) := by
  simp only [memLane, hw, h]

theorem memLane_st (h : o.word = .st x) (hc : x.claim = false) : memLane o l s
    = alignedAccess s w (opAddr o l) (elemSize x.ty) .write (fun t key =>
        (storeNum t w.core key (elemSize x.ty) (opVal o x.ty 0 l), .ok [])) := by
  simp only [memLane, hw, h, hc, Bool.false_eq_true, if_false]

theorem memLane_claim (h : o.word = .st x) (hc : x.claim = true) : memLane o l s = claimLane o l s w := by
  simp only [memLane, hw, h, hc, if_true]

theorem memLane_atom (h : o.word = .atom x) : memLane o l s
    = alignedAccess s w (opAddr o l) (elemSize x.ty) .update (fun t key =>
        (storeNum t w.core key (elemSize x.ty) (atomNew x.ty x.aux.toNat (ofBytes (loadBytes t w.core key (elemSize x.ty))) (opVal o x.ty 0 l)
            (opVal o x.ty (regsOf x.ty) l)),
          .ok (elemWrites x.ty x.vd.toNat l (ofBytes (loadBytes t w.core key (elemSize x.ty)))))) := by
  simp only [memLane, hw, h]

theorem memLane_red (h : o.word = .red x) : memLane o l s
    = alignedAccess s w (opAddr o l) (elemSize x.ty) .update (fun t key => (reduceAt t w x key (opVal o x.ty 0 l), .ok [])) := by
  simp only [memLane, hw, h]

theorem memLane_lds (h : o.word = .lds x) : memLane o l s = scratchAccess s w (opAddr o l) (elemSize x.ty) false (fun g off =>
    (s, .ok (elemWrites x.ty x.vd.toNat l (readNum g.scratch off (elemSize x.ty))))) := by
  simp only [memLane, hw, h]

theorem memLane_sts (h : o.word = .sts x) : memLane o l s = scratchAccess s w (opAddr o l) (elemSize x.ty) true (fun _ off =>
    (scratchPut s w.gid off (elemSize x.ty) (opVal o x.ty 0 l), .ok [])) := by
  simp only [memLane, hw, h]

theorem memLane_atoms (h : o.word = .atoms x) : memLane o l s = scratchAccess s w (opAddr o l) (elemSize x.ty) true (fun g off =>
    (scratchPut s w.gid off (elemSize x.ty) (atomNew x.ty x.aux.toNat (readNum g.scratch off (elemSize x.ty)) (opVal o x.ty 0 l)
        (opVal o x.ty (regsOf x.ty) l)),
      .ok (elemWrites x.ty x.vd.toNat l (readNum g.scratch off (elemSize x.ty))))) := by
  simp only [memLane, hw, h]

end Words

/-! ## Whole-line stores (R259) -/

theorem claimLane_misplaced {o : LaneOp} (l : Nat) (s : State) (w : Wave) (h : claimOk o = false) :
    claimLane o l s w = (s, .fault .misalign (opAddr o l)) := by
  simp [claimLane, h]

theorem claimLane_first {o : LaneOp} {s t : State} {w : Wave} {key : Nat} (h : claimOk o = true)
    (hacc : access s w.core w.slot (ctxIdOf s w.gid) w.priv (opAddr o 0).toNat 128 .write true = (t, .ok key)) :
    claimLane o 0 s w = (storeBytes t w.core key (claimBytes o), .ok []) := by
  simp only [claimLane, h, Bool.not_true, Bool.false_eq_true, if_false, if_true]
  exact laneAccess_ok _ hacc

theorem claimLane_later {o : LaneOp} {l : Nat} (s : State) (w : Wave) (h : claimOk o = true) (hl : l ≠ 0) (hdone : o.done.getLsbD 0 = true) :
    claimLane o l s w = (s, .ok []) := by
  simp [claimLane, h, hl, hdone]

/-! ## Reductions (R100, R261, R414) -/

theorem reduceAt_merges {s : State} {x : LXWord} {key : Nat} (w : Wave) (b : Nat)
    (h : x.order = .comm ∧ x.scope = .fab ∧ inWindow s key x.ty = true) :
    reduceAt s w x key b = fabSend s { key := key, ty := x.ty, val := b, waves := [64 * w.core + w.slot] } := by
  simp [reduceAt, h]

theorem reduceAt_performs {s : State} {x : LXWord} {key : Nat} (w : Wave) (b : Nat)
    (h : ¬(x.order = .comm ∧ x.scope = .fab ∧ inWindow s key x.ty = true)) : reduceAt s w x key b
      = storeNum s w.core key (elemSize x.ty) (atomNew x.ty x.aux.toNat (ofBytes (loadBytes s w.core key (elemSize x.ty))) b 0) := by
  have hno : (x.order == .comm && x.scope == .fab && inWindow s key x.ty) = false := by
    rw [Bool.eq_false_iff]
    simpa [and_assoc] using h
  simp [reduceAt, hno]

/-- Settles O38: each lane is its access, by the equation of its word. -/
theorem laneAccessValues : Obligations.LaneAccessValues := by
  intro s w hw o l x t key
  refine ⟨fun h hal hacc => ?_, fun h hc hal hacc => ?_, fun h hc hok hacc => ⟨?_, fun k u hk hdone hcur hu => ?later⟩, fun h hc hno => ?_,
    fun h hal hacc => ?_, fun h hal hacc => ⟨fun hno => ?_, fun hm => ?_⟩, fun h hal => ?misaligned, fun c h hal hacc => ?_,
    fun c h hc hal hacc => ?_, fun c h hal hacc => ?update, fun g hg => ⟨?_, ?_, ?_, fun h hout => ?outside, fun wr h hin hlock => ?locked,
      fun h hal => ?scratch⟩⟩
  · rw [memLane_ld hw h]; exact alignedAccess_ok _ hal hacc
  · rw [memLane_st hw h hc]; exact alignedAccess_ok _ hal hacc
  · rw [memLane_claim hw h hc, claimLane_first hok hacc]
  case later =>
    obtain ⟨v, hv⟩ := Option.ne_none_iff_exists'.1 hu
    rw [memLane_claim (w := v) (by rw [hcur, hv]) h hc, claimLane_later u v hok hk hdone]
  · rw [memLane_claim hw h hc, claimLane_misplaced l s w hno]
  · rw [memLane_atom hw h]; exact alignedAccess_ok _ hal hacc
  · rw [memLane_red hw h]
    refine (alignedAccess_ok _ hal hacc).trans ?_
    rw [reduceAt_performs w _ hno]; rfl
  · rw [memLane_red hw h]
    refine (alignedAccess_ok _ hal hacc).trans ?_
    rw [reduceAt_merges w _ hm]
  case misaligned =>
    rcases h with h | ⟨h, hc⟩ | h | h
    · rw [memLane_ld hw h]; exact alignedAccess_misaligned _ hal
    · rw [memLane_st hw h hc]; exact alignedAccess_misaligned _ hal
    · rw [memLane_atom hw h]; exact alignedAccess_misaligned _ hal
    · rw [memLane_red hw h]; exact alignedAccess_misaligned _ hal
  · rw [memLane_ld hw h]; exact alignedAccess_fault _ hal hacc
  · rw [memLane_st hw h hc]; exact alignedAccess_fault _ hal hacc
  case update =>
    rcases h with h | h
    · rw [memLane_atom hw h]; exact alignedAccess_fault _ hal hacc
    · rw [memLane_red hw h]; exact alignedAccess_fault _ hal hacc
  · rintro ⟨h, hal, hpos⟩ ⟨hin, hlock, hgood⟩
    rw [memLane_lds hw h]; exact scratchAccess_inside _ hg hal hpos hin hlock hgood
  · rintro ⟨h, hal, hpos⟩ ⟨hin, hlock, hgood⟩
    rw [memLane_sts hw h]
    refine (scratchAccess_inside _ hg hal hpos hin hlock hgood).trans ?_
    rw [scratchPut_eq hg]; rfl
  · rintro ⟨h, hal, hpos⟩ ⟨hin, hlock, hgood⟩
    rw [memLane_atoms hw h]
    refine (scratchAccess_inside _ hg hal hpos hin hlock hgood).trans ?_
    rw [scratchPut_eq hg]; rfl
  case outside =>
    rcases h with ⟨h, hal, -⟩ | ⟨h, hal, -⟩ | ⟨h, hal, -⟩
    · rw [memLane_lds hw h]; exact scratchAccess_outside _ hg hal hout
    · rw [memLane_sts hw h]; exact scratchAccess_outside _ hg hal hout
    · rw [memLane_atoms hw h]; exact scratchAccess_outside _ hg hal hout
  case locked =>
    obtain ⟨h, hal, hpos⟩ := h
    cases wr
    · rw [memLane_lds hw h]; exact scratchAccess_locked _ hg hal hpos hin hlock
    · rw [memLane_sts hw h]; exact scratchAccess_locked _ hg hal hpos hin hlock
  case scratch =>
    rcases h with h | h | h
    · rw [memLane_lds hw h]; exact scratchAccess_misaligned _ hg hal
    · rw [memLane_sts hw h]; exact scratchAccess_misaligned _ hg hal
    · rw [memLane_atoms hw h]; exact scratchAccess_misaligned _ hg hal

end Sys2Proof.Machine
end

section
/-! PROOFS. An access and the contexts' table (R287, R303): noting the contact sheets puts the context's entry in the table anew. -/

namespace Sys2Proof.Machine

/-! ## A table that is not in order, and two halo regions at one line -/

namespace SheetOrder

/-- The context of `placeCtx` with one halo region. -/
def ctxWith (h : Halo) : Ctx := { placeCtx with halos := [(0, h)] }

/-- A table that lists context 5 before context 1, each with a halo region at one line: core 0 owns it by context 5's, core 1 by
context 1's. -/
def table : Map Ctx := [(5, ctxWith RefusedRelease.region), (1, ctxWith { RefusedRelease.region with owners := [1] })]

/-- The reset state with that table and with the tables of pages of `placeCtx`. -/
def start : State := { State.reset.withFetchWord 32 0 with ctxs := table }

/-- The leaf of the page that holds the line. -/
def leaf : Leaf := { word := 115, large := true }

theorem pickLeaf_start : pickLeaf start 0 1 0x20080 (ctxWith { RefusedRelease.region with owners := [1] }) = some leaf := by decide +kernel

/-- Before the access the line is core 0's. -/
theorem haloOwner_start : haloOwner start (leafPa leaf 0x20080) = some 0 := by decide +kernel

/-- Once the sheets are noted context 1 stands first, and the line is core 1's: the store of core 0 faults. -/
theorem access_start : (access start 0 0 1 .s 0x20080 4 .write false).2 = .fault .haloWrite := by decide +kernel

end SheetOrder

open SheetOrder in
/-- Refutes O18: noting the contact sheets puts the context's entry at its number's place in the table, and where the table is not in
order this changes which context's halo region is found first. A store by the line's owner then takes `HALO_WRITE`. -/
theorem not_accesses : ¬ Obligations.Accesses := by
  rintro ⟨hgoes, -⟩
  obtain ⟨t, ht⟩ := hgoes start 0 0 1 .s 0x20080 4 .write _ leaf rfl (by decide) pickLeaf_start (.inl rfl) (by decide) (by decide) (by decide)
    (.inl (by decide)) (by decide) (by decide) rfl (by decide +kernel) (by decide +kernel) (by decide +kernel) (by decide +kernel)
    (by decide +kernel) (fun _ _ => haloOwner_start) (by decide +kernel) (by decide +kernel) (by decide) (fun _ => .inl (by decide +kernel))
    (by decide)
  have hsame : AccRes.fault .haloWrite = .ok (leafPa leaf 0x20080) := access_start.symm.trans (congrArg Prod.snd ht)
  cases hsame

end Sys2Proof.Machine
end

section
/-! PROOFS. The end of a drain over a descriptor that straddles two lines (R287, R339, R345). -/

namespace Sys2Proof.Machine

/-! ## A drain of no element whose descriptor lies at byte 110, while a push of core 5 waits for its last answer -/

namespace StraddlingDrain

/-- The accumulator: no element, no histogram, its descriptor's state byte the last of line 0. -/
def acc : Acc :=
  { ctx := 1, descAddr := 110, descPa := 110, base := 0, rows := 0, cols := 0, form := 0, anchor := 0, histBase := 0, drainType := .n32,
    drainRnd := 0, drainSat := false, ownerGid := none, hist := 0, dst := 0, dstPitch := 0, spill := 0, spillBlocks := 0, st := .draining,
    elems := [], placed := [], spilled := [], parkedLines := 0, map := [] }

/-- The drain, running. -/
def drain : EngOp := { engNew State.reset (placeWave true) .drain 0 0 110 with st := .running }

/-- The answer of the last replica to core 5's push, on its way to the home of line 128. -/
def answer : Msg := { fromHome .hAck 128 homeId 5 0 with src := homeId }

/-- The drain in core 0's slot 0; core 5 pushes zeros to the lines at 0 and at 128. -/
def start : State :=
  { putCore State.reset 0 { coreOf State.reset 0 with ops := [(0, drain)] } with
    accs := [(0, acc)], coh := { State.reset.coh with msgs := [answer], pushes := [(128, 5, 1, 0), (0, 5, 0, 0)] } }

/-- Nothing is left to write. -/
theorem drainMove_start : drainMove 3 start acc drain = (start, drain, .over) := rfl

/-- The write of byte 128 lets the push commit first, and its zeros take line 0 with the state byte at 127. -/
theorem state_after_end : readNum (accEnd (putOp start 0 0 drain) drain.acc .drained).mem (acc.descPa + 17) 1 = 0 := by decide +kernel

end StraddlingDrain

open StraddlingDrain in
/-- Refutes O48: the last clause asks that a drain's end leave state 3 in the descriptor, wherever that lies. The end writes byte 17
and then byte 18; where these lie in two lines the second write runs the transactions on its own line to their ends, and a halo
push that commits with them may write the first line again. -/
theorem not_transfersAndPartials : ¬ Obligations.TransfersAndPartials := by
  rintro ⟨-, -, hdrain⟩
  obtain ⟨-, -, hstate⟩ := hdrain start 0 0 drain acc start drain acc rfl rfl rfl rfl rfl drainMove_start rfl
  rw [state_after_end] at hstate
  cases hstate

end Sys2Proof.Machine
end

section
/-! PROOFS. Packets at a queue's head (R83, R118, R119, R121, R377). -/

namespace Sys2Proof.Machine

/-! ## The packet processor's look at a packet (R119) -/

section Head

variable {s : State} {q n : Nat} (hH : AtHead s q n)
include hH

theorem onPacket_atHead (k : Nat → PktMove) : onPacket s q k = .next (settleMove s q (k n)) := by
  rw [onPacket, hH.packet, if_neg (by simp [hH.goes, hH.more])]
  rfl

/-- The queue holds an active slot. -/
theorem atHead_active : (queueOf s q).st = .active := by
  have h := hH.goes
  simp only [dispatches, Bool.and_eq_true, beq_iff_eq] at h
  exact h.1.1

theorem exec_launch_move {i : Instr} (hty : bits n 7 0 = 1)
    (hi : i = .launch q ∨ (i = .packetDeferredStart q ∧ (queueOf s q).started = []) ∧ bit n 8 = true) :
    exec i s = .next (settleMove s q (startGrid s q n false)) := by
  obtain rfl | ⟨⟨rfl, hnone⟩, h8⟩ := hi
  · rw [exec_launch, execLaunch, onPacket_atHead hH, if_pos hty]
  · rw [exec_packetDeferredStart, execPacketDeferredStart, onPacket_atHead hH]
    simp [nonePending, hnone, hty, h8]

theorem exec_draw_move {i : Instr} (hty : bits n 7 0 = 2)
    (hi : i = .draw q ∨ (i = .packetDeferredStart q ∧ (queueOf s q).started = []) ∧ bit n 8 = true) :
    exec i s = .next (settleMove s q (startGrid s q n true)) := by
  obtain rfl | ⟨⟨rfl, hnone⟩, h8⟩ := hi
  · rw [exec_draw, execDraw, onPacket_atHead hH, if_pos hty]
  · rw [exec_packetDeferredStart, execPacketDeferredStart, onPacket_atHead hH]
    simp [nonePending, hnone, hty, h8]

theorem exec_signal_move {i : Instr} (hty : bits n 7 0 = 3)
    (hi : i = .signalPkt q ∨ i = .packetDeferredStart q ∧ (queueOf s q).started = []) :
    exec i s = .next (settleMove s q (startSignal s q n)) := by
  obtain rfl | ⟨rfl, hnone⟩ := hi
  · rw [exec_signalPkt, execSignalPkt, onPacket_atHead hH, if_pos hty]
  · rw [exec_packetDeferredStart, execPacketDeferredStart, onPacket_atHead hH]
    simp [nonePending, hnone, hty]

theorem exec_wait_move {i : Instr} (hty : bits n 7 0 = 4)
    (hi : i = .waitPkt q ∨ (i = .packetDeferredStart q ∧ (queueOf s q).started = []) ∧ bit n 8 = true) :
    exec i s = .next (settleMove s q (startWait s q n)) := by
  obtain rfl | ⟨⟨rfl, hnone⟩, h8⟩ := hi
  · rw [exec_waitPkt, execWaitPkt, onPacket_atHead hH, if_pos hty]
  · rw [exec_packetDeferredStart, execPacketDeferredStart, onPacket_atHead hH]
    simp [nonePending, hnone, hty, h8]

theorem exec_barrier_move {i : Instr} (hty : bits n 7 0 = 5)
    (hi : i = .barrierPkt q ∨ i = .packetDeferredStart q ∧ (queueOf s q).started = []) :
    exec i s = .next (settleMove s q (startBarrier s q n)) := by
  obtain rfl | ⟨rfl, hnone⟩ := hi
  · rw [exec_barrierPkt, execBarrierPkt, onPacket_atHead hH, if_pos hty]
  · rw [exec_packetDeferredStart, execPacketDeferredStart, onPacket_atHead hH]
    simp [nonePending, hnone, hty]

end Head

/-! ## A packet that passes (R119, R121) -/

/-- The record of the packet at the head, as it starts. -/
def headPkt (s : State) (q n : Nat) (grid unbind : Option Nat) : Pkt := { idx := (queueOf s q).head, grid := grid, unbind := unbind, irq := bit n 9 }

/-- The queue whose head packet has started and completed: head is past it. -/
def passedQueue (x : Queue) : Queue := { x with head := x.head + 1, started := x.started.filter (fun p => p.idx != x.head) }

/-- A queue that may have become `IDLE` keeps the rest of its registers. -/
theorem queueIdle_cases (s : State) (q : Nat) :
    queueIdle s q = s ∨ (queueOf s q).st = .active ∧ queueIdle s q = putQueue s q { queueOf s q with st := .idle } := by
  unfold queueIdle
  dsimp only
  split_ifs with h
  · exact .inr ⟨h.1, rfl⟩
  · exact .inl rfl

/-- A packet that completes as it starts takes head past it; its vector is raised where it asks for it. -/
theorem passPkt_spec (t : State) (q n : Nat) :
    ∃ u, passPkt t q n = queueIdle u q ∧ queueOf u q = passedQueue (queueOf t q) ∧ (∀ p, p ≠ q → queueOf u p = queueOf t p)
      ∧ u = { t with queues := u.queues, msix := u.msix }
      ∧ (bit n 9 = false → (∀ p ∈ (queueOf t q).started, p.idx ≠ (queueOf t q).head) → u.msix = t.msix)
      ∧ (bit n 9 = true → ∃ v, u.msix = ((queueOf t q).ctxId, v) :: t.msix) := by
  have hstart : startPkt t q n none none
      = putQueue t q { queueOf t q with head := (queueOf t q).head + 1, started := (queueOf t q).started ++ [headPkt t q n none none] } := rfl
  have hqueue : ∀ x, queueOf (putQueue (startPkt t q n none none) q x) q = x := queueOf_putQueue_self _ q
  have hother : ∀ x p, p ≠ q → queueOf (putQueue (startPkt t q n none none) q x) p = queueOf t p := fun x p hp => by
    rw [queueOf_putQueue_ne _ _ hp, hstart, queueOf_putQueue_ne _ _ hp]
  simp only [passPkt, completePkt]
  rw [show queueOf (startPkt t q n none none) q = _ from hstart ▸ queueOf_putQueue_self t q _]
  split_ifs with hirq
  · refine ⟨_, rfl, ?_, hother _, rfl, fun h9 hpend => ?_, fun _ => ⟨_, rfl⟩⟩
    · rw [raiseMsix]
      exact (hqueue _).trans (by simp [passedQueue, headPkt])
    · obtain ⟨p, hp, hmine⟩ := List.any_eq_true.1 hirq
      rcases List.mem_append.1 hp with hp | hp
      · exact absurd (by simpa using (Bool.and_eq_true_iff.1 hmine).1) (hpend p hp)
      · simp [List.mem_singleton.1 hp, headPkt, h9] at hmine
  · refine ⟨_, rfl, (hqueue _).trans (by simp [passedQueue, headPkt]), hother _, rfl, fun _ _ => rfl, fun h9 => ?_⟩
    exact absurd (by simp [headPkt, h9]) hirq

/-- A step that passes the packet over the state `t`. -/
theorem passes_of_passPkt {i : Instr} {s t : State} {q n : Nat} (h : exec i s = .next (passPkt t q n)) : Passes i s t q n := by
  obtain ⟨u, hu, hq, hother, hrest, hquiet, hirq⟩ := passPkt_spec t q n
  rw [hu] at h
  have hall : bit n 9 = false → (∀ p ∈ (queueOf t q).started, p.idx ≠ (queueOf t q).head) → u = { t with queues := u.queues } :=
    fun h9 hp => hrest.trans (by rw [hquiet h9 hp])
  obtain hidle | ⟨hact, hidle⟩ := queueIdle_cases u q <;> rw [hidle] at h
  · exact ⟨u, h, by rw [hq]; rfl, by rw [hq]; rfl, .inl (by rw [hq]; rfl), hother, hall, fun h9 => ⟨hrest, hirq h9⟩⟩
  · refine ⟨_, h, ?_, ?_, .inr ⟨by rw [hq] at hact; exact hact, ?_⟩, fun p hp => (queueOf_putQueue_ne _ _ hp).trans (hother p hp),
      fun h9 hp => ?_, fun h9 => ⟨?_, hirq h9⟩⟩
    · rw [queueOf_putQueue_self, hq]; rfl
    · rw [queueOf_putQueue_self, hq]; rfl
    · rw [queueOf_putQueue_self]
    · rw [putQueue, hall h9 hp]
    · rw [putQueue, hrest]

/-- The registers of a queue put back as they are change nothing that a packet's passing tells of. -/
theorem passes_of_putQueue {i : Instr} {s : State} {q n : Nat} {x : Queue} (hx : x = queueOf s q) (h : Passes i s (putQueue s q x) q n) :
    Passes i s s q n := by
  obtain ⟨u, hu, hhead, hstarted, hst, hother, hquiet, hirq⟩ := h
  rw [queueOf_putQueue_self, hx] at hhead hstarted hst hquiet hirq
  exact ⟨u, hu, hhead, hstarted, hst, fun p hp => (hother p hp).trans (queueOf_putQueue_ne _ _ hp), hquiet, hirq⟩

/-! ## Moves on packets (R119) -/

/-- A check that holds lets the move go on. -/
theorem pktCheck_bind {α : Type} {p : Bool} (h : p = true) (k : Unit → Except PktErr α) : (pktCheck p >>= k) = k () := by
  rw [h]
  rfl

/-- What was read goes to the rest of the move. -/
theorem pktRead_bind {α β : Type} {m : Except PktErr α} {v : α} (h : m = .ok v) (k : α → Except PktErr β) : (m >>= k) = k v := by
  rw [h]
  rfl

/-! ## SIGNAL, WAIT and BARRIER (R120, R121) -/

section Moves

variable {s : State} {q n : Nat}

theorem startSignal_passes {k : Nat} (hok : signalOk n 1 = true) (hnone : (queueOf s q).started = [])
    (hk : devReach s (queueOf s q).ctxId .u (bits n 120 64) .write = .ok k) :
    startSignal s q n = .ok (some (passPkt (putNum s k 8
      (if bits n 193 192 = 1 then (readNum s.mem k 8 + bits n 191 128) % 2 ^ 64 else bits n 191 128)) q n)) := by
  rw [startSignal, pktCheck_bind hok, if_neg (by simp [nonePending, hnone]), hk]

theorem startBarrier_passes (hnone : (queueOf s q).started = []) : startBarrier s q n = .ok (some (passPkt s q n)) := by
  simp [startBarrier, nonePending, hnone]

/-- A packet whose fence does not hold it back. -/
theorem fenced_eq_false (hfree : bit n 8 = false ∨ (queueOf s q).started = []) : fenced s q n = false := by
  obtain h | h := hfree <;> simp [fenced, nonePending, h]

theorem startWait_reads {v : Nat} (hok : signalOk n 2 = true) (hfree : bit n 8 = false ∨ (queueOf s q).started = [])
    (hread : pktRead s (queueOf s q).ctxId (bits n 120 64) 8 = .ok v) :
    startWait s q n = .ok (some (if waitMet (bits n 193 192) v (bits n 191 128) = true
      then passPkt (putQueue s q { queueOf s q with st := .active }) q n else putQueue s q { queueOf s q with st := .waiting })) := by
  rw [startWait, pktCheck_bind hok, if_neg (by simp [fenced_eq_false hfree]), pktRead_bind hread]
  split_ifs <;> rfl

end Moves

/-! ## LAUNCH and DRAW (R83, R121, R377) -/

/-- The state with the packet past the head; the constant caches hold nothing of its context. -/
def launching (s : State) (q n : Nat) : State := startPkt (dropKonst s (queueOf s q).ctxId) q n (some s.nextGrid) none

/-- With the packet's grid slot taken, too. -/
def launched (s : State) (q n : Nat) : State :=
  putQueue (launching s q n) q { queueOf (launching s q n) q with gridSlots := (queueOf s q).gridSlots + 1 }

/-- A grid enters the table. -/
def addGrid (u : State) (g : Grid) : State :=
  { u with grids := Map.insert u.grids u.nextGrid g, nextGrid := u.nextGrid + 1, stamp := u.stamp + 1 }

theorem queueOf_launched (s : State) (q n : Nat) :
    queueOf (launched s q n) q
      = { queueOf s q with head := (queueOf s q).head + 1, gridSlots := (queueOf s q).gridSlots + 1,
                           started := (queueOf s q).started ++ [headPkt s q n (some s.nextGrid) none] } := by
  rw [launched, queueOf_putQueue_self, launching, startPkt, queueOf_putQueue_self]
  rfl

/-- R120's conditions on the fields of a LAUNCH or DRAW packet; its fence does not hold it, and a slot is free (R119, R137). -/
structure GridPacket (s : State) (q n : Nat) (draw : Bool) : Prop where
  reserved : bits n 71 64 = 0
  doneLow : bits n 258 256 = 0
  nx : bits n 223 192 ≠ 0
  ny : bits n 239 224 ≠ 0
  nz : bits n 255 240 ≠ 0
  shape : if draw then bits n 239 224 = 1 ∧ bits n 255 240 = 1 ∧ bits n 440 384 % 64 = 0 else bits n 440 384 = 0
  unfenced : bit n 8 = false ∨ (queueOf s q).started = []
  slot : (queueOf s q).gridSlots < 8

section Grids

variable {s : State} {q n : Nat} {d : KDesc}

theorem gridPacket_fields {draw : Bool} (hok : GridPacket s q n draw) :
    (bits n 71 64 == 0 && bits n 258 256 == 0 && bits n 223 192 != 0 && bits n 239 224 != 0 && bits n 255 240 != 0) = true := by
  simp [hok.reserved, hok.doneLow, hok.nx, hok.ny, hok.nz]

theorem gridPacket_shape {draw : Bool} (hok : GridPacket s q n draw) :
    (if draw then bits n 239 224 == 1 && bits n 255 240 == 1 && bits n 440 384 % 64 == 0 else bits n 440 384 == 0) = true := by
  have h := hok.shape
  cases draw
  · exact beq_iff_eq.2 h
  · obtain ⟨hny, hnz, hstate⟩ := h
    simp [hny, hnz, hstate]

theorem gridPacket_goes {draw : Bool} (hok : GridPacket s q n draw) :
    ¬(fenced s q n || decide (gridSlotLimit ≤ (queueOf s q).gridSlots)) = true := by
  have hslot : ¬gridSlotLimit ≤ (queueOf s q).gridSlots := Nat.not_le.2 hok.slot
  simp [fenced_eq_false hok.unfenced, hslot]

theorem startGrid_launch (hok : GridPacket s q n false) (hd : readKernel s (queueOf s q).ctxId (bits n 120 64) = .ok d)
    (hfit : couldFit s (packetGrid s q n d none) = true) :
    startGrid s q n false = .ok (some (addGrid (launched s q n) (packetGrid s q n d none))) := by
  rw [startGrid, pktCheck_bind (gridPacket_fields hok), pktCheck_bind (gridPacket_shape hok), if_neg (gridPacket_goes hok), pktRead_bind hd]
  exact pktCheck_bind hfit _

theorem startGrid_draw {b : Nat} (hok : GridPacket s q n true) (hd : readKernel s (queueOf s q).ctxId (bits n 120 64) = .ok d)
    (hread : pktRead s (queueOf s q).ctxId (bits n 440 384) 64 = .ok b) (hpipe : pipeOk b d.trayCount = true)
    (hfit : couldFit s (packetGrid s q n d (some (pipeOf b))) = true) :
    startGrid s q n true = .ok (some (addGrid (launched s q n) (packetGrid s q n d (some (pipeOf b))))) := by
  rw [startGrid, pktCheck_bind (gridPacket_fields hok), pktCheck_bind (gridPacket_shape hok), if_neg (gridPacket_goes hok), pktRead_bind hd]
  exact (pktRead_bind hread _).trans ((pktCheck_bind hpipe _).trans (pktCheck_bind hfit _))

end Grids

/-! ## Packets that end their queue, or wait for a page (R118, R119) -/

theorem onPacket_failed {s : State} {q : Nat} {e : PktErr} (hgoes : dispatches s q = true) (hmore : (queueOf s q).head ≠ (queueOf s q).tail)
    (h : headPacket s q = .error e) (k : Nat → PktMove) : onPacket s q k = .next (settleMove s q (.error e)) := by
  rw [onPacket, h, if_neg (by simp [hgoes, hmore])]
  rfl

/-- Each event of the packet processor is a look at the head packet. -/
theorem exec_packetEvent {q : Nat} {i : Instr}
    (hi : i ∈ [Instr.launch q, .draw q, .signalPkt q, .waitPkt q, .barrierPkt q, .ctxopCreate q, .ctxopBind q, .ctxopUnbind q,
      .ctxopUpdate q, .ctxopQuarantine q, .ctxopDestroy q, .packetDeferredStart q]) (s : State) : ∃ k, exec i s = onPacket s q k := by
  simp only [List.mem_cons, List.not_mem_nil, or_false] at hi
  rcases hi with rfl | rfl | rfl | rfl | rfl | rfl | rfl | rfl | rfl | rfl | rfl | rfl <;> exact ⟨_, rfl⟩

/-! ## The obligation -/

/-- A step puts the packet's grid into the table, with the packet's fields, and the packet is in flight (R120, R121). -/
def StartsGrid (i : Instr) (s : State) (q n : Nat) (d : KDesc) (draw : Option Draw) : Prop :=
  let x := queueOf s q
  ∃ t g, exec i s = .next t ∧ Map.find t.grids s.nextGrid = some g ∧ g.src = .packet q x.head.toNat ∧ g.ctx = x.ctxId
    ∧ g.queue = q ∧ g.image = n / 2 ^ 64 % 2 ^ 57 ∧ g.karg = BitVec.ofNat 64 (n / 2 ^ 128 % 2 ^ 57)
    ∧ g.nx = n / 2 ^ 192 % 2 ^ 32 ∧ g.ny = n / 2 ^ 224 % 2 ^ 16 ∧ g.nz = n / 2 ^ 240 % 2 ^ 16 ∧ g.desc = d ∧ g.next = 0
    ∧ g.live = g.nx * g.ny * g.nz ∧ g.doneAddr = n / 2 ^ 256 % 2 ^ 57 ∧ g.doneVal = BitVec.ofNat 64 (n / 2 ^ 320 % 2 ^ 64)
    ∧ g.draw = draw
    ∧ queueOf t q = { x with head := x.head + 1, gridSlots := x.gridSlots + 1,
                             started := x.started ++ [{ idx := x.head, grid := some s.nextGrid, unbind := none, irq := bit n 9 }] }
    ∧ t = { dropKonst s x.ctxId with queues := t.queues, grids := t.grids, nextGrid := s.nextGrid + 1, stamp := s.stamp + 1 }

/-- The move of a LAUNCH or DRAW packet starts its grid. -/
theorem starts_of_addGrid {i : Instr} {s : State} {q n : Nat} {d : KDesc} {draw : Option Draw}
    (h : exec i s = .next (addGrid (launched s q n) (packetGrid s q n d draw))) :
    StartsGrid i s q n d draw :=
  ⟨_, _, h, Map.find_insert_self _ _ _, rfl, rfl, rfl, rfl, rfl, rfl, rfl, rfl, rfl, rfl, rfl, rfl, rfl, rfl, queueOf_launched s q n, rfl⟩

/-- Settles O43: each packet by the move it makes at the head, and each failure by the queue's end. -/
theorem packets : Obligations.Packets := by
  refine ⟨fun s q n hH => ⟨fun d i hty hok hd hfit hi => ?launch, fun d b i hty hok hd hread hpipe hfit hi => ?draw,
    fun k i hty hok hnone hk hi => ?signal, fun v i hty hok hfree hread hi => ?wait, fun i hty hnone hi => ?barrier⟩,
    fun s q hgoes hmore i hi => ?failed⟩
  case launch =>
    obtain ⟨h1, h2, h3, h4, h5, h6, h7, h8⟩ := hok
    have h := exec_launch_move hH hty hi
    rw [startGrid_launch ⟨h1, h2, h3, h4, h5, h6, h7, h8⟩ hd hfit] at h
    exact starts_of_addGrid h
  case draw =>
    obtain ⟨h1, h2, h3, h4, h5, h6, h7, h8⟩ := hok
    have h := exec_draw_move hH hty hi
    rw [startGrid_draw ⟨h1, h2, h3, h4, h5, h6, h7, h8⟩ hd hread hpipe hfit] at h
    exact starts_of_addGrid h
  case signal =>
    have h := exec_signal_move hH hty hi
    rw [startSignal_passes hok hnone hk] at h
    refine ⟨fun hop => ?_, fun hop => ?_⟩
    · rw [if_neg (by omega)] at h; exact passes_of_passPkt h
    · rw [if_pos hop] at h; exact passes_of_passPkt h
  case wait =>
    have h := exec_wait_move hH hty hi
    rw [startWait_reads hok hfree hread] at h
    refine ⟨fun hmet => ?_, fun hmet => ?_⟩
    · rw [if_pos hmet] at h
      exact passes_of_putQueue (by rw [← atHead_active hH]) (passes_of_passPkt h)
    · rw [if_neg (by simp [hmet])] at h
      exact queueBecomes_of_put h
  case barrier =>
    have h := exec_barrier_move hH hty hi
    rw [startBarrier_passes hnone] at h
    exact passes_of_passPkt h
  case failed =>
    obtain ⟨k, hk⟩ := exec_packetEvent hi s
    exact ⟨fun he => queueBecomes_of_put (hk.trans (onPacket_failed hgoes hmore he k)),
      fun he => queueBecomes_of_put (hk.trans (onPacket_failed hgoes hmore he k)), fun page he => hk.trans (onPacket_failed hgoes hmore he k)⟩

end Sys2Proof.Machine
end

section
/-! PROOFS. Messages at an L1 (R272, R274, R276, R287, R429). -/

namespace Sys2Proof.Machine

/-! ## A message that is taken -/

/-- The state with message `k` taken from those on their way. -/
def taken (s : State) (k : Nat) : State := { s with coh := { s.coh with msgs := s.coh.msgs.eraseIdx k } }

/-- Messages go out one after another. -/
def sendAll (s : State) (out : List Msg) : State := out.foldl sendMsg s

theorem sendAll_eq (s : State) (out : List Msg) :
    sendAll s out = { s with coh := { s.coh with msgs := s.coh.msgs ++ out.map (·.at_ s.clock) } } := by
  induction out generalizing s with
  | nil => simp [sendAll]
  | cons m out ih =>
    rw [sendAll, List.foldl_cons, ← sendAll, ih]
    simp [sendMsg]

section Taken

variable {s u : State} {k : Nat} {m : Msg} {i : Instr} (hm : s.coh.msgs[k]? = some m) (hdst : m.dst ≠ homeId)
  (hi : exec i s = onMsg s k m.k false)
include hm hdst hi

theorem exec_l1 : exec i s = .next ((atL1 true (taken s k) m).getD s) := by
  simp [hi, onMsg, hm, hdst, deliver, taken]

theorem exec_l1_taken (hat : atL1 true (taken s k) m = some u) : exec i s = .next u := by
  rw [exec_l1 hm hdst hi, hat]
  rfl

/-- The message stays where it is. -/
theorem exec_l1_waits (hat : atL1 true (taken s k) m = none) : exec i s = .next s := by
  rw [exec_l1 hm hdst hi, hat]
  rfl

theorem l1Does_set {l : L1Line} {out : List Msg} (hat : atL1 true (taken s k) m = some (sendAll (setL1 (taken s k) m.dst m.line l) out)) :
    L1Does i s k m.dst m.line (some l) out := by
  refine ⟨_, exec_l1_taken hm hdst hi hat, ?_⟩
  rw [sendAll_eq]
  exact ⟨Map.find_insert_self _ _ _, rfl, fun j hj => Map.find_insert_ne _ _ hj, rfl, rfl⟩

theorem l1Does_drop {out : List Msg} (hat : atL1 true (taken s k) m = some (sendAll (dropL1Line (taken s k) m.dst m.line) out)) :
    L1Does i s k m.dst m.line none out := by
  refine ⟨_, exec_l1_taken hm hdst hi hat, ?_⟩
  rw [sendAll_eq]
  exact ⟨Map.find_erase_self _ _, rfl, fun j hj => Map.find_erase_ne _ hj, rfl, rfl⟩

theorem l1Does_keep {l : Option L1Line} {out : List Msg} (hl : l1Of s m.dst m.line = l)
    (hat : atL1 true (taken s k) m = some (sendAll (taken s k) out)) : L1Does i s k m.dst m.line l out := by
  refine ⟨_, exec_l1_taken hm hdst hi hat, ?_⟩
  rw [sendAll_eq]
  exact ⟨hl, rfl, fun j _ => rfl, rfl, rfl⟩

end Taken

/-! ## Fills (R274) -/

/-- A line of the core that it may evict is another one. -/
theorem fillVictim_ne {s : State} {core line : Nat} {v : Nat × L1Line} (h : fillVictim s core line = some v) : v.1 ≠ line := by
  have hmem : v ∈ victims s core line := by
    unfold fillVictim at h
    split at h
    · cases h
    · rename_i w rest heq
      rw [heq]
      split_ifs at h
      exact List.mem_of_getElem? h
  obtain ⟨e, he, rfl⟩ := List.mem_map.1 hmem
  have hmay := (List.mem_filter.1 he).2
  simp only [Bool.and_eq_true, bne_iff_ne] at hmay
  exact hmay.1.1.2

/-- What an eviction leaves: another line of the core, and a message more. -/
theorem evictL1_spec (t : State) {core line : Nat} {v : Nat} (l : L1Line) (hv : v ≠ line) :
    l1Of (evictL1 t core v l) core line = l1Of t core line ∧ (∃ out : List Msg, (evictL1 t core v l).coh.msgs = t.coh.msgs ++ out.map (·.at_ t.clock))
      ∧ (evictL1 t core v l).coh.dir = t.coh.dir ∧ evictL1 t core v l = { t with coh := (evictL1 t core v l).coh } := by
  have hkey : l1Key core line ≠ l1Key core v := by simpa [l1Key] using hv.symm
  unfold evictL1
  split
  · exact ⟨rfl, ⟨[], by simp⟩, rfl, rfl⟩
  · dsimp only
    split
    · exact ⟨Map.find_erase_ne _ hkey, ⟨[_], rfl⟩, rfl, rfl⟩
    · exact ⟨Map.find_insert_ne _ _ hkey, ⟨[_], rfl⟩, rfl, rfl⟩

/-- What a fill leaves: the line in its state, `Unblock` on its way, and perhaps an eviction. -/
theorem fillL1_spec (t : State) (core line : Nat) (l : L1Line) (st : L1St) :
    l1Of (fillL1 true t core line l st) core line = some { l with st := st, acksNeed := none, acksGot := 0 }
      ∧ (∃ out, (fillL1 true t core line l st).coh.msgs = t.coh.msgs ++ (toHome .unblock line core :: out).map (·.at_ t.clock))
      ∧ (fillL1 true t core line l st).coh.dir = t.coh.dir ∧ fillL1 true t core line l st = { t with coh := (fillL1 true t core line l st).coh } := by
  have hset : ∀ x, l1Of (sendMsg (setL1 t core line x) (toHome .unblock line core)) core line = some x := fun x => Map.find_insert_self _ _ _
  unfold fillL1
  rw [if_pos rfl]
  dsimp only
  split
  · rename_i v hv
    obtain ⟨hline, ⟨out, hmsgs⟩, hdir, hrest⟩ := evictL1_spec
      (sendMsg (setL1 t core line { l with st := st, acksNeed := none, acksGot := 0 }) (toHome .unblock line core)) v.2 (fillVictim_ne hv)
    exact ⟨hline.trans (hset _), ⟨out, hmsgs.trans (by simp)⟩, hdir, hrest⟩
  · exact ⟨hset _, ⟨[], rfl⟩, rfl, rfl⟩

/-- A message that fills the line, unless the fill waits. -/
theorem fills_of_atL1 {s : State} {k : Nat} {m : Msg} {i : Instr} {l x : L1Line} {st : L1St} (hm : s.coh.msgs[k]? = some m)
    (hdst : m.dst ≠ homeId) (hi : exec i s = onMsg s k m.k false) (hx : x = { l with acksNeed := x.acksNeed, acksGot := x.acksGot })
    (hat : atL1 true (taken s k) m = if fillWaits s m.dst m.line then none else some (fillL1 true (taken s k) m.dst m.line x st)) :
    Fills i s k m.dst m.line l st := by
  refine ⟨fun hw => exec_l1_waits hm hdst hi (by rw [hat, if_pos hw]), fun hw => ?_⟩
  obtain ⟨hline, hmsgs, hdir, hrest⟩ := fillL1_spec (taken s k) m.dst m.line x st
  refine ⟨_, exec_l1_taken hm hdst hi (by rw [hat, if_neg (by simp [hw])]), hline.trans ?_, hmsgs, hdir, hrest⟩
  rw [hx]

/-! ## What the line does with each message (R274) -/

section Line

variable {s : State} {k : Nat} {m : Msg} {l : L1Line} (hl : l1Of s m.dst m.line = some l)
include hl

theorem l1Of_taken : l1Of (taken s k) m.dst m.line = some l := hl

theorem atL1_grant (hk : m.k = .data ∨ m.k = .dataE ∨ m.k = .dataM ∨ m.k = .grant) (hask : l1Asking l.st = true) :
    atL1 true (taken s k) m = if fillWaits s m.dst m.line then none else some (l1Grant true (taken s k) m l) := by
  have hw : fillWaits (taken s k) m.dst m.line = fillWaits s m.dst m.line := rfl
  obtain hk | hk | hk | hk := hk <;> simp only [atL1, l1Of_taken hl, hk, hask, hw, Bool.true_and]

theorem atL1_invAck (hk : m.k = .invAck) :
    atL1 true (taken s k) m = if fillWaits s m.dst m.line then none
      else some (checkAcks true (taken s k) m.dst m.line { l with acksGot := l.acksGot + 1 }) := by
  have hw : fillWaits (taken s k) m.dst m.line = fillWaits s m.dst m.line := rfl
  simp only [atL1, l1Of_taken hl, hk, hw, Bool.true_and]

theorem atL1_inv_s (hk : m.k = .inv) (hst : l.st = .s) :
    atL1 true (taken s k) m = some (sendAll (dropL1Line (taken s k) m.dst m.line) [toReqr .invAck m]) := by
  simp only [atL1, l1Of_taken hl, hk, hst]
  rfl

theorem atL1_inv_smA (hk : m.k = .inv) (hst : l.st = .smA) :
    atL1 true (taken s k) m = some (sendAll (setL1 (taken s k) m.dst m.line { l with st := .imD }) [toReqr .invAck m]) := by
  simp only [atL1, l1Of_taken hl, hk, hst]
  rfl

theorem atL1_inv_imD (hk : m.k = .inv) (hst : l.st = .imD) : atL1 true (taken s k) m = some (sendAll (taken s k) [toReqr .invAck m]) := by
  simp only [atL1, l1Of_taken hl, hk, hst]
  rfl

theorem atL1_inv_isD (hk : m.k = .inv) (hst : l.st = .isD) :
    atL1 true (taken s k) m
      = if dataComing (taken s k) m.dst m.line then none else some (sendAll (taken s k) [toReqr .invAck m]) := by
  simp only [atL1, l1Of_taken hl, hk, hst]
  rfl

theorem atL1_fwdGetS (hk : m.k = .fwdGetS) : atL1 true (taken s k) m = if takesFwd l.st then some (l1FwdGetS (taken s k) m l) else none := by
  simp only [atL1, l1Of_taken hl, hk]

theorem atL1_fwdGetM (hk : m.k = .fwdGetM) : atL1 true (taken s k) m = if takesFwd l.st then some (l1FwdGetM (taken s k) m l) else none := by
  simp only [atL1, l1Of_taken hl, hk]

theorem atL1_pullWB (hk : m.k = .pullWB) (hst : l.st = .miN) :
    atL1 true (taken s k) m = some (sendAll (dropL1Line (taken s k) m.dst m.line) [toHome .wbData m.line m.dst]) := by
  simp only [atL1, l1Of_taken hl, hk, hst, if_true]
  rfl

theorem atL1_noticeAck (hk : m.k = .noticeAck) : atL1 true (taken s k) m = some (l1NoticeAck (taken s k) m l) := by
  simp only [atL1, l1Of_taken hl, hk]

theorem atL1_wbAck (hk : m.k = .wbAck) :
    atL1 true (taken s k) m
      = some (if l.wbSent && l1Leaving l.st then dropL1Line (taken s k) m.dst m.line else taken s k) := by
  simp only [atL1, l1Of_taken hl, hk]

theorem atL1_hPush (hk : m.k = .hPush) :
    atL1 true (taken s k) m
      = some (sendAll (setL1 (taken s k) m.dst m.line { l with pend := true }) [{ toHome .hAck m.line m.dst with reqr := m.reqr }]) := by
  simp only [atL1, l1Of_taken hl, hk]
  rfl

theorem atL1_hCommit (hk : m.k = .hCommit) :
    atL1 true (taken s k) m = some (sendAll (setL1 (taken s k) m.dst m.line { l with pend := false }) []) := by
  simp only [atL1, l1Of_taken hl, hk]
  rfl

theorem atL1_retry (hk : m.k = .retry) {x : MsgK} (hx : requestOf l.st = some x) :
    atL1 true (taken s k) m
      = some { taken s k with coh := { (taken s k).coh with retries := (taken s k).coh.retries ++ [toHome x m.line m.dst] } } := by
  simp only [atL1, l1Of_taken hl, hk, hx]

end Line

/-- A core without a copy answers an invalidation. -/
theorem atL1_none_inv {s : State} {k : Nat} {m : Msg} (hl : l1Of s m.dst m.line = none) (hk : m.k = .inv) :
    atL1 true (taken s k) m = some (sendAll (taken s k) [toReqr .invAck m]) := by
  have hnone : l1Of (taken s k) m.dst m.line = none := hl
  simp only [atL1, hnone, hk]
  rfl

theorem atL1_none_hPush {s : State} {k : Nat} {m : Msg} (hl : l1Of s m.dst m.line = none) (hk : m.k = .hPush) :
    atL1 true (taken s k) m = some (sendAll (taken s k) [{ toHome .hAck m.line m.dst with reqr := m.reqr }]) := by
  have hnone : l1Of (taken s k) m.dst m.line = none := hl
  simp only [atL1, hnone, hk]
  rfl

/-- Taking a message that is no `Data` leaves those on their way. -/
theorem dataComing_taken {s : State} {k : Nat} {m : Msg} (hm : s.coh.msgs[k]? = some m) (hk : m.k ≠ .data) (core line : Nat) :
    dataComing (taken s k) core line = dataComing s core line := by
  obtain ⟨hlt, hget⟩ := List.getElem?_eq_some_iff.1 hm
  have hsplit : s.coh.msgs = s.coh.msgs.take k ++ m :: s.coh.msgs.drop (k + 1) := by
    rw [← hget, List.getElem_cons_drop, List.take_append_drop]
  have hnot : (m.k == .data) = false := beq_eq_false_iff_ne.2 hk
  unfold dataComing taken
  rw [List.eraseIdx_eq_take_drop_succ]
  conv_rhs => rw [hsplit]
  simp [hnot]

/-! ## Grants and their acknowledgements (R274) -/

/-- A line that waits for a write grant. -/
def AsksWrite (l : L1Line) : Prop := l.st = .imD ∨ l.st = .smA ∨ l.st = .omA

theorem l1Asking_of_asksWrite {l : L1Line} (h : AsksWrite l) : l1Asking l.st = true := by
  obtain h | h | h := h <;> rw [h] <;> rfl

theorem l1Grant_write {t : State} {m : Msg} {l : L1Line} (hk : m.k = .dataM ∨ m.k = .grant) (h : AsksWrite l) :
    l1Grant true t m l = checkAcks true t m.dst m.line { l with acksNeed := some m.acks } := by
  obtain hk | hk := hk <;> obtain h | h | h := h <;> simp only [l1Grant, hk, h]

theorem l1Grant_write_isD {t : State} {m : Msg} {l : L1Line} (hk : m.k = .dataM ∨ m.k = .grant) (h : l.st = .isD) :
    l1Grant true t m l = fillL1 true t m.dst m.line l .m := by
  obtain hk | hk := hk <;> simp only [l1Grant, hk, h]

theorem checkAcks_complete (t : State) (core line : Nat) {x : L1Line} (hx : AsksWrite x) (h : x.acksNeed = some x.acksGot) :
    checkAcks true t core line x = fillL1 true t core line x .m := by
  rw [checkAcks, if_pos]
  obtain hx | hx | hx := hx <;> simp [h, hx]

theorem checkAcks_waits (t : State) (core line : Nat) {x : L1Line} (h : x.acksNeed ≠ some x.acksGot) :
    checkAcks true t core line x = setL1 t core line x := by
  rw [checkAcks, if_neg (by simp [h])]

section Grants

variable {s : State} {k : Nat} {m : Msg} {l : L1Line} {i : Instr} (hm : s.coh.msgs[k]? = some m) (hdst : m.dst ≠ homeId)
  (hi : exec i s = onMsg s k m.k false) (hl : l1Of s m.dst m.line = some l)
include hm hdst hi hl

/-- An answer to a read fills the line. -/
theorem fills_read {st : L1St} (hk : m.k = .data ∧ st = .s ∨ m.k = .dataE ∧ st = .e) (hst : l.st = .isD) :
    Fills i s k m.dst m.line l st := by
  have hkind : m.k = .data ∨ m.k = .dataE ∨ m.k = .dataM ∨ m.k = .grant := by tauto
  refine fills_of_atL1 hm hdst hi (x := l) rfl ?_
  rw [atL1_grant hl hkind (by rw [hst]; rfl)]
  obtain ⟨hk, rfl⟩ | ⟨hk, rfl⟩ := hk <;> simp only [l1Grant, hk, hst]

variable (hk : m.k = .dataM ∨ m.k = .grant)
include hk

/-- A write grant to a line that asked to read fills it. -/
theorem fills_write_isD (hst : l.st = .isD) : Fills i s k m.dst m.line l .m := by
  refine fills_of_atL1 hm hdst hi (x := l) rfl ?_
  rw [atL1_grant hl (.inr (.inr hk)) (by rw [hst]; rfl), l1Grant_write_isD hk hst]

/-- A write grant whose acknowledgements are in fills the line. -/
theorem fills_write (hst : AsksWrite l) (hacks : m.acks = l.acksGot) : Fills i s k m.dst m.line l .m := by
  refine fills_of_atL1 hm hdst hi (x := { l with acksNeed := some m.acks }) rfl ?_
  rw [atL1_grant hl (.inr (.inr hk)) (l1Asking_of_asksWrite hst), l1Grant_write hk hst,
    checkAcks_complete _ _ _ (x := { l with acksNeed := some m.acks }) hst (congrArg some hacks)]

/-- One that still waits for acknowledgements is noted. -/
theorem l1Does_grant (hst : AsksWrite l) (hacks : m.acks ≠ l.acksGot) (hw : fillWaits s m.dst m.line = false) :
    L1Does i s k m.dst m.line (some { l with acksNeed := some m.acks }) [] := by
  refine l1Does_set hm hdst hi ?_
  rw [atL1_grant hl (.inr (.inr hk)) (l1Asking_of_asksWrite hst), l1Grant_write hk hst,
    checkAcks_waits _ _ _ (fun h => hacks (Option.some.inj h)), hw]
  rfl

end Grants

section InvAck

variable {s : State} {k : Nat} {m : Msg} {l : L1Line} {i : Instr} (hm : s.coh.msgs[k]? = some m) (hdst : m.dst ≠ homeId)
  (hi : exec i s = onMsg s k m.k false) (hl : l1Of s m.dst m.line = some l) (hk : m.k = .invAck)
include hm hdst hi hl hk

/-- The last acknowledgement fills the line. -/
theorem fills_invAck (hst : AsksWrite l) (hacks : l.acksNeed = some (l.acksGot + 1)) : Fills i s k m.dst m.line l .m := by
  refine fills_of_atL1 hm hdst hi (x := { l with acksGot := l.acksGot + 1 }) rfl ?_
  rw [atL1_invAck hl hk, checkAcks_complete _ _ _ (x := { l with acksGot := l.acksGot + 1 }) hst hacks]

/-- Any other is counted. -/
theorem l1Does_invAck (hacks : l.acksNeed ≠ some (l.acksGot + 1)) (hw : fillWaits s m.dst m.line = false) :
    L1Does i s k m.dst m.line (some { l with acksGot := l.acksGot + 1 }) [] := by
  refine l1Does_set hm hdst hi ?_
  rw [atL1_invAck hl hk, checkAcks_waits _ _ _ hacks, hw]
  rfl

end InvAck

/-! ## Forwards and notices (R274, R429) -/

theorem l1FwdGetS_eq (t : State) (m : Msg) (l : L1Line) {st : L1St}
    (hst : l.st = .e ∧ st = .s ∨ (l.st = .m ∨ l.st = .o) ∧ st = .o ∨ l.st = .omA ∧ st = .omA ∨ (l.st = .eiN ∨ l.st = .miN) ∧ st = .miN) :
    l1FwdGetS t m l = sendAll (setL1 t m.dst m.line { l with st := st })
      [toReqr .data m, toHome (if l.st = .e then .cleanAck else .ownAck) m.line m.dst] := by
  obtain ⟨h, rfl⟩ | ⟨h | h, rfl⟩ | ⟨h, rfl⟩ | ⟨h | h, rfl⟩ := hst <;> simp only [l1FwdGetS, h] <;> rfl

theorem takesFwd_asking {st : L1St} (h : st = .isD ∨ st = .imD ∨ st = .smA) : takesFwd st = false := by
  obtain rfl | rfl | rfl := h <;> rfl

theorem l1FwdGetM_drop (t : State) (m : Msg) {l : L1Line}
    (hst : l.st = .e ∨ l.st = .m ∨ l.st = .o ∨ (l.st = .miN ∨ l.st = .eiN) ∧ l.heldAck = true) :
    l1FwdGetM t m l = sendAll (dropL1Line t m.dst m.line) [toReqr .dataM m] := by
  obtain h | h | h | ⟨h | h, hheld⟩ := hst <;> simp only [l1FwdGetM, h]
  case inr.inr.inr.inl => rw [if_pos hheld]; rfl
  case inr.inr.inr.inr => rw [if_pos hheld]; rfl
  all_goals rfl

theorem l1FwdGetM_leaving (t : State) (m : Msg) {l : L1Line} (hst : l.st = .miN ∨ l.st = .eiN) (hheld : l.heldAck = false) :
    l1FwdGetM t m l = sendAll (setL1 t m.dst m.line { l with st := .iiN }) [toReqr .dataM m] := by
  obtain h | h := hst <;> simp only [l1FwdGetM, h, hheld] <;> rfl

theorem l1FwdGetM_omA (t : State) (m : Msg) {l : L1Line} (hst : l.st = .omA) :
    l1FwdGetM t m l = sendAll (setL1 t m.dst m.line { l with st := .imD }) [toReqr .dataM m] := by
  simp only [l1FwdGetM, hst]
  rfl

theorem l1NoticeAck_stale (t : State) (m : Msg) {l : L1Line} (hst : l.st = .miN ∨ l.st = .eiN) (h : m.stale = true) :
    l1NoticeAck t m l = sendAll (setL1 t m.dst m.line { l with heldAck := true }) [] := by
  obtain hst | hst := hst <;> simp [l1NoticeAck, hst, h, sendAll]

theorem l1NoticeAck_fresh (t : State) (m : Msg) {l : L1Line} (h : (l.st = .miN ∨ l.st = .eiN) ∧ m.stale = false ∨ l.st = .iiN) :
    l1NoticeAck t m l = sendAll (dropL1Line t m.dst m.line) [] := by
  obtain ⟨hst | hst, h⟩ | hst := h <;> simp [l1NoticeAck, hst, sendAll] <;> simp [h]

end Sys2Proof.Machine
end

section
/-! PROOFS. What agents outside the package do to lines (R104, R110, R281, R283, R406, R407, R425). -/

namespace Sys2Proof.Machine

/-! ## Entries and copies (R270, R271) -/

theorem lineOf_lineOf (key : Nat) : lineOf (lineOf key) = lineOf key := by
  simp only [lineOf]
  omega

@[simp] theorem frameDirty_coh (s : State) (line : Nat) : (frameDirty s line).coh = s.coh := by
  unfold frameDirty; split
  · split <;> rfl
  · rfl

theorem dirOf_of_coh {s t : State} (h : t.coh = s.coh) (line : Nat) : dirOf t line = dirOf s line := by rw [dirOf, h, dirOf]

/-- The home copy of a line comes into its entry; of the rest of the protocol's state, only other lines' entries change. -/
theorem homePut_spec (s : State) (line : Nat) :
    dirOf (homePut s line) line = homed line (dirOf s line) ∧ (homePut s line).coh = { s.coh with dir := (homePut s line).coh.dir } := by
  unfold homePut homed
  dsimp only
  split_ifs with hkeep hlt hroom hlow
  · refine ⟨?_, rfl⟩
    obtain hhome | hout := hkeep
    · rw [← hhome]
    · omega
  · exact ⟨rfl, rfl⟩
  · exact ⟨dirOf_setDir_self _ _ _, rfl⟩
  · exact absurd (Or.inr (Nat.not_lt.1 hlow)) hkeep
  · split
    · rename_i v e hvictim
      have hmem := (List.mem_filter.1 (List.mem_of_getElem? hvictim)).2
      simp only [Bool.and_eq_true, bne_iff_ne] at hmem
      exact ⟨(dirOf_setDir_ne _ _ hmem.1.2.symm).trans (dirOf_setDir_self _ _ _), rfl⟩
    · exact ⟨dirOf_setDir_self _ _ _, rfl⟩
  · exact absurd (Or.inr (Nat.not_lt.1 ‹_›)) hkeep

theorem noCopy_of_l1 {s t : State} {line : Nat} (h : t.coh.l1 = s.coh.l1) (hs : NoCopy s line) : NoCopy t line := by
  rw [NoCopy, h]
  exact hs

/-- What a recall leaves of an L1 line is no copy. -/
theorem recalled_st {coming : Nat → Bool} {core : Nat} {l x : L1Line} (h : recalled coming core l = some x) :
    x.st = .isD ∨ x.st = .imD ∨ x.st = .iiN := by
  cases hst : l.st <;> simp only [recalled, hst, reduceCtorEq, Option.ite_none_left_eq_some, Option.some.injEq] at h
  case isD => exact .inl (h.2 ▸ hst)
  case imD => exact .inr (.inl (h ▸ hst))
  case iiN => exact .inr (.inr (h ▸ hst))
  case smA => exact .inr (.inl (h ▸ rfl))
  case omA => exact .inr (.inl (h ▸ rfl))
  case eiN => exact .inr (.inr (h.2 ▸ rfl))
  case miN => exact .inr (.inr (h.2 ▸ rfl))

theorem noCopy_dropCopies (s : State) (line : Nat) : NoCopy (dropCopies s line) line := by
  intro e he hline
  obtain ⟨e', he', hkeep⟩ := List.mem_filterMap.1 he
  split_ifs at hkeep with hmine
  · obtain ⟨x, hx, rfl⟩ := Option.map_eq_some_iff.1 hkeep
    exact recalled_st hx
  · cases hkeep
    exact absurd (beq_iff_eq.2 hline) hmine

/-! ## A line with no transaction in progress (R272, R279) -/

section Settled

variable {s : State} {line : Nat} (hset : settledLine s line = true)
include hset

/-- A recall takes every copy, and leaves the entry in I with its fog marker and its home copy. -/
theorem recallLine_settled :
    dirOf (recallLine s line) line = { Dir.init with fog := (dirOf s line).fog, home := (dirOf s line).home }
      ∧ NoCopy (recallLine s line) line ∧ (recallLine s line).mem = s.mem ∧ (recallLine s line).coh.snoops = s.coh.snoops := by
  have hstable : dirStable (dirOf s line) = true := (Bool.and_eq_true_iff.1 hset).1
  unfold recallLine
  rw [settleLine_eq hset]
  simp only [hstable, Bool.not_true, Bool.false_eq_true, if_false]
  refine ⟨dirOf_setDir_self _ _ _, noCopy_of_l1 rfl (noCopy_dropCopies _ line), ?_, ?_⟩
  · split_ifs
    · exact frameDirty_mem s line
    · rfl
  · split_ifs
    · exact (congrArg Coh.snoops (frameDirty_coh s line) :)
    · rfl

end Settled

/-! ## Snoops (R406) -/

/-- The line is in a state of the directory's own, none that a region, an accumulator, a lost line or a move sets apart. -/
def PlainLine (s : State) (line : Nat) : Prop :=
  lineSt s line = .s ∨ lineSt s line = .e ∨ lineSt s line = .m ∨ lineSt s line = .o ∨ lineSt s line = .i

theorem fog_of_plainLine {s : State} {line : Nat} (hline : lineOf line = line) (h : PlainLine s line) : (dirOf s line).fog = false := by
  by_contra hfog
  have hst : lineSt s line = .a ∨ lineSt s line = .h ∨ lineSt s line = .fog := by
    unfold lineSt
    rw [hline]
    dsimp only
    split_ifs <;> simp_all
  obtain h | h | h | h | h := h <;> rw [h] at hst <;> simp at hst

/-- A snoop of a plain line takes every copy, and with an invalidation the home copy. -/
theorem answerSnoop_plain {s : State} {line : Nat} (hline : lineOf line = line) (hset : settledLine s line = true) (hplain : PlainLine s line)
    (inv : Bool) :
    dirOf (answerSnoop s line inv) line = { Dir.init with home := !inv } ∧ NoCopy (answerSnoop s line inv) line
      ∧ (answerSnoop s line inv).coh.snoops = s.coh.snoops ∧ (answerSnoop s line inv).mem = s.mem := by
  obtain ⟨hdir, hcopies, hmem, hsnoops⟩ := recallLine_settled hset
  have hanswer : answerSnoop s line inv = setDir (recallLine s line) line { dirOf (recallLine s line) line with home := !inv } := by
    unfold answerSnoop
    obtain h | h | h | h | h := hplain <;> rw [h]
  rw [hanswer, hdir, fog_of_plainLine hline hplain]
  exact ⟨dirOf_setDir_self _ _ _, noCopy_of_l1 rfl hcopies, hsnoops, hmem⟩

/-- The state without waiting snoops. -/
def unsnooped (s : State) : State := { s with coh := { s.coh with snoops := [] } }

/-- With one snoop waiting that can be answered, it is answered. -/
theorem answerSnoops_one {s : State} {line : Nat} {inv : Bool} (hr : snoopReady s line = true) :
    answerSnoops { s with coh := { s.coh with snoops := [(line, inv)] } } = answerSnoop (unsnooped s) line inv := by
  have hready : snoopReady { s with coh := { s.coh with snoops := [(line, inv)] } } line = true := hr
  simp [answerSnoops, hready, unsnooped]

theorem answerSnoops_none {s : State} (h : s.coh.snoops = []) : answerSnoops s = s := by
  rw [answerSnoops, if_pos h]

/-- One that cannot be answered goes on waiting. -/
theorem answerSnoops_waits {s : State} {line : Nat} {inv : Bool} (hr : snoopReady s line = false) :
    answerSnoops { s with coh := { s.coh with snoops := [(line, inv)] } } = { s with coh := { s.coh with snoops := [(line, inv)] } } := by
  have hready : snoopReady { s with coh := { s.coh with snoops := [(line, inv)] } } line = false := hr
  simp [answerSnoops, hready]

section Snoop

variable {s : State} {pa : Nat} {inv : Bool}

theorem exec_bisnpReceive_alone (hnone : s.coh.snoops = []) :
    exec (.bisnpReceive pa inv) s = .next (answerSnoops { s with coh := { s.coh with snoops := [(lineOf pa, inv)] } }) := by
  rw [exec_bisnpReceive, execBisnpReceive, hnone]
  rfl

/-- The conflict's answer lets the waiting snoop of the line be answered. -/
theorem exec_biconflictReceive_ack (hone : s.coh.snoops = [(lineOf pa, inv)]) (hset : settledLine s (lineOf pa) = true)
    (hplain : PlainLine s (lineOf pa)) : exec (.biconflictReceive pa true) s = .next (answerSnoop (unsnooped s) (lineOf pa) inv) := by
  have hst : (true && lineSt s (lineOf pa) != .a && lineSt s (lineOf pa) != .migr) = true := by
    obtain h | h | h | h | h := hplain <;> rw [h] <;> rfl
  have hsnoops := (answerSnoop_plain (s := unsnooped s) (lineOf_lineOf pa) hset hplain inv).2.2.1
  rw [exec_biconflictReceive, execBiconflictReceive]
  dsimp only
  rw [if_pos hst, hone]
  simp only [List.filter_cons, List.filter_nil, beq_self_eq_true, bne_self_eq_false, if_true, Bool.false_eq_true, if_false, List.foldl_cons,
    List.foldl_nil]
  exact congrArg _ (answerSnoops_none hsnoops)

end Snoop

/-! ## Forwards that time out, answers of external holders and lines that fail their check (R110, R281, R283, R407, R425) -/

/-- A forward that its core has left unanswered for 2^20 cycles. -/
def LateForward (s : State) (core : Nat) (m : Msg) : Prop :=
  m.dst = core ∧ (m.k = .fwdGetS ∨ m.k = .fwdGetM ∨ m.k = .inv ∨ m.k = .pullWB ∨ m.k = .hPush) ∧ 2 ^ 20 ≤ (s.clock - m.sent).toNat

theorem exec_forwardTimeout_late {s : State} {core : Nat} (hcore : core < 96) (h : ∃ m ∈ s.coh.msgs, LateForward s core m) :
    exec (.forwardTimeout core) s = .next (coreDead s core 2) := by
  obtain ⟨m, hm, hdst, hk, hlate⟩ := h
  rw [exec_forwardTimeout, execForwardTimeout]
  refine congrArg _ (if_pos ⟨hcore, List.any_eq_true.2 ⟨m, hm, ?_⟩⟩)
  simp only [hdst, hlate, beq_self_eq_true, decide_true, Bool.true_and, Bool.and_true]
  obtain hk | hk | hk | hk | hk := hk <;> rw [hk] <;> rfl

theorem exec_forwardTimeout_none {s : State} {core : Nat} (h : ∀ m ∈ s.coh.msgs, ¬LateForward s core m) :
    exec (.forwardTimeout core) s = .next s := by
  rw [exec_forwardTimeout, execForwardTimeout]
  refine congrArg _ (if_neg fun ⟨_, hany⟩ => ?_)
  obtain ⟨m, hm, hlate⟩ := List.any_eq_true.1 hany
  simp only [Bool.and_eq_true, Bool.or_eq_true, beq_iff_eq, decide_eq_true_eq, or_assoc] at hlate
  exact h m hm ⟨hlate.1.1, hlate.1.2, hlate.2⟩

section Answers

variable {s : State} {pa agent : Nat} (hlive : retiredAgent s agent = false) (hin : agent ∈ (dirOf s (lineOf pa)).biWait)
include hlive hin

/-- The last answer lets the grant go. -/
theorem exec_birspReceive_last (hlast : (dirOf s (lineOf pa)).biWait.filter (· != agent) = []) :
    exec (.birspReceive pa agent) s = .next (biDone s (lineOf pa) (dirOf s (lineOf pa))) := by
  rw [exec_birspReceive, execBirspReceive]
  simp [hlive, hin, hlast]

theorem exec_birspReceive_more (hmore : (dirOf s (lineOf pa)).biWait.filter (· != agent) ≠ []) :
    exec (.birspReceive pa agent) s
      = .next (setDir s (lineOf pa) { dirOf s (lineOf pa) with biWait := (dirOf s (lineOf pa)).biWait.filter (· != agent) }) := by
  rw [exec_birspReceive, execBirspReceive]
  have hhas : ¬(!(dirOf s (lineOf pa)).biWait.contains agent) = true := by simp [hin]
  simp only [hlive, Bool.false_eq_true, if_false]
  rw [if_neg hhas]

end Answers

/-- What the pending grant leaves. -/
theorem biDone_spec {s : State} {line r acks : Nat} {data : Bool} {d : Dir} (hg : d.biGrant = some (r, data, acks)) :
    dirOf (biDone s line d) line = homed line { d with biWait := [], biGrant := none, gotOwn := false }
      ∧ (biDone s line d).coh.msgs
        = s.coh.msgs ++ [(fromHome (if d.grantE then .dataE else if data then .dataM else .grant) line r r acks).at_ s.clock] := by
  obtain ⟨hdir, hcoh⟩ := homePut_spec (setDir s line { d with biWait := [], biGrant := none, gotOwn := false }) line
  unfold biDone
  rw [hg]
  dsimp only
  refine ⟨hdir.trans (by rw [dirOf_setDir_self]), ?_⟩
  have hclock := congrArg State.clock (running_homePut (setDir s line { d with biWait := [], biGrant := none, gotOwn := false }) line)
  have hmsgs := congrArg Coh.msgs hcoh
  simp only [running, setDir_clock] at hclock
  rw [sendMsg_coh]
  exact congrArg₂ _ hmsgs (by rw [hclock])

/-- A line that comes back for no fetch that fails its check. -/
theorem exec_memoryLineReturn_none {s : State} {pa : Nat} (h : ∀ e ∈ s.coh.failing, e.2.1 ≠ lineOf pa) :
    exec (.memoryLineReturn pa) s = .next s := by
  have hkept : s.coh.failing.filter (fun e => e.2.1 != lineOf pa) = s.coh.failing :=
    List.filter_eq_self.2 fun e he => bne_iff_ne.2 (h e he)
  have hmine : s.coh.failing.filter (fun e => e.2.1 == lineOf pa) = [] :=
    List.filter_eq_nil_iff.2 fun e he => by simpa using h e he
  rw [exec_memoryLineReturn, execMemoryLineReturn]
  simp only [hkept, hmine]
  rfl

/-! ## Requests of external agents (R104, R407) -/

section External

variable {s : State} {agent pa : Nat} (hlive : peerLostAgent s agent = false)
include hlive

theorem retiredAgent_of_live : retiredAgent s agent = false := by
  unfold peerLostAgent at hlive
  unfold retiredAgent
  split at hlive
  · rename_i a ha
    simpa [ha] using hlive
  · cases hlive

theorem exec_evict_owner (hst : (dirOf s (lineOf pa)).st = .m) (howner : (dirOf s (lineOf pa)).owner = agent) :
    exec (.externalRequest agent (.evict pa)) s = .next (setDir s (lineOf pa) { dirOf s (lineOf pa) with st := .i, owner := 0 }) := by
  simp [execExternalRequest, retiredAgent_of_live hlive, hlive, hst, howner]

theorem exec_evict_other (howner : (dirOf s (lineOf pa)).owner ≠ agent) :
    exec (.externalRequest agent (.evict pa)) s
      = .next (setDir s (lineOf pa) { dirOf s (lineOf pa) with ext := (dirOf s (lineOf pa)).ext.filter (· != agent) }) := by
  simp [execExternalRequest, retiredAgent_of_live hlive, hlive, howner]

variable (hok : servable s pa = true) (hset : settledLine s (lineOf pa) = true)
include hok hset

theorem exec_extRead : exec (.externalRequest agent (.read pa)) s = .next (extRead s agent (lineOf pa)) := by
  simp [execExternalRequest, retiredAgent_of_live hlive, hlive, settleLine_eq hset, hok]

/-- An agent's ownership request leaves the agent the only holder. -/
theorem exec_extGetM : exec (.externalRequest agent (.getM pa)) s
    = .next (setDir (grantNote (recallLine s (lineOf pa)) (lineOf pa)) (lineOf pa) { Dir.init with st := .m, owner := agent }) := by
  simp [execExternalRequest, retiredAgent_of_live hlive, hlive, settleLine_eq hset, hok]

/-- The state over which an agent's write stores its bytes. -/
def extTaken (s : State) (agent line : Nat) : State :=
  setDir (grantNote (recallLine s line) line) line
    { dirOf (grantNote (recallLine s line) line) line with ext := (dirOf s line).ext.filter (· == agent) }

theorem exec_extWrite {bs : List Byte} (hfit : pa % 128 + bs.length ≤ 128) :
    exec (.externalRequest agent (.write pa bs)) s = .next (extWrite (extTaken s agent (lineOf pa)) pa bs) := by
  have hlocal : exposed pa = true := by
    simp only [servable, Bool.and_eq_true] at hok
    exact hok.1.1.1.1
  rw [exec_externalRequest, execExternalRequest]
  simp only [retiredAgent_of_live hlive, hlive, settleLine_eq hset, hok, hlocal, Nat.not_lt.2 hfit, Bool.false_eq_true, if_false, if_true]
  rfl

end External

/-- The entry that an agent's read leaves: the home copy is there, and the agent among the external holders while there is room. -/
def joined (agent : Nat) (d : Dir) : Dir :=
  { d with home := true, ext := if agent ∈ d.ext ∨ 4 ≤ d.ext.length then d.ext else d.ext ++ [agent] }

/-- A read of the home over the state `t`, in which an owner goes on as one of several. -/
theorem extRead_spec {s t : State} {agent line : Nat} (hline : line < 2 ^ 52) (hread : homeRead s line = homePut t line) :
    dirOf (extRead s agent line) line = joined agent (dirOf t line) ∧ (extRead s agent line).coh.l1 = t.coh.l1
      ∧ (extRead s agent line).mem = t.mem := by
  obtain ⟨hdir, hcoh⟩ := homePut_spec t line
  unfold extRead
  rw [hread]
  refine ⟨(dirOf_setDir_self _ _ _).trans ?_, ?_, homePut_mem t line⟩
  · rw [hdir, homed, if_pos hline]
    simp [joined]
  · exact (congrArg Coh.l1 hcoh :)

section HomeRead

variable {s : State} {line : Nat} (hset : settledLine s line = true)
include hset

/-- No owner's copy changes where the entry names none that could be dirty. -/
theorem homeRead_shared (hst : (dirOf s line).st = .s ∨ (dirOf s line).st = .i ∨ (dirOf s line).st = .o) :
    homeRead s line = homePut s line := by
  unfold homeRead
  rw [settleLine_eq hset]
  obtain h | h | h := hst <;> simp [h]

variable {l : L1Line} (howner : (dirOf s line).owner < 96) (hl : l1Of s (dirOf s line).owner line = some l)
include howner hl

theorem homeRead_clean (hst : (dirOf s line).st = .e) (hl1 : l.st = .e) :
    homeRead s line = homePut (setDir (setL1 s (dirOf s line).owner line { l with st := .s }) line
      { dirOf s line with st := .s, owner := 0, sharers := sharerBit (dirOf s line).owner }) line := by
  unfold homeRead
  rw [settleLine_eq hset]
  simp [howner, hl, hst, hl1]

theorem homeRead_dirty (hst : (dirOf s line).st = .e ∨ (dirOf s line).st = .m) (hl1 : l.st = .m) :
    homeRead s line = homePut (setDir (setL1 s (dirOf s line).owner line { l with st := .o }) line { dirOf s line with st := .o }) line := by
  unfold homeRead
  rw [settleLine_eq hset]
  obtain hst | hst := hst <;> simp [howner, hl, hst, hl1]

end HomeRead

theorem extWrite_byte (t : State) (pa : Nat) (bs : List Byte) (a : Nat) :
    Tab.get 0 (extWrite t pa bs).mem a = if pa ≤ a ∧ a < pa + bs.length then bs.getD (a - pa) 0 else Tab.get 0 t.mem a := by
  split_ifs with h
  · obtain ⟨j, rfl⟩ := Nat.exists_eq_add_of_le h.1
    have hj : j < bs.length := by omega
    rw [Nat.add_sub_cancel_left, List.getD_eq_getElem _ _ hj]
    exact writeMem_inside _ _ _ _ hj
  · exact writeMem_outside _ _ _ _ (by omega)

end Sys2Proof.Machine
end

section
/-! PROOFS. Messages at the L1s and from outside the package, put together (R104, R110, R274, R276, R281, R283, R287, R406, R407, R425, R429). -/

namespace Sys2Proof.Machine

/-- A request that was sent back goes out again (R272). -/
theorem requestResend_sends {s : State} {j : Nat} {x : Msg} (hx : s.coh.retries[j]? = some x) :
    ∃ u, exec (.requestResend j) s = .next u ∧ u.coh.msgs = s.coh.msgs ++ [x.at_ s.clock] ∧ u.coh.retries = s.coh.retries.eraseIdx j
      ∧ u = { s with coh := u.coh } := by
  have h : exec (.requestResend j) s = .next (sendMsg { s with coh := { s.coh with retries := s.coh.retries.eraseIdx j } } x) := by
    rw [exec_requestResend, execRequestResend, hx]
  exact ⟨_, h, rfl, rfl, rfl⟩

/-- Both events of a write grant take its message. -/
theorem exec_writeGrant {s : State} {k : Nat} {m : Msg} {i : Instr} (h : m.k = .dataM ∧ i = .l1Datam k ∨ m.k = .grant ∧ i = .l1Grant k) :
    exec i s = onMsg s k m.k false := by
  obtain ⟨hk, rfl⟩ | ⟨hk, rfl⟩ := h <;> rw [hk] <;> rfl

/-- The line of a servable address lies in local memory. -/
theorem servable_line {s : State} {pa : Nat} (h : servable s pa = true) : lineOf pa < 2 ^ 52 := by
  simp only [servable, exposed, Bool.and_eq_true, decide_eq_true_eq] at h
  obtain ⟨⟨⟨⟨hlocal, -⟩, -⟩, -⟩, -⟩ := h
  simp only [lineOf]
  omega

/-- Settles O52: each message by what the line's state makes of it, and each event from outside by the recall or the entry it leaves. -/
theorem l1AndExternalMessages : Obligations.L1AndExternalMessages := by
  refine ⟨fun s k m l hm hdst => ⟨fun hl => ⟨fun hk => ?data, fun hk => ?dataE, fun i hk => ⟨?grantIsD, fun hst => ⟨?grant, ?grantWaits⟩⟩,
      fun hk hst => ⟨?invAck, ?invAckWaits⟩, fun hk => ⟨?invS, ?invSmA, ?invAsking, ?invComing⟩,
      fun hk => ⟨?getsE, ?getsM, ?getsOmA, ?getsLeaving, ?getsWaits⟩, fun hk => ⟨?getmOwner, ?getmLeaving, ?getmOmA, ?getmWaits⟩,
      fun hk hst => ?pullWB, fun hk => ⟨fun hst => ⟨?noticeStale, ?notice⟩, ?noticeIiN⟩, fun hk => ⟨?wbAck, ?wbAckOther⟩, fun hk => ?hPush,
      fun hk => ?hCommit, fun x hk hst => ?retry⟩, fun hl => ⟨fun hk => ?noneInv, fun hk => ?noneHPush⟩, fun j x => requestResend_sends⟩,
    fun s core hcore => ⟨exec_forwardTimeout_late hcore, exec_forwardTimeout_none⟩, ?birsp, ?snoop, ?snoopWaits, ?conflict, ?line,
    fun s agent req hret => ?retired, fun s agent pa hlive hok hplain hset => ⟨?read, ?readOwner, ?getM, ?write, ?evict, ?evictOther⟩⟩
  case data => exact fun hst => fills_read hm hdst (by rw [hk]; rfl) hl (.inl ⟨hk, rfl⟩) hst
  case dataE => exact fun hst => fills_read hm hdst (by rw [hk]; rfl) hl (.inr ⟨hk, rfl⟩) hst
  case grantIsD => exact fills_write_isD hm hdst (exec_writeGrant hk) hl (hk.imp And.left And.left)
  case grant => exact fills_write hm hdst (exec_writeGrant hk) hl (hk.imp And.left And.left) hst
  case grantWaits => exact l1Does_grant hm hdst (exec_writeGrant hk) hl (hk.imp And.left And.left) hst
  case invAck => exact fills_invAck hm hdst (by rw [hk]; rfl) hl hk hst
  case invAckWaits => exact l1Does_invAck hm hdst (by rw [hk]; rfl) hl hk
  case invS => exact fun hst => l1Does_drop hm hdst (by rw [hk]; rfl) (atL1_inv_s hl hk hst)
  case invSmA => exact fun hst => l1Does_set hm hdst (by rw [hk]; rfl) (atL1_inv_smA hl hk hst)
  case invAsking =>
    rintro (hst | ⟨hst, hcoming⟩)
    · exact l1Does_keep hm hdst (by rw [hk]; rfl) hl (atL1_inv_imD hl hk hst)
    · exact l1Does_keep hm hdst (by rw [hk]; rfl) hl
        (by rw [atL1_inv_isD hl hk hst, dataComing_taken hm (by rw [hk]; decide), hcoming]; rfl)
  case invComing =>
    exact fun hst hcoming => exec_l1_waits hm hdst (by rw [hk]; rfl)
      (by rw [atL1_inv_isD hl hk hst, dataComing_taken hm (by rw [hk]; decide), hcoming]; rfl)
  case getsE =>
    exact fun hst => l1Does_set hm hdst (by rw [hk]; rfl) (by rw [atL1_fwdGetS hl hk, l1FwdGetS_eq _ _ _ (.inl ⟨hst, rfl⟩), hst]; rfl)
  case getsM =>
    rintro (hst | hst) <;> exact l1Does_set hm hdst (by rw [hk]; rfl)
      (by rw [atL1_fwdGetS hl hk, l1FwdGetS_eq _ _ _ (.inr (.inl ⟨by simp [hst], rfl⟩)), hst]; rfl)
  case getsOmA =>
    intro hst
    have hsame : { l with st := .omA } = l := by rw [← hst]
    have h := l1Does_set (l := { l with st := .omA }) hm hdst (i := .l1Fwdgets k) (by rw [hk]; rfl)
      (by rw [atL1_fwdGetS hl hk, l1FwdGetS_eq _ _ _ (.inr (.inr (.inl ⟨hst, rfl⟩))), hst]; rfl)
    rwa [hsame] at h
  case getsLeaving =>
    rintro (hst | hst) <;> exact l1Does_set hm hdst (by rw [hk]; rfl)
      (by rw [atL1_fwdGetS hl hk, l1FwdGetS_eq _ _ _ (.inr (.inr (.inr ⟨by simp [hst], rfl⟩))), hst]; rfl)
  case getsWaits =>
    exact fun hst => exec_l1_waits hm hdst (by rw [hk]; rfl) (by rw [atL1_fwdGetS hl hk, takesFwd_asking hst]; rfl)
  case getmOwner =>
    intro hst
    have htakes : takesFwd l.st = true := by obtain h | h | h | ⟨h | h, -⟩ := hst <;> rw [h] <;> rfl
    exact l1Does_drop hm hdst (by rw [hk]; rfl) (by rw [atL1_fwdGetM hl hk, htakes, l1FwdGetM_drop _ _ hst]; rfl)
  case getmLeaving =>
    intro hst hheld
    have htakes : takesFwd l.st = true := by obtain h | h := hst <;> rw [h] <;> rfl
    exact l1Does_set hm hdst (by rw [hk]; rfl) (by rw [atL1_fwdGetM hl hk, htakes, l1FwdGetM_leaving _ _ hst hheld]; rfl)
  case getmOmA =>
    exact fun hst => l1Does_set hm hdst (by rw [hk]; rfl) (by rw [atL1_fwdGetM hl hk, l1FwdGetM_omA _ _ hst, hst]; rfl)
  case getmWaits =>
    exact fun hst => exec_l1_waits hm hdst (by rw [hk]; rfl) (by rw [atL1_fwdGetM hl hk, takesFwd_asking hst]; rfl)
  case pullWB => exact l1Does_drop hm hdst (by rw [hk]; rfl) (atL1_pullWB hl hk hst)
  case noticeStale =>
    exact fun h => l1Does_set hm hdst (by rw [hk]; rfl) (by rw [atL1_noticeAck hl hk, l1NoticeAck_stale _ _ hst h])
  case notice =>
    exact fun h => l1Does_drop hm hdst (by rw [hk]; rfl) (by rw [atL1_noticeAck hl hk, l1NoticeAck_fresh _ _ (.inl ⟨hst, h⟩)])
  case noticeIiN =>
    exact fun hst => l1Does_drop hm hdst (by rw [hk]; rfl) (by rw [atL1_noticeAck hl hk, l1NoticeAck_fresh _ _ (.inr hst)])
  case wbAck =>
    intro hst hsent
    have hleaving : l1Leaving l.st = true := by obtain h | h | h := hst <;> rw [h] <;> rfl
    exact l1Does_drop hm hdst (by rw [hk]; rfl) (by rw [atL1_wbAck hl hk, hsent, hleaving]; rfl)
  case wbAckOther => exact fun hsent => l1Does_keep hm hdst (by rw [hk]; rfl) hl (by rw [atL1_wbAck hl hk, hsent]; rfl)
  case hPush => exact l1Does_set hm hdst (by rw [hk]; rfl) (atL1_hPush hl hk)
  case hCommit => exact l1Does_set hm hdst (by rw [hk]; rfl) (atL1_hCommit hl hk)
  case retry =>
    have hreq : requestOf l.st = some x := by obtain ⟨h, rfl⟩ | ⟨h, rfl⟩ | ⟨h | h, rfl⟩ := hst <;> rw [h] <;> rfl
    exact ⟨_, exec_l1_taken hm hdst (by rw [hk]; rfl) (atL1_retry hl hk hreq), rfl, rfl, rfl⟩
  case noneInv => exact l1Does_keep hm hdst (by rw [hk]; rfl) hl (atL1_none_inv hl hk)
  case noneHPush => exact l1Does_keep hm hdst (by rw [hk]; rfl) hl (atL1_none_hPush hl hk)
  case birsp =>
    refine fun s pa agent => ⟨fun hret => ?_, fun hlive hin => ⟨fun r data acks hlast hg => ?_, fun hmore => ?_⟩⟩
    · rw [exec_birspReceive, execBirspReceive]
      exact if_pos hret
    · exact ⟨_, exec_birspReceive_last hlive hin hlast, biDone_spec hg⟩
    · exact ⟨_, exec_birspReceive_more hlive hin hmore, dirOf_setDir_self _ _ _, rfl⟩
  case snoop =>
    intro s pa inv i line hwaits hplain hset
    obtain ⟨hdir, hcopies, hsnoops, hmem⟩ := answerSnoop_plain (s := unsnooped s) (lineOf_lineOf pa) hset hplain inv
    obtain ⟨hnone, hready, rfl⟩ | ⟨hone, rfl⟩ := hwaits
    · exact ⟨_, (exec_bisnpReceive_alone hnone).trans (congrArg _ (answerSnoops_one hready)), hdir, hcopies, hsnoops, hmem⟩
    · exact ⟨_, exec_biconflictReceive_ack hone hset hplain, hdir, hcopies, hsnoops, hmem⟩
  case snoopWaits =>
    exact fun s pa inv hnone hready => ⟨_, (exec_bisnpReceive_alone hnone).trans (congrArg _ (answerSnoops_waits hready)), rfl⟩
  case conflict => exact fun s pa => by simp [execBiconflictReceive]
  case line =>
    refine fun s pa => ⟨exec_memoryLineReturn_none, fun c va hone => ?_⟩
    rw [exec_memoryLineReturn, execMemoryLineReturn, hone]
    rfl
  case retired =>
    rw [exec_externalRequest]
    unfold execExternalRequest
    exact if_pos hret
  case read =>
    intro hst
    obtain ⟨hdir, hl1, hmem⟩ := extRead_spec (agent := agent) (servable_line hok) (homeRead_shared hset hst)
    exact ⟨_, exec_extRead hlive hok hset, hmem, hl1, hdir⟩
  case readOwner =>
    refine fun l howner hl hst => ⟨fun hle hse => ?_, fun hlm => ?_⟩
    · obtain ⟨hdir, hl1, hmem⟩ := extRead_spec (agent := agent) (servable_line hok) (homeRead_clean hset howner hl hse hle)
      rw [dirOf_setDir_self] at hdir
      exact ⟨_, exec_extRead hlive hok hset, hmem, by rw [l1Of, hl1]; exact Map.find_insert_self _ _ _, hdir⟩
    · obtain ⟨hdir, hl1, hmem⟩ := extRead_spec (agent := agent) (servable_line hok) (homeRead_dirty hset howner hl hst hlm)
      rw [dirOf_setDir_self] at hdir
      exact ⟨_, exec_extRead hlive hok hset, hmem, by rw [l1Of, hl1]; exact Map.find_insert_self _ _ _, hdir⟩
  case getM =>
    obtain ⟨-, hcopies, hmem, -⟩ := recallLine_settled hset
    exact ⟨_, exec_extGetM hlive hok hset, by rw [setDir_mem, grantNote_mem, hmem], dirOf_setDir_self _ _ _,
      noCopy_of_l1 (by rw [setDir_coh, grantNote_coh]) hcopies⟩
  case write =>
    intro bs hfit
    obtain ⟨-, hcopies, hmem, -⟩ := recallLine_settled hset
    have hold : (extTaken s agent (lineOf pa)).mem = s.mem := by rw [extTaken, setDir_mem, grantNote_mem, hmem]
    refine ⟨_, exec_extWrite hlive hok hset hfit, fun a => hold ▸ extWrite_byte _ pa bs a, noCopy_of_l1 ?_ hcopies⟩
    exact (by rw [extTaken, setDir_coh, grantNote_coh] : (extTaken s agent (lineOf pa)).coh.l1 = (recallLine s (lineOf pa)).coh.l1)
  case evict => exact fun hst howner => ⟨_, exec_evict_owner hlive hst howner, dirOf_setDir_self _ _ _, rfl, rfl⟩
  case evictOther => exact fun howner => ⟨_, exec_evict_other hlive howner, dirOf_setDir_self _ _ _, rfl, rfl⟩

end Sys2Proof.Machine
end

section
/-! PROOFS. Service words, kills and words marked S (R107, R108, R184, R185, R362, R365); posts to the fault queue (R114, R115, R130). -/

namespace Sys2Proof.Machine

/-! ## Service words and kills (R362, R365) -/

/-- A word marked S, at U. -/
theorem onlyS_user {s : State} {w : Wave} (f : Frag) (k : Out) (hp : w.priv = .u) : onlyS s w f k = illegalS s w f := if_pos hp

theorem onlyS_supervisor {s : State} {w : Wave} (f : Frag) (k : Out) (hp : w.priv = .s) : onlyS s w f k = k := by
  rw [onlyS, hp, if_neg (by decide)]

/-- A trap that is never held, raised at S, is a double fault (R108). -/
theorem trapAt_supervisor {s : State} {w u : Wave} {f : Frag} {k : TrapKind} (c : Cause) (addr : DWord) (info : Nat) (hp : w.priv = .s)
    (hk : ∀ t, isHeld t k = false) (hu : putFrag w s.cur.b (some { f with wait := .none }) = u) :
    trapAt s w f k c addr info = .next (doubleFault (putWave s u) u c 1 addr.toNat) := by
  have hat : waveAt (putWave s u) w.core w.slot = some u := by
    rw [← putFrag_core w s.cur.b, ← putFrag_slot w s.cur.b, hu]; exact waveAt_putWave s u
  have hpu : u.priv = .s := by rw [← hu, putFrag_priv, hp]
  rw [trapAt, hu, raiseTrap, hat]
  simp only [hpu, if_true, hk, Bool.false_eq_true, if_false]

/-- A service word at U enters the handler, its code in TRAPINFO and the next word's address in TRAPPC (R362). -/
theorem service_taken {i : Instr} {s : State} {w : Wave} {f : Frag} {c : Ctx} {cause : Cause} {n : BitVec 8} (hU : AtUser s w f c)
    (h : exec i s = trapAt s w f .service cause 0 n.toNat) : TrapTaken i s f c cause 1 0 (n.setWidth 32) (f.pc + 4) := by
  rw [← BitVec.ofNat_toNat]
  exact trapAt_taken hU h

/-- A service word's encoding, by its function (R362). -/
theorem packS_service (n : BitVec 8) (m : BitVec 2) : packS 0x3D 0 0 (m ++ n) = 0xF4000000 + m.setWidth 32 <<< 8 + n.setWidth 32 := by
  apply BitVec.eq_of_toNat_eq
  have := n.isLt
  have := m.isLt
  rw [Laws.packS_toNat, Laws.toNat_append]
  simp [BitVec.toNat_add]
  omega

/-- Settles O15: at U the service words trap, at S what they raise cannot wait; `TKILL` is the kill of its group or grid. -/
theorem serviceAndKillWords : Obligations.ServiceAndKillWords := by
  refine ⟨fun n => ⟨?svc, ?trap, fun s w f c hU => ⟨?svcUser, ?trapUser⟩, fun s w f hI hp => ⟨?svcSup, ?trapSup⟩⟩,
    rfl, rfl, fun s w f hI hp => ⟨?group, fun g hg => ?grid⟩⟩
  case svc => exact congrArg (fun x => some (Code.word x)) (packS_service n 0)
  case trap => exact congrArg (fun x => some (Code.word x)) (packS_service n 1)
  case svcUser => exact service_taken hU (by rw [exec_svc, execSvc, onFrag_issues hU.1])
  case trapUser => exact service_taken hU (by rw [exec_trap, execTrap, onFrag_issues hU.1])
  case svcSup =>
    rw [exec_svc, execSvc, onFrag_issues hI]
    exact trapAt_supervisor .svc 0 n.toNat hp (fun _ => rfl) rfl
  case trapSup =>
    rw [exec_trap, execTrap, onFrag_issues hI]
    exact trapAt_supervisor .trap 0 n.toNat hp (fun _ => rfl) rfl
  case group => rw [exec_tkill, execTkill, onFrag_issues hI, onlyS_supervisor f _ hp]; rfl
  case grid => rw [exec_tkill, execTkill, onFrag_issues hI, onlyS_supervisor f _ hp, hg]; rfl

/-! ## Words marked S, and refused targets and lengths (R107, R184, R185) -/

section User

variable {s : State} {w : Wave} {f : Frag} {c : Ctx} (hU : AtUser s w f c)
include hU

/-- A word whose entry marks it S. -/
theorem privileged_taken {i : Instr} (k : Wave → Frag → Out) (h : exec i s = onFrag s (fun w f => onlyS s w f (k w f))) :
    TrapTaken i s f c .illegal 1 0 0 f.pc :=
  illegalS_taken hU (by rw [h, onFrag_issues hU.1, onlyS_user f _ hU.2.1])

theorem ret_misaligned_taken {a : SReg} (h : (rdP w a.toNat).toNat % 4 ≠ 0) :
    TrapTaken (.ret a) s f c .misalign 1 (rdP w a.toNat) 0 f.pc :=
  trapAt_taken (k := .scalar) (info := 0) hU (by rw [exec_ret, execRet, onFrag_issues hU.1]; exact if_pos h)

theorem ret_outside_taken {a : SReg} (h4 : (rdP w a.toNat).toNat % 4 = 0) (hout : 2 ^ 57 ≤ (rdP w a.toNat).toNat) :
    TrapTaken (.ret a) s f c .unmapped 1 (rdP w a.toNat) 0 f.pc :=
  trapAt_taken (k := .scalar) (info := 0) hU
    (by rw [exec_ret, execRet, onFrag_issues hU.1]; exact (if_neg (not_not.2 h4)).trans (if_pos hout))

theorem lrunx_refused_taken {a b : SReg}
    (h : 2 ^ 18 ≤ (rdS w a.toNat).toNat ∨ rdS w b.toNat = 0 ∨ 256 < (rdS w b.toNat).toNat) :
    TrapTaken (.lrunx a b) s f c .illegal 1 0 0 f.pc := by
  have hno : 2 ^ 18 ≤ (rdS w a.toNat).toNat ∨ (rdS w b.toNat).toNat = 0 ∨ 256 < (rdS w b.toNat).toNat := by
    simpa [← BitVec.toNat_inj] using h
  exact illegalS_taken hU (by rw [exec_lrunx, execLrunx, onFrag_issues hU.1]; exact if_pos hno)

end User

/-- Settles O16: each word marked S asks for S first; `RET` and `LRUNX` check their operands first. -/
theorem preciseTraps : Obligations.PreciseTraps := by
  intro s w f c hU d a illegal
  exact ⟨fun r => illegalS_taken hU (exec_sset_user hU.1 hU.2.1 a r), privileged_taken hU _ rfl, privileged_taken hU _ rfl,
    privileged_taken hU _ rfl, fun g => privileged_taken hU _ rfl, privileged_taken hU _ rfl, fun h => privileged_taken hU _ rfl,
    fun x y => privileged_taken hU _ rfl, fun p => privileged_taken hU _ rfl, fun p => privileged_taken hU _ rfl,
    privileged_taken hU _ rfl, privileged_taken hU _ rfl, privileged_taken hU _ rfl, privileged_taken hU _ rfl,
    ret_misaligned_taken hU, ret_outside_taken hU, lrunx_refused_taken hU⟩

/-! ## Contexts of groups over an access -/

/-- Two states with one running part give a group one context. -/
theorem ctxIdOf_of_running {s t : State} (h : running t = running s) (gid : Nat) : ctxIdOf t gid = ctxIdOf s gid := by
  have hgroups : t.groups = s.groups := by simpa [running] using congrArg State.groups h
  have hgrids : t.grids = s.grids := by simpa [running] using congrArg State.grids h
  simp only [ctxIdOf, gridOf, groupOf, hgroups, hgrids]

/-- A group's context is that before the access. -/
theorem access_ctxIdOf {s t : State} {core slot ctx va n : Nat} {priv : Priv} {k : AccKind} {claim : Bool} {r : AccRes}
    (h : access s core slot ctx priv va n k claim = (t, r)) (gid : Nat) : ctxIdOf t gid = ctxIdOf s gid :=
  ctxIdOf_of_running (by rw [← running_access s core slot ctx priv va n k claim, h]) gid

/-! ## A post to the fault queue (R114, R115, R130) -/

/-- The number of records that a fault queue holds, from its header at `hk`. -/
def fqCount (s : State) (core hk : Nat) : Nat :=
  (ofBytes (loadBytes s core hk 4) + 2 ^ 32 - ofBytes (loadBytes s core (hk + 4) 4)) % 2 ^ 32

/-- The state with the record in its slot, tail past it and the context's vector raised. -/
def fqPosted (s : State) (core hk k ctx vector r tail : Nat) : State :=
  raiseMsix (storeBytes (storeBytes s core k (toBytes 64 (putBits r 159 128 tail))) core hk (toBytes 4 (tail + 1))) ctx vector

theorem fqPosted_cur (s : State) (core hk k ctx vector r tail : Nat) : (fqPosted s core hk k ctx vector r tail).cur = s.cur := by
  simp [fqPosted]

section Post

variable {s s2 s3 : State} {w : Wave} {f : Frag} {c : Ctx} {d : SReg} {r hk : Nat}
  (hhead : access s w.core w.slot (ctxIdOf s w.gid) w.priv (BitVec.ofNat 64 c.desc.fqBase).toNat 64 .update false = (s2, .ok hk))
include hhead

theorem postFault_full (h : 2 ^ c.desc.fqOrder ≤ fqCount s2 w.core hk) : postFault s w f c d r = blocked s2 w f (.fqpost (BitVec.ofNat 512 r)) := by
  rw [postFault, sUpdate, sAccess_ok f _ hhead]
  exact if_pos h

theorem postFault_room (h : fqCount s2 w.core hk < 2 ^ c.desc.fqOrder) : let tail := ofBytes (loadBytes s2 w.core hk 4)
    ∀ k, access s2 w.core w.slot (ctxIdOf s2 w.gid) w.priv (BitVec.ofNat 64 (ringSlot c.desc.fqBase c.desc.fqOrder tail)).toNat 64 .update false
        = (s3, .ok k) →
      let t := fqPosted s3 w.core hk k (ctxIdOf s w.gid) c.desc.fqMsix r tail
      postFault s w f c d r = done t (acted t (wrS w d.toNat (BitVec.ofNat 32 tail))) f := by
  intro tail k hslot t
  rw [postFault, sUpdate, sAccess_ok f _ hhead]
  exact (if_neg (Nat.not_le.2 h)).trans (sAccess_ok f _ hslot)

end Post

/-- `QPOST` at S of an aligned record that its access reaches posts what it reads. -/
theorem exec_qpost_supervisor {s s1 : State} {w : Wave} {f : Frag} {c : Ctx} {d a : SReg} {k : Nat} (hI : Issues s w f) (hp : w.priv = .s)
    (hc : ctxOf s (ctxIdOf s w.gid) = some c) (hal : (rdP w a.toNat).toNat % 64 = 0)
    (hread : access s w.core w.slot (ctxIdOf s w.gid) w.priv (rdP w a.toNat).toNat 64 .read false = (s1, .ok k)) :
    exec (.qpost d a) s = postFault s1 w f c d (ofBytes (loadBytes s1 w.core k 64)) := by
  rw [exec_qpost, execQpost, onFrag_issues hI, onlyS_supervisor f _ hp, hc]
  exact (if_neg (not_not.2 hal)).trans (sAccess_ok f _ hread)

/-- Settles O23: the word posts what it has read, into the queue that the context's header gives. -/
theorem faultQueuePosts : Obligations.FaultQueuePosts := by
  intro s w f c hI hp hc d a s1 s2 s3 k1 hk k3 va ctx hal hread hhead tail head r
  rw [← hp] at hread hhead
  have hctx : ctxIdOf s1 w.gid = ctx := access_ctxIdOf hread w.gid
  have hctx2 : ctxIdOf s2 w.gid = ctx := (access_ctxIdOf hhead w.gid).trans hctx
  have hcur : s2.cur = s.cur := (access_cur hhead).trans (access_cur hread)
  have hpost : exec (.qpost d a) s = postFault s1 w f c d r := exec_qpost_supervisor hI hp hc hal hread
  rw [← hctx] at hhead
  refine ⟨fun hfull => ?full, fun hroom hslot => ?room⟩
  case full => rw [hpost, postFault_full hhead hfull, blocked, hcur]
  case room =>
    rw [← hctx2, ← hp] at hslot
    have hdone := hpost.trans (postFault_room hhead hroom k3 hslot)
    rw [hctx] at hdone
    exact goTo_scalarDoneAt hdone ((fqPosted_cur ..).trans ((access_cur hslot).trans hcur)) (by rw [acted, spinReset, wrS_eq])
      (fun n => rdS_wrS w d.toNat n _) (fun n => rdM_wrS w f d.toNat n _)

end Sys2Proof.Machine
end

section
/-! PROOFS. The device's events in a wave (R114, R168, R169, R172, R175, R248, R249, R356). -/

namespace Sys2Proof.Machine

/-! ## A wave changed in its place -/

/-- An event leaves the wave `v` in the slot over the state `t`; no other slot and nothing else differs from `t`. -/
def SlotBecomes (i : Instr) (s t : State) (core slot : Nat) (v : Wave) : Prop :=
  ∃ u, exec i s = .next u ∧ waveAt u core slot = some v ∧ u = { t with waves := u.waves }
    ∧ ∀ k, k ≠ 64 * core + slot → Map.find u.waves k = Map.find t.waves k

theorem slotBecomes_of_putWave {i : Instr} {s t : State} {core slot : Nat} {v : Wave} (h : exec i s = .next (putWave t v))
    (hcore : v.core = core) (hslot : v.slot = slot) : SlotBecomes i s t core slot v := by
  subst hcore hslot
  exact ⟨_, h, waveAt_putWave t v, rfl, fun _ hk => Map.find_insert_ne _ _ hk⟩

/-- A change that keeps a wave's place, and does not look at it, is seen where the wave stands. -/
theorem waveAt_modWave {s : State} {core slot : Nat} {w : Wave} {g : Wave → Wave} (hw : waveAt s core slot = some w)
    (hg : ∀ x : Wave, g { x with core := core, slot := slot } = { g x with core := core, slot := slot }) :
    waveAt (modWave s core slot g) core slot = some (g w) := by
  unfold waveAt at hw ⊢
  obtain ⟨x, hx, rfl⟩ := Option.map_eq_some_iff.1 hw
  rw [modWave_waves, Map.find_modify, if_pos rfl, hx, hg]
  rfl

theorem slotBecomes_of_modWave {i : Instr} {s : State} {core slot : Nat} {w : Wave} {g : Wave → Wave} (hw : waveAt s core slot = some w)
    (h : exec i s = .next (modWave s core slot g))
    (hg : ∀ x : Wave, g { x with core := core, slot := slot } = { g x with core := core, slot := slot }) :
    SlotBecomes i s s core slot (g w) :=
  ⟨_, h, waveAt_modWave hw hg, rfl, fun _ hk => by rw [modWave_waves, Map.find_modify, if_neg hk]⟩

/-! ## The events (R114, R168, R169, R172, R175, R248, R249, R356) -/

section Events

variable {s : State} {core slot : Nat} {w : Wave} (hw : waveAt s core slot = some w)
include hw

theorem exec_trapEntry_enters {r : TrapReq} (hr : w.trap = .entering r) (hs : w.strips = []) :
    exec (.trapEntry core slot) s = .next (enterTrap s core slot r) := by
  rw [exec_trapEntry, execTrapEntry, tryEnter, hw]
  simp [hr, hs]

theorem exec_feedVectorArrive_reads {n x : Nat} {t : State} (hn : n < 4) (hrun : (feedOf w n).run = true)
    (hroom : (feedOf w n).buf.length < 8) (hleft : (feedOf w n).buf.length < (feedOf w n).remaining.toNat)
    (hread : feedLanes s w (((feedOf w n).nextAddr + BitVec.ofInt 64 (((feedOf w n).buf.length : Int) * (feedOf w n).stride.toInt)).toNat)
      (2 ^ (feedOf w n).size.toNat) 32 0 0 = (t, .ok x)) :
    exec (.feedVectorArrive core slot n) s = .next (putWave t
      (putFeed w n { feedOf w n with buf := (feedOf w n).buf ++ [{ data := BitVec.ofNat 2048 x, fault := none }] })) := by
  rw [exec_feedVectorArrive, execFeedVectorArrive, hw]
  refine (if_neg ?_).trans ?_
  · simp [hn, hrun, hroom, hleft]
  · simp only [hread]

section Return

variable {g : Frag} (hg : w.stack.find? runnable = some g)
include hg

theorem exec_fragmentReturn_slotA (hA : w.fragA = none) :
    exec (.fragmentReturn core slot) s = .next (putWave s { w with fragA := some g, stack := w.stack.erase g, bOlder := true }) := by
  have hb : returnSlot w = some false := by simp [returnSlot, hA]
  have hf : fragOf w false = none := hA
  rw [exec_fragmentReturn, execFragmentReturn, hw]
  simp only [hg, hb, hf]
  rfl

theorem exec_fragmentReturn_slotB (hA : w.fragA ≠ none) (hB : w.fragB = none) :
    exec (.fragmentReturn core slot) s = .next (putWave s { w with fragB := some g, stack := w.stack.erase g, bOlder := false }) := by
  have hb : returnSlot w = some true := by simp [returnSlot, hA, hB]
  have hf : fragOf w true = none := hB
  rw [exec_fragmentReturn, execFragmentReturn, hw]
  simp only [hg, hb, hf]
  rfl

theorem exec_fragmentReturn_join {old x : Frag} (hA : w.fragA = some old) (hB : w.fragB = some x) (hj : old.wait = .join) :
    exec (.fragmentReturn core slot) s
      = .next (putWave s { w with fragA := some g, stack := old :: w.stack.erase g, bOlder := true }) := by
  have hb : returnSlot w = some false := by simp [returnSlot, hA, hB, hj]
  have hf : fragOf w false = some old := hA
  rw [exec_fragmentReturn, execFragmentReturn, hw]
  simp only [hg, hb, hf]
  rfl

end Return

theorem exec_backoffExpiry_ends {b : Bool} {f : Frag} {m : Word} (hf : fragOf w b = some f) (hm : f.wait = .backoff m) :
    exec (.backoffExpiry core slot b) s = .next (putWave s (putFrag w b (some { f with wait := .none }))) := by
  rw [exec_backoffExpiry, execBackoffExpiry, hw]
  simp [hf, inBackoff, hm]

theorem slotBecomes_spinDemotion (h : 64 ≤ w.spin) : SlotBecomes (.spinDemotion core slot) s s core slot { w with demoted := true } := by
  have hb := slotBecomes_of_modWave hw (exec_spinDemotion core slot s) (fun x => by dsimp only; split_ifs <;> rfl)
  rwa [if_pos h] at hb

theorem slotBecomes_issueAgePromotion : SlotBecomes (.issueAgePromotion core slot) s s core slot { w with starved := true } :=
  slotBecomes_of_modWave hw (exec_issueAgePromotion core slot s) (fun _ => rfl)

theorem slotBecomes_reread {i : Instr} {b : Bool} {f : Frag} {l : Nat} {c : Scope} (hf : fragOf w b = some f) (hsleep : f.wait = .waita l c)
    (h : exec i s = .next (reread s core slot b)) :
    SlotBecomes i s s core slot { putFrag w b (some { f with wait := .none }) with
      stack := w.stack.map rereads, shadow := { w.shadow with wait := (rereads (sleepFrag w.shadow.wait)).wait } } := by
  have hfrag : (fragOf w b).map rereads = some { f with wait := .none } := by simp [hf, rereads, hsleep]
  have hb := slotBecomes_of_modWave hw h (fun x => by cases b <;> rfl)
  dsimp only at hb
  rw [hfrag] at hb
  cases b <;> exact hb

end Events

/-! ## A parked post (R114) -/

/-- A wave whose fragment has come out of its word keeps no record. -/
theorem keepPost_putWave {t : State} {w v : Wave} {b : Bool} {f g : Frag} (hcore : v.core = w.core) (hslot : v.slot = w.slot)
    (hg : fragOf v b = some g) (hout : g.wait = .none) : keepPost w b f (putWave t v) = putWave t v := by
  have hv : Map.find (Map.insert t.waves (64 * w.core + w.slot) v) (64 * w.core + w.slot) = some v := Map.find_insert_self _ _ _
  rw [keepPost, modWave, putWave, hcore, hslot]
  simp only [Map.modify, hv, hg, hout, if_true, Map.insert_insert]

/-- The state in which an event runs the word of a parked fragment. -/
def issuing (s : State) (core slot : Nat) (b : Bool) : State := { s with cur := { core := core, slot := slot, b := b } }

/-- A parked post whose queue has room posts the record that it holds, and the word is over. -/
theorem exec_faultQueuePostResume_room {s u s2 s3 : State} {core slot : Nat} {b : Bool} {w : Wave} {f : Frag} {c : Ctx} {d a : SReg}
    {r : BitVec 512} {hk k : Nat} (hw : waveAt s core slot = some w) (hf : fragOf w b = some f) (hr : f.wait = .fqpost r)
    (hc : ctxOf s (ctxIdOf s w.gid) = some c)
    (hfetch : fetchScalar (issuing s core slot b) w f = (u, .ok (.qpost d a)))
    (hcur : u.cur = { core := core, slot := slot, b := b })
    (hhead : access u w.core w.slot (ctxIdOf u w.gid) w.priv (BitVec.ofNat 64 c.desc.fqBase).toNat 64 .update false = (s2, .ok hk))
    (hroom : fqCount s2 w.core hk < 2 ^ c.desc.fqOrder) : let tail := ofBytes (loadBytes s2 w.core hk 4)
    access s2 w.core w.slot (ctxIdOf s2 w.gid) w.priv (BitVec.ofNat 64 (ringSlot c.desc.fqBase c.desc.fqOrder tail)).toNat 64 .update false
        = (s3, .ok k) →
      ∃ v, exec (.faultQueuePostResume core slot b) s
          = .next (putWave (fqPosted s3 w.core hk k (ctxIdOf u w.gid) c.desc.fqMsix r.toNat tail) v)
        ∧ Moved b w v f f.flags (f.pc + 4) ∧ ∀ n, rdS v n = setReg w d.toNat (BitVec.ofNat 32 tail) n := by
  intro tail hslot
  have hI : Issues (issuing s core slot b) w f := ⟨hw, hf⟩
  have hctx : ctxOf (issuing s core slot b) (ctxIdOf (issuing s core slot b) w.gid) = some c := hc
  have hpost := postFault_room (f := f) (d := d) (r := r.toNat) hhead hroom k hslot
  generalize ht : fqPosted s3 w.core hk k (ctxIdOf u w.gid) c.desc.fqMsix r.toNat tail = t at hpost ⊢
  have hb : t.cur.b = b := by rw [← ht, fqPosted_cur, access_cur hslot, access_cur hhead, hcur]
  obtain ⟨v, hgo, hmoved, hregs, -⟩ := goTo_spec t w (acted t (wrS w d.toNat (BitVec.ofNat 32 tail))) f f (f.pc + 4) rfl
    (by rw [acted, spinReset, wrS_eq]; cases t.cur.b <;> rfl) (by rw [acted, spinReset, wrS_eq])
  rw [hb] at hmoved
  have hcore : v.core = w.core := by rw [hmoved.frame]
  have hslotv : v.slot = w.slot := by rw [hmoved.frame]
  refine ⟨v, ?_, hmoved, fun n => (hregs n).trans (rdS_wrS w d.toNat n _)⟩
  have hrun : postFault u w f c d r.toNat = .next (putWave t v) := hpost.trans hgo
  rw [exec_faultQueuePostResume, execFaultQueuePostResume]
  refine (onFrag_issues hI _).trans ?_
  rw [← issuing]
  simp only [hr, hfetch, hctx, hrun, keepPost_putWave hcore hslotv hmoved.frag rfl]

/-- Settles O40: each event is one change of its wave, over the state that its accesses make. -/
theorem waveEvents : Obligations.WaveEvents := by
  intro s core slot w hw becomes
  obtain ⟨hcore, hslot⟩ := waveAt_place hw
  have put {i : Instr} {t : State} {v : Wave} (hc : v.core = w.core) (hs : v.slot = w.slot) (h : exec i s = .next (putWave t v)) :
      becomes i t v := slotBecomes_of_putWave h (hc.trans hcore) (hs.trans hslot)
  refine ⟨fun r => exec_trapEntry_enters hw, fun n t x hn hrun hroom hleft hread => ?feed,
    fun g hg => ⟨fun hA => ?slotA, fun hA hB => ?slotB, fun old x hA hB hj => ?join⟩,
    fun b f m hf hm => ?backoff, slotBecomes_spinDemotion hw, slotBecomes_issueAgePromotion hw,
    fun b f l c hf hsleep => ⟨slotBecomes_reread hw hf hsleep rfl, slotBecomes_reread hw hf hsleep rfl⟩,
    fun b f r u d a c s2 s3 hk k3 hf hr hc hfetch hcur hhead hroom hread => ?post⟩
  case feed => exact put rfl rfl (exec_feedVectorArrive_reads hw hn hrun hroom hleft hread)
  case slotA => exact put rfl rfl (exec_fragmentReturn_slotA hw hg hA)
  case slotB => exact put rfl rfl (exec_fragmentReturn_slotB hw hg hA hB)
  case join => exact put rfl rfl (exec_fragmentReturn_join hw hg hA hB hj)
  case backoff => exact put (putFrag_core ..) (putFrag_slot ..) (exec_backoffExpiry_ends hw hf hm)
  case post =>
    subst hcore hslot
    exact exec_faultQueuePostResume_room hw hf hr hc hfetch hcur hhead hroom hread

end Sys2Proof.Machine
end

section
/-! PROOFS. What the coherence protocol leaves of the rest of the state, and the work of an UNBIND of the contexts' table (R111, R272 to R276,
R279, R286, R287, R321, R339). -/

namespace Sys2Proof.Machine

/-- What a fold of steps that each keep a view of the state leaves of it. -/
theorem foldl_keeps {α β : Type} (view : State → α) (l : List β) (g : State → β → State) (hg : ∀ s b, view (g s b) = view s) (s : State) :
    view (l.foldl g s) = view s := by
  induction l generalizing s with
  | nil => rfl
  | cons b rest ih => exact (ih _).trans (hg s b)

/-- The part of a state that no step of the coherence protocol writes: all but memory, the lines and messages, the frames and
translations, and the log. The contexts belong to it, which an access does write: `running` is what an access leaves. -/
def still (s : State) : State :=
  { s with mem := [], tamper := [], coh := State.reset.coh, vm := State.reset.vm, mgmt := State.reset.mgmt }

theorem ctxs_of_still {s t : State} (h : still t = still s) : t.ctxs = s.ctxs := by
  simpa [still] using congrArg State.ctxs h

/-! ## Single writes -/

@[simp] theorem still_coh (s : State) (c : Coh) : still { s with coh := c } = still s := rfl
@[simp] theorem still_setDir (s : State) (line : Nat) (d : Dir) : still (setDir s line d) = still s := rfl
@[simp] theorem still_evLog (s : State) (code agent a b : Nat) : still (evLog s code agent a b) = still s := rfl
@[simp] theorem still_sendMsg (s : State) (m : Msg) : still (sendMsg s m) = still s := rfl
@[simp] theorem still_setL1 (s : State) (core line : Nat) (l : L1Line) : still (setL1 s core line l) = still s := rfl
@[simp] theorem still_dropL1Line (s : State) (core line : Nat) : still (dropL1Line s core line) = still s := rfl
@[simp] theorem still_noCopy (s : State) (line r : Nat) : still (noCopy s line r) = still s := rfl
@[simp] theorem still_dropCopies (s : State) (line : Nat) : still (dropCopies s line) = still s := rfl
@[simp] theorem still_ackNotice (s : State) (line src : Nat) (stale : Bool) : still (ackNotice s line src stale) = still s := rfl

/-! ## The home (R272, R273, R276, R287) -/

@[simp] theorem still_grantNote (s : State) (key : Nat) : still (grantNote s key) = still s := by
  unfold grantNote; split <;> rfl

@[simp] theorem still_frameDirty (s : State) (line : Nat) : still (frameDirty s line) = still s := by
  unfold frameDirty; split
  · split <;> rfl
  · rfl

@[simp] theorem still_homePut (s : State) (line : Nat) : still (homePut s line) = still s := by
  unfold homePut; dsimp only; split
  · rfl
  · split
    · rfl
    · split <;> rfl

@[simp] theorem still_sendInvs (s : State) (line reqr : Nat) (l : List Nat) : still (sendInvs s line reqr l) = still s :=
  foldl_keeps still l (fun t c => sendMsg t (fromHome .inv line c reqr 0)) (fun _ _ => rfl) s

@[simp] theorem still_grantWrite (s : State) (line r : Nat) (data : Bool) (acks : Nat) (d : Dir) :
    still (grantWrite s line r data acks d) = still s := by
  unfold grantWrite; dsimp only; split <;> simp

@[simp] theorem still_homeTake (s : State) (m : Msg) : still (homeTake s m) = still s := by
  unfold homeTake
  dsimp only
  split
  · simp
  · split
    · simp
    · split
      all_goals
        split <;> try split_ifs
        all_goals simp

@[simp] theorem still_serveWaiting (fuel : Nat) (s : State) (line : Nat) : still (serveWaiting fuel s line) = still s := by
  induction fuel generalizing s with
  | zero => rfl
  | succ n ih =>
    unfold serveWaiting
    split
    · rfl
    · split
      · rfl
      · simp [ih]

@[simp] theorem still_serveLine (s : State) (line : Nat) : still (serveLine s line) = still s := still_serveWaiting _ s line

@[simp] theorem still_wroteBack (s : State) (line owner : Nat) (d : Dir) : still (wroteBack s line owner d) = still s := by
  simp [wroteBack]; rfl

@[simp] theorem still_ownerNotice (s : State) (line : Nat) (k : MsgK) (d : Dir) : still (ownerNotice s line k d) = still s := by
  unfold ownerNotice; split <;> simp

@[simp] theorem still_leaveBusy (s : State) (line : Nat) (d : Dir) : still (leaveBusy s line d) = still s := by
  unfold leaveBusy; split
  · simp
  · split <;> simp

@[simp] theorem still_settleSD (s : State) (line : Nat) (d : Dir) : still (settleSD s line d) = still s := by
  unfold settleSD; dsimp only; split_ifs <;> simp

@[simp] theorem still_homeNotice (s : State) (m : Msg) : still (homeNotice s m) = still s := by
  unfold homeNotice; dsimp only; split_ifs <;> simp

@[simp] theorem still_homeUnblock (s : State) (m : Msg) : still (homeUnblock s m) = still s := by
  unfold homeUnblock; dsimp only; split <;> simp

@[simp] theorem still_homeOwnAck (s : State) (m : Msg) : still (homeOwnAck s m) = still s := by
  unfold homeOwnAck; dsimp only; split_ifs <;> simp

@[simp] theorem still_homeWbData (s : State) (m : Msg) : still (homeWbData s m) = still s := by
  unfold homeWbData; dsimp only; split_ifs <;> simp

theorem still_homeRequest {s t : State} {m : Msg} (h : homeRequest s m = some t) : still t = still s := by
  unfold homeRequest at h
  split_ifs at h <;> (injection h with h; subst h; simp)

@[simp] theorem still_commitPush (s : State) (core : Nat) : still (commitPush s core) = still s :=
  foldl_keeps still _ _ still_frameDirty s

@[simp] theorem still_homeHAck (s : State) (m : Msg) : still (homeHAck s m) = still s := by
  unfold homeHAck; dsimp only; split_ifs <;> simp

theorem still_atHome {s t : State} {m : Msg} (h : atHome s m = some t) : still t = still s := by
  unfold atHome at h
  split at h
  case h_1 | h_2 | h_3 => exact still_homeRequest h
  all_goals (injection h with h; subst h; simp)

/-! ## The L1s (R274 to R276, R429) -/

@[simp] theorem still_evictL1 (s : State) (core line : Nat) (l : L1Line) : still (evictL1 s core line l) = still s := by
  unfold evictL1; split
  · rfl
  · dsimp only; split <;> simp

@[simp] theorem still_fillL1 (ev : Bool) (s : State) (core line : Nat) (l : L1Line) (st : L1St) :
    still (fillL1 ev s core line l st) = still s := by
  unfold fillL1; dsimp only; split <;> simp

@[simp] theorem still_checkAcks (ev : Bool) (s : State) (core line : Nat) (l : L1Line) :
    still (checkAcks ev s core line l) = still s := by
  unfold checkAcks; split <;> simp

@[simp] theorem still_l1Grant (ev : Bool) (s : State) (m : Msg) (l : L1Line) : still (l1Grant ev s m l) = still s := by
  unfold l1Grant; split <;> simp

@[simp] theorem still_l1FwdGetS (s : State) (m : Msg) (l : L1Line) : still (l1FwdGetS s m l) = still s := rfl

@[simp] theorem still_l1FwdGetM (s : State) (m : Msg) (l : L1Line) : still (l1FwdGetM s m l) = still s := by
  unfold l1FwdGetM; dsimp only; split <;> try split_ifs
  all_goals simp

@[simp] theorem still_l1NoticeAck (s : State) (m : Msg) (l : L1Line) : still (l1NoticeAck s m l) = still s := by
  unfold l1NoticeAck; split_ifs <;> simp

theorem still_atL1 {ev : Bool} {s t : State} {m : Msg} (h : atL1 ev s m = some t) : still t = still s := by
  unfold atL1 at h
  dsimp only at h
  split at h
  · split at h <;> (injection h with h; subst h; simp)
  · split at h
    case h_6 =>
      split at h <;> try split_ifs at h
      all_goals (cases h; try simp)
    case h_14 => injection h with h; subst h; split <;> simp
    all_goals (try split_ifs at h) <;> (cases h; try split_ifs) <;> simp

/-! ## Delivery, settling and recalls (R272, R279) -/

@[simp] theorem still_dropMsg (s : State) (id : Nat) : still (dropMsg s id) = still s := by
  unfold dropMsg; dsimp only; split_ifs <;> simp

theorem still_deliver {ev : Bool} {s t : State} {k : Nat} (h : deliver ev s k = some t) : still t = still s := by
  unfold deliver at h
  dsimp only at h
  split at h
  · cases h
  · split_ifs at h
    · injection h with h; subst h; simp
    · exact (still_atHome h).trans (still_coh s _)
    · exact (still_atL1 h).trans (still_coh s _)

@[simp] theorem still_quiesce (fuel : Nat) (s : State) (line : Nat) : still (quiesce fuel s line) = still s := by
  induction fuel generalizing s with
  | zero => rfl
  | succ n ih =>
    unfold quiesce
    dsimp only
    split
    · rfl
    · rename_i t ht
      obtain ⟨k, -, hk⟩ := List.exists_of_findSome?_eq_some ht
      split_ifs at hk
      exact (ih t).trans (still_deliver hk)

@[simp] theorem still_settleLine (s : State) (line : Nat) : still (settleLine s line) = still s := by
  unfold settleLine; split_ifs <;> simp

@[simp] theorem still_recallLine (s : State) (line : Nat) : still (recallLine s line) = still s := by
  unfold recallLine; dsimp only; split_ifs <;> simp

theorem recallLine_ctxs (s : State) (line : Nat) : (recallLine s line).ctxs = s.ctxs := ctxs_of_still (still_recallLine s line)

/-! ## An UNBIND's work (R111, R339) -/

theorem putNum_ctxs (s : State) (key n x : Nat) : (putNum s key n x).ctxs = s.ctxs := by
  have h : still (if 2 ^ 64 ≤ key then s else homeWrite s (lineOf key)) = still s := by split_ifs <;> simp [homeWrite]
  exact ctxs_of_still h

theorem accFault_ctxs (s : State) (k : Nat) (c : Cause) : (accFault s k c).ctxs = s.ctxs := by
  unfold accFault accWriteSt; split <;> simp [putNum_ctxs]

theorem postRecord_ctxs {s t : State} {gid wv q : Nat} {r : BitVec 256} (h : postRecord s gid wv q r = some t) : t.ctxs = s.ctxs := by
  unfold postRecord at h
  split at h
  · split_ifs at h; cases h; rfl
  · dsimp only at h; split_ifs at h; cases h; rfl

theorem unpinAll_ctxs (s : State) (pages : List Nat) : (unpinAll s pages).ctxs = s.ctxs :=
  foldl_keeps State.ctxs pages unpinPage (fun _ _ => by unfold unpinPage; split <;> rfl) s

theorem releaseOp_ctxs (s : State) (core slot : Nat) : (releaseOp s core slot).ctxs = s.ctxs := by
  unfold releaseOp; split
  · rfl
  · simp [unpinAll_ctxs]

theorem finishOp_ctxs (s : State) (core slot status cause va : Nat) : (finishOp s core slot status cause va).ctxs = s.ctxs := by
  unfold finishOp; split
  · rfl
  · dsimp only; split
    next hpost => rw [releaseOp_ctxs, postRecord_ctxs hpost]
    next => rfl

theorem accStow_ctxs (s : State) (k : Nat) : (accStow s k).ctxs = s.ctxs := by
  unfold accStow; split
  · rfl
  · split_ifs
    · rfl
    · rfl
    · rw [accBreak, accFault_ctxs]
      exact foldl_keeps State.ctxs _ _ (fun _ _ => finishOp_ctxs ..) s

theorem takeBack_ctxs (s : State) (line : Nat) : (takeBack s line).ctxs = s.ctxs := by
  refine ctxs_of_still ?_
  unfold takeBack pullHalo
  dsimp only
  split_ifs
  · unfold collectHalo dropL1
    dsimp only
    split_ifs
    · rfl
    · exact still_frameDirty s line
  · simp

end Sys2Proof.Machine
end

section
/-! PROOFS. The context operations (R110 to R112, R120). -/

namespace Sys2Proof.Machine

/-! ## A CTXOP packet at the head (R111, R112, R120) -/

/-- What a CTXOP of each operation does. -/
def ctxMove (op : Nat) (s : State) (q n : Nat) : PktMove :=
  match op with
  | 1 => ctxCreate s q n
  | 2 => ctxBind s q n
  | 3 => ctxUnbind s q n
  | 4 => ctxUpdate s q n
  | 5 => ctxQuarantine s q n
  | _ => ctxDestroy s q n

/-- The packet of an admin queue is a CTXOP of the operation `op` with its descriptor's address as R120 asks; neither its fence nor a change
in progress holds it (R112, R119). -/
structure CtxPacket (s : State) (q n op : Nat) : Prop where
  kind : bits n 7 0 = 6
  admin : (queueOf s q).admin = true
  isOp : bits n 71 64 = op
  known : 1 ≤ op ∧ op ≤ 6
  desc : (if op = 1 ∨ op = 4 then bits n 184 128 % 256 else bits n 184 128) = 0
  unfenced : bit n 8 = false ∨ (queueOf s q).started = []
  idle : ctxBusy s (bits n 83 72) = false

section Ctxop

variable {s : State} {q n op : Nat}

theorem startCtxop_move (hP : CtxPacket s q n op) : startCtxop s q n = ctxMove op s q n := by
  obtain ⟨-, hadmin, rfl, ⟨hlo, hhi⟩, hdesc, hfree, hbusy⟩ := hP
  have hknown : ((queueOf s q).admin && decide (1 ≤ bits n 71 64) && decide (bits n 71 64 ≤ 6)) = true := by simp [hadmin, hlo, hhi]
  have hplace : (if bits n 71 64 = 1 ∨ bits n 71 64 = 4 then bits n 184 128 % 256 == 0 else bits n 184 128 == 0) = true := by
    split_ifs at hdesc ⊢ <;> simpa using hdesc
  rw [startCtxop, pktCheck_bind hknown, pktCheck_bind hplace, if_neg (by simp [fenced_eq_false hfree, hbusy])]
  rfl

/-- The operation's own event, the start of a packet that its fence held back, and a BIND's retry all make the operation's move. -/
theorem exec_ctxop_move {i : Instr} (hH : AtHead s q n) (hP : CtxPacket s q n op)
    (hi : exec i s = onCtxop s q op ∨ (i = .packetDeferredStart q ∧ (queueOf s q).started = [] ∧ bit n 8 = true)
      ∨ op = 2 ∧ i = .bindRetry q ∧ (freeResident s).isSome = true) :
    exec i s = .next (settleMove s q (ctxMove op s q n)) := by
  rw [← startCtxop_move hP]
  obtain hi | ⟨rfl, hnone, h8⟩ | ⟨rfl, rfl, hsome⟩ := hi
  · rw [hi, onCtxop, onPacket_atHead hH, if_pos ⟨hP.kind, .inl hP.isOp⟩]
  · rw [exec_packetDeferredStart, execPacketDeferredStart, onPacket_atHead hH]
    simp [nonePending, hnone, hP.kind, h8]
  · rw [exec_bindRetry, execBindRetry, if_pos hsome, onPacket_atHead hH, if_pos ⟨hP.kind, hP.isOp⟩]

/-- A CTXOP whose context is in a state that does not permit it ends its queue. -/
theorem ctxop_refuses {i : Instr} (h : exec i s = .next (ctxopRefused s q)) :
    QueueBecomes i s q { queueOf s q with st := .error, err := 7, errIdx := (queueOf s q).head } :=
  queueBecomes_of_put h

end Ctxop

/-! ## The moves (R110, R111) -/

theorem ctxOf_modCtx (s : State) (id : Nat) (f : Ctx → Ctx) : ctxOf (modCtx s id f) id = (ctxOf s id).map f := by
  rw [ctxOf, modCtx_ctxs, Map.find_modify, if_pos rfl, ← ctxOf]

section Moves

variable {s : State} {q n : Nat}

theorem ctxCreate_passes {d : CtxDesc} (hid : bits n 83 72 ≠ 0) (hnone : ctxOf s (bits n 83 72) = none)
    (hd : readCtxDesc s (queueOf s q).ctxId (bits n 184 128) (bits n 83 72) = .ok d) :
    ctxCreate s q n = .ok (some (passPkt (createCtx s (bits n 83 72) d) q n)) := by
  rw [ctxCreate, pktCheck_bind (by simp [hid, hnone]), pktRead_bind hd]

variable {c : Ctx} (hc : ctxOf s (bits n 83 72) = some c)
include hc

theorem ctxBind_off (hst : c.st = .created ∨ c.st = .switched) :
    ctxBind s q n = .ok ((freeResident s).map (fun k =>
      passPkt { s with ctxs := Map.insert s.ctxs (bits n 83 72) { c with st := .bound, slot := some k } } q n)) := by
  cases hk : freeResident s <;> obtain hst | hst := hst <;> simp [ctxBind, ctxSt, hc, hst, bindCtx, hk]

theorem ctxBind_on (hst : c.st = .bound ∨ c.st = .running) : ctxBind s q n = .ok (some (passPkt s q n)) := by
  obtain hst | hst := hst <;> simp [ctxBind, ctxSt, hc, hst]

theorem ctxBind_quarantined (hst : c.st = .quarantined) : ctxBind s q n = .ok (some (ctxopRefused s q)) := by
  simp [ctxBind, ctxSt, hc, hst]

theorem ctxUnbind_on (hst : c.st = .bound ∨ c.st = .running) : ctxUnbind s q n
    = .ok (some (startPkt (modCtx s (bits n 83 72) (fun c => { c with unbinding := true })) q n none (some (bits n 83 72)))) := by
  obtain hst | hst := hst <;> simp [ctxUnbind, ctxSt, hc, hst]

theorem ctxUnbind_off (hst : c.st = .created ∨ c.st = .switched) : ctxUnbind s q n = .ok (some (passPkt s q n)) := by
  obtain hst | hst := hst <;> simp [ctxUnbind, ctxSt, hc, hst]

theorem ctxUnbind_quarantined (hst : c.st = .quarantined) : ctxUnbind s q n = .ok (some (ctxopRefused s q)) := by
  simp [ctxUnbind, ctxSt, hc, hst]

theorem ctxUpdate_off {d : CtxDesc} (hst : c.st = .created ∨ c.st = .switched)
    (hd : readCtxDesc s (queueOf s q).ctxId (bits n 184 128) (bits n 83 72) = .ok d) (hfit : slidesWithin s (bits n 83 72) d.saveBlocks = true) :
    ctxUpdate s q n = .ok (some (passPkt (modCtx s (bits n 83 72) (fun c => { c with desc := d })) q n)) := by
  obtain hst | hst := hst <;>
    · simp only [ctxUpdate, ctxSt, hc, hst, Option.map_some]
      rw [pktRead_bind hd, pktCheck_bind hfit]

theorem ctxUpdate_refused (hst : c.st = .bound ∨ c.st = .running ∨ c.st = .quarantined) : ctxUpdate s q n = .ok (some (ctxopRefused s q)) := by
  obtain hst | hst | hst := hst <;> simp [ctxUpdate, ctxSt, hc, hst]

theorem ctxDestroy_frees : ∃ t, ctxDestroy s q n = .ok (some (passPkt t q n)) ∧ ctxOf t (bits n 83 72) = none := by
  have hgone : ∀ u, ctxOf (destroyCtx u (bits n 83 72)) (bits n 83 72) = none := fun u => Map.find_erase_self _ _
  by_cases hst : c.st = .running
  · exact ⟨_, by simp only [ctxDestroy, ctxSt, hc, hst, Option.map_some], hgone (quarantine s (bits n 83 72) 0)⟩
  · refine ⟨_, ?_, hgone s⟩
    simp only [ctxDestroy, ctxSt, hc, Option.map_some]
    split <;> simp_all

end Moves

theorem ctxDestroy_none {s : State} {q n : Nat} (h : ctxOf s (bits n 83 72) = none) : ctxDestroy s q n = .ok (some (passPkt s q n)) := by
  simp [ctxDestroy, ctxSt, h]

/-! ## The end of an UNBIND (R111, R112) -/

theorem queueIdle_frame (s : State) (q : Nat) : ∃ l, queueIdle s q = { s with queues := l } := by
  obtain h | ⟨-, h⟩ := queueIdle_cases s q <;> exact ⟨_, h⟩

/-- A packet's completion writes its queue and the vectors raised. -/
theorem completePkt_frame (s : State) (q : Nat) (idx : Word) : ∃ l m, completePkt s q idx = { s with queues := l, msix := m } := by
  unfold completePkt
  dsimp only
  split_ifs
  · obtain ⟨l, h⟩ := queueIdle_frame (raiseMsix _ _ _) q
    exact ⟨_, _, h⟩
  · obtain ⟨l, h⟩ := queueIdle_frame (putQueue s q _) q
    exact ⟨_, _, h⟩

theorem completeUnbind_frame (s : State) (ctx : Nat) : ∃ l m, completeUnbind s ctx = { s with queues := l, msix := m } := by
  unfold completeUnbind
  generalize s.queues = es
  induction es generalizing s with
  | nil => exact ⟨_, _, rfl⟩
  | cons e rest ih =>
    rw [List.foldl_cons]
    split
    next p _ =>
      obtain ⟨l, m, h⟩ := completePkt_frame s e.1 p.idx
      obtain ⟨l', m', h'⟩ := ih (completePkt s e.1 p.idx)
      exact ⟨l', m', by rw [h', h]⟩
    next => exact ih s

theorem completeUnbind_ctxs (s : State) (ctx : Nat) : (completeUnbind s ctx).ctxs = s.ctxs := by
  obtain ⟨l, m, h⟩ := completeUnbind_frame s ctx
  rw [h]

theorem completeUnbind_vm (s : State) (ctx : Nat) : (completeUnbind s ctx).vm = s.vm := by
  obtain ⟨l, m, h⟩ := completeUnbind_frame s ctx
  rw [h]

/-- The state in which a context's queues are saved, and its accumulators and lines written back. -/
def written (s : State) (ctx : Nat) : State :=
  let t := (ctxActive s ctx).foldl preemptQueue s
  dropCtxLines ((t.accs.filter (fun e => e.2.ctx == ctx)).foldl (fun u e => accStow u e.1) t) ctx

/-- A context off the device: without a slot. -/
def switched (c : Ctx) : Ctx := { c with st := .switched, slot := none, unbinding := false }

theorem unbindCtx_eq (s : State) (ctx : Nat) : unbindCtx s ctx = modCtx (dropTlb (written s ctx) ctx) ctx switched := rfl

/-- With no queue to pre-empt, the contexts are as they were until the last step. -/
theorem written_ctxs {s : State} {ctx : Nat} (h : ctxActive s ctx = []) : (written s ctx).ctxs = s.ctxs := by
  rw [written, h, dropCtxLines, foldl_keeps State.ctxs _ _ takeBack_ctxs, foldl_keeps State.ctxs _ _ (fun _ _ => accStow_ctxs ..)]
  rfl

theorem ctxOf_unbindCtx (s : State) (ctx : Nat) : ctxOf (unbindCtx s ctx) ctx = (ctxOf (written s ctx) ctx).map switched := by
  rw [unbindCtx_eq, ctxOf_modCtx, ctxOf, dropTlb_ctxs, ← ctxOf]

/-- No translation of the context is held. -/
theorem unbindCtx_translations (s : State) (ctx : Nat) :
    (∀ e ∈ (unbindCtx s ctx).vm.tlb ++ (unbindCtx s ctx).vm.tlb2, e.ctx ≠ ctx) ∧ ∀ e ∈ (unbindCtx s ctx).vm.walks, e.ctx ≠ ctx := by
  rw [unbindCtx_eq, modCtx_vm, dropTlb_vm]
  simp only [← List.filter_append, List.mem_filter, bne_iff_ne]
  exact ⟨fun e he => he.2, fun e he => he.2⟩

theorem exec_unbindComplete_saved {s : State} {ctx : Nat} (hbusy : ctxBusy s ctx = true) (hsave : (ctxActive s ctx).all (canSave s) = true)
    (hlines : ∀ line ∈ ctxLines s ctx, lineWaits s line = false) :
    exec (.unbindComplete ctx) s = .next (completeUnbind (unbindCtx s ctx) ctx) := by
  have hall : ((ctxActive s ctx).all (canSave s) && (ctxLines s ctx).all (fun line => !lineWaits s line)) = true := by
    rw [hsave, Bool.true_and, List.all_eq_true]
    intro line hline
    simp [hlines line hline]
  rw [exec_unbindComplete, execUnbindComplete, if_pos hbusy, if_pos hall]

/-- Settles O45: each packet by the move that its context's state gives; the end of an UNBIND by what its last step writes. -/
theorem contextOperations : Obligations.ContextOperations := by
  refine ⟨fun s q n hH hty hadmin hfree hbusy => ?packet, fun s ctx hbusy hsave hlines => ?done⟩
  case packet =>
    have move {op : Nat} {i : Instr} (hop : bits n 71 64 = op) (hknown : 1 ≤ op ∧ op ≤ 6)
        (hva : (if op = 1 ∨ op = 4 then bits n 184 128 % 256 else bits n 184 128) = 0) :=
      exec_ctxop_move (i := i) hH ⟨hty, hadmin, hop, hknown, hva, hfree, hbusy⟩
    refine ⟨fun d i hop hva hid hnone hd hi => ?create, fun c i hop hva hc hi => ?bind, fun c i hop hva hc hi => ?unbind,
      fun c i hop hva hc hi => ?update, fun i hop hva hi => ?quarantine, fun i hop hva hi => ?destroy⟩
    case create =>
      have h := move hop (by decide) hva (hi.imp (congrArg (exec · s)) .inl)
      rw [ctxMove, ctxCreate_passes hid hnone hd] at h
      exact ⟨_, passes_of_passPkt h, rfl, Map.find_insert_self _ _ _, fun k hk => Map.find_insert_ne _ _ hk⟩
    case bind =>
      have h := move hop (by decide) hva (hi.imp (congrArg (exec · s)) (.imp_right fun hr => ⟨rfl, hr⟩))
      rw [ctxMove] at h
      refine ⟨fun hst k hk => ?_, fun hst hk => ?_, fun hst => ?_, fun hst => ?_⟩
      · rw [ctxBind_off hc hst, hk] at h
        exact ⟨_, passes_of_passPkt h, rfl, Map.find_insert_self _ _ _, fun m hm => Map.find_insert_ne _ _ hm⟩
      · rwa [ctxBind_off hc hst, hk] at h
      · rw [ctxBind_on hc hst] at h
        exact passes_of_passPkt h
      · rw [ctxBind_quarantined hc hst] at h
        exact ctxop_refuses h
    case unbind =>
      have h := move hop (by decide) hva (hi.imp (congrArg (exec · s)) .inl)
      rw [ctxMove] at h
      refine ⟨fun hst => ?_, fun hst => ?_, fun hst => ?_⟩
      · rw [ctxUnbind_on hc hst] at h
        exact ⟨_, h, (ctxOf_modCtx s _ _).trans (by rw [hc]; rfl), queueOf_putQueue_self _ _ _, rfl⟩
      · rw [ctxUnbind_off hc hst] at h
        exact passes_of_passPkt h
      · rw [ctxUnbind_quarantined hc hst] at h
        exact ctxop_refuses h
    case update =>
      have h := move hop (by decide) hva (hi.imp (congrArg (exec · s)) .inl)
      rw [ctxMove] at h
      refine ⟨fun hst d hd hfit => ?_, fun hst => ?_⟩
      · rw [ctxUpdate_off hc hst hd hfit] at h
        exact ⟨_, passes_of_passPkt h, rfl, by rw [ctxOf_modCtx, hc]; rfl⟩
      · rw [ctxUpdate_refused hc hst] at h
        exact ctxop_refuses h
    case quarantine => exact passes_of_passPkt (move hop (by decide) hva (hi.imp (congrArg (exec · s)) .inl))
    case destroy =>
      have h : exec i s = .next (settleMove s q (ctxDestroy s q n)) := move hop (by decide) hva (hi.imp (congrArg (exec · s)) .inl)
      refine ⟨fun hnone => ?_, fun c hc => ?_⟩
      · rw [ctxDestroy_none hnone] at h
        exact passes_of_passPkt h
      · obtain ⟨t, ht, hgone⟩ := ctxDestroy_frees (q := q) hc
        rw [ht] at h
        exact ⟨t, passes_of_passPkt h, hgone⟩
  case done =>
    have hctx : ctxOf (completeUnbind (unbindCtx s ctx) ctx) ctx = (ctxOf (written s ctx) ctx).map switched := by
      rw [ctxOf, completeUnbind_ctxs, ← ctxOf, ctxOf_unbindCtx]
    refine ⟨_, exec_unbindComplete_saved hbusy hsave hlines, fun c hc => ?_, fun hnone c hc => ?_, ?_⟩
    · rw [hctx] at hc
      obtain ⟨x, -, rfl⟩ := Option.map_eq_some_iff.1 hc
      exact ⟨rfl, rfl, rfl⟩
    · rw [hctx, ctxOf, written_ctxs hnone, ← ctxOf, hc]
      rfl
    · rw [completeUnbind_vm]
      exact unbindCtx_translations s ctx

end Sys2Proof.Machine
end

section
/-! PROOFS. Watched addresses (R129, R247). -/

namespace Sys2Proof.Machine

/-! ## The tables of an access, and maps over a table -/

/-- A table whose every value is changed reads the changed value. -/
theorem Map.find_mapVals {α : Type} (m : Map α) (g : Nat → α → α) (k : Nat) :
    Map.find (Map.mapVals m g) k = (Map.find m k).map (g k) := by
  induction m with
  | nil => rfl
  | cons e rest ih =>
    obtain ⟨k', v⟩ := e
    by_cases hk : k' = k
    · subst hk; simp [Map.mapVals, Map.find]
    · simpa [Map.mapVals, Map.find, hk] using ih

/-- An access leaves the waves as they were. -/
theorem access_waves {s t : State} {core slot ctx va n : Nat} {priv : Priv} {k : AccKind} {claim : Bool} {r : AccRes}
    (h : access s core slot ctx priv va n k claim = (t, r)) : t.waves = s.waves := by
  have hr := running_access s core slot ctx priv va n k claim
  rw [h] at hr
  simpa [running] using congrArg State.waves hr

/-! ## WAITA (R129, R247) -/

/-- The fragment that a `WAITA` returns in (R129). -/
def returned (g : Frag) : Frag := { g with flags := if g.handler then Flags.zero else g.flags, pc := g.pc + 4, wait := .none }

theorem waitaFlags_returns (g : Frag) : { waitaFlags g false with pc := g.pc + 4, wait := .none } = returned g := by
  unfold waitaFlags returned; split <;> rfl

section Watched

variable {s t : State} {w : Wave} {f : Frag} {key : Nat} (hI : Issues s w f) (d : SReg) {a : SReg} (sc : Scope)
  (hal : (rdP w a.toNat).toNat % 4 = 0)
  (hacc : access s w.core w.slot (ctxIdOf s w.gid) w.priv (rdP w a.toNat).toNat 4 .read false = (t, .ok key))
include hI hal hacc

theorem exec_waita_reads : exec (.waita d a sc) s =
    if BitVec.ofNat 32 (ofBytes (loadBytes t w.core key 4)) ≠ rdS w d.toNat then done t w (waitaFlags f false)
    else blocked t w f (.waita (lineOf key) sc) := by
  rw [exec_waita, execWaita, onFrag_issues hI]
  exact (if_neg (not_not.2 hal)).trans (sAccess_ok f _ hacc)

theorem waita_returns (hne : BitVec.ofNat 32 (ofBytes (loadBytes t w.core key 4)) ≠ rdS w d.toNat) :
    ScalarDoneAt (.waita d a sc) s t w f (rdS w) (rdM w f) (returned f).flags (f.pc + 4) := by
  have hflags : (waitaFlags f false).flags = (returned f).flags := (congrArg Frag.flags (waitaFlags_returns f) :)
  have hfrag : waitaFlags f false = { f with flags := (waitaFlags f false).flags } := by unfold waitaFlags; split <;> rfl
  have hpc : (waitaFlags f false).pc = f.pc := by rw [hfrag]
  obtain ⟨v, hv, hmoved, hregs, hmasks⟩ := goTo_spec t w w f (waitaFlags f false) (f.pc + 4) hfrag rfl rfl
  rw [access_cur hacc, hflags] at hmoved
  refine ⟨v, ?_, hmoved, hregs, hmasks⟩
  rw [exec_waita_reads hI d sc hal hacc, if_pos hne, done, hpc, hv]

theorem waita_sleeps (heq : BitVec.ofNat 32 (ofBytes (loadBytes t w.core key 4)) = rdS w d.toNat) :
    exec (.waita d a sc) s = .next (putWave t (putFrag w s.cur.b (some { f with wait := .waita (lineOf key) sc }))) := by
  rw [exec_waita_reads hI d sc hal hacc, if_neg (not_not.2 heq), blocked, access_cur hacc]

/-! ## WAKE (R247) -/

theorem exec_wake_rouses : exec (.wake a sc) s =
    doneWith (mapWaves t (fun v => roused t (rouses (lineOf key) sc w v) v)) (fun v _ => v) := by
  rw [exec_wake, execWake, onFrag_issues hI]
  exact (if_neg (not_not.2 hal)).trans (sAccess_ok f _ hacc)

end Watched

/-- A word that goes on over the issuing wave leaves every other slot as its effect made it. -/
theorem doneWith_others {s : State} (g : Wave → Frag → Wave) (hg : ∀ w f, (g w f).core = w.core ∧ (g w f).slot = w.slot) :
    ∃ u, doneWith s g = .next u ∧ ∀ k, k ≠ 64 * s.cur.core + s.cur.slot → Map.find u.waves k = Map.find s.waves k := by
  unfold doneWith onFrag
  split
  · exact ⟨s, rfl, fun _ _ => rfl⟩
  next w hw =>
    obtain ⟨hcore, hslot⟩ := waveAt_place hw
    split
    · exact ⟨s, rfl, fun _ _ => rfl⟩
    next f _ =>
      obtain ⟨gcore, gslot⟩ := hg w f
      refine ⟨_, rfl, fun k hk => ?_⟩
      have hput : k ≠ 64 * (putFrag (g w f) s.cur.b (some { f with pc := f.pc + 4, wait := .none })).core
          + (putFrag (g w f) s.cur.b (some { f with pc := f.pc + 4, wait := .none })).slot := by
        rwa [putFrag_core, putFrag_slot, gcore, gslot, hcore, hslot]
      rcases settleWave_eq s (putFrag (g w f) s.cur.b (some { f with pc := f.pc + 4, wait := .none })) s.cur.b with h | h
      · rw [h]; exact Map.find_insert_ne _ _ hput
      · rw [h]; exact Map.find_insert_ne _ _ hput

/-- What a wake-up makes of a slot's fragment: it returns from the sleep that is hit, and stays out of any other. -/
theorem fragOf_roused (s : State) (hit : Wait → Bool) (v : Wave) (b : Bool) {g : Frag} (hg : fragOf v b = some g) :
    fragOf (roused s hit v) b = some (if hit g.wait then returned g else g) := by
  have hmem : g ∈ liveFrags v := by cases b <;> simp_all [liveFrags, slotFrags, fragOf]
  unfold roused
  split
  · have hmap (F : Frag → Frag) : fragOf (mapFrags v F) b = some (F g) := by
      cases b <;> simp_all [mapFrags, fragOf]
    rw [← waitaFlags_returns]
    exact hmap _
  next hnone =>
    have hmiss : hit g.wait = false := by
      simp only [Bool.or_eq_true, List.any_eq_true, not_or, not_exists, not_and] at hnone
      simpa using hnone.1 g hmem
    rw [hg, hmiss]; rfl

/-- Settles O21: `WAITA` compares the word that its access reads; `WAKE` changes each wave by itself, and only sleepers of the line. -/
theorem watchedAddresses : Obligations.WatchedAddresses := by
  intro s w f hI d a sc t key va hal hacc returned'
  refine ⟨waita_returns hI d sc hal hacc, waita_sleeps hI d sc hal hacc, ?_⟩
  obtain ⟨hcore, hslot⟩ := issues_place hI
  obtain ⟨u, hu, hkeep⟩ := doneWith_others (s := mapWaves t (fun v => roused t (rouses (lineOf key) sc w v) v)) (fun v _ => v)
    (fun _ _ => ⟨rfl, rfl⟩)
  refine ⟨u, (exec_wake_rouses hI sc hal hacc).trans hu, fun k v b g hv hk hg => ?_⟩
  rw [mapWaves_cur, access_cur hacc, ← hcore, ← hslot] at hkeep
  refine ⟨roused t (rouses (lineOf key) sc w v) v, _, ?_, fragOf_roused t _ v b hg, fun c hc hw hv => ?_, fun hne => ?_⟩
  · rw [hkeep k hk, mapWaves_waves, Map.find_mapVals, access_waves hacc, hv]; rfl
  · rw [hc, rouses, hw, hv]; simp; rfl
  · refine if_neg ?_
    unfold rouses
    split
    next l c hl =>
      have : l ≠ lineOf key := fun h => hne c (h ▸ hl)
      simp [this]
    · simp

end Sys2Proof.Machine
end

section
/-! PROOFS. Timeouts, answered accesses, replays and remote arrivals (R128, R129, R190, R244, R246, R257). -/

namespace Sys2Proof.Machine

/-! ## The fabric timeout of a `WAITA` (R129) -/

section Timeout

variable {s : State} {core slot : Nat} {w : Wave} {b : Bool} {f : Frag} {c : Ctx} (hw : waveAt s core slot = some w)
  (hf : fragOf w b = some f) (hsleep : fabSleeps f = true) (hc : ctxOf s (ctxIdOf s w.gid) = some c) (ht : c.desc.fabTimeout ≠ 0)
  (hstack : w.stack.any fabSleeps = false)
include hw hf hsleep hc ht hstack

theorem exec_waitaFabTimeout_late : exec (.waitaFabTimeout core slot b) s =
    if f.handler then .next (putWave s (spinReset s (putFrag w b (some (sleptOut f)))))
    else .next (raiseTrap (putWave s w) core slot (timeoutReq 1 f b)) := by
  rw [exec_waitaFabTimeout, execWaitaFabTimeout, hw]
  simp [hc, ht, hstack, hf, hsleep]

theorem waitaFabTimeout_handler (hh : f.handler = true) :
    ∃ v, exec (.waitaFabTimeout core slot b) s = .next (putWave s v)
      ∧ fragOf v b = some { f with pc := f.pc + 4, flags := { z := false, n := false, c := true, v := false }, wait := .none }
      ∧ v = { w with fragA := v.fragA, fragB := v.fragB, spin := v.spin, demoted := v.demoted, age := v.age } := by
  have hout : sleptOut f = { f with pc := f.pc + 4, flags := { z := false, n := false, c := true, v := false }, wait := .none } := by
    simp [sleptOut, waitaFlags, hh, Flags.zero]
  refine ⟨_, (exec_waitaFabTimeout_late hw hf hsleep hc ht hstack).trans (if_pos hh), ?_, ?_⟩
  · rw [← hout]; exact fragOf_putFrag w b (some (sleptOut f))
  · rw [putFrag_eq]; rfl

theorem waitaFabTimeout_traps (hh : f.handler = false) (hp : w.priv = .u) (htrap : w.trap = .none) (hs : w.strips = []) :
    ∃ t v g, exec (.waitaFabTimeout core slot b) s = .next t ∧ waveAt t core slot = some v ∧ fragOf v b = some g
      ∧ v.priv = .s ∧ v.treg.cause = BitVec.ofNat 32 (causeCode .watchdog + 64) ∧ v.treg.info = 1 ∧ v.treg.pc = f.pc
      ∧ g.handler = true ∧ g.pc = BitVec.ofNat 64 c.desc.trapVector := by
  obtain ⟨rfl, rfl⟩ := waveAt_place hw
  have henters := raiseTrap_enters (r := timeoutReq 1 f b) (waveAt_putWave s w) hp (.inl htrap) hs
  obtain ⟨t, henter⟩ := enterTrap_spec (r := timeoutReq 1 f b) (c := c) (waveAt_putWave (putWave s w) { w with trap := .entering (timeoutReq 1 f b) }) hf hc
  obtain ⟨hcore, hslot, hpriv, htreg, hg⟩ := handlerWave_spec c.desc { w with trap := .entering (timeoutReq 1 f b) } (timeoutReq 1 f b) b f
  refine ⟨_, _, _, (exec_waitaFabTimeout_late hw hf hsleep hc ht hstack).trans ((if_neg (by simp [hh])).trans
    (congrArg Host.Outcome.next (henters.trans henter))), ?_, hg, hpriv, ?_, ?_, ?_, rfl, rfl⟩
  · have hat := waveAt_putWave t (handlerWave c.desc { w with trap := .entering (timeoutReq 1 f b) } (timeoutReq 1 f b) b f)
    rwa [hcore, hslot] at hat
  all_goals rw [timeoutReq] at htreg ⊢; rw [htreg]; rfl

end Timeout

/-! ## The Safelight (R128) -/

theorem exec_safelightExpiry_counts {s : State} {ctx : Nat} {c : Ctx} (hc : ctxOf s ctx = some c) :
    exec (.safelightExpiry ctx) s =
      let t := { s with ctxs := Map.insert s.ctxs ctx { c with dog := 0 } }
      if c.dog < safelightLimit c then .next s else .next ((ctxWaves t ctx).foldl raiseWatchdog (logError t ctx 6 15 127 0 0 0)) := by
  rw [exec_safelightExpiry, execSafelightExpiry, hc]

/-! ## An answered access of a scalar word (R190) -/

section Answered

variable {s u v : State} {core slot : Nat} {b : Bool} {w : Wave} {f : Frag} {j : Instr}
  (hI : Issues (issuing s core slot b) w f) (hwait : f.wait = .access) (hruns : fragRuns w f = true)
  (hdue : dueFault (issuing s core slot b) w b = none) (hfetch : fetchScalar (issuing s core slot b) w f = (u, .ok j))
  (hnamed : (namedUse j).within (scalarBound w) w.valloc = true) (hheld : heldBack u w (useOf j) = false) (hfence : fenceHolds w j = false)
  (hpushes : pushFirst j = true → fenceWaits u w j = false)
include hI hwait hruns hdue hfetch hnamed hheld hfence hpushes

/-- The word of an answered access runs once its core has no halo line left to push. -/
theorem exec_scalarAccessAnswered_runs (hpush : pushStep u core (pushFirst j) = (v, false)) :
    exec (.scalarAccessAnswered core slot b) s = answerWord j (putWave v { w with starved := false }) := by
  have hslot : (waveAt s core slot).bind (fun w => fragOf w b) = some f := by
    have hat : waveAt s core slot = some w := hI.1
    rw [hat]; exact hI.2
  have hfree : (fenceHolds w j || (pushFirst j && fenceWaits u w j)) = false := by
    cases hp : pushFirst j <;> simp_all
  rw [exec_scalarAccessAnswered, execScalarAccessAnswered, hslot]
  refine (if_pos hwait).trans ((onFrag_issues hI _).trans ?_)
  rw [← issuing]
  simp [hruns, hwait, hdue, hfetch, hnamed, hheld, hfree, hpush]

end Answered

/-- A scalar load or store whose answer comes is the word itself. -/
theorem answerWord_access {j : Instr} {d a : SReg} {i : BitVec 10} {x : Scope} {o : Order} {z : Bool}
    (hj : j ∈ [Instr.sld d a i, .sst d a i, .sldk d a i, .sldOrdered d a x o z, .sstOrdered d a x o z]) (s : State) :
    answerWord j s = exec j s := by
  simp only [List.mem_cons, List.not_mem_nil, or_false] at hj
  rcases hj with rfl | rfl | rfl | rfl | rfl <;> rfl

/-- `SLD` over the state that its fetch has left. -/
theorem sld_answered {u t : State} {core slot key : Nat} {b : Bool} {w : Wave} {f : Frag} {d a : SReg} {i : BitVec 10}
    (hcur : u.cur = { core := core, slot := slot, b := b }) (hcore : w.core = core) (hslot : w.slot = slot) (hf : fragOf w b = some f)
    (hal : (rdP w a.toNat + i.signExtend 64).toNat % 4 = 0)
    (hacc : access (putWave u w) core slot (ctxIdOf (putWave u w) w.gid) w.priv (rdP w a.toNat + i.signExtend 64).toNat 4 .read false
      = (t, .ok key)) :
    ∃ v, exec (.sld d a i) (putWave u w) = .next (putWave t v) ∧ Moved b w v f f.flags (f.pc + 4)
      ∧ ∀ n, rdS v n = setReg w d.toNat (BitVec.ofNat 32 (ofBytes (loadBytes t core key 4))) n := by
  subst hcore hslot
  have hI : Issues (putWave u w) w f := by
    rw [Issues, putWave_cur, hcur]
    exact ⟨waveAt_putWave u w, hf⟩
  obtain ⟨v, hv, hmoved, hregs, -⟩ := loadS_scalarDone (wide := false) hI (exec_sld d a i (putWave u w)) hal hacc
  rw [putWave_cur, hcur] at hmoved
  exact ⟨v, hv, hmoved, hregs⟩

/-! ## A replay (R257, R296) -/

@[simp] theorem still_startPush (s : State) (core : Nat) (lines : List Nat) : still (startPush s core lines) = still s := by
  unfold startPush; dsimp only; split_ifs <;> simp

@[simp] theorem still_pushStep (s : State) (core : Nat) (first : Bool) : still (pushStep s core first).1 = still s := by
  unfold pushStep; split_ifs <;> simp

/-- Lanes marked done one by one. -/
def markLanes (done : Word) (ls : List Nat) : Word := ls.foldl (fun m l => m ||| maskOf [l]) done

theorem getLsbD_markLanes (ls : List Nat) (done : Word) {i : Nat} (hi : i < 32) :
    (markLanes done ls).getLsbD i = (done.getLsbD i || decide (i ∈ ls)) := by
  induction ls generalizing done with
  | nil => simp [markLanes]
  | cons l rest ih =>
    have hone : (maskOf [l]).getLsbD i = decide (i = l) := by
      by_cases h : i = l
      · simp [maskOf, h, h ▸ hi]
      · simp [maskOf, h]; omega
    rw [markLanes, List.foldl_cons, ← markLanes, ih, BitVec.getLsbD_or, hone]
    simp [Bool.or_assoc]

/-- Marking each lane of a mask marks the mask. -/
theorem markLanes_lanesOf (done m : Word) : markLanes done (lanesOf m) = done ||| m := by
  refine BitVec.eq_of_getLsbD_eq fun i hi => ?_
  rw [getLsbD_markLanes _ _ hi, BitVec.getLsbD_or]
  congr 1
  simp [lanesOf, hi]

/-- Lanes that all go leave the operation with each of them done and their results on record. -/
theorem foldl_runLane_go {p : Performer} {ls : List Nat} {r : RunRes} {u : State} {ws : List RegWrite} (h : LanesGo p r.o ls r.s u ws) :
    ls.foldl (runLane p) r = { r with s := u, o := { r.o with done := markLanes r.o.done ls, res := r.o.res ++ ws } } := by
  induction ls generalizing r ws with
  | nil =>
    obtain ⟨rfl, rfl⟩ := h
    simp [markLanes]
  | cons l rest ih =>
    obtain ⟨t, a, b, hp, hgo, rfl⟩ := h
    have hstep : runLane p r l = { r with s := t, o := { r.o with done := r.o.done ||| maskOf [l], res := r.o.res ++ a } } := by
      simp [runLane, hp]
    rw [List.foldl_cons, hstep, ih (r := { r with s := t, o := _ }) hgo, List.append_assoc]
    rfl

section Replay

variable {s q u : State} {core slot : Nat} {w : Wave} {o : LaneOp} {ws : List RegWrite} (hw : waveAt s core slot = some w) (hops : w.ops = [o])

include hw hops in
/-- The one operation of a wave performs its lanes once its core has no halo line left to push and no fabric reduction is on its way. -/
theorem performOp_alone {p : Performer} (hmerge : s.link.merging = []) (hpush : pushStep s core (lanePushFirst o.word) = (q, false)) :
    performOp p s core slot o = runLanes p q o := by
  have hlink : q.link = s.link := by
    have hs := still_pushStep s core (lanePushFirst o.word)
    rw [hpush] at hs
    simpa [still] using congrArg State.link hs
  have horder : orderStep s core slot o = (q, false) := by
    unfold orderStep
    simp [hw, hops, hpush, fabDrain_none (show q.link.merging = [] by rw [hlink, hmerge])]
  rw [performOp, horder]
  rfl

/-- The operation of `o` with all that it had left performed. -/
def replayed (o : LaneOp) (ws : List RegWrite) : LaneOp := { o with done := o.done ||| undone o, res := o.res ++ ws, misses := [] }

theorem runLanes_replayed {p : Performer} (hgo : LanesGo p { o with misses := [] } (lanesOf (undone o)) q u ws) :
    runLanes p q o = { s := u, o := replayed o ws, misses := [], claims := [], hole := false } := by
  rw [runLanes, foldl_runLane_go (r := { s := q, o := { o with misses := [] }, misses := [], claims := [], hole := false }) hgo]
  simp only [replayed, markLanes_lanesOf]

/-- What a replay puts back into the wave, for an operation that has no fault and no partial. -/
def withOp (o : LaneOp) (w : Wave) : Wave :=
  { w with ops := if w.ops.any (fun x => x.id == o.id) then w.ops.map (fun x => if x.id == o.id then o else x) else w.ops ++ [o] }

theorem keepRun_plain (hfaults : o.faults = []) (hmisses : o.misses = []) (hred : ∀ x, o.word ≠ .accred x) :
    keepRun { s := u, o := o, misses := [], claims := [], hole := false } core slot = modWave u core slot (withOp o) := by
  cases o
  dsimp only at hfaults hmisses hred
  subst hfaults hmisses
  unfold keepRun
  split
  next x hx => exact absurd hx (hred x)
  · rfl

include hw hops in
/-- A replay of the one operation of a wave, all of whose lanes go. -/
theorem exec_unitReplay_alone (hset : o.settled = false) (hleft : undone o ≠ 0) (hfaults : o.faults = []) (hred : ∀ x, o.word ≠ .accred x)
    (hmerge : s.link.merging = [])
    (hpush : pushStep { s with cur := { core := core, slot := slot, b := o.b } } core (lanePushFirst o.word) = (q, false))
    (hgo : LanesGo performLane { o with misses := [] } (lanesOf (undone o)) q u ws) :
    exec (.unitReplay core slot) s = .next (modWave u core slot (withOp (replayed o ws))) := by
  have hopsOf : opsOf s core slot = [o] := by simp [opsOf, hw, hops]
  have hrun : rerun s core slot o = some (modWave u core slot (withOp (replayed o ws))) := by
    rw [rerun, if_neg hleft,
      performOp_alone (p := performLane) (s := { s with cur := { core := core, slot := slot, b := o.b } }) hw hops hmerge hpush,
      runLanes_replayed hgo]
    exact congrArg some (keepRun_plain (o := replayed o ws) hfaults rfl hred)
  rw [exec_unitReplay, execUnitReplay, hopsOf]
  simp [rerunAll, hopsOf, hset, hrun]

end Replay

/-! ## Remote arrivals (R244, R246) -/

section Arrival

variable {s : State} {k n : Nat} {h : Word} (hk : s.arrivals[k]? = some (h, n))
include hk

theorem exec_barrierRemoteArrival_gone
    (hnone : s.groups.find? (fun e => groupHandle e.2 == h && groupLive e.2 && e.2.st != .pending) = none) :
    exec (.barrierRemoteArrival k) s = .next { s with arrivals := s.arrivals.eraseIdx k } := by
  rw [exec_barrierRemoteArrival, execBarrierRemoteArrival, hk]
  simp only [hnone]

theorem exec_barrierRemoteArrival_live {gid : Nat} {g : Group}
    (hsome : s.groups.find? (fun e => groupHandle e.2 == h && groupLive e.2 && e.2.st != .pending) = some (gid, g)) :
    exec (.barrierRemoteArrival k) s = .next (if g.st = .swapped then remoteArrive { s with arrivals := s.arrivals.eraseIdx k } gid n
      else arrive { s with arrivals := s.arrivals.eraseIdx k } gid n) := by
  rw [exec_barrierRemoteArrival, execBarrierRemoteArrival, hk]
  simp only [hsome]

end Arrival

theorem remoteArrive_counts {s : State} {gid n q k : Nat} {x : Queue} {y : Saved}
    (hq : s.queues.find? (fun e => e.2.slides.groups.any (fun x => x.gid == gid)) = some (q, x))
    (hy : x.slides.groups.find? (fun y => y.gid == gid) = some y) (hk : slideKey s q (y.off + 256 + 32 * n + 8) = some k) :
    remoteArrive s gid n = putNum s k 4 ((readNum s.mem k 4 + 1) % 2 ^ 32) := by
  unfold remoteArrive
  simp only [hq, hy, hk]

/-- Settles O41: each event is its arm, with what its hypotheses decide. -/
theorem answersAndArrivals : Obligations.AnswersAndArrivals := by
  refine ⟨?timeout, ?safelight, ?answered, ?replay, ?arrival⟩
  case timeout =>
    intro s core slot w b f l sc c hw hf hsleep hc ht hsc hstack
    have hlate : fabSleeps f = true := by rcases hsc with rfl | rfl <;> simp [fabSleeps, hsleep]
    exact ⟨waitaFabTimeout_handler hw hf hlate hc ht hstack, waitaFabTimeout_traps hw hf hlate hc ht hstack⟩
  case safelight =>
    intro s ctx c hc
    rw [exec_safelightExpiry_counts hc]
    exact ⟨fun hdog => if_neg (Nat.not_lt.2 hdog), fun hdog => if_pos hdog⟩
  case answered =>
    intro s core slot b w f u j cur w' hI hwait hruns hdue hfetch hnamed hheld hfence hpushes
    have hruns {v : State} (hpush : pushStep u core (pushFirst j) = (v, false)) :
        exec (.scalarAccessAnswered core slot b) s = answerWord j (putWave v w') :=
      exec_scalarAccessAnswered_runs hI hwait hruns hdue hfetch hnamed hheld hfence hpushes hpush
    refine ⟨fun v d a i x o z hj hpush => (hruns hpush).trans (answerWord_access hj _), ?_⟩
    intro t key d a i va hj hcur hal hacc
    subst hj
    rw [hruns (v := u) rfl]
    obtain ⟨hcore, hslot⟩ := issues_place hI
    exact sld_answered (w := w') hcur hcore hslot hI.2 hal hacc
  case replay =>
    intro s core slot w o q u ws s' hw hops hset hleft hfaults hred hmerge hpush hgo hu
    refine ⟨_, exec_unitReplay_alone hw hops hset hleft hfaults hred hmerge hpush hgo, ?_, rfl⟩
    rw [waveAt_modWave hu (fun _ => rfl), withOp, hops]
    simp [replayed]
  case arrival =>
    intro s k' h n hk
    refine ⟨exec_barrierRemoteArrival_gone hk, fun gid g hsome => ?_⟩
    rw [exec_barrierRemoteArrival_live hk hsome]
    refine ⟨fun hst => by rw [if_neg hst], fun q x y k hst hq hy hkey => ?_⟩
    rw [if_pos hst, remoteArrive_counts (s := { s with arrivals := s.arrivals.eraseIdx k' }) hq hy hkey]

end Sys2Proof.Machine
end

section
/-! PROOFS. Waits in progress, grids that are over and dispatched tasks (R118, R121, R137, R139). -/

namespace Sys2Proof.Machine

/-! ## Writes at the home with no message on its way (R272, R279) -/

theorem msgs_of_settled {s : State} (h : Settled s) : s.coh.msgs = [] := by
  cases hm : s.coh.msgs with
  | nil => rfl
  | cons m rest =>
    have hline := (Bool.and_eq_true_iff.1 (h m.line)).2
    rw [hm] at hline
    simp at hline

/-- With no message on its way a line's transactions get no further. -/
theorem settleLine_quiet {s : State} (h : s.coh.msgs = []) (line : Nat) : settleLine s line = s := by
  unfold settleLine
  split_ifs
  · rfl
  · generalize hfuel : 1024 * (s.coh.msgs.length + s.coh.waitBuf.length + 1) = fuel
    cases fuel with
    | zero => rfl
    | succ fuel => simp [quiesce, h]

theorem homeWrite_quiet {s : State} (h : s.coh.msgs = []) (line : Nat) :
    (homeWrite s line).mem = s.mem ∧ (homeWrite s line).coh.msgs = [] := by
  have hrecall : (recallLine s line).mem = s.mem ∧ (recallLine s line).coh.msgs = [] := by
    have hfd : (frameDirty s line).coh.msgs = [] := by rw [frameDirty_coh, h]
    unfold recallLine
    rw [settleLine_quiet h]
    dsimp only
    split_ifs
    · exact ⟨rfl, h⟩
    · exact ⟨frameDirty_mem s line, by simp only [setDir, dropCopies, hfd, List.filter_nil]⟩
    · exact ⟨rfl, by simp [setDir, dropCopies, h]⟩
  have hgrant : (grantNote (recallLine s line) line).mem = s.mem ∧ (grantNote (recallLine s line) line).coh.msgs = [] := by
    unfold grantNote
    split_ifs <;> exact hrecall
  unfold homeWrite
  rw [homePut_mem, frameDirty_mem, (homePut_spec _ line).2, frameDirty_coh]
  exact hgrant

/-- A number stored at its home with no message on its way changes its own bytes alone. -/
theorem putNum_quiet {s : State} (h : s.coh.msgs = []) (key n x : Nat) :
    (putNum s key n x).mem = writeNum s.mem key n x ∧ (putNum s key n x).coh.msgs = [] := by
  unfold putNum
  dsimp only
  split_ifs
  · exact ⟨rfl, h⟩
  · obtain ⟨hmem, hmsgs⟩ := homeWrite_quiet h (lineOf key)
    exact ⟨by rw [hmem], hmsgs⟩

/-- What a store at the home leaves of the queues, the grids and the counters. -/
theorem putNum_rest (s : State) (key n x : Nat) :
    (putNum s key n x).queues = s.queues ∧ (putNum s key n x).grids = s.grids ∧ (putNum s key n x).nextGrid = s.nextGrid := by
  have h := running_putNum s key n x
  exact ⟨by simpa [running] using congrArg State.queues h, by simpa [running] using congrArg State.grids h,
    by simpa [running] using congrArg State.nextGrid h⟩

/-! ## A WAIT in progress (R118, R121) -/

section Waiting

variable {s : State} {q n : Nat} (hst : (queueOf s q).st = .waiting) (hpkt : headPacket s q = .ok n) (hty : bits n 7 0 = 4)
include hst hpkt hty

theorem onWaiting_packet (k : Nat → PktMove) : onWaiting s q k = .next (settleMove s q (k n)) := by
  rw [onWaiting, if_neg (not_not.2 hst), hpkt]
  exact congrArg (fun m => Host.Outcome.next (settleMove s q m)) (if_pos hty)

theorem exec_wait_again {i : Instr}
    (hi : i = .waitReread q ∨ i = .waitPeriodicPoll q ∧ homedOutside s (queueOf s q).ctxId (bits n 120 64) = true) :
    exec i s = .next (settleMove s q (startWait s q n)) := by
  obtain rfl | ⟨rfl, hout⟩ := hi
  · rw [exec_waitReread, execWaitReread, onWaiting_packet hst hpkt hty]
  · rw [exec_waitPeriodicPoll, execWaitPeriodicPoll, onWaiting_packet hst hpkt hty, if_pos hout]

theorem exec_waitTimeout_ends {c : Ctx} (hscope : 4 ≤ bits n 196 194) (hc : ctxOf s (queueOf s q).ctxId = some c)
    (ht : c.desc.fabTimeout ≠ 0) : exec (.waitTimeout q) s = .next (queueError s q 3 (queueOf s q).head) := by
  rw [exec_waitTimeout, execWaitTimeout]
  refine (onWaiting_packet hst hpkt hty _).trans ?_
  rw [hc, if_pos (by simp [hscope, ht])]
  rfl

end Waiting

/-! ## A packet's grid that is over (R121, R137) -/

/-- The completion of a packet takes it out of those that have started; its vector may be raised, and its queue may become `IDLE`. -/
theorem completePkt_spec (t : State) (q : Nat) (idx : Word) :
    completePkt t q idx = { t with queues := (completePkt t q idx).queues, msix := (completePkt t q idx).msix }
      ∧ (queueOf (completePkt t q idx) q).gridSlots = (queueOf t q).gridSlots
      ∧ (queueOf (completePkt t q idx) q).started = (queueOf t q).started.filter (fun p => p.idx != idx)
      ∧ ∀ p, p ≠ q → queueOf (completePkt t q idx) p = queueOf t p := by
  have hidle (u : State) : queueIdle u q = { u with queues := (queueIdle u q).queues }
      ∧ (queueOf (queueIdle u q) q).gridSlots = (queueOf u q).gridSlots ∧ (queueOf (queueIdle u q) q).started = (queueOf u q).started
      ∧ ∀ p, p ≠ q → queueOf (queueIdle u q) p = queueOf u p := by
    obtain h | ⟨-, h⟩ := queueIdle_cases u q <;> rw [h]
    · exact ⟨rfl, rfl, rfl, fun _ _ => rfl⟩
    · exact ⟨rfl, by rw [queueOf_putQueue_self], by rw [queueOf_putQueue_self], fun _ hp => queueOf_putQueue_ne _ _ hp⟩
  obtain ⟨u, hu, hrest, hqueues⟩ : ∃ u, completePkt t q idx = queueIdle u q ∧ u = { t with queues := u.queues, msix := u.msix }
      ∧ u.queues = (putQueue t q { queueOf t q with started := (queueOf t q).started.filter (fun p => p.idx != idx) }).queues := by
    simp only [completePkt]
    split_ifs <;> exact ⟨_, rfl, rfl, rfl⟩
  obtain ⟨h1, h2, h3, h4⟩ := hidle u
  have hself : queueOf u q = { queueOf t q with started := (queueOf t q).started.filter (fun p => p.idx != idx) } := by
    rw [queueOf, hqueues, ← queueOf, queueOf_putQueue_self]
  have hother (p : Nat) (hp : p ≠ q) : queueOf u p = queueOf t p := by
    rw [queueOf, hqueues, ← queueOf, queueOf_putQueue_ne _ _ hp]
  rw [hu]
  refine ⟨?_, h2.trans (by rw [hself]), h3.trans (by rw [hself]), fun p hp => (h4 p hp).trans (hother p hp)⟩
  generalize queueIdle u q = v at h1
  rw [h1, hrest]

/-- The state without the grid, and with its slot free. -/
def gridGone (s : State) (gi q : Nat) : State :=
  putQueue { s with grids := Map.erase s.grids gi } q { queueOf s q with gridSlots := (queueOf s q).gridSlots - 1 }

/-- The queue of a grid whose done_val cannot be written ends with err 6. -/
def doneLost (s : State) (gi q : Nat) (i : Word) : State :=
  queueError (putQueue (gridGone s gi q) q { queueOf (gridGone s gi q) q with
    started := (queueOf (gridGone s gi q) q).started.filter (fun p => p.idx != i) }) q 6 i

theorem devKey_gridGone (s : State) (gi q ctx va : Nat) (k : AccKind) : devKey (gridGone s gi q) ctx .u va k = devKey s ctx .u va k := rfl

section Complete

variable {s : State} {gi q idx : Nat} {g : Grid} (hg : Map.find s.grids gi = some g) (hsrc : g.src = .packet q idx)
  (hover : gridOver s gi g = true) (hfind : findersDone s g = true) (hmerge : s.link.merging = [])
include hg hsrc hover hfind hmerge

theorem exec_gridComplete_quiet (hzero : g.doneAddr = 0) :
    exec (.gridComplete gi) s = .next (completePkt (gridGone s gi q) q (BitVec.ofNat 32 idx)) := by
  rw [exec_gridComplete, execGridComplete, hg]
  simp only [hsrc, hover, hfind, hmerge, hzero, Bool.not_true, Bool.or_self, Bool.false_eq_true, if_false, if_true]
  rfl

theorem exec_gridComplete_writes (hne : g.doneAddr ≠ 0) (hmiss : pktMiss s g.ctx g.doneAddr 8 .write = none) {k : Nat}
    (hkey : devKey s g.ctx .u g.doneAddr .write = some k) :
    exec (.gridComplete gi) s = .next (completePkt (putNum (gridGone s gi q) k 8 g.doneVal.toNat) q (BitVec.ofNat 32 idx)) := by
  have hwrite : devWrite (gridGone s gi q) g.ctx .u g.doneAddr 8 g.doneVal.toNat = some (putNum (gridGone s gi q) k 8 g.doneVal.toNat) := by
    rw [devWrite, devKey_gridGone, hkey]; rfl
  rw [exec_gridComplete, execGridComplete, hg]
  simp only [hsrc, hover, hfind, hmerge, hne, hmiss, Bool.not_true, Bool.or_self, Bool.false_eq_true, if_false, if_true]
  split
  next t ht => cases ht.symm.trans hwrite; rfl
  next hnone => cases hnone.symm.trans hwrite

theorem exec_gridComplete_lost (hne : g.doneAddr ≠ 0) (hmiss : pktMiss s g.ctx g.doneAddr 8 .write = none)
    (hkey : devKey s g.ctx .u g.doneAddr .write = none) :
    exec (.gridComplete gi) s = .next (doneLost s gi q (BitVec.ofNat 32 idx)) := by
  have hwrite : devWrite (gridGone s gi q) g.ctx .u g.doneAddr 8 g.doneVal.toNat = none := by
    rw [devWrite, devKey_gridGone, hkey]; rfl
  rw [exec_gridComplete, execGridComplete, hg]
  simp only [hsrc, hover, hfind, hmerge, hne, hmiss, Bool.not_true, Bool.or_self, Bool.false_eq_true, if_false, if_true]
  split
  next t ht => cases ht.symm.trans hwrite
  next hnone => rfl

end Complete

/-- What a completed grid leaves: the grid is gone, its slot is free, and its packet is not in flight; no other grid or queue changes. -/
structure GridEnds (s t : State) (gi q idx : Nat) : Prop where
  gone : Map.find t.grids gi = none
  grids : ∀ k, k ≠ gi → Map.find t.grids k = Map.find s.grids k
  slots : (queueOf t q).gridSlots = (queueOf s q).gridSlots - 1
  packet : ∀ p, p ∈ (queueOf t q).started → p.idx ≠ BitVec.ofNat 32 idx
  queues : ∀ p, p ≠ q → queueOf t p = queueOf s p

/-- A packet completes over a state that differs from `gridGone` in no queue and no grid. -/
theorem gridEnds_completePkt {s u : State} {gi q idx : Nat} (hq : u.queues = (gridGone s gi q).queues) (hgr : u.grids = Map.erase s.grids gi) :
    GridEnds s (completePkt u q (BitVec.ofNat 32 idx)) gi q idx := by
  obtain ⟨hrest, hslots, hstarted, hother⟩ := completePkt_spec u q (BitVec.ofNat 32 idx)
  have hgrids : (completePkt u q (BitVec.ofNat 32 idx)).grids = Map.erase s.grids gi := by rw [hrest]; exact hgr
  have hqueue (p : Nat) : queueOf u p = queueOf (gridGone s gi q) p := by rw [queueOf, hq, ← queueOf]
  refine ⟨?_, fun k hk => ?_, ?_, fun p hp => ?_, fun p hp => ?_⟩
  · rw [hgrids, Map.find_erase_self]
  · rw [hgrids, Map.find_erase_ne _ hk]
  · rw [hslots, hqueue, gridGone, queueOf_putQueue_self]
  · rw [hstarted] at hp
    simpa using (List.mem_filter.1 hp).2
  · rw [hother p hp, hqueue, gridGone, queueOf_putQueue_ne _ _ hp]
    rfl

theorem gridEnds_doneLost (s : State) (gi q idx : Nat) : GridEnds s (doneLost s gi q (BitVec.ofNat 32 idx)) gi q idx := by
  have hself : queueOf (doneLost s gi q (BitVec.ofNat 32 idx)) q = { queueOf s q with
      gridSlots := (queueOf s q).gridSlots - 1, started := (queueOf s q).started.filter (fun p => p.idx != BitVec.ofNat 32 idx),
      st := .error, err := 6, errIdx := BitVec.ofNat 32 idx } := by
    rw [doneLost, queueError, queueOf_putQueue_self, queueOf_putQueue_self, gridGone, queueOf_putQueue_self]
  refine ⟨Map.find_erase_self _ _, fun k hk => Map.find_erase_ne _ hk, by rw [hself], fun p hp => ?_, fun p hp => ?_⟩
  · rw [hself] at hp
    simpa using (List.mem_filter.1 hp).2
  · rw [doneLost, queueError, queueOf_putQueue_ne _ _ hp, queueOf_putQueue_ne _ _ hp, gridGone, queueOf_putQueue_ne _ _ hp]
    rfl

/-! ## Dispatched tasks (R137, R139) -/

/-- A record off its list leaves memory, the grids and the queue's context. -/
theorem unlinkTask_rest (s : State) (q prio va link : Nat) :
    unlinkTask s q prio va link = { s with queues := (unlinkTask s q prio va link).queues }
      ∧ (queueOf (unlinkTask s q prio va link) q).ctxId = (queueOf s q).ctxId := by
  unfold unlinkTask
  dsimp only
  split_ifs
  · exact ⟨rfl, by rw [queueOf_putQueue_self]⟩
  · exact ⟨rfl, by rw [queueOf_putQueue_self]⟩

/-- The task's grid enters the table, and its record becomes `RUNNING` with its groups counted. -/
theorem startTask_spec {s : State} (h : s.coh.msgs = []) (q va key n : Nat) (d : KDesc) :
    Map.find (startTask s q va key n d).grids s.nextGrid = some (taskGrid s q va n d)
      ∧ (startTask s q va key n d).nextGrid = s.nextGrid + 1
      ∧ (startTask s q va key n d).mem
        = writeNum (writeNum s.mem key 8 (putBits (readNum s.mem key 8) 34 32 3)) (key + 48) 4 (taskGrid s q va n d).live := by
  generalize ht : dropKonst s (taskGrid s q va n d).ctx = t
  have hmem : t.mem = s.mem := by rw [← ht]; rfl
  have hgrid : t.nextGrid = s.nextGrid := by rw [← ht]; rfl
  have hmsgs : t.coh.msgs = [] := by rw [← ht]; exact h
  obtain ⟨hm1, hq1⟩ := putNum_quiet hmsgs key 8 (putBits (readNum t.mem key 8) 34 32 3)
  obtain ⟨hm2, -⟩ := putNum_quiet hq1 (key + 48) 4 (taskGrid s q va n d).live
  obtain ⟨-, -, hn1⟩ := putNum_rest t key 8 (putBits (readNum t.mem key 8) 34 32 3)
  obtain ⟨-, -, hn2⟩ := putNum_rest (putNum t key 8 (putBits (readNum t.mem key 8) 34 32 3)) (key + 48) 4 (taskGrid s q va n d).live
  simp only [startTask, ht]
  rw [hn2, hn1, hgrid]
  refine ⟨Map.find_insert_self _ _ _, rfl, ?_⟩
  rw [hm2, hm1, hmem]

theorem exec_taskDispatch_starts {s : State} {q prio va k : Nat} {d : KDesc} (hgoes : dispatches s q = true)
    (hhead : headTask (queueOf s q) = some (prio, va)) (hreach : devReach s (queueOf s q).ctxId .s va .write = .ok k)
    (hqueued : bits (readNum s.mem k 64) 34 32 = 2) (hkernel : taskKernel s (queueOf s q).ctxId (readNum s.mem k 64) = .ok d)
    (hfit : couldFit s (taskGrid s q va (readNum s.mem k 64) d) = true) :
    exec (.taskDispatch q) s
      = .next (startTask (unlinkTask s q prio va (bits (readNum s.mem k 64) 376 320)) q va k (readNum s.mem k 64) d) := by
  rw [exec_taskDispatch, execTaskDispatch]
  simp only [hgoes, if_true, hhead, hreach, hqueued, ne_eq, not_true_eq_false, if_false, hkernel, hfit]

/-- Settles O44: each event is its arm; with no message on its way a store at the home is the store alone. -/
theorem waitsGridsAndTasks : Obligations.WaitsGridsAndTasks := by
  refine ⟨?reread, ?timeout, ?grid, ?task⟩
  case reread =>
    intro s q n v i hst hpkt hty hok hfree hread hi
    have h := exec_wait_again hst hpkt hty hi
    rw [startWait_reads hok hfree hread] at h
    refine ⟨fun hmet => ?_, fun hmet => ?_⟩
    · rw [if_pos hmet] at h
      exact passes_of_passPkt h
    · rw [if_neg (by simp [hmet]), ← hst] at h
      exact queueBecomes_of_put h
  case timeout =>
    intro s q n c hst hpkt hty hscope hc ht
    exact queueBecomes_of_put (exec_waitTimeout_ends hst hpkt hty hscope hc ht)
  case grid =>
    intro s gi g q idx hg hsrc hover hfind hmerge hmiss
    by_cases hzero : g.doneAddr = 0
    · obtain ⟨h1, h2, h3, h4, h5⟩ := gridEnds_completePkt (u := gridGone s gi q) (idx := idx) rfl rfl
      have hrest := (completePkt_spec (gridGone s gi q) q (BitVec.ofNat 32 idx)).1
      refine ⟨_, exec_gridComplete_quiet hg hsrc hover hfind hmerge hzero, h1, h2, h3, h4, h5, fun _ => ⟨?_, ?_⟩, fun hne => absurd hzero hne, fun hne => absurd hzero hne⟩
      · rw [hrest]; rfl
      · rw [hrest]; rfl
    · cases hkey : devKey s g.ctx .u g.doneAddr .write with
      | none =>
        have h := exec_gridComplete_lost hg hsrc hover hfind hmerge hzero (hmiss hzero) hkey
        obtain ⟨h1, h2, h3, h4, h5⟩ := gridEnds_doneLost s gi q idx
        refine ⟨_, h, h1, h2, h3, h4, h5, fun hz => absurd hz hzero, fun _ k hk _ => (nomatch hk), fun _ _ => ⟨rfl, ?_, ?_⟩⟩
        · rw [doneLost, queueError, queueOf_putQueue_self]
        · rw [doneLost, queueError, queueOf_putQueue_self]
      | some k =>
        have h := exec_gridComplete_writes hg hsrc hover hfind hmerge hzero (hmiss hzero) hkey
        obtain ⟨hqueues, hgrids, -⟩ := putNum_rest (gridGone s gi q) k 8 g.doneVal.toNat
        obtain ⟨h1, h2, h3, h4, h5⟩ := gridEnds_completePkt (idx := idx) hqueues hgrids
        have hrest := (completePkt_spec (putNum (gridGone s gi q) k 8 g.doneVal.toNat) q (BitVec.ofNat 32 idx)).1
        refine ⟨_, h, h1, h2, h3, h4, h5, fun hz => absurd hz hzero, fun _ k' hk' hset => ?_, fun _ hno => (nomatch hno)⟩
        cases hk'
        rw [hrest]
        exact (putNum_quiet (s := gridGone s gi q) (msgs_of_settled hset) k 8 g.doneVal.toNat).1
  case task =>
    intro s q prio va k d hgoes hhead hreach hset n hqueued hkernel hfit
    have h := exec_taskDispatch_starts hgoes hhead hreach hqueued hkernel hfit
    obtain ⟨hrest, hctx⟩ := unlinkTask_rest s q prio va (bits n 376 320)
    generalize unlinkTask s q prio va (bits n 376 320) = s1 at h hrest hctx
    have hmsgs : s1.coh.msgs = [] := by rw [hrest]; exact msgs_of_settled hset
    have hmem : s1.mem = s.mem := by rw [hrest]
    have hnext : s1.nextGrid = s.nextGrid := by rw [hrest]
    obtain ⟨hgrid, hn, hm⟩ := startTask_spec hmsgs q va k n d
    rw [hnext] at hgrid hn
    rw [hmem] at hm
    exact ⟨_, _, h, hgrid, rfl, rfl, rfl, hctx, rfl, rfl, rfl, rfl, rfl, rfl, hn, hm⟩

end Sys2Proof.Machine
end

section
/-! PROOFS. Groups placed and started, and bank conversions (R122, R132 to R136, R146, R151, R152). -/

namespace Sys2Proof.Machine

/-! ## The start of a group's waves (R133, R146) -/

/-- The part of a state that the start of groups leaves: all but the groups and the waves. -/
def unpopulated (s : State) : State := { s with groups := [], waves := [] }

/-- A wave that starts stands at the kernel's entry at U with all lanes, one fragment, and registers that hold 0 (R133). -/
def Fresh (gid : Nat) (g : Grid) (w : Wave) : Prop :=
  ∃ f, w.gid = gid ∧ w.priv = .u ∧ w.sregs = [] ∧ w.vregs = [] ∧ w.valloc = 8 * g.desc.vregBlocks ∧ w.fragA = some f ∧ w.fragB = none
    ∧ f.m0 = 0xFFFFFFFF ∧ f.pc = BitVec.ofNat 64 (g.image + g.desc.scodeOffset + g.desc.entryOffset)

/-- The wave that starts in a slot of a group, with its number. -/
def entryWave (s : State) (gid : Nat) (g : Grid) (x : Group) (p : Nat × Nat) : Wave :=
  startWave s gid g (waveIdent g x p.2 x.waves (roleOf g.desc.roles p.2)) p.1 0xFFFFFFFF g.desc.entryOffset none

theorem fresh_entryWave (s : State) (gid : Nat) (g : Grid) (x : Group) (p : Nat × Nat) : Fresh gid g (entryWave s gid g x p) :=
  ⟨_, rfl, rfl, rfl, rfl, rfl, rfl, rfl, rfl, rfl⟩

/-- Waves put one after another: each slot named holds one of them. -/
theorem find_putWaves {β : Type} {P : Wave → Prop} (l : List β) (wave : β → Wave) (hP : ∀ b, P (wave b)) (s : State) {k : Nat}
    (hk : (∃ w, Map.find s.waves k = some w ∧ P w) ∨ ∃ b ∈ l, 64 * (wave b).core + (wave b).slot = k) :
    ∃ w, Map.find (l.foldl (fun t b => putWave t (wave b)) s).waves k = some w ∧ P w := by
  induction l generalizing s with
  | nil => simpa using hk
  | cons b rest ih =>
    refine ih (putWave s (wave b)) ?_
    by_cases hb : 64 * (wave b).core + (wave b).slot = k
    · exact .inl ⟨wave b, by rw [putWave_waves, hb, Map.find_insert_self], hP b⟩
    · rw [putWave_waves, Map.find_insert_ne _ _ (Ne.symm hb)]
      refine hk.imp_right ?_
      rintro ⟨c, hc, hck⟩
      obtain rfl | hc := List.mem_cons.1 hc
      · exact absurd hck hb
      · exact ⟨c, hc, hck⟩

/-- What the start of a group writes: its state and its waves. -/
theorem grantGroup_starts {s : State} {gid : Nat} {x : Group} {g : Grid} (hx : groupOf s gid = some x) (hg : Map.find s.grids x.grid = some g)
    (hst : x.st = .placing) (hb : x.wantBanks = []) :
    grantGroup s gid = (x.slots.zip (List.range x.slots.length)).foldl (fun t p => putWave t (entryWave s gid g x p))
      (putGroup s gid { x with st := .resident }) := by
  unfold grantGroup
  simp only [hx, hg]
  exact if_pos ⟨hst, hb⟩

theorem grantGroup_waits {s : State} {gid : Nat} {x : Group} (hx : groupOf s gid = some x) (h : x.st ≠ .placing ∨ x.wantBanks ≠ []) :
    grantGroup s gid = s := by
  unfold grantGroup
  rw [hx]
  dsimp only
  split
  · rfl
  · refine if_neg ?_
    rintro ⟨hst, hb⟩
    exact h.elim (· hst) (· hb)

/-- The start of a group either waits or is `grantGroup_starts`. -/
theorem grantGroup_cases (s : State) (gid : Nat) :
    grantGroup s gid = s ∨ ∃ x g, groupOf s gid = some x ∧ Map.find s.grids x.grid = some g ∧ x.st = .placing ∧ x.wantBanks = [] := by
  cases hx : groupOf s gid with
  | none => exact .inl (by unfold grantGroup; rw [hx])
  | some x =>
    by_cases h : x.st = .placing ∧ x.wantBanks = []
    · cases hg : Map.find s.grids x.grid with
      | none => exact .inl (by unfold grantGroup; simp only [hx, hg])
      | some g => exact .inr ⟨x, g, rfl, hg, h⟩
    · exact .inl (grantGroup_waits hx (not_and_or.1 h))

theorem unpopulated_putWaves {β : Type} (l : List β) (wave : β → Wave) (s : State) :
    unpopulated (l.foldl (fun t b => putWave t (wave b)) s) = unpopulated s :=
  foldl_keeps unpopulated l (fun t b => putWave t (wave b)) (fun _ _ => rfl) s

theorem groups_putWaves {β : Type} (l : List β) (wave : β → Wave) (s : State) :
    (l.foldl (fun t b => putWave t (wave b)) s).groups = s.groups :=
  foldl_keeps State.groups l (fun t b => putWave t (wave b)) (fun _ _ => rfl) s

@[simp] theorem unpopulated_grantGroup (s : State) (gid : Nat) : unpopulated (grantGroup s gid) = unpopulated s := by
  obtain h | ⟨x, g, hx, hg, hst, hb⟩ := grantGroup_cases s gid
  · rw [h]
  · rw [grantGroup_starts hx hg hst hb, unpopulated_putWaves]
    rfl

theorem groupOf_grantGroup_ne (s : State) {gid k : Nat} (hk : k ≠ gid) : groupOf (grantGroup s gid) k = groupOf s k := by
  obtain h | ⟨x, g, hx, hg, hst, hb⟩ := grantGroup_cases s gid
  · rw [h]
  · rw [grantGroup_starts hx hg hst hb, groupOf, groups_putWaves, putGroup_groups, Map.find_insert_ne _ _ hk]
    rfl

section Starts

variable {s : State} {gid : Nat} {x : Group} {g : Grid} (hx : groupOf s gid = some x) (hg : Map.find s.grids x.grid = some g)
  (hst : x.st = .placing) (hb : x.wantBanks = [])
include hx hg hst hb

theorem groupOf_grantGroup_self : groupOf (grantGroup s gid) gid = some { x with st := .resident } := by
  rw [grantGroup_starts hx hg hst hb, groupOf, groups_putWaves, putGroup_groups, Map.find_insert_self]

/-- Each slot of a started group holds a fresh wave. -/
theorem find_grantGroup_waves {k : Nat} (hk : k ∈ x.slots) : ∃ w, Map.find (grantGroup s gid).waves k = some w ∧ Fresh gid g w := by
  rw [grantGroup_starts hx hg hst hb]
  obtain ⟨i, hi, rfl⟩ := List.mem_iff_getElem.1 hk
  refine find_putWaves _ (entryWave s gid g x) (fresh_entryWave s gid g x) _ (.inr ⟨(x.slots[i], i), ?_, ?_⟩)
  · refine List.mem_iff_getElem.2 ⟨i, by simpa using hi, by simp⟩
  · show 64 * (x.slots[i] / 64) + x.slots[i] % 64 = x.slots[i]
    omega

end Starts

/-! ## The placement of one group (R132, R135, R146) -/

/-- The group that a placement makes, before its banks are granted. -/
def placedGroup (s : State) (gi : Nat) (g : Grid) (core : Nat) (p : BankPlan) : Group :=
  { grid := gi, index := g.next, gx := g.next % g.nx, gy := g.next / g.nx % g.ny, gz := g.next / (g.nx * g.ny),
    waves := g.desc.groupWaves, core := core, gslot := freeGslot s core, tag := (coreOf (nextTag (convertBanks s core p) core) core).tagCtr,
    st := .placing, scratchBytes := g.desc.scratchBytes, fifoBytes := g.desc.fifoBytes, scratch := [], bad := [],
    scratchGran := p.scratch, fifoGran := p.fifo, slots := takeSlots s core g.desc.groupWaves, wantBanks := p.toScratch ++ p.toFifo,
    msgs := [], sendQ := [], recvQ := [], pools := [], claimQ := [], barriers := [], barrierCount := g.desc.barrierCount,
    trayCount := g.desc.trayCount, isTray := false, live := g.desc.groupWaves, exited := [] }

/-- The state with the group placed, and the grid's next group after it. -/
def placing (s : State) (gi : Nat) (g : Grid) (core : Nat) (p : BankPlan) : State :=
  ctxRuns { putGroup (nextTag (convertBanks s core p) core) s.nextGid (placedGroup s gi g core p) with
    nextGid := s.nextGid + 1, placeP := core, grids := Map.insert s.grids gi { g with next := g.next + 1 } } g.ctx

theorem placeAt_eq (s : State) (gi : Nat) (g : Grid) (core : Nat) (p : BankPlan) :
    placeAt s gi g core p = grantGroup (placing s gi g core p) s.nextGid := rfl

theorem groupOf_placing (s : State) (gi : Nat) (g : Grid) (core : Nat) (p : BankPlan) :
    groupOf (placing s gi g core p) s.nextGid = some (placedGroup s gi g core p) := Map.find_insert_self _ _ _

theorem grid_placing (s : State) (gi : Nat) (g : Grid) (core : Nat) (p : BankPlan) :
    Map.find (placing s gi g core p).grids gi = some { g with next := g.next + 1 } := Map.find_insert_self _ _ _

/-- A placement writes neither memory nor a queue; the placement pointer, the grid's next group and the number of the next group go on. -/
theorem placeAt_rest (s : State) (gi : Nat) (g : Grid) (core : Nat) (p : BankPlan) :
    (placeAt s gi g core p).placeP = core ∧ Map.find (placeAt s gi g core p).grids gi = some { g with next := g.next + 1 }
      ∧ (placeAt s gi g core p).nextGid = s.nextGid + 1 ∧ (placeAt s gi g core p).mem = s.mem
      ∧ (placeAt s gi g core p).queues = s.queues ∧ (placeAt s gi g core p).stamp = s.stamp := by
  have h : unpopulated (placeAt s gi g core p) = unpopulated (placing s gi g core p) := by
    rw [placeAt_eq, unpopulated_grantGroup]
  have hgrid := grid_placing s gi g core p
  have hrest : (placing s gi g core p).placeP = core ∧ (placing s gi g core p).nextGid = s.nextGid + 1
      ∧ (placing s gi g core p).mem = s.mem ∧ (placing s gi g core p).queues = s.queues
      ∧ (placing s gi g core p).stamp = s.stamp := by
    simp [placing, ctxRuns, nextTag, convertBanks]
  generalize placeAt s gi g core p = t at h ⊢
  generalize placing s gi g core p = u at h hgrid hrest
  simp only [unpopulated, State.mk.injEq] at h
  simp_all

/-- A group that waits for a bank stays `PLACING`. -/
theorem groupOf_placeAt_waits {s : State} {gi : Nat} {g : Grid} {core : Nat} {p : BankPlan} (h : p.toScratch ++ p.toFifo ≠ []) :
    groupOf (placeAt s gi g core p) s.nextGid = some (placedGroup s gi g core p) := by
  rw [placeAt_eq, grantGroup_waits (groupOf_placing s gi g core p) (.inr h), groupOf_placing]

section Granted

variable {s : State} {gi : Nat} {g : Grid} {core : Nat} {p : BankPlan} (h : p.toScratch ++ p.toFifo = [])
include h

theorem groupOf_placeAt_granted :
    groupOf (placeAt s gi g core p) s.nextGid = some { placedGroup s gi g core p with st := .resident } :=
  groupOf_grantGroup_self (groupOf_placing s gi g core p) (grid_placing s gi g core p) rfl h

theorem find_placeAt_waves {k : Nat} (hk : k ∈ takeSlots s core g.desc.groupWaves) :
    ∃ w, Map.find (placeAt s gi g core p).waves k = some w ∧ Fresh s.nextGid { g with next := g.next + 1 } w :=
  find_grantGroup_waves (groupOf_placing s gi g core p) (grid_placing s gi g core p) rfl h hk

end Granted

/-! ## The queue's turn (R122, R134 to R136) -/

/-- The first core of the walk that meets every demand is the one that a search finds. -/
theorem findSome?_first {α β : Type} {f : α → Option β} {l1 l2 : List α} {c : α} {y : β} (hl : ∀ k ∈ l1, f k = none) (hc : f c = some y) :
    (l1 ++ c :: l2).findSome? f = some y := by
  rw [List.findSome?_append, List.findSome?_eq_none_iff.2 hl, List.findSome?_cons, hc]
  rfl

/-- The queue has had its turn. -/
def turned (s : State) (q : Nat) : State := putQueue (nextStamp s) q { queueOf s q with turn := s.stamp }

section Turn

variable {s : State} {gi : Nat} {g : Grid} (hg : Map.find s.grids gi = some g)
include hg

theorem placeNext_first {l1 l2 : List Nat} {c : Nat} {p : BankPlan} (hnext : g.next < g.nx * g.ny * g.nz) (hring : ringRoom s g = true)
    (hslide : slideFits s g.queue (kernelSave g.desc) = true) (hwalk : walkCores s g.desc.groupWaves = l1 ++ c :: l2)
    (hbefore : ∀ k ∈ l1, placeFits s gi g.desc k = none) (hfits : placeFits s gi g.desc c = some p) :
    placeNext s gi = some (placeAt s gi g c p) := by
  unfold placeNext
  rw [hg]
  refine (if_pos ⟨hnext, hring, hslide⟩).trans ?_
  rw [hwalk]
  exact findSome?_first (fun k hk => by rw [hbefore k hk]; rfl) (by rw [hfits]; rfl)

variable (hhead : headGrid s g.queue = some (gi, g))
include hhead

theorem exec_groupPlace_held (h : servedFirst s g.queue = true ∨ dispatches s g.queue = false ∨ coWaits s g.queue = true) :
    exec (.groupPlace gi) s = .next s := by
  have hnone : dispatches s g.queue = false ∨ coWaits s g.queue = true → placeHead s g.queue = none := by
    intro h
    unfold placeHead
    rw [hhead]
    refine if_pos ?_
    rcases h with h | h <;> simp [h]
  rw [exec_groupPlace, execGroupPlace, hg]
  rcases h with h | h
  · simp [h]
  · simp [hnone h]

theorem exec_groupPlace_turn (hfirst : servedFirst s g.queue = false) (hgoes : dispatches s g.queue = true) (hco : coWaits s g.queue = false) :
    exec (.groupPlace gi) s
      = .next (((if unadmitted g then placeAll s gi else placeNext s gi).map (fun t => turned t g.queue)).getD s) := by
  have hplace : placeHead s g.queue = (if unadmitted g then placeAll s gi else placeNext s gi).map (fun t => turned t g.queue) := by
    unfold placeHead
    rw [hhead]
    exact if_neg (by simp [hgoes, hco])
  rw [exec_groupPlace, execGroupPlace, hg]
  simp [hhead, hfirst, hplace]

end Turn

/-- A turn writes its queue's place in its class, and nothing else. -/
theorem turned_spec (s : State) (q : Nat) :
    queueOf (turned s q) q = { queueOf s q with turn := s.stamp } ∧ (∀ k, k ≠ q → queueOf (turned s q) k = queueOf s k)
      ∧ turned s q = { s with queues := (turned s q).queues, stamp := s.stamp + 1 } :=
  ⟨queueOf_putQueue_self _ q _, fun _ hk => queueOf_putQueue_ne _ _ hk, rfl⟩

/-- A placed group is `placedGroup` in one of two states: it waits for its banks, or it is resident and each of its slots holds a fresh
wave. -/
theorem groupOf_placeAt (s : State) (gi : Nat) (g : Grid) (core : Nat) (p : BankPlan) :
    ∃ st, groupOf (placeAt s gi g core p) s.nextGid = some { placedGroup s gi g core p with st := st }
      ∧ (p.toScratch ++ p.toFifo ≠ [] → st = .placing)
      ∧ (p.toScratch ++ p.toFifo = [] → st = .resident ∧ ∀ k ∈ takeSlots s core g.desc.groupWaves,
          ∃ w, Map.find (placeAt s gi g core p).waves k = some w ∧ Fresh s.nextGid g w) := by
  by_cases h : p.toScratch ++ p.toFifo = []
  · exact ⟨.resident, groupOf_placeAt_granted h, fun hne => absurd h hne, fun _ => ⟨rfl, fun k hk => find_placeAt_waves h hk⟩⟩
  · exact ⟨.placing, groupOf_placeAt_waits h, fun _ => rfl, fun he => absurd he h⟩

/-! ## The end of a bank's conversion (R151, R152) -/

@[simp] theorem running_emptyBank (s : State) (core : Nat) : running (emptyBank s core) = running s :=
  running_foldl _ _ (fun _ _ => by split_ifs <;> simp) s

@[simp] theorem emptyBank_mem (s : State) (core : Nat) : (emptyBank s core).mem = s.mem :=
  foldl_mem _ _ (fun _ _ => by split_ifs <;> simp) s

theorem unpopulated_grantGroups (s : State) : unpopulated (grantGroups s) = unpopulated s :=
  foldl_keeps unpopulated _ (fun t (e : Nat × Group) => grantGroup t e.1) (fun t e => unpopulated_grantGroup t e.1) s

/-- A group with a state keeps it while others start. -/
theorem groupOf_grantGroup_resident {s : State} {gid : Nat} (k : Nat) (h : (groupOf s gid).map (·.st) = some .resident) :
    (groupOf (grantGroup s k) gid).map (·.st) = some .resident := by
  by_cases hk : gid = k
  · subst hk
    obtain ⟨x, hx, hst⟩ := Option.map_eq_some_iff.1 h
    rw [grantGroup_waits hx (.inl (by rw [hst]; simp)), h]
  · rw [groupOf_grantGroup_ne s hk, h]

/-- A group that waits for nothing more is `RESIDENT` once those that wait for no bank have started. -/
theorem groupOf_foldl_grantGroup {gid : Nat} {x : Group} (hst : x.st = .placing) (hb : x.wantBanks = []) (l : List (Nat × Group)) (s : State)
    (h : (groupOf s gid).map (·.st) = some .resident
      ∨ groupOf s gid = some x ∧ (Map.find s.grids x.grid).isSome = true ∧ ∃ e ∈ l, e.1 = gid) :
    (groupOf (l.foldl (fun t e => grantGroup t e.1) s) gid).map (·.st) = some .resident := by
  induction l generalizing s with
  | nil => simpa using h
  | cons e rest ih =>
    refine ih (grantGroup s e.1) ?_
    rcases h with h | ⟨hx, hg, hmem⟩
    · exact .inl (groupOf_grantGroup_resident e.1 h)
    · by_cases he : gid = e.1
      · obtain ⟨g, hg⟩ := Option.isSome_iff_exists.1 hg
        rw [← he, groupOf_grantGroup_self hx hg hst hb]
        exact .inl rfl
      · refine .inr ⟨(groupOf_grantGroup_ne s he).trans hx, ?_, ?_⟩
        · rw [show (grantGroup s e.1).grids = s.grids by
            simpa [unpopulated] using congrArg State.grids (unpopulated_grantGroup s e.1)]
          exact hg
        · obtain ⟨e', he', hgid⟩ := hmem
          obtain rfl | he' := List.mem_cons.1 he'
          · exact absurd hgid.symm he
          · exact ⟨e', he', hgid⟩

theorem Map.mem_of_find {α : Type} {m : Map α} {k : Nat} {v : α} (h : Map.find m k = some v) : (k, v) ∈ m := by
  induction m with
  | nil => cases h
  | cons e rest ih =>
    obtain ⟨k', v'⟩ := e
    unfold Map.find at h
    split_ifs at h with hk
    · cases h; subst hk; exact List.mem_cons_self
    · exact List.mem_cons_of_mem _ (ih h)

theorem groupOf_grantGroups {s : State} {gid : Nat} {x : Group} (hx : groupOf s gid = some x) (hst : x.st = .placing) (hb : x.wantBanks = [])
    (hg : (Map.find s.grids x.grid).isSome = true) : (groupOf (grantGroups s) gid).map (·.st) = some .resident :=
  groupOf_foldl_grantGroup hst hb _ s
    (.inr ⟨hx, hg, (gid, x), List.mem_filter.2 ⟨Map.mem_of_find hx, by simp [hst, hb]⟩, rfl⟩)

/-- The state with the bank in its new mode, and no group of the core waiting for it. -/
def converted (s : State) (core bank : Nat) (m : BankMode) : State :=
  let b := bankOf (coreOf s core) bank
  let u := if b.mode = .cache then emptyBank s core else s
  let t := putCore u core (putBank (coreOf u core) bank { b with mode := m, change := none })
  { t with groups := Map.mapVals t.groups (fun _ g => if g.core == core then { g with wantBanks := g.wantBanks.filter (· != bank) } else g) }

section Conversion

variable {s : State} {core bank : Nat} {m : BankMode} (hm : (bankOf (coreOf s core) bank).change = some m)
include hm

theorem exec_bankConversionDone_changes :
    exec (.bankConversionDone core bank) s
      = .next (if conversionReady s core bank then grantGroups (converted s core bank m) else s) := by
  rw [exec_bankConversionDone, execBankConversionDone]
  simp only [hm]
  cases conversionReady s core bank <;> rfl

end Conversion

theorem conversionReady_iff (s : State) (core bank : Nat) : conversionReady s core bank = true ↔
    if (bankOf (coreOf s core) bank).mode = .cache then (leavingCache (coreOf s core)).head? = some bank ∧ 3 ≤ cacheBanks (coreOf s core)
    else ∀ g ∈ granulesOn s core, g.1 ≠ bank := by
  unfold conversionReady
  dsimp only
  split_ifs <;> simp

/-- A conversion writes the core's banks, what its groups wait for and, from CACHE, the lines of its L1. -/
theorem converted_spec (s : State) (core bank : Nat) (m : BankMode) : let t := converted s core bank m
    bankOf (coreOf t core) bank = { bankOf (coreOf s core) bank with mode := m, change := none }
      ∧ (∀ i, i ≠ bank → bankOf (coreOf t core) i = bankOf (coreOf s core) i) ∧ t.mem = s.mem ∧ t.grids = s.grids
      ∧ ((bankOf (coreOf s core) bank).mode ≠ .cache → t.coh = s.coh)
      ∧ t.groups = Map.mapVals s.groups (fun _ g => if g.core == core then { g with wantBanks := g.wantBanks.filter (· != bank) } else g) := by
  generalize hu : (if (bankOf (coreOf s core) bank).mode = .cache then emptyBank s core else s) = u
  have hrun : running u = running s := by rw [← hu]; split_ifs <;> simp
  have hmem : u.mem = s.mem := by rw [← hu]; split_ifs <;> simp
  have hcores : u.cores = s.cores := by simpa [running] using congrArg State.cores hrun
  have hgroups : u.groups = s.groups := by simpa [running] using congrArg State.groups hrun
  have hgrids : u.grids = s.grids := by simpa [running] using congrArg State.grids hrun
  have hcore : coreOf u core = coreOf s core := by rw [coreOf, hcores, ← coreOf]
  have hself : coreOf (converted s core bank m) core
      = putBank (coreOf u core) bank { bankOf (coreOf s core) bank with mode := m, change := none } := by
    rw [← hu]
    exact Tab.get_set_self Core.init _ _ _
  rw [hcore] at hself
  refine ⟨?_, fun i hi => ?_, ?_, ?_, fun hne => ?_, ?_⟩
  · rw [hself]; exact Tab.get_set_self _ _ _ _
  · rw [hself]; exact Tab.get_set_ne _ _ _ hi
  · simp only [converted, hu]; exact hmem
  · simp only [converted, hu]; exact hgrids
  · simp only [converted, if_neg hne]; rfl
  · simp only [converted, hu, putCore_groups, hgroups]

/-- A conversion that ends starts the groups that waited for its bank alone. -/
theorem grantGroups_converted {s : State} {core bank gid : Nat} (m : BankMode) {x : Group} (hx : groupOf s gid = some x)
    (hcore : x.core = core) (hst : x.st = .placing) (hb : ∀ i ∈ x.wantBanks, i = bank) (hg : (Map.find s.grids x.grid).isSome = true) :
    (groupOf (grantGroups (converted s core bank m)) gid).map (·.st) = some .resident := by
  obtain ⟨-, -, -, hgrids, -, hgroups⟩ := converted_spec s core bank m
  have hx' : groupOf (converted s core bank m) gid = some { x with wantBanks := x.wantBanks.filter (· != bank) } := by
    rw [groupOf, hgroups, Map.find_mapVals, ← groupOf, hx]
    simp [hcore]
  exact groupOf_grantGroups hx' hst (by simpa using hb) (by rw [hgrids]; exact hg)

/-- The start of groups leaves the cores, memory and the coherence record. -/
theorem grantGroups_rest (s : State) :
    (grantGroups s).cores = s.cores ∧ (grantGroups s).mem = s.mem ∧ (grantGroups s).coh = s.coh := by
  have h := unpopulated_grantGroups s
  generalize grantGroups s = t at h ⊢
  simp only [unpopulated, State.mk.injEq] at h
  simp_all

end Sys2Proof.Machine
end

section
/-! PROOFS. The release of a group's resources (R121, R139, R146, R147). -/

namespace Sys2Proof.Machine

/-! ## Task records and grids keep the groups (R139) -/

@[simp] theorem groups_putNum (s : State) (key n x : Nat) : (putNum s key n x).groups = s.groups := by
  simpa [running] using congrArg State.groups (running_putNum s key n x)

theorem groups_devWrite {s t : State} {ctx : Nat} {priv : Priv} {va n x : Nat} (h : devWrite s ctx priv va n x = some t) :
    t.groups = s.groups := by
  obtain ⟨k, -, rfl⟩ := Option.map_eq_some_iff.1 h
  exact groups_putNum s k n x

@[simp] theorem groups_logError (s : State) (ctx code unit core wave addr detail : Nat) :
    (logError s ctx code unit core wave addr detail).groups = s.groups := by
  unfold logError
  cases ctxOf s ctx with
  | none => rfl
  | some c =>
    dsimp only
    split
    · split_ifs
      · simp
      · split <;> simp
    · rfl

@[simp] theorem groups_readyAppend (s : State) (q ctx prio va : Nat) : (readyAppend s q ctx prio va).groups = s.groups := by
  unfold readyAppend
  dsimp only
  split
  · rfl
  · rw [putQueue_groups]
    split
    · exact groups_devWrite ‹_›
    · rfl

@[simp] theorem groups_queueReady (s : State) (q : Nat) : (queueReady s q).groups = s.groups := rfl

@[simp] theorem groups_taskPlace (s : State) (ctx va key : Nat) : (taskPlace s ctx va key).groups = s.groups := by
  unfold taskPlace
  dsimp only
  split_ifs <;> simp

@[simp] theorem groups_taskDec (s : State) (ctx va key : Nat) : (taskDec s ctx va key).1.groups = s.groups := by
  unfold taskDec
  dsimp only
  split_ifs <;> simp

@[simp] theorem groups_taskSucc (s : State) (ctx va succ : Nat) : (taskSucc s ctx va succ).groups = s.groups := by
  unfold taskSucc
  split_ifs
  · rfl
  · split <;> simp
  · simp

@[simp] theorem groups_taskRetire (s : State) (ctx va n : Nat) (killed : Bool) : (taskRetire s ctx va n killed).1.groups = s.groups := by
  unfold taskRetire
  cases taskKey s ctx va with
  | none => rfl
  | some k =>
    dsimp only
    split_ifs <;> simp

@[simp] theorem groups_queueIdle (s : State) (q : Nat) : (queueIdle s q).groups = s.groups := by
  obtain ⟨l, h⟩ := queueIdle_frame s q
  rw [h]

@[simp] theorem groups_gridSettle (s : State) (gi : Nat) : (gridSettle s gi).groups = s.groups := by
  unfold gridSettle
  cases Map.find s.grids gi with
  | none => rfl
  | some g =>
    dsimp only
    split
    · cases g.src with
      | packet q i => rfl
      | task q va =>
        dsimp only
        rw [groups_queueIdle]
        split_ifs <;> simp
    · rfl

@[simp] theorem groups_gridNote (s : State) (gi n : Nat) (killed : Bool) : (gridNote s gi n killed).groups = s.groups := by
  unfold gridNote
  cases Map.find s.grids gi with
  | none => rfl
  | some g =>
    dsimp only
    cases g.src with
    | packet q i => rfl
    | task q va =>
      dsimp only
      split_ifs <;> simp [endGrid]

@[simp] theorem groups_gridCount (s : State) (gi : Nat) (tray killed : Bool) : (gridCount s gi tray killed).groups = s.groups := by
  unfold gridCount
  cases Map.find s.grids gi with
  | none => rfl
  | some g =>
    dsimp only
    split_ifs <;> simp

/-! ## Trays, banks and contexts keep the groups (R111, R151, R231) -/

@[simp] theorem groups_releaseTrays (fuel : Nat) (s : State) (core gi : Nat) : (releaseTrays fuel s core gi).groups = s.groups := by
  induction fuel generalizing s with
  | zero => rfl
  | succ fuel ih =>
    unfold releaseTrays
    dsimp only
    split_ifs
    · rfl
    · cases oldestFilling (coreOf s core) gi with
      | none => rfl
      | some t => exact ih _

@[simp] theorem groups_gridDrain (s : State) (core gi : Nat) : (gridDrain s core gi).groups = s.groups := by
  unfold gridDrain
  split_ifs <;> rfl

@[simp] theorem groups_revertBanks (s : State) (core : Nat) (banks : List Nat) : (revertBanks s core banks).groups = s.groups := rfl

@[simp] theorem groups_ctxRests (s : State) (ctx : Nat) : (ctxRests s ctx).groups = s.groups := by
  unfold ctxRests
  cases ctxOf s ctx with
  | none => rfl
  | some c =>
    dsimp only
    split_ifs <;> rfl

/-! ## A released group (R147) -/

/-- A group with nothing left: it is in its final state and holds no place. -/
def Released (st : GroupSt) (y : Group) : Prop :=
  y.st = st ∧ y.slots = [] ∧ y.scratchGran = [] ∧ y.fifoGran = [] ∧ y.msgs = [] ∧ y.barriers = [] ∧ y.live = 0

theorem released_of_modGroup {s : State} {gid : Nat} {f : Group → Group} {st : GroupSt} {y : Group}
    (hy : groupOf (modGroup s gid f) gid = some y) (hf : ∀ x, Released st (f x)) : Released st y := by
  rw [groupOf, modGroup, Map.find_modify, if_pos rfl] at hy
  obtain ⟨x, -, rfl⟩ := Option.map_eq_some_iff.1 hy
  exact hf x

theorem released_releaseGroup {s : State} {gid : Nat} {st : GroupSt} {y : Group} (hy : groupOf (releaseGroup s gid st) gid = some y) :
    Released st y := by
  unfold releaseGroup at hy
  cases hx : groupOf s gid with
  | none => rw [hx] at hy; exact absurd (hx.symm.trans hy) (by simp)
  | some x =>
    rw [hx] at hy
    dsimp only at hy
    rw [groupOf, groups_ctxRests, groups_gridCount, groups_gridDrain, groups_revertBanks, apply_ite State.groups, groups_releaseTrays,
      ite_self] at hy
    exact released_of_modGroup hy fun _ => ⟨rfl, rfl, rfl, rfl, rfl, rfl, rfl⟩

section Settling

variable {s : State} {gid : Nat} {x : Group} (hx : groupOf s gid = some x)
include hx

theorem exec_groupSettled_partial (h : ∃ p ∈ s.partials, p.gid = gid) : exec (.groupSettled gid) s = .next s := by
  rw [exec_groupSettled, execGroupSettled, hx]
  exact if_pos (.inr (by simpa using h))

theorem exec_groupSettled_arrived (hst : x.st = .draining) (h : ∀ p ∈ s.partials, p.gid ≠ gid) :
    exec (.groupSettled gid) s
      = .next (if (settlePush s x).2 then (settlePush s x).1 else releaseGroup (settlePush s x).1 gid .retired) := by
  rw [exec_groupSettled, execGroupSettled, hx]
  refine (if_neg ?_).trans ?_
  · simpa [hst] using h
  · obtain ⟨t, _ | _⟩ := settlePush s x <;> rfl

end Settling

end Sys2Proof.Machine
end

section
/-! PROOFS. Saved groups come back (R126, R127, R146, R158, R246, R361). -/

namespace Sys2Proof.Machine

/-! ## The rebuilt group (R146, R158) -/

/-- What no step of a group's return writes but the entry of the group itself: groups, queues, memory and the placement pointer. -/
def ledger (s : State) : Map Group × Map Queue × List Host.Cell × Nat := (s.groups, s.queues, s.mem, s.placeP)

@[simp] theorem ledger_putCore (s : State) (core : Nat) (c : Core) : ledger (putCore s core c) = ledger s := rfl

@[simp] theorem ledger_emptyBank (s : State) (core : Nat) : ledger (emptyBank s core) = ledger s := by
  have h := running_emptyBank s core
  have hmem := emptyBank_mem s core
  generalize emptyBank s core = t at h hmem ⊢
  simp only [running, State.mk.injEq] at h
  simp [ledger, h, hmem]

theorem ledger_moveUnits (gid : Nat) (slots : List Nat) (l : List (Nat × Nat)) (s : State) :
    ledger (l.foldl (moveUnits gid slots) s) = ledger s := foldl_keeps ledger l (moveUnits gid slots) (fun _ _ => rfl) s

theorem ledger_putWaves {β : Type} (l : List β) (wave : β → Wave) (s : State) :
    ledger (l.foldl (fun t b => putWave t (wave b)) s) = ledger s :=
  foldl_keeps ledger l (fun t b => putWave t (wave b)) (fun _ _ => rfl) s

@[simp] theorem ledger_putTrays (s : State) (core : Nat) (l : List (Nat × Tray)) : ledger (putTrays s core l) = ledger s := by
  unfold putTrays
  refine foldl_keeps ledger l _ (fun t e => ?_) s
  dsimp only
  split <;> rfl

@[simp] theorem ledger_restoreClaims (s : State) (gid : Nat) (slots : List Nat) : ledger (restoreClaims s gid slots) = ledger s := rfl

/-- A group without its barriers, which alone a restore's phases write. -/
def sansBarriers (s : State) (gid : Nat) : Option Group := (groupOf s gid).map (fun g => { g with barriers := [] })

theorem sansBarriers_phaseDone (s : State) (gid n : Nat) (b : Barrier) : sansBarriers (phaseDone s gid n b) gid = sansBarriers s gid := by
  have h : groupOf (phaseDone s gid n b) gid
      = (groupOf s gid).map (fun g => putBarrier g n { b with phase := b.phase + 1, arrived := 0, waiters := 0 }) :=
    (Map.find_modify _ _ _ _).trans (if_pos rfl)
  rw [sansBarriers, h, Option.map_map]
  rfl

theorem restorePhases_keeps (s : State) (gid : Nat) :
    sansBarriers (restorePhases s gid) gid = sansBarriers s gid ∧ (ledger (restorePhases s gid)).2 = (ledger s).2 := by
  refine Prod.mk.inj (foldl_keeps (fun t => (sansBarriers t gid, (ledger t).2)) _ _ (fun t n => ?_) s)
  dsimp only
  split
  · rfl
  · split_ifs
    · rw [sansBarriers_phaseDone]; rfl
    · rfl

/-- What a rebuilt group has of its place, of the saved group and of the messages sent to it meanwhile. -/
def Rebuilt (x : Saved) (core : Nat) (p : BankPlan) (held y : Group) : Prop :=
  y.st = .resident ∧ y.core = core ∧ y.scratchGran = p.scratch ∧ y.fifoGran = p.fifo ∧ y.scratch = x.group.scratch ∧ y.msgs = held.msgs

theorem rebuilt_of_sansBarriers {x : Saved} {core : Nat} {p : BankPlan} {held y z : Group} (hz : Rebuilt x core p held z)
    (h : { y with barriers := [] } = { z with barriers := [] }) : Rebuilt x core p held y := by
  simp only [Group.mk.injEq] at h
  simp_all [Rebuilt]

/-- The phases that a restore completes leave the group that it put but for its barriers, and the rest of the ledger. -/
theorem restorePhases_of_ledger {u v : State} {gid : Nat} {z : Group} (h : ledger u = ledger (putGroup v gid z)) :
    (∃ y, groupOf (restorePhases u gid) gid = some y ∧ { y with barriers := [] } = { z with barriers := [] })
      ∧ (ledger (restorePhases u gid)).2 = (ledger v).2 := by
  obtain ⟨hgroup, hrest⟩ := restorePhases_keeps u gid
  have hgroups : u.groups = (putGroup v gid z).groups := congrArg Prod.fst h
  have hu : groupOf u gid = some z := by rw [groupOf, hgroups, putGroup_groups, Map.find_insert_self]
  rw [sansBarriers, sansBarriers, hu] at hgroup
  exact ⟨Option.map_eq_some_iff.1 hgroup, hrest.trans (congrArg Prod.snd h :)⟩

/-- A group rebuilt on a core; queues, memory and the placement pointer stay. -/
theorem restoreAt_spec (s : State) (x : Saved) (core : Nat) (p : BankPlan) :
    (∃ y, groupOf (restoreAt s x core p) x.gid = some y ∧ Rebuilt x core p ((groupOf s x.gid).getD x.group) y)
      ∧ (ledger (restoreAt s x core p)).2 = (ledger s).2 := by
  unfold restoreAt
  dsimp only
  generalize hbanks : putCore _ core _ = v
  have hv : ledger v = ledger s := by
    rw [← hbanks, ledger_putCore]
    split_ifs <;> simp [convertBanks]
  generalize hgroup : Group.mk .. = z
  have hz : Rebuilt x core p ((groupOf s x.gid).getD x.group) z := by
    rw [← hgroup]
    exact ⟨rfl, rfl, rfl, rfl, rfl, rfl⟩
  generalize hmoved : restoreClaims _ x.gid _ = u
  have hu : ledger u = ledger (putGroup v x.gid z) := by
    rw [← hmoved, ledger_restoreClaims, ledger_putTrays, ledger_putWaves, ledger_moveUnits]
  obtain ⟨⟨y, hy, hyz⟩, hrest⟩ := restorePhases_of_ledger hu
  exact ⟨⟨y, hy, rebuilt_of_sansBarriers hz hyz⟩, hrest.trans (congrArg Prod.snd hv)⟩

/-! ## The end of a return (R127, R146) -/

@[simp] theorem slideLoad_gid (s : State) (q : Nat) (x : Saved) : (slideLoad s q x).gid = x.gid := by
  unfold slideLoad
  split <;> rfl

theorem running_slidePut (s : State) (q off x n : Nat) : running (slidePut s q off x n) = running s := by
  induction n generalizing s off x with
  | zero => rfl
  | succ n ih =>
    unfold slidePut
    dsimp only
    rw [ih]
    split
    next k c _ _ => exact running_putNum s k 128 (x % 2 ^ 1024)
    next => rfl

/-- A queue's darkslide once some of its groups are left. -/
def slideOf (d : Darkslide) (rest : List Saved) : Darkslide := if rest = [] then Darkslide.none else { d with groups := rest }

/-- The darkslide without the group that came back; the header of one without a group is written. -/
def slideLeft (s t : State) (q : Nat) (rest : List Saved) : State :=
  let u := putQueue t q { queueOf t q with slides := slideOf (queueOf s q).slides rest }
  if rest = [] then slidePut u q 0 (slideHeader { (queueOf s q).slides with valid := false }) 32 else u

/-- The state with a saved group back on a core. -/
def broughtBack (s : State) (q : Nat) (y : Saved) (c : Nat) (p : BankPlan) : State :=
  let v := slideLeft s (restoreAt s (slideLoad s q y) c p) q ((queueOf s q).slides.groups.filter (fun z => z.gid != y.gid))
  ctxRuns (if y.group.fifoBytes = 0 then { v with placeP := c } else v) (queueOf s q).ctxId

theorem running_slideLeft (s t : State) (q : Nat) (rest : List Saved) : running (slideLeft s t q rest)
    = running (putQueue t q { queueOf t q with slides := slideOf (queueOf s q).slides rest }) := by
  unfold slideLeft
  dsimp only
  split
  · exact running_slidePut _ _ _ _ _
  · rfl

/-- The darkslide goes on without the group that came back; all else stays but memory, which a header alone writes. -/
theorem slideLeft_spec (s t : State) (q : Nat) (rest : List Saved) : let v := slideLeft s t q rest
    (queueOf v q).slides = slideOf (queueOf s q).slides rest ∧ (∀ j, j ≠ q → queueOf v j = queueOf t j) ∧ v.groups = t.groups
      ∧ v.placeP = t.placeP ∧ (rest ≠ [] → v.mem = t.mem) := by
  have h := running_slideLeft s t q rest
  have hmem (hrest : rest ≠ []) : (slideLeft s t q rest).mem = t.mem := by
    unfold slideLeft
    rw [if_neg hrest]
    rfl
  have hqueues : (slideLeft s t q rest).queues = (putQueue t q { queueOf t q with slides := slideOf (queueOf s q).slides rest }).queues := by
    simpa [running] using congrArg State.queues h
  have hqueue (j : Nat) : queueOf (slideLeft s t q rest) j
      = queueOf (putQueue t q { queueOf t q with slides := slideOf (queueOf s q).slides rest }) j := by
    rw [queueOf, hqueues, ← queueOf]
  refine ⟨?_, fun j hj => ?_, ?_, ?_, hmem⟩
  · rw [hqueue, queueOf_putQueue_self]
  · rw [hqueue, queueOf_putQueue_ne _ _ hj]
  · simpa [running] using congrArg State.groups h
  · simpa [running] using congrArg State.placeP h

/-- A group that came back is rebuilt and its queue's darkslide goes on without it; a group without a FIFO moves the placement pointer. -/
theorem broughtBack_spec (s : State) (q : Nat) (y : Saved) (c : Nat) (p : BankPlan) : let v := broughtBack s q y c p
    let rest := (queueOf s q).slides.groups.filter (fun z => z.gid != y.gid)
    (∃ x, groupOf v y.gid = some x ∧ Rebuilt (slideLoad s q y) c p ((groupOf s y.gid).getD (slideLoad s q y).group) x)
      ∧ (queueOf v q).slides = slideOf (queueOf s q).slides rest ∧ (∀ j, j ≠ q → queueOf v j = queueOf s j)
      ∧ v.placeP = (if y.group.fifoBytes = 0 then c else s.placeP) ∧ (rest ≠ [] → v.mem = s.mem) := by
  obtain ⟨⟨x, hx, hbuilt⟩, hledger⟩ := restoreAt_spec s (slideLoad s q y) c p
  rw [slideLoad_gid] at hx hbuilt
  obtain ⟨hqueues, hmem, hplace⟩ : (restoreAt s (slideLoad s q y) c p).queues = s.queues ∧ (restoreAt s (slideLoad s q y) c p).mem = s.mem
      ∧ (restoreAt s (slideLoad s q y) c p).placeP = s.placeP := by
    simpa [ledger] using hledger
  have hleft := slideLeft_spec s (restoreAt s (slideLoad s q y) c p) q ((queueOf s q).slides.groups.filter (fun z => z.gid != y.gid))
  unfold broughtBack
  dsimp only
  generalize restoreAt s (slideLoad s q y) c p = t at *
  generalize (queueOf s q).slides.groups.filter (fun z => z.gid != y.gid) = rest at *
  generalize slideLeft s t q rest = v at *
  obtain ⟨hslides, hothers, hgroups, hpointer, hbytes⟩ := hleft
  have hpoint : (if y.group.fifoBytes = 0 then { v with placeP := c } else v)
      = { v with placeP := if y.group.fifoBytes = 0 then c else v.placeP } := by split_ifs <;> rfl
  rw [hpoint, hpointer, hplace]
  exact ⟨⟨x, (congrArg (Map.find · y.gid) hgroups).trans hx, hbuilt⟩, hslides,
    fun j hj => (hothers j hj).trans (congrArg (Tab.get Queue.init · j) hqueues), rfl, fun hrest => (hbytes hrest).trans hmem⟩

theorem restoreGroup_first {s : State} {q : Nat} {y : Saved} {d : KDesc} {l1 l2 : List Nat} {c : Nat} {p : BankPlan}
    (hcores : restoreCores s y.group = l1 ++ c :: l2) (hbefore : ∀ k ∈ l1, restoreFits s y d k = none)
    (hfits : restoreFits s y d c = some p) : restoreGroup s q y d = .next (broughtBack s q y c p) := by
  unfold restoreGroup
  rw [hcores, findSome?_first (y := (c, p)) (fun k hk => by rw [hbefore k hk]; rfl) (by rw [hfits]; rfl)]
  rfl

theorem restoreGroup_nowhere {s : State} {q : Nat} {y : Saved} {d : KDesc} (h : ∀ c ∈ restoreCores s y.group, restoreFits s y d c = none) :
    restoreGroup s q y d = .next s := by
  unfold restoreGroup
  rw [List.findSome?_eq_none_iff.2 fun k hk => by rw [h k hk]; rfl]

theorem exec_groupRestore_active {s : State} {gid q : Nat} {e : Group} {y : Saved} {d : KDesc} (he : groupOf s gid = some e)
    (hq : groupQueue s e = some q) (hst : (queueOf s q).st = .active) (hvalid : (queueOf s q).slides.valid = true)
    (hy : (queueOf s q).slides.groups.find? (fun z => z.gid == gid) = some y) (hd : descOf s e.grid = some d) :
    exec (.groupRestore gid) s = if groupOk s q y then restoreGroup s q y d else .next (slideFail s q) := by
  rw [exec_groupRestore, execGroupRestore, he]
  simp [hq, hst, hvalid, hy, hd]

end Sys2Proof.Machine
end

section
/-! PROOFS. Groups are placed, start, retire and come back (O46). -/

namespace Sys2Proof.Machine

/-- Settles O46: the placed group is `placedGroup`, a converted bank lets the groups start that waited
for it alone, a released group keeps nothing, and a restore rebuilds a group under its own number. -/
theorem groupsPlacedAndRestored : Obligations.GroupsPlacedAndRestored := by
  unfold Obligations.GroupsPlacedAndRestored
  refine ⟨⟨?place, ?bank, ?settle⟩, ?restore⟩
  case place =>
    intro s gi g hg hhead
    refine ⟨exec_groupPlace_held hg hhead, fun hfirst hgoes hco => ?_⟩
    have hexec := exec_groupPlace_turn hg hhead hfirst hgoes hco
    intro turns
    refine ⟨?_, fun hcor hnext u hu => ?_, fun hcor hnext hu => ?_⟩
    · intro hnot l1 l2 c p hnext hring hslide hwalk hbefore hfits
      have hun : ¬unadmitted g := by
        rcases hnot with h | h <;> simp [unadmitted, h]
      rw [if_neg hun, placeNext_first hg hnext hring hslide hwalk hbefore hfits, Option.map_some, Option.getD_some] at hexec
      obtain ⟨hp, hgrid, hgid, hmem, hqueues, hstamp⟩ := placeAt_rest s gi g c p
      obtain ⟨st, hx, hwaits, hgranted⟩ := groupOf_placeAt s gi g c p
      obtain ⟨hself, hothers, hrest⟩ := turned_spec (placeAt s gi g c p) g.queue
      have hq (k : Nat) : queueOf (placeAt s gi g c p) k = queueOf s k := by rw [queueOf, hqueues, ← queueOf]
      refine ⟨_, _, hexec, hx, rfl, rfl, rfl, rfl, rfl, rfl, rfl, rfl, rfl, rfl, hp, hgrid, hgid, hmem,
        ⟨by rw [hself, hq, hstamp], fun q hne => by rw [hothers q hne, hq], by rw [hrest, hstamp]⟩, hwaits, fun h => ?_⟩
      obtain ⟨hst, hwaves⟩ := hgranted h
      refine ⟨hst, fun k hk => ?_⟩
      obtain ⟨w, hw, f, hf⟩ := hwaves k hk
      exact ⟨w, f, hw, hf⟩
    · rw [if_pos (by simp [unadmitted, hcor, hnext]), hu, Option.map_some, Option.getD_some] at hexec
      obtain ⟨hself, hothers, hrest⟩ := turned_spec u g.queue
      exact ⟨_, hexec, hrest, hself, hothers⟩
    · rw [if_pos (by simp [unadmitted, hcor, hnext]), hu] at hexec
      exact hexec
  case bank =>
    intro s core bank m b can hm
    have hexec := exec_bankConversionDone_changes hm
    refine ⟨fun hcan => ?_, fun hcan => ?_⟩
    · rw [if_pos ((conversionReady_iff s core bank).2 hcan)] at hexec
      obtain ⟨hself, hothers, hmem, -, hcoh, -⟩ := converted_spec s core bank m
      obtain ⟨tcores, tmem, tcoh⟩ := grantGroups_rest (converted s core bank m)
      have hcore : coreOf (grantGroups (converted s core bank m)) core = coreOf (converted s core bank m) core := by
        rw [coreOf, tcores, ← coreOf]
      exact ⟨_, hexec, by rw [hcore]; exact hself, fun i hi => by rw [hcore]; exact hothers i hi, tmem.trans hmem,
        fun hne => tcoh.trans (hcoh hne), fun gid x hx hxcore hst hb hg => grantGroups_converted m hx hxcore hst hb hg⟩
    · rw [hexec, if_neg fun h => hcan ((conversionReady_iff s core bank).1 h)]
  case settle =>
    intro s gid x hx hst
    refine ⟨exec_groupSettled_partial hx, fun hp u hu => ?_, fun hp hpush => ?_⟩
    · rw [exec_groupSettled_arrived hx hst hp, hu, if_pos rfl]
    · refine ⟨_, exec_groupSettled_arrived hx hst hp, fun y hy => ?_⟩
      rw [if_neg (by simp [hpush])] at hy
      exact released_releaseGroup hy
  case restore =>
    intro s gid e q y d he hq hst hvalid hy hd
    have hexec := exec_groupRestore_active he hq hst hvalid hy hd
    obtain rfl : y.gid = gid := by simpa using List.find?_some hy
    refine ⟨fun hok => ⟨fun l1 l2 c p hcores hbefore hfits => ?_, fun hnone => ?_⟩, fun hok => ?_⟩
    · rw [if_pos hok, restoreGroup_first hcores hbefore hfits] at hexec
      intro rest
      obtain ⟨⟨x, hx, xst, xcore, xscratch, xfifo, xbytes, xmsgs⟩, hslides, hothers, hplace, hmem⟩ := broughtBack_spec s q y c p
      rw [he] at xmsgs
      exact ⟨_, x, hexec, hx, xst, xcore, xscratch, xfifo, xbytes, xmsgs, fun h => by rw [hplace, if_pos h],
        fun h => by rw [hplace, if_neg h], hslides, hothers, hmem⟩
    · rw [hexec, if_pos hok, restoreGroup_nowhere hnone]
    · rw [hexec, if_neg (by simp [hok])]

end Sys2Proof.Machine
end

section
/-! PROOFS. Task words: a record in a halo line, one of whose pushes commits between two writes of the record (R139, R143, R272, R287). -/

namespace Sys2Proof.Machine

/-! ## Transactions of a line, taken from the front (R272) -/

/-- The first message is of the line and can be delivered: it is the one that goes. -/
theorem quiesce_front {s t : State} {line : Nat} {m : Msg} {rest : List Msg} (hmsgs : s.coh.msgs = m :: rest) (hline : m.line = line)
    (h : deliver false s 0 = some t) (fuel : Nat) : quiesce (fuel + 1) s line = quiesce fuel t line := by
  have hnext : (List.range s.coh.msgs.length).findSome? (fun k =>
      if (s.coh.msgs[k]?).map (·.line) = some line then deliver false s k else none) = some t := by
    rw [hmsgs, List.length_cons, List.range_succ_eq_map, List.findSome?_cons]
    simp [hline, h]
  rw [quiesce, hnext]

/-- Commits of a push to a replica that holds nothing pending are taken one by one, and nothing else changes. -/
theorem quiesce_hCommits {line : Nat} {m : Msg} {l : L1Line} (hk : m.k = .hCommit) (hline : m.line = line) (hdst : m.dst ≠ homeId)
    (hpend : l.pend = false) (rest : List Msg) (fuel n : Nat) (s : State) (hfind : l1Of s m.dst line = some l)
    (hsame : Map.insert s.coh.l1 (l1Key m.dst line) l = s.coh.l1) (hmsgs : s.coh.msgs = List.replicate n m ++ rest) :
    quiesce (n + fuel) s line = quiesce fuel { s with coh := { s.coh with msgs := rest } } line := by
  induction n generalizing s with
  | zero => rw [Nat.zero_add, ← show s.coh.msgs = rest from hmsgs]
  | succ n ih =>
    have hcons : s.coh.msgs = m :: (List.replicate n m ++ rest) := hmsgs
    have hkept : { l with pend := false } = l := by rw [← hpend]
    have htaken : deliver false s 0 = some { s with coh := { s.coh with msgs := List.replicate n m ++ rest } } := by
      subst hline
      have hfind' : l1Of { s with coh := { s.coh with msgs := List.replicate n m ++ rest } } m.dst m.line = some l := hfind
      simp [deliver, hcons, hdst, atL1, hfind', hk, setL1, hkept, hsame]
    rw [Nat.add_right_comm, quiesce_front hcons hline htaken]
    exact ih _ hfind hsame rfl

/-! ## Words that start a task (R139, R143) -/

@[simp] theorem running_taskOpen (s : State) (key q h : Nat) : running (taskOpen s key q h) = running s := by simp [taskOpen]

theorem issues_of_running {s t : State} {w : Wave} {f : Frag} (h : running t = running s) (hI : Issues s w f) : Issues t w f := by
  have hwaves : t.waves = s.waves := by simpa [running] using congrArg State.waves h
  simpa only [Issues, waveAt, hwaves, cur_of_running h] using hI

/-- `TSPAWN` of a record of no task in hand, with a counter above 0, leaves the record open and answers 0. -/
theorem tspawn_opens {s t u : State} {w : Wave} {f : Frag} {d a : SReg} {k0 key q h : Nat} (hI : Issues s w f)
    (hal : (rdP w a.toNat).toNat % 64 = 0)
    (hread : access s w.core w.slot (ctxIdOf s w.gid) w.priv (rdP w a.toNat).toNat 64 .read false = (t, .ok k0))
    (hvalid : taskValid (ofBytes (loadBytes t w.core k0 64)) = true)
    (hupdate : access t w.core w.slot (ctxIdOf s w.gid) w.priv (rdP w a.toNat).toNat 8 .update false = (u, .ok key))
    (hqueue : ((gridOf u w.gid).map (·.queue)).getD 0 = q) (hheader : readNum u.mem key 8 = h)
    (hstate : ¬ (1 ≤ bits h 34 32 ∧ bits h 34 32 ≤ 3)) (hcount : bits h 31 0 ≠ 0) :
    ScalarDoneAt (.tspawn d a) s (taskOpen u key q h) w f (setReg w d.toNat 0) (rdM w f) f.flags (f.pc + 4) := by
  have hrun : running (taskOpen u key q h) = running s :=
    calc running (taskOpen u key q h) = running u := running_taskOpen ..
      _ = running t := by rw [← running_access t w.core w.slot (ctxIdOf s w.gid), hupdate]
      _ = running s := by rw [← running_access s w.core w.slot (ctxIdOf s w.gid), hread]
  have hspawn : taskSpawn u (ctxIdOf u w.gid) (rdP w a.toNat).toNat key q false = (taskOpen u key q h, 0) := by
    subst hheader
    exact (if_neg hstate).trans (if_neg (by simpa using hcount))
  have hex : exec (.tspawn d a) s = actedWith (taskOpen u key q h) (fun v => wrS v d.toNat 0) := by
    rw [← access_ctxIdOf hread] at hupdate
    rw [exec_tspawn, execTspawn, spawnWord, onTask, onFrag_issues hI]
    refine (if_neg (not_not.2 hal)).trans ((sAccess_ok f _ hread).trans ?_)
    refine (if_neg (by simp [hvalid])).trans ((sAccess_ok f _ hupdate).trans ?_)
    simp only [hqueue, hspawn]
    rfl
  rw [actedWith, onFrag_issues (issues_of_running hrun hI)] at hex
  exact goTo_scalarDoneAt hex (cur_of_running hrun) (by rw [wrS_eq]; rfl) (rdS_wrS w d.toNat · 0) (rdM_wrS w f d.toNat · 0)

/-- A pair by its second part. -/
theorem eq_mk_of_snd {α β : Type} {p : α × β} {b : β} (h : p.2 = b) : p = (p.1, b) := by rw [← h]

/-- Two answers of one word to one state have the same memory. -/
theorem mem_of_scalarDoneAt {i : Instr} {s t u : State} {w : Wave} {f : Frag} {r m r' m' : Nat → Word} {g g' : Flags} {pc pc' : DWord}
    {v : Wave} {h : Frag}
    (ht : ScalarDoneAt i s t w f r m g pc) (hu : ScalarDoneAt i s u v h r' m' g' pc') : t.mem = u.mem := by
  obtain ⟨x, hx, -⟩ := ht
  obtain ⟨y, hy, -⟩ := hu
  have heq : putWave t x = putWave u y := Host.Outcome.next.inj (hx.symm.trans hy)
  simpa using congrArg State.mem heq

/-! ## A record in core 0's halo line, with two pushes of the line under way -/

namespace LateCommit

/-- The line of the halo region, and the address of its first byte, where the record lies. -/
def line : Nat := 0x20080

/-- A task record of one group in state 0, with a counter of 1. -/
def record : Nat := 1 + 2 ^ 192 + 2 ^ 224 + 2 ^ 240

/-- The last answer to core 0's push. -/
def ack : Msg := { toHome .hAck line 5 with reqr := 0 }

/-- Core 5's push, on its way to core 0. -/
def push : Msg := haloMsg .hPush line 0 5

/-- The answer that core 0 gives to it. -/
def lateAck : Msg := { toHome .hAck line 0 with reqr := 5 }

/-- The commit of core 0's push, as a listed replica is told of it. -/
def commit : Msg := haloMsg .hCommit line 5 0

/-- Core 0 owns the line, and the table of L1 lines lists core 5's replica of it `n` times. Core 0 and core 5 have each pushed zeros. -/
def racing (n : Nat) : Coh :=
  { State.reset.coh with
    l1 := (l1Key 0 line, L1Line.at .m) :: List.replicate n (l1Key 5 line, L1Line.at .s)
    msgs := [ack, push], pushes := [(line, 0, 1, 0), (line, 5, 1, 0)] }

/-- The same once core 0's push has committed. -/
def committed (n : Nat) : Coh := { racing n with msgs := push :: List.replicate n commit, pushes := [(line, 5, 1, 0)] }

/-- The same once core 0 holds the bytes of core 5's push, with the messages that are left. -/
def answered (n : Nat) (l : List Msg) : Coh :=
  { committed n with
    l1 := (l1Key 0 line, { L1Line.at .m with pend := true }) :: List.replicate n (l1Key 5 line, L1Line.at .s), msgs := l }

/-- Core 0's push commits: its zeros reach the home, and a message goes to every listed replica. -/
theorem commitPush_racing {s : State} (hframe : frameOfPage s (line / 65536) = none) (hclock : s.clock = 0) (n : Nat) :
    commitPush { s with coh := { racing n with msgs := [push], pushes := [(line, 0, 0, 0), (line, 5, 1, 0)] } } 0
    = { s with mem := writeMem s.mem line (toBytes 128 0), coh := committed n } := by
  generalize ht : ({ s with coh := { racing n with msgs := [push], pushes := [(line, 0, 0, 0), (line, 5, 1, 0)] } } : State) = t
  have hreplicas : replicaCores t 0 line = List.replicate n 5 := by rw [← ht]; simp [replicaCores, racing, l1Key, line]
  have hclean : frameDirty t line = t := by
    have hnone : frameOfPage t (line / 65536) = none := by rw [← ht]; exact hframe
    rw [frameDirty, hnone]
  have hpushes : t.coh.pushes.filter (fun p => p.2.1 == 0) = [(line, 0, 0, 0)] := by rw [← ht]; rfl
  have hsent : (haloMsg .hCommit line 5 0).at_ 0#64 = commit := rfl
  unfold commitPush
  dsimp only
  rw [hpushes]
  dsimp only [List.foldl, List.map, List.flatMap, List.flatten]
  rw [hreplicas, hclean, ← ht]
  have hzero : (0 : LineData).toNat = 0 := BitVec.toNat_zero
  rw [hzero]
  simp [committed, racing, hclock, hsent, State.reset]

/-- The last answer to core 0's push lets it commit. -/
theorem deliver_ack {s : State} (hcores : s.cores = []) (hframe : frameOfPage s (line / 65536) = none) (hclock : s.clock = 0) (n : Nat) :
    deliver false { s with coh := racing n } 0
    = some { s with mem := writeMem s.mem line (toBytes 128 0), coh := committed n } := by
  have hlive : retiredId { s with coh := racing n } ack.src = false := by simp [retiredId, coreOf, hcores, Core.init, ack, toHome]
  have hmsgs : (racing n).msgs = [ack, push] := rfl
  have hkind : ack.k = .hAck := rfl
  have hhome : ack.dst = homeId := rfl
  have hall : homeHAck { s with coh := { racing n with msgs := [push] } } ack
    = commitPush { s with coh := { racing n with msgs := [push], pushes := [(line, 0, 0, 0), (line, 5, 1, 0)] } } 0 := rfl
  rw [← commitPush_racing hframe hclock, ← hall]
  simp [deliver, hmsgs, hhome, hlive, atHome, hkind]

/-- Core 0 answers core 5's push. -/
theorem deliver_push {s : State} (hclock : s.clock = 0) (n : Nat) :
    deliver false { s with coh := committed n } 0 = some { s with coh := answered n (List.replicate n commit ++ [lateAck]) } := by
  simp [deliver, atL1, l1Of, push, haloMsg, fromHome, homeId, committed, racing, Map.find, setL1, Map.insert, sendMsg, hclock, answered, lateAck,
    Msg.at_, toHome]

/-- The deliveries between the commit of core 0's push and core 0's answer. -/
theorem quiesce_committed {s : State} (hclock : s.clock = 0) (n : Nat) :
    quiesce (n + 1 + 1) { s with coh := committed (n + 1) } line = { s with coh := answered (n + 1) [lateAck] } := by
  have hpush := quiesce_front (m := push) rfl rfl (deliver_push hclock (n + 1)) (n + 1)
  refine hpush.trans (quiesce_hCommits (m := commit) (l := L1Line.at .s) rfl rfl (by decide) rfl [lateAck] 0 (n + 1) _ ?_ ?_ rfl)
  · simp [l1Of, answered, List.replicate_succ, Map.find, commit, haloMsg, fromHome, l1Key]
  · simp [answered, List.replicate_succ, Map.insert, commit, haloMsg, fromHome, l1Key]

/-- The deliveries up to core 0's answer: two, and one for each listed replica. -/
theorem quiesce_racing {s : State} (hcores : s.cores = []) (hframe : frameOfPage s (line / 65536) = none) (hclock : s.clock = 0) (n : Nat) :
    quiesce (n + 1 + 1 + 1) { s with coh := racing (n + 1) } line
    = { s with mem := writeMem s.mem line (toBytes 128 0), coh := answered (n + 1) [lateAck] } := by
  have hack := quiesce_front (m := ack) rfl rfl (deliver_ack hcores hframe hclock (n + 1)) (n + 1 + 1)
  rw [show ack.line = line from rfl] at hack
  rw [hack]
  generalize writeMem s.mem line (toBytes 128 0) = m
  exact quiesce_committed (s := { s with mem := m }) hclock n

/-- With 3,070 replicas listed, the deliveries of one recall end before core 0's answer. -/
theorem settleLine_racing {s : State} (hcores : s.cores = []) (hframe : frameOfPage s (line / 65536) = none) (hclock : s.clock = 0) :
    settleLine { s with coh := racing 3070 } line
    = { s with mem := writeMem s.mem line (toBytes 128 0), coh := answered 3070 [lateAck] } := by
  have hbusy : settledLine { s with coh := racing 3070 } line = false := rfl
  rw [settleLine, hbusy, if_neg (by decide)]
  exact quiesce_racing hcores hframe hclock 3069

/-! ## `TSPAWN` of the record -/

/-- The wave of core 0, with the record's address in `s4`. -/
def wave : Wave := wrS (placeWave false) 4 0x20080

/-- A machine whose wave 0 of core 0 issues a word, with the record in memory and the halo region of its line in the context. -/
def start : State :=
  { State.reset.withFetchWord 32 0 with
    waves := [(0, wave)], mem := writeNum (placeMem 32 0) line 64 record,
    ctxs := [(1, { placeCtx with halos := [(0, RefusedRelease.region)] })], coh := racing 3070 }

/-- The record's address in the wave's register. -/
def recordVa : Nat := (rdP wave (4 : SReg).toNat).toNat

/-- The access of the record. -/
def recordAccess : State × AccRes := access start wave.core wave.slot (ctxIdOf start wave.gid) wave.priv recordVa 64 .read false

/-- The state in which the record is read. -/
def atRecord : State := recordAccess.1

/-- The access of the record's header. -/
def headerAccess : State × AccRes := access atRecord wave.core wave.slot (ctxIdOf start wave.gid) wave.priv recordVa 8 .update false

/-- The state in which the header is read. -/
def atHeader : State := headerAccess.1

theorem recordAccess_eq : recordAccess = (atRecord, .ok line) := eq_mk_of_snd (by decide +kernel)

theorem headerAccess_eq : headerAccess = (atHeader, .ok line) := eq_mk_of_snd (by decide +kernel)

theorem record_valid : taskValid (ofBytes (loadBytes atRecord wave.core line 64)) = true := by decide +kernel

/-- The header as found: a counter of 1 in state 0. -/
theorem header_found : readNum atHeader.mem line 8 = 1 := by decide +kernel

theorem settleLine_atHeader : settleLine atHeader line
    = { atHeader with mem := writeMem atHeader.mem line (toBytes 128 0), coh := answered 3070 [lateAck] } := by
  have hcoh : atHeader.coh = racing 3070 := by decide +kernel
  rw [← settleLine_racing (by decide +kernel) (by decide +kernel) (by decide +kernel), ← hcoh]

/-- The word writes the header and then live. The second write recalls the line once more, which lets core 5's push commit: its zeros take
the header. -/
theorem header_lost : readNum (taskOpen atHeader line 0 1).mem line 8 = 0 := by
  have hline : lineOf line = line := rfl
  simp only [taskOpen, putNum, homeWrite, recallLine, hline, settleLine_atHeader]
  decide +kernel

/-- The word goes on over the record as opened. -/
theorem tspawn_start : ScalarDoneAt (.tspawn 6 4) start (taskOpen atHeader line 0 1) wave placeFrag (setReg wave (6 : SReg).toNat 0)
    (rdM wave placeFrag) placeFrag.flags (placeFrag.pc + 4) :=
  tspawn_opens ⟨rfl, rfl⟩ (by decide) recordAccess_eq record_valid headerAccess_eq (by decide +kernel) header_found (by decide) (by decide)

end LateCommit

open LateCommit in
/-- Refutes O22 in its clause on `TSPAWN` of a counter above 0, which asks that the record be found in state 1 with its counter. The word
writes the header and then live, each at the home, and each recalls the line first (R272). A recall delivers at most 1,024 messages for
each one that waits, and the statement is about every state, one with 3,070 copies of one replica in its table included: there core 0's
push sends so many commits that core 0's answer to core 5's push is left for the second recall. That push then commits over the header. -/
theorem not_taskWords : ¬ Obligations.TaskWords := by
  rintro ⟨-, hspawn⟩
  obtain ⟨-, hplace⟩ := hspawn start wave placeFrag ⟨rfl, rfl⟩ 6 4 atRecord atHeader line line (by decide) recordAccess_eq record_valid
    headerAccess_eq
  dsimp only at hplace
  rw [header_found] at hplace
  obtain ⟨v, hv, hkept, -⟩ := (hplace (.inl (by decide)) (by decide +kernel)).1 (by decide)
  rw [← mem_of_scalarDoneAt tspawn_start hv, header_lost] at hkept
  cases hkept

end Sys2Proof.Machine
end

section
/-! PROOFS. Message queues and register pools (R149, R150, R154 to R156). -/

namespace Sys2Proof.Machine

/-! ## Words that answer over a changed state -/

/-- A word that ends with its answer written, over the state that its own effect has made. -/
theorem answersIn_done {i : Instr} {s t : State} {w : Wave} {f : Frag} {d : SReg} {x : Word}
    (h : exec i s = done t (wrS w d.toNat x) f) (hcur : t.cur = s.cur) : AnswersIn i s t w f d x :=
  goTo_scalarDoneAt h hcur (by rw [wrS_eq]) (rdS_wrS w _ · x) (rdM_wrS w f _ · x)

/-- A word whose effect has put its own wave: the wave that it leaves takes that one's place. -/
theorem scalarDoneAt_of_putWave {i : Instr} {s t : State} {u : Wave} {f : Frag} {regs masks : Nat → Word} {flags : Flags} {pc : DWord}
    (h : ScalarDoneAt i s (putWave t u) u f regs masks flags pc) : ScalarDoneAt i s t u f regs masks flags pc := by
  obtain ⟨v, hv, hmoved, hread⟩ := h
  have hcore : v.core = u.core := by rw [hmoved.frame]
  have hslot : v.slot = u.slot := by rw [hmoved.frame]
  exact ⟨v, by rw [hv, putWave_putWave t u v hcore hslot], hmoved, hread⟩

/-! ## Groups with no parked word -/

theorem modGroup_eq_putGroup {s : State} {gid : Nat} {g : Group} (hg : groupOf s gid = some g) (k : Group → Group) :
    modGroup s gid k = putGroup s gid (k g) := by
  have hfind : Map.find s.groups gid = some g := hg
  simp only [modGroup, Map.modify, hfind, putGroup]

@[simp] theorem groupOf_putGroup_self (s : State) (gid : Nat) (g : Group) : groupOf (putGroup s gid g) gid = some g :=
  Map.find_insert_self _ _ _

/-- A queue with no one parked at it moves no message (R156). -/
theorem pump_unparked (s : State) (gid : Nat) {g : Group} (hsend : g.sendQ = []) (hrecv : g.recvQ = []) :
    pump (putGroup s gid g) gid = putGroup s gid g := by
  simp [pump, pumpQueue, hsend, hrecv]

/-- Registers given to a pool for which no claim waits stay in it (R150). -/
theorem poolGive_unclaimed {s : State} {gid : Nat} {g : Group} (hg : groupOf s gid = some g) (hclaim : g.claimQ = []) (p n : Nat) :
    poolGive s gid p n = putGroup s gid { g with pools := Tab.set 0 g.pools p (Tab.get 0 g.pools p + n) } := by
  simp [poolGive, modGroup_eq_putGroup hg, serveClaims, hclaim]

/-! ## Messages (R156) -/

/-- A scratch offset that is a multiple of 128 within the group's scratch raises nothing (R80, R156). -/
theorem msgFault_inside {g : Group} {off : Nat} (halign : off % 128 = 0) (hin : off < g.scratchBytes) : msgFault g off = none := by
  simp [msgFault, halign, hin]

section Words

variable {s : State} {w : Wave} {f : Frag} {g : Group} (hI : Issues s w f) (hg : groupOf s w.gid = some g) {d a : SReg}
include hI hg

theorem mqsend_queues {gid : Nat} {h : Group} (halign : (rdS w (a.toNat + 1)).toNat % 128 = 0) (hin : (rdS w (a.toNat + 1)).toNat < g.scratchBytes)
    (hlive : liveHandle s w (rdS w a.toNat) = some (gid, h)) (hgid : groupOf s gid = some h) (hsend : h.sendQ = []) (hrecv : h.recvQ = [])
    (hroom : h.msgs.length < mqSize h) :
    AnswersIn (.mqsend d a) s
      (putGroup s gid { h with msgs := h.msgs ++ [(groupHandle g, scratchLine g (rdS w (a.toNat + 1)).toNat)] }) w f d
      (BitVec.ofNat 32 (mqSize h - (h.msgs.length + 1))) := by
  refine answersIn_done ?_ rfl
  rw [exec_mqsend, execMqsend, onFrag_issues hI]
  simp only [hg, msgFault_inside halign hin, hlive, hroom, hsend, and_self, if_true, modGroup_eq_putGroup hgid, pump_unparked, hrecv]
  exact onFrag_issues (s := putGroup s gid _) hI _

theorem mqrecv_takes (hsend : g.sendQ = []) (hrecv : g.recvQ = []) (tryIt : Bool) {h : Word} {m : LineData} {rest : List (Word × LineData)}
    (halign : (rdS w a.toNat).toNat % 128 = 0) (hin : (rdS w a.toNat).toNat < g.scratchBytes) (hfifo : 128 ≤ g.fifoBytes)
    (hmsgs : g.msgs = (h, m) :: rest) :
    AnswersIn (.mqrecv d a tryIt) s
      (putGroup s w.gid { g with msgs := rest, scratch := writeMem g.scratch (rdS w a.toNat).toNat (toBytes 128 m.toNat) }) w f d h := by
  refine answersIn_done ?_ rfl
  rw [exec_mqrecv, execMqrecv, onFrag_issues hI]
  simp only [hg, Nat.not_lt.2 hfifo, if_false, msgFault_inside halign hin, hmsgs, hrecv, modGroup_eq_putGroup hg, pump_unparked, hsend]
  exact onFrag_issues (s := putGroup s w.gid _) hI _

theorem mqcount_counts (id : Bool) :
    AnswersIn (.mqcount d id) s s w f d
      (if id then (if g.fifoBytes < 128 then 0xFFFFFFFF else groupHandle g) else BitVec.ofNat 32 g.msgs.length) := by
  refine answersIn_done ?_ rfl
  rw [exec_mqcount, execMqcount, onFrag_issues hI]
  simp only [hg]

/-! ## Register pools (R149, R150) -/

theorem vgive_gives (hclaim : g.claimQ = []) {n : BitVec 6} (hstrips : w.strips = []) (hn : 8 * n.toNat < w.valloc) :
    AnswersIn (.vgive d n) s
      (putGroup s w.gid { g with pools := Tab.set 0 g.pools (poolOf g w.core w.slot) (Tab.get 0 g.pools (poolOf g w.core w.slot) + 8 * n.toNat) })
      (setValloc w (w.valloc - 8 * n.toNat)) f d (BitVec.ofNat 32 (w.valloc - 8 * n.toNat)) := by
  have hplace := issues_place hI
  have hI' (h : Group) : Issues (putGroup (putWave s (setValloc w (w.valloc - 8 * n.toNat))) w.gid h)
      (setValloc w (w.valloc - 8 * n.toNat)) f :=
    ⟨hplace.1 ▸ hplace.2 ▸ waveAt_putWave s (setValloc w (w.valloc - 8 * n.toNat)), hI.2⟩
  refine scalarDoneAt_of_putWave (answersIn_done ?_ rfl)
  rw [exec_vgive, execVgive, onFrag_issues hI]
  simp only [hstrips, ne_eq, not_true_eq_false, if_false, Nat.not_le.2 hn, hg]
  rw [poolGive_unclaimed (s := putWave s _) hg hclaim]
  exact onFrag_issues (hI' _) _

theorem vclaim_claims (hclaim : g.claimQ = []) {n : BitVec 6} (hn : w.valloc + 8 * n.toNat ≤ 256)
    (hroom : 8 * n.toNat ≤ Tab.get 0 g.pools (poolOf g w.core w.slot)) :
    AnswersIn (.vclaim d n) s
      (putGroup s w.gid { g with pools := Tab.set 0 g.pools (poolOf g w.core w.slot) (Tab.get 0 g.pools (poolOf g w.core w.slot) - 8 * n.toNat) })
      (setValloc w (w.valloc + 8 * n.toNat)) f d (BitVec.ofNat 32 (w.valloc + 8 * n.toNat)) := by
  refine answersIn_done ?_ rfl
  rw [exec_vclaim, execVclaim, onFrag_issues hI]
  simp only [Nat.not_lt.2 hn, if_false, hg, hclaim, hroom, List.any_nil, Bool.not_false, and_self, if_true, modGroup_eq_putGroup hg]

end Words

/-- Settles O13: with no word parked, a message, a count, a gift or a claim changes its group's entry alone. -/
theorem messagesAndRegisterPools : Obligations.MessagesAndRegisterPools := by
  intro s w f g hI hg hsend hrecv hclaim d a _ _
  exact ⟨fun _ _ => mqsend_queues hI hg, fun tryIt _ _ _ => mqrecv_takes hI hg hsend hrecv tryIt, mqcount_counts hI hg false,
    mqcount_counts hI hg true, fun _ => vgive_gives hI hg hclaim, fun _ => vclaim_claims hI hg hclaim⟩

end Sys2Proof.Machine
end

section
/-! PROOFS. Trays and banks: `TRAYFLUSH`, `TRAYCFG` and `CARVE` (R153, R237, R238). -/

namespace Sys2Proof.Machine

@[simp] theorem coreOf_putCore_self (s : State) (core : Nat) (c : Core) : coreOf (putCore s core c) core = c := Tab.get_set_self _ _ _ _

theorem coreOf_putCore_ne (s : State) {core k : Nat} (c : Core) (h : k ≠ core) : coreOf (putCore s core c) k = coreOf s k :=
  Tab.get_set_ne _ _ _ h

/-! ## Trays (R237, R238) -/

/-- A tray of the grid that is `FILLING` and, but for `.all`, of the configuration (R237). -/
def flushes (gi config : Nat) (all : Bool) (t : Tray) : Bool := t.st == .filling && t.grid == gi && (all || t.config == config)

/-- Triggering reads every tray of the core: those that `hit` picks are `TRIGGERED`, and the others are as they were. -/
theorem find_triggerTrays {s : State} {core : Nat} {p hit : Tray → Bool} (h : ∀ t, (t.st == .filling && p t) = hit t) {k : Nat} {t : Tray}
    (hk : Map.find (coreOf s core).trays k = some t) :
    Map.find (coreOf (triggerTrays s core p) core).trays k
      = some (if hit t then { t with st := .triggered, stamp := s.stamp } else t) := by
  rw [triggerTrays, mapTrays, coreOf_putCore_self, Map.find_mapVals]
  rw [show coreOf { s with stamp := s.stamp + 1 } core = coreOf s core from rfl, hk, Option.map_some, h]

theorem coreOf_triggerTrays_ne (s : State) {core k : Nat} (p : Tray → Bool) (h : k ≠ core) :
    coreOf (triggerTrays s core p) k = coreOf s k := coreOf_putCore_ne _ _ h

section Words

variable {s : State} {w : Wave} {f : Frag} {g : Group} (hI : Issues s w f) (hg : groupOf s w.gid = some g) {d a : SReg}
include hI hg

theorem trayflush_triggers (all : Bool) (hputs : putsQueued s w = false) :
    let hit := flushes g.grid (bits (rdS w a.toNat).toNat 5 0) all
    ∃ t, AnswersIn (.trayflush d a all) s t w f d (BitVec.ofNat 32 ((coreOf s g.core).trays.filter (fun e => hit e.2)).length)
      ∧ (∀ k tr, Map.find (coreOf s g.core).trays k = some tr →
          Map.find (coreOf t g.core).trays k = some (if hit tr then { tr with st := .triggered, stamp := s.stamp } else tr))
      ∧ ∀ k, k ≠ g.core → coreOf t k = coreOf s k := by
  intro hit
  have hsplit (t : Tray) :
      (t.st == .filling && (t.grid == g.grid && (all || t.config == bits (rdS w a.toNat).toNat 5 0))) = hit t := (Bool.and_assoc ..).symm
  refine ⟨triggerTrays s g.core (fun t => t.grid == g.grid && (all || t.config == bits (rdS w a.toNat).toNat 5 0)),
    answersIn_done ?_ rfl, fun k tr hk => find_triggerTrays hsplit hk, fun k hk => coreOf_triggerTrays_ne s _ hk⟩
  rw [exec_trayflush, execTrayflush, onFrag_issues hI]
  simp only [hg, hputs, Bool.false_eq_true, if_false, hsplit]

theorem traycfg_sets {gr : Grid} (hgr : Map.find s.grids g.grid = some gr) (hzero : bits (rdS w a.toNat).toNat 15 6 = 0)
    (hcount : bits (rdS w a.toNat).toNat 5 0 < gr.desc.trayCount) :
    AnswersIn (.traycfg d a) s
      { s with grids := Map.insert s.grids g.grid { gr with
          ages := Map.insert gr.ages (bits (rdS w a.toNat).toNat 5 0) (bits (rdS w a.toNat).toNat 31 16) } } w f d
      (BitVec.ofNat 32 (trayAge gr (bits (rdS w a.toNat).toNat 5 0))) := by
  refine answersIn_done ?_ rfl
  rw [exec_traycfg, execTraycfg, onFrag_issues hI]
  simp only [hg, hgr, hzero, ne_eq, not_true_eq_false, false_or, Nat.not_le.2 hcount, if_false]

end Words

/-! ## Banks (R153) -/

/-- The hold that a request leaves a bank with. -/
def carvedHold (x : Nat) (hold : Bool) (i : Nat) (old : Bool) : Bool :=
  match carveMode x i with
  | none => old
  | some m => hold && m != .cache

/-- The work of a request on one bank. -/
def carveBank (x : Nat) (hold : Bool) (c : Core) (i : Nat) : Core :=
  match carveMode x i with
  | none => c
  | some m => putBank c i { bankOf c i with hold := hold && m != .cache, change := if (bankOf c i).mode = m then none else some m }

theorem carveStart_eq (c : Core) (x : Nat) (hold : Bool) : carveStart c x hold = (List.range 16).foldl (carveBank x hold) c := rfl

theorem bankOf_putBank (c : Core) (i j : Nat) (b : Bank) : bankOf (putBank c i b) j = if j = i then b else bankOf c j := Tab.get_set _ _ _ _ _

/-- The work on one bank keeps every bank's mode, and sets the hold of a bank that the request names. -/
theorem bankOf_carveBank (x : Nat) (hold : Bool) (c : Core) (i j : Nat) :
    (bankOf (carveBank x hold c i) j).mode = (bankOf c j).mode
      ∧ (bankOf (carveBank x hold c i) j).hold = if j = i then carvedHold x hold j (bankOf c j).hold else (bankOf c j).hold := by
  by_cases hj : j = i
  · subst hj
    cases hm : carveMode x j <;> simp [carveBank, carvedHold, hm, bankOf_putBank]
  · cases hm : carveMode x i <;> simp [carveBank, hm, bankOf_putBank, hj]

theorem carvedHold_carvedHold (x : Nat) (hold : Bool) (i : Nat) (old : Bool) :
    carvedHold x hold i (carvedHold x hold i old) = carvedHold x hold i old := by
  cases hm : carveMode x i <;> simp [carvedHold, hm]

/-- The work on some banks keeps every bank's mode, and sets the holds of those that the request names. -/
theorem bankOf_carveBanks (x : Nat) (hold : Bool) (l : List Nat) (c : Core) (j : Nat) :
    (bankOf (l.foldl (carveBank x hold) c) j).mode = (bankOf c j).mode
      ∧ (bankOf (l.foldl (carveBank x hold) c) j).hold = if j ∈ l then carvedHold x hold j (bankOf c j).hold else (bankOf c j).hold := by
  induction l generalizing c with
  | nil => simp
  | cons i rest ih =>
    obtain ⟨hmode, hhold⟩ := bankOf_carveBank x hold c i j
    obtain ⟨ihmode, ihhold⟩ := ih (carveBank x hold c i)
    refine ⟨ihmode.trans hmode, ihhold.trans ?_⟩
    rw [hhold]
    by_cases hj : j = i
    · simp [hj, carvedHold_carvedHold]
    · simp [hj]

/-- A request that changes no bank asks of each bank that it names the mode it has. -/
theorem carveMode_unchanged {c : Core} {x i : Nat} {m : BankMode} (h : carveChanges c x = []) (hi : i < 16) (hm : carveMode x i = some m) :
    m = (bankOf c i).mode := by
  have hnot := List.filter_eq_nil_iff.1 h i (by simpa using hi)
  exact .symm (by simpa [hm] using hnot)

/-- A request that changes no bank keeps every mode, and holds the banks that it names, but for those in `CACHE`. -/
theorem bankOf_carveStart {c : Core} {x i : Nat} (hold : Bool) (hsame : carveChanges c x = []) (hi : i < 16) :
    (bankOf (carveStart c x hold) i).mode = (bankOf c i).mode
      ∧ (carveMode x i ≠ none → (bankOf (carveStart c x hold) i).hold = (hold && (bankOf c i).mode != .cache)) := by
  obtain ⟨hmode, hhold⟩ := bankOf_carveBanks x hold (List.range 16) c i
  rw [carveStart_eq]
  refine ⟨hmode, fun hnamed => ?_⟩
  obtain ⟨m, hm⟩ := Option.ne_none_iff_exists'.1 hnamed
  rw [hhold, if_pos (List.mem_range.2 hi), ← carveMode_unchanged hsame hi hm, carvedHold, hm]

section Carve

variable {s : State} {w : Wave} {f : Frag} {g : Group} (hI : Issues s w f) (hg : groupOf s w.gid = some g) {d a : SReg}
  (hold : Bool) (hpriv : w.priv = .s) (hwait : ∀ m l, f.wait ≠ .carve m l) (hcarving : carving s w.core s.stamp = false)
  (hbusy : carveBusy (coreOf s w.core) (rdS w a.toNat).toNat = false)
  (hsame : carveChanges (coreOf s w.core) (rdS w a.toNat).toNat = [])
  (htwo : 2 ≤ carveCaches (coreOf s w.core) (rdS w a.toNat).toNat)
include hI hg hpriv hwait hcarving hbusy hsame htwo

theorem carve_answers :
    AnswersIn (.carve d a hold) s (putCore s w.core (carveStart (coreOf s w.core) (rdS w a.toNat).toNat hold)) w f d 0 := by
  have hsince : carveSince s f = s.stamp := by
    unfold carveSince
    split
    next h => exact absurd h (hwait _ _)
    next => rfl
  have hheld : carveHeld w.core (coreOf s w.core) g (rdS w a.toNat).toNat = false := by simp [carveHeld, hsame]
  refine answersIn_done ?_ rfl
  rw [exec_carve, execCarve, onFrag_issues hI, onlyS_supervisor _ _ hpriv]
  dsimp only
  split
  next h => exact absurd h (hwait _ _)
  next => simp only [hsince, hcarving, hbusy, hg, hheld, hsame, Nat.not_lt.2 htwo, Bool.or_self, Bool.false_eq_true, if_false]

/-- `CARVE` of banks that have their modes already, with no other on the core in progress, sets the holds and answers 0. -/
theorem carve_holds :
    ∃ t, AnswersIn (.carve d a hold) s t w f d 0
      ∧ ∀ i, i < 16 → (bankOf (coreOf t w.core) i).mode = (bankOf (coreOf s w.core) i).mode
        ∧ (carveMode (rdS w a.toNat).toNat i ≠ none →
            (bankOf (coreOf t w.core) i).hold = (hold && (bankOf (coreOf s w.core) i).mode != .cache)) :=
  ⟨_, carve_answers hI hg hold hpriv hwait hcarving hbusy hsame htwo,
    fun i hi => by rw [coreOf_putCore_self]; exact bankOf_carveStart hold hsame hi⟩

end Carve

end Sys2Proof.Machine
end

section
/-! PROOFS. `REGROUP`: refusals, parks and the fusion of two waves (R178). -/

namespace Sys2Proof.Machine

/-! ## Waves that a `REGROUP` refuses -/

/-- What a wave becomes when wave `me` of its group has issued a `REGROUP` that names wave `p`. -/
def refuseNamer (s : State) (gid me p : Nat) (x : Wave) : Wave :=
  match regroupOf x with
  | some (q, _, d) =>
    if x.gid = gid ∧ x.ident.waveid.toNat ≠ me ∧ x.ident.waveid.toNat ≠ p ∧ q = me then regroupEnd s x d 0xFFFFFFFF else x
  | none => x

theorem refuseNamers_eq (s : State) (gid me p : Nat) : refuseNamers s gid me p = mapWaves s (refuseNamer s gid me p) := rfl

theorem refuseNamer_names (s : State) (gid me p : Nat) (x : Wave) :
    (refuseNamer s gid me p x).gid = x.gid ∧ (refuseNamer s gid me p x).ident = x.ident := by
  have hend (d : Nat) (v : Word) : (regroupEnd s x d v).gid = x.gid ∧ (regroupEnd s x d v).ident = x.ident := by
    rw [regroupEnd, wrS_eq]; exact ⟨rfl, rfl⟩
  unfold refuseNamer
  split
  · split_ifs
    · exact hend _ _
    · exact ⟨rfl, rfl⟩
  · exact ⟨rfl, rfl⟩

/-- The partner named stays as it is. -/
theorem refuseNamer_partner (s : State) (gid me : Nat) (x : Wave) : refuseNamer s gid me x.ident.waveid.toNat x = x := by
  unfold refuseNamer
  split <;> simp

/-- A change of each wave that keeps its group and number is seen in the wave that a group and a number name. -/
theorem waveOf_mapWaves (s : State) {k : Wave → Wave} (hk : ∀ x, (k x).gid = x.gid ∧ (k x).ident = x.ident) (gid p : Nat) :
    waveOf (mapWaves s k) gid p = (waveOf s gid p).map k := by
  have hgid (x : Wave) : (k x).gid = x.gid := (hk x).1
  have hident (x : Wave) : (k x).ident = x.ident := (hk x).2
  simp [waveOf, Map.mapVals, List.find?_map, Function.comp_def, hgid, hident]

theorem waveid_of_waveOf {s : State} {gid p : Nat} {q : Wave} (h : waveOf s gid p = some q) : q.ident.waveid.toNat = p := by
  obtain ⟨e, he, rfl⟩ := Option.map_eq_some_iff.1 h
  have hp := List.find?_some he
  simp only [Bool.and_eq_true, beq_iff_eq] at hp
  exact hp.2

theorem waveOf_refuseNamers_partner {s : State} {gid p : Nat} {q : Wave} (h : waveOf s gid p = some q) (me : Nat) :
    waveOf (refuseNamers s gid me p) gid p = some q := by
  rw [refuseNamers_eq, waveOf_mapWaves s (refuseNamer_names s gid me p), h, Option.map_some, ← waveid_of_waveOf h, refuseNamer_partner]

theorem waveOf_refuseNamers_none {s : State} {gid p : Nat} (h : waveOf s gid p = none) (me : Nat) :
    waveOf (refuseNamers s gid me p) gid p = none := by
  rw [refuseNamers_eq, waveOf_mapWaves s (refuseNamer_names s gid me p), h, Option.map_none]

/-! ## The word -/

/-- Waves that may not be partners: the same one, or of other partitions or cores (R178). -/
def Unpaired (p me : Nat) : Prop := p = me ∨ p % 4 ≠ me % 4 ∨ p / 64 ≠ me / 64

/-- The operand's reserved bits are 0. -/
theorem regroup_reserved {x : Nat} (hhigh : bits x 31 16 = 0) (hbit : bit x 7 = false) : (bit x 7 || bits x 31 16 != 0) = false := by
  simp [hhigh, hbit]

section Word

variable {s : State} {w : Wave} {f : Frag} (hI : Issues s w f) {d a : SReg} (hhigh : bits (rdS w a.toNat).toNat 31 16 = 0)
  (hbit : bit (rdS w a.toNat).toNat 7 = false) (hstrips : w.strips = []) {p me : Nat} (hp : bits (rdS w a.toNat).toNat 6 0 = p)
  (hme : w.ident.waveid.toNat = me)
include hI hhigh hbit hstrips hp hme

theorem regroup_refused (h : waveOf s w.gid p = none ∨ Unpaired p me) :
    AnswersIn (.regroup d a) s (refuseNamers s w.gid me p) w f d 0xFFFFFFFF := by
  refine answersIn_done ?_ rfl
  rw [exec_regroup, execRegroup, onFrag_issues hI]
  simp only [regroup_reserved hhigh hbit, hstrips, hp, hme, Bool.false_eq_true, ne_eq, not_true_eq_false, if_false]
  cases hq : waveOf s w.gid p with
  | none => rw [waveOf_refuseNamers_none hq]
  | some q =>
    have hno : Unpaired p me := h.resolve_left (by simp [hq])
    rw [waveOf_refuseNamers_partner hq]
    exact if_pos hno

section Partner

variable {q : Wave} (hq : waveOf s w.gid p = some q) (hpair : ¬ Unpaired p me)
include hq hpair

/-- With a partner that has not come the wave parks. -/
theorem exec_regroup_parks (hnone : regroupOf q = none) :
    exec (.regroup d a) s = .next (putWave (refuseNamers s w.gid me p)
      (putFrag w s.cur.b (some { f with wait := .regroup p (bits (rdS w a.toNat).toNat 15 8) d.toNat }))) := by
  rw [exec_regroup, execRegroup, onFrag_issues hI]
  simp only [regroup_reserved hhigh hbit, hstrips, hp, hme, Bool.false_eq_true, ne_eq, not_true_eq_false, if_false,
    waveOf_refuseNamers_partner hq, hnone]
  exact if_neg hpair

/-- With a partner that waits for it the wave parks, and both parks end. -/
theorem exec_regroup_meets {kq dq : Nat} (hthis : regroupOf q = some (me, kq, dq)) :
    let k := bits (rdS w a.toNat).toNat 15 8
    let parked := putFrag w s.cur.b (some { f with wait := .regroup p k d.toNat })
    exec (.regroup d a) s = .next (regroupBoth (putWave (refuseNamers s w.gid me p) parked) parked q k kq d.toNat dq) := by
  intro k parked
  rw [exec_regroup, execRegroup, onFrag_issues hI]
  simp only [regroup_reserved hhigh hbit, hstrips, hp, hme, Bool.false_eq_true, ne_eq, not_true_eq_false, if_false,
    waveOf_refuseNamers_partner hq, hthis]
  exact if_neg hpair

end Partner

end Word

/-! ## Lanes packed in order -/

theorem getLsbD_setBit (m : Word) {i j : Nat} (x : Bool) (hi : i < 32) (hj : j < 32) :
    (setBit m i x).getLsbD j = if j = i then x else m.getLsbD j := by
  have hone : ((1 : Word) <<< i).getLsbD j = decide (j = i) := by
    by_cases h : j = i
    · simp [h, hi]
    · simp [h]; omega
  cases x
  · rw [setBit, if_neg Bool.false_ne_true, BitVec.getLsbD_and, BitVec.getLsbD_not, hone]
    by_cases h : j = i <;> simp [h, hj]
  · rw [setBit, if_pos rfl, BitVec.getLsbD_or, hone]
    by_cases h : j = i <;> simp [h]

/-- Values put into places `b`, `b + 1` and on, one after another, are read back from them, and lower places keep theirs. -/
theorem get_packed {α β τ : Type} {get : β → Nat → α} {set : β → Nat → α → β}
    (hget : ∀ v i j x, i < 32 → j < 32 → get (set v i x) j = if j = i then x else get v j) (val : τ → α) (src : List τ) {b n : Nat}
    (hlen : src.length ≤ n) (hn : b + n ≤ 32) (v : β) :
    let u := (src.zip (List.range' b n)).foldl (fun v p => set v p.2 (val p.1)) v
    (∀ l x, src[l]? = some x → get u (b + l) = val x) ∧ ∀ j, j < b → get u j = get v j := by
  induction src generalizing b n v with
  | nil => simp
  | cons x rest ih =>
    obtain _ | n := n
    · simp at hlen
    obtain ⟨hrest, hbelow⟩ := ih (b := b + 1) (n := n) (by simpa using hlen) (by omega) (set v b (val x))
    simp only [List.range'_succ, List.zip_cons_cons, List.foldl_cons]
    refine ⟨fun l y hl => ?_, fun j hj => ?_⟩
    · cases l with
      | zero =>
        obtain rfl : x = y := by simpa using hl
        exact (hbelow b (by omega)).trans ((hget _ _ _ _ (by omega) (by omega)).trans (if_pos rfl))
      | succ l => rw [show b + (l + 1) = b + 1 + l by omega]; exact hrest l y (by simpa using hl)
    · rw [hbelow j (by omega), hget _ _ _ _ (by omega) (by omega), if_neg (by omega)]

/-- Entries written one after another under keys that differ: each is read back. -/
theorem get_foldl_set {α : Type} [DecidableEq α] (dflt : α) {key : Nat → Nat} (hkey : Function.Injective key) (val : Nat → α) (l : List Nat)
    (m : Map α) (j : Nat) :
    Tab.get dflt (l.foldl (fun t n => Tab.set dflt t (key n) (val n)) m) (key j) = if j ∈ l then val j else Tab.get dflt m (key j) := by
  induction l generalizing m with
  | nil => simp
  | cons i rest ih =>
    rw [List.foldl_cons, ih, Tab.get_set]
    by_cases hj : j = i
    · simp [hj]
    · simp [hj, hkey.eq_iff]

theorem length_lanesOf (m : Word) : (lanesOf m).length = popc m := by
  rw [popc, popcount_eq, lanesOf]
  rfl

theorem length_regroupSrc (r d : Wave) (fr fd : Frag) : (regroupSrc r d fr fd).length = popc fr.m0 + popc fd.m0 := by
  simp [regroupSrc, length_lanesOf]

/-! ## The receiver (R178) -/

section Receiver

variable {x y : Wave} {fx fy : Frag} (hn : popc fx.m0 + popc fy.m0 ≤ 32) {l : Nat} {p : Wave × Nat} (hl : (regroupSrc x y fx fy)[l]? = some p)
include hn hl

theorem laneGet_regroupWave {j k : Nat} (hj : j < k) :
    laneGet (Tab.get 0 (regroupWave x y fx fy k).vregs j) l = laneGet (Tab.get 0 p.1.vregs j) p.2 := by
  have hlen : (regroupSrc x y fx fy).length ≤ 32 := (length_regroupSrc x y fx fy).trans_le hn
  obtain ⟨hlane, -⟩ := get_packed (get := laneGet) (set := laneSet) (fun v i j x hi hj => laneGet_laneSet v x hi hj)
    (fun q : Wave × Nat => laneGet (Tab.get 0 q.1.vregs j) q.2) _ hlen (Nat.zero_add 32).le 0
  have hreg := hlane l p hl
  rw [Nat.zero_add, ← List.range_eq_range'] at hreg
  unfold regroupWave
  rw [get_foldl_set 0 (key := fun n => n) (fun _ _ h => h), if_pos (List.mem_range.2 hj)]
  exact hreg

theorem getLsbD_regroupWave (k : Nat) {j : Nat} (hone : 1 ≤ j) (hj : j < 16) :
    (Tab.get 0 (regroupWave x y fx fy k).masks j).getLsbD l = (Tab.get 0 p.1.masks j).getLsbD p.2 := by
  have hlen : (regroupSrc x y fx fy).length ≤ 32 := (length_regroupSrc x y fx fy).trans_le hn
  obtain ⟨hlane, -⟩ := get_packed (get := BitVec.getLsbD) (set := setBit) (fun m i j x hi hj => getLsbD_setBit m x hi hj)
    (fun q : Wave × Nat => (Tab.get 0 q.1.masks j).getLsbD q.2) _ hlen (Nat.zero_add 32).le 0
  have hmask := hlane l p hl
  rw [Nat.zero_add, ← List.range_eq_range'] at hmask
  obtain ⟨i, rfl⟩ : ∃ i, j = i + 1 := ⟨j - 1, by omega⟩
  unfold regroupWave
  rw [get_foldl_set 0 (key := fun n => n + 1) (fun _ _ h => Nat.succ.inj h), if_pos (List.mem_range.2 (by omega))]
  exact hmask

end Receiver

/-- A fragment parked at `REGROUP` goes on to the next word. -/
def regroupGoes (f : Frag) : Frag :=
  match f.wait with
  | .regroup _ _ _ => { f with pc := f.pc + 4, wait := .none }
  | _ => f

theorem regroupEnd_eq (s : State) (w : Wave) (d : Nat) (x : Word) : regroupEnd s w d x = spinReset s (wrS (mapFrags w regroupGoes) d x) := rfl

/-- A fragment with another mask. -/
def withMask (m : Word) (f : Frag) : Frag := { f with m0 := m }

/-- The receiver `r` after it has taken the lanes of the donor `d`, in the fragment slots' masks too (R178). -/
def fusedWave (s : State) (r d : Wave) (fr fd : Frag) (k dst : Nat) : Wave :=
  let n := popc fr.m0 + popc fd.m0
  let u := regroupEnd s (regroupWave r d fr fd k) dst (BitVec.ofNat 32 n)
  { u with fragA := u.fragA.map (withMask (BitVec.ofNat 32 (2 ^ n - 1))), fragB := u.fragB.map (withMask (BitVec.ofNat 32 (2 ^ n - 1))) }

section Fusion

variable (s : State) (x y : Wave) (fx fy : Frag) (k dst : Nat)

theorem fusedWave_frame : let r := fusedWave s x y fx fy k dst
    r.core = x.core ∧ r.slot = x.slot ∧ r.vregs = (regroupWave x y fx fy k).vregs ∧ r.masks = (regroupWave x y fx fy k).masks := by
  simp only [fusedWave, regroupEnd_eq]
  rw [wrS_eq]
  exact ⟨rfl, rfl, rfl, rfl⟩

theorem rdS_fusedWave : rdS (fusedWave s x y fx fy k dst) dst = if dst = 0 then 0 else BitVec.ofNat 32 (popc fx.m0 + popc fy.m0) := by
  refine (rdS_wrS _ dst dst _).trans ?_
  simp

theorem slotFrags_fusedWave : slotFrags (fusedWave s x y fx fy k dst)
    = (slotFrags x).map (fun f => withMask (BitVec.ofNat 32 (2 ^ (popc fx.m0 + popc fy.m0) - 1)) (regroupGoes f)) := by
  simp only [fusedWave, regroupEnd_eq]
  rw [wrS_eq]
  cases hA : x.fragA <;> cases hB : x.fragB <;> simp [slotFrags, spinReset, mapFrags, regroupWave, hA, hB]

end Fusion

/-- The one fragment of a wave is the only one that a slot can hold. -/
theorem eq_of_loneFrag {x : Wave} {f h : Frag} (hx : loneFrag x = some f) (hh : h ∈ slotFrags x) : h = f := by
  have hmem : h ∈ liveFrags x := List.mem_append_left _ hh
  unfold loneFrag at hx
  split at hx
  next g hone =>
    rw [hone, List.mem_singleton] at hmem
    split_ifs at hx
    exact hmem.trans (Option.some.inj hx)
  next => cases hx

/-! ## The fusion (R178) -/

section Both

variable {s : State} {x y : Wave} {k dx dy : Nat} {fx fy : Frag} (hx : loneFrag x = some fx) (hy : loneFrag y = some fy)
  (hless : x.ident.waveid.toNat < y.ident.waveid.toNat) (hkx : k ≤ x.valloc) (hky : k ≤ y.valloc)
  (hn : popc fx.m0 + popc fy.m0 ≤ 32) (hquiet : engineQuiet s y = true)
include hx hy hless hkx hky hn hquiet

theorem regroupBoth_fuses :
    regroupBoth s x y k k dx dy = exitWave (putWave s (fusedWave s x y fx fy k dx)) y.core y.slot := by
  simp only [regroupBoth, hless, decide_true, if_true, hx, hy, hquiet, Nat.not_lt.2 hkx, Nat.not_lt.2 hky, Nat.not_lt.2 hn, ne_eq,
    not_true_eq_false, Bool.not_true, Bool.false_eq_true, or_self, if_false]
  rfl

/-- Whichever of the two comes second, the wave of the lesser number receives. -/
theorem regroupBoth_fuses_comm :
    regroupBoth s y x k k dy dx = exitWave (putWave s (fusedWave s x y fx fy k dx)) y.core y.slot := by
  simp only [regroupBoth, hless.not_gt, decide_false, Bool.false_eq_true, hx, hy, hquiet, Nat.not_lt.2 hkx, Nat.not_lt.2 hky,
    Nat.not_lt.2 hn, ne_eq, not_true_eq_false, Bool.not_true, or_self, if_false]
  rfl

end Both

/-- Settles O28: the trays and banks that a word names, the waves that a `REGROUP` refuses, and the lanes of two that fuse. -/
theorem traysBanksAndRegroup : Obligations.TraysBanksAndRegroup := by
  refine ⟨fun s w f g hI hg d a => ⟨trayflush_triggers hI hg, fun _ => traycfg_sets hI hg, carve_holds hI hg,
    fun hhigh hbit hstrips => ⟨regroup_refused hI hhigh hbit hstrips rfl rfl, fun q hq hne hpart hcore => ?parks⟩⟩,
    fun s w f q kq dq hI d a hhigh hbit hstrips hq hne hpart hcore => ?meets,
    fun s x y k dx dy fx fy hx hy hwait _ hless hkx hky hn hquiet => ?fuses⟩
  case parks => exact exec_regroup_parks hI hhigh hbit hstrips rfl rfl hq (by simp [Unpaired, hne, hpart, hcore])
  case meets => exact exec_regroup_meets hI hhigh hbit hstrips rfl rfl hq (by simp [Unpaired, hne, hpart, hcore])
  case fuses =>
    obtain ⟨hcore, hslot, hvregs, hmasks⟩ := fusedWave_frame s x y fx fy k dx
    refine ⟨fusedWave s x y fx fy k dx, regroupBoth_fuses hx hy hless hkx hky hn hquiet,
      regroupBoth_fuses_comm hx hy hless hkx hky hn hquiet, hcore, hslot, rdS_fusedWave s x y fx fy k dx, fun h hh => ?_, fun l p hl => ?_⟩
    · rw [slotFrags_fusedWave] at hh
      obtain ⟨g, hg, rfl⟩ := List.mem_map.1 hh
      rw [eq_of_loneFrag hx hg]
      simp [withMask, regroupGoes, hwait]
    · rw [hvregs, hmasks]
      exact ⟨fun j hj => laneGet_regroupWave hn hl hj, fun j hone hj => getLsbD_regroupWave hn hl k hone hj⟩

end Sys2Proof.Machine
end

section
/-! PROOFS. Scalar arithmetic over every type, the words that write flags, and the mask words (R181, R182, R187). -/

namespace Sys2Proof.Machine

/-! ## Results of two operands (R181) -/

/-- The types whose values R181 reads as signed. -/
theorem stypeSigned_iff (t : SType) : stypeSigned t = true ↔ t = .i32 ∨ t = .i64 := by
  cases t <;> simp [stypeSigned]

/-- A two-operand word by its operation, in the claim's form. -/
theorem twoOperand_of_aluRR {i : Instr} {t : SType} {d a b : SReg} {op rule : (n : Nat) → BitVec n → BitVec n → BitVec n}
    (h : ∀ s, exec i s = aluRR t d a b op s) (hop : op = rule) : TwoOperand i t d a b rule :=
  fun s _ _ hI => hop ▸ aluRR_scalarDone op hI (h s)

section
variable (t : SType)

theorem mulHigh_rule : mulHigh (stypeSigned t) = fun n x y =>
    if t = .i32 ∨ t = .i64 then BitVec.ofInt n (x.toInt * y.toInt / (2 : Int) ^ n) else BitVec.ofNat n (x.toNat * y.toNat / 2 ^ n) := by
  funext n x y
  simp [mulHigh, stypeSigned_iff]

theorem divTrunc_rule : divTrunc (stypeSigned t) = fun n x y =>
    if y = 0 then BitVec.allOnes n
    else if t = .i32 ∨ t = .i64 then BitVec.ofInt n (x.toInt.tdiv y.toInt) else BitVec.ofNat n (x.toNat / y.toNat) := by
  funext n x y
  simp only [divTrunc, stypeSigned_iff]

theorem remTrunc_rule : remTrunc (stypeSigned t) = fun n x y =>
    if y = 0 then x else if t = .i32 ∨ t = .i64 then BitVec.ofInt n (x.toInt.tmod y.toInt) else BitVec.ofNat n (x.toNat % y.toNat) := by
  funext n x y
  simp only [remTrunc, stypeSigned_iff]

/-- Which of two values is less, as the type reads them. -/
theorem less_iff {n : Nat} (x y : BitVec n) :
    (if stypeSigned t then decide (x.toInt < y.toInt) else decide (x.toNat < y.toNat)) = true
      ↔ if t = .i32 ∨ t = .i64 then x.toInt < y.toInt else x.toNat < y.toNat := by
  simp only [stypeSigned_iff]
  split_ifs <;> exact decide_eq_true_iff

theorem minMax_lesser_rule : minMax (stypeSigned t) false = fun _ x y =>
    if (if t = .i32 ∨ t = .i64 then x.toInt < y.toInt else x.toNat < y.toNat) then x else y := by
  funext n x y
  simp only [minMax, Bool.bne_false, less_iff]

theorem minMax_greater_rule : minMax (stypeSigned t) true = fun _ x y =>
    if (if t = .i32 ∨ t = .i64 then x.toInt < y.toInt else x.toNat < y.toNat) then y else x := by
  funext n x y
  simp only [minMax, Bool.bne_true, Bool.not_eq_true', Bool.eq_false_iff, Ne, less_iff, ite_not]

end

/-- Settles O1: each word is the shared two-operand word over its operation, which is the rule's. -/
theorem scalarArithmetic : Obligations.ScalarArithmetic :=
  ⟨fun t d a b =>
    ⟨twoOperand_of_aluRR (exec_sadd t d a b) rfl, twoOperand_of_aluRR (exec_ssub t d a b) rfl, twoOperand_of_aluRR (exec_smul t d a b) rfl,
      twoOperand_of_aluRR (exec_sand t d a b) rfl, twoOperand_of_aluRR (exec_sor t d a b) rfl, twoOperand_of_aluRR (exec_sxor t d a b) rfl,
      twoOperand_of_aluRR (exec_sandn t d a b) rfl⟩,
    fun t d a b wide =>
    ⟨twoOperand_of_aluRR (exec_smulh t d a b) (mulHigh_rule t), twoOperand_of_aluRR (exec_sdiv t d a b) (divTrunc_rule t),
      twoOperand_of_aluRR (exec_srem t d a b) (remTrunc_rule t), twoOperand_of_aluRR (exec_sshl t d a b) rfl,
      twoOperand_of_aluRR (exec_sshr wide d a b) rfl, twoOperand_of_aluRR (exec_ssar wide d a b) rfl,
      twoOperand_of_aluRR (exec_smin t d a b) (minMax_lesser_rule t), twoOperand_of_aluRR (exec_smax t d a b) (minMax_greater_rule t)⟩⟩

/-! ## Flags (R182) -/

/-- A word that writes its fragment's flags alone. -/
theorem flagWord_scalarDone {i : Instr} {s : State} {w : Wave} {f : Frag} {g : Wave → Frag → Flags} {flags : Flags} (hI : Issues s w f)
    (h : exec i s = flagWord s g) (hg : g w f = flags) : ScalarDone i s w f (rdS w) (rdM w f) flags (f.pc + 4) := by
  rw [flagWord, onFrag_issues hI, hg] at h
  exact done_scalarDone h rfl rfl rfl (fun _ => rfl) fun _ => rfl

/-- The sign bit and the signed value of a word one bit wider than `k`, by its number. -/
theorem msb_toInt_succ {k : Nat} (x : BitVec (k + 1)) :
    x.msb = decide (2 ^ k ≤ x.toNat) ∧ x.toInt = if x.toNat < 2 ^ k then (x.toNat : Int) else (x.toNat : Int) - 2 * (2 ^ k : Nat) := by
  refine ⟨by simp [BitVec.msb_eq_decide], ?_⟩
  rw [BitVec.toInt_eq_toNat_cond, Nat.pow_succ]
  split_ifs <;> omega

/-- A difference as a number: it wraps where the subtrahend is the larger. -/
theorem toNat_sub_cases {n : Nat} (x y : BitVec n) :
    (x - y).toNat = if y.toNat ≤ x.toNat then x.toNat - y.toNat else x.toNat + 2 ^ n - y.toNat := by
  have hx := x.isLt
  have hy := y.isLt
  rw [BitVec.toNat_sub]
  split_ifs with h
  · rw [Nat.mod_eq_sub_mod (by omega), Nat.mod_eq_of_lt] <;> omega
  · rw [Nat.mod_eq_of_lt] <;> omega

/-- Signs say when a difference overflows: they differ, and the result's is not the minuend's. -/
theorem sub_overflow {k : Nat} (x y : BitVec (k + 1)) :
    (x.msb != y.msb && (x - y).msb != x.msb) = decide ((x - y).toInt ≠ x.toInt - y.toInt) := by
  have hx := x.isLt
  have hy := y.isLt
  have hr := toNat_sub_cases x y
  obtain ⟨hxm, hxi⟩ := msb_toInt_succ x
  obtain ⟨hym, hyi⟩ := msb_toInt_succ y
  obtain ⟨hrm, hri⟩ := msb_toInt_succ (x - y)
  rw [Nat.pow_succ] at hx hy hr
  rw [hxm, hym, hrm, hxi, hyi, hri]
  generalize (x - y).toNat = r at *
  generalize 2 ^ k = m at *
  rw [Bool.eq_iff_iff]
  simp only [Bool.and_eq_true, bne_iff_ne, ne_eq, decide_eq_decide, decide_eq_true_eq]
  split_ifs at * <;> omega

/-- Signs say when a sum with a carry overflows: the operands' agree, and the result's is another. -/
theorem add_overflow {k : Nat} (x y r : BitVec (k + 1)) (c : Nat) (hc : c ≤ 1) (hr : r = BitVec.ofNat (k + 1) (x.toNat + y.toNat + c)) :
    (x.msb == y.msb && r.msb != x.msb) = decide (r.toInt ≠ x.toInt + y.toInt + c) := by
  have hx := x.isLt
  have hy := y.isLt
  have hn : r.toNat = if x.toNat + y.toNat + c < 2 ^ (k + 1) then x.toNat + y.toNat + c else x.toNat + y.toNat + c - 2 ^ (k + 1) := by
    rw [hr, BitVec.toNat_ofNat]
    split_ifs with h
    · exact Nat.mod_eq_of_lt h
    · rw [Nat.mod_eq_sub_mod (by omega), Nat.mod_eq_of_lt (by omega)]
  obtain ⟨hxm, hxi⟩ := msb_toInt_succ x
  obtain ⟨hym, hyi⟩ := msb_toInt_succ y
  obtain ⟨hrm, hri⟩ := msb_toInt_succ r
  rw [Nat.pow_succ] at hx hy hn
  rw [hxm, hym, hrm, hxi, hyi, hri]
  clear hr
  generalize r.toNat = r' at *
  generalize 2 ^ k = m at *
  rw [Bool.eq_iff_iff]
  simp only [Bool.and_eq_true, beq_iff_eq, bne_iff_ne, ne_eq, decide_eq_decide, decide_eq_true_eq]
  split_ifs at * <;> omega

/-- The flags of a comparison (R182). -/
theorem flagsSub_rule {k : Nat} (x y : BitVec (k + 1)) : flagsSub (k + 1) x y =
    { z := decide (x = y), n := (x - y).msb, c := decide (y.toNat ≤ x.toNat), v := decide ((x - y).toInt ≠ x.toInt - y.toInt) } := by
  simp only [flagsSub, sub_overflow, beq_eq_decide, BitVec.sub_eq_iff_eq_add]
  simp

/-- A sum with a carry, and its flags (R182). -/
theorem addCarry_rule {k : Nat} (x y : BitVec (k + 1)) (b : Bool) :
    let carry : Nat := if b then 1 else 0
    let r := x + y + BitVec.ofNat (k + 1) carry
    addCarry (k + 1) x y b = (r, { z := decide (r = 0), n := r.msb, c := decide (2 ^ (k + 1) ≤ x.toNat + y.toNat + carry),
                                   v := decide (r.toInt ≠ x.toInt + y.toInt + carry) }) := by
  intro carry r
  have hr : r = BitVec.ofNat (k + 1) (x.toNat + y.toNat + carry) := by
    apply BitVec.eq_of_toNat_eq
    simp [r, BitVec.toNat_add]
  have hc : carry ≤ 1 := by cases b <;> simp [carry]
  rw [← add_overflow x y r carry hc hr]
  simp only [addCarry, beq_eq_decide, hr, carry]

/-- `SADDC` over both widths. -/
theorem saddc_scalarDone {s : State} {w : Wave} {f : Frag} (hI : Issues s w f) (t : SType) (d a b : SReg) :
    let narrow := addCarry 32 (rdS w a.toNat) (rdS w b.toNat) f.flags.c
    let wide := addCarry 64 (rdP w a.toNat) (rdP w b.toNat) f.flags.c
    ScalarDone (.saddc t d a b) s w f (setTyped (stypeWide t) w d.toNat narrow.1 wide.1) (rdM w f)
      (if stypeWide t then wide.2 else narrow.2) (f.pc + 4) := by
  intro narrow wide
  have h := exec_saddc t d a b s
  rw [execSaddc, onFrag_issues hI] at h
  cases ht : stypeWide t
  case false =>
    simp only [ht, Bool.false_eq_true, if_false] at h
    refine done_scalarDone h rfl ?_ ?_ (fun n => rdS_wrS w _ n _) fun n => rdM_wrS w f _ n _
    · rw [wrS_eq]; cases s.cur.b <;> rfl
    · rw [wrS_eq]
  case true =>
    simp only [ht, if_true] at h
    refine done_scalarDone h rfl ?_ ?_ (fun n => rdS_wrP w _ n _) fun n => rdM_wrP w f _ n _
    · rw [wrP_eq]; cases s.cur.b <;> rfl
    · rw [wrP_eq]

/-- Settles O3: the model's flags are the rule's, by the signs of operands and result. -/
theorem scalarFlags : Obligations.ScalarFlags := by
  intro t d a b i s w f hI
  have htest : ∀ x y : Word, flagsTest x y = { z := decide (x &&& y = 0), n := (x &&& y).msb, c := false, v := false } := fun x y => by
    rw [flagsTest, beq_eq_decide]
  refine ⟨?compare, ?compareImm, ?test, ?testImm, ?carry⟩
  case compare => exact flagWord_scalarDone hI (exec_scmp t a b s) (by simp only [flagsSub_rule])
  case compareImm => exact flagWord_scalarDone hI (exec_scmpImm a i s) (flagsSub_rule _ _)
  case test => exact flagWord_scalarDone hI (exec_stst a b s) (htest _ _)
  case testImm => exact flagWord_scalarDone hI (exec_ststImm a i s) (htest _ _)
  case carry => simpa only [addCarry_rule] using saddc_scalarDone hI t d a b

/-! ## Masks (R187) -/

/-- Settles O4: each word writes one mask or one register; the counts are those of the mask's bits. -/
theorem maskWords : Obligations.MaskWords := by
  intro d a b r s w f hI
  refine ⟨?_, ?_, ?_, ?_, ?_, ?_, ?get, ?pop, ?first⟩
  case get => exact oneRegister_of_doneWith (exec_mget r a) fun _ _ => rfl
  case pop => exact oneRegister_of_doneWith (exec_mpop r a) fun w f => by rw [← length_lanesOf]; rfl
  case first => exact oneRegister_of_doneWith (exec_mfirst r a) fun _ _ => rfl
  · exact doneWith_mask d.toNat _ hI (exec_mand d a b s)
  · exact doneWith_mask d.toNat _ hI (exec_mor d a b s)
  · exact doneWith_mask d.toNat _ hI (exec_mxor d a b s)
  · exact doneWith_mask d.toNat _ hI (exec_mandn d a b s)
  · exact doneWith_mask d.toNat _ hI (exec_mnot d a s)
  · exact doneWith_mask d.toNat _ hI (exec_mset d r s)

end Sys2Proof.Machine
end

section
/-! PROOFS. Fragments: `SPLIT`, `JOIN` and `EXIT`, and the exit of a wave (R167, R171, R173, R174). -/

namespace Sys2Proof.Machine

/-! ## Fragment slots -/

@[simp] theorem putFrag_putFrag (w : Wave) (b : Bool) (f g : Option Frag) : putFrag (putFrag w b f) b g = putFrag w b g := by
  cases b <;> rfl

/-- The two slots are put in either order. -/
theorem putFrag_comm (w : Wave) (b : Bool) (f g : Option Frag) : putFrag (putFrag w b f) (!b) g = putFrag (putFrag w (!b) g) b f := by
  cases b <;> rfl

@[simp] theorem ownStrips_putFrag (w : Wave) (b c : Bool) (f : Option Frag) : ownStrips (putFrag w b f) c = ownStrips w c := by
  cases b <;> rfl

@[simp] theorem putFrag_stack (w : Wave) (b : Bool) (f : Option Frag) : (putFrag w b f).stack = w.stack := by cases b <;> rfl
@[simp] theorem putFrag_ident (w : Wave) (b : Bool) (f : Option Frag) : (putFrag w b f).ident = w.ident := by cases b <;> rfl

/-- A wave with one fragment has room in the other slot. -/
theorem newSlot_other {w : Wave} {b : Bool} {f : Frag} (hf : fragOf w b = some f) (ho : fragOf w (!b) = none) : newSlot w = !b := by
  cases b <;> simp_all [newSlot, fragOf]

/-! ## SPLIT (R171) -/

/-- A new fragment in a free slot moves none to the stack. -/
theorem pushFrag_free {w : Wave} (h : fragOf w (newSlot w) = none) (g : Frag) :
    pushFrag w g = { putFrag w (newSlot w) (some g) with bOlder := !newSlot w } := by
  simp only [pushFrag, h]

/-- A new fragment takes the free slot, and the issuer's part stays in its own. -/
theorem divide_free {s : State} {w : Wave} (ho : fragOf w (!s.cur.b) = none) (stay new : Frag) :
    ∃ v, divide s w stay new = .next (putWave s v) ∧ fragOf v s.cur.b = some stay ∧ fragOf v (!s.cur.b) = some new
      ∧ v = { w with fragA := v.fragA, fragB := v.fragB, bOlder := v.bOlder } := by
  have hslot : newSlot (putFrag w s.cur.b (some stay)) = !s.cur.b := newSlot_other (fragOf_putFrag _ _ _) (by simpa using ho)
  rw [divide, pushFrag_free (by simpa [hslot] using ho), hslot]
  refine ⟨_, rfl, ?_⟩
  cases s.cur.b <;> exact ⟨rfl, rfl, rfl⟩

/-- `SPLIT` at a fragment, with the other slot free and none of its strips queued. -/
theorem exec_split_issues {s : State} {w : Wave} {f : Frag} (hI : Issues s w f) (m : MReg) (o : BitVec 22) :
    let t := f.m0 &&& rdM w f m.toNat
    let n := f.m0 &&& ~~~ (rdM w f m.toNat)
    (t = 0 → exec (.split m o) s = done s w f)
    ∧ (t ≠ 0 → n = 0 → exec (.split m o) s = branchTo s w f (target f o))
    ∧ (t ≠ 0 → n ≠ 0 → ownStrips w s.cur.b = false → fragOf w (!s.cur.b) = none → exec (.split m o) s =
        if popc t ≤ popc n then divide s w (partFrag f n (f.pc + 4) .none) (partFrag f t (target f o) .none)
        else divide s w (partFrag f t (target f o) .none) (partFrag f n (f.pc + 4) .none)) := by
  intro t n
  rw [exec_split, execSplit, onFrag_issues hI]
  refine ⟨fun ht => if_pos ht, fun ht hn => ?_, fun ht hn hs ho => ?_⟩
  · exact (if_neg ht).trans (if_pos hn)
  · have hv : victimBusy w = false := by simp [victimBusy, newSlot_other hI.2 ho, ho]
    exact (if_neg ht).trans ((if_neg hn).trans (if_neg (by simp [hs, hv])))

/-! ## JOIN (R173) -/

/-- The first set bit: none before it is set, and it is set unless there is none. -/
theorem firstSet_spec (m : Word) : (∀ j, j < firstSet m → m.getLsbD j = false) ∧ (firstSet m < 32 → m.getLsbD (firstSet m) = true) := by
  unfold firstSet
  cases h : (List.range 32).find? (fun i => m.getLsbD i) with
  | none => exact ⟨by simpa using h, fun h => absurd h (by simp)⟩
  | some i =>
    rw [List.find?_range_eq_some] at h
    exact ⟨by simpa using h.2.2, fun _ => h.1⟩

theorem firstSet_le (m : Word) : firstSet m ≤ 32 := by
  unfold firstSet
  cases h : (List.range 32).find? (fun i => m.getLsbD i) with
  | none => exact le_rfl
  | some i => exact (List.mem_range.1 (List.mem_of_find?_eq_some h)).le

/-- The lowest lane of two masks is the lower mask's. -/
theorem firstSet_or {x y : Word} (h : firstSet x < firstSet y) : firstSet (x ||| y) = firstSet x := by
  obtain ⟨hx, hxs⟩ := firstSet_spec x
  obtain ⟨hy, -⟩ := firstSet_spec y
  obtain ⟨hu, hus⟩ := firstSet_spec (x ||| y)
  have hle := firstSet_le y
  rcases lt_trichotomy (firstSet (x ||| y)) (firstSet x) with hlt | heq | hgt
  · have := hus (by omega)
    rw [BitVec.getLsbD_or, hx _ hlt, hy _ (hlt.trans h)] at this
    cases this
  · exact heq
  · have := hu _ hgt
    rw [BitVec.getLsbD_or, hxs (by omega)] at this
    cases this

theorem liveFrags_lone {w : Wave} {b : Bool} {f : Frag} (hf : fragOf w b = some f) (ho : fragOf w (!b) = none) (hs : w.stack = []) :
    liveFrags w = [f] := by
  cases b <;> simp_all [liveFrags, slotFrags, fragOf]

theorem liveFrags_pair {w : Wave} {b : Bool} {f g : Frag} (hf : fragOf w b = some f) (ho : fragOf w (!b) = some g) (hs : w.stack = []) :
    liveFrags w = if b then [g, f] else [f, g] := by
  cases b <;> simp_all [liveFrags, slotFrags, fragOf]

/-- A live fragment of the greatest depth that does not wait at a join holds the others back. -/
theorem joinCheck_held {w : Wave} {g : Frag} (hg : g ∈ liveFrags w) (hd : g.depth = maxDepth (liveFrags w)) (hw : g.wait ≠ .join) :
    joinCheck w = w := by
  unfold joinCheck
  refine if_neg fun h => hw ?_
  simpa using List.all_eq_true.1 h.2 g (List.mem_filter.2 ⟨hg, by simpa using hd⟩)

/-- A lone fragment at a join passes. -/
theorem joinCheck_lone {w : Wave} {b : Bool} {f : Frag} (hf : fragOf w b = some f) (ho : fragOf w (!b) = none) (hs : w.stack = [])
    (hj : f.wait = .join) : joinCheck w = putFrag w b (some { f with depth := f.depth - 1, pc := f.pc + 4, wait := .none }) := by
  have hl := liveFrags_lone hf ho hs
  have hm : maxDepth [f] = f.depth := by simp [maxDepth]
  have hmerge : mergeFrag [f] f = some { f with depth := f.depth - 1, pc := f.pc + 4, wait := .none } := by
    simp [mergeFrag]
  unfold joinCheck
  rw [hl, hm]
  cases b <;> simp_all [fragOf, putFrag]

/-- Two fragments at one join, of one depth and one token, become one: the member with the lowest lane carries the union. -/
theorem joinCheck_pair {w : Wave} {b : Bool} {f g : Frag} (hf : fragOf w b = some f) (ho : fragOf w (!b) = some g) (hs : w.stack = [])
    (hfj : f.wait = .join) (hgj : g.wait = .join) (hd : g.depth = f.depth) (ht : g.token = f.token) (hlt : firstSet f.m0 < firstSet g.m0) :
    joinCheck w = putFrag (putFrag w (!b) none) b
      (some { f with m0 := f.m0 ||| g.m0, depth := f.depth - 1, pc := f.pc + 4, wait := .none }) := by
  have hor := firstSet_or hlt
  have hne := hlt.ne'
  have hl := liveFrags_pair hf ho hs
  have hm : maxDepth (liveFrags w) = f.depth := by
    rw [hl]; cases b <;> simp [maxDepth, hd]
  have hdeep : (liveFrags w).filter (fun x => x.depth == f.depth) = liveFrags w := by
    rw [hl]; cases b <;> simp [hd]
  have hcarry : mergeFrag (liveFrags w) f
      = some { f with m0 := f.m0 ||| g.m0, depth := f.depth - 1, pc := f.pc + 4, wait := .none } := by
    rw [hl]; cases b <;> simp [mergeFrag, ht, hor, BitVec.or_comm g.m0]
  have hgone : mergeFrag (liveFrags w) g = none := by
    rw [hl]; cases b <;> simp [mergeFrag, ht, hor, hne, BitVec.or_comm g.m0]
  unfold joinCheck
  dsimp only
  rw [hm, hdeep, if_pos ⟨by rw [hl]; cases b <;> simp, by rw [hl]; cases b <;> simp [hfj, hgj]⟩]
  cases b <;> simp_all [fragOf, putFrag]

/-- `JOIN` at a fragment with no strip queued. -/
theorem exec_join_issues {s : State} {w : Wave} {f : Frag} (hI : Issues s w f) (hs : ownStrips w s.cur.b = false) (t : BitVec 10) :
    exec (.join t) s = .next (putWave s (joinCheck (putFrag w s.cur.b (some { f with token := t, wait := .join })))) := by
  rw [exec_join, execJoin, onFrag_issues hI, hs]
  rfl

/-- Settles O9: `SPLIT` by its cases over the free slot; `JOIN` by whether another fragment is there, waits, and holds the lower lane. -/
theorem splitAndJoin : Obligations.SplitAndJoin := by
  refine ⟨fun s w f m o hI => ?split, fun s w f t hI hstack hs => ?join⟩
  case split =>
    obtain ⟨hnone, hall, hpart⟩ := exec_split_issues hI m o
    refine ⟨fun ht => done_scalarDone (hnone ht) rfl rfl rfl (fun _ => rfl) (fun _ => rfl),
      fun ht hn => branchTo_scalarDone (hall ht hn) rfl fun _ => rfl, fun ht hn hs ho => ?_⟩
    have hexec := hpart ht hn hs ho
    simp only [← length_lanesOf, lanesOf] at hexec
    split_ifs at hexec with hle
    · obtain ⟨v, hv, hthis, hnew, hframe⟩ := divide_free ho (partFrag f (f.m0 &&& ~~~ (rdM w f m.toNat)) (f.pc + 4) .none)
        (partFrag f (f.m0 &&& rdM w f m.toNat) (target f o) .none)
      exact ⟨v, _, _, hexec.trans hv, hthis, hnew, fun _ => ⟨rfl, rfl, rfl, rfl⟩, fun h => absurd hle (Nat.not_le.2 h), rfl, rfl, rfl, rfl,
        hframe⟩
    · obtain ⟨v, hv, hthis, hnew, hframe⟩ := divide_free ho (partFrag f (f.m0 &&& rdM w f m.toNat) (target f o) .none)
        (partFrag f (f.m0 &&& ~~~ (rdM w f m.toNat)) (f.pc + 4) .none)
      exact ⟨v, _, _, hexec.trans hv, hthis, hnew, fun h => absurd h hle, fun _ => ⟨rfl, rfl, rfl, rfl⟩, rfl, rfl, rfl, rfl, hframe⟩
  case join =>
    have hexec := exec_join_issues hI hs t
    generalize hj : ({ f with token := t, wait := .join } : Frag) = j at hexec
    have hthis := fragOf_putFrag w s.cur.b (some j)
    have hother := fragOf_putFrag_other w s.cur.b (some j)
    have hstack' : (putFrag w s.cur.b (some j)).stack = [] := by rw [putFrag_stack, hstack]
    refine ⟨fun ho => ?alone, fun g ho hd hw => ?waits, fun g ho hd hw ht _ _ _ => ⟨fun hlt => ?mine, fun hlt => ?theirs⟩⟩
    case alone =>
      rw [hexec, joinCheck_lone hthis (hother.trans ho) hstack' (by rw [← hj]), putFrag_putFrag, ← hj]
    case waits =>
      have hl := liveFrags_pair hthis (hother.trans ho) hstack'
      have hjd : j.depth = f.depth := by rw [← hj]
      rw [hexec, joinCheck_held (g := g) (by rw [hl]; split_ifs <;> simp) (by rw [hl]; split_ifs <;> simp [maxDepth, hjd, hd]) hw]
    case mine =>
      rw [hexec, joinCheck_pair hthis (hother.trans ho) hstack' (by rw [← hj]) hw (by rw [← hj, hd]) (by rw [← hj, ht])
        (by rw [← hj]; exact hlt), putFrag_comm, putFrag_putFrag, ← hj]
    case theirs =>
      have hpair := joinCheck_pair (b := !s.cur.b) (hother.trans ho) (by rw [Bool.not_not]; exact hthis) hstack' hw (by rw [← hj])
        (by rw [← hj, hd]) (by rw [← hj, ht]) (by rw [← hj]; exact hlt)
      rw [hexec, hpair, Bool.not_not, putFrag_putFrag, ← hj, BitVec.or_comm]

/-! ## The exit of a wave (R167) -/

section
variable {s : State} (hclaims : s.vm.claims = []) (core slot : Nat)
include hclaims

/-- A wave that is forgotten with no page claim open: its slot is empty, and of a group its parked words go. -/
theorem forgetWave_unclaimed : forgetWave s core slot = { s with
    groups := Map.mapVals s.groups (fun _ g =>
      { g with sendQ := g.sendQ.filter (fun p => !(p.core == core && p.slot == slot))
               recvQ := g.recvQ.filter (fun p => !(p.core == core && p.slot == slot))
               claimQ := g.claimQ.filter (fun p => !(p.core == core && p.slot == slot)) }),
    waves := Map.erase s.waves (64 * core + slot) } := by
  simp [forgetWave, endClaimsOf, hclaims]

end

/-- A barrier that is not in use stays as it is when a wave exits (R241). -/
theorem exitBarrier_unused {s : State} {gid : Nat} {g : Group} (hg : groupOf s gid = some g) (hb : g.barriers = []) (n : Nat) :
    exitBarrier s gid n = s := by
  have hn : (barrierOf g n).inUse = false := by rw [barrierOf, hb]; rfl
  simp [exitBarrier, hg, hn]

/-- A group with no engine operation has none to cancel. -/
theorem cancelGroupOps_none {s : State} {gid : Nat} (h : opsWhere s (fun o => o.gid == gid) = []) : cancelGroupOps s gid = s := by
  simp [cancelGroupOps, h]

/-- The operations of a group, when operations change but not their groups. -/
theorem opsWhere_mapOps (s : State) (gid : Nat) (k : Nat → Nat → EngOp → EngOp) (hk : ∀ c j o, (k c j o).gid = o.gid) :
    opsWhere { s with cores := Map.mapVals s.cores (fun n c => { c with ops := Map.mapVals c.ops (k n) }) } (fun o => o.gid == gid)
      = opsWhere s (fun o => o.gid == gid) := by
  simp [opsWhere, Map.mapVals, List.flatMap_map, List.filter_map, Function.comp_def, hk]

@[simp] theorem waves_gridDrain (s : State) (core gi : Nat) : (gridDrain s core gi).waves = s.waves := by
  unfold gridDrain
  split_ifs <;> rfl

/-- The state with a wave forgotten, its engine operations running on without it (R321). -/
def waveForgotten (s : State) (core slot : Nat) (w : Wave) : State :=
  { forgetWave s core slot with cores := Map.mapVals (forgetWave s core slot).cores (fun _ c =>
    { c with ops := Map.mapVals c.ops (fun _ o =>
      if o.gid == w.gid && o.wave == w.ident.waveid.toNat then { o with orphan := true } else o) }) }

/-- The state with a wave counted out of its group, its registers back in their pool but where the group ends (R150). -/
def waveCountedOut (s : State) (core slot : Nat) (w : Wave) (g : Group) : State :=
  let t := modGroup s w.gid (fun g => { g with live := g.live - 1, exited := g.exited ++ [w.ident.waveid.toNat] })
  if g.live ≤ 1 then t else poolGive t w.gid (poolOf g core slot) w.valloc

/-- The state with a wave out of its group's barriers (R241). -/
def waveOffBarriers (s : State) (gid : Nat) : State := (List.range 16).foldl (fun t n => exitBarrier t gid n) s

/-- A group with no barrier has none to leave. -/
theorem waveOffBarriers_none {s : State} {gid : Nat} {g : Group} (hg : groupOf s gid = some g) (hb : g.barriers = []) :
    waveOffBarriers s gid = s :=
  List.foldl_fixed' (exitBarrier_unused hg hb) _

/-- A wave of no team exits: it is forgotten and counted out of its group, its barriers go on without it and the fragments that wait for it
go on; the last one ends its group's operations, and the group drains. -/
theorem exitWave_eq {s : State} {core slot : Nat} {w : Wave} {g : Group} (hw : waveAt s core slot = some w) (hteam : teamSizeOf w = 0)
    (hg : groupOf (waveForgotten s core slot w) w.gid = some g) : ∃ k : Wave → Wave,
      let t := mapWaves (waveOffBarriers (waveCountedOut (waveForgotten s core slot w) core slot w g) w.gid) k
      exitWave s core slot = gridDrain
        (if g.live ≤ 1 then modGroup (cancelGroupOps t w.gid) w.gid (fun g => { g with st := .draining }) else t) g.core g.grid := by
  rw [exitWave, hw]
  simp only [hteam, if_true]
  split
  case h_1 hnone => cases hnone.symm.trans hg
  case h_2 g' hsome =>
    cases hsome.symm.trans hg
    exact ⟨_, rfl⟩

section
variable {s : State} {core slot : Nat} {w : Wave} {g : Group} (hg : groupOf s w.gid = some g) (hbar : g.barriers = [])
  (hclaimQ : g.claimQ = [])
include hg hbar hclaimQ

theorem waveForgotten_spec (hclaims : s.vm.claims = []) (hops : opsWhere s (fun o => o.gid == w.gid) = []) :
    waveAt (waveForgotten s core slot w) core slot = none ∧ opsWhere (waveForgotten s core slot w) (fun o => o.gid == w.gid) = []
      ∧ ∃ h, groupOf (waveForgotten s core slot w) w.gid = some h ∧ h.live = g.live ∧ h.st = g.st ∧ h.barriers = [] ∧ h.claimQ = [] := by
  unfold waveForgotten
  refine ⟨?_, ?_, ?_⟩
  · simp [forgetWave_unclaimed hclaims, waveAt]
  · rw [opsWhere_mapOps _ _ _ (fun _ _ o => by split_ifs <;> rfl), forgetWave_unclaimed hclaims]
    exact hops
  · have hfind : Map.find s.groups w.gid = some g := hg
    rw [forgetWave_unclaimed hclaims, groupOf, Map.find_mapVals, hfind]
    exact ⟨_, rfl, rfl, rfl, hbar, by simp [hclaimQ]⟩

theorem waveCountedOut_spec : waveCountedOut s core slot w g = { s with groups := (waveCountedOut s core slot w g).groups }
    ∧ ∃ h, groupOf (waveCountedOut s core slot w g) w.gid = some h ∧ h.live = g.live - 1 ∧ h.st = g.st ∧ h.barriers = [] := by
  unfold waveCountedOut
  simp only [modGroup_eq_putGroup hg]
  split_ifs
  · exact ⟨rfl, _, groupOf_putGroup_self _ _ _, rfl, rfl, hbar⟩
  · rw [poolGive_unclaimed (groupOf_putGroup_self _ _ _) (by exact hclaimQ)]
    exact ⟨rfl, _, groupOf_putGroup_self _ _ _, rfl, rfl, hbar⟩

/-- A wave of no team exits, of a group with no barrier, parked claim or engine operation and with no page claim open: its slot is empty, and
its group counts one wave less, and drains when that was the last. -/
theorem exitWave_spec (hw : waveAt s core slot = some w) (hteam : teamSizeOf w = 0) (hclaims : s.vm.claims = [])
    (hops : opsWhere s (fun o => o.gid == w.gid) = []) : waveAt (exitWave s core slot) core slot = none
      ∧ ∃ h, groupOf (exitWave s core slot) w.gid = some h ∧ h.live = g.live - 1 ∧ h.st = if g.live ≤ 1 then .draining else g.st := by
  obtain ⟨hgone, hops2, g2, hg2, hlive2, hst2, hbar2, hclaim2⟩ :=
    waveForgotten_spec (core := core) (slot := slot) hg hbar hclaimQ hclaims hops
  obtain ⟨hframe, h, hh, hlive, hst, hbarh⟩ :=
    waveCountedOut_spec (s := waveForgotten s core slot w) (core := core) (slot := slot) (w := w) hg2 hbar2 hclaim2
  obtain ⟨k, hexit⟩ := exitWave_eq hw hteam hg2
  rw [waveOffBarriers_none hh hbarh] at hexit
  generalize waveCountedOut (waveForgotten s core slot w) core slot w g2 = t at hframe hh hexit
  have hgone' : waveAt (mapWaves t k) core slot = none := by
    have hnone : Map.find (waveForgotten s core slot w).waves (64 * core + slot) = none := Option.map_eq_none_iff.1 hgone
    rw [hframe, waveAt, mapWaves_waves, Map.find_mapVals, hnone]
    rfl
  have hops' : opsWhere (mapWaves t k) (fun o => o.gid == w.gid) = [] := by
    rw [hframe]; exact hops2
  have hh' : groupOf (mapWaves t k) w.gid = some h := hh
  rw [hexit, cancelGroupOps_none hops', modGroup_eq_putGroup hh', hlive2]
  rw [hlive2] at hlive
  rw [hst2] at hst
  constructor
  · rw [waveAt, waves_gridDrain]
    split_ifs <;> exact hgone'
  · rw [groupOf, groups_gridDrain]
    split_ifs
    · exact ⟨_, groupOf_putGroup_self _ _ _, hlive, rfl⟩
    · exact ⟨h, hh', hlive, hst⟩

end

/-! ## EXIT (R174) -/

/-- Settles O10: `EXIT` by the fragment's strips and by whether another fragment is there. -/
theorem exitEnds : Obligations.ExitEnds := by
  refine ⟨rfl, fun s w f hI => ⟨fun hs => ?strips, fun g hs hstack ho hj => ?other, fun hs hstack ho => ?last⟩⟩
  case strips => rw [exec_exit, execExit, onFrag_issues hI, if_pos hs, blocked]
  case other =>
    have hl : liveFrags (putFrag w s.cur.b none) = [g] :=
      liveFrags_lone (b := !s.cur.b) (by rwa [fragOf_putFrag_other]) (by rw [Bool.not_not, fragOf_putFrag]) (by rwa [putFrag_stack])
    have hcheck := joinCheck_held (w := putFrag w s.cur.b none) (by rw [hl]; simp) (by rw [hl]; simp [maxDepth]) hj
    rw [exec_exit, execExit, onFrag_issues hI, hs, hcheck]
    simp [hl]
  case last =>
    have hl : liveFrags (putFrag w s.cur.b none) = [] := by
      generalize s.cur.b = b at ho ⊢
      cases b <;> simp_all [liveFrags, slotFrags, fragOf, putFrag]
    have hcheck : joinCheck (putFrag w s.cur.b none) = putFrag w s.cur.b none := by simp [joinCheck, hl]
    have hexec : exec .exit s = .next (exitWave (putWave s (putFrag w s.cur.b none)) w.core w.slot) := by
      rw [exec_exit, execExit, onFrag_issues hI, hs, hcheck]
      simp [hl]
    refine ⟨hexec, fun g hg hbar hclaimQ hteam hclaims hops => ⟨_, hexec, ?_⟩⟩
    have hat := waveAt_putWave s (putFrag w s.cur.b none)
    have hspec := exitWave_spec (s := putWave s (putFrag w s.cur.b none)) (by rw [putFrag_gid]; exact hg) hbar hclaimQ hat
      (by rw [teamSizeOf, putFrag_ident]; exact hteam) hclaims (by rw [putFrag_gid]; exact hops)
    rwa [putFrag_core, putFrag_slot, putFrag_gid] at hspec

end Sys2Proof.Machine
end

section
/-! PROOFS. Scalar accesses that trap: misaligned addresses, and accesses that fault (R184, R189, R190, R291). -/

namespace Sys2Proof.Machine

/-! ## An access that faults keeps the contexts' descriptors -/

/-- The descriptor of a context (R111). -/
def contextDesc (s : State) (id : Nat) : Option CtxDesc := (ctxOf s id).map (·.desc)

@[simp] theorem contextDesc_sheetNote (s : State) (ctx va : Nat) (touch miss : Bool) (id : Nat) :
    contextDesc (sheetNote s ctx va touch miss) id = contextDesc s id := by
  rw [contextDesc, ctxOf, sheetNote, Map.find_modify]
  by_cases h : id = ctx
  · subst h; simp [contextDesc, ctxOf, Option.map_map, Function.comp_def]
  · rw [if_neg h, contextDesc, ctxOf]

@[simp] theorem contextDesc_tlbPut (s : State) (core ctx va : Nat) (l : Leaf) (id : Nat) :
    contextDesc (tlbPut s core ctx va l) id = contextDesc s id := rfl

@[simp] theorem contextDesc_dropL1Line (s : State) (core line id : Nat) : contextDesc (dropL1Line s core line) id = contextDesc s id := rfl

@[simp] theorem contextDesc_linkSend (s : State) (ctx agent line : Nat) (wr : Bool) (id : Nat) :
    contextDesc (linkSend s ctx agent line wr) id = contextDesc s id := by
  unfold linkSend; split <;> rfl

@[simp] theorem contextDesc_extTouch (s : State) (line : Nat) (plain : Bool) (id : Nat) :
    contextDesc (extTouch s line plain) id = contextDesc s id := by
  unfold extTouch; dsimp only; split_ifs <;> rfl

@[simp] theorem contextDesc_localFrame (s : State) (ctx page id : Nat) : contextDesc (localFrame s ctx page) id = contextDesc s id := by
  unfold localFrame; split <;> rfl

@[simp] theorem contextDesc_clockNote (s : State) (page id : Nat) : contextDesc (clockNote s page) id = contextDesc s id := by
  unfold clockNote; split <;> rfl

@[simp] theorem contextDesc_dropBad (s : State) (core line id : Nat) : contextDesc (dropBad s core line) id = contextDesc s id := by
  unfold dropBad evictL1
  split
  · split
    · rfl
    · dsimp only; split <;> rfl
  · rfl

/-- What an access answers: where it faults, it keeps the descriptors. -/
def FaultKeeps (s : State) (r : State × AccRes) : Prop := ∀ c, r.2 = .fault c → ∀ id, contextDesc r.1 id = contextDesc s id

theorem faultKeeps_ite {s : State} {p : Prop} [Decidable p] {x y : State × AccRes} (hx : FaultKeeps s x) (hy : FaultKeeps s y) :
    FaultKeeps s (if p then x else y) := by
  split_ifs <;> assumption

theorem faultKeeps_access (s : State) (core slot ctx : Nat) (priv : Priv) (va n : Nat) (k : AccKind) (claim : Bool) :
    FaultKeeps s (access s core slot ctx priv va n k claim) := by
  unfold access
  dsimp only
  split
  case h_1 => exact faultKeeps_ite (fun _ _ => by simp) (fun _ _ => by simp)
  case h_2 => exact fun _ _ _ => rfl
  case h_3 =>
    repeat' apply faultKeeps_ite
    all_goals
      intro c hc id
      simp [apply_ite (contextDesc · id)] at hc ⊢

/-! ## Traps over the state of an access -/

/-- What the fault of a fragment's scalar word asks of its wave (R184, R355). -/
def scalarReq (f : Frag) (b : Bool) (cause : Cause) (addr : DWord) : TrapReq :=
  { kind := .scalar, cause := cause, unit := 1, mask := f.m0, addr := addr, info := BitVec.ofNat 32 0, pc := f.pc, b := b }

theorem trapS_eq (t : State) (w : Wave) (f : Frag) (cause : Cause) (addr : DWord) : trapS t w f cause addr = .next
    (raiseTrap (putWave t (putFrag w t.cur.b (some { f with wait := .none }))) w.core w.slot (scalarReq f t.cur.b cause addr)) := rfl

/-- A scalar word of a fragment at U that traps over a state in which its access has run takes the trap. -/
theorem trapAfter_taken {i : Instr} {s t : State} {w : Wave} {f : Frag} {c x : Ctx} {cause : Cause} {addr : DWord}
    (h : exec i s = trapS t w f cause addr) (hcur : t.cur = s.cur) (hU : AtUser t w f x) (hdesc : x.desc = c.desc) :
    TrapTaken i s f c cause 1 addr 0 f.pc := by
  obtain ⟨hI, hp, htrap, hs, hx⟩ := hU
  obtain ⟨hcore, hslot⟩ := issues_place hI
  rw [hcur] at hcore hslot
  rw [trapS_eq, hcur] at h
  obtain ⟨v, hv⟩ : ∃ v, v = putFrag w s.cur.b (some { f with wait := .none }) := ⟨_, rfl⟩
  obtain ⟨r, hr⟩ : ∃ r, r = scalarReq f s.cur.b cause addr := ⟨_, rfl⟩
  have hb : r.b = s.cur.b := by rw [hr]; rfl
  have henters := raiseTrap_enters (r := r) (waveAt_putWave t v) (by rw [hv, putFrag_priv, hp]) (by rw [hv, putFrag_trap]; exact htrap)
    (by rw [hv, putFrag_strips, hs])
  obtain ⟨u, henter⟩ := enterTrap_spec (r := r) (c := x) (f := { f with wait := .none })
    (waveAt_putWave (putWave t v) { v with trap := .entering r })
    (by rw [hb, hv]; exact fragOf_putFrag w s.cur.b _) (by rw [hv, putFrag_gid]; exact hx)
  obtain ⟨h1, h2, hpriv, htreg, hg⟩ := handlerWave_spec x.desc { v with trap := .entering r } r r.b { f with wait := .none }
  generalize handlerWave x.desc { v with trap := .entering r } r r.b { f with wait := .none } = y at henter h1 h2 hpriv htreg hg
  rw [hb] at hg
  have hplace : waveAt (putWave u y) s.cur.core s.cur.slot = some y := by
    have hat := waveAt_putWave u y
    rwa [h1, h2, hv, putFrag_core, putFrag_slot, hcore, hslot] at hat
  refine ⟨putWave u y, ?_, y, _, hplace, hpriv, ?_, hg, rfl, by rw [hdesc], rfl⟩
  · rw [h, ← hv, ← hr, ← henter, ← henters, hv, putFrag_core, putFrag_slot]
  · rw [htreg, hr]; rfl

section User

variable {s : State} {w : Wave} {f : Frag} {c : Ctx} (hU : AtUser s w f c)
include hU

/-- An access that faults, but for a reserved frame, leaves its fragment at U, in a context of the same descriptor. -/
theorem access_fault_atUser {t : State} {core slot ctx va n : Nat} {priv : Priv} {k : AccKind} {claim : Bool} {cause : Cause}
    (h : access s core slot ctx priv va n k claim = (t, .fault cause)) : ∃ x, AtUser t w f x ∧ x.desc = c.desc := by
  obtain ⟨⟨hw, hf⟩, hp, htrap, hs, hc⟩ := hU
  have hkeeps := faultKeeps_access s core slot ctx priv va n k claim cause (by rw [h]) (ctxIdOf s w.gid)
  rw [h, contextDesc, contextDesc, hc, Option.map_some, Option.map_eq_some_iff] at hkeeps
  obtain ⟨x, hx, hdesc⟩ := hkeeps
  refine ⟨x, ⟨⟨?_, by rw [access_cur h]; exact hf⟩, hp, htrap, hs, by rw [access_ctxIdOf h]; exact hx⟩, hdesc⟩
  rw [waveAt, access_waves h, access_cur h]
  exact hw

/-- A scalar word whose access faults, but for a reserved frame, takes the fault (R190). -/
theorem sAccess_faults {i : Instr} {t : State} {va : DWord} {n : Nat} {k : AccKind} {yes : State → Nat → Out} {cause : Cause}
    (h : exec i s = sAccess s w f va n k yes) (hne : cause ≠ .reservedTouch)
    (hacc : access s w.core w.slot (ctxIdOf s w.gid) .u va.toNat n k false = (t, .fault cause)) : TrapTaken i s f c cause 1 va 0 f.pc := by
  obtain ⟨x, hx, hdesc⟩ := access_fault_atUser hU hacc
  refine trapAfter_taken (t := t) ?_ (access_cur hacc) hx hdesc
  rw [h, sAccess, sAccessAs, hU.2.1, hacc]
  simp only [hne, if_false]

/-! ## Misaligned addresses (R184, R189) -/

/-- A word that checks its address first takes `MISALIGN` at a misaligned one. -/
theorem misaligned_taken {i : Instr} {va : DWord} {n : Nat} {out : Out} (hal : va.toNat % n ≠ 0)
    (h : exec i s = if va.toNat % n ≠ 0 then trapS s w f .misalign va else out) : TrapTaken i s f c .misalign 1 va 0 f.pc :=
  trapAt_taken (k := .scalar) (info := 0) hU (h.trans (if_pos hal))

theorem loadS_misaligned {i : Instr} {d : SReg} {wide : Bool} {addr : Wave → DWord} (h : exec i s = loadS d wide addr s)
    (hal : (addr w).toNat % accessBytes wide ≠ 0) : TrapTaken i s f c .misalign 1 (addr w) 0 f.pc :=
  misaligned_taken hU hal (by rw [h, loadS, onFrag_issues hU.1]; rfl)

theorem storeS_misaligned {i : Instr} {d : SReg} {wide : Bool} {addr : Wave → DWord} (h : exec i s = storeS d wide addr s)
    (hal : (addr w).toNat % accessBytes wide ≠ 0) : TrapTaken i s f c .misalign 1 (addr w) 0 f.pc :=
  misaligned_taken hU hal (by rw [h, storeS, onFrag_issues hU.1]; rfl)

theorem onTask_misaligned {i : Instr} {a : SReg} {k : Wave → Frag → DWord → Out} (h : exec i s = onTask a s k)
    (hal : (rdP w a.toNat).toNat % 64 ≠ 0) : TrapTaken i s f c .misalign 1 (rdP w a.toNat) 0 f.pc :=
  misaligned_taken hU hal (by rw [h, onTask, onFrag_issues hU.1])

end User

/-- Settles O20: each word checks its address before its access, and takes its access's fault. -/
theorem scalarAccessTraps : Obligations.ScalarAccessTraps := by
  refine ⟨fun s w f c hU d a i n sc o => ⟨fun hal => ⟨?_, ?_, ?look⟩, fun hal => ⟨?_, ?_, ?waita, ?wake⟩, fun hal => ⟨?_, ?_⟩,
      fun hal => ⟨?_, ?_, ?_, ?_⟩⟩,
    fun s w f c hU d a i t cause => ?faults⟩
  case look => exact misaligned_taken hU hal (by rw [exec_sldk, execSldk, onFrag_issues hU.1]; rfl)
  case waita => exact misaligned_taken hU hal (by rw [exec_waita, execWaita, onFrag_issues hU.1])
  case wake => exact misaligned_taken hU hal (by rw [exec_wake, execWake, onFrag_issues hU.1])
  case faults =>
    intro va hal hne
    have hgo : ¬ va.toNat % 4 ≠ 0 := not_not.2 hal
    refine ⟨fun hacc => ?load, fun hacc => ?konst, fun hacc => ?store⟩
    case load => exact sAccess_faults hU (by rw [exec_sld, execSld, loadS, onFrag_issues hU.1]; exact if_neg hgo) hne hacc
    case konst => exact sAccess_faults hU (by rw [exec_sldk, execSldk, onFrag_issues hU.1]; exact if_neg hgo) hne hacc
    case store => exact sAccess_faults hU (by rw [exec_sst, execSst, storeS, onFrag_issues hU.1]; exact if_neg hgo) hne hacc
  · exact loadS_misaligned (wide := false) hU (exec_sld d a i s) hal
  · exact storeS_misaligned (wide := false) hU (exec_sst d a i s) hal
  · exact loadS_misaligned (wide := false) hU (exec_sldOrdered d a sc o false s) hal
  · exact storeS_misaligned (wide := false) hU (exec_sstOrdered d a sc o false s) hal
  · exact loadS_misaligned (wide := true) hU (exec_sldOrdered d a sc o true s) hal
  · exact storeS_misaligned (wide := true) hU (exec_sstOrdered d a sc o true s) hal
  · exact onTask_misaligned hU (by rw [exec_klaunch, execKlaunch, spawnWord]) hal
  · exact onTask_misaligned hU (by rw [exec_tspawn, execTspawn, spawnWord]) hal
  · exact onTask_misaligned hU (exec_tdec d a s) hal
  · exact onTask_misaligned hU (exec_tadd d a n s) hal

end Sys2Proof.Machine
end

section
/-! PROOFS. Lane words whose results are known at issue: their operations, and how an operation settles (R164 to R166, R214). -/

namespace Sys2Proof.Machine

/-! ## Settling (R164, R165) -/

/-- No stop mark holds, or an operation has still to settle: the L-stream stays where it is. -/
theorem lstopCheck_stays {s : State} {core slot : Nat} {w : Wave} (hw : waveAt s core slot = some w)
    (h : w.lstop = false ∨ ∃ o ∈ w.ops, o.settled = false) : lstopCheck s core slot = s := by
  have hstays : (!w.lstop || w.ops.any (fun o => !o.settled)) = true := by
    rcases h with h | ⟨o, ho, hs⟩
    · simp [h]
    · simp only [Bool.or_eq_true, List.any_eq_true]
      exact .inr ⟨o, ho, by simp [hs]⟩
  unfold lstopCheck
  simp only [hw, hstays, if_true]

theorem applyWrite_setOps (os : List LaneOp) (w : Wave) (x : RegWrite) : applyWrite { w with ops := os } x = { applyWrite w x with ops := os } := by
  cases x with
  | v r l v => rfl
  | m n l b => simp only [applyWrite, wrMaskBit, wrM]; split_ifs <;> rfl
  | s r v => simp only [applyWrite, wrS]; split_ifs <;> rfl

/-- Register writes do not look at the operations. -/
theorem applyWrites_setOps (os : List LaneOp) (ws : List RegWrite) (w : Wave) :
    applyWrites { w with ops := os } ws = { applyWrites w ws with ops := os } := by
  induction ws generalizing w with
  | nil => rfl
  | cons x ws ih => exact (congrArg (fun v => applyWrites v ws) (applyWrite_setOps os w x)).trans (ih (applyWrite w x))

section
variable {s : State} {core slot : Nat} {w : Wave} {o : LaneOp} (hw : waveAt s core slot = some w) (hops : w.ops = [o])
  (hset : o.settled = false) (hundone : undone o = 0)
include hw hops hset hundone

/-- The one operation of a wave, with every lane performed and no stop mark in hand, settles: its results are written, those of a scalar
register wait for the strip's end (R208), and it is gone. -/
theorem settleOp_lone (hpend : o.pendingAnswers = 0) (hfaults : o.faults = []) (hstop : w.lstop = false) :
    settleOp s core slot o.id = putWave s (spinIf s w (applyWrites
      { w with ops := [], late := w.late ++ o.res.filter isScalarWrite } (o.res.filter (fun x => !isScalarWrite x)))) := by
  have hfind : w.ops.find? (fun x => x.id == o.id) = some o := by simp [hops]
  have hcan : (o.settled || !canSettle o) = false := by simp [hset, canSettle, hundone, hpend]
  have hgone : w.ops.filterMap (fun x => if x.id == o.id then (if o.faults = [] then none else some { o with settled := true, res := [] })
      else some x) = [] := by simp [hops, hfaults]
  obtain ⟨hcore, hslot⟩ := waveAt_place hw
  unfold settleOp
  simp only [hw, hfind, hcan, Bool.false_eq_true, if_false, hgone]
  have hframe := applyWrites_frame (o.res.filter (fun x => !isScalarWrite x)) (by simp)
    { w with ops := [], late := w.late ++ o.res.filter isScalarWrite }
  generalize applyWrites _ _ = v at hframe ⊢
  have hv : (spinIf s w v).core = core ∧ (spinIf s w v).slot = slot ∧ (spinIf s w v).lstop = false := by
    rw [hframe, ← hcore, ← hslot, ← hstop]
    unfold spinIf
    split_ifs <;> exact ⟨rfl, rfl, rfl⟩
  obtain ⟨hvcore, hvslot, hvstop⟩ := hv
  have hat := waveAt_putWave s (spinIf s w v)
  rw [hvcore, hvslot] at hat
  exact lstopCheck_stays hat (.inl hvstop)

/-- Results for scalar registers alone wait, and nothing else of the wave changes. -/
theorem settleOp_scalar (hpend : o.pendingAnswers = 0) (hfaults : o.faults = []) (hstop : w.lstop = false)
    (hres : ∀ y ∈ o.res, isScalarWrite y = true) :
    settleOp s core slot o.id = putWave s { w with ops := [], late := w.late ++ o.res } := by
  have hlate : o.res.filter isScalarWrite = o.res := List.filter_eq_self.2 hres
  have hnow : o.res.filter (fun x => !isScalarWrite x) = [] := List.filter_eq_nil_iff.2 fun y hy => by simp [hres y hy]
  rw [settleOp_lone hw hops hset hundone hpend hfaults hstop, hlate, hnow]
  simp [applyWrites, spinIf]

/-- Results for elements and mask bits are written. -/
theorem settleOp_lanes (hpend : o.pendingAnswers = 0) (hfaults : o.faults = []) (hstop : w.lstop = false)
    (hres : ∀ y ∈ o.res, isScalarWrite y = false) : ∃ v, settleOp s core slot o.id = putWave s v
      ∧ v = { applyWrites w o.res with ops := [], spin := v.spin, demoted := v.demoted, age := v.age } := by
  have hlate : o.res.filter isScalarWrite = [] := List.filter_eq_nil_iff.2 fun y hy => by simp [hres y hy]
  have hnow : o.res.filter (fun x => !isScalarWrite x) = o.res := List.filter_eq_self.2 fun y hy => by simp [hres y hy]
  refine ⟨_, settleOp_lone hw hops hset hundone hpend hfaults hstop, ?_⟩
  rw [hlate, hnow, List.append_nil, applyWrites_setOps, spinIf]
  split_ifs <;> rfl

/-- `LANE_OP_SETTLE` of a wave's one operation with every lane performed: behind another in its pipe it stays (R214). -/
theorem exec_laneOpSettle_lone :
    exec (.laneOpSettle core slot 0) s = .next (if pipeBehind s core slot o then s else settleOp s core slot o.id) := by
  have hof : opsOf s core slot = [o] := by simp [opsOf, hw, hops]
  have hrun : rerunAll core slot [o.id] s = some s := by simp [rerunAll, hof, hset, rerun, hundone]
  rw [exec_laneOpSettle, execLaneOpSettle, hof]
  simp only [List.getElem?_cons_zero, hrun]

omit hset hundone in
/-- An operation with an answer outstanding does not settle. -/
theorem settleOp_pending (hpend : o.pendingAnswers ≠ 0) : settleOp s core slot o.id = s := by
  have hfind : w.ops.find? (fun x => x.id == o.id) = some o := by simp [hops]
  unfold settleOp
  simp [hw, hfind, canSettle, hpend]

end

/-! ## Issuing (R164, R165, R214) -/

/-- The L-stream goes on behind a word whose operation is outstanding, and stops at a stop mark or the strip's end. -/
theorem laneDone_outstanding (s : State) {w : Wave} {t : Strip} {o : LaneOp} (stop : Bool) (hhead : w.strips.head? = some t)
    (ho : o ∈ w.ops) (hset : o.settled = false) (hstop : w.lstop = false) :
    laneDone (putWave s w) w.core w.slot stop
      = putWave s { w with headOff := w.headOff + 1, lstop := stop || decide (t.len ≤ w.headOff + 1) } := by
  obtain ⟨rest, hstrips⟩ := List.head?_eq_some_iff.1 hhead
  obtain ⟨v, hv⟩ : ∃ v, v = { w with headOff := w.headOff + 1, lstop := stop || decide (t.len ≤ w.headOff + 1) } := ⟨_, rfl⟩
  have hvcore : v.core = w.core := by rw [hv]
  have hvslot : v.slot = w.slot := by rw [hv]
  have hat := waveAt_putWave s v
  rw [hvcore, hvslot] at hat
  unfold laneDone
  simp only [waveAt_putWave, hstrips, hstop, Bool.false_or]
  rw [← hstrips, ← hv, putWave_putWave s w v hvcore hvslot]
  exact lstopCheck_stays hat (.inr ⟨o, by rw [hv]; exact ho, hset⟩)

/-- What a wave goes past does not hang on its count of operations. -/
theorem past_of_nextOp {w v : Wave} {t : Strip} {n : Nat} (h : Past { w with nextOp := n } v t) : Past w v t :=
  ⟨h.next, h.ends, h.frags, h.frame⟩

/-- With no active lane there is no result. -/
theorem flatMap_lanesOf_none {m : Word} (h : m = 0) (g : Nat → List RegWrite) : (lanesOf m).flatMap g = [] := by
  rw [h]; rfl

section Streams

variable {s : State} {w : Wave} {t : Strip} {f : Frag} (hS : Streams s w t f)
include hS

/-- An operation with an active lane and its results known stays outstanding. -/
theorem issueDone_active (fd : Map Feed) (stop : Bool) (o : LaneOp) (res : List RegWrite) (hact : o.active ≠ 0) (hset : o.settled = false) :
    issueDone s { w with feeds := fd } stop o res = .next (putWave (nextStamp s)
      { w with feeds := fd, nextOp := w.nextOp + 1, ops := [{ o with done := o.active, res := res, stamp := s.stamp }],
               headOff := w.headOff + 1, lstop := stop || decide (t.len ≤ w.headOff + 1) }) := by
  unfold issueDone opIssued
  simp only [hact, if_false, hS.ops, List.nil_append]
  exact congrArg Host.Outcome.next (laneDone_outstanding (nextStamp s)
    (w := { w with feeds := fd, nextOp := w.nextOp + 1, ops := [{ o with done := o.active, res := res, stamp := s.stamp }] })
    stop hS.head (List.mem_singleton_self _) hset hS.lstop)

/-- An operation with no active lane and no result settles at once, and the L-stream is past its word. -/
theorem issueDone_inactive (fd : Map Feed) (stop : Bool) (o : LaneOp) (hact : o.active = 0) (hset : o.settled = false)
    (hpend : o.pendingAnswers = 0) (hfaults : o.faults = []) :
    ∃ v, issueDone s { w with feeds := fd } stop o [] = .next (putWave (nextStamp s) v) ∧ Past w v t ∧ v.nextOp = w.nextOp + 1
      ∧ v.feeds = fd ∧ v.vregs = w.vregs ∧ v.masks = w.masks := by
  obtain ⟨p, hp⟩ : ∃ p : LaneOp, p = { o with done := o.active, res := [], stamp := s.stamp } := ⟨_, rfl⟩
  obtain ⟨u, hu⟩ : ∃ u : Wave, u = { w with feeds := fd, nextOp := w.nextOp + 1, ops := [p] } := ⟨_, rfl⟩
  have hissued : opIssued s { w with feeds := fd } { o with done := o.active, res := [] } = putWave (nextStamp s) u := by
    simp [opIssued, hS.ops, hu, hp]
  have hucore : u.core = w.core := by rw [hu]
  have huslot : u.slot = w.slot := by rw [hu]
  have hat : waveAt (putWave (nextStamp s) u) w.core w.slot = some u := by
    have h := waveAt_putWave (nextStamp s) u
    rwa [hucore, huslot] at h
  have hundone : undone p = 0 := by simp [hp, undone, hact]
  have hsettle : settleOp (putWave (nextStamp s) u) w.core w.slot o.id
      = putWave (nextStamp s) { w with feeds := fd, nextOp := w.nextOp + 1 } := by
    have h := settleOp_scalar hat (o := p) (by rw [hu]) (by rw [hp]; exact hset) hundone (by rw [hp]; exact hpend) (by rw [hp]; exact hfaults)
      (by rw [hu]; exact hS.lstop) (by simp [hp])
    rw [show p.id = o.id by rw [hp], show p.res = [] by rw [hp], List.append_nil] at h
    rw [h, hu]
    simp only [hS.ops]
    exact putWave_putWave _ _ _ rfl rfl
  obtain ⟨v, hv, hpast, hnext, hfeeds, hvregs, hmasks⟩ := laneDone_past (s := nextStamp s) (w := { w with nextOp := w.nextOp + 1 }) stop
    w.vregs w.masks fd w.spin w.demoted w.age hS.head hS.ops hS.late hS.lstop hS.trap hS.fab
  refine ⟨v, ?_, past_of_nextOp hpast, hnext, hfeeds, hvregs, hmasks⟩
  unfold issueDone
  dsimp only
  rw [hissued, if_pos hact, hsettle]
  exact congrArg Host.Outcome.next hv

/-- A variable-latency word whose results are known at issue, over ready feeds. -/
theorem laneLate_issues {i : Instr} {x : LWord} {g : Wave → Frag → Word → List RegWrite} {res : List RegWrite} (hF : FeedsReady w x)
    (h : exec i s = laneLate i x s g) (hres : g w f (f.m0 &&& rdM w f x.guard.toNat) = res)
    (hnone : f.m0 &&& rdM w f x.guard.toNat = 0 → res = []) :
    IssuedDone i s (nextStamp s) w t x.stop (feedsOf x) (allDone (opFor s w t i (f.m0 &&& rdM w f x.guard.toNat) [] []) res) := by
  obtain ⟨hready, hfault⟩ := hF
  have hpop := popFeeds_eq w (feedsOf x)
  generalize hfd : (popFeeds w (feedsOf x)).feeds = fd at hpop
  have hexec : exec i s = issueDone s { w with feeds := fd } x.stop (newOp w t i (f.m0 &&& rdM w f x.guard.toNat) [] []) res := by
    rw [h, laneLate, onLane_streams hS, withFeeds, hready, hfault]
    simp only [Bool.not_true, Bool.false_eq_true, if_false, hres, hpop]
    rfl
  refine ⟨fun hact => ?_, fun hact => ?_⟩
  · have hissue := issueDone_active hS fd x.stop (newOp w t i (f.m0 &&& rdM w f x.guard.toNat) [] []) res hact rfl
    exact ⟨_, hexec.trans hissue, rfl, rfl, rfl, rfl, hfd.symm, rfl⟩
  · rw [hnone hact] at hexec
    rw [hfd]
    obtain ⟨v, hv, hrest⟩ := issueDone_inactive hS fd x.stop (newOp w t i (f.m0 &&& rdM w f x.guard.toNat) [] []) hact rfl rfl rfl
    exact ⟨v, hexec.trans hv, hrest⟩

/-- A word that gives each active lane a result of its type. -/
theorem perLane_issues {i : Instr} {x : LWord} {r : Wave → Nat → Nat} (hF : FeedsReady w x)
    (h : exec i s = laneLate i x s (fun v _ act => perLane x act (r v))) :
    let act := f.m0 &&& rdM w f x.guard.toNat
    IssuedDone i s (nextStamp s) w t x.stop (feedsOf x)
      (allDone (opFor s w t i act [] []) ((lanesOf act).flatMap (fun l => elemWrites x.ty x.vd.toNat l (r w l)))) :=
  laneLate_issues hS hF h rfl (flatMap_lanesOf_none · _)

/-- A special function of one source (R222). -/
theorem specWord_issues {i : Instr} {x : LWord} {k : SpecFn} (hF : FeedsReady w x) (h : exec i s = specWord i k x s) :
    let act := f.m0 &&& rdM w f x.guard.toNat
    IssuedDone i s (nextStamp s) w t x.stop (feedsOf x) (allDone (opFor s w t i act [] []) ((lanesOf act).flatMap (fun l =>
      elemWrites x.ty x.vd.toNat l (specEval k x.ty (rndOf x) (satOf x) (readF x.ty (srcA s w x.ty x l)))))) :=
  perLane_issues hS hF (r := fun v l => specEval k x.ty (rndOf x) (satOf x) (readF x.ty (srcA s v x.ty x l))) h

end Streams

/-! ## Results along the active lanes (R205, R206) -/

theorem pairwise_lanesOf (m : Word) : (lanesOf m).Pairwise (· < ·) := List.pairwise_lt_range.filter _

/-- Of lanes in order, those before a later one: the first, and those after it. -/
theorem filter_before_cons {k l : Nat} {ls : List Nat} (h : k < l) :
    (k :: ls).filter (fun j => decide (j < l)) = k :: ls.filter (fun j => decide (j < l)) := by
  simp [h]

/-- Before the first of lanes in order stands none. -/
theorem filter_before_head {k : Nat} {ls : List Nat} (h : ∀ j ∈ ls, k < j) : (k :: ls).filter (fun j => decide (j < k)) = [] := by
  simp only [List.filter_eq_nil_iff, decide_eq_true_eq, not_lt, List.mem_cons]
  rintro j (rfl | hj)
  · exact le_rfl
  · exact (h j hj).le

section Combine

variable (op : Nat) (ty : LType) (sat : Bool) (a : Nat → Nat)

/-- The combination of all values. -/
theorem combRun_total (acc : Nat) (ls : List Nat) : (combRun op ty sat acc (ls.map a)).2 = ls.foldl (fun n j => combStep op ty sat n (a j)) acc := by
  induction ls generalizing acc with
  | nil => rfl
  | cons l ls ih => exact ih _

/-- The running combinations, each beside the lane that it stands before. -/
theorem zip_combRun_before (acc : Nat) (ls : List Nat) (hls : ls.Pairwise (· < ·)) :
    ls.zip (combRun op ty sat acc (ls.map a)).1
      = ls.map (fun l => (l, (ls.filter (fun j => decide (j < l))).foldl (fun n j => combStep op ty sat n (a j)) acc)) := by
  induction ls generalizing acc with
  | nil => rfl
  | cons k ls ih =>
    obtain ⟨hk, hls⟩ := List.pairwise_cons.1 hls
    have hrest := ih (combStep op ty sat acc (a k)) hls
    rw [List.map_cons, combRun, List.zip_cons_cons, List.map_cons, filter_before_head hk, hrest]
    refine congrArg _ (List.map_congr_left fun l hl => ?_)
    rw [filter_before_cons (hk l hl)]
    rfl

/-- The combinations that take in each lane's own value are those before it, with that value. -/
theorem zip_combRun_through (acc : Nat) (ls : List Nat) (hls : ls.Pairwise (· < ·)) :
    ls.zip (((combRun op ty sat acc (ls.map a)).1 ++ [(combRun op ty sat acc (ls.map a)).2]).drop 1)
      = ls.map (fun l => (l, (ls.filter (fun j => decide (j ≤ l))).foldl (fun n j => combStep op ty sat n (a j)) acc)) := by
  have hhead : ∀ (acc : Nat) (xs : List Nat), let r := combRun op ty sat acc xs
      r.1 ++ [r.2] = acc :: (r.1 ++ [r.2]).drop 1 := fun acc xs => by cases xs <;> rfl
  induction ls generalizing acc with
  | nil => rfl
  | cons k ls ih =>
    obtain ⟨hk, hls⟩ := List.pairwise_cons.1 hls
    have hrest := ih (combStep op ty sat acc (a k)) hls
    have hown : (k :: ls).filter (fun j => decide (j ≤ k)) = [k] := by
      rw [List.filter_cons_of_pos (by simp), List.filter_eq_nil_iff.2 fun j hj => by simpa using hk j hj]
    have hlater : ∀ l ∈ ls, (k :: ls).filter (fun j => decide (j ≤ l)) = k :: ls.filter (fun j => decide (j ≤ l)) := fun l hl =>
      List.filter_cons_of_pos (by simpa using (hk l hl).le)
    rw [List.map_cons, combRun, List.cons_append, List.drop_one, List.tail_cons, hhead, List.zip_cons_cons, List.map_cons, hown, hrest]
    refine congrArg _ (List.map_congr_left fun l hl => ?_)
    rw [hlater l hl]
    rfl

end Combine

/-- Lanes in order beside the numbers from `k`: each beside the count of those before it. -/
theorem zip_range_before (ls : List Nat) (hls : ls.Pairwise (· < ·)) (k n : Nat) (hn : ls.length ≤ n) :
    ls.zip (List.range' k n) = ls.map (fun l => (l, k + (ls.filter (fun j => decide (j < l))).length)) := by
  induction ls generalizing k n with
  | nil => rfl
  | cons m ls ih =>
    obtain ⟨hm, hls⟩ := List.pairwise_cons.1 hls
    obtain ⟨n, rfl⟩ : ∃ p, n = p + 1 := Nat.exists_eq_succ_of_ne_zero (by simp at hn; omega)
    rw [List.range'_succ, List.zip_cons_cons, List.map_cons, filter_before_head hm, ih hls (k + 1) n (by simpa using hn)]
    refine congrArg _ (List.map_congr_left fun l hl => ?_)
    rw [filter_before_cons (hm l hl), List.length_cons, Nat.add_assoc, Nat.add_comm 1]

/-! ## The words (R203 to R207, R214, R222, R223) -/

/-- The low five bits of a lane number are those of its low word (R207). -/
theorem mod_word_mod_lanes (n : Nat) : n % 2 ^ 32 % 32 = n % 32 := Nat.mod_mod_of_dvd n (by decide)

section Words

variable {s : State} {w : Wave} {t : Strip} {f : Frag} (hS : Streams s w t f) {x : LWord} (hF : FeedsReady w x)
include hS hF

/-- A word that takes another lane's value: that of the lane `src` names, or, where it names none, the lane's own (R203). -/
theorem shuffle_issues {i : Instr} {src : Nat → Nat → Option Nat} {r : Nat → Nat} (h : exec i s = shuffle i x src s) :
    let act := f.m0 &&& rdM w f x.guard.toNat
    let z := x.mods.getLsbD 0
    (∀ l, (src l (srcB s w x.ty x l % 2 ^ 32)).elim (if z then 0 else srcA s w x.ty x l)
      (fun j => if z && !act.getLsbD j then 0 else srcA s w x.ty x j) = r l) →
    IssuedDone i s (nextStamp s) w t x.stop (feedsOf x)
      (allDone (opFor s w t i act [] []) ((lanesOf act).flatMap (fun l => elemWrites x.ty x.vd.toNat l (r l)))) := by
  intro act z hr
  refine laneLate_issues hS hF h ?_ (flatMap_lanesOf_none · _)
  refine congrArg (fun r => perLane x act r) (funext fun l => ?_)
  rw [← hr l]
  cases src l (srcB s w x.ty x l % 2 ^ 32) <;> rfl

/-- `SCAN`: the combination of the active lanes up to each, or before it (R205). -/
theorem scan_issues : let act := f.m0 &&& rdM w f x.guard.toNat
    IssuedDone (.scan x) s (nextStamp s) w t x.stop (feedsOf x) (allDone (opFor s w t (.scan x) act [] []) ((lanesOf act).flatMap (fun l =>
      elemWrites x.ty x.vd.toNat l
        (((lanesOf act).filter (fun j => if x.mods.getLsbD 0 then decide (j < l) else decide (j ≤ l))).foldl
          (fun n j => combStep x.vc.toNat x.ty (satOf x) n (srcA s w x.ty x j)) (combId x.vc.toNat x.ty))))) := by
  intro act
  refine laneLate_issues hS hF (exec_scan x s) ?_ (flatMap_lanesOf_none · _)
  dsimp only
  cases x.mods.getLsbD 0
  · simp only [Bool.false_eq_true, if_false]
    rw [zip_combRun_through _ _ _ _ _ _ (pairwise_lanesOf _), List.flatMap_map]
  · simp only [if_true]
    rw [zip_combRun_before _ _ _ _ _ _ (pairwise_lanesOf _), List.flatMap_map]

/-- `LRED`: the combination of all active lanes, in each (R205). -/
theorem lred_issues : let act := f.m0 &&& rdM w f x.guard.toNat
    IssuedDone (.lred x) s (nextStamp s) w t x.stop (feedsOf x) (allDone (opFor s w t (.lred x) act [] []) ((lanesOf act).flatMap (fun l =>
      elemWrites x.ty x.vd.toNat l
        ((lanesOf act).foldl (fun n j => combStep x.vc.toNat x.ty (satOf x) n (srcA s w x.ty x j)) (combId x.vc.toNat x.ty))))) := by
  intro act
  refine laneLate_issues hS hF (exec_lred x s) ?_ (flatMap_lanesOf_none · _)
  dsimp only
  rw [combRun_total]
  rfl

/-- `COMPACT`: the mask's values in order, one beside each active lane (R206). -/
theorem compact_issues : let act := f.m0 &&& rdM w f x.guard.toNat
    IssuedDone (.compact x) s (nextStamp s) w t x.stop (feedsOf x) (allDone (opFor s w t (.compact x) act [] []) ((lanesOf act).flatMap (fun l =>
      elemWrites x.ty x.vd.toNat l (((lanesOf (act &&& rdM w f x.vc.toNat)).map (srcA s w x.ty x)).getD
        ((lanesOf act).filter (fun j => decide (j < l))).length 0)))) := by
  intro act
  refine laneLate_issues hS hF (exec_compact x s) ?_ (flatMap_lanesOf_none · _)
  dsimp only
  have hlen : (lanesOf act).length ≤ 32 := by simpa [lanesOf] using List.length_filter_le (fun l => act.getLsbD l) (List.range 32)
  rw [rdLaneM_quiet s hS.ops, List.range_eq_range', zip_range_before _ (pairwise_lanesOf _) 0 32 hlen, List.flatMap_map]
  simp only [Nat.zero_add]
  rfl

end Words

/-- Settles O36: each word's results by lane, over the shared issue of a word whose results are known; and an operation that settles alone. -/
theorem crossLaneWords : Obligations.CrossLaneWords := by
  refine ⟨fun s w t f hS x hF => ?cross, fun s w t f hS x hF => ?special, fun s core slot w o hw hops hset => ?settle⟩
  case settle =>
    have hexec := fun hu => exec_laneOpSettle_lone hw hops hset hu
    refine ⟨fun hu hpend hfaults hstop hpipe => ⟨fun hres => ?lanes, fun hres => ?scalar⟩, fun hu h => ?stays⟩
    case lanes =>
      obtain ⟨v, hv, hframe⟩ := settleOp_lanes hw hops hset hu hpend hfaults hstop hres
      exact ⟨v, by rw [hexec hu, hpipe, ← hv]; rfl, hframe⟩
    case scalar =>
      rw [hexec hu, hpipe, ← settleOp_scalar hw hops hset hu hpend hfaults hstop hres]
      rfl
    case stays =>
      rw [hexec hu]
      rcases h with hpend | hpipe
      · rw [settleOp_pending hw hops hpend, ite_self]
      · rw [if_pos hpipe]
  case special =>
    intro act a issues special
    exact ⟨specWord_issues hS hF (exec_frcp x s), specWord_issues hS hF (exec_frsq x s), specWord_issues hS hF (exec_fsqrt x s),
      specWord_issues hS hF (exec_fexp2 x s), specWord_issues hS hF (exec_flog2 x s), specWord_issues hS hF (exec_fsin x s),
      specWord_issues hS hF (exec_fcos x s), specWord_issues hS hF (exec_ftanh x s),
      perLane_issues hS hF (r := fun v l => fDiv x.ty (rndOf x) (satOf x) (readF x.ty (srcA s v x.ty x l)) (readF x.ty (srcB s v x.ty x l)))
        (exec_fdiv x s)⟩
  case cross =>
    intro act a b z issues each lane own step unit
    refine ⟨shuffle_issues hS hF (exec_shfl x s) fun l => rfl, shuffle_issues hS hF (exec_bcast x s) fun l => rfl,
      shuffle_issues hS hF (exec_shflx x s) fun l => rfl, shuffle_issues hS hF (exec_shflup x s) fun l => ?up,
      shuffle_issues hS hF (exec_shfldn x s) fun l => ?down, scan_issues hS hF, lred_issues hS hF, compact_issues hS hF,
      laneLate_issues hS hF (exec_vreadl x s) ?readl fun hact => if_pos (.inl hact),
      laneLate_issues hS hF (exec_vwritel x s) ?writel fun hact => if_neg ?none⟩
    case up => exact apply_ite (Option.elim · _ _) _ _ _
    case down => exact apply_ite (Option.elim · _ _) _ _ _
    case readl => simp only [b, a, mod_word_mod_lanes]; rfl
    case writel => simp only [b, a, mod_word_mod_lanes]; rfl
    case none => simp [act, hact]

end Sys2Proof.Machine
end

section
/-! PROOFS. Lane words that write mask bits, and words of 32-bit results beside them (R163, R198, R199, R204, R218, R219). -/

namespace Sys2Proof.Machine

/-! ## A lane's writes -/

/-- What one lane's writes leave in a place that no other lane's writes reach stands there after the writes of some lanes. -/
theorem get_lanes {β : Type} {get : Wave → β} {ws : Nat → List RegWrite} {c : Prop} [Decidable c] {val : β} {l : Nat}
    (hlane : ∀ v k, k < 32 → get (applyWrites v (ws k)) = if k = l ∧ c then val else get v) (ls : List Nat) (hls : ∀ k ∈ ls, k < 32)
    (v : Wave) : get (applyWrites v (ls.flatMap ws)) = if l ∈ ls ∧ c then val else get v := by
  induction ls generalizing v with
  | nil => simp [applyWrites]
  | cons k ls ih =>
    obtain ⟨hk, hls⟩ := List.forall_mem_cons.1 hls
    have hsplit : applyWrites v ((k :: ls).flatMap ws) = applyWrites (applyWrites v (ws k)) (ls.flatMap ws) := List.foldl_append
    rw [hsplit, ih hls, hlane v k hk]
    by_cases hc : c <;> by_cases hin : l ∈ ls <;> simp [hc, hin, eq_comm]

/-- The same after the writes of the active lanes. -/
theorem get_activeLanes {β : Type} {get : Wave → β} {ws : Nat → List RegWrite} {c : Prop} [Decidable c] {val : β} {l : Nat}
    (hlane : ∀ v k, k < 32 → get (applyWrites v (ws k)) = if k = l ∧ c then val else get v) (w : Wave) (f : Frag) (guard : Nat) :
    get (applyWrites w ((lanesOf (f.m0 &&& rdM w f guard)).flatMap ws)) = if activeOf w f guard l = true ∧ c then val else get w := by
  have hls : ∀ k ∈ lanesOf (f.m0 &&& rdM w f guard), k < 32 := fun k hk => List.mem_range.1 (List.mem_filter.1 hk).1
  rw [get_lanes hlane _ hls]
  exact if_congr (and_congr_left' (mem_lanesOf_active w f guard l)) rfl rfl

theorem rdElem_wrMaskBit (w : Wave) (n k : Nat) (b : Bool) (r l : Nat) : rdElem (wrMaskBit w n k b) r l = rdElem w r l := by
  rw [wrMaskBit, wrM_eq]; rfl

/-- Writes to mask bits keep the elements. -/
theorem rdElem_applyWrites_bits (ws : List RegWrite) (hws : ∀ x ∈ ws, ∃ n l b, x = .m n l b) (w : Wave) (r l : Nat) :
    rdElem (applyWrites w ws) r l = rdElem w r l := by
  induction ws generalizing w with
  | nil => rfl
  | cons x ws ih =>
    obtain ⟨n, k, b, rfl⟩ := hws x (by simp)
    exact (ih (fun y hy => hws y (by simp [hy])) _).trans (rdElem_wrMaskBit w n k b r l)

/-- A 32-bit word depends on a number's low 32 bits. -/
theorem ofNat_mod_word (n : Nat) : BitVec.ofNat 32 (n % 2 ^ 32) = BitVec.ofNat 32 n := BitVec.eq_of_toNat_eq (by simp)

/-- A lane's element after some lane's value goes to register `r`. -/
theorem rdElem_wrElem_lane (w : Wave) (r : Nat) (x : Nat → Word) (q : Nat) {k l : Nat} (hk : k < 32) (hl : l < 32) :
    rdElem (wrElem w r k (x k)) q l = if k = l ∧ q = r then x l else rdElem w q l := by
  rw [rdElem_wrElem w r q _ hk hl]
  exact ite_congr (propext ⟨fun h => ⟨h.2.symm, h.1⟩, fun h => ⟨h.2, h.1.symm⟩⟩) (fun h => by rw [h.1]) fun _ => rfl

/-- A mask's bit in a lane after some lane's bit goes to mask `n`; `m0` is never written so (R163). -/
theorem maskBit_wrMaskBit (w : Wave) (n : Nat) (b : Nat → Bool) (m : Nat) {k l : Nat} (hk : k < 32) (hl : l < 32) :
    (Tab.get 0 (wrMaskBit w n k (b k)).masks m).getLsbD l
      = if k = l ∧ m = n ∧ n ≠ 0 then b l else (Tab.get 0 w.masks m).getLsbD l := by
  unfold wrMaskBit wrM
  by_cases hn : n = 0
  · simp [hn]
  · by_cases hm : m = n
    · by_cases hkl : k = l
      · simp [hn, hm, hkl, getLsbD_setBit _ _ hl hl]
      · simp [hn, hm, hkl, getLsbD_setBit _ _ hk hl, Ne.symm hkl]
    · simp [hn, hm, Tab.get_set_ne _ _ _ hm]

/-- Results of 32 bits go to one register each. -/
theorem setLanes_word (w : Wave) (vd : BitVec 8) (act : Nat → Bool) (x : Nat → Nat) (r l : Nat) :
    setLanes w .n32 vd act (fun l => (x l : Int)) r l = if act l = true ∧ r = vd.toNat then BitVec.ofNat 32 (x l) else rdElem w r l := by
  have hval : laneVal .n32 (x l : Int) 0 = BitVec.ofNat 32 (x l) := by
    have hword : laneVal .n32 (x l : Int) 0 = (BitVec.ofInt 32 (x l : Int)).setWidth 32 := rfl
    rw [hword, BitVec.setWidth_eq, BitVec.ofInt_natCast]
  simp only [setLanes, hval, show is64 .n32 = false from rfl, Bool.false_eq_true, false_and, and_false, if_false]

/-- The elements after each active lane's 32-bit value goes to register `vd`. -/
theorem rdElem_activeLanes {ws : Nat → List RegWrite} {vd : BitVec 8} {x : Nat → Nat} {r l : Nat}
    (hlane : ∀ v k, k < 32 → rdElem (applyWrites v (ws k)) r l = if k = l ∧ r = vd.toNat then BitVec.ofNat 32 (x l) else rdElem v r l)
    (w : Wave) (f : Frag) (guard : Nat) :
    rdElem (applyWrites w ((lanesOf (f.m0 &&& rdM w f guard)).flatMap ws)) r l
      = setLanes w .n32 vd (activeOf w f guard) (fun l => (x l : Int)) r l := by
  rw [setLanes_word]
  exact get_activeLanes (get := fun v => rdElem v r l) hlane w f guard

/-- The mask bits after each active lane's bit goes to mask `n`. -/
theorem maskBit_activeLanes {ws : Nat → List RegWrite} {n m l : Nat} {p : Nat → Bool}
    (hlane : ∀ v k, k < 32 → (Tab.get 0 (applyWrites v (ws k)).masks m).getLsbD l
      = if k = l ∧ m = n ∧ n ≠ 0 then p l else (Tab.get 0 v.masks m).getLsbD l) (w : Wave) (f : Frag) (guard : Nat) :
    (Tab.get 0 (applyWrites w ((lanesOf (f.m0 &&& rdM w f guard)).flatMap ws)).masks m).getLsbD l
      = setMaskBits w n (activeOf w f guard) p m l :=
  get_activeLanes (get := fun v => (Tab.get 0 v.masks m).getLsbD l) hlane w f guard

/-! ## Words that write mask bits, and words of 32-bit results -/

section Words

variable {s : State} {w : Wave} {t : Strip} {f : Frag} (hS : Streams s w t f) {x : LWord} (hF : FeedsReady w x) {i : Instr}
include hS hF

/-- A fixed-latency word whose active lanes each write elements and mask bits. -/
theorem lanesWord_laneDone {g : Wave → Frag → Word → List RegWrite} {ws : Nat → List RegWrite} {els : Nat → Nat → Word}
    {bits : Nat → Nat → Bool} (h : exec i s = laneWord x s g)
    (hg : g w f (f.m0 &&& rdM w f x.guard.toNat) = (lanesOf (f.m0 &&& rdM w f x.guard.toNat)).flatMap ws)
    (hws : ∀ l, ∀ y ∈ ws l, isScalarWrite y = false)
    (hels : ∀ r l, l < 32 → rdElem (applyWrites w ((lanesOf (f.m0 &&& rdM w f x.guard.toNat)).flatMap ws)) r l = els r l)
    (hbits : ∀ m l, l < 32 →
      (Tab.get 0 (applyWrites w ((lanesOf (f.m0 &&& rdM w f x.guard.toNat)).flatMap ws)).masks m).getLsbD l = bits m l) :
    LaneDone i s w t (feedsOf x) els bits := by
  rw [← hg] at hels hbits
  obtain ⟨u, hu, hpast, hnext, hfeeds, hv, hm⟩ := laneWord_past hS hF h fun y hy => by
    obtain ⟨l, -, hy⟩ := List.mem_flatMap.1 (hg ▸ hy)
    exact hws l y hy
  refine ⟨u, hu, hpast, hnext, hfeeds, fun r l hl => ?_, fun m l hl => ?_⟩
  · rw [← hels r l hl, rdElem, hv]
    rfl
  · rw [hm, hbits m l hl]

/-- A word that writes a bit of mask `vd` in each active lane. -/
theorem maskWord_laneDone {q : Wave → Word → Nat → Bool} {p : Nat → Bool}
    (h : exec i s = laneWord x s (fun v _ act => (lanesOf act).map (fun l => .m x.vd.toNat l (q v act l))))
    (hp : ∀ l, q w (f.m0 &&& rdM w f x.guard.toNat) l = p l) :
    LaneDone i s w t (feedsOf x) (fun r l => rdElem w r l) (setMaskBits w x.vd.toNat (activeOf w f x.guard.toNat) p) := by
  refine lanesWord_laneDone hS hF (ws := fun l => [.m x.vd.toNat l (p l)]) h (by simp only [hp, List.map_eq_flatMap])
    (fun l y hy => by rw [List.mem_singleton.1 hy]; rfl) (fun r l _ => rdElem_applyWrites_bits _ (fun y hy => ?written) w r l)
    fun m l hl => maskBit_activeLanes (fun v k hk => ?bit) w f _
  case written =>
    obtain ⟨k, -, hy⟩ := List.mem_flatMap.1 hy
    exact ⟨_, _, _, List.mem_singleton.1 hy⟩
  case bit => exact maskBit_wrMaskBit v x.vd.toNat p m hk hl

/-- `VADDC`: the sum's low 32 bits, and its carry into the mask it took one from (R199). -/
theorem vaddc_laneDone {sum : Nat → Nat}
    (hsum : ∀ l, srcA s w x.ty x l + srcB s w x.ty x l + (if (rdM w f x.vc.toNat).getLsbD l then 1 else 0) = sum l) :
    LaneDone (.vaddc x) s w t (feedsOf x) (setLanes w .n32 x.vd (activeOf w f x.guard.toNat) (fun l => (sum l : Int)))
      (setMaskBits w x.vc.toNat (activeOf w f x.guard.toNat) (fun l => decide (2 ^ 32 ≤ sum l))) := by
  refine lanesWord_laneDone hS hF
    (ws := fun l => [.v x.vd.toNat l (BitVec.ofNat 32 (sum l)), .m x.vc.toNat l (decide (2 ^ 32 ≤ sum l))]) (exec_vaddc x s)
    (by simp only [rdLaneM_quiet s hS.ops, hsum]) (fun l y hy => ?written) (fun r l hl => ?elements) fun m l hl => ?bits
  case written => rcases List.mem_pair.1 hy with rfl | rfl <;> rfl
  case elements =>
    refine rdElem_activeLanes (fun v k hk => ?_) w f _
    exact (rdElem_wrMaskBit _ _ k _ r l).trans (rdElem_wrElem_lane v _ (fun k => BitVec.ofNat 32 (sum k)) r hk hl)
  case bits =>
    refine maskBit_activeLanes (fun v k hk => ?_) w f _
    exact maskBit_wrMaskBit (wrElem v x.vd.toNat k _) x.vc.toNat (fun l => decide (2 ^ 32 ≤ sum l)) m hk hl

/-- `VSAD`: the sum's low 32 bits (R199). -/
theorem vsad_laneDone {sum : Nat → Nat}
    (hsum : ∀ l, vSad (x.ty == .i8) (srcA s w .n32 x l) (srcB s w .n32 x l) (srcC s w .n32 x l) = sum l % 2 ^ 32) :
    LaneDone (.vsad x) s w t (feedsOf x) (setLanes w .n32 x.vd (activeOf w f x.guard.toNat) (fun l => (sum l : Int)))
      (fun m l => (Tab.get 0 w.masks m).getLsbD l) := by
  refine lanesWord_laneDone hS hF (ws := fun l => [.v x.vd.toNat l (BitVec.ofNat 32 (sum l))]) (exec_vsad x s)
    (by simp only [hsum, ofNat_mod_word, List.map_eq_flatMap])
    (fun l y hy => by rw [List.mem_singleton.1 hy]; rfl) (fun r l hl => ?elements) fun m l _ => ?bits
  case elements =>
    refine rdElem_activeLanes (fun v k hk => ?_) w f _
    exact rdElem_wrElem_lane v _ (fun k => BitVec.ofNat 32 (sum k)) r hk hl
  case bits =>
    refine congrArg (fun ms => (Tab.get 0 ms m).getLsbD l) (applyWrites_masks _ (fun y hy => ?_) w)
    obtain ⟨k, -, hy⟩ := List.mem_flatMap.1 hy
    exact ⟨_, _, _, List.mem_singleton.1 hy⟩

end Words

/-! ## The bits -/

/-- A list's values all equal the first's when every two of them are equal. -/
theorem all_eq_head_iff (a : Nat → Nat) (ls : List Nat) :
    (ls.map a).all (fun x => x == (ls.map a).headD 0) = true ↔ ∀ l j, l ∈ ls → j ∈ ls → a l = a j := by
  cases ls with
  | nil => simp
  | cons k ls =>
    have hhead : ((k :: ls).map a).headD 0 = a k := rfl
    simp only [hhead, List.all_map, List.all_eq_true, Function.comp_apply, beq_iff_eq]
    exact ⟨fun h l j hl hj => (h l hl).trans (h j hj).symm, fun h l hl => h l k hl List.mem_cons_self⟩

/-- `VOTE` over the active lanes (R204). -/
theorem voteOf_eq {w : Wave} {f : Frag} {guard : Nat} {k : BitVec 2} (a : Nat → Nat) {p : Bool} (hk : k ≠ 3)
    (hany : k = 0 → (p = true ↔ ∃ l, activeOf w f guard l = true ∧ a l ≠ 0))
    (hall : k = 1 → (p = true ↔ ∀ l, activeOf w f guard l = true → a l ≠ 0))
    (heq : k = 2 → (p = true ↔ ∀ l j, activeOf w f guard l = true → activeOf w f guard j = true → a l = a j)) :
    voteOf k.toNat ((lanesOf (f.m0 &&& rdM w f guard)).map a) = p := by
  simp only [← mem_lanesOf_active] at hany hall heq
  generalize lanesOf (f.m0 &&& rdM w f guard) = ls at hany hall heq ⊢
  rw [Bool.eq_iff_iff]
  have hmodes : ∀ k : BitVec 2, k ≠ 3 → k = 0 ∨ k = 1 ∨ k = 2 := by decide
  obtain rfl | rfl | rfl := hmodes k hk
  · rw [hany rfl]
    simp [voteOf]
  · rw [hall rfl]
    simp [voteOf]
  · rw [heq rfl]
    exact all_eq_head_iff a ls

/-- A comparison of floats by its code (R218). -/
theorem fcmpBy_iff (t : LType) (code : BitVec 8) (a b : Nat) (hcode : code.toNat < 8) :
    let u := readF t a = .nan ∨ readF t b = .nan
    let c := fCmp (readF t a) (readF t b)
    fcmpBy t code.toNat a b = true ↔
      (code = 0 ∧ ¬ u ∧ c = 0) ∨ (code = 1 ∧ (u ∨ c ≠ 0)) ∨ (code = 2 ∧ ¬ u ∧ c < 0) ∨ (code = 3 ∧ ¬ u ∧ c ≤ 0)
        ∨ (code = 4 ∧ ¬ u ∧ 0 < c) ∨ (code = 5 ∧ ¬ u ∧ 0 ≤ c) ∨ (code = 6 ∧ u) ∨ (code = 7 ∧ ¬ u) := by
  intro u c
  have hu : (readF t a == .nan || readF t b == .nan) = decide u := by simp only [u, Bool.decide_or, beq_eq_decide]
  obtain rfl | rfl | rfl | rfl | rfl | rfl | rfl | rfl :
      code = 0 ∨ code = 1 ∨ code = 2 ∨ code = 3 ∨ code = 4 ∨ code = 5 ∨ code = 6 ∨ code = 7 := by revert code; decide
  all_goals simp [fcmpBy, hu, c]

/-- A bit by division is the bit of the number. -/
theorem bit_eq_testBit (x i : Nat) : bit x i = x.testBit i := by
  rw [bit, Nat.testBit_eq_decide_div_mod_eq, beq_eq_decide]

/-- Byte `i` of a 32-bit source, signed or unsigned (R199). -/
def sadByte (signed : Bool) (y i : Nat) : Int :=
  if signed then (BitVec.ofNat 8 (y / 256 ^ i)).toInt else (y / 256 ^ i % 256 : Nat)

/-- `VSAD` adds the absolute differences of the bytes, modulo 2^32 (R199). -/
theorem vSad_eq (signed : Bool) (a b c : Nat) :
    let d (i : Nat) : Nat := (sadByte signed a i - sadByte signed b i).natAbs
    vSad signed a b c = (c + d 0 + d 1 + d 2 + d 3) % 2 ^ 32 := by
  have hbyte : ∀ y i : Nat, (if signed then sgn 8 (y / 2 ^ (8 * i)) else ((y / 2 ^ (8 * i) % 256 : Nat) : Int)) = sadByte signed y i := by
    intro y i
    rw [pow_mul, sgn_eq_toInt]
    rfl
  intro d
  simp only [vSad, hbyte, List.range, List.range.loop, List.map_cons, List.map_nil, List.foldl_cons, List.foldl_nil, Nat.zero_add, d]
  congr 1
  omega

/-- Settles O34: each word's bit or sum in a lane, over the shared rule of a word whose active lanes write for themselves. -/
theorem laneComparisons : Obligations.LaneComparisons := by
  intro s w t f hS x hF act a b m keep bitsOf A B
  have compares {p : Nat → Bool} (hp : ∀ l, cmpBy x.vc.toNat (A l) (B l) = p l) : bitsOf (.vcmp x) p :=
    maskWord_laneDone hS hF (exec_vcmp x s) hp
  refine ⟨fun hc => compares fun l => ?_, fun hc => compares fun l => ?_, fun hc => compares fun l => ?_, fun hc => compares fun l => ?_,
    fun hc => compares fun l => ?_, fun hc => compares fun l => ?_, ?ballot, ?vote, ?fcmp, ?fclass, ?vaddc, ?vsad⟩
  case ballot => exact maskWord_laneDone hS hF (exec_ballot x s) fun l => Bool.eq_iff_iff.2 (by simp [a])
  case vote =>
    intro p hany hall heq hmode
    exact maskWord_laneDone hS hF (exec_vote x s) fun _ => voteOf_eq a hmode hany hall heq
  case fcmp =>
    intro p hp hcode
    exact maskWord_laneDone hS hF (exec_fcmp x s) fun l => Bool.eq_iff_iff.2 ((fcmpBy_iff _ _ _ _ hcode).trans (hp l).symm)
  case fclass => exact maskWord_laneDone hS hF (exec_fclass x s) fun l => bit_eq_testBit _ _
  case vaddc => exact fun _ => vaddc_laneDone hS hF fun l => rfl
  case vsad =>
    intro _ byte d
    have hbyte : byte = sadByte (x.ty == .i8) := by
      funext y i
      simp [byte, sadByte]
    have hsum := vsad_laneDone hS hF fun l => vSad_eq (x.ty == .i8) (srcA s w .n32 x l) (srcB s w .n32 x l) (srcC s w .n32 x l)
    simpa only [d, hbyte, keep, Nat.cast_add] using hsum
  all_goals simp [hc, cmpBy, bne, beq_eq_decide]

end Sys2Proof.Machine
end

section
/-! PROOFS. The fixed-latency floating-point and conversion words of the lanes (R209 to R228). -/

namespace Sys2Proof.Machine

/-! ## Values -/

/-- A 32-bit word is the result of type N32 that it holds. -/
theorem elemWrites_n32 (r l : Nat) (v : Word) : elemWrites .n32 r l v.toNat = [.v r l v] := by
  have hval : elemWrites .n32 r l v.toNat = [.v r l (BitVec.ofNat 32 (v.toNat % 2 ^ 32))] := rfl
  rw [hval, Nat.mod_eq_of_lt v.isLt, BitVec.ofNat_toNat, BitVec.setWidth_eq]

/-- What `PACK` of a type of `n` bits leaves in vd, which held `old` (R228). -/
def packed (n : Nat) (h : BitVec 2) (old a b : Nat) : Nat :=
  if n = 16 then a + b * 2 ^ n
  else old - old / 2 ^ (16 * h.toNat) % 65536 * 2 ^ (16 * h.toNat) + (a + b * 2 ^ n) * 2 ^ (16 * h.toNat)

theorem packed_wide (h : BitVec 2) (old a b : Nat) : (packed 16 h old a b : Int) = a + 2 ^ 16 * b := by
  simp [packed, mul_comm]

/-- The 8-bit form replaces the half of vd that mods names. -/
theorem packed_half {h : BitVec 2} {old : Nat} (a b : Nat) (hh : h.toNat < 2) (hold : old < 2 ^ 32) :
    let half : Int := a + 2 ^ 8 * b
    (packed 8 h old a b : Int) = if h = 0 then (old / 2 ^ 16 * 2 ^ 16 : Nat) + half else (old % 2 ^ 16 : Nat) + 2 ^ 16 * half := by
  have hcases : ∀ h : BitVec 2, h.toNat < 2 → h = 0 ∨ h = 1 := by decide
  obtain rfl | rfl := hcases h hh
  · simp only [packed, Nat.reduceEqDiff, reduceIte, BitVec.reduceToNat]
    omega
  · simp only [packed, Nat.reduceEqDiff, reduceIte, BitVec.reduceToNat, BitVec.reduceEq]
    omega

/-! ## The words -/

section Words

variable {s : State} {w : Wave} {t : Strip} {f : Frag} (hS : Streams s w t f) {x : LWord} (hF : FeedsReady w x) {i : Instr}
include hS hF

/-- A class 1 word: each active lane takes the word's function of its sources after the modifiers of R212. -/
theorem floatWord_laneDone {op : Nat → Nat → Nat} {e : Nat → Int} (h : exec i s = floatWord x op s)
    (he : ∀ l, (op (modA s w x l) (modB s w x l) : Int) = e l) :
    LaneDone i s w t (feedsOf x) (setLanes w x.ty x.vd (activeOf w f x.guard.toNat) e) (fun m l => (Tab.get 0 w.masks m).getLsbD l) :=
  perLane_laneDone hS hF (r := fun v _ l => op (modA s v x l) (modB s v x l)) h fun l _ => he l ▸ Int.ModEq.refl _

/-- A word whose result in each active lane is 32 bits whatever its type: only the one register vd changes. -/
theorem word32_laneDone {q : Wave → Nat → Word} {e : Nat → Int}
    (h : exec i s = laneWord x s (fun v _ act => (lanesOf act).map (fun l => .v x.vd.toNat l (q v l))))
    (he : ∀ l, ((q w l).toNat : Int) ≡ e l [ZMOD 2 ^ 32]) :
    LaneDone i s w t (feedsOf x) (setLanes w .n32 x.vd (activeOf w f x.guard.toNat) e) (fun m l => (Tab.get 0 w.masks m).getLsbD l) := by
  refine perLane_laneDone (x := { x with ty := .n32 }) hS hF (r := fun v _ l => (q v l).toNat) (h.trans ?_) fun l _ => he l
  simp only [perLane, elemWrites_n32, List.map_eq_flatMap]
  rfl

/-- A word whose active lanes each write 32 bits to vd and to another register, vc. -/
theorem twoWords_laneDone {q : Wave → Nat → Nat × Nat} {r : Nat → Nat × Nat}
    (h : exec i s = laneWord x s (fun v _ act => (lanesOf act).flatMap (fun l =>
      [.v x.vd.toNat l (BitVec.ofNat 32 (q v l).1), .v x.vc.toNat l (BitVec.ofNat 32 (q v l).2)])))
    (hr : ∀ l, q w l = r l) (hne : x.vd ≠ x.vc) :
    LaneDone i s w t (feedsOf x) (fun k l =>
      if k = x.vc.toNat then setLanes w .n32 x.vc (activeOf w f x.guard.toNat) (fun l => (r l).2) k l
      else setLanes w .n32 x.vd (activeOf w f x.guard.toNat) (fun l => (r l).1) k l) (fun m l => (Tab.get 0 w.masks m).getLsbD l) := by
  have hregs : x.vc.toNat ≠ x.vd.toNat := fun h => hne (BitVec.eq_of_toNat_eq h).symm
  refine lanesWord_laneDone hS hF
    (ws := fun l => [.v x.vd.toNat l (BitVec.ofNat 32 (r l).1), .v x.vc.toNat l (BitVec.ofNat 32 (r l).2)]) h
    (by simp only [hr]) (fun l y hy => ?written) (fun k l hl => ?elements) fun m l _ => ?bits
  case written => rcases List.mem_pair.1 hy with rfl | rfl <;> rfl
  case elements =>
    split_ifs with hk
    · refine rdElem_activeLanes (fun v j hj => ?_) w f _
      refine (rdElem_wrElem_lane (wrElem v x.vd.toNat j _) _ (fun j => BitVec.ofNat 32 (r j).2) k hj hl).trans ?_
      rw [rdElem_wrElem v _ _ _ hj hl, if_neg (c := k = x.vd.toNat ∧ l = j) fun h => hregs (hk.symm.trans h.1)]
    · refine rdElem_activeLanes (fun v j hj => ?_) w f _
      refine (rdElem_wrElem_lane (wrElem v x.vd.toNat j _) _ (fun j => BitVec.ofNat 32 (r j).2) k hj hl).trans ?_
      rw [if_neg fun h => hk h.2]
      exact rdElem_wrElem_lane v _ (fun j => BitVec.ofNat 32 (r j).1) k hj hl
  case bits =>
    refine congrArg (fun ms => (Tab.get 0 ms m).getLsbD l) (applyWrites_masks _ (fun y hy => ?_) w)
    obtain ⟨j, -, hy⟩ := List.mem_flatMap.1 hy
    rcases List.mem_pair.1 hy with rfl | rfl <;> exact ⟨_, _, _, rfl⟩

/-- `PACK`: vd holds the two narrow values, of 8 bits each beside the half it keeps (R228). -/
theorem pack_laneDone {e : Nat → Int}
    (he : ∀ l, (packed (ltypeBits x.ty) x.mods (rdElem w x.vd.toNat l).toNat (srcA s w x.ty x l) (srcB s w x.ty x l) : Int) = e l) :
    LaneDone (.pack x) s w t (feedsOf x) (setLanes w .n32 x.vd (activeOf w f x.guard.toNat) e)
      (fun m l => (Tab.get 0 w.masks m).getLsbD l) := by
  refine word32_laneDone hS hF (q := fun v l =>
    BitVec.ofNat 32 (packed (ltypeBits x.ty) x.mods (rdV s v x.vd.toNat l).toNat (srcA s v x.ty x l) (srcB s v x.ty x l)))
    (exec_pack x s) fun l => ?_
  rw [← he l, rdV_quiet s hS.ops, BitVec.toNat_ofNat]
  exact natMod_modEq 32 _

end Words

/-- Settles O35: each word gives its active lanes the rule's value of its sources, over the shared rules of a word with a result of its
type, with one of 32 bits, and with two. -/
theorem laneFloatWords : Obligations.LaneFloatWords := by
  intro s w t f hS x hF rd a b plain round m0 act gives gives32
  have ofType {i : Instr} {r : Wave → Nat → Nat} {e : Nat → Int} (h : exec i s = laneWord x s (fun v _ act => perLane x act (r v)))
      (he : ∀ l, (r w l : Int) = e l) : gives i e :=
    perLane_laneDone hS hF (r := fun v _ => r v) h fun l _ => he l ▸ Int.ModEq.refl _
  refine ⟨floatWord_laneDone hS hF (exec_fadd x s) fun _ => rfl, floatWord_laneDone hS hF (exec_fsub x s) fun _ => rfl,
    floatWord_laneDone hS hF (exec_fmul x s) fun _ => rfl, ofType (exec_ffma x s) fun _ => rfl,
    floatWord_laneDone hS hF (exec_fmin x s) fun _ => rfl, floatWord_laneDone hS hF (exec_fmax x s) fun _ => rfl,
    ofType (exec_frnd x s) fun l => ?frnd, ofType (exec_fldexp x s) fun _ => rfl, ofType (exec_fscale x s) fun _ => rfl,
    fun hexp => ?exponent, fun hfrac => ?fraction, ?fdot, ofType (exec_cvt x s) fun _ => rfl, fun u hu hne => ?cvtef,
    fun h16 => pack_laneDone hS hF fun l => ?packWide, fun h8 hmods => pack_laneDone hS hF fun l => ?packHalf,
    perLane_laneDone hS hF (exec_unpack x s) fun _ _ => natMod_modEq _ _⟩
  case frnd =>
    dsimp only [fpRnd, rd, plain]
    cases readF x.ty (srcA s w x.ty x l) <;> rfl
  case exponent =>
    exact word32_laneDone hS hF (q := fun v l => fpExp x.ty (srcA s v x.ty x l)) (by simp only [exec_ffrexp, execFfrexp, hexp, if_true])
      fun l => Int.ModEq.refl _
  case fraction =>
    exact ofType (r := fun v l => fpFrac x.ty (srcA s v x.ty x l))
      (by simp only [exec_ffrexp, execFfrexp, hfrac, Bool.false_eq_true, if_false]) fun _ => rfl
  case fdot =>
    intro k i hi u el
    have hword : exec i s = dotWord k x s := by
      rcases List.mem_pair.1 hi with h | h <;> obtain ⟨rfl, rfl⟩ := Prod.mk.inj h <;> rfl
    exact ofType hword fun _ => rfl
  case cvtef =>
    exact twoWords_laneDone hS hF (q := fun v l => convertEf x.ty ((ty2Of x).getD x.ty) (rndOf x) (satOf x)
      (srcA s v ((ty2Of x).getD x.ty) x l)) (exec_cvtef x s) (fun l => by rw [hu, Option.getD_some]) hne
  case packWide => rw [h16]; exact packed_wide _ _ _ _
  case packHalf => rw [h8]; exact packed_half _ _ hmods (BitVec.isLt _)

end Sys2Proof.Machine
end

section
/-! PROOFS. Trays that trigger, tray waves, and the segments of a Finder (R231 to R233, R378, R380, R382). -/

namespace Sys2Proof.Machine

/-! ## A tray's deadline (R231, R232) -/

section Deadline

variable {s : State} {core k : Nat} {y : Tray} (hy : Map.find (coreOf s core).trays k = some y)
include hy

theorem exec_trayDeadline_early (h : s.clock.toNat < y.deadline) : exec (.trayDeadline core k) s = .next s := by
  rw [exec_trayDeadline, execTrayDeadline, hy]
  exact congrArg Host.Outcome.next (if_neg (Nat.not_le.2 h))

theorem exec_trayDeadline_late (h : y.deadline ≤ s.clock.toNat) :
    exec (.trayDeadline core k) s = .next (triggerTrays s core (fun u => u == y)) := by
  rw [exec_trayDeadline, execTrayDeadline, hy]
  exact congrArg Host.Outcome.next (if_pos h)

/-- A `FILLING` tray is among those that trigger by its name. -/
theorem find_triggerTrays_self (hst : y.st = .filling) :
    Map.find (coreOf (triggerTrays s core (fun u => u == y)) core).trays k = some { y with st := .triggered, stamp := s.stamp } := by
  rw [find_triggerTrays (hit := fun u => u.st == .filling && u == y) (fun _ => rfl) hy]
  simp [hst]

end Deadline

/-! ## The start of a tray wave (R231, R233) -/

/-- The wave that starts for a tray, over the group and slot that it gets. -/
def trayWave (s : State) (core : Nat) (y : Tray) (g : Grid) (slot : Nat) : Wave :=
  startWave s s.nextGid g (waveIdent g (trayGroup s core y slot) 0 1 0) slot (BitVec.ofNat 32 (2 ^ y.recs.length - 1))
    ((g.desc.trays[y.config]?.map (·.1)).getD 0) (some { config := y.config, recs := y.recs, ticket := y.ticket })

theorem trayWave_fragA (s : State) (core : Nat) (y : Tray) (g : Grid) (slot : Nat) :
    (trayWave s core y g slot).fragA = some (startFrag (BitVec.ofNat 32 (2 ^ y.recs.length - 1))
      (g.image + g.desc.scodeOffset + (g.desc.trays[y.config]?.map (·.1)).getD 0)) := rfl

/-- The core with its tag counter advanced and a tray's entry free. -/
def trayLeft (s : State) (core k : Nat) : State :=
  putCore (nextTag s core) core { coreOf (nextTag s core) core with trays := Map.erase (coreOf (nextTag s core) core).trays k }

/-- The state in which a tray's wave stands in its slot. -/
def trayStarted (s : State) (core k : Nat) (y : Tray) (g : Grid) (slot : Nat) : State :=
  ctxRuns (putWave (putGroup { trayLeft s core k with nextGid := s.nextGid + 1 } s.nextGid (trayGroup s core y slot))
    (trayWave s core y g slot)) g.ctx

theorem exec_trayWaveStart_room {s : State} {core k p : Nat} {y : Tray} {g : Grid} (hfirst : firstWaiting s core = some (k, y))
    (hg : Map.find s.grids y.grid = some g) (hp : trayPart s core g.desc.vregBlocks = some p) (hdead : (coreOf s core).dead = false)
    (hfits : slideFits s g.queue (saveBytes 1 g.desc.vregBlocks 0 0 0) = true) :
    exec (.trayWaveStart core) s = .next (trayStarted s core k y g (freeSlot s [] core p)) := by
  rw [exec_trayWaveStart, execTrayWaveStart, hfirst]
  simp only [hg, hp, hdead, hfits, Bool.not_true, Bool.or_self, Bool.false_eq_true, if_false]
  rfl

/-- A wave's place in the table is the slot that it started in. -/
theorem find_trayStarted_waves (s : State) (core k : Nat) (y : Tray) (g : Grid) (slot n : Nat) :
    Map.find (trayStarted s core k y g slot).waves n = if n = slot then some (trayWave s core y g slot) else Map.find s.waves n := by
  have hplace : 64 * (slot / 64) + slot % 64 = slot := Nat.div_add_mod slot 64
  have hwaves : (trayStarted s core k y g slot).waves = Map.insert s.waves (64 * (slot / 64) + slot % 64) (trayWave s core y g slot) := rfl
  rw [hwaves, hplace, Map.find_insert]

theorem find_trayStarted_trays (s : State) (core k : Nat) (y : Tray) (g : Grid) (slot : Nat) :
    Map.find (coreOf (trayStarted s core k y g slot) core).trays k = none := by
  have hcore : coreOf (trayStarted s core k y g slot) core = coreOf (trayLeft s core k) core := rfl
  rw [hcore, trayLeft, coreOf_putCore_self]
  exact Map.find_erase_self _ k

theorem trayStarted_rest (s : State) (core k : Nat) (y : Tray) (g : Grid) (slot : Nat) :
    (trayStarted s core k y g slot).mem = s.mem ∧ (trayStarted s core k y g slot).queues = s.queues := by
  simp [trayStarted, ctxRuns, trayLeft, nextTag]

/-! ## Deposits (R230, R383) -/

/-- The part of a state that a deposit leaves: all but the cores and the stamp. -/
def untrayed (s : State) : State := { s with cores := [], stamp := 0 }

@[simp] theorem untrayed_putCore (s : State) (core : Nat) (c : Core) : untrayed (putCore s core c) = untrayed s := rfl
@[simp] theorem untrayed_triggerTrays (s : State) (core : Nat) (p : Tray → Bool) : untrayed (triggerTrays s core p) = untrayed s := rfl
@[simp] theorem untrayed_trayAppend (s : State) (core k : Nat) (t : Tray) (r : TrayRec) : untrayed (trayAppend s core k t r) = untrayed s := rfl

@[simp] theorem untrayed_takeTicket (s : State) (core : Nat) (x : Option (Nat × Nat)) : untrayed (takeTicket s core x) = untrayed s := by
  cases x <;> rfl

@[simp] theorem untrayed_trayOpen (s : State) (core gi config gx gy gz : Nat) (r : TrayRec) :
    untrayed (trayOpen s core gi config gx gy gz r) = untrayed s := by
  unfold trayOpen
  split
  · rfl
  · simp

@[simp] theorem untrayed_trayDeposit (s : State) (core gi config gx gy gz : Nat) (who : Nat × Nat) (r : TrayRec) :
    untrayed (trayDeposit s core gi config gx gy gz who r).1 = untrayed s := by
  unfold trayDeposit
  dsimp only
  split
  · simp
  · split_ifs
    · simp
    · rfl
    · split <;> simp

@[simp] theorem untrayed_quadDeposit (s : State) (core gi config : Nat) (q : Quad) : untrayed (quadDeposit s core gi config q).1 = untrayed s := by
  have hfirst := untrayed_trayDeposit (triggerTrays s core (fun t => t.grid == gi && t.config == config && t.key == (quadRec q 0).key
    && quadPushes t q)) core gi config 0 0 0 (0, 32) (quadRec q 0)
  unfold quadDeposit
  dsimp only
  split
  next t h => rw [h] at hfirst; exact hfirst
  next t h =>
    rw [h] at hfirst
    refine (foldl_keeps untrayed _ (fun u p => (trayDeposit u core gi config 0 0 0 (0, 32) (quadRec q p)).1) (fun _ _ => ?_) t).trans hfirst
    exact untrayed_trayDeposit ..

/-- Deposits of quads write the cores and the stamp alone. -/
theorem untrayed_quadsDeposit (core gi config : Nat) (l : List Quad) (s : State) (n : Nat) :
    untrayed (quadsDeposit s core gi config l n).1 = untrayed s := by
  induction l generalizing s n with
  | nil => rfl
  | cons q rest ih =>
    have hq := untrayed_quadDeposit s core gi config q
    unfold quadsDeposit
    split
    next t h => rw [h] at hq; exact (ih t (n + 1)).trans hq
    next t h => rw [h] at hq; exact hq

/-- Deposits that come out in `t` have left the grids and memory. -/
theorem quadsDeposit_keeps {s t : State} {core gi config n k : Nat} {l : List Quad} {go : Bool}
    (h : quadsDeposit s core gi config l n = (t, k, go)) : t.grids = s.grids ∧ t.mem = s.mem := by
  have hkeeps := untrayed_quadsDeposit core gi config l s n
  rw [h] at hkeeps
  exact ⟨by simpa [untrayed] using congrArg State.grids hkeeps, by simpa [untrayed] using congrArg State.mem hkeeps⟩

/-! ## The segments of a Finder (R378, R380, R382) -/

/-- A primitive stays behind only where one was there, or the segment holds one. -/
theorem pairQuads_none {d : Draw} {core : Nat} {used : List (Nat × Nat)} {l : List Prim} (h : (pairQuads d core used l).2 = none) : l = [] := by
  induction l generalizing used with
  | nil => rfl
  | cons p rest ih =>
    cases rest with
    | nil => cases h
    | cons q rest => cases ih h

/-- With nothing before it a Finder has kept back no primitive. -/
theorem carry_none_of_segInput {s : State} {g : Grid} {d : Draw} {core seg : Nat} {whole : Bool} {used : List (Nat × Nat)}
    (h : segInput s g d core seg whole = some (used, [])) : Map.find d.carry core = none := by
  obtain ⟨l, -, hl⟩ := Option.map_eq_some_iff.1 h
  split at hl
  · simp at hl
  · assumption

/-- What a Finder keeps back as it goes past a segment: the last primitive, and nothing past the draw's last segment (R382). -/
def nextCarry (d : Draw) (core : Nat) (last : Prop) [Decidable last] (x : Option (Prim × List (Nat × Nat))) :
    Map (Nat × Nat × List (Nat × Nat)) :=
  match x with
  | some (p, u) => if last then Map.erase d.carry core else Map.insert d.carry core (p.raw, p.order, u)
  | none => d.carry

/-- The draw's progress as a core's Finder goes past a segment. -/
def pastSegment (d : Draw) (core : Nat) (last : Prop) [Decidable last] (x : Option (Prim × List (Nat × Nat))) : Draw :=
  { d with next := Tab.set 0 d.next core (Tab.get 0 d.next core + 1), pos := Tab.set 0 d.pos core 0, carry := nextCarry d core last x }

section Segment

variable {d : Draw} {core : Nat} {last : Prop} [Decidable last] {x : Option (Prim × List (Nat × Nat))}

theorem find_nextCarry_self (h : x = none → Map.find d.carry core = none) :
    Map.find (nextCarry d core last x) core = if last then none else x.map (fun p => (p.1.raw, p.1.order, p.2)) := by
  cases x with
  | none => simp [nextCarry, h rfl]
  | some x => by_cases hlast : last <;> simp [nextCarry, hlast]

theorem find_nextCarry_ne {c : Nat} (hc : c ≠ core) : Map.find (nextCarry d core last x) c = Map.find d.carry c := by
  cases x with
  | none => rfl
  | some x => by_cases hlast : last <;> simp [nextCarry, hlast, Map.find_insert_ne, Map.find_erase_ne, hc]

/-- The core's own progress. -/
theorem pastSegment_self (h : x = none → Map.find d.carry core = none) :
    Tab.get 0 (pastSegment d core last x).next core = Tab.get 0 d.next core + 1 ∧ Tab.get 0 (pastSegment d core last x).pos core = 0
      ∧ Map.find (pastSegment d core last x).carry core = if last then none else x.map (fun p => (p.1.raw, p.1.order, p.2)) :=
  ⟨Tab.get_set_self 0 d.next core (Tab.get 0 d.next core + 1), Tab.get_set_self 0 d.pos core 0, find_nextCarry_self h⟩

/-- The other cores' progress. -/
theorem pastSegment_ne {c : Nat} (hc : c ≠ core) : Tab.get 0 (pastSegment d core last x).next c = Tab.get 0 d.next c
    ∧ Tab.get 0 (pastSegment d core last x).pos c = Tab.get 0 d.pos c ∧ Map.find (pastSegment d core last x).carry c = Map.find d.carry c :=
  ⟨Tab.get_set_ne 0 d.next (Tab.get 0 d.next core + 1) hc, Tab.get_set_ne 0 d.pos 0 hc, find_nextCarry_ne hc⟩

end Segment

section Finder

variable {s : State} {core gi : Nat} {g : Grid} {d : Draw} (hg : Map.find s.grids gi = some g) (hd : g.draw = some d) (hcore : core < 96)
  (hseg : Tab.get 0 d.next core < g.nx * g.ny * g.nz)
include hg hd hcore hseg

/-- A Finder whose segment's group has not ended, or whose segment cannot be read, stays where it is. -/
theorem exec_finderSegmentStart_waits
    (h : (segReady s gi (Tab.get 0 d.next core) g).bind (segInput s g d core (Tab.get 0 d.next core)) = none) :
    exec (.finderSegmentStart core gi) s = .next s := by
  have hgo : ¬ (96 ≤ core ∨ g.nx * g.ny * g.nz ≤ Tab.get 0 d.next core) := by omega
  rw [exec_finderSegmentStart, execFinderSegmentStart, hg]
  simp only [hd, hgo, if_false, h]

/-- A Finder that has its segment's primitives deposits their quads: it goes on to the next segment, or keeps its place where a quad finds no
entry. -/
theorem exec_finderSegmentStart_deposits {whole : Bool} {used : List (Nat × Nat)} {l : List Prim}
    (hready : segReady s gi (Tab.get 0 d.next core) g = some whole)
    (hinput : segInput s g d core (Tab.get 0 d.next core) whole = some (used, l)) {t : State} {k : Nat} {go : Bool} :
    let last := g.nx * g.ny * g.nz ≤ Tab.get 0 d.next core + 1
    let r := pairQuads d core used l
    quadsDeposit s core gi d.pixelTray ((r.1 ++ (if last then lastQuads d core r.2 else [])).drop (Tab.get 0 d.pos core))
      (Tab.get 0 d.pos core) = (t, k, go) →
    exec (.finderSegmentStart core gi) s
      = .next (putDraw t gi (if go then pastSegment d core last r.2 else { d with pos := Tab.set 0 d.pos core k })) := by
  intro last r hdep
  have hgo : ¬ (96 ≤ core ∨ g.nx * g.ny * g.nz ≤ Tab.get 0 d.next core) := by omega
  rw [exec_finderSegmentStart, execFinderSegmentStart, hg]
  simp only [hd, hgo, if_false, hready, hinput, Option.bind_some, decide_eq_true_eq]
  rw [hdep]
  cases go <;> rfl

end Finder

/-- Settles O47: a deadline triggers its tray, a tray wave starts as `trayStarted` says, and a Finder
goes past its segment as `pastSegment` says. -/
theorem traysAndSegments : Obligations.TraysAndSegments := by
  refine ⟨fun s core k y hy => ⟨exec_trayDeadline_early hy, fun hst hlate => ?deadline⟩, fun s core k y g p hfirst hg hp hdead hfits => ?start,
    fun s core gi g d hg hd hcore => ?finder⟩
  case deadline => exact ⟨_, exec_trayDeadline_late hy hlate, find_triggerTrays_self hy hst, rfl⟩
  case start =>
    intro slot
    obtain ⟨hmem, hqueues⟩ := trayStarted_rest s core k y g slot
    exact ⟨trayStarted s core k y g slot, trayWave s core y g slot, _, trayGroup s core y slot,
      exec_trayWaveStart_room hfirst hg hp hdead hfits, by rw [find_trayStarted_waves, if_pos rfl], rfl, trayWave_fragA .., rfl, rfl, rfl,
      Map.find_insert_self _ _ _, rfl, rfl, rfl, rfl, find_trayStarted_trays s core k y g slot, hmem, hqueues,
      fun n hn => by rw [find_trayStarted_waves, if_neg hn]⟩
  case finder =>
    intro seg total last hseg
    refine ⟨fun hready => exec_finderSegmentStart_waits hg hd hcore hseg (by rw [hready]; rfl),
      fun hready hprims => exec_finderSegmentStart_waits hg hd hcore hseg (by rw [hready, Option.bind_some, segInput, if_pos rfl, hprims]; rfl),
      fun whole used l hready hinput => ?_⟩
    intro r n t k go hdep
    obtain ⟨hgrids, hmem⟩ := quadsDeposit_keeps hdep
    have hdraw (x : Draw) : Map.find (putDraw t gi x).grids gi = some { g with draw := some x } := by
      rw [putDraw_grids, Map.find_modify, if_pos rfl, hgrids, hg, Option.map_some]
    have hexec := exec_finderSegmentStart_deposits hg hd hcore hseg hready hinput hdep
    cases go with
    | false => exact ⟨_, _, hexec, hdraw _, hmem, rfl, fun _ => rfl, nofun⟩
    | true =>
      rw [if_pos rfl] at hexec
      have hcarry : r.2 = none → Map.find d.carry core = none := fun hnone =>
        carry_none_of_segInput (used := used) (pairQuads_none hnone ▸ hinput)
      obtain ⟨hnext, hpos, hkept⟩ := pastSegment_self (last := last) hcarry
      exact ⟨_, _, hexec, hdraw _, hmem, rfl, nofun, fun _ => ⟨hnext, hpos, hkept, fun c hc => pastSegment_ne hc, rfl⟩⟩

end Sys2Proof.Machine
end

section
/-! PROOFS. Operations that perform their lanes as they issue (R164, R165, R255 to R257, R287). -/

namespace Sys2Proof.Machine

/-! ## The wave of an operation that issues (R164, R165, R169) -/

/-- The L-stream goes on behind a word whose operation is outstanding, wherever its wave stands. -/
theorem laneDone_outstanding_at {s : State} {core slot : Nat} {w : Wave} {t : Strip} {o : LaneOp} (hw : waveAt s core slot = some w)
    (stop : Bool) (hhead : w.strips.head? = some t) (ho : o ∈ w.ops) (hset : o.settled = false) (hstop : w.lstop = false) :
    laneDone s core slot stop = putWave s { w with headOff := w.headOff + 1, lstop := stop || decide (t.len ≤ w.headOff + 1) } := by
  obtain ⟨rfl, rfl⟩ := waveAt_place hw
  have hsame : laneDone s w.core w.slot stop = laneDone (putWave s w) w.core w.slot stop := by
    unfold laneDone
    rw [hw, waveAt_putWave]
    exact congrArg (fun t => lstopCheck t w.core w.slot) (putWave_putWave s w _ (by rfl) (by rfl)).symm
  rw [hsame, laneDone_outstanding s stop hhead ho hset hstop]

/-- What a change of the wave in a place has made is gone once another wave is put there. -/
theorem putWave_modWave (s : State) {core slot : Nat} {w : Wave} (g : Wave → Wave) (hcore : w.core = core) (hslot : w.slot = slot) :
    putWave (modWave s core slot g) w = putWave s w := by
  subst hcore hslot
  unfold putWave modWave Map.modify
  split
  · simp [Map.insert_insert]
  · rfl

/-- The pushes that a release starts leave the waves, the partials and the place of issue. -/
theorem pushStep_keeps {s u : State} {core : Nat} {first held : Bool} (h : pushStep s core first = (u, held)) :
    u.waves = s.waves ∧ u.partials = s.partials ∧ u.cur = s.cur := by
  have hstill := still_pushStep s core first
  rw [h] at hstill
  exact ⟨by simpa [still] using congrArg State.waves hstill, by simpa [still] using congrArg State.partials hstill,
    by simpa [still] using congrArg State.cur hstill⟩

/-- A wave that starts an operation has it outstanding; of the rest only the scheduler's counts differ (R169). -/
theorem started_eq (s : State) (w : Wave) (o : LaneOp) :
    ∃ sp dm ag, started s w o = { w with nextOp := w.nextOp + 1, ops := [o], spin := sp, demoted := dm, age := ag } := by
  unfold started
  cases laneAcc o.word <;> exact ⟨_, _, _, rfl⟩

/-- An operation performs its lanes in the wave that it has started. -/
theorem issueOp_started (p : Performer) (s : State) {w : Wave} (hops : w.ops = []) (stop : Bool) (o : LaneOp) :
    issueOp p s w stop o =
      let r := performOp p (putWave (nextStamp s) (started s w { o with stamp := s.stamp })) w.core w.slot { o with stamp := s.stamp }
      if r.hole then .fault .physicalHole else .next (laneDone (keepRun r w.core w.slot) w.core w.slot stop) := by
  unfold issueOp opIssued started
  cases laneAcc o.word <;> simp [spinReset, hops]

theorem waveAt_started (s t : State) (w : Wave) (o : LaneOp) :
    waveAt (putWave t (started s w o)) w.core w.slot = some (started s w o) := by
  obtain ⟨sp, dm, ag, hv⟩ := started_eq s w o
  rw [hv]
  exact waveAt_putWave t _

/-- The L-stream goes on behind a started wave's operation, as its lanes have left it. -/
theorem issued_keepRun {i : Instr} {s0 s u : State} {w : Wave} {t : Strip} {stop : Bool} {o p : LaneOp} (hhead : w.strips.head? = some t)
    (hlstop : w.lstop = false) (hid : p.id = o.id) (hset : p.settled = false) (hat : waveAt u w.core w.slot = some (started s w o))
    (hexec : exec i s0 = .next (laneDone (modWave u w.core w.slot (withOp p)) w.core w.slot stop)) : Issued i s0 u w t stop [] p := by
  obtain ⟨sp, dm, ag, hv⟩ := started_eq s w o
  obtain ⟨v, hvp⟩ : ∃ v : Wave, v = { w with nextOp := w.nextOp + 1, ops := [p], spin := sp, demoted := dm, age := ag } := ⟨_, rfl⟩
  have hwith : withOp p (started s w o) = v := by simp [hv, hvp, withOp, hid]
  have hat' : waveAt (modWave u w.core w.slot (withOp p)) w.core w.slot = some v := by
    rw [waveAt_modWave hat (fun _ => rfl), hwith]
  rw [laneDone_outstanding_at hat' (t := t) (o := p) stop (by rw [hvp]; exact hhead) (by rw [hvp]; exact List.mem_singleton_self p) hset
    (by rw [hvp]; exact hlstop), putWave_modWave _ _ (by rw [hvp]) (by rw [hvp]), hvp] at hexec
  exact ⟨_, hexec, rfl, rfl, rfl, rfl, rfl, rfl⟩

/-! ## The lanes of an operation that issues (R164, R255, R287) -/

/-- With no lane performed and no fault on record every active lane is still to perform. -/
theorem undone_fresh {o : LaneOp} (hdone : o.done = 0) (hfaults : o.faults = []) : undone o = o.active := by
  have hall : ~~~(0 : Word) = BitVec.allOnes 32 := rfl
  simp only [undone, hdone, hfaults, List.map_nil, maskOf, List.foldl_nil, hall, BitVec.and_allOnes]

/-- A release whose core has halo data to push waits for the push with no lane performed (R287). -/
theorem performOp_held {p : Performer} {s q : State} {core slot : Nat} {w : Wave} {o : LaneOp} (hw : waveAt s core slot = some w)
    (hops : w.ops = [o]) (hpush : pushStep s core (lanePushFirst o.word) = (q, true)) :
    performOp p s core slot o = { s := q, o := { o with misses := [] }, misses := [], claims := [], hole := false } := by
  have horder : orderStep s core slot o = (q, true) := by
    unfold orderStep
    simp [hw, hops, hpush]
  rw [performOp, horder]
  rfl

/-- What goes back into the wave of a run that has met no fault, no missing page and no claim: the operation that `kept` gives it. -/
def KeepsAs (u : State) (w : Wave) (o kept : LaneOp) : Prop :=
  keepRun { s := u, o := o, misses := [], claims := [], hole := false } w.core w.slot = modWave u w.core w.slot (withOp kept)

section Performs

variable {p : Performer} {i : Instr} {s0 s : State} {w : Wave} {t : Strip} {stop : Bool} {act : Word} {addrs : Map DWord} {data : Map Word}
  {out : List RegWrite → LaneOp}

/-- A word that issues an operation over its wave, which has no other outstanding, performs it as `Performs` says. -/
theorem performs_of_issueOp (hhead : w.strips.head? = some t) (hops : w.ops = []) (hlstop : w.lstop = false) (hmerge : s.link.merging = [])
    (hexec : exec i s0 = issueOp p s w stop (newOp w t i act addrs data)) : let o := opFor s w t i act addrs data
    (∀ u0 held, pushStep (putWave (nextStamp s) (started s w o)) w.core (lanePushFirst i) = (u0, held) →
      (held = true → KeepsAs u0 w o o)
      ∧ ∀ u ws, LanesGo p o (lanesOf act) u0 u ws → KeepsAs u w (allDone o ws) (out ws) ∧ (out ws).id = o.id ∧ (out ws).settled = false) →
    Performs p i s0 s w t stop o out := by
  intro o hkeeps u0 held hpush
  obtain ⟨hheld, hgoes⟩ := hkeeps u0 held hpush
  have hat : waveAt (putWave (nextStamp s) (started s w o)) w.core w.slot = some (started s w o) := waveAt_started s _ w o
  have hvops : (started s w o).ops = [o] := by
    obtain ⟨sp, dm, ag, hv⟩ := started_eq s w o
    exact congrArg Wave.ops hv
  have hrun : exec i s0 =
      let r := performOp p (putWave (nextStamp s) (started s w o)) w.core w.slot o
      if r.hole then .fault .physicalHole else .next (laneDone (keepRun r w.core w.slot) w.core w.slot stop) := by
    rw [hexec, issueOp_started p s hops]
    rfl
  refine ⟨fun hwait => ?_, fun u ws hnow hgo hstays => ?_⟩
  · subst hwait
    rw [performOp_held hat hvops hpush] at hrun
    have hat0 : waveAt u0 w.core w.slot = some (started s w o) := by
      rw [← hat, waveAt, waveAt, (pushStep_keeps hpush).1]
    refine issued_keepRun hhead hlstop rfl rfl hat0 (hrun.trans ?_)
    exact congrArg (fun x => Host.Outcome.next (laneDone x w.core w.slot stop)) (hheld rfl)
  · subst hnow
    have hundone : undone o = act := undone_fresh rfl rfl
    obtain ⟨hkeep, hid, hset⟩ := hgoes u ws hgo
    rw [performOp_alone hat hvops hmerge hpush, runLanes_replayed (u := u) (ws := ws) (by rw [hundone]; exact hgo)] at hrun
    have hdone : replayed o ws = allDone o ws := by
      have hmask : o.done ||| undone o = o.active := by rw [hundone]; exact BitVec.zero_or
      rw [replayed, hmask]
      rfl
    rw [hdone] at hrun
    exact issued_keepRun hhead hlstop hid hset hstays (hrun.trans (congrArg (fun x => Host.Outcome.next (laneDone x w.core w.slot stop)) hkeep))

end Performs

end Sys2Proof.Machine
end

section
/-! PROOFS. `TRAYGET`, `MMA`, `VMM` and `ACCRED` issue (R236, R336, R348, R352). -/

namespace Sys2Proof.Machine

/-! ## `TRAYGET` (R236) -/

/-- A word that reads no feed and whose results are known at issue. -/
theorem issueDone_issues {i : Instr} {s : State} {w : Wave} {t : Strip} {f : Frag} {act : Word} {stop : Bool} {res : List RegWrite}
    (hS : Streams s w t f) (hexec : exec i s = issueDone s w stop (newOp w t i act [] []) res) (hnone : act = 0 → res = []) :
    IssuedDone i s (nextStamp s) w t stop [] (allDone (opFor s w t i act [] []) res) := by
  refine ⟨fun hact => ?_, fun hact => ?_⟩
  · exact ⟨_, hexec.trans (issueDone_active hS w.feeds stop _ res hact rfl), rfl, rfl, rfl, rfl, rfl, rfl⟩
  · rw [hnone hact] at hexec
    obtain ⟨v, hv, hrest⟩ := issueDone_inactive hS w.feeds stop (newOp w t i act [] []) hact rfl rfl rfl
    exact ⟨v, hexec.trans hv, hrest⟩

/-- The register writes of `TRAYGET` in a lane. -/
def trayWrites (tr : TrayInfo) (vd l : Nat) : List RegWrite := ((trayWords tr l).zip (List.range 4)).map (fun p => .v (vd + p.2) l p.1)

theorem trayget_issues {s : State} {w : Wave} {t : Strip} {f : Frag} {x : LXWord} {tr : TrayInfo} {ws : Nat → List RegWrite}
    (hS : Streams s w t f) (htray : w.tray = some tr) (hws : ∀ l, trayWrites tr x.vd.toNat l = ws l) :
    let act := f.m0 &&& rdM w f x.guard.toNat
    IssuedDone (.trayget x) s (nextStamp s) w t x.stop [] (allDone (opFor s w t (.trayget x) act [] []) ((lanesOf act).flatMap ws)) := by
  intro act
  refine issueDone_issues hS ?_ (flatMap_lanesOf_none · _)
  rw [exec_trayget, execTrayget, onLane_streams hS, ← funext hws]
  simp only [htray]
  rfl

/-! ## Format blocks (R64, R66) -/

theorem ofBytes_lt (l : List Byte) : ofBytes l < 256 ^ l.length := by
  induction l with
  | nil => simp [ofBytes]
  | cons b rest ih =>
    have hb := b.isLt
    rw [ofBytes, List.length_cons, Nat.pow_succ]
    omega

theorem length_engBytes (s : State) (core key n : Nat) : (engBytes s core key n).length = n := by
  have hmem : ∀ n a, (readMem s.mem a n).length = n := fun n => by
    induction n with
    | zero => intro; rfl
    | succ n ih => intro a; exact congrArg (· + 1) (ih (a + 1))
  have hown : ∀ n key, (ownBytes s core key n).length = n := fun n => by
    induction n with
    | zero => intro; rfl
    | succ n ih => intro key; exact congrArg (· + 1) (ih (key + 1))
  unfold engBytes
  split_ifs
  · exact hmem n key
  · exact hown n key

theorem withFmt_reads {s u : State} {w : Wave} {t : Strip} {act : Word} {a : DWord} {key : Nat} {k : State → Nat → Out} (hal : a.toNat % 32 = 0)
    (hacc : access s w.core w.slot (ctxIdOf s w.gid) w.priv a.toNat 32 .pull false = (u, .ok key)) :
    withFmt s w t act a k = k u (ofBytes (engBytes u w.core key 32)) := by
  unfold withFmt
  rw [if_neg (not_not_intro hal), hacc]

/-- The 32-bit words of a number below 2^(32 * k), put together. -/
theorem sum_words (n k : Nat) : ((List.range k).map (fun j => n / 2 ^ (32 * j) % 2 ^ 32 * 2 ^ (32 * j))).sum = n % 2 ^ (32 * k) := by
  induction k with
  | zero => simp [Nat.mod_one]
  | succ k ih =>
    rw [List.range_succ, List.map_append, List.sum_append, ih, Nat.mul_succ, Nat.pow_add, Nat.mod_mul, List.map_singleton, List.sum_singleton,
      Nat.mul_comm (2 ^ (32 * k))]

/-- The words of a format block among others that a `VMM` records. -/
def recordFmt (n : Nat) (regs : Map Word) : Map Word :=
  (List.range 8).foldl (fun m j => Tab.set 0 m (fmtKey j) (BitVec.ofNat 32 (n / 2 ^ (32 * j)))) regs

/-- A recorded format block is read back. -/
theorem capturedFmt_record {n : Nat} (hn : n < 2 ^ 256) (regs : Map Word) {o : LaneOp} (ho : o.data = recordFmt n regs) : capturedFmt o = n := by
  have hkey : Function.Injective fmtKey := fun i j h => by unfold fmtKey dataKey at h; omega
  have hword : ∀ j ∈ List.range 8, (Tab.get 0 o.data (fmtKey j)).toNat * 2 ^ (32 * j) = n / 2 ^ (32 * j) % 2 ^ 32 * 2 ^ (32 * j) := by
    intro j hj
    rw [ho, recordFmt, get_foldl_set 0 hkey, if_pos hj, BitVec.toNat_ofNat]
  rw [capturedFmt, List.map_congr_left hword, ← List.sum_eq_foldl, sum_words, Nat.mod_eq_of_lt hn]

/-! ## `MMA` (R331, R336) -/

theorem find?_map_replace {α : Type} {q : α → Bool} {l : List α} {a : α} (hq : q a = true) (h : l.any q = true) :
    (l.map (fun x => if q x then a else x)).find? q = some a := by
  induction l with
  | nil => cases h
  | cons x rest ih =>
    by_cases hx : q x = true
    · simp [hx, hq]
    · have hrest : rest.any q = true := by simpa [hx] using h
      simpa [hx] using ih hrest

/-- A team that has been put is the one found in its place. -/
theorem teamOf_putTeam (s : State) (core : Nat) (t : Team) : teamOf (putTeam s core t) core t.gid t.team = some t := by
  have hself : (t.gid == t.gid && t.team == t.team) = true := by simp
  unfold putTeam
  dsimp only
  split_ifs with hany
  · rw [teamOf, coreOf_putCore_self]
    exact find?_map_replace (q := fun x : Team => x.gid == t.gid && x.team == t.team) hself hany
  · rw [teamOf, coreOf_putCore_self, List.find?_append, List.find?_eq_none.2 fun x hx hp => hany (List.any_eq_true.2 ⟨x, hx, hp⟩)]
    simp

theorem putTeam_rest (s : State) (core : Nat) (t : Team) : (putTeam s core t).waves = s.waves ∧ (putTeam s core t).mem = s.mem := by
  unfold putTeam
  dsimp only
  split_ifs <;> exact ⟨rfl, rfl⟩

/-- The team that a wave joins. -/
def joinedTeam (s : State) (w : Wave) : Team :=
  (teamOf s w.core w.gid (teamIdxOf w)).getD (teamInit w.gid (teamIdxOf w) (teamSizeOf w))

theorem joinedTeam_place (s : State) (w : Wave) : (joinedTeam s w).gid = w.gid ∧ (joinedTeam s w).team = teamIdxOf w := by
  unfold joinedTeam
  cases h : teamOf s w.core w.gid (teamIdxOf w) with
  | none => exact ⟨rfl, rfl⟩
  | some t =>
    have ht := List.find?_some h
    simpa using ht

/-- A wave that joins its team's next operation stands in the team with its word last (R331). -/
theorem joinTeam_member (s : State) (w : Wave) (x : TeamWord) :
    ∃ tm m, teamOf (joinTeam s w x) w.core w.gid (teamIdxOf w) = some tm ∧ m ∈ tm.members ∧ m.wave = w.ident.waveid.toNat
      ∧ m.words.getLast? = some x := by
  obtain ⟨hgid, hteam⟩ := joinedTeam_place s w
  have hjoin : ∃ ms m, joinTeam s w x = putTeam s w.core { joinedTeam s w with members := ms } ∧ m ∈ ms ∧ m.wave = w.ident.waveid.toNat
      ∧ m.words.getLast? = some x := by
    by_cases hin : ((joinedTeam s w).members.any fun m => m.wave == w.ident.waveid.toNat) = true
    · obtain ⟨m, hm, hwave⟩ := List.any_eq_true.1 hin
      refine ⟨_, { m with words := m.words ++ [x] }, congrArg (fun ms => putTeam s w.core { joinedTeam s w with members := ms }) (if_pos hin),
        List.mem_map.2 ⟨m, hm, if_pos hwave⟩, by simpa using hwave, by simp⟩
    · exact ⟨_, { wave := w.ident.waveid.toNat, core := w.core, slot := w.slot, words := [x] },
        congrArg (fun ms => putTeam s w.core { joinedTeam s w with members := ms }) (if_neg hin), by simp, rfl, rfl⟩
  obtain ⟨ms, m, hput, hm, hwave, hlast⟩ := hjoin
  have hfound := teamOf_putTeam s w.core { joinedTeam s w with members := ms }
  rw [← hput] at hfound
  dsimp only at hfound
  rw [hgid, hteam] at hfound
  exact ⟨_, m, hfound, hm, hwave, hlast⟩

theorem joinTeam_rest (s : State) (w : Wave) (x : TeamWord) : (joinTeam s w x).waves = s.waves ∧ (joinTeam s w x).mem = s.mem :=
  putTeam_rest s w.core _

/-- The wave that has issued its `MMA`. -/
def mmaWave (u : State) (w : Wave) (o : LaneOp) : Wave := spinReset u { w with nextOp := w.nextOp + 1, ops := [o] }

/-- The word that a wave's `MMA` brings to its team, over the format block `n`. -/
def mmaWord (w : Wave) (x : LXWord) (bType : LType) (n : Nat) (act : Word) : TeamWord :=
  .mma w.nextOp x.ty bType (rdP w x.sbase.toNat) (rdP w (x.sbase.toNat + 2)) (BitVec.ofNat 256 n) (x.imm24.getLsbD 0) act x.va.toNat x.vb.toNat

theorem mma_issues {s u : State} {w : Wave} {t : Strip} {f : Frag} {x : LXWord} {key : Nat} {fm : Fmt} (hS : Streams s w t f)
    (hteam : teamSizeOf w ≠ 0) (hal : (rdP w (x.sbase.toNat + 2)).toNat % 32 = 0)
    (hacc : access s w.core w.slot (ctxIdOf s w.gid) w.priv (rdP w (x.sbase.toNat + 2)).toNat 32 .pull false = (u, .ok key))
    (hfmt : fmtOf (ofBytes (engBytes u w.core key 32)) = some fm) (hA : fm.aType = x.ty) (hB : ltypeOf x.aux.toNat = some fm.bType)
    (hlive : (teamOf u w.core w.gid (teamIdxOf w)).any (·.dissolved) = false) :
    let act := f.m0 &&& rdM w f x.guard.toNat
    let o := { newOp w t (.mma x) act [] [] with pendingAnswers := 1 }
    Issued (.mma x) s (joinTeam (putWave u (mmaWave u w o)) w (mmaWord w x fm.bType (ofBytes (engBytes u w.core key 32)) act)) w t x.stop [] o := by
  intro act o
  generalize hv : joinTeam (putWave u (mmaWave u w o)) w (mmaWord w x fm.bType (ofBytes (engBytes u w.core key 32)) act) = v
  have hexec : exec (.mma x) s = .next (laneDone v w.core w.slot x.stop) := by
    rw [exec_mma, execMma, onLane_streams hS]
    simp only [hteam, if_false]
    rw [withFmt_reads hal hacc]
    simp only [hfmt, hB, Option.getD_some, hA, ne_eq, not_true_eq_false, or_self, if_false, hlive, Bool.false_eq_true, hS.ops, List.nil_append]
    rw [← hv]
    rfl
  have hat : waveAt v w.core w.slot = some (mmaWave u w o) := by
    have hput : waveAt (putWave u (mmaWave u w o)) w.core w.slot = some (mmaWave u w o) := waveAt_putWave u _
    rw [← hput, ← hv, waveAt, (joinTeam_rest ..).1, waveAt]
  rw [laneDone_outstanding_at hat (t := t) (o := o) x.stop hS.head (List.mem_singleton_self o) rfl hS.lstop] at hexec
  exact ⟨_, hexec, rfl, rfl, rfl, rfl, rfl, rfl⟩

/-! ## `VMM` (R352) -/

/-- A pair's element as a pointer. -/
theorem ofNat_rdVP (s : State) {w : Wave} (hops : w.ops = []) (r l : Nat) :
    BitVec.ofNat 64 (rdVP s w r l) = rdElem w (r + 1) l ++ rdElem w r l := by
  refine BitVec.eq_of_toNat_eq ?_
  have hlo := (rdElem w r l).isLt
  have hhi := (rdElem w (r + 1) l).isLt
  rw [Laws.toNat_append, rdVP, rdV_quiet s hops, rdV_quiet s hops, BitVec.toNat_ofNat]
  omega

/-- The pointer of a lane of `VMM`. -/
def vmmPtr (s : State) (w : Wave) (x : LXWord) (l : Nat) : DWord :=
  if x.nov then rdP w (x.sbase.toNat + 2) else BitVec.ofNat 64 (rdVP s w x.vb.toNat l)

theorem opAddr_laneAddrs {o : LaneOp} {act : Word} {g : Nat → DWord} (ho : o.addrs = laneAddrs act g) {l : Nat} (hl : l ∈ lanesOf act) :
    opAddr o l = g l := by
  rw [opAddr, ho, laneAddrs, get_foldl_set 0 (key := fun n => n) Function.injective_id, if_pos hl]

theorem exec_vmm_reads {s u : State} {w : Wave} {t : Strip} {f : Frag} {x : LXWord} {key : Nat} {fm : Fmt} (hS : Streams s w t f)
    (hal : (rdP w x.sbase.toNat).toNat % 32 = 0)
    (hacc : access s w.core w.slot (ctxIdOf s w.gid) w.priv (rdP w x.sbase.toNat).toNat 32 .pull false = (u, .ok key))
    (hfmt : fmtOf (ofBytes (engBytes u w.core key 32)) = some fm) (hA : fm.aType = x.ty) (hB : ltypeOf x.aux.toNat = some fm.bType)
    (hablock : fm.aBlock = 0) (hbblock : fm.bBlock = 0) : let act := f.m0 &&& rdM w f x.guard.toNat
    exec (.vmm x) s = issueOp vmmPerform u w x.stop (newOp w t (.vmm x) act (laneAddrs act (vmmPtr u w x))
      (recordFmt (ofBytes (engBytes u w.core key 32)) (capture u w act x.va.toNat (vmmRegs x) 0 []))) := by
  rw [exec_vmm, execVmm, onLane_streams hS, withFmt_reads hal hacc]
  simp only [hfmt, hA, hB, hablock, hbblock, ne_eq, not_true_eq_false, or_self, if_false]
  rfl

theorem vmm_performs {s u : State} {w : Wave} {t : Strip} {f : Frag} {x : LXWord} {act : Word} {addrs : Map DWord} {data : Map Word}
    (hS : Streams s w t f) (hmerge : u.link.merging = [])
    (hexec : exec (.vmm x) s = issueOp vmmPerform u w x.stop (newOp w t (.vmm x) act addrs data)) :
    let o := opFor u w t (.vmm x) act addrs data
    Performs vmmPerform (.vmm x) s u w t x.stop o (allDone o) := by
  intro o
  have hred : ∀ y, Instr.vmm x ≠ .accred y := fun y h => LaneAcc.noConfusion (congrArg laneAcc h)
  exact performs_of_issueOp hS.head hS.ops hS.lstop hmerge hexec fun u0 _ _ =>
    ⟨fun _ => keepRun_plain (u := u0) (o := o) rfl rfl hred,
      fun v ws _ => ⟨keepRun_plain (u := v) (o := allDone o ws) rfl rfl hred, rfl, rfl⟩⟩

/-! ## `ACCRED` (R338, R348) -/

/-- The partials that an operation has on their way. -/
def ofOp (core slot id : Nat) (p : Partial) : Bool := p.core == core && p.slot == slot && p.opId == id

/-- An `ACCRED` goes back into its wave waiting for an answer to each partial on its way. -/
theorem keepRun_accred {u : State} {core slot : Nat} {o : LaneOp} {x : LXWord} (hword : o.word = .accred x) (hfaults : o.faults = [])
    (hmisses : o.misses = []) : keepRun { s := u, o := o, misses := [], claims := [], hole := false } core slot
      = modWave u core slot (withOp { o with pendingAnswers := (u.partials.filter (ofOp core slot o.id)).length }) := by
  cases o
  dsimp only at hword hfaults hmisses
  subst hword hfaults hmisses
  rfl

/-- A latent line that is reached leaves the waves, the partials and the place of issue as they were. -/
theorem accReach_ok {s u : State} {w : Wave} {ty : LType} {va : DWord} {k : AccKind} {yes : State → State × LaneRes} {ws : List RegWrite}
    (h : accReach s w ty va k yes = (u, .ok ws)) :
    ∃ t, yes t = (u, .ok ws) ∧ t.waves = s.waves ∧ t.partials = s.partials ∧ t.cur = s.cur := by
  unfold accReach at h
  dsimp only at h
  split at h
  · cases h
  · split at h
    · split at h <;> cases h
    · cases h
    · split at h
      · cases h
      · split at h
        · cases h
        · exact ⟨_, h, rfl, rfl, rfl⟩

/-- The partial that a lane of `ACCRED` sends. -/
def redPartial (s : State) (w : Wave) (x : LXWord) (o : LaneOp) (l : Nat) : Partial :=
  { ctx := ctxIdOf s w.gid, va := (opAddr o l).toNat, ty := x.ty, bits := BitVec.ofNat 64 (opVal o x.ty 0 l), gid := w.gid,
    core := w.core, slot := w.slot, opId := o.id, lane := l }

theorem accLane_accred {o : LaneOp} {l : Nat} {s : State} {w : Wave} {x : LXWord} (hword : o.word = .accred x)
    (hw : waveAt s s.cur.core s.cur.slot = some w) :
    accLane o l s = accReach s w x.ty (opAddr o l) .write (fun t => ({ t with partials := t.partials ++ [redPartial s w x o l] }, .ok [])) := by
  simp only [accLane, hw, hword]
  rfl

/-- A lane of `ACCRED` that goes has sent one partial of its wave's operation. -/
theorem accLane_sends {o : LaneOp} {l : Nat} {s t : State} {w : Wave} {x : LXWord} {ws : List RegWrite} (hword : o.word = .accred x)
    (hw : waveAt s s.cur.core s.cur.slot = some w) (h : accLane o l s = (t, .ok ws)) :
    ws = [] ∧ t.cur = s.cur ∧ t.waves = s.waves ∧ t.partials = s.partials ++ [redPartial s w x o l] := by
  rw [accLane_accred hword hw] at h
  obtain ⟨s1, hyes, hwaves, hpartials, hcur⟩ := accReach_ok h
  obtain ⟨rfl, hres⟩ := Prod.mk.inj hyes
  exact ⟨(LaneRes.ok.inj hres).symm, hcur, hwaves, congrArg (· ++ [redPartial s w x o l]) hpartials⟩

/-- Lanes of `ACCRED` that all go send a partial each, and have no result. -/
theorem lanesGo_accred {w : Wave} {x : LXWord} {ls : List Nat} {o : LaneOp} {s u : State} {ws : List RegWrite} (hword : o.word = .accred x)
    (hw : waveAt s s.cur.core s.cur.slot = some w) (h : LanesGo accLane o ls s u ws) :
    ws = [] ∧ ∃ ps, u.partials = s.partials ++ ps ∧ ps.length = ls.length ∧ ∀ p ∈ ps, ofOp w.core w.slot o.id p = true := by
  induction ls generalizing o s ws with
  | nil =>
    obtain ⟨rfl, rfl⟩ := h
    exact ⟨rfl, [], (List.append_nil _).symm, rfl, nofun⟩
  | cons l rest ih =>
    obtain ⟨t, a, b, hl, hgo, rfl⟩ := h
    obtain ⟨rfl, hcur, hwaves, hp⟩ := accLane_sends hword hw hl
    have hof : ofOp w.core w.slot o.id (redPartial s w x o l) = true := by simp [ofOp, redPartial]
    obtain ⟨rfl, ps, hps, hlen, hall⟩ := ih (by exact hword) (by rw [hcur, ← hw, waveAt, waveAt, hwaves]) hgo
    exact ⟨rfl, redPartial s w x o l :: ps, by rw [hps, hp, List.append_assoc]; rfl, congrArg (· + 1) hlen,
      List.forall_mem_cons.2 ⟨hof, hall⟩⟩

section Accred

variable {s : State} {w : Wave} {t : Strip} {f : Frag} (hS : Streams s w t f) {x : LXWord} {act : Word} {addrs : Map DWord}
  {data : Map Word}
include hS

/-- The place of issue holds the wave that has started an operation. -/
theorem waveAt_cur_started (o : LaneOp) : waveAt (putWave (nextStamp s) (started s w o)) s.cur.core s.cur.slot = some (started s w o) := by
  obtain ⟨hcore, hslot⟩ := waveAt_place hS.wave
  rw [← hcore, ← hslot]
  exact waveAt_started s _ w o

/-- The lanes of `ACCRED` send a partial each, from any state in which the wave that has started the operation issues. -/
theorem accred_sends {u0 u : State} {ws : List RegWrite} (hcur : u0.cur = s.cur) (hwaves : u0.waves = (putWave (nextStamp s)
      (started s w (opFor s w t (.accred x) act addrs data))).waves) {ls : List Nat}
    (hgo : LanesGo accLane (opFor s w t (.accred x) act addrs data) ls u0 u ws) :
    ws = [] ∧ ∃ ps, u.partials = u0.partials ++ ps ∧ ps.length = ls.length ∧ ∀ p ∈ ps, ofOp w.core w.slot w.nextOp p = true := by
  have hat := waveAt_cur_started hS (opFor s w t (.accred x) act addrs data)
  obtain ⟨sp, dm, ag, hv⟩ := started_eq s w (opFor s w t (.accred x) act addrs data)
  obtain ⟨hws, ps, hps, hlen, hall⟩ := lanesGo_accred (o := opFor s w t (.accred x) act addrs data) rfl
    (by rw [hcur, ← hat, waveAt, waveAt, hwaves]) hgo
  rw [hv] at hall
  exact ⟨hws, ps, hps, hlen, hall⟩

theorem accred_performs (hexec : exec (.accred x) s = issueOp accLane s w x.stop (newOp w t (.accred x) act addrs data))
    (hnone : ∀ p ∈ s.partials, ¬ (p.core = w.core ∧ p.slot = w.slot ∧ p.opId = w.nextOp)) : let o := opFor s w t (.accred x) act addrs data
    Performs accLane (.accred x) s s w t x.stop o (fun ws => { allDone o ws with pendingAnswers := (lanesOf act).length }) := by
  intro o
  have hfilter : s.partials.filter (ofOp w.core w.slot w.nextOp) = [] :=
    List.filter_eq_nil_iff.2 fun p hp => by simpa [ofOp, and_assoc] using hnone p hp
  refine performs_of_issueOp hS.head hS.ops hS.lstop hS.fab hexec fun u0 held hpush => ?_
  obtain ⟨hwaves, hpartials, hcur⟩ := pushStep_keeps hpush
  have hbefore : u0.partials.filter (ofOp w.core w.slot w.nextOp) = [] := by rw [hpartials]; exact hfilter
  refine ⟨fun _ => ?held, fun u ws hgo => ⟨?goes, rfl, rfl⟩⟩
  case held =>
    have hkeep := keepRun_accred (u := u0) (core := w.core) (slot := w.slot) (o := o) rfl rfl rfl
    rw [show o.id = w.nextOp from rfl, hbefore] at hkeep
    exact hkeep
  case goes =>
    obtain ⟨-, ps, hps, hlen, hall⟩ := accred_sends hS hcur hwaves hgo
    have hsent : (u.partials.filter (ofOp w.core w.slot w.nextOp)).length = (lanesOf act).length := by
      rw [hps, List.filter_append, hbefore, List.nil_append, List.filter_eq_self.2 hall, hlen]
    have hkeep := keepRun_accred (u := u) (core := w.core) (slot := w.slot) (o := allDone o ws) rfl rfl rfl
    rw [show (allDone o ws).id = w.nextOp from rfl, hsent] at hkeep
    exact hkeep

end Accred

/-- Settles O39: `TRAYGET` has its results at issue, `MMA` brings its word to its team, and `VMM` and `ACCRED` perform their lanes; those of
`ACCRED` send a partial each. -/
theorem laneUnitsIssue : Obligations.LaneUnitsIssue := by
  intro s w t f hS x act
  refine ⟨fun tr htray => ?trayget, ?mma, ?vmm, ?accred⟩
  case trayget =>
    refine trayget_issues hS htray fun l => ?_
    unfold trayWrites trayWords
    cases tr.recs[l]? <;> rfl
  case mma =>
    intro u key fm a hteam hal hacc hfmt hA hB hlive
    obtain ⟨tm, m, hfound, hm, hwave, hlast⟩ := joinTeam_member
      (putWave u (mmaWave u w { newOp w t (.mma x) act [] [] with pendingAnswers := 1 })) w
      (mmaWord w x fm.bType (ofBytes (engBytes u w.core key 32)) act)
    exact ⟨_, tm, m, mma_issues hS hteam hal hacc hfmt hA hB hlive, hfound, hm, hwave, hlast, (joinTeam_rest ..).2⟩
  case vmm =>
    intro u key fm a hal hacc hfmt hA hB hablock hbblock hmerge
    have hn : ofBytes (engBytes u w.core key 32) < 2 ^ 256 := by
      have hlt := ofBytes_lt (engBytes u w.core key 32)
      rwa [length_engBytes] at hlt
    refine ⟨_, _, _, rfl, fun l hl => ?address, capturedFmt_record hn _ rfl,
      vmm_performs hS hmerge (exec_vmm_reads hS hal hacc hfmt hA hB hablock hbblock)⟩
    case address =>
      rw [opAddr_laneAddrs rfl hl, vmmPtr, ofNat_rdVP u hS.ops]
  case accred =>
    have hexec : exec (.accred x) s = issueOp accLane s w x.stop (newOp w t (.accred x) act (laneAddrs act (virtAddr s w x))
        (capture s w act x.vb.toNat (regsOf x.ty) 0 [])) := by
      rw [exec_accred, execAccred, onLane_streams hS]
    refine ⟨_, _, _, rfl, accred_performs hS hexec, fun u ws hgo => ?_⟩
    obtain ⟨hws, ps, hps, hlen, -⟩ := accred_sends hS (by rfl) (by rfl) hgo
    exact ⟨by rw [hps, List.length_append, hlen]; rfl, hws⟩

end Sys2Proof.Machine
end

section
/-! PROOFS. Named barriers: their words, misuses and phases (R241, R243, R244). -/

namespace Sys2Proof.Machine

/-! ## Fields of `BINIT`'s operand (R243, R244) -/

/-- The low field of an operand. -/
theorem bits_low (x hi : Nat) : bits x hi 0 = x % 2 ^ (hi + 1) := by simp [bits]

theorem bit_toNat {n : Nat} (x : BitVec n) (i : Nat) : bit x.toNat i = x.getLsbD i := by
  rw [bit_eq_testBit]; rfl

/-- The reserved bits of `BINIT`'s operand. -/
theorem binitHigh_eq (x : Word) : bits x.toNat 31 17 = x.toNat / 2 ^ 17 :=
  Nat.mod_eq_of_lt (Nat.div_lt_of_lt_mul x.isLt)

/-- The count that `BINIT`'s operand gives. -/
def binitCount (w : Wave) (a : SReg) : Nat :=
  if (rdS w a.toNat).getLsbD 16 then (rdS w a.toNat).toNat % 2 ^ 16 * teamSizeOf w else (rdS w a.toNat).toNat % 2 ^ 16

/-- What R243 asks of `BINIT`'s operand. -/
abbrev BinitRefused (w : Wave) (a : SReg) : Prop :=
  (rdS w a.toNat).toNat / 2 ^ 17 ≠ 0 ∨ (rdS w a.toNat).getLsbD 16 = true ∧ teamSizeOf w = 0 ∨ 65535 < binitCount w a

section Words

variable {s : State} {w : Wave} {f : Frag} {g : Group} (hI : Issues s w f) (hg : groupOf s w.gid = some g) {d a : SReg} {n : BitVec 4}
include hI hg

/-- A barrier word of a number past the kernel's barriers (R243). -/
theorem onBarrier_outside {n : Nat} (hn : g.barrierCount ≤ n) (k : Wave → Frag → Group → Barrier → Out) :
    onBarrier s n k = misuse s w f n 1 := by
  rw [onBarrier, onFrag_issues hI]
  simp only [hg, if_pos hn]

/-- A barrier word of one of the kernel's barriers. -/
theorem onBarrier_inside {n : Nat} (hn : n < g.barrierCount) (k : Wave → Frag → Group → Barrier → Out) :
    onBarrier s n k = k w f g (barrierOf g n) := by
  rw [onBarrier, onFrag_issues hI]
  simp only [hg, if_neg (Nat.not_le.2 hn)]

/-- `BINIT` of one of the kernel's barriers (R241, R244). -/
theorem exec_binit_inside (hn : n.toNat < g.barrierCount) : exec (.binit d a n) s =
    (let b := barrierOf g n.toNat
     let put (y : Barrier) : State := putGroup s w.gid (putBarrier g n.toNat y)
     if BinitRefused w a then misuse s w f n.toNat 3
     else if b.inUse = false then
       if binitCount w a = 0 then done s (wrS w d.toNat 0) f
       else done (put { b with inUse := true, expected := binitCount w a, arrived := 0 }) (wrS w d.toNat 0) f
     else if b.arrived = 0 ∧ b.waiters = 0 then
       done (put { b with inUse := decide (binitCount w a ≠ 0), expected := binitCount w a }) (wrS w d.toNat 0) f
     else done s (wrS w d.toNat 1) f) := by
  rw [exec_binit, execBinit, onBarrier_inside hI hg hn]
  simp only [binitHigh_eq, bit_toNat, bits_low, modGroup_eq_putGroup hg, BinitRefused, binitCount, Bool.not_eq_true', bne, Nat.reduceAdd]
  congr 1
  simp [beq_eq_decide]

theorem exec_barr_unused (hn : n.toNat < g.barrierCount) (hu : (barrierOf g n.toNat).inUse = false) :
    exec (.barr d n) s = misuse s w f n.toNat 2 := by
  rw [exec_barr, execBarr, onBarrier_inside hI hg hn]
  simp [hu]

theorem exec_bsync_unused (hn : n.toNat < g.barrierCount) (hu : (barrierOf g n.toNat).inUse = false) :
    exec (.bsync d n) s = misuse s w f n.toNat 2 := by
  rw [exec_bsync, execBsync, onBarrier_inside hI hg hn]
  simp [hu]

end Words

/-! ## Misuses (R243) -/

theorem misuse_taken {i : Instr} {s : State} {w : Wave} {f : Frag} {c : Ctx} {n reason : Nat} (hU : AtUser s w f c)
    (h : exec i s = misuse s w f n reason) :
    TrapTaken i s f c .barrierMisuse 1 0 (BitVec.ofNat 32 (n + 16 * reason)) f.pc :=
  trapAt_taken hU h

/-- An operand without the team bit counts no further than 65,535, so that R243 leaves it two ways to be refused. -/
theorem binitRefused_of_fields {w : Wave} {a : SReg}
    (h : (rdS w a.toNat).toNat / 2 ^ 17 ≠ 0 ∨ ((rdS w a.toNat).getLsbD 16 = true ∧
      (teamSizeOf w = 0 ∨ 65535 < (rdS w a.toNat).toNat % 2 ^ 16 * teamSizeOf w))) : BinitRefused w a := by
  rcases h with hhigh | ⟨hteam, hnone | hmany⟩
  · exact .inl hhigh
  · exact .inr (.inl ⟨hteam, hnone⟩)
  · exact .inr (.inr (by rwa [binitCount, if_pos hteam]))

/-- Settles O11: each misuse traps with its number and reason in `TRAPINFO`. -/
theorem barrierMisuse : Obligations.BarrierMisuse := by
  intro s w f c g hU hg d a n
  have hI : Issues s w f := hU.1
  refine ⟨fun hout => ?_, fun hin hunused => ⟨?_, ?_⟩, fun hin hbad => ?_⟩
  · have outside {i : Instr} {k : Wave → Frag → Group → Barrier → Out} (h : exec i s = onBarrier s n.toNat k) :
        TrapTaken i s f c .barrierMisuse 1 0 (BitVec.ofNat 32 (n.toNat + 16 * 1)) f.pc :=
      misuse_taken hU (h.trans (onBarrier_outside hI hg hout k))
    exact ⟨outside (exec_binit d a n s), outside (exec_barr d n s), outside (exec_bwait d a n s), outside (exec_bsync d n s)⟩
  · exact misuse_taken hU (exec_barr_unused hI hg hin hunused)
  · exact misuse_taken hU (exec_bsync_unused hI hg hin hunused)
  · exact misuse_taken hU ((exec_binit_inside hI hg hin).trans (if_pos (binitRefused_of_fields hbad)))

end Sys2Proof.Machine
end

section
/-! PROOFS. Barrier words that complete, sleep and wake (R241, R244). -/

namespace Sys2Proof.Machine

/-! ## Barriers of a group -/

@[simp] theorem barrierOf_putBarrier (g : Group) (n : Nat) (b : Barrier) : barrierOf (putBarrier g n b) n = b :=
  Tab.get_set_self _ _ _ _

/-! ## Arrivals (R241) -/

/-- Waking no wave changes nothing. -/
theorem wakeBarrier_none (s : State) (gid n : Nat) : wakeBarrier s gid n 0 = s := by
  have hid : (fun e : Nat × Wave => (e.1, if (e.2.gid == gid && (0 : BitVec 128).getLsbD e.2.ident.waveid.toNat) = true
      then wakeAt s n e.2 else e.2)) = id := by
    funext e; simp
  simp only [wakeBarrier, mapWaves, Map.mapVals]
  rw [hid, List.map_id]

section Arrive

variable {s : State} {gid n : Nat} {g : Group} (hg : groupOf s gid = some g) (huse : (barrierOf g n).inUse = true)
include hg huse

theorem arrive_counts (hmore : (barrierOf g n).arrived + 1 ≠ (barrierOf g n).expected) :
    arrive s gid n = putGroup s gid (putBarrier g n { barrierOf g n with arrived := (barrierOf g n).arrived + 1 }) := by
  simp only [arrive, hg, huse, Bool.not_true, Bool.false_eq_true, if_false, if_neg hmore, modGroup_eq_putGroup hg]

/-- The state after a phase's last arrival, before its waiters wake. -/
def phaseOver (s : State) (gid n : Nat) (g : Group) : State :=
  putGroup s gid (putBarrier g n { barrierOf g n with phase := (barrierOf g n).phase + 1, arrived := 0, waiters := 0 })

theorem arrive_ends (hlast : (barrierOf g n).arrived + 1 = (barrierOf g n).expected) :
    arrive s gid n = wakeBarrier (phaseOver s gid n g) gid n (barrierOf g n).waiters := by
  simp only [arrive, hg, huse, Bool.not_true, Bool.false_eq_true, if_false, if_pos hlast, phaseDone, phaseOver, modGroup_eq_putGroup hg]

end Arrive

/-! ## Words that complete (R244) -/

theorem actedWith_issues {t : State} {w : Wave} {f : Frag} (hI : Issues t w f) (k : Wave → Wave) :
    actedWith t k = done t (acted t (k w)) f :=
  onFrag_issues hI _

/-- A word that ends with its answer written and counts as an action (R169), over the state that its own effect has made. -/
theorem answersIn_acts {i : Instr} {s t : State} {w : Wave} {f : Frag} {d : SReg} {x : Word}
    (h : exec i s = done t (acted t (wrS w d.toNat x)) f) (hcur : t.cur = s.cur) : AnswersIn i s t w f d x := by
  have hwave : acted t (wrS w d.toNat x) = { w with sregs := (wrS w d.toNat x).sregs, spin := 0, demoted := false,
                                                    age := (acted t (wrS w d.toNat x)).age } := by
    rw [acted, spinReset, wrS_eq]
  exact goTo_scalarDoneAt h hcur (by rw [hwave]) (rdS_wrS w d.toNat · x) (rdM_wrS w f d.toNat · x)

section Words

variable {s : State} {w : Wave} {f : Frag} {g : Group} (hI : Issues s w f) (hg : groupOf s w.gid = some g) {d a : SReg} {n : BitVec 4}
  (hn : n.toNat < g.barrierCount)

/-- The group's barrier becomes `b`. -/
def barrierSet (s : State) (gid n : Nat) (g : Group) (b : Barrier) : State := putGroup s gid (putBarrier g n b)

section Init

include hI hg hn
variable (hv : ¬ BinitRefused w a)
include hv

theorem exec_binit_valid : exec (.binit d a n) s =
    (if (barrierOf g n.toNat).inUse = false then
       if binitCount w a = 0 then done s (wrS w d.toNat 0) f
       else done (barrierSet s w.gid n.toNat g { barrierOf g n.toNat with inUse := true, expected := binitCount w a, arrived := 0 })
         (wrS w d.toNat 0) f
     else if (barrierOf g n.toNat).arrived = 0 ∧ (barrierOf g n.toNat).waiters = 0 then
       done (barrierSet s w.gid n.toNat g { barrierOf g n.toNat with inUse := decide (binitCount w a ≠ 0), expected := binitCount w a })
         (wrS w d.toNat 0) f
     else done s (wrS w d.toNat 1) f) :=
  (exec_binit_inside hI hg hn).trans (if_neg hv)

theorem binit_starts (hc : binitCount w a ≠ 0) (hu : (barrierOf g n.toNat).inUse = false) : AnswersIn (.binit d a n) s
    (barrierSet s w.gid n.toNat g { barrierOf g n.toNat with inUse := true, expected := binitCount w a, arrived := 0 }) w f d 0 :=
  answersIn_done ((exec_binit_valid hI hg hn hv).trans ((if_pos hu).trans (if_neg hc))) rfl

theorem binit_unused (hc : binitCount w a = 0) (hu : (barrierOf g n.toNat).inUse = false) : AnswersIn (.binit d a n) s s w f d 0 :=
  answersIn_done ((exec_binit_valid hI hg hn hv).trans ((if_pos hu).trans (if_pos hc))) rfl

theorem binit_sets (hu : (barrierOf g n.toNat).inUse = true) (ha : (barrierOf g n.toNat).arrived = 0)
    (hw : (barrierOf g n.toNat).waiters = 0) : AnswersIn (.binit d a n) s
    (barrierSet s w.gid n.toNat g { barrierOf g n.toNat with inUse := decide (binitCount w a ≠ 0), expected := binitCount w a }) w f d 0 :=
  answersIn_done ((exec_binit_valid hI hg hn hv).trans ((if_neg (by simp [hu])).trans (if_pos ⟨ha, hw⟩))) rfl

theorem binit_busy (hu : (barrierOf g n.toNat).inUse = true)
    (hbusy : (barrierOf g n.toNat).arrived ≠ 0 ∨ (barrierOf g n.toNat).waiters ≠ 0) : AnswersIn (.binit d a n) s s w f d 1 :=
  answersIn_done ((exec_binit_valid hI hg hn hv).trans ((if_neg (by simp [hu])).trans (if_neg (by tauto)))) rfl

end Init

section InUse

include hI hg hn
variable (hu : (barrierOf g n.toNat).inUse = true)
include hu

theorem exec_barr_used : exec (.barr d n) s
    = actedWith (arrive s w.gid n.toNat) (fun v => wrS v d.toNat ((barrierOf g n.toNat).phase.setWidth 32)) := by
  rw [exec_barr, execBarr, onBarrier_inside hI hg hn]
  exact if_neg (by simp [hu])

theorem barr_counts (hmore : (barrierOf g n.toNat).arrived + 1 ≠ (barrierOf g n.toNat).expected) : AnswersIn (.barr d n) s
    (barrierSet s w.gid n.toNat g { barrierOf g n.toNat with arrived := (barrierOf g n.toNat).arrived + 1 }) w f d
    ((barrierOf g n.toNat).phase.setWidth 32) := by
  refine answersIn_acts ?_ rfl
  rw [exec_barr_used hI hg hn hu, arrive_counts hg hu hmore]
  exact actedWith_issues (t := putGroup s w.gid _) hI _

section Ends

variable (hlast : (barrierOf g n.toNat).arrived + 1 = (barrierOf g n.toNat).expected) (hw : (barrierOf g n.toNat).waiters = 0)
include hlast hw

/-- The state after a phase that no wave has waited for. -/
def phaseNext (s : State) (gid n : Nat) (g : Group) : State :=
  barrierSet s gid n g { barrierOf g n with phase := (barrierOf g n).phase + 1, arrived := 0 }

omit hI hn in
theorem arrive_ends_unwatched : arrive s w.gid n.toNat = phaseNext s w.gid n.toNat g := by
  rw [arrive_ends hg hu hlast, hw, wakeBarrier_none, phaseOver, ← hw]
  rfl

theorem barr_ends : AnswersIn (.barr d n) s (phaseNext s w.gid n.toNat g) w f d ((barrierOf g n.toNat).phase.setWidth 32) := by
  refine answersIn_acts ?_ rfl
  rw [exec_barr_used hI hg hn hu, arrive_ends_unwatched hg hu hlast hw]
  exact actedWith_issues (t := phaseNext s w.gid n.toNat g) hI _

theorem bsync_ends : AnswersIn (.bsync d n) s (phaseNext s w.gid n.toNat g) w f d ((barrierOf g n.toNat).phase.setWidth 32) := by
  refine answersIn_acts ?_ rfl
  rw [exec_bsync, execBsync, onBarrier_inside hI hg hn]
  refine (if_neg (by simp [hu])).trans ?_
  have hnow : ((groupOf (phaseNext s w.gid n.toNat g) w.gid).map (fun g => (barrierOf g n.toNat).phase)).getD (barrierOf g n.toNat).phase
      ≠ (barrierOf g n.toNat).phase := by simp [phaseNext, barrierSet]
  rw [arrive_ends_unwatched hg hu hlast hw]
  exact (if_pos hnow).trans (actedWith_issues (t := phaseNext s w.gid n.toNat g) hI _)

end Ends

theorem exec_bsync_counts (hmore : (barrierOf g n.toNat).arrived + 1 ≠ (barrierOf g n.toNat).expected) :
    let t := barrierSet s w.gid n.toNat g { barrierOf g n.toNat with arrived := (barrierOf g n.toNat).arrived + 1 }
    exec (.bsync d n) s = blocked (setWaiter t w n.toNat) (acted (setWaiter t w n.toNat) w) f
      (.bsync n.toNat (barrierOf g n.toNat).phase d.toNat) := by
  intro t
  have hI' : Issues (setWaiter t w n.toNat) w f := hI
  have hnow : ¬ ((groupOf t w.gid).map (fun g => (barrierOf g n.toNat).phase)).getD (barrierOf g n.toNat).phase
      ≠ (barrierOf g n.toNat).phase := by simp [t, barrierSet]
  rw [exec_bsync, execBsync, onBarrier_inside hI hg hn]
  refine (if_neg (by simp [hu])).trans ?_
  rw [arrive_counts hg hu hmore]
  exact (if_neg hnow).trans (onFrag_issues hI' _)

end InUse

include hI hg hn

theorem exec_bwait_inside : exec (.bwait d a n) s =
    if (barrierOf g n.toNat).phase ≠ (rdS w a.toNat).setWidth 16 then done s (wrS w d.toNat ((barrierOf g n.toNat).phase.setWidth 32)) f
    else blocked (setWaiter s w n.toNat) w f (.bwait n.toNat ((rdS w a.toNat).setWidth 16)) := by
  rw [exec_bwait, execBwait, onBarrier_inside hI hg hn]

omit hg hn in
theorem barrx_sends {gid : Nat} {h : Group} (hlive : liveHandle s w (rdS w a.toNat) = some (gid, h)) (hin : n.toNat < h.barrierCount) :
    AnswersIn (.barrx d a n) s { s with arrivals := s.arrivals ++ [(rdS w a.toNat, n.toNat)] } w f d 0 := by
  refine answersIn_acts ?_ rfl
  rw [exec_barrx, execBarrx, onFrag_issues hI]
  simp only [hlive, if_neg (Nat.not_le.2 hin)]

end Words

/-! ## Words that sleep (R244) -/

/-- A word that sleeps over the state that its own effect has made: its fragment waits in its place. -/
theorem blocked_sleeps {i : Instr} {s t : State} {w u : Wave} {f : Frag} {x : Wait} (hI : Issues s w f)
    (h : exec i s = blocked t u f x) (hcur : t.cur = s.cur) (hcore : u.core = w.core) (hslot : u.slot = w.slot) :
    Answers i s (fun v => groupOf v = groupOf t ∧ ∃ z, waveAt v s.cur.core s.cur.slot = some z
      ∧ fragOf z s.cur.b = some { f with wait := x }) := by
  obtain ⟨hc, hs⟩ := issues_place hI
  refine ⟨_, h, rfl, putFrag u t.cur.b (some { f with wait := x }), ?_, by rw [hcur, fragOf_putFrag]⟩
  have hat := waveAt_putWave t (putFrag u t.cur.b (some { f with wait := x }))
  rwa [putFrag_core, putFrag_slot, hcore, hslot, hc, hs] at hat

/-- The wave's bit among the barrier's waiters. -/
theorem barrierOf_setWaiter {t : State} {w : Wave} {n : Nat} {h : Group} (hh : groupOf t w.gid = some h) :
    (groupOf (setWaiter t w n) w.gid).map (fun h => barrierOf h n)
      = some { barrierOf h n with waiters := (barrierOf h n).waiters ||| (1 : BitVec 128) <<< w.ident.waveid.toNat } := by
  rw [setWaiter, modGroup_eq_putGroup hh, groupOf_putGroup_self]
  simp

/-! ## Waiters that wake (R241, R244) -/

theorem fragOf_mapFrags (w : Wave) (k : Frag → Frag) (b : Bool) : fragOf (mapFrags w k) b = (fragOf w b).map k := by
  cases b <;> rfl

theorem fragOf_wrFor (w : Wave) (f : Frag) (sd : Nat) (x : Word) (b : Bool) : fragOf (wrFor w f sd x) b = fragOf w b := by
  unfold wrFor
  split
  · cases b <;> rfl
  · rw [wrS_eq]; cases b <;> rfl

/-- The results of the words of some fragments are written to their wave. -/
def writeResults (res : Wait → Option (Nat × Word)) (w : Wave) (l : List Frag) : Wave :=
  l.foldl (fun v f => match res f.wait with | some (sd, x) => wrFor v f sd x | none => v) w

theorem doneFrags_eq (w : Wave) (res : Wait → Option (Nat × Word)) : doneFrags w res =
    let v := writeResults res w (liveFrags w)
    { mapFrags v (fun f => if (res f.wait).isSome then { f with pc := f.pc + 4, wait := .none } else f) with shadow := v.shadow } := rfl

theorem fragOf_writeResults (res : Wait → Option (Nat × Word)) (w : Wave) (l : List Frag) (b : Bool) :
    fragOf (writeResults res w l) b = fragOf w b := by
  induction l generalizing w with
  | nil => rfl
  | cons f rest ih =>
    refine (ih _).trans ?_
    dsimp only
    split
    · exact fragOf_wrFor w f _ _ b
    · rfl

theorem fragOf_setShadow (w : Wave) (z : Shadow) (b : Bool) : fragOf { w with shadow := z } b = fragOf w b := by cases b <;> rfl

theorem fragOf_doneFrags (w : Wave) (res : Wait → Option (Nat × Word)) (b : Bool) :
    fragOf (doneFrags w res) b
      = (fragOf w b).map (fun f => if (res f.wait).isSome then { f with pc := f.pc + 4, wait := .none } else f) := by
  rw [doneFrags_eq, fragOf_setShadow, fragOf_mapFrags, fragOf_writeResults]

/-- The fragment that waits at barrier `n`. -/
def waitsAt (n : Nat) : Wait → Bool
  | .bwait m _ => m == n
  | .bsync m _ _ => m == n
  | _ => false

/-- A sleeping `BWAIT` reads again. -/
def readsAgain (n : Nat) (f : Frag) : Frag :=
  match f.wait with
  | .bwait m _ => if m = n then { f with wait := .none } else f
  | _ => f

theorem mem_liveFrags_of_fragOf {w : Wave} {b : Bool} {f : Frag} (hf : fragOf w b = some f) : f ∈ liveFrags w := by
  cases b <;> simp_all [liveFrags, slotFrags, fragOf]

/-- A wave with a waiter wakes: its words complete or read again, and no field but the shadow's wait and the scheduler's counts changes
beside. -/
theorem wakeAt_waiter {s : State} {n : Nat} {w : Wave} {b : Bool} {f : Frag} (hf : fragOf w b = some f) (hw : waitsAt n f.wait = true) :
    ∃ z, wakeAt s n w = spinReset s (mapFrags { doneFrags w (bsyncResult n) with shadow := z } (readsAgain n)) := by
  have hhit : (liveFrags w).any (fun g => waitsAt n g.wait) = true :=
    List.any_eq_true.2 ⟨f, mem_liveFrags_of_fragOf hf, hw⟩
  exact ⟨_, if_pos (Bool.or_eq_true_iff.2 (.inl hhit))⟩

section Wake

variable {s : State} {n : Nat} {w : Wave} {b : Bool} {f : Frag} (hf : fragOf w b = some f)
include hf

theorem fragOf_wakeAt (hw : waitsAt n f.wait = true) : fragOf (wakeAt s n w) b
    = some (readsAgain n (if (bsyncResult n f.wait).isSome then { f with pc := f.pc + 4, wait := .none } else f)) := by
  have hreset (v : Wave) : fragOf (spinReset s v) b = fragOf v b := by cases b <;> rfl
  obtain ⟨z, hz⟩ := wakeAt_waiter (s := s) hf hw
  rw [hz, hreset, fragOf_mapFrags, fragOf_setShadow, fragOf_doneFrags, hf]
  rfl

theorem fragOf_wakeAt_bsync {p : BitVec 16} {sd : Nat} (hw : f.wait = .bsync n p sd) :
    fragOf (wakeAt s n w) b = some { f with pc := f.pc + 4, wait := .none } := by
  rw [fragOf_wakeAt hf (by simp [hw, waitsAt])]
  simp [hw, bsyncResult, readsAgain]

theorem fragOf_wakeAt_bwait {p : BitVec 16} (hw : f.wait = .bwait n p) : fragOf (wakeAt s n w) b = some { f with wait := .none } := by
  rw [fragOf_wakeAt hf (by simp [hw, waitsAt])]
  simp [hw, bsyncResult, readsAgain]

/-- The lone fragment's `BSYNC` answers the phase that it waited on. -/
theorem rdS_wakeAt_bsync {p : BitVec 16} {sd : Nat} (hw : f.wait = .bsync n p sd) (hrun : ∀ r, w.trap ≠ .handling r)
    (hstack : w.stack = []) (hone : fragOf w (!b) = none) (r : Nat) : rdS (wakeAt s n w) r = setReg w sd (p.setWidth 32) r := by
  obtain ⟨z, hz⟩ := wakeAt_waiter (s := s) hf (by simp [hw, waitsAt] : waitsAt n f.wait = true)
  have hhandling : handling w = false := by
    unfold handling
    split
    · exact absurd ‹_› (hrun _)
    · rfl
  have hwrites : writeResults (bsyncResult n) w (liveFrags w) = wrS w sd (p.setWidth 32) := by
    simp [liveFrags_lone hf hone hstack, writeResults, hw, bsyncResult, wrFor, hhandling]
  have hregs : (wakeAt s n w).sregs = (wrS w sd (p.setWidth 32)).sregs := by rw [hz, doneFrags_eq, hwrites]; rfl
  rw [rdS, hregs]
  exact rdS_wrS w sd r _

end Wake

theorem find_wakeBarrier {s : State} {gid n : Nat} {mask : BitVec 128} {k : Nat} {v : Wave} (hv : Map.find s.waves k = some v)
    (hgid : v.gid = gid) (hmask : mask.getLsbD v.ident.waveid.toNat = true) :
    Map.find (wakeBarrier s gid n mask).waves k = some (wakeAt s n v) := by
  rw [wakeBarrier, mapWaves_waves, Map.find_mapVals, hv, Option.map_some, if_pos (by simp [hgid, hmask])]

/-! ## The obligation -/

/-- R243 refuses no operand whose reserved bits are clear, whose team bit has a team, and whose count fits. -/
theorem not_binitRefused {w : Wave} {a : SReg} (hhigh : (rdS w a.toNat).toNat < 2 ^ 17)
    (hteam : (rdS w a.toNat).getLsbD 16 = true → teamSizeOf w ≠ 0) (hcount : binitCount w a ≤ 65535) : ¬ BinitRefused w a := by
  rintro (h | ⟨hbit, hnone⟩ | h)
  · exact h (Nat.div_eq_of_lt hhigh)
  · exact hteam hbit hnone
  · omega

/-- Settles O12, the words from one equation each, the wakes from what a completing arrival leaves in the group and in each waiter. -/
theorem barrierWords : Obligations.BarrierWords := by
  refine ⟨fun s w f g hI hg d a n hn => ?_, fun s w f g hI hg d a n hn => ⟨fun hphase => ?_, fun hu hmore => ?_⟩,
    fun s gid n g hg hu hlast => ⟨?_, fun k v b f hv hgid hbit hf => ?_⟩⟩
  · refine ⟨fun ⟨hx, ht, hc⟩ hne hu => ?_, fun ⟨hx, ht, hc⟩ hz hu => ?_, fun ⟨hx, ht, hc⟩ hu ha hw => ?_, fun ⟨hx, ht, hc⟩ hu hbusy => ?_,
      fun hu hmore => barr_counts hI hg hn hu hmore, fun hu hlast hw => ⟨barr_ends hI hg hn hu hlast hw, bsync_ends hI hg hn hu hlast hw⟩,
      fun hphase => ?_, fun gid h hlive hin => barrx_sends hI hlive hin⟩
    · exact binit_starts hI hg hn (not_binitRefused hx ht hc) hne hu
    · exact binit_unused hI hg hn (not_binitRefused hx ht hc) hz hu
    · exact binit_sets hI hg hn (not_binitRefused hx ht hc) hu ha hw
    · exact binit_busy hI hg hn (not_binitRefused hx ht hc) hu hbusy
    · exact answersIn_done ((exec_bwait_inside hI hg hn).trans (if_pos hphase)) rfl
  · have hsleep := (exec_bwait_inside (d := d) hI hg hn).trans (if_neg (not_not.2 hphase))
    obtain ⟨t, ht, hgroups, hwave⟩ := blocked_sleeps hI hsleep rfl rfl rfl
    refine ⟨t, ht, ?_, by rw [hphase]; exact hwave⟩
    rw [hgroups]
    exact barrierOf_setWaiter hg
  · obtain ⟨t, ht, hgroups, hwave⟩ := blocked_sleeps hI (exec_bsync_counts (d := d) hI hg hn hu hmore) rfl rfl rfl
    refine ⟨t, ht, ?_, hwave⟩
    rw [hgroups]
    exact (barrierOf_setWaiter (groupOf_putGroup_self _ _ _)).trans (by rw [barrierOf_putBarrier]; rfl)
  · rw [arrive_ends hg hu hlast]
    exact congrArg _ (groupOf_putGroup_self s gid _) |>.trans (by simp)
  · rw [arrive_ends hg hu hlast]
    refine ⟨_, find_wakeBarrier hv hgid hbit, fun p sd hw => ⟨fragOf_wakeAt_bsync hf hw, fun hrun hstack hone r => ?_⟩,
      fun p hw => fragOf_wakeAt_bwait hf hw⟩
    exact rdS_wakeAt_bsync hf hw hrun hstack hone r

end Sys2Proof.Machine
end

section
/-! PROOFS. The entry of a trap and the returns from it (R358, R363, R364). -/

namespace Sys2Proof.Machine

/-! ## Parts of a table -/

/-- Entries of other keys do not show in a part of a table. -/
theorem Map.find_filter {α : Type} (m : Map α) (p : Nat → Bool) (k : Nat) :
    Map.find (m.filter (fun e => p e.1)) k = if p k then Map.find m k else none := by
  induction m with
  | nil => simp
  | cons e rest ih =>
    obtain ⟨j, v⟩ := e
    by_cases hj : j = k
    · subst hj
      by_cases hp : p j = true <;> simp [Map.find, hp, ih]
    · by_cases hp : p j = true <;> simp [Map.find, hp, hj, ih]

theorem Tab.get_filter {α : Type} (d : α) (m : Map α) (p : Nat → Bool) (k : Nat) :
    Tab.get d (m.filter (fun e => p e.1)) k = if p k then Tab.get d m k else d := by
  rw [Tab.get, Map.find_filter]
  split <;> rfl

/-- A table made of two parts with no key in common reads as the part that has the key. -/
theorem Map.find_append {α : Type} (m n : Map α) (k : Nat) : Map.find (m ++ n) k = (Map.find m k).or (Map.find n k) := by
  induction m with
  | nil => rfl
  | cons e rest ih =>
    obtain ⟨j, v⟩ := e
    rw [List.cons_append, Map.find, Map.find]
    split
    · rfl
    · exact ih

/-! ## Entry (R358) -/

theorem rdS_putFrag (w : Wave) (b : Bool) (f : Option Frag) (n : Nat) : rdS (putFrag w b f) n = rdS w n := by cases b <;> rfl

/-- The scalar registers at entry. -/
theorem get_entryRegs (sregs : Map Word) (cause : Word) (sup n : Nat) : Tab.get 0 (entryRegs sregs cause sup) n =
    if n = 3 then BitVec.ofNat 32 (sup / 2 ^ 32) else if n = 2 then BitVec.ofNat 32 sup else if n = 1 then cause
    else if 16 ≤ n then Tab.get 0 sregs n else 0 := by
  rw [entryRegs, Tab.get_set, Tab.get_set, Tab.get_set, Tab.get_filter (0 : Word) sregs (fun k => decide (16 ≤ k)) n]
  simp only [decide_eq_true_eq]

section Handler

variable (d : CtxDesc) (w : Wave) (r : TrapReq) (b : Bool) (f : Frag)

theorem rdS_handlerWave (n : Nat) : rdS (handlerWave d w r b f) n =
    if n = 0 then 0 else if n = 3 then BitVec.ofNat 32 (d.supData / 2 ^ 32) else if n = 2 then BitVec.ofNat 32 d.supData
    else if n = 1 then BitVec.ofNat 32 (causeCode r.cause + r.unit * 64) else if 16 ≤ n then Tab.get 0 w.sregs n else 0 := by
  rw [handlerWave, rdS_putFrag, rdS, get_entryRegs]
  rfl

/-- What entry sets aside, and what it keeps (R358). -/
theorem handlerWave_keeps : let v := handlerWave d w r b f
    v.shadow = { wait := keptWait r.kind f.wait, regs := w.sregs.filter (fun e => decide (e.1 < 16)), flags := f.flags,
                 pcEntry := entryPc r f, strips := w.strips, headOff := w.headOff, lstop := w.lstop, fenceR := w.fenceR,
                 fenceW := w.fenceW, late := w.late, ops := w.ops }
    ∧ v.strips = [] ∧ v.headOff = 0 ∧ v.late = [] ∧ v.masks = w.masks ∧ v.vregs = w.vregs ∧ v.feeds = w.feeds ∧ v.evqs = w.evqs
    ∧ v.valloc = w.valloc ∧ v.stack = w.stack ∧ v.sbound = w.sbound ∧ fragOf v (!b) = fragOf w (!b) := by
  cases b <;> exact ⟨rfl, rfl, rfl, rfl, rfl, rfl, rfl, rfl, rfl, rfl, rfl, rfl⟩

end Handler

/-- Settles O14: the entry puts the handler's wave in the slot. -/
theorem trapEntry : Obligations.TrapEntry := by
  intro s core slot r w f c hw hf hc
  obtain ⟨hcore, hslot⟩ := waveAt_place hw
  obtain ⟨t, ht⟩ := enterTrap_spec hw hf hc
  obtain ⟨hvc, hvs, hpriv, htreg, hfrag⟩ := handlerWave_spec c.desc w r r.b f
  obtain ⟨hshadow, hstrips, hoff, hlate, hmasks, hvregs, hfeeds, hevqs, hvalloc, hstack, hbound, hother⟩ :=
    handlerWave_keeps c.desc w r r.b f
  have hregs := rdS_handlerWave c.desc w r r.b f
  generalize handlerWave c.desc w r r.b f = v at *
  have hat : waveAt (enterTrap s core slot r) core slot = some v := by
    have h := waveAt_putWave t v
    rwa [hvc, hvs, hcore, hslot, ← ht] at h
  have hcause : rdS v 1 = BitVec.ofNat 32 (causeCode r.cause + 64 * r.unit) := by simp [hregs, Nat.mul_comm]
  refine ⟨v, _, hat, hfrag, hpriv, by rw [hshadow], by rw [hshadow], hstrips, hoff, fun n hlo hhi => ?_, by rw [hshadow],
    by rw [hshadow], hlate, hcause, ?_, by simp [hregs], by simp [hregs], fun n hlo hhi => ?_, rfl, rfl, rfl, fun n hn => ?_,
    hmasks, hvregs, hfeeds, hevqs, hvalloc, hstack, hother, by rw [scalarBound, if_pos hpriv, hbound]⟩
  ·
    rw [hshadow, Tab.get_filter 0 w.sregs (fun k => decide (k < 16)) n, if_pos (by simpa using hhi), rdS, if_neg (by omega)]
  · rw [hcause, htreg, trapRegs, Nat.mul_comm]
  · rw [hregs, if_neg (by omega), if_neg (by omega), if_neg (by omega), if_neg (by omega), if_neg (by omega)]
  ·
    rw [hregs, if_neg (by omega), if_neg (by omega), if_neg (by omega), if_neg (by omega), if_pos hn, rdS, if_neg (by omega)]

end Sys2Proof.Machine
end

section
/-! PROOFS. The returns from a trap (R356, R363, R364). -/

namespace Sys2Proof.Machine

/-! ## The wave that comes back (R363) -/

/-- A fragment whose word was not asleep goes on at the pc given. -/
theorem resumed_awake {sh : Shadow} (hwait : sh.wait = .none) (f : Frag) (pc : DWord) :
    resumed sh f pc = { f with pc := pc, flags := sh.flags, handler := false, wait := .none } := by
  simp [resumed, hwait]

section Leave

variable {w : Wave} (hops : w.shadow.ops = []) (hwait : w.shadow.wait = .none) (b : Bool) (f : Frag) (pc : DWord)
include hops hwait

theorem leaveTrap_spec : let v := leaveTrap w b f pc
    fragOf v b = some { f with pc := pc, flags := w.shadow.flags, handler := false, wait := .none }
    ∧ fragOf v (!b) = fragOf w (!b)
    ∧ v = { w with priv := .u, trap := .none, sregs := v.sregs, fragA := v.fragA, fragB := v.fragB, strips := w.shadow.strips,
                   headOff := w.shadow.headOff, lstop := w.shadow.lstop, fenceR := w.shadow.fenceR, fenceW := w.shadow.fenceW,
                   late := w.shadow.late, ops := [], shadow := Shadow.zero } := by
  simp only [leaveTrap, resumed_awake hwait, sleepResult, hwait, hops]
  cases b <;> exact ⟨rfl, rfl, rfl⟩

omit hops in
theorem rdS_leaveTrap (n : Nat) :
    rdS (leaveTrap w b f pc) n = if n = 0 then 0 else if n < 16 then Tab.get 0 w.shadow.regs n else rdS w n := by
  simp only [leaveTrap, sleepResult, hwait, rdS_putFrag]
  unfold rdS
  by_cases h0 : n = 0
  · rw [if_pos h0, if_pos h0]
  · have hlow := Map.find_filter w.shadow.regs (fun k => decide (k < 16)) n
    have hhigh := Map.find_filter w.sregs (fun k => decide (16 ≤ k)) n
    rw [if_neg h0, if_neg h0, if_neg h0, Tab.get, Map.find_append, hlow, hhigh]
    by_cases hn : n < 16
    · simp [hn, Tab.get, Nat.not_le.2 hn]
    · simp [hn, Tab.get, Nat.not_lt.1 hn]

end Leave

/-! ## The words (R363, R364) -/

/-- A wave that returns with nothing held and no fault recorded is put as it is. -/
theorem eretHeld_quiet {s : State} {v : Wave} (hops : v.ops = []) (hheld : v.held = []) :
    eretHeld (putWave s v) v.core v.slot = putWave s v := by
  have hsame : { v with ops := [], trap := v.trap, held := [] } = v := by rw [← hheld, ← hops]
  unfold eretHeld
  rw [waveAt_putWave]
  simp only [hops, List.any_nil, Bool.false_eq_true, and_false, if_false, hheld, List.foldl_nil]
  rw [hsame]
  exact putWave_putWave s v v rfl rfl

theorem endClaimsOf_none {s : State} (h : s.vm.claims = []) (core slot : Nat) : endClaimsOf s core slot = s := by
  simp [endClaimsOf, h]

/-- The wave's only handler fragment may return. -/
theorem handlers_lone {w : Wave} {b : Bool} {f : Frag} (hf : fragOf w b = some f) (hh : f.handler = true)
    (hother : ∀ g, fragOf w (!b) = some g → g.handler = false) (hstack : w.stack = []) :
    ((liveFrags w).filter (·.handler)).length = 1 := by
  cases ho : fragOf w (!b) with
  | none => simp [liveFrags_lone hf ho hstack, hh]
  | some g =>
    rw [liveFrags_pair hf ho hstack]
    cases b <;> simp [hh, hother g ho]

/-- Settles O17: a return with no work pending puts the wave that `leaveTrap` makes. -/
theorem trapReturn : Obligations.TrapReturn := by
  intro s w f r hI hpriv htrap hh hother hstack hstrips hheld hops hwait hclaims hkind returns
  have hwork (t : State) (skip : Bool) : eretWork t w.core w.slot r skip = .next t := by
    unfold eretWork
    rcases hkind with hk | hk | hk <;> rw [hk]
  have hreturns {i : Instr} {form : EretForm} {pc : DWord} (hi : exec i s = eretWith form s) (hpc : eretPc s w r form = pc) :
      returns i pc := by
    obtain ⟨hfrag, hrest, hv⟩ := leaveTrap_spec hops hwait s.cur.b f pc
    have hregs := rdS_leaveTrap hwait s.cur.b f pc
    have hexec : exec i s = .next (eretHeld (putWave s (leaveTrap w s.cur.b f pc)) w.core w.slot) := by
      rw [hi, eretWith, onFrag_issues hI, onlyS_supervisor f _ hpriv]
      simp only [htrap, handlers_lone hI.2 hh hother hstack, ne_eq, not_true_eq_false, if_false, hstrips, hpc]
      rw [endClaimsOf_none (by exact hclaims), hwork]
    generalize leaveTrap w s.cur.b f pc = v at *
    have hback : eretHeld (putWave s v) w.core w.slot = putWave s v := by
      have hcore : v.core = w.core := by rw [hv]
      have hslot : v.slot = w.slot := by rw [hv]
      rw [← hcore, ← hslot, eretHeld_quiet (by rw [hv]) (by rw [hv, hheld])]
    exact ⟨v, _, hexec.trans (by rw [hback]), hfrag, rfl, rfl, rfl, rfl, rfl, hrest, hregs, hv⟩
  refine ⟨hreturns (exec_eret s) rfl, hreturns (exec_eretRetry s) rfl, fun hs => hreturns (exec_eretSkip s) ?_,
    fun hs word hword => hreturns (exec_eretSkip s) ?_⟩
  · simp [eretPc, hs, skipsWord]
  · have hskips : skipsWord r.kind = true := by
      rcases hkind with hk | hk | hk
      · rw [hk]; rfl
      · exact absurd hk hs
      · rw [hk]; rfl
    simp only [eretPc, hskips, if_true, wordBytesAt, hword]
    split <;> rfl

end Sys2Proof.Machine
end

section
/-! PROOFS. Management commands and the SPDM responder (R295, R417 to R420, R424). -/

namespace Sys2Proof.Machine

/-! ## Management commands (R417 to R420) -/

/-- A command of R418 comes out on each of its paths as its meaning says of the two arguments. -/
theorem served_of_serve {mk : MgmtReq → Instr} {s : State} {cmd : Nat} {k : Command} {out : Nat → Nat → Nat × List Nat × State}
    (h : ∀ r, exec (mk r) s = serve r cmd k s) (hk : ∀ x, k s x = out x.a x.b) (hcmd : 1 ≤ cmd ∧ cmd ≤ 8) : Served mk s cmd out := by
  refine ⟨fun r hpath => ?_, fun r hpath hgo hboot hn => ?_⟩
  · rw [h, serve]
    simp only [if_neg (show r.path ≠ 2 by omega), if_neg (show ¬ 2 < r.path by omega), hk, respond]
  · have hoffered : (!s.mgmt.go || s.boot.st == .recovery) = false := by simp [hgo, hboot]
    have hlisted : (mailboxRequest s).cmd = cmd := by rw [← hn]; exact bits_low _ 7
    rw [h, serve]
    simp only [hpath, if_true, hoffered, Bool.false_eq_true, if_false, hlisted, if_neg (show ¬ (cmd = 0 ∨ 8 < cmd) by omega), hk, respond]
    rfl

/-- A command that states its refusal first. -/
theorem ite_refused {α : Type} {p q : Prop} [Decidable p] [Decidable q] (h : p ↔ ¬ q) (x y : α) :
    (if p then x else y) = if q then y else x := by
  by_cases hq : q
  · rw [if_pos hq, if_neg (fun hp => h.1 hp hq)]
  · rw [if_neg hq, if_pos (h.2 hq)]

theorem readLog_served (s : State) : Served .readLog s 4 (fun a b =>
    if 1 ≤ b ∧ b ≤ 4 ∧ (BitVec.ofNat 32 a - s.mgmt.logHead).toNat + b ≤ (s.mgmt.logTail - s.mgmt.logHead).toNat then
      (0, (List.range b).flatMap (fun i => logRecord s (a + i)), s)
    else (2, [], s)) :=
  served_of_serve (exec_readLog · s) (fun x => ite_refused (by unfold logCount; omega) _ _) (by decide)

/-! ## SPDM (R424) -/

theorem spdm_of_exec {i : Instr} {s : State} {path code : Nat} {ok : SpdmSt → Bool} {agrees : SpdmSt → Prop} {goes : SpdmSt → SpdmSt}
    (hpath : path < 5) (h : exec i s = spdm path code ok goes s) (hok : ∀ st, ok st = true ↔ agrees st) :
    Spdm i s path code agrees goes := by
  have hexec : exec i s = .next (if ok (spdmSt s path) then spdmGo s path code (goes (spdmSt s path))
      else spdmGo s path 0x7F (spdmSt s path)) := h.trans (if_neg (Nat.not_le.2 hpath))
  have hself (c : Nat) (st : SpdmSt) : spdmSt (spdmGo s path c st) path = st := Tab.get_set_self _ _ _ _
  have hother (c : Nat) (st : SpdmSt) {p : Nat} (hp : p ≠ path) : spdmSt (spdmGo s path c st) p = spdmSt s p := Tab.get_set_ne _ _ _ hp
  refine ⟨fun hst => ⟨_, hexec.trans (by rw [if_pos ((hok _).2 hst)]), hself _ _, rfl, fun p hp => hother _ _ hp, rfl⟩,
    fun hst => ⟨_, hexec.trans (by rw [if_neg (mt (hok _).1 hst)]), fun p => ?_, rfl⟩⟩
  by_cases hp : p = path
  · rw [hp, hself]
  · exact hother _ _ hp

theorem spdmAgreed_iff (st : SpdmSt) : spdmAgreed st = true ↔ st = .negotiated ∨ st = .exchanged ∨ st = .session := by
  simp [spdmAgreed, or_assoc]

/-- Settles O54, each command and request from its meaning and the path that it takes. -/
theorem managementAndSpdm : Obligations.ManagementAndSpdm := by
  refine ⟨fun s => ⟨?_, ?_, ?_, readLog_served s, ?_, ?_, ?_, ?_⟩, fun s path hpath => ?_⟩
  · exact served_of_serve (exec_getInfo · s) (fun _ => rfl) (by decide)
  · exact served_of_serve (exec_setPoolTarget · s) (fun _ => ite_refused not_le.symm _ _) (by decide)
  · exact served_of_serve (exec_getLogState · s) (fun _ => rfl) (by decide)
  · exact served_of_serve (exec_setLogHead · s) (fun _ => ite_refused not_le.symm _ _) (by decide)
  · exact served_of_serve (exec_getSensors · s) (fun _ => rfl) (by decide)
  · exact served_of_serve (exec_setPowerLimit · s) (fun _ => ite_refused (by omega) _ _) (by decide)
  · exact served_of_serve (exec_getPorts · s) (fun _ => rfl) (by decide)
  · have one (x : SpdmSt) (st : SpdmSt) : (st == x) = true ↔ st = x := beq_iff_eq
    exact ⟨spdm_of_exec hpath (exec_spdmGetVersion path s) (fun _ => iff_of_true rfl trivial),
      spdm_of_exec hpath (exec_spdmGetCapabilities path s) (one _), spdm_of_exec hpath (exec_spdmNegotiateAlgorithms path s) (one _),
      spdm_of_exec hpath (exec_spdmGetDigests path s) spdmAgreed_iff, spdm_of_exec hpath (exec_spdmGetCertificate path s) spdmAgreed_iff,
      spdm_of_exec hpath (exec_spdmChallenge path s) spdmAgreed_iff, spdm_of_exec hpath (exec_spdmGetMeasurements path s) spdmAgreed_iff,
      spdm_of_exec hpath (exec_spdmKeyExchange path s) (one _), spdm_of_exec hpath (exec_spdmFinish path s) (one _),
      spdm_of_exec hpath (exec_spdmEndSession path s) (one _)⟩

end Sys2Proof.Machine
end

section
/-! PROOFS. What the coherence protocol leaves of the frames, the translations and the page claims: it writes a page's write-grant bit
and a frame's state, and nothing else of them (R268 to R283, R295). -/

namespace Sys2Proof.Machine

/-- The part of a state that no step of the coherence protocol writes: all but memory, the lines and messages, the write-grant bits, the
frames' entries, and the log. It holds the translations and claims that `still` leaves out. -/
def apart (s : State) : State :=
  { s with mem := [], tamper := [], coh := State.reset.coh, vm := { s.vm with wgrant := [], frames := [] }, mgmt := State.reset.mgmt }

/-! ## Single writes -/

@[simp] theorem apart_coh (s : State) (c : Coh) : apart { s with coh := c } = apart s := rfl
@[simp] theorem apart_setDir (s : State) (line : Nat) (d : Dir) : apart (setDir s line d) = apart s := rfl
@[simp] theorem apart_evLog (s : State) (code agent a b : Nat) : apart (evLog s code agent a b) = apart s := rfl
@[simp] theorem apart_sendMsg (s : State) (m : Msg) : apart (sendMsg s m) = apart s := rfl
@[simp] theorem apart_setL1 (s : State) (core line : Nat) (l : L1Line) : apart (setL1 s core line l) = apart s := rfl
@[simp] theorem apart_dropL1Line (s : State) (core line : Nat) : apart (dropL1Line s core line) = apart s := rfl
@[simp] theorem apart_noCopy (s : State) (line r : Nat) : apart (noCopy s line r) = apart s := rfl
@[simp] theorem apart_dropCopies (s : State) (line : Nat) : apart (dropCopies s line) = apart s := rfl
@[simp] theorem apart_ackNotice (s : State) (line src : Nat) (stale : Bool) : apart (ackNotice s line src stale) = apart s := rfl

/-! ## The home (R272, R273, R276, R287) -/

@[simp] theorem apart_grantNote (s : State) (key : Nat) : apart (grantNote s key) = apart s := by
  unfold grantNote; split <;> rfl

@[simp] theorem apart_frameDirty (s : State) (line : Nat) : apart (frameDirty s line) = apart s := by
  unfold frameDirty; split
  · split <;> rfl
  · rfl

@[simp] theorem apart_homePut (s : State) (line : Nat) : apart (homePut s line) = apart s := by
  unfold homePut; dsimp only; split
  · rfl
  · split
    · rfl
    · split <;> rfl

@[simp] theorem apart_sendInvs (s : State) (line reqr : Nat) (l : List Nat) : apart (sendInvs s line reqr l) = apart s :=
  foldl_keeps apart l (fun t c => sendMsg t (fromHome .inv line c reqr 0)) (fun _ _ => rfl) s

@[simp] theorem apart_grantWrite (s : State) (line r : Nat) (data : Bool) (acks : Nat) (d : Dir) :
    apart (grantWrite s line r data acks d) = apart s := by
  unfold grantWrite; dsimp only; split <;> simp

@[simp] theorem apart_homeTake (s : State) (m : Msg) : apart (homeTake s m) = apart s := by
  unfold homeTake
  dsimp only
  split
  · simp
  · split
    · simp
    · split
      all_goals
        split <;> try split_ifs
        all_goals simp

@[simp] theorem apart_serveWaiting (fuel : Nat) (s : State) (line : Nat) : apart (serveWaiting fuel s line) = apart s := by
  induction fuel generalizing s with
  | zero => rfl
  | succ n ih =>
    unfold serveWaiting
    split
    · rfl
    · split
      · rfl
      · simp [ih]

@[simp] theorem apart_serveLine (s : State) (line : Nat) : apart (serveLine s line) = apart s := apart_serveWaiting _ s line

@[simp] theorem apart_wroteBack (s : State) (line owner : Nat) (d : Dir) : apart (wroteBack s line owner d) = apart s := by
  simp [wroteBack]; rfl

@[simp] theorem apart_ownerNotice (s : State) (line : Nat) (k : MsgK) (d : Dir) : apart (ownerNotice s line k d) = apart s := by
  unfold ownerNotice; split <;> simp

@[simp] theorem apart_leaveBusy (s : State) (line : Nat) (d : Dir) : apart (leaveBusy s line d) = apart s := by
  unfold leaveBusy; split
  · simp
  · split <;> simp

@[simp] theorem apart_settleSD (s : State) (line : Nat) (d : Dir) : apart (settleSD s line d) = apart s := by
  unfold settleSD; dsimp only; split_ifs <;> simp

@[simp] theorem apart_homeNotice (s : State) (m : Msg) : apart (homeNotice s m) = apart s := by
  unfold homeNotice; dsimp only; split_ifs <;> simp

@[simp] theorem apart_homeUnblock (s : State) (m : Msg) : apart (homeUnblock s m) = apart s := by
  unfold homeUnblock; dsimp only; split <;> simp

@[simp] theorem apart_homeOwnAck (s : State) (m : Msg) : apart (homeOwnAck s m) = apart s := by
  unfold homeOwnAck; dsimp only; split_ifs <;> simp

@[simp] theorem apart_homeWbData (s : State) (m : Msg) : apart (homeWbData s m) = apart s := by
  unfold homeWbData; dsimp only; split_ifs <;> simp

theorem apart_homeRequest {s t : State} {m : Msg} (h : homeRequest s m = some t) : apart t = apart s := by
  unfold homeRequest at h
  split_ifs at h <;> (injection h with h; subst h; simp)

@[simp] theorem apart_commitPush (s : State) (core : Nat) : apart (commitPush s core) = apart s :=
  foldl_keeps apart _ _ apart_frameDirty s

@[simp] theorem apart_homeHAck (s : State) (m : Msg) : apart (homeHAck s m) = apart s := by
  unfold homeHAck; dsimp only; split_ifs <;> simp

theorem apart_atHome {s t : State} {m : Msg} (h : atHome s m = some t) : apart t = apart s := by
  unfold atHome at h
  split at h
  case h_1 | h_2 | h_3 => exact apart_homeRequest h
  all_goals (injection h with h; subst h; simp)

/-! ## The L1s (R274 to R276, R429) -/

@[simp] theorem apart_evictL1 (s : State) (core line : Nat) (l : L1Line) : apart (evictL1 s core line l) = apart s := by
  unfold evictL1; split
  · rfl
  · dsimp only; split <;> simp

@[simp] theorem apart_fillL1 (ev : Bool) (s : State) (core line : Nat) (l : L1Line) (st : L1St) :
    apart (fillL1 ev s core line l st) = apart s := by
  unfold fillL1; dsimp only; split <;> simp

@[simp] theorem apart_checkAcks (ev : Bool) (s : State) (core line : Nat) (l : L1Line) :
    apart (checkAcks ev s core line l) = apart s := by
  unfold checkAcks; split <;> simp

@[simp] theorem apart_l1Grant (ev : Bool) (s : State) (m : Msg) (l : L1Line) : apart (l1Grant ev s m l) = apart s := by
  unfold l1Grant; split <;> simp

@[simp] theorem apart_l1FwdGetS (s : State) (m : Msg) (l : L1Line) : apart (l1FwdGetS s m l) = apart s := rfl

@[simp] theorem apart_l1FwdGetM (s : State) (m : Msg) (l : L1Line) : apart (l1FwdGetM s m l) = apart s := by
  unfold l1FwdGetM; dsimp only; split <;> try split_ifs
  all_goals simp

@[simp] theorem apart_l1NoticeAck (s : State) (m : Msg) (l : L1Line) : apart (l1NoticeAck s m l) = apart s := by
  unfold l1NoticeAck; split_ifs <;> simp

theorem apart_atL1 {ev : Bool} {s t : State} {m : Msg} (h : atL1 ev s m = some t) : apart t = apart s := by
  unfold atL1 at h
  dsimp only at h
  split at h
  · split at h <;> (injection h with h; subst h; simp)
  · split at h
    case h_6 =>
      split at h <;> try split_ifs at h
      all_goals (cases h; try simp)
    case h_14 => injection h with h; subst h; split <;> simp
    all_goals (try split_ifs at h) <;> (cases h; try split_ifs) <;> simp

/-! ## Delivery, settling and recalls (R272, R279) -/

@[simp] theorem apart_dropMsg (s : State) (id : Nat) : apart (dropMsg s id) = apart s := by
  unfold dropMsg; dsimp only; split_ifs <;> simp

theorem apart_deliver {ev : Bool} {s t : State} {k : Nat} (h : deliver ev s k = some t) : apart t = apart s := by
  unfold deliver at h
  dsimp only at h
  split at h
  · cases h
  · split_ifs at h
    · injection h with h; subst h; simp
    · exact (apart_atHome h).trans (apart_coh s _)
    · exact (apart_atL1 h).trans (apart_coh s _)

@[simp] theorem apart_quiesce (fuel : Nat) (s : State) (line : Nat) : apart (quiesce fuel s line) = apart s := by
  induction fuel generalizing s with
  | zero => rfl
  | succ n ih =>
    unfold quiesce
    dsimp only
    split
    · rfl
    · rename_i t ht
      obtain ⟨k, -, hk⟩ := List.exists_of_findSome?_eq_some ht
      split_ifs at hk
      exact (ih t).trans (apart_deliver hk)

@[simp] theorem apart_settleLine (s : State) (line : Nat) : apart (settleLine s line) = apart s := by
  unfold settleLine; split_ifs <;> simp

@[simp] theorem apart_recallLine (s : State) (line : Nat) : apart (recallLine s line) = apart s := by
  unfold recallLine; dsimp only; split_ifs <;> simp

/-! ## Whole accesses -/

@[simp] theorem apart_homeWrite (s : State) (line : Nat) : apart (homeWrite s line) = apart s := by simp [homeWrite]

@[simp] theorem apart_putNum (s : State) (key n x : Nat) : apart (putNum s key n x) = apart s := by
  change apart (if 2 ^ 64 ≤ key then s else homeWrite s (lineOf key)) = apart s
  split_ifs <;> simp

@[simp] theorem apart_logError (s : State) (ctx code unit core wave addr detail : Nat) :
    apart (logError s ctx code unit core wave addr detail) = apart s := by
  unfold logError
  split
  · rfl
  · dsimp only
    split
    · split_ifs
      · simp
      · split <;> simp
    · simp

@[simp] theorem apart_biDone (s : State) (line : Nat) (d : Dir) : apart (biDone s line d) = apart s := by
  unfold biDone; split <;> simp

@[simp] theorem apart_fogLine (s : State) (line : Nat) : apart (fogLine s line) = apart s := rfl

end Sys2Proof.Machine
end

section
/-! PROOFS. Ports, links, keys, pool decoders and peers (R405, R408 to R411, R415, R416, R421, R422, R426). -/

namespace Sys2Proof.Machine

/-! ## One port -/

theorem portOf_putPort_self (s : State) (p : Nat) (x : Port) : portOf (putPort s p x) p = x := Tab.get_set_self ..

theorem portOf_putPort_ne (s : State) (x : Port) {p q : Nat} (h : q ≠ p) : portOf (putPort s p x) q = portOf s q := Tab.get_set_ne _ _ _ h

section
variable {i : Instr} {s : State} {p : Nat} {from_ : PortSt → Bool} {k : State → State}

/-- An event of a port in a state that admits it does what it does. -/
theorem onPort_taken (hi : exec i s = onPort p from_ s k) (hp : p < 12) (h : from_ (portOf s p).st = true) : exec i s = .next (k s) :=
  hi.trans (congrArg Host.Outcome.next (if_pos ⟨hp, h⟩))

theorem onPort_idle (hi : exec i s = onPort p from_ s k) (h : from_ (portOf s p).st = false) : exec i s = .next s :=
  hi.trans (congrArg Host.Outcome.next (if_neg (fun hk => Bool.false_ne_true (h.symm.trans hk.2))))

end

/-- A port with another state, as a change of state leaves it (R410). -/
def Port.moved (x : Port) (st : PortSt) : Port := { x with st := st, resends := 0, retry := if st = .fenced then [] else x.retry }

theorem portGoes_of_exec {i : Instr} {s : State} {p : Nat} {st : PortSt} (h : exec i s = .next (portGo s p st)) :
    PortGoes i s p ((portOf s p).moved st) :=
  ⟨_, h, portOf_putPort_self .., fun _ hq => portOf_putPort_ne _ _ hq, rfl, rfl⟩

theorem portKeeps_of_exec {i : Instr} {s : State} {p : Nat} {x : Port} (h : exec i s = .next (putPort s p x)) : PortKeeps i s p x :=
  ⟨_, h, portOf_putPort_self .., fun _ hq => portOf_putPort_ne _ _ hq, rfl⟩

theorem portRuns_iff (st : PortSt) : portRuns st = true ↔ st = .up ∨ st = .degraded := by cases st <;> simp [portRuns]

theorem portRuns_false {st : PortSt} (hup : st ≠ .up) (hdeg : st ≠ .degraded) : portRuns st = false := by
  cases st <;> simp_all [portRuns]

/-! ## The states of a port (R410) -/

section
variable (p : Nat) (s : State)

theorem portTrainingEnd_onPort (n : Nat) : exec (.portTrainingEnd p n) s = onPort p (· == .training) s
    (fun s => portGo s p (if 8 ≤ n then .up else if 4 ≤ n then .degraded else .fenced)) := rfl

theorem portTrainingTimeout_onPort : exec (.portTrainingTimeout p) s = onPort p (· == .training) s (fun s => portGo s p .fenced) := rfl

theorem portResendLimit_onPort : exec (.portResendLimit p) s = onPort p portRuns s
    (fun s => if 8 ≤ (portOf s p).resends then portGo s p .training else s) := rfl

theorem portLaneLost_onPort : exec (.portLaneLost p) s = onPort p portRuns s (fun s => portGo s p .training) := rfl

theorem portFence_onPort : exec (.portFence p) s = onPort p (· != .fenced) s (fun s => portGo s p .fenced) := rfl

theorem portReset_onPort : exec (.portReset p) s = onPort p (· == .fenced) s
    (fun s => if s.link.agents.any (fun e => e.2.live && agentPort e.2 == p) then s else portGo s p .down) := rfl

theorem cxlPortDown_onPort : exec (.cxlPortDown p) s = onPort p portRuns s (fun s => if p < 4 then portGo s p .down else s) := rfl

theorem portEnable_onPort (h : s.boot.st ≠ .recovery) :
    exec (.portEnable p) s = onPort p (· == .down) s (fun s => portGo s p .training) := if_neg h

theorem glinorFlit_onPort (f : Flit) (h : 4 ≤ p) : exec (.glinorFlitReceive p f) s = onPort p portRuns s (fun s =>
    let x := portOf s p
    if !f.good || f.seq != x.rxNext then putPort s p { x with sendNak := true }
    else
      let t := ackStores (putPort s p (takeFlit x f)) p f
      if f.ty = 1 ∧ retiredId s f.agent.toNat then dropMsg t f.agent.toNat else t) := if_neg (by omega)

theorem linkKeyChange_onPort (h : 4 ≤ p) : exec (.linkKeyChange p) s = onPort p portRuns s (fun s =>
    let x := portOf s p
    match x.nextKey with
    | some k => putPort s p { x with keyPhase := k, nextKey := none }
    | none => s) := if_neg (by omega)

end

theorem portEnable_recovery {s : State} {p : Nat} (h : s.boot.st = .recovery) : exec (.portEnable p) s = .next s :=
  (if_pos h : execPortEnable p s = _)

theorem portEnable_idle {s : State} {p : Nat} (h : (portOf s p).st ≠ .down) : exec (.portEnable p) s = .next s := by
  by_cases hboot : s.boot.st = .recovery
  · exact portEnable_recovery hboot
  · exact onPort_idle (portEnable_onPort p s hboot) (beq_eq_false_iff_ne.2 h)

theorem portEnable_goes {s : State} {p : Nat} (hp : p < 12) (h : (portOf s p).st = .down) (hboot : s.boot.st ≠ .recovery) :
    exec (.portEnable p) s = .next (portGo s p .training) :=
  onPort_taken (portEnable_onPort p s hboot) hp (beq_iff_eq.2 h)

/-- Live agents are routed through a port. -/
theorem routed_iff (s : State) (p : Nat) :
    s.link.agents.any (fun e => e.2.live && agentPort e.2 == p) = true ↔ ∃ e ∈ s.link.agents, e.2.live = true ∧ agentPort e.2 = p := by
  simp [List.any_eq_true]

theorem portReset_goes {s : State} {p : Nat} (hp : p < 12) (h : (portOf s p).st = .fenced)
    (hfree : ∀ e ∈ s.link.agents, e.2.live = true → agentPort e.2 ≠ p) : exec (.portReset p) s = .next (portGo s p .down) := by
  refine (onPort_taken (portReset_onPort p s) hp (beq_iff_eq.2 h)).trans (congrArg Host.Outcome.next (if_neg ?_))
  rw [routed_iff]
  rintro ⟨e, he, hlive, hport⟩
  exact hfree e he hlive hport

theorem portReset_held {s : State} {p : Nat} (hp : p < 12) (h : (portOf s p).st = .fenced)
    (hheld : ∃ e ∈ s.link.agents, e.2.live = true ∧ agentPort e.2 = p) : exec (.portReset p) s = .next s :=
  (onPort_taken (portReset_onPort p s) hp (beq_iff_eq.2 h)).trans (congrArg Host.Outcome.next (if_pos ((routed_iff s p).2 hheld)))

/-! ## Flits and keys (R408, R409, R426) -/

/-- A port of the other chips has no CXL: its events are those of a running port. -/
theorem glinorFlit_taken {s : State} {p : Nat} {f : Flit} (hp : 4 ≤ p) (hp' : p < 12) (hrun : portRuns (portOf s p).st = true)
    (hgood : f.good = true) (hseq : f.seq = (portOf s p).rxNext) (hlive : f.ty ≠ 1 ∨ retiredId s f.agent.toNat = false) :
    PortKeeps (.glinorFlitReceive p f) s p (takeFlit (portOf s p) f) := by
  have hlive' : ¬ (f.ty = 1 ∧ retiredId s f.agent.toNat = true) := fun h => hlive.elim (· h.1) (fun hr => by simp [hr] at h)
  have hexec : exec (.glinorFlitReceive p f) s = .next (ackStores (putPort s p (takeFlit (portOf s p) f)) p f) := by
    refine (onPort_taken (glinorFlit_onPort p s f hp) hp' hrun).trans ?_
    dsimp only
    rw [if_neg (by simp [hgood, hseq]), if_neg hlive']
  exact ⟨_, hexec, portOf_putPort_self .., fun _ hq => portOf_putPort_ne _ _ hq, rfl⟩

theorem glinorFlit_discarded {s : State} {p : Nat} {f : Flit} (hp : 4 ≤ p) (hp' : p < 12) (hrun : portRuns (portOf s p).st = true)
    (hbad : f.good = false ∨ f.seq ≠ (portOf s p).rxNext) :
    exec (.glinorFlitReceive p f) s = .next (putPort s p { portOf s p with sendNak := true }) := by
  refine (onPort_taken (glinorFlit_onPort p s f hp) hp' hrun).trans ?_
  exact congrArg Host.Outcome.next (if_pos (by simpa using hbad))

theorem linkKeyChange_taken {s : State} {p k : Nat} (hp : 4 ≤ p) (hp' : p < 12) (hrun : portRuns (portOf s p).st = true)
    (hkey : (portOf s p).nextKey = some k) :
    exec (.linkKeyChange p) s = .next (putPort s p { portOf s p with keyPhase := k, nextKey := none }) := by
  refine (onPort_taken (linkKeyChange_onPort p s hp) hp' hrun).trans ?_
  dsimp only
  rw [hkey]

/-- What a session orders of its port's stream key (R426). -/
theorem ideKm_ordered {s : State} {p : Nat} (m : IdeKm) (hp : p < 4) (hses : Map.find s.boot.spdm p = some .session) :
    exec (.ideKmRequest p m) s = .next (match m with
      | .keyProg => putPort s p { portOf s p with ide := 1 }
      | .keySetGo => if (portOf s p).ide = 0 then s else putPort s p { portOf s p with ide := 2 }
      | .keySetStop => if (portOf s p).ide = 2 then putPort s p { portOf s p with ide := 1 } else s) :=
  congrArg Host.Outcome.next (if_neg (by simp [hses]; omega))

/-! ## Decoders and agents (R268, R405, R411) -/

theorem decoderBad_iff (s : State) (k : Nat) (en : Bool) (base size : BitVec 23) (d : Decoder) :
    (en && (decide (base.toNat < 2 ^ 11) || size == 0
      || s.link.decoders.any (fun e => e.1 != k && e.2.enable && decodersMeet e.2 d))) = true
    ↔ en = true ∧ (base.toNat < 2 ^ 11 ∨ size = 0 ∨ ∃ e ∈ s.link.decoders, e.1 ≠ k ∧ e.2.enable = true ∧ decodersMeet e.2 d = true) := by
  simp [List.any_eq_true, or_assoc, and_assoc]

theorem poolDecoderWrite_refused {s : State} {k : Nat} {en : Bool} {base size : BitVec 23} (hk : k < 8)
    (hbad : en = true ∧ (base.toNat < 2 ^ 11 ∨ size = 0
      ∨ ∃ e ∈ s.link.decoders, e.1 ≠ k ∧ e.2.enable = true ∧ decodersMeet e.2 { enable := en, base := base, size := size } = true)) :
    exec (.poolDecoderWrite k en base size) s = .next (evLog s 3 0 k 0) :=
  (if_neg (by omega) : execPoolDecoderWrite k en base size s = _).trans
    (congrArg Host.Outcome.next (if_pos ((decoderBad_iff ..).2 hbad)))

theorem poolDecoderWrite_taken {s : State} {k : Nat} {en : Bool} {base size : BitVec 23} (hk : k < 8)
    (hgood : ¬ (en = true ∧ (base.toNat < 2 ^ 11 ∨ size = 0
      ∨ ∃ e ∈ s.link.decoders, e.1 ≠ k ∧ e.2.enable = true ∧ decodersMeet e.2 { enable := en, base := base, size := size } = true))) :
    exec (.poolDecoderWrite k en base size) s = .next { s with link := { s.link with
      decoders := Map.insert s.link.decoders k { enable := en, base := base, size := size } } } :=
  (if_neg (by omega) : execPoolDecoderWrite k en base size s = _).trans
    (congrArg Host.Outcome.next (if_neg (mt (decoderBad_iff ..).1 hgood)))

theorem agentJoin_taken {s : State} {kind : AgentKind} {route : Nat} (hboot : s.boot.st ≠ .recovery) (hid : s.link.nextAgent < 4096)
    (hroute : route % 16 < 12) : exec (.agentJoin kind route) s = .next { s with link := { s.link with
      nextAgent := s.link.nextAgent + 1
      agents := Map.insert s.link.agents s.link.nextAgent { kind := kind, route := route, live := true } } } :=
  congrArg Host.Outcome.next (if_neg (by simp [hboot]; omega))

/-! ## A lost agent (R411, R415) -/

@[simp] theorem apart_lostEntry (id : Nat) (s : State) (e : Nat × Dir) : apart (lostEntry id s e) = apart s := by
  unfold lostEntry
  dsimp only
  split_ifs
  · rfl
  · rfl
  · rfl
  · split <;> simp
  · rfl

theorem portGo_agents (s : State) (p : Nat) (st : PortSt) : (portGo s p st).link.agents = s.link.agents := rfl

theorem agents_of_apart {s t : State} (h : apart t = apart s) : t.link.agents = s.link.agents := congrArg (·.link.agents) h

theorem tlb_of_apart {s t : State} (h : apart t = apart s) : t.vm.tlb = s.vm.tlb := congrArg (·.vm.tlb) h

theorem tlb2_of_apart {s t : State} (h : apart t = apart s) : t.vm.tlb2 = s.vm.tlb2 := congrArg (·.vm.tlb2) h

/-- What a loss does to a peer's waves, copies, stores and translations, beyond the homes' entries (R415). -/
def losePeer (s : State) (id : Nat) : State :=
  rousePeer (dropPeer (fabLose { s with waves := Map.mapVals s.waves (fun _ w => poisonWave s id w) } id) id) id

theorem losePeer_agents (s : State) (id : Nat) : (losePeer s id).link.agents = s.link.agents := rfl

theorem losePeer_tlb (s : State) (id : Nat) : ∀ e ∈ (losePeer s id).vm.tlb ++ (losePeer s id).vm.tlb2, tlbPeer e id = false := by
  have htlb : (losePeer s id).vm.tlb = s.vm.tlb.filter (fun e => !tlbPeer e id) := rfl
  have htlb2 : (losePeer s id).vm.tlb2 = s.vm.tlb2.filter (fun e => !tlbPeer e id) := rfl
  intro e he
  rw [htlb, htlb2, ← List.filter_append, List.mem_filter] at he
  exact Bool.eq_false_iff.2 (by simpa using he.2)

theorem agentLost_dead {s : State} {id : Nat} {a : Agent} (cause : LossCause) (ha : Map.find s.link.agents id = some a) (hl : a.live = false) :
    agentLost s id cause = s := by simp [agentLost, ha, hl]

/-- The loss of a live agent: its entry is marked, its port may be fenced, the homes' entries are acted on (`u`, which keeps the agents as
marked), a peer's copies go, and what follows leaves agents and translations. -/
theorem agentLost_apart {s : State} {id : Nat} {a : Agent} (cause : LossCause) (ha : Map.find s.link.agents id = some a) (hl : a.live = true) :
    ∃ u, u.link.agents = Map.insert s.link.agents id { a with live := false }
      ∧ apart (agentLost s id cause) = apart (if a.kind = .peer then losePeer u id else u) := by
  unfold agentLost
  rw [ha]
  dsimp only
  rw [if_neg (by simp [hl])]
  refine ⟨_, ?_, (apart_evLog ..).trans ((foldl_keeps apart _ _ (fun t n => apart_serveLine t n) _).trans
    (foldl_keeps apart _ _ (fun t c => apart_logError t c 2 15 127 0 0 id) _))⟩
  refine (agents_of_apart (foldl_keeps apart _ _ (apart_lostEntry id) _)).trans ?_
  split_ifs
  · rfl
  · rw [portGo_agents]

theorem agentLost_spec {s : State} {id : Nat} {a : Agent} (cause : LossCause) (ha : Map.find s.link.agents id = some a) (hl : a.live = true) :
    peerLostAgent (agentLost s id cause) id = true
      ∧ (a.kind = .peer → ∀ e ∈ (agentLost s id cause).vm.tlb ++ (agentLost s id cause).vm.tlb2, tlbPeer e id = false) := by
  obtain ⟨u, hu, h⟩ := agentLost_apart cause ha hl
  have hagents : (if a.kind = .peer then losePeer u id else u).link.agents = u.link.agents := by
    split_ifs
    · exact losePeer_agents u id
    · rfl
  refine ⟨?_, fun hpeer => ?_⟩
  · simp only [peerLostAgent, agents_of_apart h, hagents, hu, Map.find_insert_self, Bool.not_false]
  · rw [if_pos hpeer] at h
    rw [tlb_of_apart h, tlb2_of_apart h]
    exact losePeer_tlb u id

/-- Settles O53, each part from the port's event, the links' and the agents' rules. -/
theorem portsLinksAndAgents : Obligations.PortsLinksAndAgents := by
  refine ⟨fun s p hp => ⟨fun h hb => portGoes_of_exec (portEnable_goes hp h hb), portEnable_recovery, portEnable_idle, fun h => ?_,
    fun h => ?_, fun h => ?_, fun hup hdeg => ?_, fun h => ?_, fun h => ?_⟩, fun s p f hp hp' => ?_, fun s p hp hses => ?_,
    fun s k en base size hk => ⟨poolDecoderWrite_refused hk, fun h => ?_⟩, fun s kind route hboot hid hroute => ?_,
    fun s id cause a ha => ⟨fun hl => ?_, fun hl => ?_⟩⟩
  · have htrain := beq_iff_eq.2 h
    exact ⟨fun n => portGoes_of_exec (onPort_taken (portTrainingEnd_onPort p s n) hp htrain),
      portGoes_of_exec (onPort_taken (portTrainingTimeout_onPort p s) hp htrain)⟩
  · have htrain := beq_eq_false_iff_ne.2 h
    exact ⟨fun n => onPort_idle (portTrainingEnd_onPort p s n) htrain, onPort_idle (portTrainingTimeout_onPort p s) htrain⟩
  · have hrun := (portRuns_iff _).2 h
    exact ⟨portGoes_of_exec (onPort_taken (portLaneLost_onPort p s) hp hrun),
      fun h8 => portGoes_of_exec ((onPort_taken (portResendLimit_onPort p s) hp hrun).trans (congrArg Host.Outcome.next (if_pos h8))),
      fun h8 => (onPort_taken (portResendLimit_onPort p s) hp hrun).trans (congrArg Host.Outcome.next (if_neg (by omega))),
      fun h4 => portGoes_of_exec ((onPort_taken (cxlPortDown_onPort p s) hp hrun).trans (congrArg Host.Outcome.next (if_pos h4)))⟩
  · have hidle := portRuns_false hup hdeg
    exact ⟨onPort_idle (portLaneLost_onPort p s) hidle, onPort_idle (portResendLimit_onPort p s) hidle, onPort_idle (cxlPortDown_onPort p s) hidle⟩
  · exact ⟨portGoes_of_exec (onPort_taken (portFence_onPort p s) hp (bne_iff_ne.2 h)), onPort_idle (portReset_onPort p s) (beq_eq_false_iff_ne.2 h)⟩
  · exact ⟨onPort_idle (portFence_onPort p s) (by simp [h]), fun hfree => portGoes_of_exec (portReset_goes hp h hfree), portReset_held hp h⟩
  · intro x hst
    have hrun := (portRuns_iff _).2 hst
    refine ⟨fun hbad => portKeeps_of_exec (glinorFlit_discarded hp hp' hrun hbad), fun hgood hseq hlive => ?_,
      fun k hkey => portKeeps_of_exec (linkKeyChange_taken hp hp' hrun hkey)⟩
    refine ⟨_, glinorFlit_taken hp hp' hrun hgood hseq hlive, rfl, rfl, rfl, rfl, Tab.get_set_self .., fun hty hcls => ?_⟩
    exact if_pos ⟨hty, by rw [hcls]; rfl⟩
  · exact ⟨portKeeps_of_exec (ideKm_ordered .keyProg hp hses),
      fun hide => portKeeps_of_exec ((ideKm_ordered .keySetGo hp hses).trans (congrArg Host.Outcome.next (if_neg hide))),
      fun hide => portKeeps_of_exec ((ideKm_ordered .keySetStop hp hses).trans (congrArg Host.Outcome.next (if_pos hide)))⟩
  · exact ⟨_, poolDecoderWrite_taken hk h, Map.find_insert_self .., fun j hj => Map.find_insert_ne _ _ hj, rfl⟩
  · exact ⟨_, agentJoin_taken hboot hid hroute, Map.find_insert_self .., rfl, fun j hj => Map.find_insert_ne _ _ hj, rfl⟩
  · exact ⟨congrArg Host.Outcome.next (agentLost_dead cause ha hl), congrArg Host.Outcome.next (agentLost_dead .timeout ha hl)⟩
  · obtain ⟨hu, hutlb⟩ := agentLost_spec cause ha hl
    obtain ⟨hv, hvtlb⟩ := agentLost_spec .timeout ha hl
    exact ⟨_, _, rfl, rfl, hu, hv, fun hpeer => ⟨hutlb hpeer, hvtlb hpeer⟩⟩

end Sys2Proof.Machine
end

section
/-! PROOFS. A directory that lists a line twice (R272, R273). -/

namespace Sys2Proof.Machine

theorem dirOf_sendMsg (s : State) (m : Msg) (line : Nat) : dirOf (sendMsg s m) line = dirOf s line := rfl

theorem dirOf_grantNote (s : State) (key line : Nat) : dirOf (grantNote s key) line = dirOf s line := by
  unfold grantNote
  split_ifs <;> rfl

/-- A read of an idle line makes the requester its owner (R273). -/
theorem homeTake_idle {s : State} {m : Msg} (hk : m.k = .getS) (hst : lineSt s m.line = .i) (hd : (dirOf (homePut s m.line) m.line).st = .i) :
    homeTake s m = sendMsg (setDir (grantNote (homePut s m.line) m.line) m.line
      { dirOf (homePut s m.line) m.line with st := .mA, owner := m.reqr, sharers := 0, grantE := true, gotUnblock := false })
      (fromHome .dataE m.line m.reqr m.reqr 0) := by
  simp [homeTake, hst, hk, hd, dirOwned]

/-! ## A full slice whose other line is listed again behind its entry -/

namespace TwiceListed

/-- The entry of line 16512 that a reader of the directory finds: core 1 owns the line. -/
def first : Dir := { Dir.init with st := .m, owner := 1 }

/-- What the directory lists for the line behind it, with the home copy present. -/
def again : Dir := { Dir.init with home := true }

/-- The line of the listed entries lies in the slice of line 0. -/
def other : Nat := 16512

/-- The message: core 0 asks to read line 0. -/
def ask : Msg := toHome .getS 0 0

/-- The directory: as many entries of the slice as it holds lines, all of line 16512. -/
@[irreducible] def listed : Map Dir := (other, first) :: List.replicate 16384 (other, again)

/-- A device at reset, with the message on its way. -/
def start : State := { State.reset with coh := { State.reset.coh with dir := listed, msgs := [ask] } }

theorem dirOf_line : dirOf start 0 = Dir.init := by
  have hfind (n : Nat) : Map.find (List.replicate n (other, again)) 0 = none := by
    induction n with
    | zero => rfl
    | succ n ih => exact (if_neg (by decide)).trans ih
  exact congrArg (·.getD Dir.init) (by rw [listed]; exact (if_neg (by decide)).trans (hfind _) : Map.find listed 0 = none)

theorem dirOf_other : dirOf start other = first :=
  congrArg (·.getD Dir.init) (by rw [listed]; exact if_pos rfl : Map.find listed other = some first)

theorem sliceBusy_start : sliceBusy start (homeSlice ask.line) < 256 := by
  have hnone : (List.replicate 16384 (other, again)).filter (fun e => dirBusy e.2 && homeSlice e.1 == homeSlice ask.line) = [] := by
    rw [List.filter_replicate, if_neg (by decide)]
  change ((listed.filter _).length < 256)
  rw [listed, List.filter_cons_of_neg (by decide), hnone]
  decide

/-- The entries with a home copy in the slice of line 0, once its own copy is there. -/
theorem present : ((setDir start 0 { Dir.init with home := true }).coh.dir.filter
    (fun e => e.2.home && e.1 != 0 && homeSlice e.1 == homeSlice 0)) = List.replicate 16384 (other, again) := by
  have hinsert : (setDir start 0 { Dir.init with home := true }).coh.dir = (0, { Dir.init with home := true }) :: listed := by
    change Map.insert listed 0 _ = _
    rw [listed]
    rfl
  rw [hinsert, List.filter_cons_of_neg (by decide), listed, List.filter_cons_of_neg (by decide), List.filter_replicate, if_pos (by decide)]

/-- The slice is full: whichever entry goes, it is that of line 16512, and what the directory then holds of the line is not what it held. -/
theorem homePut_start : homePut (taken start 0) 0
    = setDir (setDir (taken start 0) 0 { Dir.init with home := true }) other { again with home := false } := by
  have hdir : dirOf (taken start 0) 0 = Dir.init := dirOf_line
  unfold homePut
  dsimp only
  rw [hdir, if_neg (by decide)]
  have hpresent : ((setDir (taken start 0) 0 { Dir.init with home := true }).coh.dir.filter
      (fun e => e.2.home && e.1 != 0 && homeSlice e.1 == homeSlice 0)) = List.replicate 16384 (other, again) := present
  rw [hpresent, List.length_replicate, if_neg (by decide), List.getElem?_replicate, if_pos (Nat.mod_lt _ (by decide))]

theorem lineSt_start : lineSt start 0 = .i := by
  have hdir : dirOf start (lineOf 0) = Dir.init := dirOf_line
  unfold lineSt
  dsimp only
  rw [hdir]
  rfl

theorem reaches_start : Reaches start 0 ask .getS Dir.init where
  msg := rfl
  kind := rfl
  live := fun _ => by decide
  entry := dirOf_line
  plain := lineSt_start

/-- The home takes the request: of the other lines' entries, only the home copy's place in the slice has changed any. -/
theorem homeTake_start : dirOf (homeTake (taken start 0) ask) other = dirOf (homePut (taken start 0) 0) other := by
  have hst : lineSt (taken start 0) 0 = .i := lineSt_start
  have hput : dirOf (homePut (taken start 0) 0) 0 = { Dir.init with home := true } := by
    rw [(homePut_spec _ _).1, show dirOf (taken start 0) 0 = Dir.init from dirOf_line]
    rfl
  have htake := homeTake_idle (s := taken start 0) (m := ask) rfl hst (by rw [show ask.line = 0 from rfl, hput]; rfl)
  rw [htake, dirOf_sendMsg, dirOf_setDir_ne _ _ (by decide : other ≠ ask.line), dirOf_grantNote]
  rfl

theorem exec_start : exec (.homeGets 0) start = .next (homeTake (taken start 0) ask) := by
  have hdir : dirOf (taken start 0) ask.line = Dir.init := dirOf_line
  have hst : lineSt (taken start 0) ask.line = .i := lineSt_start
  have hfree : ¬ 256 ≤ sliceBusy (taken start 0) (homeSlice ask.line) := Nat.not_le.2 sliceBusy_start
  have htaken : homeRequest (taken start 0) ask = some (homeTake (taken start 0) ask) := by
    rw [homeRequest, hdir, hst, if_neg (by decide), if_neg hfree]
  have hdeliver : deliver true start 0 = homeRequest (taken start 0) ask := rfl
  rw [htaken] at hdeliver
  exact congrArg Host.Outcome.next ((if_pos (by decide)).trans (congrArg (·.getD start) hdeliver))

end TwiceListed

open TwiceListed in
/-- Refutes O51 in its first clause. `HomeDoes` asks that a request leave of every other line's entry all but the home copy, of any
state. Where the slice is full, the home copy of another line goes, by an entry that the directory lists; in a directory that
lists the line twice, that is not the entry which counts, and the line is no longer core 1's. -/
theorem not_homeMessages : ¬ Obligations.HomeMessages := by
  rintro ⟨hrequests, -⟩
  obtain ⟨hgets, -⟩ := hrequests start 0 ask Dir.init rfl (by decide) rfl
  obtain ⟨hidle, -⟩ := hgets reaches_start sliceBusy_start
  obtain ⟨u, hu, -, -, hothers, -⟩ := hidle rfl
  obtain rfl : homeTake (taken start 0) ask = u := Host.Outcome.next.inj (exec_start.symm.trans hu)
  have hst := congrArg Dir.st (hothers other (by decide))
  rw [dirOf_other, homeTake_start, homePut_start, dirOf_setDir_self] at hst
  cases hst

end Sys2Proof.Machine
end

section
/-! PROOFS. Frames of the pool and leaves of the page table (R308, R309). -/

namespace Sys2Proof.Machine

/-! ## A word marked S over its context -/

theorem cur_of_apart {s t : State} (h : apart t = apart s) : t.cur = s.cur := (congrArg State.cur h :)

theorem issues_of_apart {s t : State} {w : Wave} {f : Frag} (h : apart t = apart s) (hI : Issues s w f) : Issues t w f := by
  have hwaves : t.waves = s.waves := (congrArg State.waves h :)
  simpa only [Issues, waveAt, hwaves, cur_of_apart h] using hI

/-- A word's answer in its status register, over the state that its effect has made. -/
theorem answersIn_answer {i : Instr} {s t : State} {w : Wave} {f : Frag} {d : SReg} {x : Nat} (h : exec i s = answer t d x)
    (hI : Issues t w f) (hcur : t.cur = s.cur) : AnswersIn i s t w f d (BitVec.ofNat 32 x) :=
  answersIn_acts (h.trans (actedWith_issues hI _)) hcur

theorem onPriv_issues {s : State} {w : Wave} {f : Frag} {c : Ctx} (hI : Issues s w f) (hp : w.priv = .s)
    (hc : ctxOf s (ctxIdOf s w.gid) = some c) (k : Wave → Frag → Ctx → Out) : onPriv s k = k w f c := by
  rw [onPriv, onFrag_issues hI, onlyS_supervisor f _ hp, hc]

theorem pageAddr_page {s : State} {w : Wave} {f : Frag} {a : SReg} (h : (rdP w a.toNat).toNat % 65536 = 0) (k : Nat → Out) :
    pageAddr s w f a k = k (rdP w a.toNat).toNat := if_neg (not_not.2 h)

/-! ## The end of a claim -/

/-- A wave that yielded for no claim goes on as it was when one ends. -/
theorem issues_endClaim {s : State} {w : Wave} {f : Frag} (hI : Issues s w f) (hy : w.yieldClaim = []) (ctx vpn : Nat) :
    Issues (endClaim s ctx vpn) w f := by
  obtain ⟨hwave, hfrag⟩ := hI
  refine ⟨?_, hfrag⟩
  obtain ⟨x, hx, rfl⟩ := Option.map_eq_some_iff.1 hwave
  have hy : x.yieldClaim = [] := hy
  have hmapped : Map.find (endClaim s ctx vpn).waves (64 * s.cur.core + s.cur.slot) = some x := by
    simp [endClaim, mapWaves, Map.find_mapVals, hx, hy]
  exact congrArg (Option.map _) hmapped

/-! ## A leaf -/

theorem pteLeaf_of_table {e : Nat} (h : pteTable e = true) : pteLeaf true e = false := by
  simp only [pteTable, Bool.and_eq_true, Bool.not_eq_true'] at h
  simp [pteLeaf, h.1.1.2]

/-- The leaf of a frame, with its permissions (R309). -/
def frameLeaf (n : Nat) (wr x : Bool) : Nat := 19 + (if wr then 32 else 0) + (if x then 64 else 0) + n * 65536

theorem frameLeaf_lt {n : Nat} (h : n < 2 ^ 32) (wr x : Bool) : frameLeaf n wr x < 256 ^ 8 := by
  unfold frameLeaf
  split_ifs <;> omega

/-- A state with a frame mapped: the leaf's bytes stand in memory, the frame is the context's, and the page's claim has ended. -/
def mapped (s : State) (ctx va slot n : Nat) (wr x : Bool) : State :=
  endClaim (setFrame (putNum s slot 8 (frameLeaf n wr x)) n (plainFrame .loc ctx)) ctx (va / 65536)

section Mapped

variable {s : State} {ctx va slot n : Nat} {wr x : Bool}

theorem issues_mapped {w : Wave} {f : Frag} (hI : Issues s w f) (hy : w.yieldClaim = []) : Issues (mapped s ctx va slot n wr x) w f :=
  issues_endClaim (s := setFrame (putNum s slot 8 (frameLeaf n wr x)) n (plainFrame .loc ctx))
    (issues_of_apart (apart_putNum s slot 8 (frameLeaf n wr x)) hI) hy ctx (va / 65536)

theorem mapped_cur : (mapped s ctx va slot n wr x).cur = s.cur :=
  (cur_of_apart (apart_putNum s slot 8 (frameLeaf n wr x)) :)

theorem mapped_mem (h : Settled s) : (mapped s ctx va slot n wr x).mem = writeNum s.mem slot 8 (frameLeaf n wr x) :=
  (putNum_quiet (msgs_of_settled h) slot 8 _).1

theorem mapped_claims : ∀ k ∈ (mapped s ctx va slot n wr x).vm.claims, ¬ (k.ctx = ctx ∧ k.vpn = va / 65536) := by
  intro k hk
  have hstays := (List.mem_filter.1 hk).2
  simp only [Bool.not_eq_true', Bool.and_eq_false_iff, beq_eq_false_iff_ne] at hstays
  exact not_and_or.2 hstays

end Mapped

/-! ## `PGMAP` (R309) -/

section Map

variable {s : State} {c : Ctx} {ctx va n : Nat} {wr x : Bool}

theorem pgMap_outside (h : inResv c va = false) : pgMap s c ctx va n wr x = (s, 2) := if_pos (by simp [h])

variable (hin : inResv c va = true)
include hin

theorem pgMap_untaken (h : takenBy s n ctx = false) : pgMap s c ctx va n wr x = (s, 3) :=
  (if_neg (by simp [hin])).trans (if_pos (by simp [h]))

variable (htaken : takenBy s n ctx = true)
include htaken

theorem pgMap_untabled (h : pteTable (readNum s.mem (c.desc.ptRoot + 8 * bits va 56 43) 8) = false) : pgMap s c ctx va n wr x = (s, 4) :=
  (if_neg (by simp [hin])).trans ((if_neg (by simp [htaken])).trans (if_pos (by simp [h])))

variable {e0 : Nat} (he0 : readNum s.mem (c.desc.ptRoot + 8 * bits va 56 43) 8 = e0) (htable : pteTable e0 = true)
include he0 htable

theorem pgMap_overLarge (h : pteLeaf true (readNum s.mem (ptePa e0 + 8 * bits va 42 29) 8) = true) :
    pgMap s c ctx va n wr x = (s, 1) := by
  simp only [pgMap, hin, htaken, he0, htable, h, Bool.not_true, Bool.false_eq_true, if_false, if_true]

theorem pgMap_mapped {e1 : Nat} (he1 : readNum s.mem (ptePa e0 + 8 * bits va 42 29) 8 = e1) (h : pteTable e1 = true)
    (hfree : pteLeaf false (readNum s.mem (ptePa e1 + 8 * bits va 28 16) 8) = false) :
    pgMap s c ctx va n wr x = (mapped s ctx va (ptePa e1 + 8 * bits va 28 16) n wr x, 0) := by
  simp only [pgMap, hin, htaken, he0, htable, he1, pteLeaf_of_table h, h, mapLeaf, hfree, Bool.not_true, Bool.false_eq_true, if_false,
    if_true]
  rfl

end Map

/-- `PGMAP` answers its status over the state that it leaves. -/
theorem pgmap_answers {s t : State} {w : Wave} {f : Frag} {c : Ctx} {d a : SReg} {wr x : Bool} {r : Nat} (hI : Issues s w f)
    (hp : w.priv = .s) (hc : ctxOf s (ctxIdOf s w.gid) = some c) (hal : (rdP w a.toNat).toNat % 65536 = 0)
    (hmap : pgMap s c (ctxIdOf s w.gid) (rdP w a.toNat).toNat (rdS w d.toNat).toNat wr x = (t, r)) (ht : Issues t w f)
    (hcur : t.cur = s.cur) : AnswersIn (.pgmap d a wr x) s t w f d (BitVec.ofNat 32 r) := by
  refine answersIn_answer ?_ ht hcur
  refine (onPriv_issues hI hp hc _).trans ((pageAddr_page hal _).trans ?_)
  dsimp only
  rw [hmap]

/-! ## `PGTAKE` (R309) -/

section Take

variable {s : State} {w : Wave} {f : Frag} {c : Ctx} {d : SReg} (hI : Issues s w f) (hp : w.priv = .s)
  (hc : ctxOf s (ctxIdOf s w.gid) = some c)
include hI hp hc

theorem exec_pgtake_put : exec (.pgtake d true) s = if takenBy s (rdS w d.toNat).toNat (ctxIdOf s w.gid)
    then answer (setFrame s (rdS w d.toNat).toNat (plainFrame .zeroing 0)) d 0 else answer s d 0xFFFFFFFF := onPriv_issues hI hp hc _

theorem exec_pgtake_lowest {k : Nat} (h : lowestIn s .pooled = some k) :
    exec (.pgtake d false) s = answer (setFrame s k (plainFrame .taken (ctxIdOf s w.gid))) d k := by
  refine (onPriv_issues hI hp hc _).trans ?_
  simp [h]

theorem exec_pgtake_none (h : lowestIn s .pooled = none) : exec (.pgtake d false) s = answer s d 0xFFFFFFFF := by
  refine (onPriv_issues hI hp hc _).trans ?_
  simp [h]

end Take

/-- Settles O25, each status of the two words from the branch of their meaning that gives it. -/
theorem pageFrames : Obligations.PageFrames := by
  intro s w f c hI hp hc d a ctx va n
  refine ⟨fun k hk => answersIn_answer (exec_pgtake_lowest hI hp hc hk) hI rfl,
    fun hk => answersIn_answer (exec_pgtake_none hI hp hc hk) hI rfl,
    fun hk => answersIn_answer ((exec_pgtake_put hI hp hc).trans (if_pos hk)) hI rfl,
    fun hk => answersIn_answer ((exec_pgtake_put hI hp hc).trans (if_neg (by simpa using hk))) hI rfl, fun hal wr x => ?_⟩
  refine ⟨fun hin => pgmap_answers hI hp hc hal (pgMap_outside hin) hI rfl,
    fun hin ht => pgmap_answers hI hp hc hal (pgMap_untaken hin ht) hI rfl,
    fun hin ht h0 => pgmap_answers hI hp hc hal (pgMap_untabled hin ht h0) hI rfl,
    fun hin ht h0 h1 => pgmap_answers hI hp hc hal (pgMap_overLarge hin ht rfl h0 h1) hI rfl, fun hy hset hin ht h0 h1 hfree => ?_⟩
  have hmem := mapped_mem (ctx := ctx) (va := va) (slot := ptePa (readNum s.mem (ptePa (readNum s.mem (c.desc.ptRoot + 8 * bits va 56 43) 8)
    + 8 * bits va 42 29) 8) + 8 * bits va 28 16) (n := n) (wr := wr) (x := x) hset
  have happly := pgMap_mapped (wr := wr) (x := x) hin ht rfl h0 rfl h1 hfree
  refine ⟨_, pgmap_answers hI hp hc hal happly (issues_mapped hI hy) mapped_cur, ?_, fun b hb => ?_,
    Map.find_insert_self .., mapped_claims⟩
  · rw [hmem, readNum_writeNum, Nat.mod_eq_of_lt (frameLeaf_lt (rdS w d.toNat).isLt wr x), frameLeaf]
    omega
  · rw [hmem]
    exact writeNum_outside _ _ _ _ _ hb

end Sys2Proof.Machine
end

section
/-! PROOFS. What the homes' work on a line leaves when no message of the line is on its way (R271, R272, R279, R295, R305). -/

namespace Sys2Proof.Machine

/-! ## A line with no message on its way -/

/-- No message of a line is on its way. -/
def Silent (s : State) (line : Nat) : Prop := ∀ m ∈ s.coh.msgs, m.line ≠ line

theorem silent_of_msgs {s t : State} {line : Nat} (h : t.coh.msgs = s.coh.msgs) (hs : Silent s line) : Silent t line := by
  rw [Silent, h]
  exact hs

theorem silent_of_settled {s : State} (h : Settled s) (line : Nat) : Silent s line := by
  simp [Silent, msgs_of_settled h]

/-- A line's transactions get no further without a message. -/
theorem quiesce_silent {s : State} {line : Nat} (h : Silent s line) (fuel : Nat) : quiesce fuel s line = s := by
  cases fuel with
  | zero => rfl
  | succ fuel =>
    have hnone : (List.range s.coh.msgs.length).findSome? (fun k =>
        if (s.coh.msgs[k]?).map (·.line) = some line then deliver false s k else none) = none := by
      refine List.findSome?_eq_none_iff.2 fun k hk => if_neg fun hline => ?_
      obtain ⟨m, hm, hmine⟩ := Option.map_eq_some_iff.1 hline
      exact h m (List.mem_of_getElem? hm) hmine
    rw [quiesce, hnone]

theorem settleLine_silent {s : State} {line : Nat} (h : Silent s line) : settleLine s line = s := by
  unfold settleLine
  split_ifs
  · rfl
  · exact quiesce_silent h _

/-! ## All but the lines' entries and copies, the frames' entries and the write-grant bits -/

/-- The part of a state that the homes' work on a silent line does not write. -/
def beside (s : State) : State :=
  { s with coh := { s.coh with dir := [], l1 := [] }, vm := { s.vm with frames := [], wgrant := [] } }

theorem apart_of_beside {s t : State} (h : beside t = beside s) : apart t = apart s := (congrArg apart h :)

theorem mem_of_beside {s t : State} (h : beside t = beside s) : t.mem = s.mem := (congrArg State.mem h :)

theorem msgs_of_beside {s t : State} (h : beside t = beside s) : t.coh.msgs = s.coh.msgs := (congrArg (·.coh.msgs) h :)

theorem silent_of_beside {s t : State} {line : Nat} (h : beside t = beside s) (hs : Silent s line) : Silent t line :=
  silent_of_msgs (msgs_of_beside h) hs

@[simp] theorem beside_setDir (s : State) (line : Nat) (d : Dir) : beside (setDir s line d) = beside s := rfl
@[simp] theorem beside_setL1 (s : State) (core line : Nat) (l : L1Line) : beside (setL1 s core line l) = beside s := rfl
@[simp] theorem beside_setFrame (s : State) (f : Nat) (fr : Frame) : beside (setFrame s f fr) = beside s := rfl

@[simp] theorem beside_grantNote (s : State) (key : Nat) : beside (grantNote s key) = beside s := by
  unfold grantNote; split <;> rfl

@[simp] theorem beside_frameDirty (s : State) (line : Nat) : beside (frameDirty s line) = beside s := by
  unfold frameDirty; split
  · split <;> rfl
  · rfl

@[simp] theorem beside_homePut (s : State) (line : Nat) : beside (homePut s line) = beside s := by
  unfold homePut; dsimp only; split
  · rfl
  · split
    · rfl
    · split <;> rfl

theorem beside_dropCopies {s : State} {line : Nat} (h : Silent s line) : beside (dropCopies s line) = beside s := by
  have hkeep : s.coh.msgs.filter (fun m => !(m.k == .data && m.line == line)) = s.coh.msgs :=
    List.filter_eq_self.2 fun m hm => by simp [h m hm]
  have hcoh : (beside (dropCopies s line)).coh = (beside s).coh := by
    change ({ s.coh with msgs := s.coh.msgs.filter _, dir := [], l1 := [] } : Coh) = _
    rw [hkeep]
    rfl
  exact congrArg (fun c => { beside s with coh := c }) hcoh

theorem beside_recallLine {s : State} {line : Nat} (h : Silent s line) : beside (recallLine s line) = beside s := by
  unfold recallLine
  rw [settleLine_silent h]
  dsimp only
  split_ifs
  · rfl
  · exact (beside_dropCopies (silent_of_beside (beside_frameDirty s line) h)).trans (beside_frameDirty s line)
  · exact beside_dropCopies h

theorem beside_homeWrite {s : State} {line : Nat} (h : Silent s line) : beside (homeWrite s line) = beside s := by
  simp [homeWrite, beside_recallLine h]

/-! ## Frames -/

theorem frameDirty_unframed {s : State} {line : Nat} (h : frameOfPage s (line / 65536) = none) : frameDirty s line = s := by
  rw [frameDirty, h]

theorem homePut_vm (s : State) (line : Nat) : (homePut s line).vm = s.vm := by
  unfold homePut; dsimp only; split
  · rfl
  · split
    · rfl
    · split <;> rfl

theorem grantNote_frames (s : State) (key : Nat) : (grantNote s key).vm.frames = s.vm.frames := by
  unfold grantNote; split <;> rfl

theorem frameOfPage_of_frames {s t : State} (h : t.vm.frames = s.vm.frames) (page : Nat) : frameOfPage t page = frameOfPage s page := by
  rw [frameOfPage, h, frameOfPage]

theorem recallLine_frames {s : State} {line : Nat} (h : Silent s line) (hframe : frameOfPage s (line / 65536) = none) :
    (recallLine s line).vm.frames = s.vm.frames := by
  unfold recallLine
  rw [settleLine_silent h]
  dsimp only
  rw [frameDirty_unframed hframe, ite_self]
  split_ifs <;> rfl

theorem homeWrite_frames {s : State} {line : Nat} (h : Silent s line) (hframe : frameOfPage s (line / 65536) = none) :
    (homeWrite s line).vm.frames = s.vm.frames := by
  have hgrant : (grantNote (recallLine s line) line).vm.frames = s.vm.frames := (grantNote_frames ..).trans (recallLine_frames h hframe)
  have hframe' := (frameOfPage_of_frames hgrant (line / 65536)).trans hframe
  rw [homeWrite, homePut_vm, frameDirty_unframed hframe', hgrant]

/-! ## Write-grant bits -/

theorem frameDirty_wgrant (s : State) (line : Nat) : (frameDirty s line).vm.wgrant = s.vm.wgrant := by
  unfold frameDirty; split
  · split <;> rfl
  · rfl

theorem recallLine_wgrant {s : State} {line : Nat} (h : Silent s line) : (recallLine s line).vm.wgrant = s.vm.wgrant := by
  unfold recallLine
  rw [settleLine_silent h]
  dsimp only
  split_ifs
  · rfl
  · exact frameDirty_wgrant s line
  · rfl

theorem grantNote_wgrant {s : State} {key page : Nat} (h : page ≠ key / 65536) :
    Tab.get false (grantNote s key).vm.wgrant page = Tab.get false s.vm.wgrant page := by
  unfold grantNote
  split_ifs
  · rfl
  · exact (Tab.get_set_ne false s.vm.wgrant true h :)

theorem homeWrite_wgrant {s : State} {line page : Nat} (h : Silent s line) (hpage : page ≠ line / 65536) :
    Tab.get false (homeWrite s line).vm.wgrant page = Tab.get false s.vm.wgrant page := by
  rw [homeWrite, homePut_vm, frameDirty_wgrant, grantNote_wgrant hpage, recallLine_wgrant h]

/-! ## A number at its home -/

theorem lineOf_page (key : Nat) : lineOf key / 65536 = key / 65536 := by
  unfold lineOf
  omega

section Number

variable {s : State} {key n x : Nat} (h : Silent s (lineOf key))
include h

theorem beside_putNum : beside (putNum s key n x) = beside { s with mem := writeNum s.mem key n x } := by
  have hbeside : beside (if 2 ^ 64 ≤ key then s else homeWrite s (lineOf key)) = beside s := by
    split_ifs
    · rfl
    · exact beside_homeWrite h
  have hmem := mem_of_beside hbeside
  change ({ beside (if 2 ^ 64 ≤ key then s else homeWrite s (lineOf key)) with mem := writeNum _ key n x } : State) = _
  rw [hbeside, hmem]
  rfl

theorem putNum_silent_mem : (putNum s key n x).mem = writeNum s.mem key n x := mem_of_beside (beside_putNum h)

theorem putNum_msgs : (putNum s key n x).coh.msgs = s.coh.msgs := (msgs_of_beside (beside_putNum h) :)

theorem putNum_frames (hframe : frameOfPage s (key / 65536) = none) : (putNum s key n x).vm.frames = s.vm.frames := by
  change (if 2 ^ 64 ≤ key then s else homeWrite s (lineOf key)).vm.frames = s.vm.frames
  split_ifs
  · rfl
  · exact homeWrite_frames h (by rwa [lineOf_page])

theorem putNum_wgrant {page : Nat} (hpage : page ≠ key / 65536) :
    Tab.get false (putNum s key n x).vm.wgrant page = Tab.get false s.vm.wgrant page := by
  change Tab.get false (if 2 ^ 64 ≤ key then s else homeWrite s (lineOf key)).vm.wgrant page = _
  split_ifs
  · rfl
  · exact homeWrite_wgrant h (by rwa [lineOf_page])

end Number

/-! ## Recalls of lines -/

theorem beside_recallLines {s : State} {lines : List Nat} (h : ∀ line ∈ lines, Silent s line) : beside (recallLines s lines) = beside s := by
  induction lines generalizing s with
  | nil => rfl
  | cons line rest ih =>
    have hline := beside_recallLine (h line List.mem_cons_self)
    exact (ih fun l hl => silent_of_beside hline (h l (List.mem_cons_of_mem _ hl))).trans hline

end Sys2Proof.Machine
end

section
/-! PROOFS. `PGUNMAP`, `PGINV`, `PGHARVEST` and `PGQUERY` (R305, R310 to R312, R314). -/

namespace Sys2Proof.Machine

/-! ## Operations of a context, and the waits of `PGINV` (R304, R311) -/

theorem opsWhere_nil_of_imp {s : State} {p q : EngOp → Bool} (h : opsWhere s p = []) (hq : ∀ o, q o = true → p o = true) : opsWhere s q = [] := by
  simp only [opsWhere, List.flatMap_eq_nil_iff, List.map_eq_nil_iff, List.filter_eq_nil_iff] at h ⊢
  exact fun c hc o ho hqo => h c hc o ho (hq _ hqo)

/-- No operation of the wave's context is in hand and no strip is queued: the word waits for no pin. -/
theorem afterPins_quiet {s : State} {w : Wave} (f : Frag) (lo n : Nat) (k : State → Out) (hstrips : w.strips = [])
    (hops : opsWhere s (fun o => o.ctx == ctxIdOf s w.gid) = []) : afterPins s w f lo n k = k s := by
  have hparked : dropParkedPins s (ctxIdOf s w.gid) lo n = s := by
    rw [dropParkedPins, opsWhere_nil_of_imp hops (by simp +contextual)]
    rfl
  have hpinned : rangePinned s (ctxIdOf s w.gid) lo n = false := by
    rw [rangePinned, opsWhere_nil_of_imp hops (by simp +contextual)]
    rfl
  rw [afterPins, if_neg (not_not.2 hstrips)]
  dsimp only
  rw [hparked, if_neg (by simp [hpinned])]

/-! ## Ranges of pages -/

theorem inPages_one (lo vpn : Nat) : inPages lo 1 vpn = (vpn == lo) := by
  rw [Bool.eq_iff_iff]
  simp [inPages]
  omega

theorem inPages_iff (lo n vpn : Nat) : inPages lo n vpn = false ↔ n ≠ 0 ∧ (vpn < lo ∨ lo + n ≤ vpn) := by
  simp [inPages]
  omega

/-- What a translation that stays after an invalidation is: one of another context, or of a page that the range leaves out. -/
theorem mem_stays {l : List TlbEnt} {ctx lo n : Nat} {k : TlbEnt} : k ∈ l.filter (fun e => !(e.ctx == ctx && inPages lo n e.vpn))
    ↔ k ∈ l ∧ (k.ctx = ctx → n ≠ 0 ∧ (k.vpn < lo ∨ lo + n ≤ k.vpn)) := by
  simp only [List.mem_filter, ← inPages_iff, Bool.not_eq_true', Bool.and_eq_false_iff, beq_eq_false_iff_ne, ← imp_iff_not_or]

theorem mem_walks_stay {l : List WalkEnt} {ctx lo n : Nat} {k : WalkEnt} : k ∈ l.filter (fun x => !(x.ctx == ctx && walkMeets lo n x))
    ↔ k ∈ l ∧ ¬ (k.ctx = ctx ∧ walkMeets lo n k = true) := by
  simp [List.mem_filter, ← imp_iff_not_or]

/-! ## `PGUNMAP` (R310) -/

@[simp] theorem apart_setFrame (s : State) (f : Nat) (fr : Frame) : apart (setFrame s f fr) = apart s := rfl

theorem find_setFrame (s : State) (f : Nat) (fr : Frame) : Map.find (setFrame s f fr).vm.frames f = some fr := Map.find_insert_self ..

/-- A frame that is given back leaves memory as it is, where no message is on its way. -/
theorem freeLocal_keeps {s : State} (h : s.coh.msgs = []) (page : Nat) : apart (freeLocal s page) = apart s ∧ (freeLocal s page).mem = s.mem := by
  have hsilent : ∀ line ∈ pageLines page, Silent s line := fun line _ m hm => by simp [h] at hm
  have hbeside := beside_recallLines hsilent
  rw [freeLocal, apart_setFrame, setFrame_mem]
  exact ⟨apart_of_beside hbeside, mem_of_beside hbeside⟩

/-- A state with a page unmapped: the leaf's valid bit is clear in memory, the translations of the page are gone, and a frame that is
given back goes to zeroing. -/
def unmapped (s : State) (ctx va slot page : Nat) (free : Bool) : State :=
  let t := invalidate (putNum s slot 8 (readNum s.mem slot 8 - 1)) ctx (va / 65536) 1
  if free && pteHome (readNum s.mem slot 8) == 0 && decide (page < frameLimit s) then freeLocal t page else t

section Unmapped

variable {s : State} {ctx va slot page : Nat} {free : Bool}

/-- Whether the frame is given back or not, the rest is as the invalidation leaves it. -/
theorem unmapped_keeps (hset : Settled s) :
    let t := invalidate (putNum s slot 8 (readNum s.mem slot 8 - 1)) ctx (va / 65536) 1
    apart (unmapped s ctx va slot page free) = apart t ∧ (unmapped s ctx va slot page free).mem = t.mem := by
  have hmsgs := (putNum_quiet (msgs_of_settled hset) slot 8 (readNum s.mem slot 8 - 1)).2
  unfold unmapped
  dsimp only
  split_ifs
  · exact freeLocal_keeps (s := invalidate (putNum s slot 8 (readNum s.mem slot 8 - 1)) ctx (va / 65536) 1) hmsgs page
  · exact ⟨rfl, rfl⟩

theorem unmapped_mem (hset : Settled s) :
    (unmapped s ctx va slot page free).mem = writeNum s.mem slot 8 (readNum s.mem slot 8 - 1) :=
  (unmapped_keeps hset).2.trans (putNum_quiet (msgs_of_settled hset) slot 8 _).1

theorem unmapped_tlb (hset : Settled s) : (unmapped s ctx va slot page free).vm.tlb
    = s.vm.tlb.filter (fun k => !(k.ctx == ctx && k.vpn == va / 65536)) := by
  have hput := tlb_of_apart (apart_putNum s slot 8 (readNum s.mem slot 8 - 1))
  rw [tlb_of_apart (unmapped_keeps hset).1, invalidate]
  simp only [inPages_one, hput]

theorem unmapped_tlb2 (hset : Settled s) : (unmapped s ctx va slot page free).vm.tlb2
    = s.vm.tlb2.filter (fun k => !(k.ctx == ctx && k.vpn == va / 65536)) := by
  have hput := tlb2_of_apart (apart_putNum s slot 8 (readNum s.mem slot 8 - 1))
  rw [tlb2_of_apart (unmapped_keeps hset).1, invalidate]
  simp only [inPages_one, hput]

theorem unmapped_freed (hfree : free = true) (hhome : pteHome (readNum s.mem slot 8) = 0) (hpage : page < frameLimit s) :
    Map.find (unmapped s ctx va slot page free).vm.frames page = some (plainFrame .zeroing 0) := by
  rw [unmapped, if_pos (by simp [hfree, hhome, hpage])]
  exact find_setFrame ..

theorem unmapped_frames (hset : Settled s) (hframe : frameOfPage s (slot / 65536) = none) (hfree : free = false) :
    (unmapped s ctx va slot page free).vm.frames = s.vm.frames := by
  rw [unmapped, if_neg (by simp [hfree])]
  exact putNum_frames (silent_of_settled hset _) hframe

end Unmapped

section Unmap

variable {s : State} {c : Ctx} {ctx va slot : Nat} {large free : Bool}

theorem pgUnmap_unmapped (h : walk s.mem c.desc.ptRoot va = none) : pgUnmap s c ctx va free = (s, 1) := by
  unfold walk at h
  unfold pgUnmap
  split at h
  · rfl
  · rename_i a large
    dsimp only at h ⊢
    split_ifs at h with hleaf
    exact if_pos (by simp [hleaf])

variable (hwalk : walkTo s.mem c.desc.ptRoot va = some (slot, large)) (hleaf : pteLeaf large (readNum s.mem slot 8) = true)
include hwalk hleaf

/-- The page that the leaf names. -/
theorem pgUnmap_latent
    (h : (pageLines (leafKey { word := readNum s.mem slot 8, large := large } va / 65536)).any (inA s) = true) :
    pgUnmap s c ctx va free = (s, 6) := by
  unfold pgUnmap
  rw [hwalk]
  dsimp only
  rw [if_neg (by simp [hleaf]), if_pos h]

theorem pgUnmap_clears
    (h : (pageLines (leafKey { word := readNum s.mem slot 8, large := large } va / 65536)).any (inA s) = false) :
    pgUnmap s c ctx va free
      = (unmapped s ctx va slot (leafKey { word := readNum s.mem slot 8, large := large } va / 65536) free, 0) := by
  unfold pgUnmap
  rw [hwalk]
  dsimp only
  rw [if_neg (by simp [hleaf]), if_neg (by simp [h]), unmapped]

end Unmap

/-- `PGUNMAP` of a page of the reservation, with no wait before it. -/
theorem exec_pgunmap_quiet {s t : State} {w : Wave} {f : Frag} {c : Ctx} {d a : SReg} {free : Bool} {r : Nat} (hI : Issues s w f)
    (hp : w.priv = .s) (hc : ctxOf s (ctxIdOf s w.gid) = some c) (hal : (rdP w a.toNat).toNat % 65536 = 0)
    (hstrips : w.strips = []) (hops : opsWhere s (fun o => o.ctx == ctxIdOf s w.gid) = [])
    (hin : inResv c (rdP w a.toNat).toNat = true) (h : pgUnmap s c (ctxIdOf s w.gid) (rdP w a.toNat).toNat free = (t, r))
    (ht : r = 6 → t = s) : exec (.pgunmap d a free) s = answer t d r := by
  refine (onPriv_issues hI hp hc _).trans ((pageAddr_page hal _).trans ((if_neg (by simp [hin])).trans ?_))
  rw [h]
  by_cases h6 : r = 6
  · rw [if_pos h6, ht h6, h6]
  · rw [if_neg h6, afterPins_quiet f _ _ _ hstrips hops]
    dsimp only
    rw [h]

/-! ## `PGHARVEST` (R305, R312) -/

@[simp] theorem apart_downgradeLine (s : State) (line : Nat) : apart (downgradeLine s line) = apart s := by
  unfold downgradeLine
  dsimp only
  split
  · simp
  · split_ifs <;> simp

@[simp] theorem apart_downgradePage (s : State) (page : Nat) : apart (downgradePage s page) = apart s :=
  foldl_keeps apart _ _ apart_downgradeLine s

@[simp] theorem apart_harvest (root n : Nat) (s : State) (vpn : Nat) : apart (harvest root n s vpn).1 = apart s := by
  induction n generalizing s vpn with
  | zero => rfl
  | succ n ih =>
    rw [harvest, ih]
    split
    · rfl
    · dsimp only
      split_ifs
      · exact apart_downgradePage _ _
      · exact (apart_putNum ..).trans (apart_downgradePage _ _)
      · rfl

section Downgrade

variable {s : State} {line : Nat} (h : Silent s line)
include h

theorem beside_downgradeLine : beside (downgradeLine s line) = beside s := by
  unfold downgradeLine
  rw [settleLine_silent h]
  dsimp only
  split
  · rfl
  · split_ifs <;> simp

theorem downgradeLine_wgrant : (downgradeLine s line).vm.wgrant = s.vm.wgrant := by
  unfold downgradeLine
  rw [settleLine_silent h]
  dsimp only
  split
  · rfl
  · split_ifs
    · rfl
    · rw [homePut_vm]
      exact frameDirty_wgrant s line
    · rw [homePut_vm]
      rfl

end Downgrade

/-- Taking write permission from copies, with no message on its way, keeps memory and the write-grant bits. -/
theorem downgrade_keeps {s : State} (h : s.coh.msgs = []) (lines : List Nat) :
    beside (lines.foldl downgradeLine s) = beside s ∧ (lines.foldl downgradeLine s).vm.wgrant = s.vm.wgrant := by
  induction lines generalizing s with
  | nil => exact ⟨rfl, rfl⟩
  | cons line rest ih =>
    have hsilent : Silent s line := fun m hm => by simp [h] at hm
    have hline := beside_downgradeLine hsilent
    obtain ⟨hrest, hgrant⟩ := ih ((msgs_of_beside hline).trans h)
    exact ⟨hrest.trans hline, hgrant.trans (downgradeLine_wgrant hsilent)⟩

/-- The state that a harvest works on: the page's write-grant bit is clear, and no L1 holds write permission for its lines. -/
def harvested (s : State) (page : Nat) : State :=
  downgradePage { s with vm := { s.vm with wgrant := Tab.set false s.vm.wgrant page false } } page

section Harvest

variable {s : State} {root vpn slot : Nat} {large : Bool} (hwalk : walkTo s.mem root (vpn * 65536) = some (slot, large))
include hwalk

theorem harvest_unwritten
    (h : Tab.get false s.vm.wgrant (leafKey { word := readNum s.mem slot 8, large := large } (vpn * 65536) / 65536) = false) :
    harvest root 1 s vpn = (s, 0) := by
  rw [harvest, harvest]
  simp [hwalk, h]

theorem harvest_written (hleaf : pteLeaf large (readNum s.mem slot 8) = true)
    (h : Tab.get false s.vm.wgrant (leafKey { word := readNum s.mem slot 8, large := large } (vpn * 65536) / 65536) = true) :
    harvest root 1 s vpn =
      (let t := harvested s (leafKey { word := readNum s.mem slot 8, large := large } (vpn * 65536) / 65536)
       if bit (readNum s.mem slot 8) 10 then t else putNum t slot 8 (readNum s.mem slot 8 + 2 ^ 10), 1) := by
  rw [harvest, harvest]
  simp [hwalk, h, hleaf, harvested]

end Harvest

theorem harvested_spec {s : State} (h : s.coh.msgs = []) (page : Nat) : (harvested s page).mem = s.mem ∧ (harvested s page).coh.msgs = []
    ∧ Tab.get false (harvested s page).vm.wgrant page = false := by
  obtain ⟨hbeside, hgrant⟩ := downgrade_keeps (s := { s with vm := { s.vm with wgrant := Tab.set false s.vm.wgrant page false } }) h
    (pageCopies { s with vm := { s.vm with wgrant := Tab.set false s.vm.wgrant page false } } page)
  refine ⟨(mem_of_beside hbeside :), (msgs_of_beside hbeside).trans h, ?_⟩
  rw [harvested, downgradePage, hgrant]
  exact (Tab.get_set_self false s.vm.wgrant page false :)

/-- Bit 10 of a word that does not have it is set by adding it; the bits below stay, and it stays a word. -/
theorem bit10_added {e : Nat} (h : bit e 10 = false) :
    bit ((e + 2 ^ 10) % 256 ^ 8) 10 = true ∧ (e + 2 ^ 10) % 256 ^ 8 % 2 ^ 10 = e % 2 ^ 10 := by
  simp only [bit, beq_eq_false_iff_ne, beq_iff_eq] at h ⊢
  omega

theorem harvest_spec {s : State} {root vpn slot : Nat} {large : Bool} (hwalk : walkTo s.mem root (vpn * 65536) = some (slot, large))
    (hleaf : pteLeaf large (readNum s.mem slot 8) = true) (hset : Settled s) {page : Nat}
    (hpage : leafKey { word := readNum s.mem slot 8, large := large } (vpn * 65536) / 65536 = page)
    (hgrant : Tab.get false s.vm.wgrant page = true) (hslot : slot / 65536 ≠ page) :
    let r := harvest root 1 s vpn
    r.2 = 1 ∧ Tab.get false r.1.vm.wgrant page = false ∧ bit (readNum r.1.mem slot 8) 10 = true
      ∧ readNum r.1.mem slot 8 % 2 ^ 10 = readNum s.mem slot 8 % 2 ^ 10 := by
  obtain ⟨hmem, hmsgs, hclear⟩ := harvested_spec (msgs_of_settled hset) page
  rw [harvest_written hwalk hleaf (by rw [hpage, hgrant]), hpage]
  dsimp only
  refine ⟨rfl, ?_⟩
  cases hd : bit (readNum s.mem slot 8) 10
  · have hsilent : Silent (harvested s page) (lineOf slot) := fun m hm => by simp [hmsgs] at hm
    obtain ⟨hbit, hlow⟩ := bit10_added hd
    rw [if_neg Bool.false_ne_true, putNum_wgrant hsilent hslot.symm, putNum_silent_mem hsilent, readNum_writeNum]
    exact ⟨hclear, hbit, hlow⟩
  · rw [if_pos rfl, hmem]
    exact ⟨hclear, hd, rfl⟩

/-! ## `PGQUERY` (R314) -/

/-- A flag's bit in a snapshot. -/
def flagAt (x : Bool) (i : Nat) : Nat := if x then 2 ^ i else 0

theorem flagAt_eq (x : Bool) (i : Nat) : flagAt x i = 2 ^ i * x.toNat := by cases x <;> simp [flagAt]

theorem pageInfo_none {s : State} {c : Ctx} {priv : Priv} {va : Nat} (h : 2 ^ 57 ≤ va ∨ walk s.mem c.desc.ptRoot va = none) :
    pageInfo s c priv va = 0 := by
  unfold pageInfo
  by_cases hva : 2 ^ 57 ≤ va
  · rw [if_pos hva]
  · rw [if_neg hva, h.resolve_left hva]

section Query

variable {s : State} {c : Ctx} {priv : Priv} {va : Nat} {l : Leaf} (hva : va < 2 ^ 57) (hwalk : walk s.mem c.desc.ptRoot va = some l)
include hva hwalk

theorem pageInfo_supervisor (hp : priv = .u) (hs : bit l.word 7 = true) : pageInfo s c priv va = 0 := by
  unfold pageInfo
  rw [if_neg (by omega), hwalk]
  simp [hp, hs]

/-- The fields of a page's snapshot, below its pins. -/
theorem pageInfo_leaf (h : priv = .s ∨ bit l.word 7 = false) : ∃ b3 b4 b5 : Bool, pageInfo s c priv va =
    1 + 2 * pteHome l.word + flagAt b3 3 + flagAt b4 4 + flagAt b5 5 + flagAt l.large 6 + flagAt (bit l.word 10) 7
      + 256 * min 255 ((Map.find s.vm.pins (leafKey l va / 65536)).getD 0) := by
  unfold pageInfo
  rw [if_neg (by omega), hwalk]
  refine ⟨_, _, _, if_neg ?_⟩
  obtain rfl | hs := h
  · simp
  · simp [hs]

end Query

theorem getLsbD_of_div {n i : Nat} {x : BitVec n} {b : Bool} (h : x.toNat / 2 ^ i % 2 = b.toNat) : x.getLsbD i = b := by
  rw [← BitVec.testBit_toNat, Nat.testBit_eq_decide_div_mod_eq, h]
  cases b <;> rfl

/-- A snapshot's fields as read from it. -/
theorem snapshot_fields {h m : Nat} {b3 b4 b5 b6 b7 : Bool} {x : Word} (hh : h < 4) (hm : m ≤ 255)
    (hx : x = BitVec.ofNat 32 (1 + 2 * h + flagAt b3 3 + flagAt b4 4 + flagAt b5 5 + flagAt b6 6 + flagAt b7 7 + 256 * m)) :
    x.toNat % 2 = 1 ∧ x.toNat / 2 % 4 = h ∧ x.getLsbD 6 = b6 ∧ x.getLsbD 7 = b7 ∧ x.toNat / 2 ^ 8 = m := by
  have hb (b : Bool) : b.toNat ≤ 1 := Bool.toNat_le b
  have h3 := hb b3
  have h4 := hb b4
  have h5 := hb b5
  have h6 := hb b6
  have h7 := hb b7
  have hnat : x.toNat = 1 + 2 * h + 8 * b3.toNat + 16 * b4.toNat + 32 * b5.toNat + 64 * b6.toNat + 128 * b7.toNat + 256 * m := by
    rw [hx, BitVec.toNat_ofNat]
    simp only [flagAt_eq]
    omega
  exact ⟨by omega, by omega, getLsbD_of_div (by omega), getLsbD_of_div (by omega), by omega⟩

/-- A word that counts as an action and writes no register. -/
theorem scalarDoneAt_acts {i : Instr} {s t : State} {w : Wave} {f : Frag} (h : exec i s = actedWith t (fun v => v)) (hI : Issues t w f)
    (hcur : t.cur = s.cur) : ScalarDoneAt i s t w f (rdS w) (rdM w f) f.flags (f.pc + 4) := by
  have hwave : acted t w = { w with spin := 0, demoted := false, age := (acted t w).age } := rfl
  exact goTo_scalarDoneAt (h.trans (actedWith_issues hI _)) hcur (by rw [hwave]) (fun _ => rfl) (fun _ => rfl)

/-- Settles O26, each word from its meaning without a wait. -/
theorem pageMaps : Obligations.PageMaps := by
  intro s w f c hI hc d a ctx va n quiet
  refine ⟨fun hp ⟨hstrips, hops⟩ hal free => ⟨fun hin => ?_, fun hin hwalk => ?_, fun slot large hin hwalk => ?_⟩,
    fun hp ⟨hstrips, hops⟩ hn hal => ?_, fun hp h1 hn hal => ?_, fun vpn slot large hwalk => ?_, ?_⟩
  · exact answersIn_answer ((onPriv_issues hI hp hc _).trans ((pageAddr_page hal _).trans (if_pos (congrArg (!·) hin)))) hI rfl
  · exact answersIn_answer (exec_pgunmap_quiet hI hp hc hal hstrips hops hin (pgUnmap_unmapped hwalk) (by simp)) hI rfl
  · intro e page hleaf
    refine ⟨fun hA => answersIn_answer (exec_pgunmap_quiet hI hp hc hal hstrips hops hin (pgUnmap_latent hwalk hleaf hA) (fun _ => rfl)) hI rfl,
      fun hset hframe hA => ?_⟩
    have hclear := pgUnmap_clears (ctx := ctx) (free := free) hwalk hleaf hA
    have hkeeps := (unmapped_keeps (ctx := ctx) (va := va) (page := page) (free := free) (slot := slot) hset).1
    have hput := apart_putNum s slot 8 (e - 1)
    have hissues : Issues (invalidate (putNum s slot 8 (e - 1)) ctx (va / 65536) 1) w f :=
      (issues_of_apart hput hI : Issues (putNum s slot 8 (e - 1)) w f)
    have hcur : (invalidate (putNum s slot 8 (e - 1)) ctx (va / 65536) 1).cur = s.cur := (cur_of_apart hput :)
    refine ⟨_, answersIn_answer (exec_pgunmap_quiet hI hp hc hal hstrips hops hin hclear (by simp)) (issues_of_apart hkeeps hissues)
      ((cur_of_apart hkeeps).trans hcur), unmapped_mem hset, unmapped_tlb hset, unmapped_tlb2 hset, unmapped_freed,
      unmapped_frames hset hframe⟩
  · have hill : ¬ 65536 < n := Nat.not_lt.2 hn
    have hmis : ¬ (n ≠ 0 ∧ va % 65536 ≠ 0) := fun h => hal.elim h.2 h.1
    have hexec : exec (.pginv d a) s = actedWith (invalidate s ctx (va / 65536) n) (fun v => v) :=
      (onPriv_issues hI hp hc _).trans ((if_neg hill).trans ((if_neg hmis).trans (afterPins_quiet f _ _ _ hstrips hops)))
    refine ⟨invalidate s ctx (va / 65536) n, ?_, rfl, fun k => ⟨mem_stays, mem_stays⟩, fun k => mem_walks_stay⟩
    exact scalarDoneAt_acts hexec hI rfl
  · have hbad : ¬ (n = 0 ∨ 4096 < n) := by omega
    have hapart := apart_harvest c.desc.ptRoot n s (va / 65536)
    refine answersIn_answer ?_ (issues_of_apart hapart hI) (cur_of_apart hapart)
    exact (onPriv_issues hI hp hc _).trans ((if_neg hbad).trans (pageAddr_page hal _))
  · intro e page r hleaf
    exact ⟨harvest_unwritten hwalk, fun hgrant hset hslot => harvest_spec hwalk hleaf hset rfl hgrant hslot⟩
  · have hexec : exec (.pgquery d a) s = done s (wrS w d.toNat (BitVec.ofNat 32 (pageInfo s c w.priv va))) f := by
      refine (onFrag_issues hI _).trans ?_
      rw [hc]
    refine ⟨_, answersIn_done hexec rfl, fun h => congrArg (BitVec.ofNat 32) (pageInfo_none h), fun l hva hwalk => ⟨fun hp hs => ?_, fun h => ?_⟩⟩
    · exact congrArg (BitVec.ofNat 32) (pageInfo_supervisor hva hwalk hp hs)
    · obtain ⟨b3, b4, b5, hinfo⟩ := pageInfo_leaf hva hwalk h
      exact snapshot_fields (Nat.mod_lt _ (by decide)) (Nat.min_le_left ..) (congrArg _ hinfo)

end Sys2Proof.Machine
end

section
/-! PROOFS. `PGMIGRATE`: pages that move (R280, R302, R313). -/

namespace Sys2Proof.Machine

/-! ## What serving a line's waiting requests leaves -/

/-- The messages of other lines, and the frames. -/
def elsewhere (line : Nat) (s : State) : List Msg × Map Frame := (s.coh.msgs.filter (fun m => m.line != line), s.vm.frames)

section Elsewhere

variable (line : Nat) (s : State)

@[simp] theorem elsewhere_setDir (l : Nat) (d : Dir) : elsewhere line (setDir s l d) = elsewhere line s := rfl
@[simp] theorem elsewhere_noCopy (l r : Nat) : elsewhere line (noCopy s l r) = elsewhere line s := rfl

@[simp] theorem elsewhere_sendMsg {m : Msg} (h : m.line = line) : elsewhere line (sendMsg s m) = elsewhere line s := by
  have hat : (m.at_ s.clock).line = line := h
  simp [elsewhere, sendMsg, List.filter_append, hat]

@[simp] theorem elsewhere_grantNote (key : Nat) : elsewhere line (grantNote s key) = elsewhere line s := by
  unfold grantNote; split <;> rfl

@[simp] theorem elsewhere_homePut (l : Nat) : elsewhere line (homePut s l) = elsewhere line s := by
  rw [elsewhere, homePut_vm, (homePut_spec s l).2, elsewhere]

@[simp] theorem elsewhere_sendInvs (reqr : Nat) (l : List Nat) : elsewhere line (sendInvs s line reqr l) = elsewhere line s :=
  foldl_keeps (elsewhere line) l (fun t c => sendMsg t (fromHome .inv line c reqr 0)) (fun t _ => elsewhere_sendMsg line t rfl) s

@[simp] theorem elsewhere_grantWrite (r : Nat) (data : Bool) (acks : Nat) (d : Dir) :
    elsewhere line (grantWrite s line r data acks d) = elsewhere line s := by
  unfold grantWrite; dsimp only; split
  · exact (elsewhere_sendMsg line _ rfl).trans (by simp)
  · simp

end Elsewhere

@[simp] theorem elsewhere_homeTake (s : State) (m : Msg) : elsewhere m.line (homeTake s m) = elsewhere m.line s := by
  have hsend (t : State) (k : MsgK) (dst reqr acks : Nat) :
      elsewhere m.line (sendMsg t (fromHome k m.line dst reqr acks)) = elsewhere m.line t := elsewhere_sendMsg m.line t rfl
  unfold homeTake
  dsimp only
  split
  · simp
  · split
    · simp
    · split
      all_goals
        split <;> try split_ifs
        all_goals simp [hsend]

theorem elsewhere_serveWaiting (fuel : Nat) (s : State) (line : Nat) : elsewhere line (serveWaiting fuel s line) = elsewhere line s := by
  induction fuel generalizing s with
  | zero => rfl
  | succ n ih =>
    unfold serveWaiting
    split
    · rfl
    · split
      · rfl
      · rename_i m hm
        have hline : m.line = line := by simpa using List.find?_some hm
        rw [ih, ← hline]
        exact elsewhere_homeTake _ m

theorem elsewhere_serveLine (s : State) (line : Nat) : elsewhere line (serveLine s line) = elsewhere line s :=
  elsewhere_serveWaiting _ s line

theorem serveLine_msgs {s : State} {line : Nat} {m : Msg} (h : m ∈ (serveLine s line).coh.msgs) : m ∈ s.coh.msgs ∨ m.line = line := by
  by_cases hline : m.line = line
  · exact .inr hline
  · have hkept : (serveLine s line).coh.msgs.filter (fun m => m.line != line) = s.coh.msgs.filter (fun m => m.line != line) :=
      congrArg Prod.fst (elsewhere_serveLine s line)
    have hm : m ∈ s.coh.msgs.filter (fun m => m.line != line) := hkept ▸ List.mem_filter.2 ⟨h, by simpa using hline⟩
    exact .inl (List.mem_filter.1 hm).1

theorem serveLine_frames (s : State) (line : Nat) : (serveLine s line).vm.frames = s.vm.frames :=
  congrArg Prod.snd (elsewhere_serveLine s line)

/-! ## Lists in order -/

theorem Map.find_above {α : Type} {m : Map α} {k : Nat} (h : Map.above k m) : Map.find m k = none := by
  induction m with
  | nil => rfl
  | cons e rest ih =>
    have hlt := h e List.mem_cons_self
    exact (if_neg (by omega)).trans (ih fun x hx => h x (List.mem_cons_of_mem _ hx))

theorem Map.find_of_mem {α : Type} {m : Map α} (h : Map.sorted m = true) {k : Nat} {v : α} (hm : (k, v) ∈ m) : Map.find m k = some v := by
  induction m with
  | nil => cases hm
  | cons e rest ih =>
    obtain ⟨habove, hrest⟩ := (Map.sorted_cons _ _).1 h
    obtain rfl | hm := List.mem_cons.1 hm
    · exact if_pos rfl
    · have hlt := habove _ hm
      exact (if_neg (by omega)).trans (ih hrest hm)

/-! ## A page's bytes at another page -/

/-- A page's cells, written one after another into page `dst`: each byte is the page's own, where the page lists it. -/
theorem get_copied {src dst o : Nat} {l : List Host.Cell} (hl : ∀ e ∈ l, e.1 / 65536 = src) (hsorted : Map.sorted l = true)
    (out : List Host.Cell) :
    Tab.get 0 (l.foldl (fun o e => Tab.set 0 o (dst * 65536 + e.1 % 65536) e.2) out) (dst * 65536 + o)
      = (Map.find l (src * 65536 + o)).getD (Tab.get 0 out (dst * 65536 + o)) := by
  induction l generalizing out with
  | nil => rfl
  | cons e rest ih =>
    obtain ⟨habove, hrest⟩ := (Map.sorted_cons _ _).1 hsorted
    have hpage := hl e List.mem_cons_self
    rw [List.foldl_cons, ih (fun x hx => hl x (List.mem_cons_of_mem _ hx)) hrest]
    by_cases hkey : e.1 = src * 65536 + o
    · have hoff : e.1 % 65536 = o := by omega
      have hlast : Map.find rest (src * 65536 + o) = none := Map.find_above (hkey ▸ habove)
      have hfirst : Map.find (e :: rest) (src * 65536 + o) = some e.2 := if_pos hkey
      rw [hlast, hfirst, hoff]
      exact Tab.get_set_self ..
    · have hother : Map.find (e :: rest) (src * 65536 + o) = Map.find rest (src * 65536 + o) := if_neg hkey
      rw [hother, Tab.get_set_ne _ _ _ (by omega)]

theorem copyPage_get {m : List Host.Cell} (h : Memory.wf m = true) (src dst : Nat) {o : Nat} (ho : o < 65536) :
    Tab.get 0 (copyPage m src dst) (dst * 65536 + o) = Tab.get 0 m (src * 65536 + o) := by
  have hsorted : Map.sorted m = true := ((Tab.wf_iff 0 m).1 h).1
  have hgone : Tab.get 0 (m.filter (fun e => e.1 / 65536 != dst)) (dst * 65536 + o) = 0 :=
    (Tab.get_filter 0 m (fun k => k / 65536 != dst) _).trans (if_neg (by simp; omega))
  have hmine : Map.find (m.filter (fun e => e.1 / 65536 == src)) (src * 65536 + o) = Map.find m (src * 65536 + o) :=
    (Map.find_filter m (fun k => k / 65536 == src) _).trans (if_pos (by simp; omega))
  rw [copyPage, get_copied (fun e he => by simpa using (List.mem_filter.1 he).2) (Map.sorted_filter hsorted _), hgone, hmine, Tab.get]

/-! ## A frame that holds no cached page -/

/-- The frames are in order, and frame `k` is a context's local memory. -/
def LocalAt (s : State) (k ctx : Nat) : Prop := Map.sorted s.vm.frames = true ∧ Map.find s.vm.frames k = some (plainFrame .loc ctx)

section LocalAt

variable {s t : State} {k ctx : Nat}

theorem localAt_of_frames (h : t.vm.frames = s.vm.frames) (hs : LocalAt s k ctx) : LocalAt t k ctx := by
  rw [LocalAt, h]
  exact hs

theorem localAt_setFrame (h : Map.sorted s.vm.frames = true) : LocalAt (setFrame s k (plainFrame .loc ctx)) k ctx :=
  ⟨Map.sorted_insert h _ _, find_setFrame ..⟩

/-- The frame that caches a page is another one. -/
theorem frameOfPage_ne (h : LocalAt s k ctx) {page f : Nat} {x : Frame} (hf : frameOfPage s page = some (f, x)) : f ≠ k := by
  rintro rfl
  have hmem : (f, x) ∈ s.vm.frames := List.mem_of_find?_eq_some hf
  have hst := List.find?_some hf
  obtain rfl : plainFrame .loc ctx = x := Option.some.inj (h.2.symm.trans (Map.find_of_mem h.1 hmem))
  simp [plainFrame] at hst

theorem localAt_frameDirty (h : LocalAt s k ctx) (line : Nat) : LocalAt (frameDirty s line) k ctx := by
  unfold frameDirty
  split
  · rename_i f fr hf
    split_ifs
    · exact ⟨Map.sorted_insert h.1 _ _, (Map.find_insert_ne _ _ (frameOfPage_ne h hf).symm).trans h.2⟩
    · exact h
  · exact h

theorem localAt_recallLine (h : LocalAt s k ctx) {line : Nat} (hs : Silent s line) : LocalAt (recallLine s line) k ctx := by
  unfold recallLine
  rw [settleLine_silent hs]
  dsimp only
  split_ifs
  · exact h
  · exact localAt_frameDirty h line
  · exact h

theorem localAt_putNum (h : LocalAt s k ctx) {key n x : Nat} (hs : Silent s (lineOf key)) : LocalAt (putNum s key n x) k ctx := by
  have hwrite : LocalAt (homeWrite s (lineOf key)) k ctx := by
    refine localAt_of_frames (congrArg Vm.frames (homePut_vm ..)) (localAt_frameDirty ?_ _)
    exact localAt_of_frames (grantNote_frames ..) (localAt_recallLine h hs)
  change LocalAt (if 2 ^ 64 ≤ key then s else homeWrite s (lineOf key)) k ctx
  split_ifs
  · exact h
  · exact hwrite

end LocalAt

/-! ## Lines that move, one after another -/

/-- A page's lines on their way to page `dst`, before anything but the lines has changed of `s`: no message but of a line at its new
home is on its way, and frame `dst` is local. -/
structure LinesMove (s u : State) (src dst ctx : Nat) : Prop where
  mem : u.mem = s.mem
  halos : ∀ line, line / 65536 = src → haloOwner u line = none
  msgs : ∀ m ∈ u.coh.msgs, m.line / 65536 = dst
  frame : LocalAt u dst ctx

theorem haloOwner_of_ctxs {s t : State} (h : t.ctxs = s.ctxs) (key : Nat) : haloOwner t key = haloOwner s key := by
  rw [haloOwner, h, haloOwner]

theorem ctxs_of_apart {s t : State} (h : apart t = apart s) : t.ctxs = s.ctxs := (congrArg State.ctxs h :)

/-- The regions' pages have followed a page's move: no byte of the page lies in one. -/
theorem haloOwner_moveHalos {src dst : Nat} (hne : src ≠ dst) (s : State) {line : Nat} (hline : line / 65536 = src) :
    haloOwner (moveHalos s src dst) line = none := by
  have hmap (map : List (Nat × Nat)) : vaOfKey (map.map (fun p => if p.2 == src then (p.1, dst) else p)) line = none := by
    rw [vaOfKey, hline, List.find?_eq_none.2, Option.map_none]
    intro e he
    obtain ⟨p, -, rfl⟩ := List.mem_map.1 he
    split_ifs with hp
    · simpa using hne.symm
    · exact hp
  simp only [haloOwner, moveHalos, Map.mapVals, List.findSome?_map, List.findSome?_eq_none_iff, Function.comp_apply, hmap,
    implies_true]

/-- A line that leaves MIGR at its new home, before the requests that wait for it are taken (R280). -/
def lineMoved (s : State) (old new : Nat) : State :=
  let t := setDir (setDir s old Dir.init) new { Dir.init with fog := (dirOf s old).fog }
  { t with coh := { t.coh with
      msgs := t.coh.msgs.map (Msg.moved old new), waitBuf := t.coh.waitBuf.map (Msg.moved old new)
      retries := t.coh.retries.map (Msg.moved old new)
      l1 := t.coh.l1.foldl (fun m e => Map.insert m (if e.1 % 2 ^ 64 = old then l1Key (e.1 / 2 ^ 64) new else e.1) e.2) [] } }

theorem leaveMigr_eq (s : State) (old new : Nat) : leaveMigr s old new = serveLine (lineMoved s old new) new := rfl

theorem lineMoved_msgs (s : State) (old new : Nat) : (lineMoved s old new).coh.msgs = s.coh.msgs.map (Msg.moved old new) := rfl

theorem lineMoved_mem (s : State) (old new : Nat) : (lineMoved s old new).mem = s.mem := rfl

theorem lineMoved_vm (s : State) (old new : Nat) : (lineMoved s old new).vm = s.vm := rfl

theorem lineMoved_ctxs (s : State) (old new : Nat) : (lineMoved s old new).ctxs = s.ctxs := rfl

theorem enterMigr_plain {s : State} {line : Nat} (h : haloOwner s line = none) :
    enterMigr s line = setDir (recallLine s line) line { dirOf (recallLine s line) line with st := .migr } := by
  rw [enterMigr, h]
  rfl

theorem linesMove_enter {s u : State} {src dst ctx line : Nat} (hsilent : Silent u line) (hline : line / 65536 = src)
    (h : LinesMove s u src dst ctx) : LinesMove s (enterMigr u line) src dst ctx ∧ Silent (enterMigr u line) line := by
  have hbeside : beside (enterMigr u line) = beside u := by
    rw [enterMigr_plain (h.halos line hline)]
    exact (beside_setDir ..).trans (beside_recallLine hsilent)
  refine ⟨⟨(mem_of_beside hbeside).trans h.mem, fun l hl => ?_, (msgs_of_beside hbeside) ▸ h.msgs, ?_⟩, silent_of_beside hbeside hsilent⟩
  · rw [haloOwner_of_ctxs (ctxs_of_apart (apart_of_beside hbeside))]
    exact h.halos l hl
  · rw [enterMigr_plain (h.halos line hline)]
    exact localAt_of_frames rfl (localAt_recallLine h.frame hsilent)

theorem linesMove_leave {s u : State} {src dst ctx line new : Nat} (hsilent : Silent u line) (hnew : new / 65536 = dst)
    (h : LinesMove s u src dst ctx) : LinesMove s (leaveMigr u line new) src dst ctx := by
  rw [leaveMigr_eq]
  constructor
  · rw [serveLine_mem, lineMoved_mem, h.mem]
  · intro l hl
    rw [haloOwner_of_ctxs (ctxs_of_apart (apart_serveLine ..)), haloOwner_of_ctxs (lineMoved_ctxs ..)]
    exact h.halos l hl
  · intro m hm
    obtain hm | rfl := serveLine_msgs hm
    · obtain ⟨x, hx, rfl⟩ := List.mem_map.1 (lineMoved_msgs u line new ▸ hm)
      rw [Msg.moved, if_neg (hsilent x hx)]
      exact h.msgs x hx
    · exact hnew
  · exact localAt_of_frames ((serveLine_frames ..).trans (congrArg Vm.frames (lineMoved_vm ..))) h.frame

theorem linesMove_step {s u : State} {src dst ctx line new : Nat} (hne : src ≠ dst) (h : LinesMove s u src dst ctx)
    (hline : line / 65536 = src) (hnew : new / 65536 = dst) : LinesMove s (leaveMigr (enterMigr u line) line new) src dst ctx := by
  have hsilent : Silent u line := by
    rintro m hm rfl
    exact hne (hline.symm.trans (h.msgs m hm))
  obtain ⟨henter, hsilent'⟩ := linesMove_enter hsilent hline h
  exact linesMove_leave hsilent' hnew henter

theorem linesMove_all {s u : State} {src dst ctx : Nat} (hne : src ≠ dst) {lines : List Nat} (hlines : ∀ line ∈ lines, line / 65536 = src)
    (h : LinesMove s u src dst ctx) :
    LinesMove s (lines.foldl (fun t line => leaveMigr (enterMigr t line) line (dst * 65536 + line % 65536)) u) src dst ctx := by
  induction lines generalizing u with
  | nil => exact h
  | cons line rest ih =>
    exact ih (fun l hl => hlines l (List.mem_cons_of_mem _ hl)) (linesMove_step hne h (hlines line List.mem_cons_self) (by omega))

theorem pageLines_page {page line : Nat} (h : line ∈ pageLines page) : line / 65536 = page := by
  obtain ⟨j, hj, rfl⟩ := List.mem_map.1 h
  have hj := List.mem_range.1 hj
  omega

/-! ## A page that moves (R302) -/

/-- A state ready for the lines of page `src` to move: the marks and the regions have followed, and page `dst` has no copy. -/
def pageReady (s : State) (src dst : Nat) : State := moveHalos (recallLines (moveMarks s src dst) (pageLines dst)) src dst

/-- The lines of page `src` have moved. -/
def pageLinesMoved (s : State) (src dst : Nat) : State :=
  (pageLines src).foldl (fun t line => leaveMigr (enterMigr t line) line (dst * 65536 + line % 65536)) (pageReady s src dst)

/-- The bytes and the write-grant bit of page `src` have moved. -/
def pageBytesMoved (s : State) (src dst : Nat) : State :=
  let g := Tab.get false s.vm.wgrant src
  { s with mem := copyPage s.mem src dst
           vm := { s.vm with wgrant := Tab.set false (if g then Tab.set false s.vm.wgrant dst true else s.vm.wgrant) src false } }

/-- The frame that cached a page is free. -/
def frameLeft (s : State) (page : Nat) : State :=
  match frameOfPage s page with
  | some (f, _) => dropFrame s f
  | none => s

theorem frameLeft_mem (s : State) (page : Nat) : (frameLeft s page).mem = s.mem := by
  unfold frameLeft
  split <;> rfl

theorem frameLeft_msgs (s : State) (page : Nat) : (frameLeft s page).coh.msgs = s.coh.msgs := by
  unfold frameLeft
  split <;> rfl

theorem localAt_frameLeft {s : State} {k ctx : Nat} (h : LocalAt s k ctx) (page : Nat) : LocalAt (frameLeft s page) k ctx := by
  unfold frameLeft
  split
  · rename_i f x hf
    exact ⟨Map.sorted_erase h.1 f, (Map.find_erase_ne _ (frameOfPage_ne h hf).symm).trans h.2⟩
  · exact h

theorem localAt_recallLines {s : State} {k ctx : Nat} (hmsgs : s.coh.msgs = []) (h : LocalAt s k ctx) (lines : List Nat) :
    LocalAt (recallLines s lines) k ctx := by
  induction lines generalizing s with
  | nil => exact h
  | cons line rest ih =>
    have hsilent : Silent s line := fun m hm => by simp [hmsgs] at hm
    exact ih ((msgs_of_beside (beside_recallLine hsilent)).trans hmsgs) (localAt_recallLine h hsilent)

/-- The leaf word of a page that has moved to page `dst` of a home. -/
def movedLeaf (e dst home : Nat) : Nat := e % 4 + home * 4 + (e / 16 % 4096 * 16) + dst * 65536

/-- What follows once a page's lines have moved: its bytes, its write-grant bit, its frame, its leaf and its translations (R280, R302). -/
def restMoved (s : State) (ctx vpn a e src dst home : Nat) : State :=
  let g := Tab.get false s.vm.wgrant src
  let t := { s with mem := copyPage s.mem src dst
                    vm := { s.vm with wgrant := Tab.set false (if g then Tab.set false s.vm.wgrant dst true else s.vm.wgrant) src false } }
  let u := match frameOfPage t src with
    | some (f, _) => dropFrame t f
    | none => t
  invalidate (putNum u a 8 (e % 4 + home * 4 + (e / 16 % 4096 * 16) + dst * 65536)) ctx vpn 1

theorem restMoved_eq (s : State) (ctx vpn a e src dst home : Nat) : restMoved s ctx vpn a e src dst home =
    invalidate (putNum (frameLeft (pageBytesMoved s src dst) src) a 8 (movedLeaf e dst home)) ctx vpn 1 := rfl

/-- A page that moves with no byte of an external agent and no line of a region. -/
theorem movePage_plain {s : State} {src : Nat} (hext : ∀ x ∈ s.extBytes, x.1 / 65536 ≠ src)
    (hhalo : ∀ line ∈ pageLines src, haloOwner s line = none) (ctx vpn a e dst home : Nat) :
    movePage s ctx vpn a e src dst home =
      invalidate (putNum (frameLeft (pageBytesMoved (pageLinesMoved s src dst) src dst) src) a 8 (movedLeaf e dst home)) ctx vpn 1 := by
  have hnone : (s.extBytes.map (fun x => lineOf x.1)).eraseDups.filter (fun line => line / 65536 == src) = [] := by
    refine List.filter_eq_nil_iff.2 fun line hline => ?_
    obtain ⟨x, hx, rfl⟩ := List.mem_map.1 (List.mem_eraseDups.1 hline)
    simpa [lineOf_page] using hext x hx
  have howned : (pageLines src).filter (fun line => (haloOwner s line).isSome) = [] :=
    List.filter_eq_nil_iff.2 fun line hline => by simp [hhalo line hline]
  rw [movePage, hnone, List.foldl_nil, howned, List.foldl_nil, ← pageReady, ← pageLinesMoved]
  generalize pageLinesMoved s src dst = u
  exact restMoved_eq u ctx vpn a e src dst home

theorem moveMarks_mem (s : State) (src dst : Nat) : (moveMarks s src dst).mem = s.mem := rfl
theorem moveMarks_msgs (s : State) (src dst : Nat) : (moveMarks s src dst).coh.msgs = s.coh.msgs := rfl
theorem moveMarks_frames (s : State) (src dst : Nat) : (moveMarks s src dst).vm.frames = s.vm.frames := rfl
theorem moveHalos_mem (s : State) (src dst : Nat) : (moveHalos s src dst).mem = s.mem := rfl
theorem moveHalos_msgs (s : State) (src dst : Nat) : (moveHalos s src dst).coh.msgs = s.coh.msgs := rfl
theorem moveHalos_frames (s : State) (src dst : Nat) : (moveHalos s src dst).vm.frames = s.vm.frames := rfl
theorem pageBytesMoved_mem (s : State) (src dst : Nat) : (pageBytesMoved s src dst).mem = copyPage s.mem src dst := rfl
theorem pageBytesMoved_msgs (s : State) (src dst : Nat) : (pageBytesMoved s src dst).coh.msgs = s.coh.msgs := rfl
theorem pageBytesMoved_frames (s : State) (src dst : Nat) : (pageBytesMoved s src dst).vm.frames = s.vm.frames := rfl
theorem invalidate_mem (s : State) (ctx lo n : Nat) : (invalidate s ctx lo n).mem = s.mem := rfl
theorem invalidate_frames (s : State) (ctx lo n : Nat) : (invalidate s ctx lo n).vm.frames = s.vm.frames := rfl

section Move

variable {s : State} {src dst ctx : Nat} (hmsgs : s.coh.msgs = []) (hne : src ≠ dst) (hframe : LocalAt s dst ctx)
include hmsgs hne hframe

theorem linesMove_ready : LinesMove s (pageReady s src dst) src dst ctx := by
  have hsilent : ∀ line ∈ pageLines dst, Silent (moveMarks s src dst) line := fun line _ m hm => by rw [moveMarks_msgs, hmsgs] at hm; cases hm
  have hbeside := beside_recallLines hsilent
  have hnone : (pageReady s src dst).coh.msgs = [] := by
    rw [pageReady, moveHalos_msgs, msgs_of_beside hbeside, moveMarks_msgs, hmsgs]
  have hlocal : LocalAt (recallLines (moveMarks s src dst) (pageLines dst)) dst ctx :=
    localAt_recallLines ((moveMarks_msgs ..).trans hmsgs) (localAt_of_frames (moveMarks_frames ..) hframe) _
  refine ⟨?_, fun line hline => haloOwner_moveHalos hne _ hline, fun m hm => (by rw [hnone] at hm; cases hm),
    localAt_of_frames (moveHalos_frames ..) hlocal⟩
  rw [pageReady, moveHalos_mem, mem_of_beside hbeside, moveMarks_mem]

theorem linesMove_done : LinesMove s (pageLinesMoved s src dst) src dst ctx :=
  linesMove_all hne (fun _ => pageLines_page) (linesMove_ready hmsgs hne hframe)

/-- What a page's move to frame `dst` leaves: the bytes and the leaf in memory, the frame the context's, and no held translation. -/
theorem moved_spec {vpn a e : Nat} (ha : a / 65536 ≠ dst) :
    let t := invalidate (putNum (frameLeft (pageBytesMoved (pageLinesMoved s src dst) src dst) src) a 8 e) ctx vpn 1
    t.mem = writeNum (copyPage s.mem src dst) a 8 e ∧ LocalAt t dst ctx
      ∧ ∀ x ∈ t.vm.tlb ++ t.vm.tlb2, ¬ (x.ctx = ctx ∧ x.vpn = vpn) := by
  have hlines := linesMove_done hmsgs hne hframe
  have hlocal : LocalAt (frameLeft (pageBytesMoved (pageLinesMoved s src dst) src dst) src) dst ctx :=
    localAt_frameLeft (localAt_of_frames (pageBytesMoved_frames ..) hlines.frame) src
  have hsilent : Silent (frameLeft (pageBytesMoved (pageLinesMoved s src dst) src dst) src) (lineOf a) := by
    intro m hm hline
    rw [frameLeft_msgs, pageBytesMoved_msgs] at hm
    have hdst := hlines.msgs m hm
    rw [hline, lineOf_page] at hdst
    exact ha hdst
  have hmem : (frameLeft (pageBytesMoved (pageLinesMoved s src dst) src dst) src).mem = copyPage s.mem src dst := by
    rw [frameLeft_mem, pageBytesMoved_mem, hlines.mem]
  refine ⟨?_, localAt_of_frames (invalidate_frames ..) (localAt_putNum hlocal hsilent), fun x hx => ?_⟩
  · rw [invalidate_mem, putNum_silent_mem hsilent, hmem]
  · simp only [invalidate, ← List.filter_append, List.mem_filter, inPages_one] at hx
    exact fun hmine => by simp [hmine] at hx

end Move

/-- A page of the pool moves to the lowest frame of the local pool. -/
theorem migratePage_local {s : State} {root ctx vpn slot k : Nat} (hwalk : walkTo s.mem root (vpn * 65536) = some (slot, false))
    (hleaf : pteLeaf false (readNum s.mem slot 8) = true) (hhome : pteHome (readNum s.mem slot 8) = 1)
    (hwait : migrWaits s (ptePa (readNum s.mem slot 8) / 65536) = false) (hk : lowestIn s .pooled = some k) :
    migratePage s root ctx vpn false 0 = .moved (movePage (setFrame s k (plainFrame .loc ctx)) ctx vpn slot (readNum s.mem slot 8)
      (ptePa (readNum s.mem slot 8) / 65536) k 0) := by
  simp only [migratePage, hwalk, hleaf, hhome, hwait, hk, Bool.not_true, Bool.or_false, Bool.false_eq_true, ne_eq, not_true_eq_false,
    if_false]

theorem movedLeaf_lt {e k : Nat} (hk : k < 2 ^ 22) : movedLeaf e k 0 < 256 ^ 8 := by
  unfold movedLeaf
  omega

end Sys2Proof.Machine
end

section
/-! PROOFS. `PGMIGRATE` and `CSHEET` as words (R302, R307, R313, R315). -/

namespace Sys2Proof.Machine

/-! ## What a migration leaves of the waves (R280, R302) -/

@[simp] theorem running_pullHalo (s : State) (line : Nat) : running (pullHalo s line) = running s := by
  change running (collectHalo s line) = running s
  unfold collectHalo
  dsimp only
  split_ifs
  · rfl
  · exact running_frameDirty s line

@[simp] theorem running_recallLines (s : State) (lines : List Nat) : running (recallLines s lines) = running s :=
  running_foldl lines recallLine running_recallLine s

@[simp] theorem running_enterMigr (s : State) (line : Nat) : running (enterMigr s line) = running s := by
  unfold enterMigr
  dsimp only
  split_ifs <;> simp

@[simp] theorem running_leaveMigr (s : State) (old new : Nat) : running (leaveMigr s old new) = running s := by
  rw [leaveMigr_eq, running_serveLine]
  rfl

@[simp] theorem running_moveHalos (s : State) (src dst : Nat) : running (moveHalos s src dst) = running s := rfl

@[simp] theorem running_moveMarks (s : State) (src dst : Nat) : running (moveMarks s src dst) = running s := rfl

@[simp] theorem running_invalidate (s : State) (ctx lo n : Nat) : running (invalidate s ctx lo n) = running s := rfl

@[simp] theorem running_frameLeft (s : State) (page : Nat) : running (frameLeft s page) = running s := by
  unfold frameLeft
  split <;> rfl

theorem running_restMoved (s : State) (ctx vpn a e src dst home : Nat) : running (restMoved s ctx vpn a e src dst home) = running s := by
  rw [restMoved_eq, running_invalidate, running_putNum, running_frameLeft]
  rfl

theorem running_movePage (s : State) (ctx vpn a e src dst home : Nat) : running (movePage s ctx vpn a e src dst home) = running s := by
  rw [movePage]
  dsimp only
  generalize hext : List.foldl (fun t line => extTouch t line (bit e 8)) s _ = t
  generalize hready : List.foldl pullHalo (recallLines (moveMarks t src dst) (pageLines dst)) _ = r
  generalize hlines : List.foldl _ (moveHalos r src dst) (pageLines src) = u
  have hu : running u = running s := by
    rw [← hlines, running_foldl _ _ (fun _ _ => by simp), running_moveHalos, ← hready, running_foldl _ _ running_pullHalo,
      running_recallLines, running_moveMarks, ← hext]
    exact running_foldl _ _ (fun _ _ => running_extTouch ..) s
  exact (running_restMoved u ctx vpn a e src dst home).trans hu

theorem running_migratePage {s t : State} {root ctx vpn pool : Nat} {toPool : Bool} (h : migratePage s root ctx vpn toPool pool = .moved t) :
    running t = running s := by
  unfold migratePage at h
  split at h
  · cases h
  · dsimp only at h
    split_ifs at h
    · cases h
      rw [running_setFrame, running_movePage]
    · split at h <;> cases h
      rw [running_movePage, running_setFrame]

theorem running_migratePages {root ctx n : Nat} {toPool : Bool} {s u : State} {vpn pool k why : Nat}
    (h : migratePages root ctx toPool n s vpn pool = some (u, k, why)) : running u = running s := by
  induction n generalizing s vpn pool k with
  | zero => cases h; rfl
  | succ n ih =>
    rw [migratePages] at h
    split at h
    · cases h
    · cases h; rfl
    · rename_i t ht
      obtain ⟨⟨v, j, r⟩, hq, heq⟩ := Option.map_eq_some_iff.1 h
      cases heq
      exact (ih hq).trans (running_migratePage ht)

/-! ## `PGMIGRATE` (R313) -/

theorem exec_pgmigrate_moves {s t u : State} {w : Wave} {f : Frag} {c : Ctx} {d a : SReg} {key n why : Nat} (hI : Issues s w f)
    (hp : w.priv = .s) (hc : ctxOf s (ctxIdOf s w.gid) = some c) (hal : (rdP w a.toNat).toNat % 32 = 0)
    (hread : access s w.core w.slot (ctxIdOf s w.gid) .s (rdP w a.toNat).toNat 32 .read false = (t, .ok key))
    (hvalid : migrValid (ofBytes (loadBytes t w.core key 32)) = true)
    (hmove : let r := ofBytes (loadBytes t w.core key 32)
      migratePages c.desc.ptRoot (ctxIdOf s w.gid) (bit r 72) (bits r 70 64) t (bits r 56 16) (bits r 179 144) = some (u, n, why)) :
    exec (.pgmigrate d a) s = answer u d (n + why * 256) := by
  rw [← access_ctxIdOf hread] at hmove
  refine (onPriv_issues hI hp hc _).trans ((if_neg (not_not.2 hal)).trans ((sAccess_ok f _ (by rw [hp]; exact hread)).trans ?_))
  dsimp only
  rw [if_neg (by simp [hvalid]), hmove]

/-- One page of the pool moves to the lowest frame of the local pool. -/
theorem migratePages_one {s : State} {root ctx vpn slot k : Nat} (hmem : MemOk s) (hframes : Map.sorted s.vm.frames = true)
    (hwalk : walkTo s.mem root (vpn * 65536) = some (slot, false)) (hleaf : pteLeaf false (readNum s.mem slot 8) = true)
    (hhome : pteHome (readNum s.mem slot 8) = 1) (hwait : migrWaits s (ptePa (readNum s.mem slot 8) / 65536) = false)
    (hk : lowestIn s .pooled = some k) (hk22 : k < 2 ^ 22) (hset : Settled s) (hslot : slot / 65536 ≠ k) (hslot7 : (slot + 7) / 65536 ≠ k)
    (hsrc : ptePa (readNum s.mem slot 8) / 65536 ≠ k)
    (hhalo : ∀ line ∈ pageLines (ptePa (readNum s.mem slot 8) / 65536), haloOwner s line = none)
    (hext : ∀ x ∈ s.extBytes, x.1 / 65536 ≠ ptePa (readNum s.mem slot 8) / 65536) :
    ∃ t, migratePages root ctx false 1 s vpn 0 = some (t, 1, 0)
      ∧ (∀ o, o < 65536 → Tab.get 0 t.mem (65536 * k + o) = Tab.get 0 s.mem (65536 * (ptePa (readNum s.mem slot 8) / 65536) + o))
      ∧ readNum t.mem slot 8 = readNum s.mem slot 8 % 4 + readNum s.mem slot 8 / 16 % 4096 * 16 + 65536 * k
      ∧ Map.find t.vm.frames k = some (plainFrame .loc ctx) ∧ ∀ x ∈ t.vm.tlb ++ t.vm.tlb2, ¬ (x.ctx = ctx ∧ x.vpn = vpn) := by
  have hlocal : LocalAt (setFrame s k (plainFrame .loc ctx)) k ctx := localAt_setFrame hframes
  obtain ⟨htmem, htframe, htlb⟩ := moved_spec (s := setFrame s k (plainFrame .loc ctx)) (vpn := vpn)
    (e := movedLeaf (readNum s.mem slot 8) k 0) (msgs_of_settled hset) hsrc hlocal hslot
  have hmove := migratePage_local (ctx := ctx) hwalk hleaf hhome hwait hk
  rw [movePage_plain (s := setFrame s k (plainFrame .loc ctx)) hext hhalo] at hmove
  have hout : ∀ o, o < 65536 → k * 65536 + o < slot ∨ slot + 8 ≤ k * 65536 + o := by omega
  refine ⟨_, by rw [migratePages, hmove]; rfl, fun o ho => ?_, ?_, htframe.2, htlb⟩
  · rw [htmem, Nat.mul_comm 65536 k, writeNum_outside _ _ _ _ _ (hout o ho), Nat.mul_comm 65536]
    exact copyPage_get hmem _ k ho
  · rw [htmem, readNum_writeNum, Nat.mod_eq_of_lt (movedLeaf_lt hk22), movedLeaf]
    omega

/-! ## `CSHEET` (R307, R315) -/

/-- A state with other sheets of a context. -/
def withSheets (t : State) (ctx : Nat) (c : Ctx) (m : Map Sheet) : State := { t with ctxs := Map.insert t.ctxs ctx { c with sheets := m } }

theorem modSheets_eq {t : State} {ctx : Nat} {c : Ctx} (hc : ctxOf t ctx = some c) (g : Map Sheet → Map Sheet) :
    modSheets t ctx g = withSheets t ctx c (g c.sheets) := by
  unfold ctxOf at hc
  simp only [modSheets, Map.modify, hc, withSheets]

theorem running_withSheets (t : State) (ctx : Nat) (c : Ctx) (m : Map Sheet) : running (withSheets t ctx c m) = running t := rfl

/-- The slot that a request names. -/
def sheetSlot (r : Nat) : Nat := bits r 87 85

theorem sheetBytes_length (sh : Sheet) : (sheetBytes sh).length = 2 * sh.pages := by
  simp [sheetBytes, List.length_flatMap, toBytes_length, Nat.mul_comm]

theorem running_of_access {s t : State} {core slot ctx va n : Nat} {priv : Priv} {k : AccKind} {claim : Bool} {r : AccRes}
    (h : access s core slot ctx priv va n k claim = (t, r)) : running t = running s := by
  rw [← running_access s core slot ctx priv va n k claim, h]

theorem running_storeBytes (s : State) (core key : Nat) (bs : List Byte) : running (storeBytes s core key bs) = running s := by
  unfold storeBytes
  split_ifs <;> rfl

/-- Bytes of at most a line are written by one access. -/
theorem sWriteLines_one {s t : State} {w : Wave} {va key fuel : Nat} {bs : List Byte} {yes : State → Out} (f : Frag) (hbs : bs ≠ [])
    (hlen : bs.length ≤ 128)
    (h : access s w.core w.slot (ctxIdOf s w.gid) w.priv (BitVec.ofNat 64 va).toNat bs.length .update false = (t, .ok key)) :
    sWriteLines (fuel + 1) s w f va bs yes = yes (storeBytes t w.core key bs) := by
  have hend (u : State) (v : Nat) : sWriteLines fuel u w f v [] yes = yes u := by
    cases fuel with
    | zero => rfl
    | succ n => exact if_pos rfl
  have htake : bs.take 128 = bs := List.take_of_length_le hlen
  rw [sWriteLines, if_neg hbs, htake, sAccess_ok f _ h, List.drop_of_length_le hlen, hend]

/-- What a word's answer leaves. -/
theorem answer_spec {t : State} {w : Wave} {f : Frag} {d : SReg} {x : Nat} (hI : Issues t w f) :
    ∃ v, answer t d x = .next (putWave t v) ∧ Moved t.cur.b w v f f.flags (f.pc + 4)
      ∧ (∀ n, rdS v n = setReg w d.toNat (BitVec.ofNat 32 x) n) ∧ ∀ n, rdM v f n = rdM w f n := by
  let u := acted t (wrS w d.toNat (BitVec.ofNat 32 x))
  have hu : u = { w with sregs := (wrS w d.toNat (BitVec.ofNat 32 x)).sregs, spin := 0, demoted := false, age := u.age } := by
    simp only [u, acted, spinReset]
    rw [wrS_eq]
  obtain ⟨v, hv, hmoved, hregs, hmasks⟩ := goTo_spec t w u f f (f.pc + 4) rfl (by rw [hu]; cases t.cur.b <;> rfl) (by rw [hu])
  refine ⟨v, (actedWith_issues hI _).trans hv, hmoved, fun n => (hregs n).trans ?_, fun n => (hmasks n).trans ?_⟩
  · exact rdS_wrS w d.toNat n (BitVec.ofNat 32 x)
  · exact rdM_wrS w f d.toNat n (BitVec.ofNat 32 x)

section Sheets

variable {s t : State} {w : Wave} {f : Frag} {c : Ctx} {d a : SReg} {key : Nat} (hI : Issues s w f)
  (hal : (rdP w a.toNat).toNat % 32 = 0)
  (hread : access s w.core w.slot (ctxIdOf s w.gid) w.priv (rdP w a.toNat).toNat 32 .read false = (t, .ok key))
include hI hal hread

variable (hc : ctxOf t (ctxIdOf s w.gid) = some c)
include hc

theorem csheet_decl_used (hvalid : sheetValid .decl (ofBytes (loadBytes t w.core key 32)) = true)
    (h : Map.find c.sheets (sheetSlot (ofBytes (loadBytes t w.core key 32))) ≠ none) : exec (.csheet d a .decl) s = answer t d 1 := by
  obtain ⟨sh, hsh⟩ := Option.ne_none_iff_exists'.1 h
  rw [sheetSlot] at hsh
  refine (onFrag_issues hI _).trans ((if_neg (not_not.2 hal)).trans ((sAccess_ok f _ hread).trans ?_))
  simp [access_ctxIdOf hread, hc, hvalid, hsh]

theorem csheet_decl_full (hvalid : sheetValid .decl (ofBytes (loadBytes t w.core key 32)) = true)
    (h : Map.find c.sheets (sheetSlot (ofBytes (loadBytes t w.core key 32))) = none)
    (hfull : 2 ^ 20 < c.sheets.foldl (fun n e => n + e.2.pages) (bits (ofBytes (loadBytes t w.core key 32)) 84 64)) :
    exec (.csheet d a .decl) s = answer t d 2 := by
  rw [sheetSlot] at h
  refine (onFrag_issues hI _).trans ((if_neg (not_not.2 hal)).trans ((sAccess_ok f _ hread).trans ?_))
  simp only [access_ctxIdOf hread, hc, hvalid, h, Option.map_some, Option.getD_some, Bool.not_true, Bool.false_eq_true, if_false,
    if_pos hfull]

theorem csheet_decl_new (hvalid : sheetValid .decl (ofBytes (loadBytes t w.core key 32)) = true)
    (h : Map.find c.sheets (sheetSlot (ofBytes (loadBytes t w.core key 32))) = none)
    (hroom : c.sheets.foldl (fun n e => n + e.2.pages) (bits (ofBytes (loadBytes t w.core key 32)) 84 64) ≤ 2 ^ 20) :
    let r := ofBytes (loadBytes t w.core key 32)
    exec (.csheet d a .decl) s = answer (withSheets t (ctxIdOf s w.gid) c
      (Map.insert c.sheets (sheetSlot r) { base := bits r 56 0, pages := bits r 84 64, marks := [] })) d 0 := by
  rw [sheetSlot] at h
  refine (onFrag_issues hI _).trans ((if_neg (not_not.2 hal)).trans ((sAccess_ok f _ hread).trans ?_))
  simp only [access_ctxIdOf hread, hc, hvalid, h, Option.map_some, Option.getD_some, Bool.not_true, Bool.false_eq_true, if_false,
    if_neg (Nat.not_lt.2 hroom), modSheets_eq hc, sheetSlot]

theorem csheet_drop_none (hvalid : sheetValid .drop (ofBytes (loadBytes t w.core key 32)) = true)
    (h : Map.find c.sheets (sheetSlot (ofBytes (loadBytes t w.core key 32))) = none) : exec (.csheet d a .drop) s = answer t d 1 := by
  rw [sheetSlot] at h
  refine (onFrag_issues hI _).trans ((if_neg (not_not.2 hal)).trans ((sAccess_ok f _ hread).trans ?_))
  simp [access_ctxIdOf hread, hc, hvalid, h]

theorem csheet_drop (hvalid : sheetValid .drop (ofBytes (loadBytes t w.core key 32)) = true)
    (h : Map.find c.sheets (sheetSlot (ofBytes (loadBytes t w.core key 32))) ≠ none) :
    exec (.csheet d a .drop) s = answer (withSheets t (ctxIdOf s w.gid) c
      (Map.erase c.sheets (sheetSlot (ofBytes (loadBytes t w.core key 32))))) d 0 := by
  obtain ⟨sh, hsh⟩ := Option.ne_none_iff_exists'.1 h
  rw [sheetSlot] at hsh ⊢
  refine (onFrag_issues hI _).trans ((if_neg (not_not.2 hal)).trans ((sAccess_ok f _ hread).trans ?_))
  simp [access_ctxIdOf hread, hc, hvalid, hsh, modSheets_eq hc]

theorem csheet_snapshot_none (hvalid : sheetValid .snapshot (ofBytes (loadBytes t w.core key 32)) = true)
    (h : Map.find c.sheets (sheetSlot (ofBytes (loadBytes t w.core key 32))) = none) :
    exec (.csheet d a .snapshot) s = answer t d 0xFFFFFFFF := by
  rw [sheetSlot] at h
  refine (onFrag_issues hI _).trans ((if_neg (not_not.2 hal)).trans ((sAccess_ok f _ hread).trans ?_))
  simp [access_ctxIdOf hread, hc, hvalid, h]

/-- A snapshot that one access writes answers over the state that it leaves. -/
theorem csheet_snapshot {sh : Sheet} {u : State} {k : Nat} (hvalid : sheetValid .snapshot (ofBytes (loadBytes t w.core key 32)) = true)
    (h : Map.find c.sheets (sheetSlot (ofBytes (loadBytes t w.core key 32))) = some sh) (hpages : 1 ≤ sh.pages) (hone : sh.pages ≤ 64)
    (hwrite : access (withSheets t (ctxIdOf s w.gid) c (Map.insert c.sheets (sheetSlot (ofBytes (loadBytes t w.core key 32)))
      { sh with marks := [] })) w.core w.slot (ctxIdOf s w.gid) w.priv
      (BitVec.ofNat 64 (bits (ofBytes (loadBytes t w.core key 32)) 184 128)).toNat (2 * sh.pages) .update false = (u, .ok k)) :
    AnswersIn (.csheet d a .snapshot) s (storeBytes u w.core k (sheetBytes sh)) w f d (BitVec.ofNat 32 sh.pages) := by
  have hIt : Issues t w f := issues_of_running (running_of_access hread) hI
  have hIu : Issues u w f := issues_of_running ((running_of_access hwrite).trans (running_withSheets ..)) hIt
  have hstored : Issues (storeBytes u w.core k (sheetBytes sh)) w f := issues_of_running (running_storeBytes ..) hIu
  have hcur : (storeBytes u w.core k (sheetBytes sh)).cur = s.cur := by
    have hread' := access_cur hread
    rw [storeBytes_cur, access_cur hwrite]
    exact hread'
  obtain ⟨v, hv, hmoved, hregs, hmasks⟩ := answer_spec (d := d) (x := sh.pages) hstored
  rw [hcur] at hmoved
  refine ⟨v, ?_, hmoved, hregs, hmasks⟩
  have hwaves : waveAt (putWave (storeBytes u w.core k (sheetBytes sh)) v) w.core w.slot = some v := by
    rw [hmoved.frame]
    exact waveAt_putWave ..
  have hctx (m : Map Sheet) : ctxIdOf (withSheets t (ctxIdOf s w.gid) c m) w.gid = ctxIdOf s w.gid := access_ctxIdOf hread w.gid
  have hlines := sWriteLines_one (bs := sheetBytes sh) (s := withSheets t (ctxIdOf s w.gid) c (Map.insert c.sheets _ { sh with marks := [] }))
     (fuel := 2 * sh.pages / 128) (yes := fun v => answer v d sh.pages) f
    (List.length_pos_iff.1 (by rw [sheetBytes_length]; omega)) (by rw [sheetBytes_length]; omega)
    (by rw [sheetBytes_length, hctx]; exact hwrite)
  rw [sheetSlot] at h hlines
  refine (onFrag_issues hI _).trans ((if_neg (not_not.2 hal)).trans ((sAccess_ok f _ hread).trans ?_))
  simp only [access_ctxIdOf hread, hc, hvalid, h, Option.map_some, Option.getD_some, Bool.not_true, Bool.false_eq_true, if_false,
    modSheets_eq hc, hlines, hv, hwaves, Option.bind_some, hmoved.frag, if_true]

end Sheets

/-- Settles O27, the moves and the requests of `CSHEET` from the words' meanings over what their accesses read. -/
theorem migrationAndSheets : Obligations.MigrationAndSheets := by
  refine ⟨⟨?_, fun s root ctx vpn slot k hmem hframes hwalk => ?_⟩, ?_⟩
  · intro s w f c hI hp hc d a t key u n why va hal hread r hvalid hmove
    have hrun := (running_migratePages hmove).trans (running_of_access hread)
    exact answersIn_answer (exec_pgmigrate_moves hI hp hc hal hread hvalid hmove) (issues_of_running hrun hI) (cur_of_running hrun)
  · intro e src hleaf hhome hwait hk hk22 hset hslot hslot7 hsrc hhalo hext
    exact migratePages_one hmem hframes hwalk hleaf hhome hwait hk hk22 hset hslot hslot7 hsrc hhalo hext
  · intro s w f hI d a t key c va ctx hal hread hc r slot total sheets
    have hIt : Issues t w f := issues_of_running (running_of_access hread) hI
    have hcur : t.cur = s.cur := access_cur hread
    exact ⟨fun hv h => answersIn_answer (csheet_decl_used hI hal hread hc hv h) hIt hcur,
      fun hv h hfull => answersIn_answer (csheet_decl_full hI hal hread hc hv h hfull) hIt hcur,
      fun hv h hroom => answersIn_answer (csheet_decl_new hI hal hread hc hv h hroom) hIt hcur,
      fun hv h => answersIn_answer (csheet_drop_none hI hal hread hc hv h) hIt hcur,
      fun hv h => answersIn_answer (csheet_drop hI hal hread hc hv h) hIt hcur,
      fun hv h => answersIn_answer (csheet_snapshot_none hI hal hread hc hv h) hIt hcur,
      fun sh u k hv h h1 h64 hwrite => csheet_snapshot hI hal hread hc hv h h1 h64 hwrite⟩

end Sys2Proof.Machine
end

section
/-! PROOFS. `LYCFG` (R402). -/

namespace Sys2Proof.Machine

/-- A word that counts as an action over an earlier state, and ends with its answer written. -/
theorem answersIn_acted {i : Instr} {s t u : State} {w : Wave} {f : Frag} {d : SReg} {x : Word}
    (h : exec i s = done t (wrS (acted u w) d.toNat x) f) (hcur : t.cur = s.cur) : AnswersIn i s t w f d x := by
  have hacted : acted u w = { w with spin := 0, demoted := false, age := (acted u w).age } := rfl
  refine goTo_scalarDoneAt h hcur ?_ (fun n => rdS_wrS (acted u w) d.toNat n x) (fun n => rdM_wrS (acted u w) f d.toNat n x)
  rw [wrS_eq, hacted]

section Texture

variable {s t0 : State} {w : Wave} {f : Frag} {d a : SReg} {k0 : Nat} {c : Ctx} {t : Layered} (hI : Issues s w f)
  (hal : (rdP w a.toNat).toNat % 64 = 0)
  (hread : access s w.core w.slot (ctxIdOf s w.gid) w.priv (rdP w a.toNat).toNat 64 .read false = (t0, .ok k0))
  (hc : ctxOf t0 (ctxIdOf s w.gid) = some c) (ht : layeredOf c.desc (ofBytes (loadBytes t0 w.core k0 64)) = some t)
include hI hal hread hc ht

/-- The pool's state is read. -/
theorem lycfg_query {u : State} {k : Nat} {p : PoolSt}
    (hpull : access t0 w.core w.slot (ctxIdOf s w.gid) w.priv (BitVec.ofNat 64 t.hdr).toNat 128 .pull false = (u, .ok k))
    (hp : poolState (ofBytes (loadBytes u w.core k 128)) = some p) :
    AnswersIn (.lycfg d a .query) s u w f d (BitVec.ofNat 32 p.live) := by
  rw [← access_ctxIdOf hread] at hc hpull
  refine answersIn_done ?_ ((access_cur hpull).trans (access_cur hread))
  refine (onFrag_issues hI _).trans ((if_neg (not_not.2 hal)).trans ((sAccess_ok f _ hread).trans ?_))
  simp only [hc, ht, sAccess_ok f _ hpull, hp]

section Held

variable {u : State} {k : Nat}
  (hheld : access t0 w.core w.slot (ctxIdOf s w.gid) w.priv (BitVec.ofNat 64 t.hdr).toNat 128 .update false = (u, .ok k))
include hheld

theorem lycfg_grow {p : PoolSt} (hp : poolState (ofBytes (loadBytes u w.core k 128)) = some p)
    (hready : p.pages < t.maxPages ∧ poolPage u c.desc (t.pool + 65536 * p.pages) = true) :
    AnswersIn (.lycfg d a .grow) s (storeNum u w.core k 16 (poolNum { p with pages := p.pages + 1 })) w f d
      (BitVec.ofNat 32 (p.pages + 1)) := by
  have hcur : u.cur = s.cur := (access_cur hheld).trans (access_cur hread)
  rw [← access_ctxIdOf hread] at hc hheld
  refine answersIn_acted (u := u) ?_ ((storeBytes_cur ..).trans hcur)
  refine (onFrag_issues hI _).trans ((if_neg (not_not.2 hal)).trans ((sAccess_ok f _ hread).trans ?_))
  simp only [hc, ht, sUpdate, sAccess_ok f _ hheld, hp, if_pos hready]

theorem lycfg_grow_full {p : PoolSt} (hp : poolState (ofBytes (loadBytes u w.core k 128)) = some p)
    (hready : ¬ (p.pages < t.maxPages ∧ poolPage u c.desc (t.pool + 65536 * p.pages) = true)) :
    AnswersIn (.lycfg d a .grow) s u w f d 0xFFFFFFFF := by
  have hcur : u.cur = s.cur := (access_cur hheld).trans (access_cur hread)
  rw [← access_ctxIdOf hread] at hc hheld
  refine answersIn_done ?_ hcur
  refine (onFrag_issues hI _).trans ((if_neg (not_not.2 hal)).trans ((sAccess_ok f _ hread).trans ?_))
  simp only [hc, ht, sUpdate, sAccess_ok f _ hheld, hp, if_neg hready]

/-- A header array of one line is cleared, and the state follows it. -/
theorem lycfg_init {v : State} {k' : Nat} (hone : 4 * t.width * t.height ≤ 128) (hsome : 1 ≤ t.width * t.height)
    (hline : access u w.core w.slot (ctxIdOf s w.gid) w.priv (BitVec.ofNat 64 (t.hdr + 128)).toNat 128 .update false = (v, .ok k')) :
    AnswersIn (.lycfg d a .init) s
      (storeNum (storeNum v w.core k' (4 * t.width * t.height) 0) w.core k 16
        (poolNum { pages := poolPages v c.desc t.pool t.maxPages, used := 0, freeHead := 0, live := 0 })) w f d
      (BitVec.ofNat 32 (poolPages v c.desc t.pool t.maxPages)) := by
  have hbytes : 4 * t.width * t.height = 4 * (t.width * t.height) := Nat.mul_assoc ..
  have hlines : ceilDiv (4 * t.width * t.height) 128 = 1 := by
    unfold ceilDiv
    omega
  have hcur : v.cur = s.cur := (access_cur hline).trans ((access_cur hheld).trans (access_cur hread))
  rw [← access_ctxIdOf hread] at hc hheld hline
  rw [← access_ctxIdOf hheld] at hline
  refine answersIn_acted (u := storeNum (storeNum v w.core k' (4 * t.width * t.height) 0) w.core k 16
    (poolNum { pages := poolPages v c.desc t.pool t.maxPages, used := 0, freeHead := 0, live := 0 })) ?_ ((storeBytes_cur ..).trans ((storeBytes_cur ..).trans hcur))
  refine (onFrag_issues hI _).trans ((if_neg (not_not.2 hal)).trans ((sAccess_ok f _ hread).trans ?_))
  simp only [hc, ht, sUpdate, sAccess_ok f _ hheld, hlines, sLines, sAccess_ok f _ hline, clearHeads, List.foldl_nil]
  rfl

end Held

end Texture

/-- Settles O31, each form from what its accesses reach. -/
theorem layerConfiguration : Obligations.LayerConfiguration := by
  intro s w f hI d a t0 k0 c t va ctx hal hread hc ht hdr
  exact ⟨fun u k p hpull hp => lycfg_query hI hal hread hc ht hpull hp, fun u k hheld =>
    ⟨fun p hp => ⟨lycfg_grow hI hal hread hc ht hheld hp, lycfg_grow_full hI hal hread hc ht hheld hp⟩,
      fun v k' hone hsome hline => lycfg_init hI hal hread hc ht hheld hone hsome hline⟩⟩

end Sys2Proof.Machine
end

section
/-! PROOFS. Transfer slots (R14, R102, R320) and `MLOOP` (R351). -/

namespace Sys2Proof.Machine

section Slot

variable (s : State) (core slot : Nat) (o : EngOp) (l : List XRange)

/-- The core as the operation in its slot leaves it. -/
theorem coreOf_takeSlot : coreOf (takeSlot s core slot o l).1 core
    = addLocks { coreOf s core with ops := Map.insert (coreOf s core).ops slot o, serial := (coreOf s core).serial + 1 }
        (xLocks slot o.ctx o.gid l) :=
  coreOf_putCore_self ..

theorem takeSlot_self : Map.find (coreOf (takeSlot s core slot o l).1 core).ops slot = some o := by
  rw [coreOf_takeSlot]
  exact Map.find_insert_self ..

theorem takeSlot_ne {j : Nat} (h : j ≠ slot) :
    Map.find (coreOf (takeSlot s core slot o l).1 core).ops j = Map.find (coreOf s core).ops j := by
  rw [coreOf_takeSlot]
  exact Map.find_insert_ne _ _ h

theorem coreOf_takeSlot_ne {j : Nat} (h : j ≠ core) : coreOf (takeSlot s core slot o l).1 j = coreOf s j :=
  coreOf_putCore_ne _ _ h

theorem teamOf_takeSlot (gid team : Nat) : teamOf (takeSlot s core slot o l).1 core gid team = teamOf s core gid team := by
  rw [teamOf, coreOf_takeSlot]
  rfl

end Slot

/-- The handle of an operation at issue (R320). -/
theorem engHandle_of_serial {o : EngOp} {serial : BitVec 22} (h : o.serial = serial) (slot : Nat) :
    engHandle o slot = BitVec.ofNat 32 (slot + 1024 * serial.toNat) := by
  rw [engHandle, h, Nat.mul_comm]

theorem ops_joinTeam (s : State) (w : Wave) (x : TeamWord) : (coreOf (joinTeam s w x) w.core).ops = (coreOf s w.core).ops := by
  unfold joinTeam putTeam
  dsimp only
  split_ifs <;> rw [coreOf_putCore_self]

theorem joinTeam_cur (s : State) (w : Wave) (x : TeamWord) : (joinTeam s w x).cur = s.cur := by
  unfold joinTeam putTeam
  dsimp only
  split_ifs <;> rfl

/-- A word that ends with its answer written and counts as an action over an earlier state. -/
theorem answersIn_acted_wrS {i : Instr} {s t u : State} {w : Wave} {f : Frag} {d : SReg} {x : Word}
    (h : exec i s = done t (acted u (wrS w d.toNat x)) f) (hcur : t.cur = s.cur) : AnswersIn i s t w f d x := by
  have hwave : acted u (wrS w d.toNat x) = { w with sregs := (wrS w d.toNat x).sregs, spin := 0, demoted := false,
                                                    age := (acted u (wrS w d.toNat x)).age } := by
    rw [acted, spinReset, wrS_eq]
  exact goTo_scalarDoneAt h hcur (by rw [hwave]) (rdS_wrS w d.toNat · x) (rdM_wrS w f d.toNat · x)

/-- The operation of an `MLOOP` at issue (R351). -/
def loopOp (s : State) (w : Wave) (q r va fmt : Nat) : EngOp :=
  { engNew s w .mloop q (BitVec.ofNat 512 r) va with fmt := BitVec.ofNat 256 fmt, team := teamIdxOf w }

/-- A span of the group's scratch, as a range that is read. -/
def scratchSpan (a : Int × Int) : XRange := { scr := true, lo := a.1.toNat, hi := a.2.toNat, dst := false }

/-- The spans of a loop's operands (R351). -/
def loopSpans (w : Wave) (l : LoopDesc) (fb : Fmt) : (Int × Int) × (Int × Int) :=
  let kk := stepK fb.aType fb.bType
  (loopSpan l.aOff l.aInc l.steps (kk * (ltypeBits fb.aType / 8)) (32 * teamSizeOf w),
   loopSpan l.bOff l.bInc l.steps (kk * (ltypeBits fb.bType / 8)) (32 * teamSizeOf w))

/-- A span lies within the group's scratch. -/
def inScratch (s : State) (w : Wave) (a : Int × Int) : Prop :=
  0 ≤ a.1 ∧ a.2 ≤ (((groupOf s w.gid).map (·.scratchBytes)).getD 0 : Nat)

/-- A loop that is issued takes its slot, then joins its team. -/
theorem exec_mloop_issues {s t u : State} {w : Wave} {f : Frag} {d a : SReg} {q : BitVec 2} {k0 k1 slot : Nat} {fb : Fmt}
    {p : State × Word} (hI : Issues s w f)
    (hal : (rdP w a.toNat).toNat % 64 = 0)
    (hread : access s w.core w.slot (ctxIdOf s w.gid) w.priv (rdP w a.toNat).toNat 64 .read false = (t, .ok k0))
    (hteam : teamSizeOf w ≠ 0) (hvalid : loopValid (ofBytes (loadBytes t w.core k0 64)) = true)
    (hfal : (loopDesc (ofBytes (loadBytes t w.core k0 64))).fmt % 32 = 0)
    (hfread : access t w.core w.slot (ctxIdOf s w.gid) w.priv
      (BitVec.ofNat 64 (loopDesc (ofBytes (loadBytes t w.core k0 64))).fmt).toNat 32 .read false = (u, .ok k1))
    (hfmt : fmtOf (ofBytes (loadBytes u w.core k1 32)) = some fb) (hregs : (mmaRegs fb.aType fb.bType).isSome = true)
    (hA : inScratch u w (loopSpans w (loopDesc (ofBytes (loadBytes t w.core k0 64))) fb).1)
    (hB : inScratch u w (loopSpans w (loopDesc (ofBytes (loadBytes t w.core k0 64))) fb).2)
    (hfree : freeOpSlot (coreOf u w.core) = some slot) (hlive : (teamOf u w.core w.gid (teamIdxOf w)).any (·.dissolved) = false)
    (hp : takeSlot u w.core slot (loopOp u w q.toNat (ofBytes (loadBytes t w.core k0 64)) (rdP w a.toNat).toNat
        (ofBytes (loadBytes u w.core k1 32)))
      [scratchSpan (loopSpans w (loopDesc (ofBytes (loadBytes t w.core k0 64))) fb).1,
       scratchSpan (loopSpans w (loopDesc (ofBytes (loadBytes t w.core k0 64))) fb).2] = p) :
    exec (.mloop d a q) s = done (joinTeam p.1 w (.mloop p.2.toNat)) (acted p.1 (wrS w d.toNat p.2)) f := by
  rw [← access_ctxIdOf hread] at hfread
  obtain ⟨hA0, hA1⟩ := hA
  obtain ⟨hB0, hB1⟩ := hB
  have hlive' : ¬ (teamOf p.1 w.core w.gid (teamIdxOf w)).any (·.dissolved) = true := by
    rw [← hp, teamOf_takeSlot, hlive]
    exact Bool.false_ne_true
  refine (onFrag_issues hI _).trans ((if_neg (not_not.2 hal)).trans ((sAccess_ok f _ hread).trans ?_))
  refine (if_neg (not_or.2 ⟨hteam, by simp [hvalid]⟩)).trans ((if_neg (not_not.2 hfal)).trans ((sAccess_ok f _ hfread).trans ?_))
  simp only [hfmt, hfree]
  subst hp
  refine (if_neg (by simpa using Option.isSome_iff_ne_none.1 hregs)).trans ((if_neg ?_).trans (if_neg hlive'))
  exact not_or.2 ⟨not_lt.2 hA0, not_or.2 ⟨not_lt.2 hB0, not_or.2 ⟨not_lt.2 hA1, not_lt.2 hB1⟩⟩⟩

/-- Settles O30, from the slot that the loop takes and the team that it joins. -/
theorem matrixLoopIssues : Obligations.MatrixLoopIssues := by
  intro s w f hI d a q t k0 u k1 fb slot va ctx hal hread r l hteam hvalid hfal hfread hfmt hregs kk sa sb size hsa hsb hsa' hsb' hfree hlive h
  have hcur : u.cur = s.cur := (access_cur hfread).trans (access_cur hread)
  have hexec := exec_mloop_issues (d := d) (q := q) hI hal hread hteam hvalid hfal hfread hfmt hregs ⟨hsa, hsa'⟩ ⟨hsb, hsb'⟩ hfree hlive rfl
  generalize hp : takeSlot u w.core slot (loopOp u w q.toNat r va.toNat (ofBytes (loadBytes u w.core k1 32)))
    [scratchSpan (loopSpans w l fb).1, scratchSpan (loopSpans w l fb).2] = p at hexec
  have hhandle : p.2 = BitVec.ofNat 32 h := by
    rw [← hp]
    exact engHandle_of_serial rfl slot
  obtain ⟨tm, m, htm, hm, hwave, hlast⟩ := joinTeam_member p.1 w (.mloop p.2.toNat)
  rw [hhandle] at hexec htm hlast
  refine ⟨_, loopOp u w q.toNat r va.toNat (ofBytes (loadBytes u w.core k1 32)), tm, m,
    answersIn_acted_wrS hexec ((joinTeam_cur ..).trans (by rw [← hp]; exact hcur)), ?_, rfl, rfl, rfl, rfl, rfl, rfl, htm, hm, hwave, hlast,
    (joinTeam_rest ..).2.trans (by rw [← hp]; rfl)⟩
  rw [ops_joinTeam, ← hp]
  exact takeSlot_self ..

end Sys2Proof.Machine
end

section
/-! PROOFS. Completion records and the end of an engine operation (R321, R324, R327). -/

namespace Sys2Proof.Machine

/-- A wave but for its place, for what its fragments wait on, and for the records, traps and counts that an engine changes. -/
def calm (w : Wave) : Wave :=
  { w with fragA := w.fragA.map (fun f => { f with wait := .none }), fragB := w.fragB.map (fun f => { f with wait := .none }),
           core := 0, slot := 0, stack := [], shadow := { w.shadow with wait := .none }, held := [], evqs := [], spin := 0, demoted := false, age := 0 }

theorem rdS_of_calm {v w : Wave} (h : calm v = calm w) (n : Nat) : rdS v n = rdS w n := by
  have hregs : v.sregs = w.sregs := (congrArg Wave.sregs h :)
  rw [rdS, rdS, hregs]

theorem fragOf_calm (w : Wave) (b : Bool) : fragOf (calm w) b = (fragOf w b).map (fun f => { f with wait := .none }) := by
  cases b <;> rfl

theorem calm_mapFrags {g : Frag → Frag} (hg : ∀ f, { g f with wait := .none } = { f with wait := .none }) (w : Wave) :
    calm (mapFrags w g) = calm w := by
  simp [calm, mapFrags, Option.map_map, Function.comp_def, hg]

theorem calm_putEvq (w : Wave) (n : Nat) (q : EvQ) : calm (putEvq w n q) = calm w := rfl

theorem calm_wakeFrags (s : State) (w : Wave) (p : Wait → Bool) : calm (wakeFrags s w p) = calm w := by
  unfold wakeFrags
  split_ifs
  · refine (show calm (spinReset s _) = calm _ from rfl).trans (calm_mapFrags (fun f => ?_) w)
    split_ifs <;> rfl
  · rfl

theorem wakeFrags_evqs (s : State) (w : Wave) (p : Wait → Bool) : (wakeFrags s w p).evqs = w.evqs := by
  unfold wakeFrags
  split_ifs <;> rfl

theorem wakeFrags_place (s : State) (w : Wave) (p : Wait → Bool) : (wakeFrags s w p).core = w.core ∧ (wakeFrags s w p).slot = w.slot := by
  unfold wakeFrags
  split_ifs <;> exact ⟨rfl, rfl⟩

/-- The waves of `t` are those of `s`, each but for what an engine changes of it. -/
def SameWaves (s t : State) : Prop := ∀ k, (Map.find t.waves k).map calm = (Map.find s.waves k).map calm

theorem SameWaves.trans {s t u : State} (h : SameWaves s t) (h' : SameWaves t u) : SameWaves s u := fun k => (h' k).trans (h k)

theorem sameWaves_mapWaves {g : Wave → Wave} (hg : ∀ w, calm (g w) = calm w) (s : State) : SameWaves s (mapWaves s g) := by
  intro k
  rw [mapWaves, Map.find_mapVals, Option.map_map]
  exact congrArg (Option.map · _) (funext hg)

theorem sameWaves_putWave {s : State} {w v : Wave} (hw : waveAt s v.core v.slot = some w) (hv : calm v = calm w) : SameWaves s (putWave s v) := by
  obtain ⟨x, hx, rfl⟩ := Option.map_eq_some_iff.1 hw
  intro k
  by_cases hk : k = 64 * v.core + v.slot
  · rw [hk, hx, putWave, Map.find_insert_self, Option.map_some, hv]
    rfl
  · rw [putWave, Map.find_insert_ne _ _ hk]

/-- The issuing fragment still stands where it did. -/
theorem issues_of_sameWaves {s t : State} {w : Wave} {f : Frag} (h : SameWaves s t) (hcur : t.cur = s.cur) (hI : Issues s w f) :
    ∃ v g, Issues t v g ∧ calm v = calm w ∧ g.pc = f.pc ∧ g.flags = f.flags ∧ g.m0 = f.m0 := by
  obtain ⟨hw, hf⟩ := hI
  obtain ⟨x, hx, rfl⟩ := Option.map_eq_some_iff.1 hw
  have hk := h (64 * s.cur.core + s.cur.slot)
  rw [hx, Option.map_some] at hk
  obtain ⟨y, hy, hcalm⟩ := Option.map_eq_some_iff.1 hk
  have hfrag := fragOf_calm y s.cur.b
  have hf' : fragOf x s.cur.b = some f := by
    rw [← hf]
    cases s.cur.b <;> rfl
  rw [hcalm, fragOf_calm, hf', Option.map_some] at hfrag
  obtain ⟨g, hg, heq⟩ := Option.map_eq_some_iff.1 hfrag.symm
  refine ⟨{ y with core := s.cur.core, slot := s.cur.slot }, g, ⟨?_, ?_⟩, hcalm, (congrArg Frag.pc heq :), (congrArg Frag.flags heq :),
    (congrArg Frag.m0 heq :)⟩
  · rw [waveAt, hcur, hy, Option.map_some]
  · rw [hcur, ← hg]
    cases s.cur.b <;> rfl

/-! ## Locks and pins -/

theorem dropLocks_none (c : Core) (op : Nat) : ∀ k ∈ (dropLocks c op).locks ++ (dropLocks c op).overflow, k.op ≠ op := by
  intro k hk
  rw [dropLocks, List.append_assoc, List.take_append_drop, List.mem_append, List.mem_filter, List.mem_filter] at hk
  rcases hk with ⟨-, hne⟩ | ⟨-, hne⟩ <;> simpa using hne

theorem unpinAll_eq (s : State) (pages : List Nat) (v : Vm) : { unpinAll s pages with vm := v } = { s with vm := v } := by
  refine foldl_keeps (fun t => { t with vm := v }) pages unpinPage (fun t page => ?_) s
  rw [unpinPage]
  split <;> rfl

theorem unpinAll_waves (s : State) (pages : List Nat) : (unpinAll s pages).waves = s.waves := (congrArg State.waves (unpinAll_eq s pages s.vm) :)
theorem unpinAll_cores (s : State) (pages : List Nat) : (unpinAll s pages).cores = s.cores := (congrArg State.cores (unpinAll_eq s pages s.vm) :)

/-- The parts of a state that the end of an operation changes, set aside. -/
def offEngine (s : State) : State := { s with waves := [], cores := [], vm := State.reset.vm }

@[simp] theorem offEngine_unpinAll (s : State) (pages : List Nat) : offEngine (unpinAll s pages) = offEngine s :=
  congrArg (fun t : State => { t with waves := [], cores := [] }) (unpinAll_eq s pages State.reset.vm)

@[simp] theorem offEngine_mapWaves (s : State) (g : Wave → Wave) : offEngine (mapWaves s g) = offEngine s := rfl
@[simp] theorem offEngine_putWave (s : State) (w : Wave) : offEngine (putWave s w) = offEngine s := rfl
@[simp] theorem offEngine_putCore (s : State) (core : Nat) (c : Core) : offEngine (putCore s core c) = offEngine s := rfl

/-! ## Records -/

/-- The wave `w` with a record more in an event queue, woken if it waits for one (R324). -/
def recordIn (s : State) (w : Wave) (q : Nat) (r : BitVec 256) : Wave :=
  wakeFrags s (putEvq w q { evqOf w q with recs := (evqOf w q).recs ++ [r] }) (fun x => x == .evwait q)

theorem calm_recordIn (s : State) (w : Wave) (q : Nat) (r : BitVec 256) : calm (recordIn s w q r) = calm w :=
  (calm_wakeFrags ..).trans (calm_putEvq ..)

theorem evqs_recordIn (s : State) (w : Wave) (q : Nat) (r : BitVec 256) :
    (recordIn s w q r).evqs = (putEvq w q { evqOf w q with recs := (evqOf w q).recs ++ [r] }).evqs :=
  wakeFrags_evqs ..

theorem recordIn_place (s : State) (w : Wave) (q : Nat) (r : BitVec 256) :
    (recordIn s w q r).core = w.core ∧ (recordIn s w q r).slot = w.slot :=
  wakeFrags_place ..

theorem evqOf_recordIn (s : State) (w : Wave) (q : Nat) (r : BitVec 256) : (evqOf (recordIn s w q r) q).recs = (evqOf w q).recs ++ [r] := by
  rw [evqOf, evqs_recordIn, putEvq, Tab.get_set_self]

section Post

variable {s : State} {gid wv q : Nat} {r : BitVec 256} {w : Wave} (hw : waveOf s gid wv = some w)
include hw

theorem postRecord_room (h : (evqOf w q).recs.length < (evqOf w q).depth) : postRecord s gid wv q r = some (putWave s (recordIn s w q r)) := by
  simp only [postRecord, hw]
  exact if_pos h

theorem postRecord_full (h : (evqOf w q).depth ≤ (evqOf w q).recs.length) : postRecord s gid wv q r = none := by
  simp only [postRecord, hw]
  exact if_neg (not_lt.2 h)

end Post

/-- A record that is posted changes its wave at most. -/
theorem postRecord_some {s t : State} {gid wv q : Nat} {r : BitVec 256} (h : postRecord s gid wv q r = some t) :
    t = s ∨ ∃ w, waveOf s gid wv = some w ∧ t = putWave s (recordIn s w q r) := by
  unfold postRecord at h
  split at h
  case h_1 =>
    split_ifs at h
    exact .inl (Option.some.inj h).symm
  case h_2 w hw =>
    dsimp only at h
    split_ifs at h
    exact .inr ⟨w, hw, (Option.some.inj h).symm⟩

/-! ## The end of an operation -/

/-- A fragment that waits for a transfer slot or for pins goes on. -/
def slotFreed (f : Frag) : Frag :=
  match f.wait with
  | .engineSlot => { f with wait := .none }
  | .pins => { f with wait := .none }
  | _ => f

theorem slotFreed_stands (f : Frag) : { slotFreed f with wait := .none } = { f with wait := .none } := by
  unfold slotFreed
  split <;> rfl

section Release

variable {s : State} {core slot : Nat} {o : EngOp} (ho : Map.find (coreOf s core).ops slot = some o)
include ho

theorem releaseOp_eq : releaseOp s core slot
    = mapWaves (unpinAll (putCore s core (dropLocks { coreOf s core with ops := Map.erase (coreOf s core).ops slot } slot)) (o.pinned.map (·.2)))
        (fun w => mapFrags w slotFreed) := by
  simp only [releaseOp, ho]
  rfl

theorem coreOf_releaseOp : coreOf (releaseOp s core slot) core = dropLocks { coreOf s core with ops := Map.erase (coreOf s core).ops slot } slot := by
  rw [releaseOp_eq ho]
  simp only [coreOf, mapWaves, unpinAll_cores]
  exact coreOf_putCore_self ..

theorem releaseOp_waves : (releaseOp s core slot).waves = Map.mapVals s.waves (fun _ w => mapFrags w slotFreed) := by
  rw [releaseOp_eq ho]
  simp only [mapWaves, unpinAll_waves]
  rfl

theorem releaseOp_sameWaves : SameWaves s (releaseOp s core slot) := by
  intro k
  rw [releaseOp_waves ho, Map.find_mapVals, Option.map_map]
  exact congrArg (Option.map · _) (funext (calm_mapFrags slotFreed_stands))

end Release

@[simp] theorem offEngine_releaseOp (s : State) (core slot : Nat) : offEngine (releaseOp s core slot) = offEngine s := by
  cases ho : Map.find (coreOf s core).ops slot with
  | none => simp only [releaseOp, ho]
  | some o => simp [releaseOp_eq ho]

/-- The operation in a slot as it waits for a place for its record. -/
def waitsPlace (o : EngOp) (r : BitVec 256) : EngOp := { o with st := .waitPlace, final := some r }

section Finish

variable {s : State} {core slot status cause va : Nat} {o : EngOp} (ho : Map.find (coreOf s core).ops slot = some o)
include ho

theorem finishOp_posted {t : State} (h : postRecord s o.gid o.wave o.q (engRecord o slot status cause va) = some t) :
    finishOp s core slot status cause va = releaseOp t core slot := by
  simp only [finishOp, ho, h]

theorem finishOp_kept (h : postRecord s o.gid o.wave o.q (engRecord o slot status cause va) = none) :
    finishOp s core slot status cause va = putOp s core slot (waitsPlace o (engRecord o slot status cause va)) := by
  simp only [finishOp, ho, h]
  rfl

/-- The record is posted: the operation is gone with its locks, and its wave has the record. -/
theorem finishOp_room {w : Wave} (hw : waveOf s o.gid o.wave = some w) (h : (evqOf w o.q).recs.length < (evqOf w o.q).depth) :
    Map.find (coreOf (finishOp s core slot status cause va) core).ops slot = none
    ∧ (∀ k ∈ (coreOf (finishOp s core slot status cause va) core).locks ++ (coreOf (finishOp s core slot status cause va) core).overflow, k.op ≠ slot)
    ∧ ∃ v, Map.find (finishOp s core slot status cause va).waves (64 * w.core + w.slot) = some v
      ∧ (evqOf v o.q).recs = (evqOf w o.q).recs ++ [engRecord o slot status cause va] := by
  rw [finishOp_posted ho (postRecord_room hw h)]
  generalize hv : recordIn s w o.q (engRecord o slot status cause va) = v
  have ho' : Map.find (coreOf (putWave s v) core).ops slot = some o := ho
  have hplace := recordIn_place s w o.q (engRecord o slot status cause va)
  have hrecs := evqOf_recordIn s w o.q (engRecord o slot status cause va)
  rw [hv] at hplace hrecs
  rw [coreOf_releaseOp ho', releaseOp_waves ho']
  refine ⟨?_, dropLocks_none _ _, mapFrags v slotFreed, ?_, hrecs⟩
  · exact Map.find_erase_self ..
  · rw [Map.find_mapVals, putWave, hplace.1, hplace.2, Map.find_insert_self, Option.map_some]

/-- The queue has no place: the operation keeps its slot with its record. -/
theorem finishOp_full {w : Wave} (hw : waveOf s o.gid o.wave = some w) (h : (evqOf w o.q).depth ≤ (evqOf w o.q).recs.length) :
    Map.find (coreOf (finishOp s core slot status cause va) core).ops slot = some (waitsPlace o (engRecord o slot status cause va)) := by
  rw [finishOp_kept ho (postRecord_full hw h), putOp, coreOf_putCore_self]
  exact Map.find_insert_self ..

theorem finishOp_sameWaves (hplace : ∀ w, waveOf s o.gid o.wave = some w → waveAt s w.core w.slot = some w) :
    SameWaves s (finishOp s core slot status cause va) := by
  cases hpost : postRecord s o.gid o.wave o.q (engRecord o slot status cause va) with
  | none =>
    rw [finishOp_kept ho hpost]
    exact fun k => rfl
  | some t =>
    rw [finishOp_posted ho hpost]
    rcases postRecord_some hpost with rfl | ⟨w, hw, rfl⟩
    · exact releaseOp_sameWaves ho
    · obtain ⟨hcore, hslot⟩ := recordIn_place s w o.q (engRecord o slot status cause va)
      refine SameWaves.trans (sameWaves_putWave (w := w) ?_ (calm_recordIn ..)) (releaseOp_sameWaves (o := o) ho)
      rw [hcore, hslot]
      exact hplace w hw

theorem offEngine_finishOp : offEngine (finishOp s core slot status cause va) = offEngine s := by
  cases hpost : postRecord s o.gid o.wave o.q (engRecord o slot status cause va) with
  | none => rw [finishOp_kept ho hpost, putOp, offEngine_putCore]
  | some t =>
    rw [finishOp_posted ho hpost, offEngine_releaseOp]
    rcases postRecord_some hpost with rfl | ⟨w, -, rfl⟩ <;> rfl

end Finish

/-! ## Held traps -/

theorem dropHeld_sameWaves (s : State) (core op : Nat) : SameWaves s (dropHeld s core op) := by
  unfold dropHeld
  refine sameWaves_mapWaves ?_ s
  exact fun _ => rfl

@[simp] theorem offEngine_dropHeld (s : State) (core op : Nat) : offEngine (dropHeld s core op) = offEngine s := rfl

theorem coreOf_dropHeld (s : State) (core op c : Nat) : coreOf (dropHeld s core op) c = coreOf s c := rfl

theorem find_dropHeld {s : State} {k : Nat} {v : Wave} (core op : Nat) (h : Map.find s.waves k = some v) :
    ∃ x, Map.find (dropHeld s core op).waves k = some x ∧ x.evqs = v.evqs := by
  rw [dropHeld, mapWaves, Map.find_mapVals, h]
  exact ⟨_, rfl, rfl⟩

end Sys2Proof.Machine
end

section
/-! PROOFS. Transfers and event queues (R319, R320, R327 to R329). -/

namespace Sys2Proof.Machine

/-! ## Issue (R320) -/

theorem readIdx_cur {w : Wave} {n : Nat} {s u : State} {va : Nat} {r : Except (AccRes × Nat) (List Nat)} (h : readIdx s w va n = (u, r)) :
    u.cur = s.cur := by
  induction n generalizing s va u r with
  | zero =>
    obtain ⟨rfl, rfl⟩ := Prod.mk.inj h
    rfl
  | succ n ih =>
    rw [readIdx] at h
    cases hacc : access s w.core w.slot (ctxIdOf s w.gid) w.priv va 4 .pull false with
    | mk t a =>
    rw [hacc] at h
    rw [← access_cur hacc]
    cases a with
    | ok key =>
      dsimp only at h
      cases hrest : readIdx t w (va + 4) n with
      | mk v b =>
      rw [hrest] at h
      cases b <;> exact (Prod.mk.inj h).1 ▸ ih hrest
    | fault | miss | claimed | hole | wait => exact (Prod.mk.inj h).1 ▸ rfl

/-- The operation of a transfer word at issue (R320). -/
def transferOp (s : State) (w : Wave) (k : EngKind) (q r va : Nat) (idxs : List Nat) : EngOp :=
  { engNew s w k q (BitVec.ofNat 512 r) va with idxs := idxs }

section Transfer

variable {s t u : State} {w : Wave} {f : Frag} {k : EngKind} {d a : SReg} {q : BitVec 2} {key r : Nat} {idxs : List Nat} (hI : Issues s w f)
  (hal : (rdP w a.toNat).toNat % 64 = 0)
  (hread : access s w.core w.slot (ctxIdOf s w.gid) w.priv (rdP w a.toNat).toNat 64 .read false = (t, .ok key))
  (hr : ofBytes (loadBytes t w.core key 64) = r) (hvalid : xValid k r = true) (hidx : xIndexed k = true → (xdesc r).idx % 4 = 0)
  (hidxs : readIdx t w (xdesc r).idx (if xIndexed k then (xdesc r).rows else 0) = (u, .ok idxs))
  (hcheck : xCheck k (xdesc r) (xRanges k (xdesc r) idxs) (((groupOf u w.gid).map (·.scratchBytes)).getD 0) = none)
include hI hal hread hr hvalid hidx hidxs hcheck

theorem transferWord_checked : transferWord k d a q s =
    match freeOpSlot (coreOf u w.core), pinPages u w.core (ctxIdOf u w.gid) w.priv [] (xPages k (xdesc r) idxs) with
    | some slot, some _ =>
      let p := takeSlot u w.core slot (transferOp u w k q.toNat r (rdP w a.toNat).toNat idxs) (xRanges k (xdesc r) idxs)
      done p.1 (acted p.1 (wrS w d.toNat p.2)) f
    | _, _ => blocked u w f .engineSlot := by
  subst hr
  refine (onFrag_issues hI _).trans ((if_neg (not_not.2 hal)).trans ((sAccess_ok f _ hread).trans ?_))
  refine (if_neg (by simp [hvalid])).trans ((if_neg fun h => h.2 (hidx h.1)).trans ?_)
  simp only [hidxs, hcheck]
  rfl

/-- The word takes the slot, with its locks. -/
theorem transferWord_issues {i : Instr} {slot : Nat} (hexec : exec i s = transferWord k d a q s) (hfree : freeOpSlot (coreOf u w.core) = some slot)
    (hpins : (pinPages u w.core (ctxIdOf u w.gid) w.priv [] (xPages k (xdesc r) idxs)).isSome = true) :
    AnswersIn i s (takeSlot u w.core slot (transferOp u w k q.toNat r (rdP w a.toNat).toNat idxs) (xRanges k (xdesc r) idxs)).1 w f d
      (BitVec.ofNat 32 (slot + 1024 * (coreOf u w.core).serial.toNat)) := by
  obtain ⟨p, hp⟩ := Option.isSome_iff_exists.1 hpins
  have hgoes := transferWord_checked (d := d) (q := q) hI hal hread hr hvalid hidx hidxs hcheck
  rw [hfree, hp] at hgoes
  refine (engHandle_of_serial (o := transferOp u w k q.toNat r (rdP w a.toNat).toNat idxs) rfl slot) ▸ ?_
  exact answersIn_acted_wrS (hexec.trans hgoes) ((readIdx_cur hidxs).trans (access_cur hread))

/-- The word waits for a slot or for pins. -/
theorem transferWord_waits {i : Instr} (hexec : exec i s = transferWord k d a q s)
    (hfull : freeOpSlot (coreOf u w.core) = none ∨ pinPages u w.core (ctxIdOf u w.gid) w.priv [] (xPages k (xdesc r) idxs) = none) :
    exec i s = .next (putWave u (putFrag w s.cur.b (some { f with wait := .engineSlot }))) := by
  have hcur : u.cur = s.cur := (readIdx_cur hidxs).trans (access_cur hread)
  have hblocked : exec i s = blocked u w f .engineSlot := by
    rw [hexec, transferWord_checked hI hal hread hr hvalid hidx hidxs hcheck]
    split
    next hslot hpins => rcases hfull with h | h <;> simp_all
    · rfl
  rw [hblocked, blocked, hcur]

end Transfer

/-! ## Event queues (R328, R329) -/

theorem takeRecord_eq (w : Wave) (d : Nat) (r : BitVec 256) : takeRecord w d r = { w with sregs := (takeRecord w d r).sregs } := by
  unfold takeRecord
  generalize List.range 8 = l
  induction l using List.reverseRecOn with
  | nil => rfl
  | append_singleton l j ih => rw [List.foldl_append, List.foldl_cons, List.foldl_nil, wrS_eq, ih]

theorem rdS_wrS_range (x : Nat → Word) (w : Wave) (d k n : Nat) : rdS ((List.range k).foldl (fun v j => wrS v (d + j) (x j)) w) n
    = if n = 0 then 0 else if d ≤ n ∧ n < d + k then x (n - d) else rdS w n := by
  induction k with
  | zero =>
    rw [List.range_zero, List.foldl_nil, if_neg (by omega : ¬ (d ≤ n ∧ n < d + 0))]
    split_ifs with hn
    · rw [hn, rdS_zero]
    · rfl
  | succ k ih =>
    rw [List.range_succ, List.foldl_append, List.foldl_cons, List.foldl_nil, rdS_wrS, ih]
    by_cases hn : n = 0
    · rw [if_pos hn, if_pos hn]
    · by_cases hk : n = d + k
      · rw [if_neg hn, if_pos hk, if_neg hn, if_pos ⟨by omega, by omega⟩, hk, Nat.add_sub_cancel_left]
      · rw [if_neg hn, if_neg hk, if_neg hn, if_neg hn]
        exact if_congr (by omega) rfl rfl

section Queues

variable {s : State} {w : Wave} {f : Frag} (hI : Issues s w f)
include hI

theorem popRecord_takes {i : Instr} {d : SReg} {q : BitVec 2} {empty : Wave → Frag → Out} {r : BitVec 256} {rest : List (BitVec 256)}
    (hexec : exec i s = popRecord d q empty s) (hrecs : (evqOf w q.toNat).recs = r :: rest) :
    ScalarDoneAt i s s (putEvq w q.toNat { evqOf w q.toNat with recs := rest }) f
      (fun n => if n = 0 then 0 else if d.toNat ≤ n ∧ n < d.toNat + 8 then (r >>> (32 * (n - d.toNat))).setWidth 32 else rdS w n)
      (rdM w f) f.flags (f.pc + 4) := by
  have hdone : exec i s = done s (takeRecord (putEvq w q.toNat { evqOf w q.toNat with recs := rest }) d.toNat r) f := by
    refine hexec.trans ((onFrag_issues hI _).trans ?_)
    simp only [hrecs]
  refine goTo_scalarDoneAt hdone rfl ?_ (fun n => rdS_wrS_range ..) (fun n => ?_)
  · rw [takeRecord_eq]
  · rw [takeRecord_eq]
    rfl

theorem popRecord_empty {d : SReg} {q : BitVec 2} {empty : Wave → Frag → Out} (hrecs : (evqOf w q.toNat).recs = []) :
    popRecord d q empty s = empty w f := by
  refine (onFrag_issues hI _).trans ?_
  simp only [hrecs]

end Queues

/-- The depth that `EVCFG`'s operand gives a queue (R329). -/
def evDepth (x j : Nat) : Nat := x / 2 ^ (8 * j) % 128

/-- `EVCFG`'s operand keeps the limits (R329). -/
def evWithin (x : Word) : Prop :=
  x &&& 0x80808080 = 0 ∧ evDepth x.toNat 0 + evDepth x.toNat 1 + evDepth x.toNat 2 + evDepth x.toNat 3 ≤ 64

theorem bits_evDepth (x j : Nat) : bits x (8 * j + 6) (8 * j) = evDepth x j := by
  unfold bits evDepth
  rw [show 8 * j + 6 + 1 - 8 * j = 7 by omega]
  rfl

theorem reserved_bits (x : Word) : [7, 15, 23, 31].any (fun i => bit x.toNat i) = false ↔ x &&& 0x80808080 = 0 := by
  have hmask : ∀ i, i < 32 → (0x80808080 : Word).getLsbD i = decide (i ∈ [7, 15, 23, 31]) := by decide
  simp only [bit_toNat, List.any_eq_false, Bool.not_eq_true]
  constructor
  · intro h
    refine BitVec.eq_of_getLsbD_eq fun i hi => ?_
    refine Eq.trans ?_ BitVec.getLsbD_zero.symm
    rw [BitVec.getLsbD_and, hmask i hi]
    by_cases hin : i ∈ [7, 15, 23, 31]
    · rw [h i hin, Bool.false_and]
    · rw [decide_eq_false hin, Bool.and_false]
  · intro h i hin
    have hi : i < 32 := by
      revert i
      decide
    have hbit := congrArg (BitVec.getLsbD · i) h
    simp only [BitVec.getLsbD_and, hmask i hi, decide_eq_true hin, Bool.and_true] at hbit
    exact hbit.trans BitVec.getLsbD_zero

/-- The wave may take new depths: no queue holds more, and none of its operations is in hand (R329). -/
def evFree (s : State) (w : Wave) (x : Nat) : Prop :=
  (∀ j, j < 4 → (evqOf w j).recs.length ≤ evDepth x j) ∧ opsWhere s (fun o => o.gid == w.gid && o.wave == w.ident.waveid.toNat) = []

/-- The wave with new depths of its queues. -/
def evSized (w : Wave) (x : Nat) : Wave := (List.range 4).foldl (fun v q => putEvq v q { evqOf v q with depth := evDepth x q }) w

theorem evqOf_putEvq (w : Wave) (n j : Nat) (q : EvQ) : evqOf (putEvq w n q) j = if j = n then q else evqOf w j := Tab.get_set ..

theorem evqOf_evSized_range (w : Wave) (x n j : Nat) :
    evqOf ((List.range n).foldl (fun v q => putEvq v q { evqOf v q with depth := evDepth x q }) w) j
      = if j < n then { evqOf w j with depth := evDepth x j } else evqOf w j := by
  induction n with
  | zero => rfl
  | succ n ih =>
    rw [List.range_succ, List.foldl_append, List.foldl_cons, List.foldl_nil, evqOf_putEvq]
    by_cases hj : j = n
    · subst hj
      rw [if_pos rfl, ih, if_neg (lt_irrefl j), if_pos (Nat.lt_succ_self j)]
    · rw [if_neg hj, ih]
      exact if_congr (by omega) rfl rfl

theorem evSized_eq (w : Wave) (x : Nat) : evSized w x = { w with evqs := (evSized w x).evqs } := by
  unfold evSized
  generalize List.range 4 = l
  induction l using List.reverseRecOn with
  | nil => rfl
  | append_singleton l q ih =>
    rw [List.foldl_append, List.foldl_cons, List.foldl_nil, putEvq, ih]

section Depths

variable {s : State} {w : Wave} {f : Frag} {d a : SReg} (hI : Issues s w f)
include hI

theorem exec_evcfg_issues : exec (.evcfg d a) s =
    if [7, 15, 23, 31].any (fun i => bit (rdS w a.toNat).toNat i)
        || decide (64 < evDepth (rdS w a.toNat).toNat 0 + evDepth (rdS w a.toNat).toNat 1 + evDepth (rdS w a.toNat).toNat 2
            + evDepth (rdS w a.toNat).toNat 3) then done s (wrS w d.toNat 1) f
    else if (List.range 4).any (fun q => decide (evDepth (rdS w a.toNat).toNat q < (evqOf w q).recs.length))
        || !(opsWhere s (fun o => o.gid == w.gid && o.wave == w.ident.waveid.toNat)).isEmpty then done s (wrS w d.toNat 2) f
    else done s (wrS (evSized w (rdS w a.toNat).toNat) d.toNat 0) f := by
  refine (onFrag_issues hI _).trans ?_
  simp only [bits_evDepth]
  rfl

/-- `EVCFG` refuses depths past the limits. -/
theorem evcfg_over (h : ¬ evWithin (rdS w a.toNat)) : AnswersIn (.evcfg d a) s s w f d 1 := by
  refine answersIn_done ((exec_evcfg_issues hI).trans (if_pos ?_)) rfl
  rw [Bool.or_eq_true, decide_eq_true_iff]
  by_contra hno
  obtain ⟨hbits, hsum⟩ := not_or.1 hno
  exact h ⟨(reserved_bits _).1 (Bool.eq_false_iff.2 hbits), not_lt.1 hsum⟩

theorem exec_evcfg_within (h : evWithin (rdS w a.toNat)) : exec (.evcfg d a) s =
    if (List.range 4).any (fun q => decide (evDepth (rdS w a.toNat).toNat q < (evqOf w q).recs.length))
        || !(opsWhere s (fun o => o.gid == w.gid && o.wave == w.ident.waveid.toNat)).isEmpty then done s (wrS w d.toNat 2) f
    else done s (wrS (evSized w (rdS w a.toNat).toNat) d.toNat 0) f := by
  refine (exec_evcfg_issues hI).trans (if_neg ?_)
  rw [(reserved_bits _).2 h.1, Bool.false_or, decide_eq_true_iff]
  exact not_lt.2 h.2

omit hI in
theorem evBusy_iff (x : Nat) : ((List.range 4).any (fun q => decide (evDepth x q < (evqOf w q).recs.length))
    || !(opsWhere s (fun o => o.gid == w.gid && o.wave == w.ident.waveid.toNat)).isEmpty) = false ↔ evFree s w x := by
  rw [Bool.or_eq_false_iff, List.any_eq_false, evFree]
  refine and_congr ?_ ?_
  · simp only [List.mem_range, decide_eq_true_iff, not_lt]
  · rw [Bool.not_eq_false', List.isEmpty_iff]

theorem evcfg_busy (h : evWithin (rdS w a.toNat)) (hbusy : ¬ evFree s w (rdS w a.toNat).toNat) : AnswersIn (.evcfg d a) s s w f d 2 :=
  answersIn_done ((exec_evcfg_within hI h).trans (if_pos (Bool.not_eq_false _ ▸ mt (evBusy_iff _).1 hbusy))) rfl

theorem evcfg_sets (h : evWithin (rdS w a.toNat)) (hfree : evFree s w (rdS w a.toNat).toNat) :
    ScalarDoneAt (.evcfg d a) s s (evSized w (rdS w a.toNat).toNat) f (setReg w d.toNat 0) (rdM w f) f.flags (f.pc + 4) := by
  have hsized : AnswersIn (.evcfg d a) s s (evSized w (rdS w a.toNat).toNat) f d 0 :=
    answersIn_done ((exec_evcfg_within hI h).trans (if_neg (Bool.eq_false_iff.1 ((evBusy_iff _).2 hfree)))) rfl
  have hregs : setReg (evSized w (rdS w a.toNat).toNat) d.toNat 0 = setReg w d.toNat 0 := by
    rw [evSized_eq]
    rfl
  have hmasks : rdM (evSized w (rdS w a.toNat).toNat) f = rdM w f := by
    rw [evSized_eq]
    rfl
  rw [AnswersIn, hregs, hmasks] at hsized
  exact hsized

end Depths

/-! ## `XCANCEL` (R327) -/

/-- A wave put back with its event queues leaves every wave's event queues. -/
theorem find_putWave_evqs {t : State} {y z x : Wave} {k : Nat} (hy : waveAt t z.core z.slot = some y) (hz : z.evqs = y.evqs)
    (hx : Map.find t.waves k = some x) : ∃ v, Map.find (putWave t z).waves k = some v ∧ v.evqs = x.evqs := by
  by_cases hk : k = 64 * z.core + z.slot
  · subst hk
    rw [waveAt, hx, Option.map_some] at hy
    exact ⟨z, Map.find_insert_self .., hz.trans (congrArg Wave.evqs (Option.some.inj hy)).symm⟩
  · exact ⟨x, (Map.find_insert_ne _ _ hk).trans hx, rfl⟩

/-- An operation that is no drain is cancelled with its record, and its held trap is withdrawn. -/
def cancelled (s : State) (core op : Nat) : State := dropHeld (finishOp s core op 1 0 0) core op

theorem cancelled_cur {s : State} {core op : Nat} {o : EngOp} (ho : Map.find (coreOf s core).ops op = some o) :
    (cancelled s core op).cur = s.cur :=
  (congrArg State.cur (offEngine_finishOp ho) :)

section Cancel

variable {s : State} {w : Wave} {f : Frag} {d a : SReg} (hI : Issues s w f)
include hI

theorem xcancel_unknown (h : ∀ o, Map.find (coreOf s w.core).ops ((rdS w a.toNat).toNat % 1024) = some o →
      ¬ (engHandle o ((rdS w a.toNat).toNat % 1024) = rdS w a.toNat ∧ o.gid = w.gid)) :
    AnswersIn (.xcancel d a) s s w f d 1 := by
  refine answersIn_done ((onFrag_issues hI _).trans ?_) rfl
  simp only [bits_low]
  split
  next o ho => exact if_neg (h o ho)
  · rfl

variable {o : EngOp} (ho : Map.find (coreOf s w.core).ops ((rdS w a.toNat).toNat % 1024) = some o)
  (hhandle : engHandle o ((rdS w a.toNat).toNat % 1024) = rdS w a.toNat) (hgid : o.gid = w.gid) (hkind : o.kind ≠ .drain)
include ho hhandle hgid hkind

theorem exec_xcancel_known : exec (.xcancel d a) s
    = actedWith (cancelled s w.core ((rdS w a.toNat).toNat % 1024)) (fun v => wrS v d.toNat 0) := by
  refine (onFrag_issues hI _).trans ?_
  simp only [bits_low]
  change (match Map.find (coreOf s w.core).ops ((rdS w a.toNat).toNat % 1024) with | some o => _ | none => _) = _
  rw [ho]
  exact (if_pos ⟨hhandle, hgid⟩).trans (congrArg (actedWith · fun v => wrS v d.toNat 0) (if_neg hkind))

variable (hplace : ∀ v, waveOf s o.gid o.wave = some v → waveAt s v.core v.slot = some v)
include hplace

/-- The word answers 0 over the state that the end of the operation leaves. -/
theorem xcancel_answers :
    let t := cancelled s w.core ((rdS w a.toNat).toNat % 1024)
    ∃ y g, Issues t y g ∧ calm y = calm w ∧ g.pc = f.pc ∧ g.flags = f.flags ∧ g.m0 = f.m0 ∧ AnswersIn (.xcancel d a) s t y g d 0 := by
  intro t
  have hsame : SameWaves s t := (finishOp_sameWaves ho hplace).trans (dropHeld_sameWaves _ _ _)
  have hcur : t.cur = s.cur := cancelled_cur ho
  obtain ⟨y, g, hI', hcalm, hg⟩ := issues_of_sameWaves hsame hcur hI
  obtain ⟨hpc, hflags, hm0⟩ := hg
  have hexec := (exec_xcancel_known (d := d) hI ho hhandle hgid hkind).trans (actedWith_issues hI' _)
  exact ⟨y, g, hI', hcalm, hpc, hflags, hm0, answersIn_acts hexec hcur⟩

theorem xcancel_returns : Answers (.xcancel d a) s (fun t => ∃ v g, waveAt t s.cur.core s.cur.slot = some v ∧ fragOf v s.cur.b = some g
    ∧ (∀ n, rdS v n = setReg w d.toNat 0 n) ∧ g.pc = f.pc + 4 ∧ g.flags = f.flags ∧ g.m0 = f.m0) := by
  obtain ⟨y, g, hI', hcalm, hpc, hflags, hm0, v, hv, hmoved, hregs, -⟩ := xcancel_answers (d := d) hI ho hhandle hgid hkind hplace
  obtain ⟨hcore, hslot⟩ := issues_place hI'
  refine ⟨_, hv, v, { g with pc := g.pc + 4, flags := g.flags, wait := .none }, ?_, hmoved.frag, fun n => ?_, by rw [hpc], hflags, hm0⟩
  · have hat := waveAt_putWave (cancelled s w.core ((rdS w a.toNat).toNat % 1024)) v
    rwa [(congrArg Wave.core hmoved.frame :), (congrArg Wave.slot hmoved.frame :), hcore, hslot,
      cancelled_cur ho] at hat
  · rw [hregs, setReg, setReg, rdS_of_calm hcalm]

theorem xcancel_posts : Posts (.xcancel d a) s s w.core ((rdS w a.toNat).toNat % 1024) o (engRecord o ((rdS w a.toNat).toNat % 1024) 1 0 0) := by
  obtain ⟨y, g, hI', -, -, -, -, z, hz, hmoved, -, -⟩ := xcancel_answers (d := d) hI ho hhandle hgid hkind hplace
  obtain ⟨hcore, hslot⟩ := issues_place hI'
  have hoff := offEngine_finishOp (status := 1) (cause := 0) (va := 0) ho
  refine ⟨_, hz, (congrArg State.mem hoff :), (congrArg State.accs hoff :), fun x hx => ⟨fun hroom => ?_, finishOp_full ho hx⟩⟩
  obtain ⟨hgone, hlocks, v, hv, hrecs⟩ := finishOp_room (status := 1) (cause := 0) (va := 0) ho hx hroom
  obtain ⟨v', hv', hevqs⟩ := find_dropHeld w.core ((rdS w a.toNat).toNat % 1024) hv
  obtain ⟨v'', hv'', hevqs'⟩ := find_putWave_evqs (z := z) (y := y) (by
    rw [(congrArg Wave.core hmoved.frame :), (congrArg Wave.slot hmoved.frame :), hcore, hslot]
    exact hI'.1) (congrArg Wave.evqs hmoved.frame :) hv'
  refine ⟨hgone, hlocks, v'', hv'', ?_⟩
  rw [evqOf, hevqs', hevqs]
  exact hrecs

/-- The record of a wave that is gone is discarded. -/
theorem xcancel_orphan (hgone : waveOf s o.gid o.wave = none) (hhere : swappedOut s o.gid = false) :
    Answers (.xcancel d a) s (fun t => Map.find (coreOf t w.core).ops ((rdS w a.toNat).toNat % 1024) = none) := by
  obtain ⟨-, -, -, -, -, -, -, z, hz, -⟩ := xcancel_answers (d := d) hI ho hhandle hgid hkind hplace
  have hpost : postRecord s o.gid o.wave o.q (engRecord o ((rdS w a.toNat).toNat % 1024) 1 0 0) = some s := by
    simp only [postRecord, hgone, hhere]
    exact if_neg Bool.false_ne_true
  refine ⟨_, hz, ?_⟩
  change Map.find (coreOf (finishOp s w.core _ 1 0 0) w.core).ops _ = none
  rw [finishOp_posted ho hpost, coreOf_releaseOp ho]
  exact Map.find_erase_self ..

end Cancel

/-- Settles O24: a transfer's issue from the slot it takes, the event queues from the registers they write, and `XCANCEL` from the end
of its operation. -/
theorem transferWords : Obligations.TransferWords := by
  constructor
  · intro s w f hI d a q t key u idxs va hal hread r issues
    have hissues : ∀ i k, exec i s = transferWord k d a q s → issues i k := by
      intro i k hexec hvalid hidx hidxs hcheck
      refine ⟨fun slot hfree hpins => ⟨_, transferOp u w k q.toNat r va.toNat idxs,
        transferWord_issues hI hal hread rfl hvalid hidx hidxs hcheck hexec hfree hpins, takeSlot_self .., rfl, rfl, rfl, rfl, rfl, rfl, rfl, rfl,
        rfl, rfl, ?_, ?_, fun j => takeSlot_ne u w.core slot _ _, fun j => coreOf_takeSlot_ne u w.core slot _ _, rfl⟩,
        transferWord_waits hI hal hread rfl hvalid hidx hidxs hcheck hexec⟩
      · rw [coreOf_takeSlot]
        rfl
      · rw [coreOf_takeSlot]
        rfl
    exact ⟨hissues _ _ rfl, hissues _ _ rfl, hissues _ _ rfl, hissues _ _ rfl⟩
  · intro s w f hI d a q e x depth within free regs
    exact ⟨fun r rest hrecs => ⟨popRecord_takes hI rfl hrecs, popRecord_takes hI rfl hrecs⟩,
      fun hempty => ⟨answersIn_done (popRecord_empty hI hempty) rfl, popRecord_empty hI hempty⟩,
      fun hin hfree => ⟨evSized w x, evcfg_sets hI hin hfree, evSized_eq w x, evqOf_evSized_range w x 4⟩,
      evcfg_over hI, evcfg_busy hI, xcancel_unknown hI,
      fun o ho hhandle hgid hkind hplace =>
        ⟨xcancel_returns hI ho hhandle hgid hkind hplace, xcancel_posts hI ho hhandle hgid hkind hplace,
          xcancel_orphan hI ho hhandle hgid hkind hplace⟩⟩

end Sys2Proof.Machine
end

section
/-! PROOFS. The accumulator words (R344 to R347). -/

namespace Sys2Proof.Machine

/-! ## The state byte of a descriptor (R337) -/

theorem readNum_writeNum_ne {m : List Host.Cell} {a b x : Nat} (h : a ≠ b) : readNum (writeNum m b 1 x) a 1 = readNum m a 1 := by
  simp only [readNum, readMem]
  rw [writeNum_outside m b 1 x a (by omega)]

@[simp] theorem running_accWriteSt (s : State) (pa : Nat) (st : AccSt) (cause : Nat) : running (accWriteSt s pa st cause) = running s := by
  simp [accWriteSt]

theorem accs_accWriteSt (s : State) (pa : Nat) (st : AccSt) (cause : Nat) : (accWriteSt s pa st cause).accs = s.accs :=
  (congrArg State.accs (running_accWriteSt s pa st cause) :)

theorem cores_accWriteSt (s : State) (pa : Nat) (st : AccSt) (cause : Nat) : (accWriteSt s pa st cause).cores = s.cores :=
  (congrArg State.cores (running_accWriteSt s pa st cause) :)

theorem waves_accWriteSt (s : State) (pa : Nat) (st : AccSt) (cause : Nat) : (accWriteSt s pa st cause).waves = s.waves :=
  (congrArg State.waves (running_accWriteSt s pa st cause) :)

theorem cur_accWriteSt (s : State) (pa : Nat) (st : AccSt) (cause : Nat) : (accWriteSt s pa st cause).cur = s.cur :=
  cur_of_running (running_accWriteSt s pa st cause)

theorem accCode_lt (st : AccSt) : accCode st < 8 := by cases st <;> decide

/-- The state that a descriptor holds once it is written. -/
theorem accWriteSt_state {s : State} (h : s.coh.msgs = []) (pa : Nat) (st : AccSt) (cause : Nat) :
    readNum (accWriteSt s pa st cause).mem (pa + 17) 1 % 8 = accCode st := by
  obtain ⟨hmem, hmsgs⟩ := putNum_quiet h (pa + 17) 1 (readNum s.mem (pa + 17) 1 / 8 * 8 + accCode st)
  rw [accWriteSt, (putNum_quiet hmsgs ..).1, readNum_writeNum_ne (by omega), hmem, readNum_writeNum]
  have := accCode_lt st
  omega

theorem putNum_accs (s : State) (key n x : Nat) : (putNum s key n x).accs = s.accs := (congrArg State.accs (running_putNum s key n x) :)

/-- A free line of no accumulator does not hold an opening back. -/
theorem opens_free {s : State} (hset : Settled s) {l : Nat} (h : (inA s l || (haloOwner s l).isSome) = false) :
    (lineSt s l == .migr || lineWaits s l) = false := by
  obtain ⟨hA, hH⟩ := Bool.or_eq_false_iff.1 h
  have hstable : dirStable (dirOf s (lineOf l)) = true := (Bool.and_eq_true_iff.1 (hset (lineOf l))).1
  have hmigr : lineSt s l ≠ .migr := by
    simp only [lineSt, hA, hH, Bool.false_eq_true, if_false]
    split_ifs
    · decide
    · intro hst
      rw [dirStable, hst] at hstable
      exact Bool.false_ne_true hstable
  rw [lineWaits, hA, hset l, beq_eq_false_iff_ne.2 hmigr]
  rfl

/-- The handle of an accumulator's owner, 0 without one (R337). -/
def accOwner (s : State) (a : Acc) : Nat :=
  match a.ownerGid.bind (groupOf s) with
  | some g => (groupHandle g).toNat
  | none => 0

/-- The owner is written, and the lines are recalled (R279, R344). -/
def accReady (s : State) (a : Acc) : State := putNum (recallLines s (accLineKeys a)) (a.descPa + 20) 4 (accOwner s a)

theorem running_accReady (s : State) (a : Acc) : running (accReady s a) = running s := by
  rw [accReady, running_putNum, running_recallLines]

theorem accReady_accs (s : State) (a : Acc) : (accReady s a).accs = s.accs := (congrArg State.accs (running_accReady s a) :)
theorem accReady_waves (s : State) (a : Acc) : (accReady s a).waves = s.waves := (congrArg State.waves (running_accReady s a) :)
theorem accReady_cur (s : State) (a : Acc) : (accReady s a).cur = s.cur := cur_of_running (running_accReady s a)

theorem accReady_msgs {s : State} (h : s.coh.msgs = []) (a : Acc) : (accReady s a).coh.msgs = [] := by
  have hsilent : ∀ line ∈ accLineKeys a, Silent s line := fun line _ => by simp [Silent, h]
  exact (putNum_quiet ((msgs_of_beside (beside_recallLines hsilent)).trans h) ..).2

/-- The accumulator is in the table. -/
def accEntered (s : State) (k : Nat) (a : Acc) : State := { accReady s a with accs := Map.insert (accReady s a).accs k a }

theorem accOpenAt_eq (s : State) (k : Nat) (a : Acc) : accOpenAt s k a
    = accWriteSt (accEntered s k a) a.descPa .opened (bits (readNum (accReady s a).mem (a.descPa + 18) 1) 5 0) := rfl

theorem accOpenAt_accs (s : State) (k : Nat) (a : Acc) : (accOpenAt s k a).accs = Map.insert s.accs k a := by
  have hentered : (accEntered s k a).accs = Map.insert (accReady s a).accs k a := rfl
  rw [accOpenAt_eq, accs_accWriteSt, hentered, accReady_accs]

theorem accOpenAt_state {s : State} (h : s.coh.msgs = []) (k : Nat) (a : Acc) : readNum (accOpenAt s k a).mem (a.descPa + 17) 1 % 8 = 1 := by
  have hmsgs : (accEntered s k a).coh.msgs = [] := accReady_msgs h a
  rw [accOpenAt_eq]
  exact accWriteSt_state hmsgs ..

theorem accOpenAt_waves (s : State) (k : Nat) (a : Acc) : (accOpenAt s k a).waves = s.waves := by
  have hentered : (accEntered s k a).waves = (accReady s a).waves := rfl
  rw [accOpenAt_eq, waves_accWriteSt, hentered, accReady_waves]

theorem accOpenAt_cur (s : State) (k : Nat) (a : Acc) : (accOpenAt s k a).cur = s.cur := by
  have hentered : (accEntered s k a).cur = (accReady s a).cur := rfl
  rw [accOpenAt_eq, cur_accWriteSt, hentered, accReady_cur]

/-! ## The end of an accumulator (R339) -/

theorem accEnd_waves (s : State) (k : Nat) (st : AccSt) : (accEnd s k st).waves = s.waves := by
  unfold accEnd
  split
  · rfl
  · exact waves_accWriteSt ..

theorem accEnd_cur (s : State) (k : Nat) (st : AccSt) : (accEnd s k st).cur = s.cur := by
  unfold accEnd
  split
  · rfl
  · exact cur_accWriteSt ..

theorem accEnd_gone (s : State) (k : Nat) (st : AccSt) : Map.find (accEnd s k st).accs k = none := by
  unfold accEnd
  split
  next h => exact h
  · rw [accs_accWriteSt]
    exact Map.find_erase_self ..

theorem accEnd_state {s : State} (h : s.coh.msgs = []) {k : Nat} {a : Acc} (ha : Map.find s.accs k = some a) (st : AccSt) :
    readNum (accEnd s k st).mem (a.descPa + 17) 1 % 8 = accCode st := by
  have hmsgs : ({ s with accs := Map.erase s.accs k } : State).coh.msgs = [] := h
  simp only [accEnd, ha]
  exact accWriteSt_state hmsgs ..

/-! ## The start of a drain (R345) -/

/-- The accumulator is sealed, its parked staging states dropped. -/
def accSealed (s : State) (k : Nat) (a : Acc) : State := dropParked { s with accs := Map.insert s.accs k { a with st := .draining } } k a

theorem accSealed_accs (s : State) (k : Nat) (a : Acc) : Map.find (accSealed s k a).accs k = some { a with st := .draining, parkedLines := 0 } := by
  have hmodify : (accSealed s k a).accs = Map.modify (Map.insert s.accs k { a with st := .draining }) k (fun b => { b with parkedLines := 0 }) := rfl
  rw [hmodify, Map.find_modify, if_pos rfl, Map.find_insert_self, Option.map_some]

theorem accSealed_serial (s : State) (k : Nat) (a : Acc) (core : Nat) : (coreOf (accSealed s k a) core).serial = (coreOf s core).serial := by
  simp only [coreOf, Tab.get, accSealed, dropParked, Map.find_mapVals]
  cases Map.find s.cores core <;> rfl

/-- The state of the descriptor is written. -/
def drainSealed (s : State) (k : Nat) (a : Acc) : State :=
  accWriteSt (accSealed s k a) a.descPa .draining (bits (readNum (accSealed s k a).mem (a.descPa + 18) 1) 5 0)

/-- The operation of a drain at issue. -/
def drainOp (s : State) (w : Wave) (q k : Nat) (va r : Nat) : EngOp := { engNew s w .drain q (BitVec.ofNat 512 r) va with acc := k }

section Start

variable (s : State) (w : Wave) (q k slot : Nat) (a : Acc) (va r : Nat)

theorem startDrain_eq : startDrain s w q k slot a va r
    = takeSlot (drainSealed s k a) w.core slot (drainOp (drainSealed s k a) w q k va r) (drainRanges r) := rfl

theorem startDrain_waves : (startDrain s w q k slot a va r).1.waves = s.waves := by
  rw [startDrain_eq]
  change (drainSealed s k a).waves = s.waves
  rw [drainSealed, waves_accWriteSt]
  rfl

theorem startDrain_cur : (startDrain s w q k slot a va r).1.cur = s.cur := by
  rw [startDrain_eq]
  change (drainSealed s k a).cur = s.cur
  rw [drainSealed, cur_accWriteSt]
  rfl

theorem startDrain_accs : Map.find (startDrain s w q k slot a va r).1.accs k = some { a with st := .draining, parkedLines := 0 } := by
  rw [startDrain_eq]
  change Map.find (drainSealed s k a).accs k = _
  rw [drainSealed, accs_accWriteSt, accSealed_accs]

theorem startDrain_op : Map.find (coreOf (startDrain s w q k slot a va r).1 w.core).ops slot = some (drainOp (drainSealed s k a) w q k va r) := by
  rw [startDrain_eq]
  exact takeSlot_self ..

theorem startDrain_handle : (startDrain s w q k slot a va r).2 = BitVec.ofNat 32 (slot + 1024 * (coreOf s w.core).serial.toNat) := by
  have hserial : (drainOp (drainSealed s k a) w q k va r).serial = (coreOf s w.core).serial := by
    change (coreOf (drainSealed s k a) w.core).serial = _
    rw [coreOf, drainSealed, cores_accWriteSt]
    exact accSealed_serial ..
  rw [startDrain_eq]
  exact engHandle_of_serial hserial slot

variable {s} in
theorem startDrain_state (h : s.coh.msgs = []) : readNum (startDrain s w q k slot a va r).1.mem (a.descPa + 17) 1 % 8 = 2 := by
  have hmsgs : (accSealed s k a).coh.msgs = [] := h
  rw [startDrain_eq]
  exact accWriteSt_state hmsgs ..

end Start

/-! ## Over a descriptor -/

theorem issues_of_waves {s t : State} {w : Wave} {f : Frag} (hwaves : t.waves = s.waves) (hcur : t.cur = s.cur) (hI : Issues s w f) : Issues t w f := by
  simpa only [Issues, waveAt, hwaves, hcur] using hI

section Desc

variable {s t : State} {w : Wave} {f : Frag} {a : SReg} {k0 r : Nat} (hI : Issues s w f) (hal : (rdP w a.toNat).toNat % 64 = 0)
  (hread : access s w.core w.slot (ctxIdOf s w.gid) w.priv (rdP w a.toNat).toNat 64 .read false = (t, .ok k0))
  (hr : ofBytes (loadBytes t w.core k0 64) = r) (hvalid : adValid r = true)
include hI hal hread hr hvalid

theorem onAcc_valid (k : State → Wave → Frag → DWord → Nat → Out) : onAcc a s k = k t w f (rdP w a.toNat) r := by
  subst hr
  exact (onFrag_issues hI _).trans ((if_neg (not_not.2 hal)).trans ((sAccess_ok f _ hread).trans (if_pos hvalid)))

theorem accwait_ends {d : SReg} (h : adState r ≠ 2) : AnswersIn (.accwait d a) s t w f d (BitVec.ofNat 32 (adState r)) := by
  refine answersIn_done ?_ (access_cur hread)
  rw [exec_accwait, execAccwait, onAcc_valid hI hal hread hr hvalid, if_neg h]

theorem accwait_sleeps {d : SReg} (h : adState r = 2) :
    exec (.accwait d a) s = .next (putWave t (putFrag w s.cur.b (some { f with wait := .accwait }))) := by
  rw [exec_accwait, execAccwait, onAcc_valid hI hal hread hr hvalid, if_pos h, blocked, access_cur hread]

variable {u : State} {key : Nat} {d : SReg}
  (hheld : access t w.core w.slot (ctxIdOf s w.gid) w.priv (rdP w a.toNat).toNat 64 .update false = (u, .ok key))
include hheld

omit hal hr hvalid in
theorem held_issues : Issues u w f :=
  issues_of_running ((running_of_access hheld).trans (running_of_access hread)) hI

omit hI hal hr hvalid in
theorem held_cur : u.cur = s.cur := (access_cur hheld).trans (access_cur hread)

omit hI hal hr hvalid in
/-- The word reaches the descriptor. -/
theorem sUpdate_held (f : Frag) (yes : State → Nat → Out) : sUpdate t w f (rdP w a.toNat) 64 yes = yes u key := by
  rw [← access_ctxIdOf hread] at hheld
  exact sAccess_ok f yes hheld

omit hI hal hr hvalid in
theorem held_ctxIdOf : ctxIdOf u w.gid = ctxIdOf s w.gid := (access_ctxIdOf hheld _).trans (access_ctxIdOf hread _)

/-! ### `ACCOPEN` (R344) -/

section Open

variable {map spill : List (Nat × Nat)} (hmap : openPages t w (adBase r / 65536) 1 (spanPages (adBase r) (adBase r + adSize r)) = some map)
  (hspill : openPages t w (adSpill r / 65536) 0 (adBlocks r) = some spill) (hroom : 4 * ceilDiv (adSize r) 128 ≤ 65536 * adBlocks r)
include hmap hspill hroom

theorem exec_accopen_held : exec (.accopen d a) s =
    let x := accNew u w (rdP w a.toNat).toNat key r map
    let st := adState (readNum u.mem key 64)
    let ans (v : State) (y : Word) : Out := actedWith v (fun z => wrS z d.toNat y)
    if st ≠ 0 ∧ st ≠ 3 ∧ st ≠ 4 then ans u 1
    else if (accLineKeys x).any (fun k => inA u k || (haloOwner u k).isSome) then ans u 2
    else
      match Map.lowestFree (fun _ => false) 1024 u.accs 0 with
      | none => ans u 3
      | some k =>
        if (accLineKeys x).any (fun l => lineSt u l == .migr || lineWaits u l) then blocked u w f .access
        else ans (accOpenAt u k x) 0 := by
  rw [exec_accopen, execAccopen, onAcc_valid hI hal hread hr hvalid]
  simp only [hmap, hspill, if_neg (not_lt.2 hroom), sUpdate_held hread hheld] <;> rfl

theorem accopen_refused (h0 : adState (readNum u.mem key 64) ≠ 0) (h3 : adState (readNum u.mem key 64) ≠ 3)
    (h4 : adState (readNum u.mem key 64) ≠ 4) : AnswersIn (.accopen d a) s u w f d 1 :=
  answersIn_acts (((exec_accopen_held hI hal hread hr hvalid hheld hmap hspill hroom).trans (if_pos ⟨h0, h3, h4⟩)).trans
    (actedWith_issues (held_issues hI hread hheld) _)) (held_cur hread hheld)

variable (hstate : adState (readNum u.mem key 64) = 0 ∨ adState (readNum u.mem key 64) = 3 ∨ adState (readNum u.mem key 64) = 4)
include hstate

theorem accopen_used (hused : (accLineKeys (accNew u w (rdP w a.toNat).toNat key r map)).any (fun k => inA u k || (haloOwner u k).isSome) = true) :
    AnswersIn (.accopen d a) s u w f d 2 :=
  answersIn_acts (((exec_accopen_held hI hal hread hr hvalid hheld hmap hspill hroom).trans ((if_neg (by omega)).trans (if_pos hused))).trans
    (actedWith_issues (held_issues hI hread hheld) _)) (held_cur hread hheld)

theorem accopen_opens {n : Nat} (hfree : (accLineKeys (accNew u w (rdP w a.toNat).toNat key r map)).any
      (fun k => inA u k || (haloOwner u k).isSome) = false)
    (hn : Map.lowestFree (fun _ => false) 1024 u.accs 0 = some n) (hset : Settled u) :
    AnswersIn (.accopen d a) s (accOpenAt u n (accNew u w (rdP w a.toNat).toNat key r map)) w f d 0 := by
  have hopens : (accLineKeys (accNew u w (rdP w a.toNat).toNat key r map)).any (fun l => lineSt u l == .migr || lineWaits u l) = false :=
    List.any_eq_false.2 fun l hl => Bool.eq_false_iff.1 (opens_free hset (Bool.eq_false_iff.2 (List.any_eq_false.1 hfree l hl)))
  have hexec := (exec_accopen_held (d := d) hI hal hread hr hvalid hheld hmap hspill hroom).trans
    ((if_neg (by omega)).trans (if_neg (Bool.eq_false_iff.1 hfree)))
  rw [hn] at hexec
  have hI' := issues_of_waves (accOpenAt_waves u n (accNew u w (rdP w a.toNat).toNat key r map)) (accOpenAt_cur ..) (held_issues hI hread hheld)
  exact answersIn_acts ((hexec.trans (if_neg (Bool.eq_false_iff.1 hopens))).trans (actedWith_issues hI' _))
    ((accOpenAt_cur ..).trans (held_cur hread hheld))

end Open

/-! ### `ACCDRAIN` (R345) -/

section Drain

variable (hdst : bytesMeet (adDst r) (adDstBytes r) (adBase r) (adSize r) = false)
  (hhist : adHist r = 0 ∨ bytesMeet (adDst r) (adDstBytes r) (adHist r) 128 = false)
include hdst hhist

theorem exec_accdrain_held (q : BitVec 2) : exec (.accdrain d a q) s =
    match accByDesc u (ctxIdOf s w.gid) key with
    | some (k, x) =>
      if adState (readNum u.mem key 64) ≠ 1 ∨ x.st ≠ .opened then done u (wrS w d.toNat 0xFFFFFFFF) f
      else
        match freeOpSlot (coreOf u w.core), pinPages u w.core (ctxIdOf s w.gid) w.priv [] (drainPages (BitVec.ofNat 512 r)) with
        | some slot, some _ =>
          let p := startDrain u w q.toNat k slot x (rdP w a.toNat).toNat r
          actedWith p.1 (fun v => wrS v d.toNat p.2)
        | _, _ => blocked u w f .engineSlot
    | none => done u (wrS w d.toNat 0xFFFFFFFF) f := by
  have hapart : (bytesMeet (adDst r) (adDstBytes r) (adBase r) (adSize r)
      || (adHist r != 0 && bytesMeet (adDst r) (adDstBytes r) (adHist r) 128)) = false := by
    rw [hdst, Bool.false_or, Bool.and_eq_false_iff, bne_eq_false_iff_eq]
    exact hhist
  rw [exec_accdrain, execAccdrain, onAcc_valid hI hal hread hr hvalid, hapart, if_neg Bool.false_ne_true, sUpdate_held hread hheld,
    ← held_ctxIdOf hread hheld] <;> rfl

theorem accdrain_closed (q : BitVec 2) (hnone : accByDesc u (ctxIdOf s w.gid) key = none) :
    AnswersIn (.accdrain d a q) s u w f d 0xFFFFFFFF := by
  refine answersIn_done ?_ (held_cur hread hheld)
  rw [exec_accdrain_held hI hal hread hr hvalid hheld hdst hhist, hnone]

theorem accdrain_starts {q : BitVec 2} {n slot : Nat} {x : Acc} {pins : State × List (Nat × Nat) × Option (Nat × Cause)}
    (hx : accByDesc u (ctxIdOf s w.gid) key = some (n, x)) (hst : adState (readNum u.mem key 64) = 1) (hopen : x.st = .opened)
    (hslot : freeOpSlot (coreOf u w.core) = some slot)
    (hpins : pinPages u w.core (ctxIdOf s w.gid) w.priv [] (drainPages (BitVec.ofNat 512 r)) = some pins) :
    AnswersIn (.accdrain d a q) s (startDrain u w q.toNat n slot x (rdP w a.toNat).toNat r).1 w f d
      (BitVec.ofNat 32 (slot + 1024 * (coreOf u w.core).serial.toNat)) := by
  have hexec := exec_accdrain_held (d := d) hI hal hread hr hvalid hheld hdst hhist q
  rw [hx] at hexec
  dsimp only at hexec
  rw [if_neg (by simp [hst, hopen]), hslot, hpins] at hexec
  have hI' := issues_of_waves (startDrain_waves u w q.toNat n slot x (rdP w a.toNat).toNat r) (startDrain_cur ..) (held_issues hI hread hheld)
  rw [← startDrain_handle u w q.toNat n slot x (rdP w a.toNat).toNat r]
  exact answersIn_acts (hexec.trans (actedWith_issues hI' _)) ((startDrain_cur ..).trans (held_cur hread hheld))

end Drain

/-! ### `ACCABORT` (R346) -/

theorem exec_accabort_held : exec (.accabort d a) s =
    match accByDesc u (ctxIdOf s w.gid) key with
    | some (k, _) => actedWith (accAbort u k) (fun v => wrS v d.toNat 0)
    | none => done u (wrS w d.toNat 1) f := by
  rw [exec_accabort, execAccabort, onAcc_valid hI hal hread hr hvalid, sUpdate_held hread hheld, ← held_ctxIdOf hread hheld] <;> rfl

theorem accabort_closed (hnone : accByDesc u (ctxIdOf s w.gid) key = none) : AnswersIn (.accabort d a) s u w f d 1 := by
  refine answersIn_done ?_ (held_cur hread hheld)
  rw [exec_accabort_held hI hal hread hr hvalid hheld, hnone]

theorem accabort_aborts {n : Nat} {x : Acc} (hx : accByDesc u (ctxIdOf s w.gid) key = some (n, x))
    (hquiet : opsWhere u (fun o => o.kind == .drain && o.acc == n) = []) :
    AnswersIn (.accabort d a) s (accEnd u n .aborted) w f d 0 := by
  have hexec := exec_accabort_held (d := d) hI hal hread hr hvalid hheld
  have habort : accAbort u n = accEnd u n .aborted := by
    rw [accAbort, opsWhere_nil_of_imp hquiet fun o ho => (Bool.and_eq_true_iff.1 ho).1]
    rfl
  rw [hx] at hexec
  dsimp only at hexec
  rw [habort] at hexec
  have hI' := issues_of_waves (accEnd_waves u n .aborted) (accEnd_cur ..) (held_issues hI hread hheld)
  exact answersIn_acts (hexec.trans (actedWith_issues hI' _)) ((accEnd_cur ..).trans (held_cur hread hheld))

end Desc

/-- Settles O29, each word from the state that its effect leaves. -/
theorem accumulatorWords : Obligations.AccumulatorWords := by
  intro s w f hI d a t k0 u key va ctx hal hread hheld r st hvalid
  have hissued := held_issues hI hread hheld
  refine ⟨fun map spill hmap hspill hroom => ⟨accopen_refused hI hal hread rfl hvalid hheld hmap hspill hroom,
    accopen_used hI hal hread rfl hvalid hheld hmap hspill hroom, fun n hst hfree hn hset => ⟨_,
      accopen_opens hI hal hread rfl hvalid hheld hmap hspill hroom hst hfree hn hset, accOpenAt_accs .., rfl, rfl, rfl, rfl, rfl,
      accOpenAt_state (msgs_of_settled hset) ..⟩⟩, ?_, ?_, fun hnone =>
    ⟨accabort_closed hI hal hread rfl hvalid hheld hnone, fun q hdst hhist => accdrain_closed hI hal hread rfl hvalid hheld hdst hhist q hnone⟩,
    accwait_ends hI hal hread rfl hvalid, accwait_sleeps hI hal hread rfl hvalid⟩
  · intro q n x slot pins hdst hhist hx hst hopen hslot hset hpins
    exact ⟨_, _, accdrain_starts hI hal hread rfl hvalid hheld hdst hhist hx hst hopen hslot hpins, startDrain_accs .., startDrain_op ..,
      rfl, rfl, rfl, rfl, startDrain_state _ _ _ _ _ _ _ (msgs_of_settled hset)⟩
  · intro n x hx hfind hquiet hset
    exact ⟨_, accabort_aborts hI hal hread rfl hvalid hheld hx hquiet, accEnd_gone .., accEnd_state (msgs_of_settled hset) hfind .aborted⟩

end Sys2Proof.Machine
end

section
/-! PROOFS. A team's operations (R331, R334, R336, R351). -/

namespace Sys2Proof.Machine

theorem teamOf_place {s : State} {core gid n : Nat} {t : Team} (h : teamOf s core gid n = some t) : t.gid = gid ∧ t.team = n := by
  have hplace := List.find?_some h
  rwa [Bool.and_eq_true, beq_iff_eq, beq_iff_eq] at hplace

/-- The team that a change puts in its place is the one found there. -/
theorem teamOf_putTeam_at (s : State) (core : Nat) {t : Team} {gid n : Nat} (hgid : t.gid = gid) (hteam : t.team = n) :
    teamOf (putTeam s core t) core gid n = some t := by
  rw [← hgid, ← hteam]
  exact teamOf_putTeam s core t

theorem ops_putTeam (s : State) (core : Nat) (t : Team) : (coreOf (putTeam s core t) core).ops = (coreOf s core).ops := by
  unfold putTeam
  dsimp only
  split_ifs <;> rw [coreOf_putCore_self]

theorem unparkTeam_keeps (s : State) (t : Team) :
    (unparkTeam s t).2.gid = t.gid ∧ (unparkTeam s t).2.team = t.team ∧ (unparkTeam s t).2.steps = t.steps := by
  unfold unparkTeam
  split <;> exact ⟨rfl, rfl, rfl⟩

theorem stageFor_keeps (s : State) (core : Nat) (t : Team) (tile fa : DWord) (fmt : BitVec 256) (wide : Bool) :
    (stageFor s core t tile fa fmt wide).2.gid = t.gid ∧ (stageFor s core t tile fa fmt wide).2.team = t.team
    ∧ (stageFor s core t tile fa fmt wide).2.steps = t.steps :=
  unparkTeam_keeps s { t with tile := tile, fmtAddr := fa, fmt := fmt, is64 := wide }

/-- A step that forms is counted (R67). -/
theorem matrixStep_counts {rd : State → Nat → State × Except (Nat × AccRes) Nat} {s u : State} {t t2 : Team} {f : Fmt} {k0 : Nat} {x : Supply}
    (h : matrixStep rd s t f k0 x = (u, .ok t2)) : t2.gid = t.gid ∧ t2.team = t.team ∧ t2.steps = t.steps + 1 := by
  unfold matrixStep at h
  dsimp only at h
  split at h
  · simp at h
  · split at h
    · simp at h
    · obtain ⟨-, heq⟩ := Prod.mk.inj h
      rw [← Except.ok.inj heq]
      exact ⟨rfl, rfl, rfl⟩

theorem endLoops_none {s : State} {core : Nat} {t : Team} (h : ∀ x ∈ t.members, ∀ n, headOf x ≠ some (.mloop n)) (status cause va : Nat) :
    endLoops s core t status cause va = s := by
  unfold endLoops
  generalize t.members = l at h
  induction l with
  | nil => rfl
  | cons m rest ih =>
    rw [List.foldl_cons]
    split
    next n hn => exact absurd hn (h m List.mem_cons_self n)
    · exact ih fun x hx => h x (List.mem_cons_of_mem _ hx)

section Start

variable {s : State} {core gid n : Nat} {t : Team} {m : Member} (ht : teamOf s core gid n = some t) (hlive : t.dissolved = false)
  (hgoes : t.stop = .none) (hready : teamReady t = true) (hhere : swappedOut s gid = false) (hm : member0 t = some m)
include ht hlive hgoes hready hhere hm

/-- A team whose members all have their next word goes by its first member's. -/
theorem exec_teamOpStart_ready : exec (.teamOpStart core gid n) s =
    match headOf m, waveOf s gid m.wave with
    | some (.mma _ _ _ tile fa fmt flush _ _ _), some w => teamOut (mmaRun (endLoops s core t 1 0 0) core t w tile fa fmt flush)
    | some (.mloop h), _ =>
      (match leadLoop s core h with
       | none => .next (dropLoop s core t 1 0 0)
       | some (slot, o) =>
         if o.st = .issued ∧ !lockedOut (coreOf s core) slot then teamOut (loopAdvance (settleHeads s t) core t slot o false) else .next s)
    | _, _ => .next s := by
  rw [exec_teamOpStart, execTeamOpStart]
  simp only [ht, hm]
  exact if_neg (by simp [hlive, hgoes, hready, hhere])

theorem teamOpStart_mma {id : Nat} {ta tb : LType} {tile fa : DWord} {fmt : BitVec 256} {act : Word} {va vb : Nat} {w : Wave} {f : Fmt}
    {s2 : State} {t2 : Team} (hhead : headOf m = some (.mma id ta tb tile fa fmt false act va vb)) (hw : waveOf s gid m.wave = some w)
    (hloops : ∀ x ∈ t.members, ∀ h, headOf x ≠ some (.mloop h)) (hf : fmtOf fmt.toNat = some f)
    (hflush : flushFirst t tile fa (f.aType == .f64) = false)
    (hstep : matrixStep (scaleRead w) (stageFor s core t tile fa fmt (f.aType == .f64)).1 (stageFor s core t tile fa fmt (f.aType == .f64)).2 f 0
      (regSupply (stageFor s core t tile fa fmt (f.aType == .f64)).1 (stageFor s core t tile fa fmt (f.aType == .f64)).2 f) = (s2, .ok t2))
    (hsteps : t2.steps < 256) (hsent : t2.unsent = []) :
    ∃ u, exec (.teamOpStart core gid n) s = .next u ∧ t2.steps = t.steps + 1
      ∧ teamOf u core gid n = some (popHeads { t2 with stop := .none, waiting := [], skipped := false }) := by
  obtain ⟨hgid, hteam⟩ := teamOf_place ht
  obtain ⟨hgid', hteam', hsteps'⟩ := stageFor_keeps s core t tile fa fmt (f.aType == .f64)
  obtain ⟨hgid2, hteam2, hsteps2⟩ := matrixStep_counts hstep
  have hexec := exec_teamOpStart_ready ht hlive hgoes hready hhere hm
  rw [hhead, hw] at hexec
  dsimp only at hexec
  rw [endLoops_none hloops] at hexec
  have hrun : mmaRun s core t w tile fa fmt false = .next (mmaFinish s2 core t2 false) := by
    simp only [mmaRun, hf, hflush, Bool.false_eq_true, if_false, hstep]
  have hfin : mmaFinish s2 core t2 false
      = putTeam (settleHeads s2 t2) core (popHeads { t2 with stop := .none, waiting := [], skipped := false }) := by
    have hno : ¬ (false || decide (256 ≤ t2.steps) || t2.unsent != []) = true := by simp [hsent, hsteps]
    exact if_neg hno
  rw [hrun, hfin] at hexec
  exact ⟨_, hexec, hsteps2.trans (congrArg (· + 1) hsteps'),
    teamOf_putTeam_at _ core (hgid2.trans (hgid'.trans hgid)) (hteam2.trans (hteam'.trans hteam))⟩

theorem teamOpStart_loop {h slot : Nat} {o p : EngOp} {f : Fmt} {u : State} {t1 : Team} (hhead : headOf m = some (.mloop h))
    (hlead : leadLoop s core h = some (slot, o)) (hst : o.st = .issued) (hfree : lockedOut (coreOf s core) slot = false)
    (hf : fmtOf o.fmt.toNat = some f)
    (hloop : loopGo (3 * (loopDesc o.desc.toNat).steps + 16) (settleHeads s t) core t { o with st := .running, missPage := none }
      (loopDesc o.desc.toNat) f = (u, t1, p, .over)) :
    exec (.teamOpStart core gid n) s = .next (putTeam (putOp u core slot p) core t1) := by
  have hexec := exec_teamOpStart_ready ht hlive hgoes hready hhere hm
  rw [hhead] at hexec
  dsimp only at hexec
  rw [hlead] at hexec
  have hrun : loopAdvance (settleHeads s t) core t slot o false = .next (putTeam (putOp u core slot p) core t1) := by
    simp only [loopAdvance, hf, hloop, Bool.false_eq_true, if_false]
  exact hexec.trans ((if_pos ⟨hst, by rw [hfree]; rfl⟩).trans (congrArg teamOut hrun))

end Start

/-- A loop that is over: every member's word is done. -/
theorem mloopComplete_over {s u : State} {core op : Nat} {o p : EngOp} {t t1 : Team} {f : Fmt} (ho : opAt s core op = some o)
    (ht : teamOfLoop s core op o = some t) (hkind : o.kind = .mloop) (hruns : engRuns s o = true) (hfine : o.failCause = none)
    (hf : fmtOf o.fmt.toNat = some f)
    (hloop : loopGo (3 * (loopDesc o.desc.toNat).steps + 16) s core t { o with st := .running, missPage := none } (loopDesc o.desc.toNat) f
      = (u, t1, p, .over)) :
    ∃ v, exec (.mloopComplete core op) s = .next (putTeam v core (popHeads { t1 with stop := .none })) := by
  have hexec : exec (.mloopComplete core op) s = teamOut (loopAdvance s core t op o true) := by
    rw [exec_mloopComplete, execMloopComplete]
    simp only [ho, ht]
    exact if_pos ⟨hkind, hruns, by rw [hfine]; rfl⟩
  simp only [loopAdvance, hf, hloop, if_true] at hexec
  exact ⟨_, hexec⟩

/-- Settles O49: each event puts the team in its place as its step or loop leaves it. -/
theorem teamOperations : Obligations.TeamOperations := by
  refine ⟨?_, ?_, ?_⟩
  · intro s core gid n t m w tile fa fmt id ta tb act va vb f s2 t2 ht hlive hgoes hready hhere hm hhead hw hloops hf hflush hstep hsteps hsent
    exact teamOpStart_mma ht hlive hgoes hready hhere hm hhead hw hloops hf hflush hstep hsteps hsent
  · intro s core gid n t m h slot o f u t1 p ht hlive hgoes hready hhere hm hhead hlead hst hfree hf d hloop
    refine ⟨_, teamOpStart_loop ht hlive hgoes hready hhere hm hhead hlead hst hfree hf hloop, ?_, teamOf_putTeam ..⟩
    rw [ops_putTeam, putOp, coreOf_putCore_self]
    exact Map.find_insert_self ..
  · intro s core op o t f u t1 p ho ht hkind hruns hfine hf d hloop
    obtain ⟨v, hv⟩ := mloopComplete_over ho ht hkind hruns hfine hf hloop
    exact ⟨_, hv, teamOf_putTeam v core (popHeads { t1 with stop := .none })⟩

end Sys2Proof.Machine
end

section
/-! PROOFS. A frame that the frames' table lists twice (R295, R297, R298). -/

namespace Sys2Proof.Machine

theorem haloOwner_of_no_ctxs {s : State} (h : s.ctxs = []) (key : Nat) : haloOwner s key = none := by
  rw [haloOwner, h]
  rfl

/-- Without a request that waits, a line has nothing to take. -/
theorem serveLine_empty {s : State} (h : s.coh.waitBuf = []) (line : Nat) : serveLine s line = s := by
  rw [serveLine, serveWaiting, h]
  split_ifs <;> rfl

/-! ## An eviction whose next line is dirty in an L1 -/

namespace FrameTwice

/-- A clean page, page 0. -/
def page0 : Frame := { st := .clean, page := 0, ctx := 0, clock := false, dirty := 0, released := 0 }

/-- The page as its eviction starts, `n` lines being released. -/
def leaving (n : Nat) : Frame := { page0 with st := .evicting, released := n }

/-- Core 0 holds line `n` of page 0 dirty. -/
def copies (n : Nat) : Map L1Line := [(128 * n, L1Line.at .m)]

/-- A device at reset with every frame reserved, whose table lists frame 0 twice; core 0 holds line `n` of its page dirty. -/
def start (n : Nat) : State :=
  { State.reset with vm := { State.reset.vm with reserved := 2 ^ 22, frames := [(0, page0), (0, page0)] }
                     coh := { State.reset.coh with l1 := copies n } }

/-- As lines of the page other than `n` are released: the copy stays, and nothing is on its way. -/
structure Waits (n : Nat) (s : State) : Prop where
  msgs : s.coh.msgs = []
  waiting : s.coh.waitBuf = []
  copy : s.coh.l1 = copies n
  ctxs : s.ctxs = []
  entry : dirOf s (128 * n) = Dir.init
  frames : s.vm.frames = [(0, leaving n), (0, page0)]

theorem waits_start (n : Nat) : Waits n (setFrame (start n) 0 (leaving n)) where
  msgs := rfl
  waiting := rfl
  copy := rfl
  ctxs := rfl
  entry := rfl
  frames := rfl

section Line

variable {n line : Nat} {s : State} (hline : line ≠ 128 * n) (h : Waits n s)
include hline h

theorem waits_setDir (d : Dir) : Waits n (setDir s line d) :=
  { h with entry := (dirOf_setDir_ne s d hline.symm).trans h.entry }

variable (hn : n < 512)
include hn

omit h in
theorem copy_line : 128 * n % 2 ^ 64 ≠ line := by
  rw [Nat.mod_eq_of_lt (by omega)]
  exact hline.symm

theorem waits_dropCopies : Waits n (dropCopies s line) where
  msgs := by rw [dropCopies, h.msgs]; rfl
  waiting := h.waiting
  copy := by
    have hkeep : (128 * n % 2 ^ 64 == line) = false := beq_eq_false_iff_ne.2 (copy_line hline hn)
    simp only [dropCopies, h.copy, copies, List.filterMap_cons, List.filterMap_nil, hkeep, Bool.false_eq_true, if_false]
  ctxs := h.ctxs
  entry := h.entry
  frames := h.frames

theorem waits_recallLine : Waits n (recallLine s line) := by
  have hsilent : Silent s line := by simp [Silent, h.msgs]
  have hclean : dirtyCopy s line = false := by
    have hother : (128 * n % 2 ^ 64 == line) = false := beq_eq_false_iff_ne.2 (copy_line hline hn)
    rw [dirtyCopy, h.copy]
    simp only [copies, List.any_cons, List.any_nil, hother, Bool.false_and, Bool.or_false]
  rw [recallLine, settleLine_silent hsilent]
  dsimp only
  rw [hclean, if_neg Bool.false_ne_true]
  split_ifs
  · exact h
  · exact waits_setDir hline (waits_dropCopies hline h hn) _

theorem waits_enterMigr : Waits n (enterMigr s line) := by
  rw [enterMigr, haloOwner_of_no_ctxs h.ctxs]
  exact waits_setDir hline (waits_recallLine hline h hn) _

theorem waits_lineMoved : Waits n (lineMoved s line line) := by
  have hentry : Waits n (setDir (setDir s line Dir.init) line { Dir.init with fog := (dirOf s line).fog }) :=
    waits_setDir hline (waits_setDir hline h _) _
  exact { msgs := by rw [lineMoved_msgs, h.msgs]; rfl
          waiting := (congrArg (List.map (Msg.moved line line)) hentry.waiting)
          copy := by
            change List.foldl _ [] s.coh.l1 = _
            rw [h.copy, copies, List.foldl_cons, List.foldl_nil, if_neg (copy_line hline hn)]
            rfl
          ctxs := hentry.ctxs
          entry := hentry.entry
          frames := hentry.frames }

end Line

theorem waits_evictLine {n line : Nat} {s : State} (hline : line ≠ 128 * n) (hn : n < 512) (h : Waits n s) : Waits n (evictLine s line) := by
  have hmoved := waits_lineMoved hline (waits_enterMigr hline h hn) hn
  rw [evictLine, leaveMigr_eq, serveLine_empty hmoved.waiting]
  exact hmoved

theorem waits_released {n : Nat} (hn : n < 512) {l : List Nat} (hl : ∀ line ∈ l, line ≠ 128 * n) {s : State} (h : Waits n s) :
    Waits n (l.foldl evictLine s) := by
  induction l generalizing s with
  | nil => exact h
  | cons line rest ih =>
    exact ih (fun x hx => hl x (List.mem_cons_of_mem _ hx)) (waits_evictLine (hl line List.mem_cons_self) hn h)

/-- The recall of line `n` writes the second listing of the frame over the first. -/
theorem frame_recalled {n : Nat} (hn : n < 512) {s : State} (h : Waits n s) :
    (Map.find (enterMigr s (128 * n)).vm.frames 0).map (·.st) = some .dirty := by
  have hsilent : Silent s (128 * n) := by simp [Silent, h.msgs]
  have hdirty : dirtyCopy s (128 * n) = true := by
    rw [dirtyCopy, h.copy]
    simp only [copies, List.any_cons, Nat.mod_eq_of_lt (show 128 * n < 2 ^ 64 by omega), beq_self_eq_true, Bool.true_and]
    rfl
  have hframe : frameOfPage s (128 * n / 65536) = some (0, page0) := by
    rw [show 128 * n / 65536 = 0 by omega, frameOfPage, h.frames]
    rfl
  have hvm : (enterMigr s (128 * n)).vm = (frameDirty s (128 * n)).vm := by
    rw [enterMigr, haloOwner_of_no_ctxs h.ctxs]
    change (recallLine s (128 * n)).vm = _
    rw [recallLine, settleLine_silent hsilent]
    dsimp only
    rw [h.entry, if_neg (by decide), hdirty, if_pos rfl]
    rfl
  rw [hvm, frameDirty, hframe]
  dsimp only
  rw [if_pos (by decide), find_setFrame, Option.map_some]

/-- How many lines the eviction has released when it first shows: the model leaves the number free (R298). -/
def released : Nat := (Config.freeWord (freeIdx State.reset 0)).toNat % 512

theorem released_lt : released < 512 := Nat.mod_lt _ (by decide)

/-- The victim's lines are released up to the next, which is in MIGR. -/
def evicted : State :=
  enterMigr (((pageLines page0.page).take released).foldl evictLine (setFrame (start released) 0 (leaving released)))
    (page0.page * 65536 + 128 * released)

theorem frame_evicted : (Map.find evicted.vm.frames 0).map (·.st) = some .dirty := by
  have hpage : page0.page = 0 := rfl
  rw [evicted, hpage, Nat.zero_mul, Nat.zero_add]
  refine frame_recalled released_lt (waits_released released_lt (fun line hline => ?_) (waits_start released))
  rw [pageLines, ← List.map_take, List.take_range, Nat.min_eq_left released_lt.le] at hline
  obtain ⟨j, hj, rfl⟩ := List.mem_map.1 hline
  have := List.mem_range.1 hj
  omega

theorem startEvict_start : startEvict (start released) 0 page0 = { evicted with vm := { evicted.vm with hand := 1 } } := by
  rw [startEvict, evicted]
  rfl

end FrameTwice

open FrameTwice in
/-- Refutes O50 in the clause of the clock's victim. It asks of any state that the victim's entry be `EVICTING` afterwards. In a table
that lists the victim's frame a second time, for the same page, the recall of the page's next line, which a core holds dirty,
finds the second entry and puts it, as `DIRTY`, over the first. -/
theorem not_poolFrames : ¬ Obligations.PoolFrames := by
  rintro ⟨-, -, hevict, -⟩
  obtain ⟨-, hvictim⟩ := hevict (start released)
  obtain ⟨hswept, -⟩ := hvictim (by decide) (start released) 0 page0
  obtain ⟨u, n, hu, -, hf, -⟩ := hswept rfl rfl
  have hexec : exec .enlargerEvict (start released) = .next (startEvict (start released) 0 page0) := rfl
  obtain rfl : startEvict (start released) 0 page0 = u := Host.Outcome.next.inj (hexec.symm.trans hu)
  rw [startEvict_start] at hf
  have hst := (congrArg (Option.map Frame.st) hf).symm.trans frame_evicted
  cases hst

end Sys2Proof.Machine
end

section
/-! PROOFS. The lane words of the memory units issue their operations (R250, R251, R256, R258 to R263, R287). -/

namespace Sys2Proof.Machine

/-! ## Captured operands (R256) -/

theorem dataKey_inj {j k l m : Nat} (hl : l < 64) (hm : m < 64) : dataKey j l = dataKey k m ↔ j = k ∧ l = m := by
  unfold dataKey
  omega

theorem lt_of_mem_lanesOf {act : Word} {l : Nat} (h : l ∈ lanesOf act) : l < 32 :=
  List.mem_range.1 (List.mem_filter.1 h).1

/-- Registers captured of one lane, read back. -/
theorem get_captureLane {l l0 : Nat} (hl : l < 64) (hl0 : l0 < 64) (v : Nat → Word) (n j k : Nat) (m : Map Word) :
    Tab.get 0 ((List.range n).foldl (fun m i => Tab.set 0 m (dataKey (j + i) l0) (v i)) m) (dataKey k l)
      = if l = l0 ∧ j ≤ k ∧ k < j + n then v (k - j) else Tab.get 0 m (dataKey k l) := by
  induction n with
  | zero => rw [if_neg (by omega)]; rfl
  | succ n ih =>
    rw [List.range_succ, List.foldl_append, List.foldl_cons, List.foldl_nil, Tab.get_set, ih]
    by_cases hlast : k = j + n ∧ l = l0
    · rw [if_pos ((dataKey_inj hl hl0).2 hlast), if_pos ⟨hlast.2, by omega, by omega⟩, hlast.1, Nat.add_sub_cancel_left]
    · rw [if_neg (mt (dataKey_inj hl hl0).1 hlast)]
      exact if_congr (by omega) rfl rfl

/-- Registers captured of some lanes, read back. -/
theorem get_capture (s : State) (w : Wave) (act : Word) (r n j : Nat) (m : Map Word) {k l : Nat} (hl : l < 32) :
    Tab.get 0 (capture s w act r n j m) (dataKey k l)
      = if l ∈ lanesOf act ∧ j ≤ k ∧ k < j + n then rdV s w (r + (k - j)) l else Tab.get 0 m (dataKey k l) := by
  have hlanes : ∀ l0 ∈ lanesOf act, l0 < 64 := fun l0 h => (lt_of_mem_lanesOf h).trans (by decide)
  unfold capture
  generalize lanesOf act = lanes at hlanes
  induction lanes generalizing m with
  | nil => rw [if_neg (by simp)]; rfl
  | cons l0 rest ih =>
    rw [List.foldl_cons, ih _ fun x hx => hlanes x (List.mem_cons_of_mem _ hx),
      get_captureLane (hl.trans (by decide)) (hlanes l0 List.mem_cons_self) (fun i => rdV s w (r + i) l0)]
    by_cases hin : l ∈ rest ∧ j ≤ k ∧ k < j + n
    · rw [if_pos hin, if_pos ⟨List.mem_cons_of_mem _ hin.1, hin.2⟩]
    · rw [if_neg hin]
      by_cases hhead : l = l0 ∧ j ≤ k ∧ k < j + n
      · rw [if_pos hhead, if_pos ⟨hhead.1 ▸ List.mem_cons_self, hhead.2⟩, hhead.1]
      · rw [if_neg hhead, if_neg fun h => (List.mem_cons.1 h.1).elim (fun he => hhead ⟨he, h.2⟩) fun hr => hin ⟨hr, h.2⟩]

section Operands

variable {s : State} {w : Wave} {act : Word} {r n j l : Nat} {m : Map Word} {o : LaneOp} (hops : w.ops = []) (hl : l ∈ lanesOf act)
include hl

include hops in
/-- An operand word that the last capture has recorded. -/
theorem opData_capture (ho : o.data = capture s w act r n j m) {k : Nat} (hk : k < n) : opData o (j + k) l = rdElem w (r + k) l := by
  rw [opData, ho, get_capture _ _ _ _ _ _ _ (lt_of_mem_lanesOf hl), if_pos ⟨hl, by omega, by omega⟩, Nat.add_sub_cancel_left, rdV_quiet s hops]

/-- An operand word before those that the last capture has recorded. -/
theorem opData_capture_below {p : LaneOp} (ho : o.data = capture s w act r n j m) (hp : p.data = m) {k : Nat} (hk : k < j) :
    opData o k l = opData p k l := by
  rw [opData, ho, get_capture _ _ _ _ _ _ _ (lt_of_mem_lanesOf hl), if_neg (by omega), ← hp, opData]

end Operands

/-! ## Issue -/

/-- The word whose answers come later (R348). -/
def isAccred : Instr → Bool
  | .accred _ => true
  | _ => false

/-- A word issues an operation with the lanes' addresses and operands as given, and performs it. -/
def Goes (s : State) (w : Wave) (t : Strip) (act : Word) (stop : Bool) (i : Instr) (p : Performer) (addr : Nat → DWord)
    (data : Nat → LaneOp → Prop) : Prop :=
  ∃ o addrs regs, o = opFor s w t i act addrs regs ∧ (∀ l ∈ lanesOf act, opAddr o l = addr l ∧ data l o) ∧ Performs p i s s w t stop o (allDone o)

section Issue

variable {s : State} {w : Wave} {t : Strip} {f : Frag} (hS : Streams s w t f)
include hS

/-- An operation that is no `ACCRED` performs its lanes in the wave that issues it. -/
theorem goes_of_issueOp {act : Word} {stop : Bool} {i : Instr} {p : Performer} {addr : Nat → DWord} {data : Nat → LaneOp → Prop}
    {addrs : Map DWord} {regs : Map Word} (hred : isAccred i = false) (hexec : exec i s = issueOp p s w stop (newOp w t i act addrs regs))
    (haddr : ∀ l ∈ lanesOf act, Tab.get 0 addrs l = addr l) (hdata : ∀ o : LaneOp, o.data = regs → ∀ l ∈ lanesOf act, data l o) :
    Goes s w t act stop i p addr data :=
  have hplain : ∀ y, i ≠ .accred y := fun _ h => Bool.false_ne_true (hred.symm.trans (congrArg isAccred h))
  ⟨_, addrs, regs, rfl, fun l hl => ⟨haddr l hl, hdata _ rfl l hl⟩,
    performs_of_issueOp hS.head hS.ops hS.lstop hS.fab hexec fun u0 _ _ => ⟨fun _ => keepRun_plain (u := u0) rfl rfl hplain,
      fun v ws _ => ⟨keepRun_plain (u := v) (o := allDone (opFor s w t i act addrs regs) ws) rfl rfl hplain, rfl, rfl⟩⟩⟩

end Issue

theorem get_laneAddrs {act : Word} {g : Nat → DWord} {l : Nat} (hl : l ∈ lanesOf act) : Tab.get 0 (laneAddrs act g) l = g l := by
  rw [laneAddrs, get_foldl_set 0 (key := fun n => n) Function.injective_id, if_pos hl]

/-! ## The families of words -/

/-- A lane's vector offset, read of a wave with no operation outstanding (R250). -/
def quietOff (w : Wave) (x : LXWord) (l : Nat) : Nat := if x.nov then 0 else (rdElem w x.va.toNat l).toNat * 2 ^ x.scale.toNat

theorem laneOff_quiet (s : State) {w : Wave} (hops : w.ops = []) (x : LXWord) (l : Nat) : laneOff s w x l = quietOff w x l := by
  rw [laneOff, quietOff, rdV_quiet s hops]

theorem virtAddr_quiet (s : State) {w : Wave} (hops : w.ops = []) (x : LXWord) (l : Nat) :
    virtAddr s w x l = rdP w x.sbase.toNat + BitVec.ofNat 64 (quietOff w x l) + x.imm24.signExtend 64 := by
  rw [virtAddr, laneOff_quiet s hops]
  rfl

theorem scratchOff_quiet (s : State) {w : Wave} (hops : w.ops = []) (x : LXWord) (l : Nat) :
    scratchOff s w x l = (rdS w x.sbase.toNat).toNat + quietOff w x l + x.imm24.toInt := by
  rw [scratchOff, laneOff_quiet s hops, Nat.cast_add]

/-- `n` registers from `r` on are recorded as operand words `j` on. -/
def Recorded (w : Wave) (r n j l : Nat) (o : LaneOp) : Prop := ∀ k, k < n → opData o (j + k) l = rdElem w (r + k) l

/-- `n` registers from `r` on are recorded as the first operand words. -/
def RecordedFirst (w : Wave) (r n l : Nat) (o : LaneOp) : Prop := ∀ k, k < n → opData o k l = rdElem w (r + k) l

section Words

variable {s : State} {w : Wave} {t : Strip} {f : Frag} (hS : Streams s w t f) (x : LXWord)
include hS

theorem memWord_goes {i : Instr} (n : Nat) (hred : isAccred i = false) (hexec : exec i s = memWord i x n s) :
    Goes s w t (f.m0 &&& rdM w f x.guard.toNat) x.stop i memLane
      (fun l => rdP w x.sbase.toNat + BitVec.ofNat 64 (quietOff w x l) + x.imm24.signExtend 64) (Recorded w x.vb.toNat n 0) :=
  goes_of_issueOp hS hred (hexec.trans (onLane_streams hS _ _)) (fun l hl => (get_laneAddrs hl).trans (virtAddr_quiet s hS.ops x l))
    (fun _ ho _ hl _ hk => opData_capture hS.ops hl ho hk)

theorem scratchWord_goes {i : Instr} (n : Nat) (hred : isAccred i = false) (hexec : exec i s = scratchWord i x n s) :
    Goes s w t (f.m0 &&& rdM w f x.guard.toNat) x.stop i memLane
      (fun l => BitVec.ofInt 64 ((rdS w x.sbase.toNat).toNat + quietOff w x l + x.imm24.toInt)) (Recorded w x.vb.toNat n 0) :=
  goes_of_issueOp hS hred (hexec.trans (onLane_streams hS _ _))
    (fun l hl => (get_laneAddrs hl).trans (congrArg (BitVec.ofInt 64) (scratchOff_quiet s hS.ops x l)))
    (fun _ ho _ hl _ hk => opData_capture hS.ops hl ho hk)

theorem recordedFirst_of_capture {act : Word} {r n l : Nat} {m : Map Word} {o : LaneOp} (ho : o.data = capture s w act r n 0 m)
    (hl : l ∈ lanesOf act) : RecordedFirst w r n l o := by
  intro k hk
  rw [← opData_capture hS.ops hl ho hk, Nat.zero_add]

theorem rayWord_goes {i : Instr} (hred : isAccred i = false) (hexec : exec i s = rayWord i x s) :
    Goes s w t (f.m0 &&& rdM w f x.guard.toNat) x.stop i rayLane (fun _ => rdP w x.sbase.toNat) (RecordedFirst w x.va.toNat 8) :=
  goes_of_issueOp hS hred (hexec.trans (onLane_streams hS _ _)) (fun _ hl => get_laneAddrs hl)
    (fun _ ho _ hl => recordedFirst_of_capture hS ho hl)

/-- Registers of va, then registers of vb. -/
theorem recorded_both {act all : Word} {ra a rb b j l : Nat} {m : Map Word} {o : LaneOp} (hfit : a ≤ j)
    (ho : o.data = capture s w act rb b j (capture s w all ra a 0 m)) (hl : l ∈ lanesOf act) (hall : l ∈ lanesOf all) :
    RecordedFirst w ra a l o ∧ Recorded w rb b j l o := by
  refine ⟨fun k hk => ?_, fun k hk => opData_capture hS.ops hl ho hk⟩
  rw [opData_capture_below (p := { o with data := capture s w all ra a 0 m }) hl ho rfl (by omega)]
  exact recordedFirst_of_capture hS rfl hall k hk

omit hS in
theorem mem_lanesOf_all {act : Word} {l : Nat} (hl : l ∈ lanesOf act) : l ∈ lanesOf 0xFFFFFFFF := by
  have hlt := lt_of_mem_lanesOf hl
  have hall : ∀ k, k < 32 → (0xFFFFFFFF : Word).getLsbD k = true := by decide
  exact List.mem_filter.2 ⟨List.mem_range.2 hlt, hall l hlt⟩

theorem texWord_goes {i : Instr} (all : Bool) (a b : Nat) (hred : isAccred i = false) (hexec : exec i s = texWord i x all a b s) :
    Goes s w t (f.m0 &&& rdM w f x.guard.toNat) x.stop i texLane (fun _ => rdP w x.sbase.toNat)
      (fun l o => RecordedFirst w x.va.toNat a l o ∧ Recorded w x.vb.toNat b a l o) := by
  refine goes_of_issueOp hS hred (hexec.trans (onLane_streams hS _ _)) (fun _ hl => get_laneAddrs hl) fun _ ho l hl =>
    recorded_both hS le_rfl ho hl ?_
  cases all
  · exact hl
  · exact mem_lanesOf_all hl

omit hS in
/-- A pair of scalar registers recorded as two operand words leaves the words before them. -/
theorem get_capturePair {act : Word} {r j k l : Nat} (m : Map Word) (hl : l < 32) (hk : k < j) :
    Tab.get 0 (capturePair w act r j m) (dataKey k l) = Tab.get 0 m (dataKey k l) := by
  have hlanes : ∀ l0 ∈ lanesOf act, l0 < 32 := fun l0 h => lt_of_mem_lanesOf h
  unfold capturePair
  generalize lanesOf act = lanes at hlanes
  induction lanes generalizing m with
  | nil => rfl
  | cons l0 rest ih =>
    have hlt := hlanes l0 List.mem_cons_self
    have hne : ∀ i, j ≤ i → dataKey k l ≠ dataKey i l0 := fun i hi h =>
      absurd ((dataKey_inj (by omega) (by omega)).1 h).1 (by omega)
    rw [List.foldl_cons, ih _ fun y hy => hlanes y (List.mem_cons_of_mem _ hy), Tab.get_set_ne _ _ _ (hne _ (by omega)),
      Tab.get_set_ne _ _ _ (hne _ le_rfl)]

theorem lyWord_goes {i : Instr} {n : Nat} (tex : Bool) (hfit : n ≤ 4) (hred : isAccred i = false) (hexec : exec i s = lyWord i x n tex s) :
    Goes s w t (f.m0 &&& rdM w f x.guard.toNat) x.stop i lyLane (fun _ => rdP w x.sbase.toNat)
      (fun l o => RecordedFirst w x.va.toNat 2 l o ∧ Recorded w x.vb.toNat n 2 l o) := by
  refine goes_of_issueOp hS hred (hexec.trans (onLane_streams hS _ _)) (fun _ hl => get_laneAddrs hl) fun o ho l hl => ?_
  cases tex with
  | false => exact recorded_both hS le_rfl ho hl hl
  | true =>
    generalize hd : capture s w (f.m0 &&& rdM w f x.guard.toNat) x.vb.toNat n 2
      (capture s w (f.m0 &&& rdM w f x.guard.toNat) x.va.toNat 2 0 []) = d at ho
    have hboth := recorded_both (o := { o with data := d }) hS le_rfl hd.symm hl hl
    have hdata : ∀ k, k < 6 → opData o k l = opData { o with data := d } k l := fun k hk => by
      rw [opData, ho]
      exact get_capturePair _ (lt_of_mem_lanesOf hl) hk
    exact ⟨fun k hk => (hdata k (by omega)).trans (hboth.1 k hk), fun k hk => (hdata (2 + k) (by omega)).trans (hboth.2 k hk)⟩

theorem accpeek_goes : Goes s w t (f.m0 &&& rdM w f x.guard.toNat) x.stop (.accpeek x) accLane
    (fun l => rdP w x.sbase.toNat + BitVec.ofNat 64 (quietOff w x l) + x.imm24.signExtend 64) (fun _ _ => True) := by
  have hexec : exec (.accpeek x) s = issueOp accLane s w x.stop
      (newOp w t (.accpeek x) (f.m0 &&& rdM w f x.guard.toNat) (laneAddrs (f.m0 &&& rdM w f x.guard.toNat) (virtAddr s w x)) []) := by
    rw [exec_accpeek, execAccpeek, onLane_streams hS]
  exact goes_of_issueOp hS rfl hexec (fun l hl => (get_laneAddrs hl).trans (virtAddr_quiet s hS.ops x l)) (fun _ _ _ _ => trivial)

theorem primemit_goes (hdraw : drawOf s w ≠ none) : Goes s w t (f.m0 &&& rdM w f x.guard.toNat) x.stop (.primemit x) primLane (fun _ => 0)
    (fun l o => RecordedFirst w x.va.toNat 9 l o ∧ Recorded w x.vb.toNat 6 9 l o) := by
  obtain ⟨d, hd⟩ := Option.ne_none_iff_exists'.1 hdraw
  have hexec : exec (.primemit x) s = issueOp primLane s w x.stop (newOp w t (.primemit x) (f.m0 &&& rdM w f x.guard.toNat) []
      (capture s w (f.m0 &&& rdM w f x.guard.toNat) x.vb.toNat 6 9 (capture s w (f.m0 &&& rdM w f x.guard.toNat) x.va.toNat 9 0 []))) := by
    rw [exec_primemit, execPrimemit, onLane_streams hS, hd]
  exact goes_of_issueOp hS rfl hexec (fun _ _ => rfl) fun _ ho l hl => recorded_both hS le_rfl ho hl hl

theorem trayput_goes (hin : x.aux.toNat < trayCountOf s w) : Goes s w t (f.m0 &&& rdM w f x.guard.toNat) x.stop (.trayput x) trayLane (fun _ => 0)
    (fun l o => RecordedFirst w x.va.toNat 1 l o ∧ Recorded w x.vb.toNat x.imm24.toNat 1 l o) := by
  have hexec : exec (.trayput x) s = issueOp trayLane s w x.stop (newOp w t (.trayput x) (f.m0 &&& rdM w f x.guard.toNat) []
      (capture s w (f.m0 &&& rdM w f x.guard.toNat) x.vb.toNat x.imm24.toNat 1
        (capture s w (f.m0 &&& rdM w f x.guard.toNat) x.va.toNat 1 0 []))) := by
    rw [exec_trayput, execTrayput, onLane_streams hS, if_neg (not_le.2 hin)]
  exact goes_of_issueOp hS rfl hexec (fun _ _ => rfl) fun _ ho l hl => recorded_both hS le_rfl ho hl hl

omit hS in
/-- Operands of which less is asked. -/
theorem Goes.weaken {act : Word} {stop : Bool} {i : Instr} {p : Performer} {addr : Nat → DWord} {data data' : Nat → LaneOp → Prop}
    (h : Goes s w t act stop i p addr data) (hd : ∀ l o, data l o → data' l o) : Goes s w t act stop i p addr data' := by
  obtain ⟨o, addrs, regs, ho, hrec, hperf⟩ := h
  exact ⟨o, addrs, regs, ho, fun l hl => ⟨(hrec l hl).1, hd l o (hrec l hl).2⟩, hperf⟩

end Words

/-- Settles O37: each word's operation from the addresses and registers that it captures. -/
theorem laneOperationsIssue : Obligations.LaneOperationsIssue := by
  intro s w t f hS x act off virt scratch fixedAddr vb va goes none_
  exact ⟨(memWord_goes hS x 0 rfl rfl).weaken fun _ _ _ => trivial, memWord_goes hS x _ rfl rfl, memWord_goes hS x _ rfl rfl,
    memWord_goes hS x _ rfl rfl, (memWord_goes hS x 0 rfl rfl).weaken fun _ _ _ => trivial,
    (scratchWord_goes hS x 0 rfl rfl).weaken fun _ _ _ => trivial, scratchWord_goes hS x _ rfl rfl, scratchWord_goes hS x _ rfl rfl,
    accpeek_goes hS x, rayWord_goes hS x rfl rfl, rayWord_goes hS x rfl rfl, rayWord_goes hS x rfl rfl,
    (texWord_goes hS x true 3 0 rfl rfl).weaken fun _ _ h => h.1, (texWord_goes hS x false 4 0 rfl rfl).weaken fun _ _ h => h.1,
    texWord_goes hS x false 3 4 rfl rfl, (texWord_goes hS x false 3 0 rfl rfl).weaken fun _ _ h => h.1,
    texWord_goes hS x false 3 4 rfl rfl, lyWord_goes hS x false le_rfl rfl rfl,
    (lyWord_goes hS x (n := 0) false (by decide) rfl rfl).weaken fun _ _ h => h.1, lyWord_goes hS x true le_rfl rfl rfl,
    (lyWord_goes hS x (n := 0) false (by decide) rfl rfl).weaken fun _ _ h => h.1, primemit_goes hS x, trayput_goes hS x⟩

end Sys2Proof.Machine
end

section
/-! PROOFS. Halo regions: `HALODECL`, `HALOPUSH`, `HALOEND` (R285 to R288). -/

namespace Sys2Proof.Machine

/-! ## Regions of a context -/

theorem ctxOf_modHalos {s : State} {ctx : Nat} {c : Ctx} (hc : ctxOf s ctx = some c) (g : Map Halo → Map Halo) :
    ctxOf (modHalos s ctx g) ctx = some { c with halos := g c.halos } := by
  rw [ctxOf] at hc
  rw [ctxOf, modHalos, Map.find_modify, if_pos rfl, hc, Option.map_some]

@[simp] theorem running_modHalos (s : State) (ctx : Nat) (g : Map Halo → Map Halo) : running (modHalos s ctx g) = running s := rfl

/-! ## `HALODECL` (R285, R288) -/

/-- A span of bytes within one line is read at once. -/
theorem sReadBytes_line {s t : State} {w : Wave} {f : Frag} {va n k fuel : Nat} {yes : State → List Byte → Out}
    (h : access s w.core w.slot (ctxIdOf s w.gid) w.priv (BitVec.ofNat 64 va).toNat n .read false = (t, .ok k)) (hn : 1 ≤ n)
    (hline : va % 128 + n ≤ 128) : sReadBytes (fuel + 2) s w f va n [] yes = yes t (loadBytes t w.core k n) := by
  have hmin : min n (128 - va % 128) = n := by omega
  rw [sReadBytes, if_neg (by omega)]
  dsimp only
  rw [hmin, sAccess_ok f _ h, Nat.sub_self, sReadBytes, if_pos rfl, List.nil_append]

section Declare

variable {s t u : State} {w : Wave} {f : Frag} {d a : SReg} {k k' r m : Nat} {map : List (Nat × Nat)} (hI : Issues s w f)
  (hal : (rdP w a.toNat).toNat % 64 = 0)
  (hread : access s w.core w.slot (ctxIdOf s w.gid) w.priv (rdP w a.toNat).toNat 64 .read false = (t, .ok k))
  (hr : ofBytes (loadBytes t w.core k 64) = r) (hvalid : haloValid r = true) (htiles : 1 ≤ bits r 143 128 * bits r 159 144)
  (hline : bits r 248 192 % 128 + bits r 143 128 * bits r 159 144 ≤ 128)
  (howners : access t w.core w.slot (ctxIdOf s w.gid) w.priv (BitVec.ofNat 64 (bits r 248 192)).toNat (bits r 143 128 * bits r 159 144) .read false
    = (u, .ok k'))
include hI hal hread hr hvalid htiles hline howners

/-- The owners are read; what is left is the check of the pages and of the lines. -/
theorem exec_halodecl_read {owners : List Nat} (hbytes : (loadBytes u w.core k' (bits r 143 128 * bits r 159 144)).map (·.toNat) = owners)
    (hin : ∀ o ∈ owners, o ≤ 95) (hmap : mapPages u w (haloPages (haloOf r owners [])) = some map) : exec (.halodecl d a) s =
      let keys := (haloLines (haloOf r owners map)).map (haloKey (haloOf r owners map))
      if keys.any (fun k => inA u k || (haloOwner u k).isSome) then answer u d 0xFFFFFFFE
      else if keys.any (fun k => lineSt u k == .migr) then blocked u w f .access
      else
        match Map.lowestFree (fun _ => false) 16 (((ctxOf u (ctxIdOf s w.gid)).map (·.halos)).getD []) 0 with
        | none => answer u d 0xFFFFFFFF
        | some n => answer (modHalos (recallLines u keys) (ctxIdOf s w.gid) (fun m => Map.insert m n (haloOf r owners map))) d n := by
  have hctx : ctxIdOf u w.gid = ctxIdOf s w.gid := (access_ctxIdOf howners _).trans (access_ctxIdOf hread _)
  have hfew : min 1024 (bits r 143 128 * bits r 159 144) = bits r 143 128 * bits r 159 144 := by omega
  have hsane : (!haloValid r || owners.any (fun o => decide (95 < o))) = false := by
    rw [hvalid, Bool.not_true, Bool.false_or, List.any_eq_false]
    exact fun o ho => by simpa using hin o ho
  rw [← access_ctxIdOf hread] at howners
  refine (onFrag_issues hI _).trans ((if_neg (not_not.2 hal)).trans ((sAccess_ok f _ hread).trans ?_))
  simp only [hr, hfew, sReadBytes_line howners htiles hline, hbytes, hsane, hmap, Bool.false_eq_true, if_false, hctx]
  rfl

/-- A region whose lines are free is declared. -/
theorem halodecl_declares {owners : List Nat} (hbytes : (loadBytes u w.core k' (bits r 143 128 * bits r 159 144)).map (·.toNat) = owners)
    (hin : ∀ o ∈ owners, o ≤ 95) (hmap : mapPages u w (haloPages (haloOf r owners [])) = some map)
    (hfree : ∀ x ∈ (haloLines (haloOf r owners map)).map (haloKey (haloOf r owners map)), inA u x = false ∧ haloOwner u x = none) (hset : Settled u)
    (hm : Map.lowestFree (fun _ => false) 16 (((ctxOf u (ctxIdOf s w.gid)).map (·.halos)).getD []) 0 = some m)
    (hctx : ctxOf u (ctxIdOf s w.gid) ≠ none) :
    ∃ v, AnswersIn (.halodecl d a) s v w f d (BitVec.ofNat 32 m)
      ∧ (ctxOf v (ctxIdOf s w.gid)).bind (fun c => Map.find c.halos m) = some (haloOf r owners map) ∧ v.mem = u.mem := by
  have hexec := exec_halodecl_read (d := d) hI hal hread hr hvalid htiles hline howners hbytes hin hmap
  dsimp only at hexec
  generalize (haloLines (haloOf r owners map)).map (haloKey (haloOf r owners map)) = keys at hexec hfree
  have hnone : ∀ x ∈ keys, (inA u x || (haloOwner u x).isSome) = false := fun x hx => by
    rw [(hfree x hx).1, (hfree x hx).2]
    rfl
  rw [if_neg (by rw [List.any_eq_true]; rintro ⟨x, hx, h⟩; rw [hnone x hx] at h; cases h),
    if_neg (by rw [List.any_eq_true]; rintro ⟨x, hx, h⟩; rw [(Bool.or_eq_false_iff.1 (opens_free hset (hnone x hx))).1] at h; cases h), hm] at hexec
  obtain ⟨c, hc⟩ := Option.ne_none_iff_exists'.1 hctx
  have hbeside : beside (recallLines u keys) = beside u := beside_recallLines fun line _ => silent_of_settled hset line
  have hc' : ctxOf (recallLines u keys) (ctxIdOf s w.gid) = some c := by
    rw [ctxOf, ctxs_of_apart (apart_of_beside hbeside)]
    exact hc
  have hrun : running (modHalos (recallLines u keys) (ctxIdOf s w.gid) fun y => Map.insert y m (haloOf r owners map)) = running s := by
    rw [running_modHalos, running_recallLines, running_of_access howners, running_of_access hread]
  refine ⟨_, answersIn_answer hexec (issues_of_running hrun hI) (cur_of_running hrun), ?_, (mem_of_beside hbeside : (recallLines u keys).mem = u.mem)⟩
  rw [ctxOf_modHalos hc', Option.bind_some]
  exact Map.find_insert_self ..

end Declare

/-! ## `HALOPUSH` (R287) -/

theorem toBytes_ofBytes (bs : List Byte) : toBytes bs.length (ofBytes bs) = bs := by
  induction bs with
  | nil => rfl
  | cons b rest ih =>
    have hb := b.isLt
    have hlow : BitVec.ofNat 8 (b.toNat + 256 * ofBytes rest) = b := BitVec.eq_of_toNat_eq (by rw [BitVec.toNat_ofNat]; omega)
    rw [List.length_cons, toBytes, ofBytes, hlow, show (b.toNat + 256 * ofBytes rest) / 256 = ofBytes rest by omega, ih]

theorem length_ownBytes (s : State) (core key n : Nat) : (ownBytes s core key n).length = n := by
  induction n generalizing key with
  | zero => rfl
  | succ n ih => exact congrArg (· + 1) (ih (key + 1))

/-- What a push carries of a line is the line's bytes. -/
theorem toBytes_pushed (s : State) (core line : Nat) :
    toBytes 128 (BitVec.ofNat 1024 (ofBytes (ownBytes s core line 128))).toNat = ownBytes s core line 128 := by
  have hlen := length_ownBytes s core line 128
  have hlt := ofBytes_lt (ownBytes s core line 128)
  rw [hlen] at hlt
  have hbytes := toBytes_ofBytes (ownBytes s core line 128)
  rw [hlen] at hbytes
  rw [show (256 : ℕ) = 2 ^ 8 from rfl, ← Nat.pow_mul, show 8 * 128 = 1024 from rfl] at hlt
  rw [BitVec.toNat_ofNat, Nat.mod_eq_of_lt hlt, hbytes]

theorem readMem_congr {m m' : List Host.Cell} {a n : Nat} (h : ∀ b, a ≤ b → b < a + n → Tab.get 0 m' b = Tab.get 0 m b) :
    readMem m' a n = readMem m a n := by
  induction n generalizing a with
  | zero => rfl
  | succ n ih => rw [readMem, readMem, h a le_rfl (by omega), ih fun b h1 h2 => h b (by omega) (by omega)]

/-- Lines written one after another, each with bytes of its own. -/
theorem readMem_linesWritten {bytes : Nat → List Byte} (hlen : ∀ l, (bytes l).length = 128) {lines : List Nat} (hal : ∀ l ∈ lines, l % 128 = 0)
    (m : List Host.Cell) {line : Nat} (hline : line ∈ lines) :
    readMem (lines.foldl (fun m l => writeMem m l (bytes l)) m) line 128 = bytes line := by
  induction lines using List.reverseRecOn with
  | nil => cases hline
  | append_singleton rest l ih =>
    rw [List.foldl_append, List.foldl_cons, List.foldl_nil]
    by_cases hl : line = l
    · subst hl
      have hread := readMem_writeMem (rest.foldl (fun m l => writeMem m l (bytes l)) m) line (bytes line)
      rwa [hlen] at hread
    · have hrest : line ∈ rest := (List.mem_append.1 hline).resolve_right fun h => hl (List.mem_singleton.1 h)
      have ha := hal line hline
      have hb := hal l (List.mem_append_right _ (List.mem_singleton_self l))
      rw [readMem_congr fun b h1 h2 => writeMem_outside _ _ _ _ (by rw [hlen]; omega)]
      exact ih (fun x hx => hal x (List.mem_append_left _ hx)) hrest

theorem haloDirtyLines_aligned (s : State) (core : Nat) : ∀ line ∈ haloDirtyLines s core, line % 128 = 0 := by
  unfold haloDirtyLines
  generalize s.coh.haloDirty = l
  induction l using List.reverseRecOn with
  | nil => exact fun line h => absurd h List.not_mem_nil
  | append_singleton l e ih =>
    rw [List.foldl_append, List.foldl_cons, List.foldl_nil]
    dsimp only
    split_ifs
    · exact ih
    · intro line hline
      rcases List.mem_append.1 hline with h | h
      · exact ih line h
      · rw [List.mem_singleton.1 h, lineOf]
        exact Nat.mul_mod_left ..

/-- A push that has no replica to wait for commits at once. -/
theorem startPush_alone {s : State} {core : Nat} {lines : List Nat} (hno : ∀ line ∈ lines, replicaCores s core line = []) (hp : pushing s core = false) :
    pushing (startPush s core lines) core = false
      ∧ (startPush s core lines).mem = lines.foldl (fun m l => writeMem m l (ownBytes s core l 128)) s.mem := by
  have hothers : ∀ p ∈ s.coh.pushes, (p.2.1 == core) = false := fun p hpush => Bool.eq_false_iff.2 (List.any_eq_false.1 hp p hpush)
  rw [startPush]
  dsimp only
  rw [if_pos]
  · constructor
    · rw [pushing, List.any_eq_false]
      intro p hpush
      have hne := (List.mem_filter.1 hpush).2
      simpa using hne
    · simp only [commitPush, List.filter_append]
      rw [List.filter_eq_nil_iff.2 fun p hpush => by simp [hothers p hpush], List.nil_append,
        List.filter_eq_self.2 fun p hpush => by obtain ⟨l, -, rfl⟩ := List.mem_map.1 hpush; exact beq_self_eq_true core, List.foldl_map]
      simp only [toBytes_pushed]
  · simp only [pushAcked, List.all_append, Bool.and_eq_true, List.all_eq_true, List.mem_map]
    refine ⟨fun p hpush => ?_, ?_⟩
    · simp [bne, hothers p hpush]
    · rintro _ ⟨l, hl, rfl⟩
      simp [hno l hl]

section Push

variable {s : State} {w : Wave} {f : Frag} {d a : SReg} (hI : Issues s w f) (hs : w.strips = []) (hp : pushing s w.core = false)
include hI hs hp

/-- The word's push has committed: it answers the number that it kept. -/
theorem exec_halopush_committed {k : Nat} (hw : f.wait = .haloPush k) : exec (.halopush d a) s = answer s d k := by
  refine (onFrag_issues hI _).trans ((if_neg (not_not.2 hs)).trans ?_)
  rw [if_neg (by rw [hp]; exact Bool.false_ne_true), hw]

/-- The word starts a push of the region's lines. -/
theorem exec_halopush_starts (hw : ∀ k, f.wait ≠ .haloPush k) : exec (.halopush d a) s =
    (haloRegion s w (rdS w a.toNat).toNat).elim (answer s d 0xFFFFFFFF) fun h =>
      let lines := (haloDirtyLines s w.core).filter (inHalo h)
      let t := startPush s w.core lines
      if pushing t w.core then blocked t w f (.haloPush lines.length) else answer t d lines.length := by
  refine (onFrag_issues hI _).trans ((if_neg (not_not.2 hs)).trans ?_)
  rw [if_neg (by rw [hp]; exact Bool.false_ne_true)]
  split
  · exact absurd ‹_› (hw _)
  · split <;> simp [*]

theorem halopush_pushes (hw : ∀ k, f.wait ≠ .haloPush k) {h : Halo} (hr : haloRegion s w (rdS w a.toNat).toNat = some h)
    (hno : ∀ line ∈ haloDirtyLines s w.core, replicaCores s w.core line = []) :
    ∃ t, AnswersIn (.halopush d a) s t w f d (BitVec.ofNat 32 ((haloDirtyLines s w.core).filter (inHalo h)).length)
      ∧ ∀ line ∈ (haloDirtyLines s w.core).filter (inHalo h), readMem t.mem line 128 = ownBytes s w.core line 128 := by
  have hexec := exec_halopush_starts (d := d) (a := a) hI hs hp hw
  have hal : ∀ line ∈ (haloDirtyLines s w.core).filter (inHalo h), line % 128 = 0 :=
    fun line hline => haloDirtyLines_aligned s w.core line (List.mem_filter.1 hline).1
  rw [hr, Option.elim_some] at hexec
  generalize hlines : (haloDirtyLines s w.core).filter (inHalo h) = lines at hexec hal ⊢
  obtain ⟨hdone, hmem⟩ := startPush_alone (lines := lines) (fun line hline => hno line (List.mem_filter.1 (hlines ▸ hline)).1) hp
  dsimp only at hexec
  rw [if_neg (by rw [hdone]; exact Bool.false_ne_true)] at hexec
  have hstill := still_startPush s w.core lines
  have hcur : (startPush s w.core lines).cur = s.cur := (congrArg State.cur hstill :)
  refine ⟨_, answersIn_answer hexec (issues_of_waves (congrArg State.waves hstill :) hcur hI) hcur, fun line hline => ?_⟩
  rw [hmem]
  exact readMem_linesWritten (fun l => length_ownBytes s w.core l 128) hal s.mem hline

end Push

/-! ## `HALOEND` (R288) -/

/-- Cells written one after another: each key has its listed value, every other its old one. -/
theorem get_cellsWritten {l : List Host.Cell} (h : Map.sorted l = true) (m : List Host.Cell) (k : Nat) :
    Tab.get 0 (l.foldl (fun m e => Tab.set 0 m e.1 e.2) m) k = (Map.find l k).getD (Tab.get 0 m k) := by
  induction l generalizing m with
  | nil => rfl
  | cons e rest ih =>
    obtain ⟨habove, hrest⟩ := (Map.sorted_cons _ _).1 h
    rw [List.foldl_cons, ih hrest]
    by_cases hkey : e.1 = k
    · have hlast : Map.find rest k = none := Map.find_above (hkey ▸ habove)
      have hfirst : Map.find (e :: rest) k = some e.2 := if_pos hkey
      rw [hlast, hfirst, ← hkey]
      exact Tab.get_set_self ..
    · have hother : Map.find (e :: rest) k = Map.find rest k := if_neg hkey
      rw [hother, Tab.get_set_ne _ _ _ (Ne.symm hkey)]

@[simp] theorem running_endHalo (s : State) (ctx n : Nat) (h : Halo) : running (endHalo s ctx n h) = running s :=
  (running_modHalos ..).trans (running_foldl _ frameDirty running_frameDirty s)

theorem ctxOf_endHalo {s : State} {ctx n : Nat} {h : Halo} {c : Ctx} (hc : ctxOf s ctx = some c) :
    ctxOf (endHalo s ctx n h) ctx = some { c with halos := Map.erase c.halos n } := by
  refine ctxOf_modHalos ?_ _
  have hctxs := ctxs_of_still
    (foldl_keeps still ((s.coh.haloDirty.filter fun e => inHalo h e.1).map fun e => lineOf e.1).eraseDups frameDirty still_frameDirty s)
  dsimp only [ctxOf]
  rw [hctxs]
  exact hc

/-- The region's unpushed bytes are in memory, and no others have come there. -/
theorem endHalo_mem {s : State} {ctx n : Nat} {h : Halo} (hsorted : Map.sorted s.coh.haloDirty = true) (k : Nat) :
    Tab.get 0 (endHalo s ctx n h).mem k = if inHalo h k then (Map.find s.coh.haloDirty k).getD (Tab.get 0 s.mem k) else Tab.get 0 s.mem k := by
  have hout := Map.find_filter s.coh.haloDirty (inHalo h) k
  have hmem := get_cellsWritten (Map.sorted_filter hsorted fun e => inHalo h e.1) s.mem k
  rw [hout] at hmem
  refine Eq.trans hmem ?_
  split <;> rfl

/-- The region's unpushed bytes are dropped, and no others. -/
theorem endHalo_haloDirty (s : State) (ctx n : Nat) (h : Halo) (k : Nat) :
    Map.find (endHalo s ctx n h).coh.haloDirty k = if inHalo h k then none else Map.find s.coh.haloDirty k := by
  refine (Map.find_filter s.coh.haloDirty (fun k => !inHalo h k) k).trans ?_
  cases inHalo h k <;> rfl

theorem endHalo_l1 {s : State} {ctx n : Nat} {h : Halo} {e : Nat × L1Line} (he : e ∈ (endHalo s ctx n h).coh.l1) : inHalo h (e.1 % 2 ^ 64) = false := by
  simpa using (List.mem_filter.1 he).2

section End

variable {s : State} {w : Wave} {f : Frag} {d a : SReg} (hI : Issues s w f)
include hI

theorem exec_haloend_none (hr : haloRegion s w (rdS w a.toNat).toNat = none) : exec (.haloend d a) s = answer s d 0xFFFFFFFF := by
  refine (onFrag_issues hI _).trans ?_
  dsimp only
  rw [hr]

theorem exec_haloend_ends {h : Halo} (hr : haloRegion s w (rdS w a.toNat).toNat = some h) (hp : ∀ p ∈ s.coh.pushes, inHalo h p.1 = false) :
    exec (.haloend d a) s = answer (endHalo s (ctxIdOf s w.gid) (rdS w a.toNat).toNat h) d 0 := by
  refine (onFrag_issues hI _).trans ?_
  dsimp only
  rw [hr]
  exact if_neg (by rw [List.any_eq_true]; rintro ⟨p, hpush, hin⟩; rw [hp p hpush] at hin; cases hin)

theorem haloend_ends {h : Halo} (hr : haloRegion s w (rdS w a.toNat).toNat = some h) (hp : ∀ p ∈ s.coh.pushes, inHalo h p.1 = false)
    (hsorted : Map.sorted s.coh.haloDirty = true) :
    ∃ t, AnswersIn (.haloend d a) s t w f d 0 ∧ (ctxOf t (ctxIdOf s w.gid)).bind (fun c => Map.find c.halos (rdS w a.toNat).toNat) = none
      ∧ (∀ k, inHalo h k = true → Tab.get 0 t.mem k = (Map.find s.coh.haloDirty k).getD (Tab.get 0 s.mem k) ∧ Map.find t.coh.haloDirty k = none)
      ∧ (∀ k, inHalo h k = false → Tab.get 0 t.mem k = Tab.get 0 s.mem k ∧ Map.find t.coh.haloDirty k = Map.find s.coh.haloDirty k)
      ∧ ∀ e ∈ t.coh.l1, inHalo h (e.1 % 2 ^ 64) = false := by
  obtain ⟨c, hc, -⟩ := Option.bind_eq_some_iff.1 hr
  have hrun := running_endHalo s (ctxIdOf s w.gid) (rdS w a.toNat).toNat h
  refine ⟨_, answersIn_answer (exec_haloend_ends hI hr hp) (issues_of_running hrun hI) (cur_of_running hrun), ?_, fun k hk => ⟨?_, ?_⟩,
    fun k hk => ⟨?_, ?_⟩, fun e he => endHalo_l1 he⟩
  · rw [ctxOf_endHalo hc]
    exact Map.find_erase_self ..
  · rw [endHalo_mem hsorted, hk]
    rfl
  · rw [endHalo_haloDirty, hk]
    rfl
  · rw [endHalo_mem hsorted, hk]
    rfl
  · rw [endHalo_haloDirty, hk]
    rfl

end End

end Sys2Proof.Machine
end

section
/-! PROOFS. Lines: `LCLAIM` (R284), and `CWB` and `CINV` (R265). -/

namespace Sys2Proof.Machine

/-! ## `LCLAIM` -/

/-- The line's bytes are 0, its fog marker is clear and its page's write-grant bit is set. -/
def Zeroed (t u : State) (key : Nat) : Prop :=
  (∀ b, Tab.get 0 u.mem b = if key ≤ b ∧ b < key + 128 then 0 else Tab.get 0 t.mem b) ∧ (dirOf u key).fog = false
    ∧ (key < 2 ^ 52 → Tab.get false u.vm.wgrant (key / 65536) = true)

theorem mem_grantNote (s : State) (key : Nat) : (grantNote s key).mem = s.mem := by
  unfold grantNote
  split_ifs <;> rfl

theorem wgrant_grantNote (s : State) {key : Nat} (h : key < 2 ^ 52) : Tab.get false (grantNote s key).vm.wgrant (key / 65536) = true := by
  rw [grantNote, if_neg (not_le.2 h)]
  exact Tab.get_set_self false s.vm.wgrant (key / 65536) true

theorem mem_storeHome (s : State) (key : Nat) (bs : List Byte) : (storeHome s key bs).mem = writeMem s.mem key bs := rfl
theorem wgrant_storeHome (s : State) (key : Nat) (bs : List Byte) : (storeHome s key bs).vm.wgrant = s.vm.wgrant := rfl
theorem dirOf_storeHome (s : State) (key : Nat) (bs : List Byte) (line : Nat) : dirOf (storeHome s key bs) line = dirOf s line := rfl
@[simp] theorem running_storeHome (s : State) (key : Nat) (bs : List Byte) : running (storeHome s key bs) = running s := rfl

theorem get_writeZeros (m : List Host.Cell) (key n b : Nat) :
    Tab.get 0 (writeMem m key (toBytes n 0)) b = if key ≤ b ∧ b < key + n then 0 else Tab.get 0 m b := by
  have hlen := toBytes_length n 0
  split_ifs with h
  · obtain ⟨i, rfl⟩ := Nat.exists_eq_add_of_le h.1
    rw [writeMem_inside _ _ _ i (by omega), getElem_toBytes, Nat.zero_div]
    rfl
  · exact writeMem_outside _ _ _ _ (by omega)

theorem reclaim_zeroed (s : State) (key : Nat) : Zeroed s (reclaim s key) key := by
  rw [Zeroed, reclaim, mem_storeHome, wgrant_storeHome, dirOf_storeHome, dirOf_setDir_self]
  refine ⟨fun b => ?_, rfl, wgrant_grantNote s⟩
  rw [← mem_grantNote s key]
  exact get_writeZeros ..

theorem zeroed_sealLine {s t : State} {key : Nat} (h : Zeroed s t key) (ctx line : Nat) (l : Leaf) : Zeroed s (sealLine t ctx line l) key := h

@[simp] theorem running_reclaim (s : State) (key : Nat) : running (reclaim s key) = running s := by
  rw [reclaim, running_storeHome, running_setDir, running_grantNote]

section Claim

variable {s : State} {w : Wave} {f : Frag} {c : Ctx} {d a : SReg} {l : Leaf} (hI : Issues s w f) (hc : ctxOf s (ctxIdOf s w.gid) = some c)
  (hp : w.priv = .s) (hal : (rdP w a.toNat).toNat % 128 = 0)
  (htr : Machine.translate s w.core (ctxIdOf s w.gid) .s (rdP w a.toNat).toNat .write = .ok l)
  (hlock : rangeLocked s w.core (ctxIdOf s w.gid) (rdP w a.toNat).toNat (leafKey l (rdP w a.toNat).toNat) 128 true = false)
  (ha : lineSt s (leafKey l (rdP w a.toNat).toNat) ≠ .a) (hm : lineSt s (leafKey l (rdP w a.toNat).toNat) ≠ .migr)
include hI hc hp hal htr hlock ha hm

/-- The operand names a line that the word may act on. -/
theorem exec_lclaim_open : exec (.lclaim d a) s =
    if !(dirOf s (leafKey l (rdP w a.toNat).toNat)).fog then sAccess s w f (rdP w a.toNat) 128 .look (fun t _ => answer t d 0)
    else if lineSt s (leafKey l (rdP w a.toNat).toNat) = .h then
      answer (sealLine (reclaim s (leafKey l (rdP w a.toNat).toNat)) (ctxIdOf s w.gid) (leafKey l (rdP w a.toNat).toNat) l) d 1
    else sAccessAs true s w f (rdP w a.toNat) 128 .update (fun t key => answer (reclaim t key) d 1) := by
  refine (onPriv_issues hI hp hc _).trans ((if_neg (not_not.2 hal)).trans ?_)
  dsimp only
  rw [hp, htr]
  dsimp only
  rw [hlock, if_neg Bool.false_ne_true, if_neg ha, if_neg hm]

theorem lclaim_halo (hfog : (dirOf s (leafKey l (rdP w a.toNat).toNat)).fog = true) (hh : lineSt s (leafKey l (rdP w a.toNat).toNat) = .h) :
    ∃ t, AnswersIn (.lclaim d a) s t w f d 1 ∧ Zeroed s t (leafKey l (rdP w a.toNat).toNat) := by
  have hexec := exec_lclaim_open (d := d) hI hc hp hal htr hlock ha hm
  rw [hfog, Bool.not_true, if_neg Bool.false_ne_true, if_pos hh] at hexec
  have hrun := (running_sealLine _ (ctxIdOf s w.gid) (leafKey l (rdP w a.toNat).toNat) l).trans (running_reclaim s (leafKey l (rdP w a.toNat).toNat))
  exact ⟨_, answersIn_answer hexec (issues_of_running hrun hI) (cur_of_running hrun), zeroed_sealLine (reclaim_zeroed ..) ..⟩

theorem lclaim_fog {t : State} {k : Nat} (hfog : (dirOf s (leafKey l (rdP w a.toNat).toNat)).fog = true)
    (hh : lineSt s (leafKey l (rdP w a.toNat).toNat) ≠ .h)
    (hacc : access s w.core w.slot (ctxIdOf s w.gid) .s (rdP w a.toNat).toNat 128 .update true = (t, .ok k)) :
    ∃ u, AnswersIn (.lclaim d a) s u w f d 1 ∧ Zeroed t u k := by
  have hexec := exec_lclaim_open (d := d) hI hc hp hal htr hlock ha hm
  rw [hfog, Bool.not_true, if_neg Bool.false_ne_true, if_neg hh, sAccessAs, hp, hacc] at hexec
  have hrun := (running_reclaim t k).trans (running_of_access hacc)
  exact ⟨_, answersIn_answer hexec (issues_of_running hrun hI) (cur_of_running hrun), reclaim_zeroed ..⟩

theorem lclaim_clear {t : State} {k : Nat} (hfog : (dirOf s (leafKey l (rdP w a.toNat).toNat)).fog = false)
    (hacc : access s w.core w.slot (ctxIdOf s w.gid) .s (rdP w a.toNat).toNat 128 .look false = (t, .ok k)) :
    AnswersIn (.lclaim d a) s t w f d 0 := by
  have hexec := exec_lclaim_open (d := d) hI hc hp hal htr hlock ha hm
  rw [← hp] at hacc
  rw [hfog, Bool.not_false, if_pos rfl, sAccess_ok f _ hacc] at hexec
  have hrun := running_of_access hacc
  exact answersIn_answer hexec (issues_of_running hrun hI) (cur_of_running hrun)

end Claim

/-! ## The lines of a range (R265) -/

/-- A page's place is a multiple of 64 KiB, so a line's address gives a line. -/
theorem leafKey_mod {l : Leaf} {va : Nat} (h : va % 128 = 0) : leafKey l va % 128 = 0 := by
  have hpa : leafPa l va % 128 = 0 := by
    rw [leafPa, ptePa]
    split_ifs <;> omega
  rw [leafKey, memKey]
  split_ifs <;> omega

theorem rangeLines_aligned {s : State} {c : Ctx} {a n line : Nat} (h : line ∈ rangeLines s c a n) : line % 128 = 0 := by
  rw [rangeLines] at h
  split_ifs at h
  · cases h
  · obtain ⟨j, -, hj⟩ := List.mem_filterMap.1 h
    dsimp only at hj
    split_ifs at hj
    obtain ⟨l, -, rfl⟩ := Option.map_eq_some_iff.1 hj
    exact leafKey_mod (Nat.mul_mod_left ..)

/-- A line with no transaction in progress, and in no accumulator, is not waited for. -/
theorem settled_ready {s : State} {line : Nat} (hal : line % 128 = 0) (ha : inA s line = false) (hset : settledLine s line = true) :
    (lineSt s line == .migr || lineWaits s line) = false := by
  have hline : lineOf line = line := by rw [lineOf]; omega
  have hstable : dirStable (dirOf s line) = true := (Bool.and_eq_true_iff.1 hset).1
  have hst : lineSt s line ≠ .migr := by
    intro h
    rw [lineSt, hline, ha, if_neg Bool.false_ne_true] at h
    split_ifs at h
    rw [dirStable, h] at hstable
    cases hstable
  rw [lineWaits, ha, hset, beq_eq_false_iff_ne.2 hst]
  rfl

section Words

variable {s : State} {w : Wave} {f : Frag} {c : Ctx} {d a : SReg} (hI : Issues s w f) (hc : ctxOf s (ctxIdOf s w.gid) = some c)
  (hn : (rdS w d.toNat).toNat < 2 ^ 24) (hs : w.strips = [])
include hI hc hn hs

/-- With no line to wait for, the words clean the lines one by one. -/
theorem cacheWord_cleans (inv : Bool)
    (hready : ∀ line ∈ rangeLines s c (rdP w a.toNat).toNat (rdS w d.toNat).toNat, inA s line = false → settledLine s line = true) :
    cacheWord inv d a s = actedWith (((rangeLines s c (rdP w a.toNat).toNat (rdS w d.toNat).toNat).filter fun line => !inA s line).foldl
      (fun t line => cleanLine t w.core line inv) s) (fun v => v) := by
  refine (onFrag_issues hI _).trans ((if_neg (not_le.2 hn)).trans ((if_neg (not_not.2 hs)).trans ?_))
  rw [hc]
  refine if_neg ?_
  rw [List.any_eq_true]
  rintro ⟨line, hline, h⟩
  obtain ⟨hrange, ha⟩ := List.mem_filter.1 hline
  have ha' : inA s line = false := by simpa using ha
  rw [settled_ready (rangeLines_aligned hrange) ha' (hready line hrange ha')] at h
  cases h

end Words

/-! ## Coherent lines -/

/-- All but the lines' entries and copies, the frames' entries, the write-grant bits and the marks of bytes changed outside. -/
def lineless (s : State) : State := { beside s with tamper := [] }

theorem lineless_of_beside {s t : State} (h : beside t = beside s) : lineless t = lineless s :=
  congrArg (fun u : State => { u with tamper := [] }) h

@[simp] theorem lineless_leaveLine (s : State) (core line : Nat) : lineless (leaveLine s core line) = lineless s := by
  unfold leaveLine
  dsimp only
  split
  · rfl
  · split_ifs <;> rfl

@[simp] theorem lineless_backLine (s : State) (line : Nat) : lineless (backLine s line) = lineless s := by
  have hput (t : State) : lineless (homePut t line) = lineless t := lineless_of_beside (beside_homePut t line)
  unfold backLine
  dsimp only
  split
  · split
    · rfl
    · split_ifs <;> exact hput _
  · split
    · rfl
    · split_ifs <;> exact hput _

/-- Cleaning a coherent line with no transaction in progress moves copies and marks only. -/
theorem lineless_cleanLine {s : State} {line : Nat} (hline : line < 2 ^ 64) (hhalo : haloOwner s line = none) (hq : Silent s line)
    (core : Nat) (inv : Bool) : lineless (cleanLine s core line inv) = lineless s := by
  rw [cleanLine, if_neg (not_le.2 hline), hhalo]
  dsimp only
  rw [settleLine_silent hq]
  split_ifs
  · rw [lineless_leaveLine, lineless_backLine]
  · exact lineless_backLine s line

theorem lineless_cleanLines {lines : List Nat} {s : State} (h : ∀ line ∈ lines, line < 2 ^ 64 ∧ haloOwner s line = none ∧ Silent s line)
    (core : Nat) (inv : Bool) : lineless (lines.foldl (fun t line => cleanLine t core line inv) s) = lineless s := by
  induction lines generalizing s with
  | nil => rfl
  | cons line rest ih =>
    obtain ⟨hline, hhalo, hq⟩ := h line List.mem_cons_self
    have hfirst := lineless_cleanLine hline hhalo hq core inv
    rw [List.foldl_cons, ih fun x hx => ?_, hfirst]
    obtain ⟨hx1, hx2, hx3⟩ := h x (List.mem_cons_of_mem _ hx)
    exact ⟨hx1, (haloOwner_of_ctxs (congrArg State.ctxs hfirst :) x).trans hx2, silent_of_msgs (congrArg (·.coh.msgs) hfirst :) hx3⟩

theorem silent_of_settledLine {s : State} {line : Nat} (h : settledLine s line = true) : Silent s line := by
  have hmsgs := List.all_eq_true.1 (Bool.and_eq_true_iff.1 h).2
  exact fun m hm => by simpa using hmsgs m hm

/-! ## A line of a non-coherent page -/

theorem get_hostWritten (h : HostLine) (m : List Host.Cell) (line n b : Nat) :
    Tab.get 0 ((List.range n).foldl
      (fun m j => if h.dirty.getLsbD j then Tab.set 0 m (line + j) (BitVec.ofNat 8 (h.data.toNat / 2 ^ (8 * j))) else m) m) b =
      if line ≤ b ∧ b < line + n ∧ h.dirty.getLsbD (b - line) = true then BitVec.ofNat 8 (h.data.toNat / 2 ^ (8 * (b - line)))
      else Tab.get 0 m b := by
  induction n with
  | zero => exact (if_neg (by omega)).symm
  | succ n ih =>
    rw [List.range_succ, List.foldl_append, List.foldl_cons, List.foldl_nil]
    by_cases hb : b = line + n
    · subst hb
      have hold : ¬(line ≤ line + n ∧ line + n < line + n ∧ h.dirty.getLsbD (line + n - line) = true) := by omega
      rw [if_neg hold] at ih
      rw [Nat.add_sub_cancel_left]
      split_ifs <;> simp_all
    · have hiff : (line ≤ b ∧ b < line + (n + 1) ∧ h.dirty.getLsbD (b - line) = true) ↔ line ≤ b ∧ b < line + n ∧ h.dirty.getLsbD (b - line) = true := by
        constructor <;> rintro ⟨h1, h2, h3⟩ <;> exact ⟨h1, by omega, h3⟩
      rw [if_congr hiff rfl rfl, ← ih]
      split_ifs
      · exact Tab.get_set_ne _ _ _ hb
      · rfl

theorem hostWriteBack_mem {s : State} {line : Nat} {h : HostLine} (hl : Map.find s.hostLines line = some h) (b : Nat) :
    Tab.get 0 (hostWriteBack s line).mem b =
      if line ≤ b ∧ b < line + 128 ∧ h.dirty.getLsbD (b - line) = true then BitVec.ofNat 8 (h.data.toNat / 2 ^ (8 * (b - line)))
      else Tab.get 0 s.mem b := by
  simp only [hostWriteBack, hl]
  exact get_hostWritten h s.mem line 128 b

theorem hostWriteBack_line {s : State} {line : Nat} {h : HostLine} (hl : Map.find s.hostLines line = some h) :
    Map.find (hostWriteBack s line).hostLines line = some { h with dirty := 0 } := by
  rw [hostWriteBack, hl]
  exact Map.find_insert_self ..

theorem hostDrop_line (s : State) (line : Nat) : Map.find (hostDrop s line).hostLines line = none := Map.find_erase_self ..

theorem mem_hostDrop (s : State) (line : Nat) : (hostDrop s line).mem = (hostWriteBack s line).mem := rfl

theorem cleanLine_host {s : State} {line : Nat} (h : 2 ^ 64 ≤ line) (core : Nat) (inv : Bool) :
    cleanLine s core line inv = if inv then hostDrop s line else hostWriteBack s line := if_pos h

end Sys2Proof.Machine
end

section
/-! PROOFS. O32: halo regions and lines. -/

namespace Sys2Proof.Machine

section Words

variable {s : State} {w : Wave} {f : Frag} {c : Ctx} {d a : SReg} (hI : Issues s w f) (hc : ctxOf s (ctxIdOf s w.gid) = some c)
  (hn : (rdS w d.toNat).toNat < 2 ^ 24) (hs : w.strips = [])
include hI hc hn hs

/-- Lines in A are passed over; of coherent ones only copies and marks move. -/
theorem cacheWord_coherent (inv : Bool) (hlines : ∀ l ∈ rangeLines s c (rdP w a.toNat).toNat (rdS w d.toNat).toNat,
      inA s l = true ∨ (l < 2 ^ 64 ∧ haloOwner s l = none ∧ settledLine s l = true)) :
    ∃ t, cacheWord inv d a s = actedWith t (fun v => v) ∧ Issues t w f ∧ t.cur = s.cur ∧ t.mem = s.mem := by
  have hopen : ∀ l ∈ rangeLines s c (rdP w a.toNat).toNat (rdS w d.toNat).toNat, inA s l = false →
      l < 2 ^ 64 ∧ haloOwner s l = none ∧ settledLine s l = true :=
    fun l hl ha => (hlines l hl).resolve_left (by rw [ha]; exact Bool.false_ne_true)
  have hview := lineless_cleanLines (s := s) (lines := (rangeLines s c (rdP w a.toNat).toNat (rdS w d.toNat).toNat).filter fun l => !inA s l)
    (fun l hl => by
      obtain ⟨hrange, ha⟩ := List.mem_filter.1 hl
      obtain ⟨hlow, hhalo, hset⟩ := hopen l hrange (by simpa using ha)
      exact ⟨hlow, hhalo, silent_of_settledLine hset⟩) w.core inv
  exact ⟨_, cacheWord_cleans hI hc hn hs inv fun l hl ha => (hopen l hl ha).2.2,
    issues_of_waves (congrArg State.waves hview :) (congrArg State.cur hview :) hI, (congrArg State.cur hview :), (congrArg State.mem hview :)⟩

/-- One line of a non-coherent page is written back, and by `CINV` dropped. -/
theorem cacheWord_host (inv : Bool) {l : Nat} (hl : rangeLines s c (rdP w a.toNat).toNat (rdS w d.toNat).toNat = [l]) (hhost : 2 ^ 64 ≤ l)
    (ha : inA s l = false) (hset : settledLine s l = true) :
    cacheWord inv d a s = actedWith (if inv then hostDrop s l else hostWriteBack s l) (fun v => v) := by
  have hcleans := cacheWord_cleans (a := a) hI hc hn hs inv fun x hx _ => by
    rw [hl, List.mem_singleton] at hx
    exact hx ▸ hset
  rwa [hl, List.filter_cons_of_pos (by rw [ha]; rfl), List.filter_nil, List.foldl_cons, List.foldl_nil, cleanLine_host hhost] at hcleans

end Words

/-- Settles O32: the halo words and `LCLAIM` by their meanings where nothing waits, `CWB` and `CINV` by what cleaning a line leaves. -/
theorem haloAndLineWords : Obligations.HaloAndLineWords := by
  refine ⟨fun s w f hI d a => ⟨?_, ?_, ?_, ?_, ?_⟩, fun s w f c hI hc d a => ⟨?_, ?_⟩⟩
  · intro t k u k' map m va hal hread r tiles hvalid htiles hline howners owners hin hmap h keys hfree hset hm hctx
    exact halodecl_declares hI hal hread rfl hvalid htiles hline howners rfl hin hmap hfree hset hm hctx
  · intro hs hp hw
    refine ⟨fun hr => ?_, fun h hr hno => halopush_pushes hI hs hp hw hr hno⟩
    have hexec := exec_halopush_starts (d := d) (a := a) hI hs hp hw
    rw [hr] at hexec
    exact answersIn_answer hexec hI rfl
  · exact fun k hs hp hw => answersIn_answer (exec_halopush_committed hI hs hp hw) hI rfl
  · exact fun hr => answersIn_answer (exec_haloend_none hI hr) hI rfl
  · exact fun h hr hp hsorted => haloend_ends hI hr hp hsorted
  · intro l hp hal htr key hlock ha hm
    exact ⟨fun hfog hh => lclaim_halo hI hc hp hal htr hlock ha hm hfog hh,
      fun t k hfog hh hacc => lclaim_fog hI hc hp hal htr hlock ha hm hfog hh hacc,
      fun t k hfog hacc => lclaim_clear hI hc hp hal htr hlock ha hm hfog hacc⟩
  · intro n lines quiet hn hs
    constructor
    · intro hlines
      obtain ⟨t, ht, hIt, hcurt, hmemt⟩ := cacheWord_coherent hI hc hn hs false hlines
      obtain ⟨u, hu, hIu, hcuru, hmemu⟩ := cacheWord_coherent hI hc hn hs true hlines
      exact ⟨t, u, scalarDoneAt_acts ht hIt hcurt, scalarDoneAt_acts hu hIu hcuru, hmemt, hmemu⟩
    · intro l h hl hhost ha hset hline wrote
      have hback := running_hostWriteBack s l
      have hdrop := running_hostDrop s l
      refine ⟨hostWriteBack s l, hostDrop s l,
        scalarDoneAt_acts (cacheWord_host hI hc hn hs false hl hhost ha hset) (issues_of_running hback hI) (cur_of_running hback),
        scalarDoneAt_acts (cacheWord_host hI hc hn hs true hl hhost ha hset) (issues_of_running hdrop hI) (cur_of_running hdrop),
        hostWriteBack_mem hline, ?_, hostWriteBack_line hline, hostDrop_line s l⟩
      intro b
      rw [mem_hostDrop]
      exact hostWriteBack_mem hline b

end Sys2Proof.Machine
end
